-- ==== Sys2Proof/Word.lean ====
section
/-! DEFINITION. The words of the block: the 32-bit register word (R8), the 512-bit table entry (R55), the byte, and the
sparse map that holds registers, tables and per-index state. -/

namespace Sys2Proof

/-- A 32-bit register word (R8). -/
abbrev Word := BitVec 32

/-- A table entry of sixteen words (R55), word 0 least significant. -/
abbrev Entry := BitVec 512

/-- A byte. -/
abbrev Byte := BitVec 8

/-- A sparse map: pairs of key and value in strictly rising keys, none equal to what an unlisted key holds. -/
abbrev SMap (α : Type) := List (Nat × α)

end Sys2Proof
end

