-- ==== Sys2Proof/Syntax.lean ====
section
/-! DEFINITION. The commands of the block: one constructor of `Instr` for every row of spec/opcode_table.json, with the
operands a row needs: the function and the word of a register write, the instance concerned, and, for an event, what
the outside supplies. A `t` operand is the instant, in cycles of the time-base island since reset. -/

namespace Sys2Proof

/-- The physical function that makes an access: 0 is PF0 (secure), 1 is PF1 (non-secure) (R472). -/
abbrev Fn := Fin 2

/-- One codeword read in error (R39, R42): its section, its place (R45: 0 SRAM table, 1 cell buffer, 2 DRAM, 3 CXL window, 4 bulk
bus), its location (a table entry, the 16-byte unit of a cell buffer, of DRAM or of the CXL window, a bus transfer), the bits of the
144-bit codeword that are wrong, and for a table its window page, TID and entry index. -/
structure EccFinding where
  sect : Fin 11
  place : Fin 5
  idx : Word
  err : BitVec 144
  page : Nat
  tid : Nat
  entry : Nat
  deriving DecidableEq, Repr

/-- One event the correlator finds in a trace (R442): kind (1 reflective, 2 loss, 3 break), distance in m, size in 0.01 dB. -/
structure TraceEvent where
  kind : Fin 4
  dist : BitVec 17
  size : BitVec 16
  deriving DecidableEq, Repr

/-- What a poll of a module reads (R443). -/
structure ModuleData where
  temp : BitVec 16
  vcc : BitVec 16
  bias : BitVec 16
  txp : BitVec 16
  rxp : BitVec 16
  flags : BitVec 16
  deriving DecidableEq, Repr


/-- One delimiter match of a search (R129, R130): the instant of its last bit after the start Sk of the downstream frame whose map
grants the burst, in 1/64 ns, its differing bits, whether the header that follows checks, and the header's ONU-ID. -/
structure DelimMatch where
  at_ : Int
  errs : Nat
  hec : Bool
  onu : Nat
  deriving DecidableEq, Repr

/-- What the decoder finds next in an allocation interval (R137): an XGEM frame with its port, key index, last-fragment
flag, payload as it arrived and position in the burst's payload (R97, R138), an idle frame, a header whose HEC fails, a header that
runs past the interval, or an uncorrectable codeword. -/
inductive UsItem where
  | frame (id : BitVec 16) (key : Fin 4) (last : Bool) (data : List Byte) (pos : Nat)
  | idle
  | badHec
  | pastEnd
  | uncorrectable
  deriving DecidableEq, Repr

/-- One allocation interval: its buffer-occupancy report (none where its CRC fails or it was discarded) and its items. -/
structure UsInterval where
  dbru : Option (BitVec 24)
  items : List UsItem
  deriving DecidableEq, Repr

/-- The PLOAMu message of a burst (R136, R205): whether its MIC checks, whether the sequencer consumes it (R148), and its
48 bytes. -/
structure UsPloam where
  micOk : Bool
  consumed : Bool
  msg : List Byte
  deriving DecidableEq, Repr

/-- What the decoder counts over a burst (R135, R84): codewords, those corrected, symbols decoded and corrected,
uncorrectable codewords, codeword bits and corrected bits. -/
structure DecodeStats where
  cw : Nat
  corrCw : Nat
  sym : Nat
  corr : Nat
  uncorr : Nat
  bits : Nat
  berr : Nat
  deriving DecidableEq, Repr

/-- A cooperative-transport message as it parses (R182): no report, or a report's entries, each a flow identifier, the
instant Th in ns and a byte count, none where an entry cannot be parsed. -/
inductive CtiMsg where
  | other
  | report (entries : List (Option (Word × Nat × Nat)))
  deriving DecidableEq, Repr


/-- One allocation of a MAP message (R409): Alloc-ID, bytes, DBRu and PLOAMu flags. -/
structure MapAlloc where
  id : BitVec 14
  bytes : BitVec 16
  dbru : Bool
  ploam : Bool
  deriving DecidableEq, Repr

/-- The structures of a MAP message that form one burst (R125): ONU-ID, burst profile, first guard instant and length in
time units, and allocations. -/
structure MapBurst where
  onu : BitVec 10
  prof : Fin 16
  start : Nat
  size : Nat
  allocs : List MapAlloc
  deriving DecidableEq, Repr

/-- A MAP message (R409): port, superframe counter, the PSBd timestamp of the frame (seconds, nanoseconds, 1/64 ns and epoch), part,
LAST, and its bursts. -/
structure MapMsg where
  port : Byte
  sfc : Nat
  sec : BitVec 48
  ns : BitVec 30
  frac : BitVec 6
  epoch : BitVec 16
  part : Fin 3
  last : Bool
  bursts : List MapBurst
  deriving DecidableEq, Repr

/-- A ligature frame as a lane receives it (R407, R409): bytes 8 to 15 of the frame, whether all its codewords decode, the 32 bytes of
the payload header, and the MAP messages after it. -/
structure LigFrame where
  hdr : List Byte
  rs : Bool
  head : List Byte
  maps : List MapMsg
  deriving DecidableEq, Repr

/-- The two alignment words that confirm a position, and the lane's own number in them (R408). -/
structure AlignWords where
  word : BitVec 64
  confirm : BitVec 64
  logical : Fin 4
  deriving DecidableEq, Repr

/-- Four consecutive alignment words of a lane (R408). -/
structure LaneWords where
  lane : Fin 4
  w0 : BitVec 64
  w1 : BitVec 64
  w2 : BitVec 64
  w3 : BitVec 64
  deriving DecidableEq, Repr

/-- A refresh interval of a pseudo-channel ends (R336), at an instant. -/
structure RefreshTick where
  pc : Fin 64
  t : Nat
  deriving DecidableEq, Repr

/-- The instant of a Rest entry, and whether WAKE_N is low at its end (R462). -/
structure RestEntry where
  wakeN : Bool
  t : Nat
  deriving DecidableEq, Repr

/-- Items of the checkpoint image (R421): register words, table entries, keys by slot, and by time base its offset from the
reference port's time base in ns with its epoch; TERMS. -/
structure CkData where
  regs : List (Nat × Word) := []
  tabs : List (Nat × Entry) := []
  keys : List (Nat × Nat) := []
  times : List (Nat × Int × Nat) := []
  terms : Nat := 0
  deriving DecidableEq, Repr

/-- A delta (R420): DSEQ, GEN, whether it reads well, its items, and the length of its body. -/
structure CkDelta where
  dseq : Nat
  gen : Nat
  good : Bool
  len : Nat := 0
  data : CkData
  deriving DecidableEq, Repr

/-- A slot (R420): whether a commit record stands in it (0 none, 1 valid, 2 invalid), GEN, the image's CRC good, poison in it,
its keys unwrap, the image, and its deltas in DSEQ order. -/
structure CkSlot where
  record : Fin 3
  gen : Nat
  crcGood : Bool := true
  poison : Bool := false
  unwraps : Bool := true
  data : CkData
  deltas : List CkDelta := []
  deriving DecidableEq, Repr

/-- A slot as a restore reads it from the shared memory (R420, R423): the 64 bytes of its commit record, whether the image's CRC is
good, whether any of it is poisoned, whether its keys unwrap, the image, and the deltas. -/
structure CkRead where
  record : List Byte
  crcGood : Bool
  poison : Bool
  unwraps : Bool
  data : CkData
  deltas : List CkDelta
  deriving DecidableEq, Repr

/-- An output that is read back (R499): TXDIS, BRST_RST_N, RSSI_TRIG and MON_SEL of a port (0 to 3), FAULT_N, and the enables
of the rails. -/
inductive Pin where
  | port (n : Fin 48) (p : Fin 4)
  | faultN
  | pwrEn (i : Fin 3)
  deriving DecidableEq, Repr

/-- One command of the block. -/
inductive Instr where
  /-- REGISTER_WRITE (R53): A write to a register that has no row of its own stores the value, commits or stages it, or refuses it under R54 and R522. -/
  | registerWrite (fn : Fn) (addr : BitVec 28) (w : Word) (t : Nat)
  /-- ACCESS_ERROR (R47): An access to an unmapped address, or of the wrong size or alignment, reads 0 or writes nothing, raises ADDR_UNMAPPED and latches DV_ACC_ERR. -/
  | accessError (fn : Fn) (addr : BitVec 28) (size : Nat) (wr : Bool)
  /-- PAGE_LOCK (R52): A write of 1 to PAGE_LOCK.LOCK locks the RWL fields of the page until a reset releases them. -/
  | pageLock (fn : Fn) (page : BitVec 12)
  /-- WORLD_CHANGE (R474): A write of PAGE_WORLD.SEC moves the page and its event delivery to the other world at one instant. -/
  | worldChange (fn : Fn) (page : BitVec 12) (sec : Bool)
  /-- ENGINE_ENABLE (R50): Writing PAGE_CTRL.EN to 1 starts the engine. -/
  | engineEnable (fn : Fn) (page : BitVec 12) (w : Word)
  /-- ENGINE_DISABLE (R50): Writing PAGE_CTRL.EN to 0 stops the engine at once, discarding and counting its work in hand. -/
  | engineDisable (fn : Fn) (page : BitVec 12) (w : Word)
  /-- QUIESCE (R50): Writing PAGE_CTRL.QUIESCE to 1 makes the engine accept no new work. -/
  | quiesce (fn : Fn) (page : BitVec 12) (w : Word)
  /-- QUIESCED (R49): A quiescing engine finishes its work in hand and sets PAGE_STATUS.QUIESCED. -/
  | quiesced (page : BitVec 12)
  /-- ERST (R492): PAGE_CTRL.ERST resets one engine: work in hand is discarded, state machines reset, and configuration and counters are kept. -/
  | erst (fn : Fn) (page : BitVec 12) (w : Word)
  /-- EVT_PEND_CLEAR (R61): A write of 1 to EVT_PEND bits clears the pending sources that allow it and can resend the MSI-X message of a vector that is still asserted. -/
  | evtPendClear (fn : Fn) (page : BitVec 12) (w : Word)
  /-- EVT_FORCE (R61): A write of 1 to EVT_FORCE sets the PEND bit and propagates it as a real occurrence would. -/
  | evtForce (fn : Fn) (page : BitVec 12) (w : Word)
  /-- MSIX_GAP_EXPIRY (R64): When EV_VEC_CFG.GAP has passed since the last message, a held-back message is sent if the vector is still asserted. -/
  | msixGapExpiry (fn : Fn) (vec : Fin 512)
  /-- TBL_READ (R56): The READ command copies the entry at INDEX into TBL_DATA. -/
  | tblRead (fn : Fn) (page : BitVec 12) (w : Word)
  /-- TBL_WRITE (R56): The WRITE command writes TBL_DATA to the entry at INDEX, under the rules of the table's chapter. -/
  | tblWrite (fn : Fn) (page : BitVec 12) (w : Word)
  /-- TBL_INSERT (R56): The INSERT command places a new entry by key, with relocations where the table has them, and returns its index. -/
  | tblInsert (fn : Fn) (page : BitVec 12) (w : Word)
  /-- TBL_DELETE (R56): The DELETE command empties the entry located by index or by key. -/
  | tblDelete (fn : Fn) (page : BitVec 12) (w : Word)
  /-- TBL_CDEL (R56): The CDEL command empties the entry only when the compared word matches. -/
  | tblCdel (fn : Fn) (page : BitVec 12) (w : Word)
  /-- TBL_CAS (R56): The CAS command writes the entry only when the compared word matches. -/
  | tblCas (fn : Fn) (page : BitVec 12) (w : Word)
  /-- TBL_FIND (R56): The FIND command locates an entry by key and copies it into TBL_DATA. -/
  | tblFind (fn : Fn) (page : BitVec 12) (w : Word)
  /-- BAD_OP (R57): A table command with an OP of 8 to 15, or one not defined for the table, ends at once with BAD_OP. -/
  | badOp (fn : Fn) (page : BitVec 12) (w : Word)
  /-- TBL_OVR (R59): A write to the window while BUSY has no effect and sets OVR. -/
  | tblOvr (fn : Fn) (page : BitVec 12)
  /-- CNT_SNAP (R121): Writing SNAP copies every counter of the page into its snapshot. -/
  | cntSnap (fn : Fn) (page : BitVec 12) (w : Word)
  /-- CNT_CLR (R121): Writing CLR zeroes the counters and the snapshot of the page, after any snapshot taken in the same write. -/
  | cntClr (fn : Fn) (page : BitVec 12) (w : Word)
  /-- PITCH_MEASURE (R30): The pitch monitor updates DV_PITCHn.CUR and WORST every 1 µs. -/
  | pitchMeasure (sect : Fin 11) (ps : BitVec 12) (stretched : Bool)
  /-- PITCH_SLOW (R25): A section whose pitch has been worse than PITCH_FLOOR for longer than 1 µs raises PITCH_SLOW. -/
  | pitchSlow (sect : Fin 11)
  /-- CLR_WORST (R31): Writing DV_PITCH_CFG.CLR_WORST clears WORST in every DV_PITCHn. -/
  | clrWorst (fn : Fn) (w : Word)
  /-- AVS_ENABLE (R26): Writing DV_AVS_CTRL.EN from 0 to 1 reads the rail voltage over AVS as the starting value of v. -/
  | avsEnable (fn : Fn) (w : Word)
  /-- AVS_LOOP (R26): Every INTERVAL the AVS controller compares the largest pitch of the running sections with TARGET and raises or lowers v. -/
  | avsLoop
  /-- AVS_TRANSACTION_END (R28): An AVS transaction ends acknowledged, updating VREQ, or unacknowledged, to be repeated at the next interval. -/
  | avsTransactionEnd (acked : Bool) (mv : BitVec 12)
  /-- DIDT_EPISODE (R29): The di/dt governor stretches the handshakes of the sections whose current is rising. -/
  | didtEpisode (sects : BitVec 11) (dur : BitVec 16)
  /-- DIDT_LIMIT (R449): At the end of an episode longer than REPORT µs, DIDT_LIMIT is raised, at most once per second. -/
  | didtLimit (t : Nat)
  /-- SRAM_PATROL (R44): Every SCRUB_H hours the patrol reads every on-chip SRAM codeword and rewrites any corrected one. -/
  | sramPatrol (found : List EccFinding)
  /-- ECC_CE_RATE (R45): At the end of each second, a section whose corrected count rose by more than CE_RATE raises ECC_CE_RATE. -/
  | eccCeRate
  /-- CLR_CNT (R45): Writing DV_ECC_LAST_UE.CLR_CNT clears every DV_ECC_CEn and DV_ECC_UEn. -/
  | clrCnt (fn : Fn) (w : Word)
  /-- LANE_ENABLE (R70): Writing PAGE_CTRL.EN to 1 on a lane page starts blind bring-up by locking the lane PLL. -/
  | laneEnable (fn : Fn) (lane : Fin 140) (w : Word)
  /-- PLL_LOCK (R70): On PLL lock, READY is set and the lane proceeds to termination detection, or to BURST on a PRX page. -/
  | pllLock (lane : Fin 140)
  /-- PLL_LOCK_TIMEOUT (R70): A PLL not locked within 1 ms sets FAULT and leaves the lane in DISABLED. -/
  | pllLockTimeout (lane : Fin 140)
  /-- TERMINATION_DETECT (R88): Far-end termination detection ends found, starting transmission, or absent, raising LN_OPEN and holding the lane in idle. -/
  | terminationDetect (lane : Fin 140) (found : Bool)
  /-- TERMINATION_RETRY (R70): Every 100 ms the termination detection of an open lane is repeated. -/
  | terminationRetry (lane : Fin 140)
  /-- SIGDET (R70): Receive signal detection starts CDR lock and adaptation from the family's defaults. -/
  | sigdet (lane : Fin 140)
  /-- ADAPT_SETTLED (R70): When CDR lock is reached and adaptation settles, the receiver proceeds to PCS lock. -/
  | adaptSettled (lane : Fin 140)
  /-- ADAPT_TIMEOUT (R70): Adaptation not settled within its limit adds to RESTARTS and repeats step 5 from the defaults. -/
  | adaptTimeout (lane : Fin 140)
  /-- PCS_LOCK (R70): PCS lock, in either polarity, brings the lane to LOCKED and applies polarity and lane-order corrections. -/
  | pcsLock (lane : Fin 140) (inverted : Bool) (position : Fin 16)
  /-- PCS_LOCK_TIMEOUT (R70): PCS lock not reached within 1 ms returns the receiver to step 5. -/
  | pcsLockTimeout (lane : Fin 140)
  /-- LOCK_LOSS (R71): A LOCKED receiver that loses CDR or PCS lock for more than 1 µs returns to step 5 from its last values. -/
  | lockLoss (lane : Fin 140)
  /-- ADAPT_RESTART (R71): Writing LN_ADAPT.RESTART sends the receiver to step 5 from the defaults at once. -/
  | adaptRestart (fn : Fn) (lane : Fin 140) (w : Word)
  /-- CLR_ADAPT (R89): Writing LN_ADAPT.CLR_ADAPT zeroes RESTARTS and FAST_FAIL. -/
  | clrAdapt (fn : Fn) (lane : Fin 140) (w : Word)
  /-- IDLE_REQUEST (R73): Writing LN_IDLE.REQ to 1 asks the transmitter to enter electrical idle at the end of the packet or frame in progress. -/
  | idleRequest (fn : Fn) (lane : Fin 140) (w : Word)
  /-- IDLE_ENTRY (R73): At the end of the packet or frame in progress, the transmitter enters electrical idle. -/
  | idleEntry (lane : Fin 140)
  /-- IDLE_EXIT (R74): Writing LN_IDLE.REQ to 0 makes the transmitter send a breath, then fill for POST, then data. -/
  | idleExit (fn : Fn) (lane : Fin 140) (w : Word)
  /-- BREATH_RX (R75): A receiver whose far end went idle takes the fast path on a breath, from its frozen equaliser values. -/
  | breathRx (lane : Fin 140)
  /-- FAST_PATH_FAIL (R75): A fast path with no marker within 512 UI, or no lock in time, adds to FAST_FAIL and runs step 5. -/
  | fastPathFail (lane : Fin 140)
  /-- SIGNAL_LOSS (R76): A ULN or LGL receiver that loses signal freezes and enters IDLE when IDLE_OK = 1, or raises LN_LOS after 1 µs. -/
  | signalLoss (lane : Fin 140)
  /-- IDLE_STALE (R76): Signal absent for longer than STALE discards the frozen values and raises LN_LOS. -/
  | idleStale (lane : Fin 140)
  /-- PRBS_MODE_TEST (R81): Writing LN_PRBS_CTRL.MODE = 1 asks the lane to enter test mode at the end of the packet or frame in progress. -/
  | prbsModeTest (fn : Fn) (lane : Fin 140) (w : Word)
  /-- TEST_ENTRY (R81): At the end of the packet or frame in progress, the lane stops carrying data and runs the pattern generator and checker. -/
  | testEntry (lane : Fin 140)
  /-- PRBS_MODE_SERVICE (R84): Writing MODE = 2 on a PRX lane makes its counters take burst-quality inputs. -/
  | prbsModeService (fn : Fn) (lane : Fin 140) (w : Word)
  /-- PRBS_MODE_OFF (R81): Writing MODE = 0 leaves test mode, returning a receiver to step 6 or to BURST and a PTX lane to drone. -/
  | prbsModeOff (fn : Fn) (lane : Fin 140) (w : Word)
  /-- PRBS_SYNC (R82): After 64 error-free bits the checker declares SYNC, in the polarity that synchronises. -/
  | prbsSync (lane : Fin 140) (rx : List Bool)
  /-- PRBS_SYNC_LOSS (R82): 128 or more errors in 1,024 bits drop SYNC, add to LOSS and restart seeding. -/
  | prbsSyncLoss (lane : Fin 140) (bits : Nat) (berr : Nat) (serr : Nat)
  /-- PRBS_SAT (R83): When a counter reaches 2^48 − 1, all three counters stop and SAT becomes 1. -/
  | prbsSat (lane : Fin 140) (bits : Nat) (berr : Nat) (serr : Nat)
  /-- PRBS_SNAPSHOT (R83): A read of LN_PRBS_BITS_LO copies all three counters into a snapshot. -/
  | prbsSnapshot (fn : Fn) (lane : Fin 140) (bits : Nat) (berr : Nat) (serr : Nat)
  /-- PRBS_CLR (R83): Writing LN_PRBS_CTRL.CLR zeroes the counters, LOSS, SAT and the snapshot. -/
  | prbsClr (fn : Fn) (lane : Fin 140) (w : Word)
  /-- PRBS_INJ (R85): Writing LN_PRBS_CTRL.INJ corrupts one bit or symbol of the generator output. -/
  | prbsInj (fn : Fn) (lane : Fin 140) (w : Word)
  /-- PRX_POLARITY_FIX (R86): After 4 consecutive bursts whose delimiter matches only in the complement, the PRX lane applies the inverted polarity. -/
  | prxPolarityFix (port : Fin 48)
  /-- FRAME_BOUNDARY (R111): At each frame boundary the engine sends the PSBd, measures e against the target and sets the correction of the next frame. -/
  | frameBoundary (port : Fin 48) (t : Nat)
  /-- PLOAM_SELECT (R101): At −10 µs the engine selects the frame's PLOAM messages in order and fixes every ONU's key slot. -/
  | ploamSelect (port : Fin 48)
  /-- HEADER_ASSEMBLE (R92): At −2 µs the FS header is assembled from HLend, the sealed or reduced map and the selected PLOAM messages. -/
  | headerAssemble (port : Fin 48)
  /-- CODEWORD_FILL (R96): At each codeword instant the framer takes the whole XGEM frames present and fills the rest with drone, counting late fill. -/
  | codewordFill (port : Fin 48) (cw : Fin 627) (present : Nat)
  /-- KEY_LOAD (R98): A key WRITE with LOAD = 1 stores the key in the slot that is not ACTIVE and sets NEXT_VALID. -/
  | keyLoad (fn : Fn) (port : Fin 48) (w : Word)
  /-- KEY_SCHED (R99): A key WRITE with SCHED = 1 schedules a switch of ACTIVE at SW_SFC, or is refused with DENIED. -/
  | keySched (fn : Fn) (port : Fin 48) (w : Word)
  /-- KEY_DELETE (R98): DELETE on the key table empties both slots and clears ACTIVE, NEXT_VALID and PEND. -/
  | keyDelete (fn : Fn) (port : Fin 48) (w : Word)
  /-- LZ_START_WRITE (R107): A write of PE_LZ_START commits at once, starts a notice, is staged for a pending close, or is refused, by zone state. -/
  | lzStartWrite (fn : Fn) (port : Fin 48) (w : Word)
  /-- LZ_OPENED (R107): At the notice target the zone opens, or the new start commits, and LZ_OPENED is raised on opening. -/
  | lzOpened (port : Fin 48)
  /-- LZ_CLOSED (R108): At the close target the zone is absent, LZ_CLOSED is raised and HOLD starts counting. -/
  | lzClosed (port : Fin 48)
  /-- REALIGN (R115): Writing PE_FB_CTRL.REALIGN stops ramping and schedules a realignment at frame K with REALIGN_NOTICE, or is refused. -/
  | realign (fn : Fn) (port : Fin 48)
  /-- REALIGN_APPLY (R115): At frame K the engine shortens frame K − 1 or inserts drone so that frame K starts on its target. -/
  | realignApply (port : Fin 48)
  /-- SFC_OFS_WRITE (R116): A write of PE_SFC_OFS_HI commits both words and moves the frame targets. -/
  | sfcOfsWrite (fn : Fn) (port : Fin 48) (w : Word)
  /-- PE_FIRST_FRAME (R117): After enable, and after a qualified FSYNC edge with SRC = 1, the engine starts its first frame on the first target at least 10 µs ahead. -/
  | peFirstFrame (port : Fin 48) (t : Nat)
  /-- BRST_RST_PULSE (R128): BRST_RST_N is driven low for W from Tp − LEAD of each burst window, or once for each serial-number, ranging or probe window. -/
  | brstRstPulse (port : Fin 48)
  /-- BURST_WINDOW_END (R133): Each burst window ends with exactly one disposition from signal presence, delimiter search and header check. -/
  | burstWindowEnd (port : Fin 48) (signal : Bool) (found : List DelimMatch) (complement : Bool) (t : Nat)
  /-- BURST_DECODE (R135): A received burst's codewords are decoded and its XGEM frames delineated, looked up, decrypted and reassembled. -/
  | burstDecode (port : Fin 48) (stats : DecodeStats) (intervals : List UsInterval) (ploam : Option UsPloam)
  /-- REASM_TIMEOUT (R139): A partial packet held for FR frames without continuation is discarded and counted in REASM_DROP. -/
  | reasmTimeout (port : Fin 48) (id : BitVec 16)
  /-- BURST_SCORE (R141): Within 2 µs of a burst's last bit its score is completed and delivered to margin steering, the record and the service counters. -/
  | burstScore (port : Fin 48) (bip : Nat) (t : Nat)
  /-- GUARD_LIGHT (R134): A guard interval in which SIGDET is high for at least 2 ns adds one to GUARD_LIGHT. -/
  | guardLight (port : Fin 48)
  /-- RSSI_TRIG (R142): RSSI_TRIG is driven high for a qualifying burst of the chosen terminal. -/
  | rssiTrig (port : Fin 48)
  /-- RSSI_SKIP (R142): A selection with no qualifying burst within PER frames is skipped and counted. -/
  | rssiSkip (port : Fin 48)
  /-- RSSI_FETCH (R443): The module's receive-power reading is fetched RSSI_WAIT after the trigger and stored if the burst was received. -/
  | rssiFetch (port : Fin 48) (reading : BitVec 16) (late : Bool)
  /-- SN_WINDOW (R149): Every SN_PER the sequencer requests a quiet window with a broadcast serial-number grant and Burst_Profile messages. -/
  | snWindow (port : Fin 48)
  /-- SN_RESPONSE (R152): An accepted Serial_Number_ONU response is handled by its list and context state. -/
  | snResponse (port : Fin 48) (sn : BitVec 64) (x : Nat) (msg : List Byte) (t : Nat)
  /-- RANGING_RESPONSE (R153): A Registration response gives RTD and EqD, and Ranging_Time is sent or the context is freed. -/
  | rangingResponse (port : Fin 48) (ctx : Fin 512) (rtd : Nat) (msg : List Byte)
  /-- RNG_FAIL (R148): A terminal not found in RNG_TRIES opened ranging windows is sent to FREE. -/
  | rngFail (port : Fin 48) (ctx : Fin 512)
  /-- LEVEL_QUERY_TIMEOUT (R155): No LEVEL_REPLY within 8 frames sends the query again, or after the third query sets the level to 1. -/
  | levelQueryTimeout (port : Fin 48) (ctx : Fin 512)
  /-- LEVEL_REPLY (R155): A LEVEL_REPLY sets the level and starts LEVEL_SET in 3 consecutive frames. -/
  | levelReply (port : Fin 48) (ctx : Fin 512) (level : Byte) (ext : Bool)
  /-- LEVEL_LIMIT (R155): When 32 frames pass before LEVEL_SET is sent, the level becomes 1. -/
  | levelLimit (port : Fin 48) (ctx : Fin 512)
  /-- ACT_DONE (R148): An ended exchange, with a zone-free frame sent when needed, moves the context to AUTH_HOLD and raises ACT_DONE. -/
  | actDone (port : Fin 48) (ctx : Fin 512) (t : Nat)
  /-- AUTH_PASS (R162): PE_AUTH with PASS moves a context in AUTH_HOLD to OPERATION. -/
  | authPass (fn : Fn) (port : Fin 48) (ctx : Fin 512)
  /-- AUTH_FAIL (R162): PE_AUTH with FAIL sends a context in AUTH_HOLD to FREE. -/
  | authFail (fn : Fn) (port : Fin 48) (ctx : Fin 512)
  /-- AUTH_TIMEOUT (R148): A context left in AUTH_HOLD for AUTH_TMO goes to FREE and counts in AUTH_FAIL. -/
  | authTimeout (port : Fin 48) (ctx : Fin 512) (t : Nat)
  /-- ONU_LOST (R159): After LOB_N consecutive bad windows the context goes to LOST and ONU_LOST is raised. -/
  | onuLost (port : Fin 48) (ctx : Fin 512) (t : Nat)
  /-- PROBE_GRANT (R159): Every 8 frames a LOST context is granted a ranging probe centred on its stored RTD. -/
  | probeGrant (port : Fin 48) (ctx : Fin 512)
  /-- LOST_EXPIRED (R159): A context in LOST for LOST_HOLD goes to FREE with Deactivate_ONU-ID. -/
  | lostExpired (port : Fin 48) (ctx : Fin 512) (t : Nat)
  /-- DEACT (R160): The DEACT command deactivates a context, frees it and deletes its keys. -/
  | deact (fn : Fn) (port : Fin 48) (ctx : Fin 512)
  /-- RERANGE (R160): The RERANGE command ranges a ranged context again and sends its new EqD. -/
  | rerange (fn : Fn) (port : Fin 48) (ctx : Fin 512)
  /-- BCAST_ADJ (R160): The BCAST_ADJ command adds the rounded PE_RNG_ADJ to every ranged EqD and broadcasts a relative Ranging_Time. -/
  | bcastAdj (fn : Fn) (port : Fin 48)
  /-- MAP_BUILD (R165): At Sj − BUILD the slice snapshots its tables, updates buckets and runs the phases and layout for each port. -/
  | mapBuild (slice : Fin 6)
  /-- MAP_SEAL (R165): A port's map is sealed at the end of its build and its margin recorded. -/
  | mapSeal (port : Fin 48) (margin : Nat)
  /-- MAP_STALE (R185): A map not sealed at Sj − 20 µs is replaced by a reduced map, and MAP_STALE is raised. -/
  | mapStale (port : Fin 48)
  /-- HINT_RX (R183): A delivered cooperative hint is discarded or counted, or queued against its target frame. -/
  | hintRx (port : Fin 48) (t : Nat)
  /-- HINT_CNT_CLR (R189): Writing GS_CFG.CLR zeroes GS_HINT_NOKEY and GS_HINT_BAD. -/
  | hintCntClr (fn : Fn) (slice : Fin 6) (w : Word)
  /-- ROBUST_MOVE (R196): DOWN_N consecutive bursts below LOW_TH move the context one rung down, or post advice. -/
  | robustMove (port : Fin 48) (ctx : Fin 512)
  /-- FAST_MOVE (R197): An up count reaching UP_K moves the context one rung up into probation, or posts advice. -/
  | fastMove (port : Fin 48) (ctx : Fin 512)
  /-- PROBATION_END (R198): Probation ends after PROB superframes. -/
  | probationEnd (port : Fin 48) (ctx : Fin 512)
  /-- FLAP_BUCKET (R201): Every 10 minutes the flap window advances by one bucket. -/
  | flapBucket (port : Fin 48)
  /-- PIN_EXPIRY (R201): A pin ends after PIN_HOLD hours, clearing the window and the up count. -/
  | pinExpiry (port : Fin 48) (ctx : Fin 512) (t : Nat)
  /-- SET_RUNG (R202): The SET_RUNG command sets the context's rung and clears NOLAD, the pin, probation, counts and accumulator. -/
  | setRung (fn : Fn) (port : Fin 48) (w : Word)
  /-- UNPIN (R202): The UNPIN command ends the context's pin. -/
  | unpin (fn : Fn) (port : Fin 48) (w : Word)
  /-- CLR_FLAP (R202): The CLR_FLAP command empties the flap window without ending a pin. -/
  | clrFlap (fn : Fn) (port : Fin 48) (w : Word)
  /-- LZ_ELIG_SET (R206): An on-count reaching LZ_K sets ELIG. -/
  | lzEligSet (port : Fin 48)
  /-- BUCKET_UPDATE (R212): Every 1 µs each node, queue and policer bucket gains its rate up to its depth. -/
  | bucketUpdate
  /-- TM_ENQUEUE (R223): A packet offered to a queue passes the existence, tail, early-drop and buffer checks in order, or is dropped. -/
  | tmEnqueue (t : Nat)
  /-- TM_DEQUEUE (R214): On a request from a port engine or uplink MAC, the tree selects a packet by state, priority and DWRR and charges its buckets. -/
  | tmDequeue (uplink : Bool) (n : Fin 48) (t : Nat)
  /-- TM_DROP_RATE (R225): At the end of each second, a tree whose drops exceed THR raises TM_DROP_RATE. -/
  | tmDropRate
  /-- FLUSH_DQ (R228): The FLUSH_DQ command drops every packet of a downstream queue. -/
  | flushDq (fn : Fn) (queue : BitVec 16)
  /-- FLUSH_UQ (R228): The FLUSH_UQ command drops every packet of an uplink queue. -/
  | flushUq (fn : Fn) (queue : BitVec 16)
  /-- FLUSH_DONE (R228): A flush ends, clearing BUSY. -/
  | flushDone
  /-- RATE_WRITE (R235): A write of TE_TB_RATE_HI commits the rate from the next island cycle, or is refused with REJ. -/
  | rateWrite (fn : Fn) (tb : Fin 8) (w : Word) (t : Nat)
  /-- TB_SNAPSHOT (R236): A read of TE_TB_SEC_LO copies seconds, nanoseconds, fraction and epoch into the snapshot. -/
  | tbSnapshot (fn : Fn) (tb : Fin 8) (t : Nat)
  /-- STEP_ABS (R238): The STEP_ABS command loads TE_TB_SET now or at a PPS edge, or is refused or slewed by state and mode. -/
  | stepAbs (fn : Fn) (tb : Fin 8) (w : Word) (t : Nat)
  /-- STEP_REL (R238): The STEP_REL command adds TE_TB_OFS, or is refused or slewed by state and mode. -/
  | stepRel (fn : Fn) (tb : Fin 8) (w : Word) (t : Nat)
  /-- RESTEP_ABS (R239): The RESTEP_ABS command re-steps to TE_TB_SET, raising the epoch and notifying the dependent engines. -/
  | restepAbs (fn : Fn) (tb : Fin 8) (w : Word) (t : Nat)
  /-- RESTEP_REL (R239): The RESTEP_REL command re-steps by TE_TB_OFS, raising the epoch and notifying the dependent engines. -/
  | restepRel (fn : Fn) (tb : Fin 8) (w : Word) (t : Nat)
  /-- CANCEL (R241): The CANCEL command discards a held correction and clears PEND. -/
  | cancel (fn : Fn) (tb : Fin 8) (w : Word)
  /-- HELD_CORRECTION_TIMEOUT (R241): A held correction with no qualified edge within 2 s is discarded with REJ. -/
  | heldCorrectionTimeout (tb : Fin 8) (t : Nat)
  /-- SLEW_DONE (R240): The slew ends when SLEW_REM reaches 0. -/
  | slewDone (tb : Fin 8) (t : Nat)
  /-- TRIG_ARM (R244): Writing ARM to a trigger or the alarm arms it, firing on the next cycle with LATE if already reached. -/
  | trigArm (fn : Fn) (tb : Fin 8) (k : Fin 3) (w : Word) (t : Nat)
  /-- TRIGGER_FIRE (R244): An armed trigger whose instant is reached clears ARM, sets FIRED and raises TB_ALARM. -/
  | triggerFire (tb : Fin 8) (k : Fin 2) (t : Nat)
  /-- ALARM_FIRE (R244): An armed alarm fires when T reaches its full-width time. -/
  | alarmFire (tb : Fin 8) (t : Nat)
  /-- PPS_EDGE (R249): A PPS input edge is qualified or counted as a glitch, timestamped, compared for jumps and applies any held correction. -/
  | ppsEdge (k : Fin 2) (longHigh : Bool) (t : Nat)
  /-- PPS_IN_LOSS (R249): No qualified edge for 1.5 s raises the input's loss. -/
  | ppsInLoss (k : Fin 2) (t : Nat)
  /-- FSYNC_EDGE (R250): A FSYNC_IN edge is qualified or discarded, timestamped on all time bases and passed to the port engines. -/
  | fsyncEdge (t : Nat)
  /-- FSYNC_LOSS (R250): No qualified FSYNC edge for 1.5 expected periods raises FSYNC_LOSS, and engines extrapolate. -/
  | fsyncLoss (t : Nat)
  /-- REFCLK_LOSS (R247): A reference absent or off frequency for 10 µs is lost, with the effects of R503. -/
  | refclkLoss (ref : Fin 3)
  /-- REFCLK_RETURN (R247): A lost reference that is present again clears its loss event. -/
  | refclkReturn (ref : Fin 3)
  /-- RETURN (R248): Writing TE_REF_CTRL.RETURN moves the time-base island back to REFCLK_PON when present. -/
  | ret (fn : Fn) (w : Word)
  /-- PPS_OUT (R251): PPS_OUTm rises at each whole second of the selected time base less its offset, for WIDTH. -/
  | ppsOut (m : Fin 2) (t : Nat)
  /-- CLR_1STEP (R254): Writing TE_TOD_CFG.CLR_1STEP zeroes TE_1STEP_SKIP. -/
  | clr1step (fn : Fn) (w : Word)
  /-- CONFIG_CHANGE (R258): GT_CTRL.CONFIG_CHANGE submits the administrative list, fixing its start instant, or is refused. -/
  | configChange (fn : Fn) (list : Fin 64) (w : Word) (t : Nat)
  /-- GT_CANCEL (R258): GT_CTRL.CANCEL discards a pending list. -/
  | gtCancel (fn : Fn) (list : Fin 64) (w : Word) (t : Nat)
  /-- GT_LIST_START (R260): At the start instant the submitted list becomes operational, and the copy back to table 0 starts. -/
  | gtListStart (list : Fin 64) (t : Nat)
  /-- GT_COPY_DONE (R260): The copy of the operational list into table 0 ends and COPY clears. -/
  | gtCopyDone (list : Fin 64)
  /-- GT_DISABLE (R261): Writing GT_CTRL.EN from 1 to 0 opens every class and discards the pending and operational lists. -/
  | gtDisable (fn : Fn) (list : Fin 64) (w : Word) (t : Nat)
  /-- GT_ENTRY_CHANGE (R257): At the end of each entry's duration, or a cycle start, the next gate state takes effect. -/
  | gtEntryChange (list : Fin 64) (t : Nat)
  /-- GT_OVERSIZE (R264): An oversize head packet held for HOLD_LIMIT cycle starts is dropped and counted. -/
  | gtOversize (list : Fin 64) (queue : Nat) (t : Nat)
  /-- HIST_CLOSE (R271): Every PERIOD ms all histograms close and their records are written to the histogram ring, raising TM_HIST_READY. -/
  | histClose (t : Nat)
  /-- LAT_CLR (R274): Writing TM_LAT_CFG.CLR zeroes EPOCH_SKIP and HIST_CARRY. -/
  | latClr (fn : Fn) (w : Word)
  /-- LOOKUP_PASS (R275): A completed packet passes CTI recognition, classification, learning, forwarding and its policer in one pipe. -/
  | lookupPass (cti : CtiMsg) (t : Nat)
  /-- LEARN (R291): A queued learn request inserts the source address, or counts in LEARN_DROP or LIMIT_DROP. -/
  | learn (t : Nat)
  /-- MAC_MOVE_STORM (R293): At the end of each second, a source with moves above MOVE_THR raises MAC_MOVE_STORM and can be frozen. -/
  | macMoveStorm (t : Nat)
  /-- FREEZE_EXPIRY (R293): A frozen source resumes learning after FREEZE seconds. -/
  | freezeExpiry (src : Fin 64) (t : Nat)
  /-- HASH_PRESSURE (R304): A table whose stash or relocation condition has held for RESEED_HOLD sets PRESS. -/
  | hashPressure (tbl : Fin 3) (t : Nat)
  /-- RESEED_START (R305): LK_RSD_CTRL.START starts a reseed of table TID, or is refused with REJ. -/
  | reseedStart (fn : Fn) (w : Word) (t : Nat)
  /-- RESEED_AUTO (R305): With AUTO = 1 a table under pressure starts its reseed once no reseed runs and MIN_GAP has passed. -/
  | reseedAuto (tbl : Fin 3) (t : Nat)
  /-- RESEED_DONE (R306): When the migration cursor passes the last index, the old seed retires and RESEED_DONE is raised. -/
  | reseedDone (t : Nat)
  /-- REBUILD (R297): Writing LK_PFX_CTRL.REBUILD rebuilds the prefix length filter into a shadow copy. -/
  | rebuild (fn : Fn) (w : Word)
  /-- REBUILD_DONE (R297): The rebuilt filter replaces the live copy at one instant. -/
  | rebuildDone
  /-- ALLOC (R314): ALLOC takes k buffers from a pool under quota and reserve, or fails at once with NOBUF. -/
  | alloc (pool : Fin 16) (k : Nat) (charge : Fin 128) (issuer : Fin 128) (t : Nat)
  /-- SHARE (R314): SHARE sets REFCNT and the new FINISHER of a head buffer. -/
  | share (h : Nat) (n : Nat) (f : Fin 128) (issuer : Fin 128)
  /-- RELEASE (R314): RELEASE lowers REFCNT and sends a LAST notice to the FINISHER when it reaches 1. -/
  | release (h : Nat) (issuer : Fin 128)
  /-- FREE (R314): FREE returns all buffers of a packet to its pool, writing the poison pattern. -/
  | free (h : Nat) (issuer : Fin 128)
  /-- CACHE_REFILL (R320): The head cache is refilled from the free list when it holds fewer than 32 pointers. -/
  | cacheRefill (pool : Fin 16)
  /-- BP_REBUILD (R322): The REBUILD command rescans a pool and re-links its free buffers. -/
  | bpRebuild (fn : Fn) (pool : Fin 16)
  /-- BP_REBUILD_DONE (R322): A REBUILD ends, setting FREE to the count found and clearing BROKEN. -/
  | bpRebuildDone
  /-- CLR_MIN (R322): The CLR_MIN command sets MIN to FREE. -/
  | clrMin (fn : Fn) (pool : Fin 16)
  /-- POOL_ENABLE (R323): Writing BP_POOL_CFGp.EN from 0 to 1 starts threading the pool's buffers into its list. -/
  | poolEnable (fn : Fn) (pool : Fin 16) (w : Word)
  /-- POOL_INIT_DONE (R323): Threading ends and INIT clears. -/
  | poolInitDone (pool : Fin 16)
  /-- DRAM_REQUEST (R331): A request is accepted into its port's queue, or stalls or is discarded when the queue is full. -/
  | dramRequest (port : Fin 12) (sec : Bool) (addr : BitVec 34) (len : Nat) (data : Option (List Byte)) (packet : Option Nat) (t : Nat)
  /-- DRAM_COMPLETE (R329): A request completes, updating REQS, MAXLAT and LATE. -/
  | dramComplete (pc : Fin 64) (unready : List (Fin 12 × Fin 512)) (found : List EccFinding) (t : Nat)
  /-- URGENCY_RAISE (R329): A request's urgency rises as its age passes 50, 75 and 100 % of TARGET. -/
  | urgencyRaise (port : Fin 12) (k : Fin 512) (t : Nat)
  /-- REFRESH_INTERVAL (R336): At each refresh interval a pseudo-channel's debt rises, forcing a refresh at D = 8. -/
  | refreshInterval (tick : RefreshTick)
  /-- TEMP_SENSE (R335): Every 32 µs each stack's temperature sets its refresh rate and throttle. -/
  | tempSense (stack : Fin 2) (temp : Byte) (t : Nat)
  /-- GO (R340): DM_FREQ_CTRL.GO starts a frequency change to TARGET, defers it behind training, or is refused. -/
  | go (fn : Fn) (w : Word) (t : Nat)
  /-- FREQ_ABANDON (R341): A deferred change still waiting 2 ms after the request abandons the training step and starts. -/
  | freqAbandon (t : Nat)
  /-- DM_FREQ_DONE (R340): A frequency change ends with CUR set and service resumed, or returns with FAIL. -/
  | dmFreqDone (fail : Fin 7) (pc : Fin 64) (dur : BitVec 16)
  /-- INIT1 (R343): DM_FREQ_CTRL.INIT1 changes to F1, trains it, and returns to F0. -/
  | init1 (fn : Fn) (w : Word) (t : Nat)
  /-- TRAIN_START (R342): DM_TRAIN_CTRL.START runs the selected training steps in order. -/
  | trainStart (fn : Fn) (w : Word)
  /-- TRAIN_STEP_DONE (R343): A completed training step saves its values to retention and can set the point's VALID. -/
  | trainStepDone
  /-- DM_TRAIN_FAIL (R342): A training step failing its tries clears VALID, sets FAULT for the point in use and raises DM_TRAIN_FAIL. -/
  | dmTrainFail (pc : Fin 64)
  /-- TRAIN_TRACK (R342): Every PERIOD ms tracking step 5 re-checks read and write centres. -/
  | trainTrack
  /-- DRAM_SCRUB (R344): The patrol reads every DRAM codeword once per PERIOD_H hours and rewrites corrected ones. -/
  | dramScrub (n : Nat) (found : List EccFinding)
  /-- PAR_RETRY (R345): A parity error reported by a stack retries the command up to 3 times, then poisons it. -/
  | parRetry (port : Fin 12) (k : Fin 512) (tries : Nat) (failed : Bool)
  /-- RING_DOORBELL (R352): A host write of PIDX to a host-to-device ring's doorbell makes new slots available. -/
  | ringDoorbell (fn : Fn) (ring : Fin 244) (w : Option Word) (slots : List (List Byte))
  /-- RING_CIDX_WRITE (R352): A host write of CIDX on a device-to-host ring frees slots and can deassert its vector. -/
  | ringCidxWrite (fn : Fn) (ring : Fin 244) (w : Word)
  /-- INJECT (R355): An INJECT slot is enqueued directly at its destination, or completed with an error status. -/
  | inject (t : Nat)
  /-- FLR (R358): A Function Level Reset disables the function's rings and resets its MSI-X table and PBA. -/
  | flr (fn : Fn)
  /-- HX_LINK_DOWN (R358): The host link leaving L0 raises HX_LINK_DOWN and stops ring traffic. -/
  | hxLinkDown
  /-- HX_LINK_UP (R358): The host link returning to L0 resumes ring traffic. -/
  | hxLinkUp (cxl : Bool) (width : BitVec 4) (speed : BitVec 4)
  /-- RING_DMA_ERROR (R359): A failed ring DMA read stops the ring and raises HX_RING_OVF with CAUSE 1. -/
  | ringDmaError (ring : Fin 244)
  /-- HX_LEVEL_SET (R360): A write of HX_LEVEL.DRV sets CUR and raises HX_LEVEL_SET on a change. -/
  | hxLevelSet (fn : Fn) (w : Word)
  /-- MX_ENABLE (R363): Writing MX PAGE_CTRL.EN starts link training, device discovery and decoder programming. -/
  | mxEnable (fn : Fn) (w : Word)
  /-- MX_LINK_UP (R363): Memory port bring-up ends with SIZE and LINK.UP set, or FAULT when no device is found. -/
  | mxLinkUp (found : Bool) (gib : BitVec 11) (switch : Bool) (width : BitVec 5)
  /-- MX_LINK_DOWN (R369): The memory link going down poisons reads and discards writes. -/
  | mxLinkDown
  /-- MX_RETRAIN (R369): Every 100 ms the memory port retrains a down link. -/
  | mxRetrain
  /-- APERTURE_ACCESS (R370): A BAR4 access reaches the CXL data space at the aperture base, correcting or merging codewords. -/
  | apertureAccess (fn : Fn) (off : BitVec 28) (write : Option (List Byte)) (n : Nat) (found : List EccFinding) (poison : Bool)
  /-- MX_IDE_FAIL (R368): An IDE integrity failure stops all MX traffic and raises MX_IDE_FAIL. -/
  | mxIdeFail
  /-- RESUME (R368): Writing MX_IDE_CTRL.RESUME after a re-key resumes MX traffic. -/
  | resume (fn : Fn) (w : Word) (rekeyed : Bool)
  /-- DOE_GO (R374): MX_DOE_CTRL.GO sends the DOE message written. -/
  | doeGo (fn : Fn) (w : Word)
  /-- DOE_REPLY (R374): The DOE reply arrives or 1 s passes, ending the exchange. -/
  | doeReply (reply : Option (List Word))
  /-- UL_RX_PACKET (R376): A packet received on a lane group is discarded for FCS, length or MAC Control, or passed on. -/
  | ulRxPacket (group : Fin 16) (bytes : List Byte) (fecCorr fecBad : Nat) (t : Nat)
  /-- UL_LINK_DOWN (R377): A lane group's link going down raises UL_LINK_DOWN and sends remote fault. -/
  | ulLinkDown (group : Fin 16)
  /-- UL_LINK_UP (R377): A lane group's link coming up resumes service of its tree. -/
  | ulLinkUp (group : Fin 16)
  /-- ELIM_RESET (R387): No accepted packet for RESET_MS resets recovery to take-any. -/
  | elimReset (stream : Fin 4096) (t : Nat)
  /-- UL_ELIM_OVERRUN (R387): 64 consecutive rogue discards reset recovery and raise UL_ELIM_OVERRUN. -/
  | ulElimOverrun (stream : Fin 4096) (t : Nat)
  /-- CE_DS_PACKET (R396): A circuit packet from the uplink is accepted into the downstream slip buffer with fillers, or discarded. -/
  | ceDsPacket (t : Nat)
  /-- CE_US_TICK (R398): At each upstream read tick the oldest circuit-frame is built into a MEF 8 packet and enqueued. -/
  | ceUsTick (circuit : Fin 1088) (t : Nat)
  /-- CE_LOF (R402): 3 consecutive alignment words in error lose alignment and raise CE_LOF. -/
  | ceLof (circuit : Fin 1088)
  /-- LIG_FRAME_RX (R407): A received ligature frame is checked and its heartbeat, requests and MAP messages taken. -/
  | ligFrameRx (lane : Fin 4) (f : LigFrame) (t : Nat)
  /-- LIG_ALIGN (R408): A confirmed alignment pattern aligns a ligature lane. -/
  | ligAlign (lane : Fin 4) (words : AlignWords)
  /-- LIG_ALIGN_LOSS (R408): 4 consecutive bad alignment words lose a lane's alignment. -/
  | ligAlignLoss (words : LaneWords)
  /-- HB_TICK (R412): Every 100 µs the sender increments HB_CNT. -/
  | hbTick (t : Nat)
  /-- HB_WORD_TX (R413): Every 125 µs a path-B heartbeat word is sent. -/
  | hbWordTx
  /-- HB_WORD_RX (R413): A received path-B word sets B_OK and PEER, and a reversed SYNC inverts the pair. -/
  | hbWordRx (bits : BitVec 125) (t : Nat)
  /-- HB_A_LOSS (R412): Path A with no new HB_CNT within HB_MISS is silent. -/
  | hbALoss (t : Nat)
  /-- HB_B_LOSS (R413): Path B with no good word within HB_MISS is silent. -/
  | hbBLoss (t : Nat)
  /-- PEER_FAIL (R414): Both paths silent for HB_MISS declare the peer failed and act on the witness under R416. -/
  | peerFail (wlos : Byte) (t : Nat)
  /-- WITNESS_EVAL (R416): Every WIT_WIN after a declaration the device acts on its state and witness. -/
  | witnessEval (wlos : Byte) (t : Nat)
  /-- HOLD_EXPIRY (R416): 3 × HB_MISS after the last word heard, a secondary in HOLD with a silent witness becomes PROVISIONAL. -/
  | holdExpiry (t : Nat)
  /-- LISTEN_PERIOD (R417): A PROVISIONAL device holds its transmitters off for the last 200 ms of each second. -/
  | listenPeriod (t : Nat)
  /-- PROVISIONAL_PROMOTE (R417): Bursts with disposition 0 in 8 consecutive frames make a PROVISIONAL device ACTIVE. -/
  | provisionalPromote
  /-- CKPT_IMAGE (R421): Every 1 s, or on an overflowing delta, the bellows writes a full image into the older slot. -/
  | ckptImage
  /-- CKPT_COMMIT (R421): Once the image writes complete, the slot's commit record is written. -/
  | ckptCommit
  /-- CKPT_DELTA (R421): Every 10 ms the bellows appends a delta of changes to the newest slot. -/
  | ckptDelta (excess : Bool)
  /-- CKPT_RESTORE (R423): The restore applies the newer valid slot and its deltas, falling back or ending in UNABLE. -/
  | ckptRestore (shared : Option (CkRead × CkRead)) (t : Nat)
  /-- SHADOW_DELTA (R428): A device in SHADOW applies each delta committed by the active device. -/
  | shadowDelta (d : CkDelta)
  /-- MS (R430): The MS command requests a manual switch to this device. -/
  | ms (fn : Fn)
  /-- FS (R430): The FS command requests a forced switch to this device. -/
  | fs (fn : Fn)
  /-- LO (R430): The LO command locks out switching and take-over. -/
  | lo (fn : Fn)
  /-- CLEAR (R430): The CLEAR command withdraws the device's own request. -/
  | clear (fn : Fn)
  /-- MEASURE (R433): The MEASURE command widens the windows and averages burst offsets into PX_OFSp. -/
  | measure (fn : Fn)
  /-- MEASURE_DONE (R433): A measurement ends and writes PX_OFSp with VALID. -/
  | measureDone
  /-- PX_REST (R460): The REST command of PX_CMD sends a device in SHADOW to REST. -/
  | pxRest (fn : Fn) (t : Nat)
  /-- SWITCH_K (R431): At frame K the old active device stops and the new one sends, completing a planned switch. -/
  | switchK (t : Nat)
  /-- WTR_EXPIRY (R434): A completed WTR count makes the primary send REVERT. -/
  | wtrExpiry (t : Nat)
  /-- TRACE_START (R437): The START command starts a reflectometry trace, or is refused. -/
  | traceStart (fn : Fn) (port : Fin 48)
  /-- TRACE_ABORT (R437): The ABORT command ends a running trace as aborted. -/
  | traceAbort (fn : Fn) (port : Fin 48)
  /-- BASELINE (R441): The BASELINE command copies the latest trace into the baseline block. -/
  | baseline (fn : Fn) (port : Fin 48)
  /-- PLANT_SILENCE (R438): In a plant silence the monitor raises MON_SEL, samples, and accepts or discards the window. -/
  | plantSilence (port : Fin 48) (power : Nat)
  /-- TRACE_DONE (R442): A completed trace is analysed into events, written, and raises TRACE_EVENT. -/
  | traceDone (port : Fin 48) (bins : List (BitVec 16)) (noise : BitVec 16) (found : List TraceEvent) (t : Nat)
  /-- MODULE_INSERT (R443): A rise of module presence reads the module identifier. -/
  | moduleInsert (port : Fin 48) (ident : Byte)
  /-- MODULE_POLL (R443): Every POLL × 100 ms the monitor reads the module diagnostics and flags. -/
  | modulePoll (port : Fin 48) (data : Option ModuleData)
  /-- MODBUS_STUCK (R444): SCL or SDA low for 25 ms marks the bus stuck. -/
  | modbusStuck (bus : Fin 12)
  /-- MODBUS_RECOVERY (R444): Every 100 ms a stuck bus gets 9 clock pulses and a stop. -/
  | modbusRecovery (bus : Fin 12) (released : Bool)
  /-- ALS_HOLD (R445): ALS_HOLD after entry to LOSS moves the port to MUTE. -/
  | alsHold (port : Fin 48) (t : Nat)
  /-- ALS_PULSE (R445): 100 s after entry to MUTE or the last pulse, the laser pulses for 2 s. -/
  | alsPulse (port : Fin 48) (t : Nat)
  /-- ALS_PULSE_END (R445): A pulse without an answer returns the port to MUTE after 2 s. -/
  | alsPulseEnd (port : Fin 48) (t : Nat)
  /-- ALS_ACCOUNT (R446): Every 10 ms the optical energy account is updated. -/
  | alsAccount (port : Fin 48) (t : Nat)
  /-- RESTART (R448): The RESTART command starts one pulse from MUTE. -/
  | restart (fn : Fn) (port : Fin 48) (t : Nat)
  /-- RELEASE_OVERBLOW (R447): The RELEASE command leaves OVERBLOW for MUTE when the account allows. -/
  | releaseOverblow (fn : Fn) (port : Fin 48) (t : Nat)
  /-- FORCE_ON (R448): The FORCE_ON command enters FORCED in Manufacturing. -/
  | forceOn (fn : Fn) (port : Fin 48) (t : Nat)
  /-- FORCE_OFF (R448): The FORCE_OFF command leaves FORCED. -/
  | forceOff (fn : Fn) (port : Fin 48) (t : Nat)
  /-- HUSH (R455): Setting a PS_PWR.HUSH bit idles the port's lanes and gates its engine. -/
  | hush (fn : Fn) (port : Fin 48)
  /-- UNHUSH (R455): Clearing a HUSH bit ungates the engine and the PTX lane leaves idle with a breath. -/
  | unhush (fn : Fn) (port : Fin 48)
  /-- SECT_GATED (R456): Setting PS_PWR.GATE gates the port section and raises SECT_GATED. -/
  | sectGated (fn : Fn) (sect : Fin 6)
  /-- SECT_UNGATED (R456): Clearing GATE ungates the section under the governor and raises SECT_UNGATED. -/
  | sectUngated (fn : Fn) (sect : Fin 6)
  /-- SMS_WAKE (R459): The SMS WAKE command starts a wake from Rest. -/
  | smsWake (t : Nat)
  /-- SMS_READ (R459): The SMS READ command returns PW page bytes. -/
  | smsRead (off : Byte) (n : Nat)
  /-- REST (R460): PW_CTRL REST runs the Rest entry sequence, or is refused. -/
  | rest (fn : Fn) (w : Word) (entry : RestEntry)
  /-- WAKE_N (R462): A falling edge of WAKE_N starts a wake from Rest. -/
  | wakeN (t : Nat)
  /-- WAKE_ALARM (R462): PW_ALARM.TIME in Rest starts a wake. -/
  | wakeAlarm (t : Nat)
  /-- PWR_GOOD_RISE (R467): A PWR_GOOD rise lets the wake proceed after its settle time. -/
  | pwrGoodRise (rail : Fin 3) (refs : BitVec 3) (ue : Byte) (ce : Nat) (stall : Fin 3)
  /-- WAKE_STEP_TIMEOUT (R470): A wake step reaching its limit unwinds the attempt. -/
  | wakeStepTimeout (step : Fin 9) (t : Nat)
  /-- WAKE_RETRY (R470): 100 ms after a failure the wake restarts, or after the last attempt PW_WAKE_FAIL is latched. -/
  | wakeRetry (t : Nat)
  /-- PW_WAKE_DONE (R467): When steps 7 and 8 end the wake completes and raises PW_WAKE_DONE. -/
  | pwWakeDone (verified : Bool) (hx : Option (Bool × BitVec 4 × BitVec 4)) (mx : Option (BitVec 11 × Bool × BitVec 5)) (t : Nat)
  /-- RET_FAIL_CLEAR (R465): Writing 1 to a RET_FAIL bit clears it and NOT_RESTORED on the bank's pages. -/
  | retFailClear (fn : Fn) (w : Word)
  /-- PW_REF_SWITCH (R469): Writing PW_REF_CTRL moves islands to a present external reference. -/
  | pwRefSwitch (fn : Fn) (w : Word)
  /-- LOAD (R480): SC_PAIR_CMD LOAD takes the pair key, sets VALID and KCV. -/
  | load (fn : Fn) (w : Word)
  /-- CLEAR_PAIR_KEY (R480): SC_PAIR_CMD CLEAR erases the pair key. -/
  | clearPairKey (fn : Fn) (w : Word)
  /-- SC_RNG (R481): A read of SC_RNG returns fresh random bits. -/
  | scRng (fn : Fn)
  /-- PROVISION (R482): The PROVISION command moves the lifecycle to Provisioned. -/
  | provision (fn : Fn) (w : Word)
  /-- LOCK (R482): The LOCK command moves the lifecycle to Field-Locked. -/
  | lock (fn : Fn) (w : Word)
  /-- RETURN_LC (R482): The RETURN command moves the lifecycle to Returned and erases keys. -/
  | returnLc (fn : Fn) (w : Word)
  /-- SET_PW (R485): The SET_PW command burns the debug password digest. -/
  | setPw (fn : Fn) (w : Word)
  /-- UNLOCK_PW (R485): The UNLOCK_PW command compares the password and opens debug or counts a failure. -/
  | unlockPw (fn : Fn) (w : Word) (t : Nat)
  /-- CHALLENGE (R486): The CHALLENGE command draws a nonce. -/
  | challenge (fn : Fn) (w : Word) (t : Nat)
  /-- UNLOCK_CR (R486): The UNLOCK_CR command checks the response and opens debug, erasing keys in Field-Locked. -/
  | unlockCr (fn : Fn) (w : Word) (t : Nat)
  /-- NONCE_EXPIRY (R486): A nonce lapses 60 s after it was drawn. -/
  | nonceExpiry (t : Nat)
  /-- CLOSE (R484): The CLOSE command closes debug. -/
  | close (fn : Fn) (w : Word)
  /-- PORST (R489): PORST_N low for 100 µs cold-resets the whole device and runs the power-on wake. -/
  | porst (role : Bool) (t : Nat)
  /-- SYSRST (R490): SYSRST_N low for 1 µs starts a device reset in Run or Trim. -/
  | sysrst (refs : BitVec 3) (ue : Byte) (ce : Nat) (stall : Fin 3) (t : Nat)
  /-- DRST (R490): DV_RST.DRST starts a device reset, or is refused. -/
  | drst (fn : Fn) (w : Word) (refs : BitVec 3) (ue : Byte) (ce : Nat) (stall : Fin 3) (t : Nat)
  /-- SRST (R491): DV_RST.SRST resets one section, or is refused. -/
  | srst (fn : Fn) (sect : BitVec 4)
  /-- PIN_SHORT (R500): 3 consecutive readback mismatches mark a pin shorted and switch off its driver. -/
  | pinShort (pin : Pin) (high : Bool)
  /-- PIN_RETRY (R500): Every 100 ms a shorted pin is driven for 10 µs and cleared if its readback matches. -/
  | pinRetry (pin : Pin) (good : Bool)
  /-- PWR_GOOD_FALL (R515): A PWR_GOOD falling while its rail is enabled is a regulator failure. -/
  | pwrGoodFall (rail : Fin 3) (t : Nat)
  /-- THERMTRIP (R520): A junction at 120 °C or more drives THERMTRIP_N low until cold reset. -/
  | thermtrip
  /-- MODULE_REMOVAL (R444): A fall of a PON cage's module-present line while the port is enabled raises MODULE_FAULT with cause 1 and holds TXDIS high under R502. -/
  | moduleRemoval (port : Fin 48)
  /-- SWITCH_REST (R431): 1 s after a planned switch, an old active device in SHADOW with COLD = 1 goes to REST. -/
  | switchRest (t : Nat)
  /-- ENGINE_READY (R492): An engine's initialisation completes after enable or engine reset and PAGE_STATUS.READY returns to 1, so that work it was dropping is accepted again. -/
  | engineReady (page : BitVec 12)
  /-- SECTION_RESET_DONE (R489): A section reset completes within 1 ms, clearing its DV_RST_STAT.BUSY bit and returning the section to service. -/
  | sectionResetDone (sect : Fin 11)
  /-- MSIX_MASK (R64): A host write to a vector's mask bit in the BAR2 MSI-X table masks it, or unmasks it and sends a message held pending in the PBA. -/
  | msixMask (fn : Fn) (vec : Fin 512) (masked : Bool)
  /-- D3HOT (R349): A host configuration write putting PF0 or PF1 into D3hot stops that function's ring DMA, and a return to D0 resumes it. -/
  | d3hot (fn : Fn) (d3 : Bool)
  /-- RNG_HEALTH (R481): The random source's health test fails or recovers, making SC_RNG read 0 and refusing CHALLENGE and holding reseeds, or ending that. -/
  | rngHealth (ok : Bool)
  deriving DecidableEq, Repr

end Sys2Proof
end

