-- ==== Sys2Proof/Config.lean ====
section
/-! DEFINITION. What one CM4850 fixes, and the values the manual leaves open. An `opaque` constant has no body:
nothing can evaluate it, so a statement about it holds whatever it is. -/

namespace Sys2Proof.Config

/-- A value the manual leaves open: the `n`th draw of a run (log entry 2). -/
opaque freeValue : Nat → Nat

/-- The device identity in the fuses, low and high word (R487; log entry 7). -/
opaque devIdLo : Word
opaque devIdHi : Word

/-- The device-unique key (R477; log entry 7). -/
opaque deviceKey : BitVec 256

/-- SHA-256 of the 128-bit debug password (R485; log entry 11). -/
opaque pwDigest : BitVec 128 → BitVec 256

/-- HMAC-SHA-256 under the device-unique key over nonce and device identity (R486; log entry 11). -/
opaque debugMac : BitVec 256 → BitVec 128 → Word → Word → BitVec 256

/-- The low 32 bits of the AES-256 encryption of the all-zero block under a key (R480; log entry 11). -/
opaque aesKcv : BitVec 256 → Word

/-- The keyed hash of R303: table, seed generation draw, way, key (log entry 10). -/
opaque hashPlace : Nat → Nat → Nat → Entry → Nat

/-- What a codeword with wrong bits in three or more symbols reads as (R39 gives one and two; log entry 155): none seen, false
corrected, true uncorrectable. -/
opaque eccWide : BitVec 144 → Option Bool

/-- The pool that holds a packet of an ingress source while it is punted (R313, R356; log entry 151): the spec names none. -/
opaque puntPool : Nat → Fin 16

/-- The slope of a trace over the 64 bins about a point, as a difference between two means 32 bins apart in 0.01 dB (R442; log entry
153): the spec does not say how it is formed. -/
opaque traceSlope : List (BitVec 16) → Int

/-- The seeds drawn when power is applied: table × 2 + generation (R303; log entry 10). -/
opaque firstSeed : Nat → Nat

/-- The unit of Ranging_Time on a 50G-class or legacy port, less one, in parts of 1/62,208 ns (R153; log entry 13). -/
opaque rangingUnit : Bool → Nat

/-- Byte `i` of the AES-128 counter-mode key stream of an XGEM frame: key, whether it is upstream, superframe counter and position of
the frame (R97, R138; log entry 132). -/
opaque aesCtrByte : BitVec 128 → Bool → Nat → Nat → Nat → Byte

/-- The MIC of a PLOAM message under a key: its sequence number and content (R102; log entry 131). -/
opaque ploamMic : BitVec 128 → Nat → List Nat → BitVec 64

/-- The default PLOAM integrity key (R102; log entry 131). -/
opaque ploamDefaultKey : BitVec 128

/-- The default Alloc-ID of an ONU-ID, the broadcast Alloc-ID of serial-number grants, StartTime of a position in TU (none where it
follows the allocation before it) and GrantSize of allocation bytes, on a 50G-class or legacy port, as G.9804.2 or G.9807.1 defines them
(R164, R166; log entry 133). -/
opaque defaultAlloc : Bool → Nat → Nat
opaque broadcastAlloc : Bool → Nat
opaque startTime : Bool → Option Nat → Nat
opaque grantSize : Bool → Nat → Nat

/-- Reset values of the margin table (R194). -/
def marginResetWord (i : Nat) : Nat :=
  ([0x0000FFF6, 0x01A90000, 0x02140007, 0x027E000C, 0x02E80011, 0x03520014, 0x03BD0017, 0x0427001A] ++
   [0x04FC001F, 0x05D00023, 0x06A50026, 0x07790029, 0x084E002C, 0x0923002E, 0x09F70030, 0x0ACC0032]).getD i 0

/-- Reset words of DM_DP_CFGn: class and target of R328 and R346. -/
def dpResetWord (n : Nat) : Nat :=
  ([1, 0, 1, 0, 0, 2, 2, 2, 2, 1, 0, 2] : List Nat).getD n 0 * 2 ^ 30 +
  ([0x0064, 0x0032, 0x0064, 0x0032, 0x001E, 0x07D0, 0x01F4, 0x00C8, 0x03E8, 0x0064, 0x0028, 0x1388] : List Nat).getD n 0

/-- Reset words of HX_RING_SECi: rings 0 to 95 secure (R351). -/
def ringSecResetWord (i : Nat) : Nat := if i < 3 then 0xFFFFFFFF else 0

end Sys2Proof.Config
end

