-- ==== Sys2Proof/Machine/Sparse.lean ====
section
/-! DEFINITION. The one operation that reads and the one that writes a sparse map, with its canonical form. -/

namespace Sys2Proof.Machine

variable {α : Type}

/-- The value at key `a`; `d` where the map lists nothing. -/
def sget (d : α) : SMap α → Nat → α
  | [], _ => d
  | (k, v) :: r, a => if a = k then v else sget d r a

/-- List `v` at key `a`, in its place among rising keys. -/
def sput : SMap α → Nat → α → SMap α
  | [], a, v => [(a, v)]
  | (k, w) :: r, a, v =>
    if a < k then (a, v) :: (k, w) :: r else if a = k then (a, v) :: r else (k, w) :: sput r a v

/-- Write `v` at key `a`; writing the unlisted value `d` removes the entry. -/
def sset [DecidableEq α] (d : α) (m : SMap α) (a : Nat) (v : α) : SMap α :=
  if v = d then m.filter (fun p => p.1 != a) else sput m a v

/-- Strictly rising keys, every key at least `lo`. -/
def srise : Nat → SMap α → Bool
  | _, [] => true
  | lo, (k, _) :: r => decide (lo ≤ k) && srise (k + 1) r

/-- The canonical form: strictly rising keys and no entry equal to the unlisted value of its key. -/
def swf [DecidableEq α] (dflt : Nat → α) (m : SMap α) : Bool :=
  srise 0 m && m.all (fun p => !decide (p.2 = dflt p.1))

/-- Keep the entries whose key satisfies `p`. -/
def skeep (p : Nat → Bool) (m : SMap α) : SMap α := m.filter (fun e => p e.1)

/-- Change every listed value by `f`, which leaves the unlisted value `d` as it is. -/
def smapv [DecidableEq α] (d : α) (f : α → α) (m : SMap α) : SMap α :=
  m.filterMap (fun p => if f p.2 = d then none else some (p.1, f p.2))

end Sys2Proof.Machine
end

