-- ==== Sys2Proof/Machine/RegMap.lean ====
section
/-! DEFINITION. The register map, one line per field of the register tables of the chapters 01 to 23: offset in its
page, array length and stride, bits, type (R13), reset value and admissible values (R522).
The header (R49) and the table window (R55) are in Operands.lean. -/

namespace Sys2Proof.Machine

/-- A register field: byte offset in its page, high bit, low bit, array stride. -/
structure Fld where
  off : Nat
  hi : Nat
  lo : Nat
  stride : Nat := 0
  deriving DecidableEq, Repr

/-- Element `i` of a register array. -/
def Fld.ix (f : Fld) (i : Nat) : Fld := { f with off := f.off + i * f.stride }

/-- A snapshot counter of R121: offset of its (low) word, width, and whether it saturates. -/
structure Ctr where
  off : Nat
  width : Nat
  sat : Bool
  deriving DecidableEq, Repr

/-- Field types of R13. -/
inductive FTy where
  | rw | ro | w1c | w1s | wo | rwl | sw
  deriving DecidableEq, Repr

/-- What R522 lets a configuration field take. -/
inductive Adm where
  | any
  | range (a b : Nat)
  | srange (a b : Int)
  | multiple (m a b : Nat)
  | v6len
  deriving DecidableEq, Repr

/-- One field of a page's register tables. -/
structure Spec where
  off : Nat
  n : Nat
  stride : Nat
  hi : Nat
  lo : Nat
  ty : FTy
  reset : Nat
  adm : Adm
  deriving DecidableEq, Repr

namespace F

def DV_PITCH_SLOW : Fld := ⟨0x100, 31, 31, 4⟩
def DV_PITCH_WORST : Fld := ⟨0x100, 27, 16, 4⟩
def DV_PITCH_CUR : Fld := ⟨0x100, 11, 0, 4⟩
def DV_PITCH_CFG_CLR_WORST : Fld := ⟨0x140, 31, 31, 0⟩
def DV_PITCH_CFG_FLOOR : Fld := ⟨0x140, 27, 16, 0⟩
def DV_PITCH_CFG_TARGET : Fld := ⟨0x140, 11, 0, 0⟩
def DV_PITCH_SLOW_SRC_SECT : Fld := ⟨0x144, 3, 0, 0⟩
def DV_AVS_CTRL_VMAX : Fld := ⟨0x148, 27, 16, 0⟩
def DV_AVS_CTRL_VMIN : Fld := ⟨0x148, 15, 4, 0⟩
def DV_AVS_CTRL_EN : Fld := ⟨0x148, 0, 0, 0⟩
def DV_AVS_CFG_STEP : Fld := ⟨0x14C, 23, 16, 0⟩
def DV_AVS_CFG_INTERVAL : Fld := ⟨0x14C, 15, 0, 0⟩
def DV_AVS_STATUS_BUSERR : Fld := ⟨0x150, 17, 17, 0⟩
def DV_AVS_STATUS_LIMIT : Fld := ⟨0x150, 16, 16, 0⟩
def DV_AVS_STATUS_VREQ : Fld := ⟨0x150, 11, 0, 0⟩
def DV_ECC_CFG_CE_RATE : Fld := ⟨0x180, 31, 16, 0⟩
def DV_ECC_CFG_SCRUB_H : Fld := ⟨0x180, 7, 0, 0⟩
def DV_ECC_CE_COUNT : Fld := ⟨0x1C0, 31, 0, 4⟩
def DV_ECC_UE_COUNT : Fld := ⟨0x200, 31, 0, 4⟩
def DV_ECC_LAST_UE_VALID : Fld := ⟨0x240, 31, 31, 0⟩
def DV_ECC_LAST_UE_CLR_CNT : Fld := ⟨0x240, 30, 30, 0⟩
def DV_ECC_LAST_UE_PLACE : Fld := ⟨0x240, 7, 4, 0⟩
def DV_ECC_LAST_UE_SECT : Fld := ⟨0x240, 3, 0, 0⟩
def DV_ECC_LAST_UE_IDX_IDX : Fld := ⟨0x244, 31, 0, 0⟩
def DV_ACC_ERR_VALID : Fld := ⟨0x260, 31, 31, 0⟩
def DV_ACC_ERR_FN : Fld := ⟨0x260, 30, 30, 0⟩
def DV_ACC_ERR_WR : Fld := ⟨0x260, 29, 29, 0⟩
def DV_ACC_ERR_OFFSET : Fld := ⟨0x260, 27, 0, 0⟩
def LN_CFG_RATE : Fld := ⟨0x040, 23, 20, 0⟩
def LN_CFG_IDLE_OK : Fld := ⟨0x040, 17, 17, 0⟩
def LN_CFG_POL_AUTO : Fld := ⟨0x040, 11, 11, 0⟩
def LN_CFG_RX_INV : Fld := ⟨0x040, 10, 10, 0⟩
def LN_CFG_TX_INV : Fld := ⟨0x040, 9, 9, 0⟩
def LN_TX_AMP : Fld := ⟨0x044, 11, 8, 0⟩
def LN_TX_PRESET : Fld := ⟨0x044, 3, 0, 0⟩
def LN_TX_COEF_PRE2 : Fld := ⟨0x048, 23, 16, 0⟩
def LN_TX_COEF_PRE1 : Fld := ⟨0x048, 15, 8, 0⟩
def LN_TX_COEF_POST1 : Fld := ⟨0x048, 7, 0, 0⟩
def LN_STATUS_WIRE_LANE : Fld := ⟨0x04C, 27, 24, 0⟩
def LN_STATUS_OPEN : Fld := ⟨0x04C, 19, 19, 0⟩
def LN_STATUS_ORDER_FIX : Fld := ⟨0x04C, 18, 18, 0⟩
def LN_STATUS_POL_FIX : Fld := ⟨0x04C, 17, 17, 0⟩
def LN_STATUS_FROZEN : Fld := ⟨0x04C, 16, 16, 0⟩
def LN_STATUS_TX_IDLE : Fld := ⟨0x04C, 13, 13, 0⟩
def LN_STATUS_PCS_LOCK : Fld := ⟨0x04C, 11, 11, 0⟩
def LN_STATUS_CDR_LOCK : Fld := ⟨0x04C, 10, 10, 0⟩
def LN_STATUS_SIGDET : Fld := ⟨0x04C, 9, 9, 0⟩
def LN_STATUS_PLL_LOCK : Fld := ⟨0x04C, 8, 8, 0⟩
def LN_STATUS_STATE : Fld := ⟨0x04C, 2, 0, 0⟩
def LN_IDLE_REQ : Fld := ⟨0x050, 31, 31, 0⟩
def LN_IDLE_POST : Fld := ⟨0x050, 25, 16, 0⟩
def LN_IDLE_STALE : Fld := ⟨0x050, 7, 0, 0⟩
def LN_PRX_CFG_SVC_ALL : Fld := ⟨0x054, 25, 25, 0⟩
def LN_PRX_CFG_SVC_ONU : Fld := ⟨0x054, 24, 16, 0⟩
def LN_PRX_CFG_LOS_FR : Fld := ⟨0x054, 15, 8, 0⟩
def LN_ADAPT_RESTART : Fld := ⟨0x058, 31, 31, 0⟩
def LN_ADAPT_FREEZE : Fld := ⟨0x058, 30, 30, 0⟩
def LN_ADAPT_CLR_ADAPT : Fld := ⟨0x058, 29, 29, 0⟩
def LN_ADAPT_RESTARTS : Fld := ⟨0x058, 15, 8, 0⟩
def LN_ADAPT_FAST_FAIL : Fld := ⟨0x058, 7, 0, 0⟩
def LN_PRBS_CTRL_CLR : Fld := ⟨0x060, 31, 31, 0⟩
def LN_PRBS_CTRL_INJ : Fld := ⟨0x060, 30, 30, 0⟩
def LN_PRBS_CTRL_MODE : Fld := ⟨0x060, 13, 12, 0⟩
def LN_PRBS_CTRL_RXPAT : Fld := ⟨0x060, 7, 4, 0⟩
def LN_PRBS_CTRL_TXPAT : Fld := ⟨0x060, 3, 0, 0⟩
def LN_PRBS_STAT_SAT : Fld := ⟨0x064, 31, 31, 0⟩
def LN_PRBS_STAT_SYNC : Fld := ⟨0x064, 30, 30, 0⟩
def LN_PRBS_STAT_LOSS : Fld := ⟨0x064, 15, 0, 0⟩
def LN_PRBS_BITS_LO_COUNT : Fld := ⟨0x068, 31, 0, 0⟩
def LN_PRBS_BITS_HI_COUNT : Fld := ⟨0x06C, 15, 0, 0⟩
def LN_PRBS_BERR_LO_COUNT : Fld := ⟨0x070, 31, 0, 0⟩
def LN_PRBS_BERR_HI_COUNT : Fld := ⟨0x074, 15, 0, 0⟩
def LN_PRBS_SERR_LO_COUNT : Fld := ⟨0x078, 31, 0, 0⟩
def LN_PRBS_SERR_HI_COUNT : Fld := ⟨0x07C, 15, 0, 0⟩
def PE_DS_CFG_MAX_PKT : Fld := ⟨0x040, 29, 16, 0⟩
def PE_DS_CFG_PLOAM_MAX : Fld := ⟨0x040, 12, 8, 0⟩
def PE_DS_CFG_PROFILE : Fld := ⟨0x040, 1, 0, 0⟩
def PE_FB_CFG_FSYNC_DLY : Fld := ⟨0x044, 31, 16, 0⟩
def PE_FB_CFG_FS_STEP : Fld := ⟨0x044, 12, 8, 0⟩
def PE_FB_CFG_SRC : Fld := ⟨0x044, 4, 4, 0⟩
def PE_FB_CFG_TB : Fld := ⟨0x044, 2, 0, 0⟩
def PE_SFC_OFS_LO_OFS : Fld := ⟨0x048, 31, 0, 0⟩
def PE_SFC_OFS_HI_OFS : Fld := ⟨0x04C, 31, 0, 0⟩
def PE_FB_CTRL_REALIGN : Fld := ⟨0x050, 0, 0, 0⟩
def PE_FB_STATUS_RAMP : Fld := ⟨0x054, 31, 31, 0⟩
def PE_FB_STATUS_FAR : Fld := ⟨0x054, 30, 30, 0⟩
def PE_FB_STATUS_REALIGN_PEND : Fld := ⟨0x054, 29, 29, 0⟩
def PE_FB_STATUS_NOFSYNC : Fld := ⟨0x054, 28, 28, 0⟩
def PE_FB_STATUS_LEFT : Fld := ⟨0x054, 7, 0, 0⟩
def PE_FB_ERR_ERR : Fld := ⟨0x058, 31, 0, 0⟩
def PE_SFC_LO_SFC : Fld := ⟨0x05C, 31, 0, 0⟩
def PE_SFC_HI_SFC : Fld := ⟨0x060, 18, 0, 0⟩
def PE_LZ_CTRL_HOLD : Fld := ⟨0x064, 31, 16, 0⟩
def PE_LZ_CTRL_EN : Fld := ⟨0x064, 0, 0, 0⟩
def PE_LZ_START_CW : Fld := ⟨0x068, 8, 0, 0⟩
def PE_LZ_STATUS_OPEN : Fld := ⟨0x06C, 31, 31, 0⟩
def PE_LZ_STATUS_NOTICE : Fld := ⟨0x06C, 30, 30, 0⟩
def PE_LZ_STATUS_ELIG : Fld := ⟨0x06C, 29, 29, 0⟩
def PE_LZ_STATUS_ALL_L3 : Fld := ⟨0x06C, 28, 28, 0⟩
def PE_LZ_STATUS_HOLDING : Fld := ⟨0x06C, 27, 27, 0⟩
def PE_LZ_STATUS_LEFT : Fld := ⟨0x06C, 23, 16, 0⟩
def PE_LZ_STATUS_CUR : Fld := ⟨0x06C, 8, 0, 0⟩
def PE_VENDOR_MTYPE : Fld := ⟨0x070, 7, 0, 0⟩
def PE_KEY_LAST_COUNT : Fld := ⟨0x074, 31, 16, 0⟩
def PE_KEY_LAST_CTX : Fld := ⟨0x074, 9, 0, 0⟩
def PE_DS_CNT_CLR : Fld := ⟨0x040, 1, 1, 0⟩
def PE_DS_CNT_SNAP : Fld := ⟨0x040, 0, 0, 0⟩
def PS_COMBO_PAIR : Fld := ⟨0x040, 3, 0, 0⟩
def PE_US_CFG_MAX_PKT : Fld := ⟨0x0C0, 29, 16, 0⟩
def PE_US_CFG_DRIFT : Fld := ⟨0x0C0, 15, 8, 0⟩
def PE_US_CFG_WIN : Fld := ⟨0x0C0, 7, 0, 0⟩
def PE_US_TEQD_TEQD : Fld := ⟨0x0C4, 19, 0, 0⟩
def PE_US_RST_LEAD : Fld := ⟨0x0C8, 15, 8, 0⟩
def PE_US_RST_W : Fld := ⟨0x0C8, 7, 0, 0⟩
def PE_US_REASM_FR : Fld := ⟨0x0CC, 5, 0, 0⟩
def PE_RSSI_CFG_MODE : Fld := ⟨0x0D0, 31, 30, 0⟩
def PE_RSSI_CFG_ONU : Fld := ⟨0x0D0, 28, 20, 0⟩
def PE_RSSI_CFG_PER : Fld := ⟨0x0D0, 19, 12, 0⟩
def PE_RSSI_CFG_W : Fld := ⟨0x0D0, 11, 6, 0⟩
def PE_RSSI_CFG_DLY : Fld := ⟨0x0D0, 5, 0, 0⟩
def PE_RSSI_STAT_BUSY : Fld := ⟨0x0D4, 31, 31, 0⟩
def PE_RSSI_STAT_ONU : Fld := ⟨0x0D4, 24, 16, 0⟩
def PE_RSSI_STAT_COUNT : Fld := ⟨0x0D4, 15, 0, 0⟩
def PE_US_STATUS_GL_ONU : Fld := ⟨0x0D8, 8, 0, 0⟩
def PE_US_CNT_CLR_ONU : Fld := ⟨0x040, 2, 2, 0⟩
def PE_US_CNT_CLR : Fld := ⟨0x040, 1, 1, 0⟩
def PE_US_CNT_SNAP : Fld := ⟨0x040, 0, 0, 0⟩
def PE_ACT_CFG_SN_EN : Fld := ⟨0x0C0, 31, 31, 0⟩
def PE_ACT_CFG_DISC : Fld := ⟨0x0C0, 30, 30, 0⟩
def PE_ACT_CFG_SN_PER : Fld := ⟨0x0C0, 25, 16, 0⟩
def PE_ACT_CFG_REPEAT : Fld := ⟨0x0C0, 15, 12, 0⟩
def PE_ACT_CFG_PROF : Fld := ⟨0x0C0, 10, 8, 0⟩
def PE_ACT_CFG_LOB_N : Fld := ⟨0x0C0, 7, 0, 0⟩
def PE_ACT_REACH_LMAX : Fld := ⟨0x0C4, 31, 22, 0⟩
def PE_ACT_REACH_LMIN : Fld := ⟨0x0C4, 21, 12, 0⟩
def PE_ACT_REACH_LOOP : Fld := ⟨0x0C4, 11, 0, 0⟩
def PE_ACT_RSP_RSP_MIN : Fld := ⟨0x0C8, 31, 16, 0⟩
def PE_ACT_RSP_RSP_MAX : Fld := ⟨0x0C8, 15, 0, 0⟩
def PE_ACT_RD_RD_MAX : Fld := ⟨0x0CC, 15, 0, 0⟩
def PE_ACT_QW_QW : Fld := ⟨0x0D0, 19, 0, 0⟩
def PE_ACT_RQW_RQW : Fld := ⟨0x0D4, 19, 0, 0⟩
def PE_ACT_TMO_AUTH_TMO : Fld := ⟨0x0D8, 31, 24, 0⟩
def PE_ACT_TMO_LOST_HOLD : Fld := ⟨0x0D8, 23, 16, 0⟩
def PE_ACT_TMO_RNG_TRIES : Fld := ⟨0x0D8, 3, 0, 0⟩
def PE_RNG_TRK_EN : Fld := ⟨0x0DC, 31, 31, 0⟩
def PE_RNG_TRK_THR : Fld := ⟨0x0DC, 15, 8, 0⟩
def PE_RNG_TRK_N : Fld := ⟨0x0DC, 7, 0, 0⟩
def PE_RNG_ADJ_ADJ : Fld := ⟨0x0E0, 31, 0, 0⟩
def PE_ACT_CMD_OP : Fld := ⟨0x0E4, 31, 28, 0⟩
def PE_ACT_CMD_CTX : Fld := ⟨0x0E4, 8, 0, 0⟩
def PE_ACT_CMD_STAT_REJ : Fld := ⟨0x0E8, 31, 31, 0⟩
def PE_ACT_LAST_LOST_CTX : Fld := ⟨0x0EC, 24, 16, 0⟩
def PE_ACT_LAST_CTX : Fld := ⟨0x0EC, 8, 0, 0⟩
def PE_ACT_WRONG_PORT : Fld := ⟨0x0F0, 5, 0, 0⟩
def PE_ACT_WRONG_SN_LO_SN : Fld := ⟨0x0F4, 31, 0, 0⟩
def PE_ACT_WRONG_SN_HI_SN : Fld := ⟨0x0F8, 31, 0, 0⟩
def PE_ACT_CNT_CLR : Fld := ⟨0x100, 1, 1, 0⟩
def PE_ACT_CNT_SNAP : Fld := ⟨0x100, 0, 0, 0⟩
def GS_CFG_CLR : Fld := ⟨0x040, 31, 31, 0⟩
def GS_CFG_BUILD : Fld := ⟨0x040, 6, 0, 0⟩
def GS_HINT_CFG_EN : Fld := ⟨0x044, 31, 31, 0⟩
def GS_HINT_CFG_TB : Fld := ⟨0x044, 30, 28, 0⟩
def GS_HINT_CFG_AHEAD : Fld := ⟨0x044, 27, 16, 0⟩
def GS_HINT_CFG_ADV : Fld := ⟨0x044, 15, 0, 0⟩
def GS_STATUS_FROZEN : Fld := ⟨0x048, 15, 8, 0⟩
def GS_STATUS_STALE : Fld := ⟨0x048, 7, 0, 0⟩
def GS_HINT_NOKEY_COUNT : Fld := ⟨0x04C, 31, 0, 0⟩
def GS_HINT_BAD_COUNT : Fld := ⟨0x050, 31, 0, 0⟩
def GS_PORT_CFG_QUANT : Fld := ⟨0x0C0, 31, 24, 0⟩
def GS_PORT_CFG_PLOAM_PER : Fld := ⟨0x0C0, 21, 16, 0⟩
def GS_PORT_CFG_POLL : Fld := ⟨0x0C0, 13, 8, 0⟩
def GS_PORT_CFG_QW_FIX : Fld := ⟨0x0C0, 0, 0, 0⟩
def GS_PORT_QRES_QRES : Fld := ⟨0x0C4, 15, 0, 0⟩
def GS_PORT_COMMIT_SPARE : Fld := ⟨0x0C8, 31, 16, 0⟩
def GS_PORT_COMMIT_C : Fld := ⟨0x0C8, 15, 0, 0⟩
def GS_PORT_STATUS_STRUCT : Fld := ⟨0x0CC, 9, 0, 0⟩
def GS_PORT_SEAL_LAST : Fld := ⟨0x0D0, 31, 16, 0⟩
def GS_PORT_SEAL_MIN : Fld := ⟨0x0D0, 15, 0, 0⟩
def GS_PORT_CNT_CLR : Fld := ⟨0x0E0, 1, 1, 0⟩
def GS_PORT_CNT_SNAP : Fld := ⟨0x0E0, 0, 0, 0⟩
def PE_MS_CTRL_RPT_MTYPE : Fld := ⟨0x0C0, 15, 8, 0⟩
def PE_MS_CTRL_LOG : Fld := ⟨0x0C0, 2, 2, 0⟩
def PE_MS_CTRL_MODE : Fld := ⟨0x0C0, 1, 0, 0⟩
def PE_MS_CFG_DOWN_N : Fld := ⟨0x0C4, 31, 24, 0⟩
def PE_MS_CFG_MIN_SYM : Fld := ⟨0x0C4, 23, 16, 0⟩
def PE_MS_CFG_UP_K : Fld := ⟨0x0C4, 15, 0, 0⟩
def PE_MS_THR_HIGH_TH : Fld := ⟨0x0C8, 31, 16, 0⟩
def PE_MS_THR_LOW_TH : Fld := ⟨0x0C8, 15, 0, 0⟩
def PE_MS_PROB_PROB : Fld := ⟨0x0CC, 31, 16, 0⟩
def PE_MS_PROB_FLAP_MAX : Fld := ⟨0x0CC, 15, 8, 0⟩
def PE_MS_PROB_PIN_HOLD : Fld := ⟨0x0CC, 7, 0, 0⟩
def PE_MS_LADDER_VALID0 : Fld := ⟨0x0D0, 3, 3, 0⟩
def PE_MS_LADDER_VALID1 : Fld := ⟨0x0D0, 7, 7, 0⟩
def PE_MS_LADDER_VALID2 : Fld := ⟨0x0D0, 11, 11, 0⟩
def PE_MS_LADDER_VALID3 : Fld := ⟨0x0D0, 15, 15, 0⟩
def PE_MS_LADDER_VALID4 : Fld := ⟨0x0D0, 19, 19, 0⟩
def PE_MS_LADDER_VALID5 : Fld := ⟨0x0D0, 23, 23, 0⟩
def PE_MS_LADDER_VALID6 : Fld := ⟨0x0D0, 27, 27, 0⟩
def PE_MS_LADDER_VALID7 : Fld := ⟨0x0D0, 31, 31, 0⟩
def PE_MS_LADDER_PROF0 : Fld := ⟨0x0D0, 2, 0, 0⟩
def PE_MS_LADDER_PROF1 : Fld := ⟨0x0D0, 6, 4, 0⟩
def PE_MS_LADDER_PROF2 : Fld := ⟨0x0D0, 10, 8, 0⟩
def PE_MS_LADDER_PROF3 : Fld := ⟨0x0D0, 14, 12, 0⟩
def PE_MS_LADDER_PROF4 : Fld := ⟨0x0D0, 18, 16, 0⟩
def PE_MS_LADDER_PROF5 : Fld := ⟨0x0D0, 22, 20, 0⟩
def PE_MS_LADDER_PROF6 : Fld := ⟨0x0D0, 26, 24, 0⟩
def PE_MS_LADDER_PROF7 : Fld := ⟨0x0D0, 30, 28, 0⟩
def PE_MS_ADV_REP : Fld := ⟨0x0D4, 15, 0, 0⟩
def PE_MS_LZ_LZ_ON : Fld := ⟨0x0D8, 31, 16, 0⟩
def PE_MS_LZ_LZ_OFF : Fld := ⟨0x0D8, 15, 0, 0⟩
def PE_MS_LZ2_LZ_AGE : Fld := ⟨0x0DC, 27, 16, 0⟩
def PE_MS_LZ2_LZ_K : Fld := ⟨0x0DC, 15, 8, 0⟩
def PE_MS_LZ2_LZ_GRACE : Fld := ⟨0x0DC, 7, 0, 0⟩
def PE_MS_LZ_STAT_MIN : Fld := ⟨0x0E0, 31, 16, 0⟩
def PE_MS_LZ_STAT_UNKNOWN : Fld := ⟨0x0E0, 12, 12, 0⟩
def PE_MS_LZ_STAT_CTX : Fld := ⟨0x0E0, 8, 0, 0⟩
def PE_MS_CMD_OP : Fld := ⟨0x0E4, 31, 28, 0⟩
def PE_MS_CMD_RUNG : Fld := ⟨0x0E4, 18, 16, 0⟩
def PE_MS_CMD_CTX : Fld := ⟨0x0E4, 8, 0, 0⟩
def PE_MS_CMD_STAT_REJ : Fld := ⟨0x0E8, 31, 31, 0⟩
def PE_MS_LAST_PIN_CTX : Fld := ⟨0x0EC, 8, 0, 0⟩
def PE_MS_CNT_CLR : Fld := ⟨0x0F0, 1, 1, 0⟩
def PE_MS_CNT_SNAP : Fld := ⟨0x0F0, 0, 0, 0⟩
def PE_MS_MTBL_TH : Fld := ⟨0x140, 27, 16, 4⟩
def PE_MS_MTBL_MARGIN : Fld := ⟨0x140, 15, 0, 4⟩
def TM_CFG_CIR_CHECK : Fld := ⟨0x0C0, 31, 31, 0⟩
def TM_CFG_QUANT : Fld := ⟨0x0C0, 15, 8, 0⟩
def TM_CFG_IDLE_RST : Fld := ⟨0x0C0, 7, 0, 0⟩
def TM_CMD_OP : Fld := ⟨0x0C4, 31, 28, 0⟩
def TM_CMD_IDX : Fld := ⟨0x0C4, 15, 0, 0⟩
def TM_CMD_STAT_REJ : Fld := ⟨0x0C8, 31, 31, 0⟩
def TM_CMD_STAT_BUSY : Fld := ⟨0x0C8, 30, 30, 0⟩
def TM_DROP_CFG_THR : Fld := ⟨0x0CC, 31, 0, 0⟩
def TM_DROP_SRC_UP : Fld := ⟨0x0D0, 6, 6, 0⟩
def TM_DROP_SRC_TREE : Fld := ⟨0x0D0, 5, 0, 0⟩
def TM_CNT_CLR : Fld := ⟨0x0E0, 1, 1, 0⟩
def TM_CNT_SNAP : Fld := ⟨0x0E0, 0, 0, 0⟩
def TE_REF_CTRL_RETURN : Fld := ⟨0x0C0, 0, 0, 0⟩
def TE_REF_STAT_INT : Fld := ⟨0x0C4, 8, 8, 0⟩
def TE_REF_STAT_PCIE_OK : Fld := ⟨0x0C4, 2, 2, 0⟩
def TE_REF_STAT_ETH_OK : Fld := ⟨0x0C4, 1, 1, 0⟩
def TE_REF_STAT_PON_OK : Fld := ⟨0x0C4, 0, 0, 0⟩
def TE_PPSI_CFG_POL_AUTO : Fld := ⟨0x0C8, 31, 31, 4⟩
def TE_PPSI_CFG_INV : Fld := ⟨0x0C8, 30, 30, 4⟩
def TE_PPSI_CFG_POL_FIX : Fld := ⟨0x0C8, 29, 29, 4⟩
def TE_PPSI_CFG_PRESENT : Fld := ⟨0x0C8, 28, 28, 4⟩
def TE_PPSI_CFG_GLITCH : Fld := ⟨0x0C8, 27, 16, 4⟩
def TE_PPSI_CFG_EDGES : Fld := ⟨0x0C8, 15, 0, 4⟩
def TE_FSYNC_CFG_MODE : Fld := ⟨0x0D0, 29, 28, 0⟩
def TE_FSYNC_CFG_POL : Fld := ⟨0x0D0, 27, 27, 0⟩
def TE_FSYNC_CFG_DIV : Fld := ⟨0x0D0, 12, 0, 0⟩
def TE_FSYNC_STAT_PRESENT : Fld := ⟨0x0D4, 31, 31, 0⟩
def TE_FSYNC_STAT_GLITCH : Fld := ⟨0x0D4, 15, 0, 0⟩
def TE_PPSO_CFG_EN : Fld := ⟨0x0D8, 31, 31, 4⟩
def TE_PPSO_CFG_TB : Fld := ⟨0x0D8, 30, 28, 4⟩
def TE_PPSO_CFG_WIDTH : Fld := ⟨0x0D8, 11, 0, 4⟩
def TE_PPSO_OFS_OFS : Fld := ⟨0x0E0, 31, 0, 4⟩
def TE_RCLK_CFG_EN : Fld := ⟨0x0E8, 31, 31, 4⟩
def TE_RCLK_CFG_SQ : Fld := ⟨0x0E8, 30, 30, 4⟩
def TE_RCLK_CFG_SRC : Fld := ⟨0x0E8, 24, 16, 4⟩
def TE_RCLK_CFG_DIV : Fld := ⟨0x0E8, 0, 0, 4⟩
def TE_TOD_CFG_CLR_1STEP : Fld := ⟨0x0F0, 31, 31, 0⟩
def TE_TOD_CFG_DIV : Fld := ⟨0x0F0, 12, 0, 0⟩
def TE_1STEP_SKIP_COUNT : Fld := ⟨0x0F4, 31, 0, 0⟩
def TE_TB_CMD_OP : Fld := ⟨0x040, 31, 28, 0⟩
def TE_TB_CMD_AT : Fld := ⟨0x040, 25, 24, 0⟩
def TE_TB_STAT_ACQ : Fld := ⟨0x044, 31, 31, 0⟩
def TE_TB_STAT_COMPAT : Fld := ⟨0x044, 30, 30, 0⟩
def TE_TB_STAT_PEND : Fld := ⟨0x044, 29, 29, 0⟩
def TE_TB_STAT_REJ : Fld := ⟨0x044, 28, 28, 0⟩
def TE_TB_STAT_SLEWING : Fld := ⟨0x044, 27, 27, 0⟩
def TE_TB_STAT_EPOCH : Fld := ⟨0x044, 15, 0, 0⟩
def TE_TB_SEC_LO_SEC : Fld := ⟨0x048, 31, 0, 0⟩
def TE_TB_SEC_HI_SEC : Fld := ⟨0x04C, 15, 0, 0⟩
def TE_TB_NS_NS : Fld := ⟨0x050, 29, 0, 0⟩
def TE_TB_FRAC_FRAC : Fld := ⟨0x054, 31, 0, 0⟩
def TE_TB_SET_SEC_LO_SEC : Fld := ⟨0x058, 31, 0, 0⟩
def TE_TB_SET_SEC_HI_SEC : Fld := ⟨0x05C, 15, 0, 0⟩
def TE_TB_SET_NS_NS : Fld := ⟨0x060, 29, 0, 0⟩
def TE_TB_OFS_LO_OFS : Fld := ⟨0x064, 31, 0, 0⟩
def TE_TB_OFS_HI_OFS : Fld := ⟨0x068, 31, 0, 0⟩
def TE_TB_RATE_LO_RATE : Fld := ⟨0x06C, 31, 0, 0⟩
def TE_TB_RATE_HI_RATE : Fld := ⟨0x070, 15, 0, 0⟩
def TE_TB_SLEW_MAX : Fld := ⟨0x074, 10, 0, 0⟩
def TE_TB_SLEW_REM_LO_REM : Fld := ⟨0x078, 31, 0, 0⟩
def TE_TB_SLEW_REM_HI_REM : Fld := ⟨0x07C, 31, 0, 0⟩
def TE_TB_REF_CFG_EN : Fld := ⟨0x080, 31, 31, 0⟩
def TE_TB_REF_CFG_SRC : Fld := ⟨0x080, 30, 30, 0⟩
def TE_TB_REF_CFG_JUMP_THR : Fld := ⟨0x080, 29, 0, 0⟩
def TE_TB_REF_OFS_OFS : Fld := ⟨0x084, 31, 0, 0⟩
def TE_TB_REF_JUMP_OFS : Fld := ⟨0x088, 31, 0, 0⟩
def TE_TB_LAST_DELTA_LO_DELTA : Fld := ⟨0x08C, 31, 0, 0⟩
def TE_TB_LAST_DELTA_HI_DELTA : Fld := ⟨0x090, 31, 0, 0⟩
def TE_TB_TRIG_TIME : Fld := ⟨0x098, 31, 0, 8⟩
def TE_TB_TRIG_CTL_ARM : Fld := ⟨0x09C, 31, 31, 8⟩
def TE_TB_TRIG_CTL_FIRED : Fld := ⟨0x09C, 30, 30, 8⟩
def TE_TB_TRIG_CTL_LATE : Fld := ⟨0x09C, 29, 29, 8⟩
def TE_TB_TRIG_CTL_CANCELLED : Fld := ⟨0x09C, 28, 28, 8⟩
def TE_TB_ALM_SEC_LO_SEC : Fld := ⟨0x0A8, 31, 0, 0⟩
def TE_TB_ALM_SEC_HI_SEC : Fld := ⟨0x0AC, 15, 0, 0⟩
def TE_TB_ALM_NS_NS : Fld := ⟨0x0B0, 29, 0, 0⟩
def TE_TB_ALM_CTL_ARM : Fld := ⟨0x0B4, 31, 31, 0⟩
def TE_TB_ALM_CTL_FIRED : Fld := ⟨0x0B4, 30, 30, 0⟩
def TE_TB_ALM_CTL_LATE : Fld := ⟨0x0B4, 29, 29, 0⟩
def GT_CTRL_EN : Fld := ⟨0x0C0, 31, 31, 0⟩
def GT_CTRL_CONFIG_CHANGE : Fld := ⟨0x0C0, 30, 30, 0⟩
def GT_CTRL_CANCEL : Fld := ⟨0x0C0, 29, 29, 0⟩
def GT_CTRL_TB : Fld := ⟨0x0C0, 18, 16, 0⟩
def GT_CTRL_IDLE_GATES : Fld := ⟨0x0C0, 7, 0, 0⟩
def GT_ADMIN_BASE_SEC_LO_SEC : Fld := ⟨0x0C4, 31, 0, 0⟩
def GT_ADMIN_BASE_SEC_HI_SEC : Fld := ⟨0x0C8, 15, 0, 0⟩
def GT_ADMIN_BASE_NS_NS : Fld := ⟨0x0CC, 29, 0, 0⟩
def GT_ADMIN_CYCLE_CYCLE : Fld := ⟨0x0D0, 29, 0, 0⟩
def GT_ADMIN_LEN_LEN : Fld := ⟨0x0D4, 10, 0, 0⟩
def GT_CFG_SETUP : Fld := ⟨0x0D8, 29, 20, 0⟩
def GT_CFG_HOLD_LIMIT : Fld := ⟨0x0D8, 3, 0, 0⟩
def GT_OPER_BASE_SEC_LO_SEC : Fld := ⟨0x0DC, 31, 0, 0⟩
def GT_OPER_BASE_SEC_HI_SEC : Fld := ⟨0x0E0, 15, 0, 0⟩
def GT_OPER_BASE_NS_NS : Fld := ⟨0x0E4, 29, 0, 0⟩
def GT_OPER_CYCLE_CYCLE : Fld := ⟨0x0E8, 29, 0, 0⟩
def GT_OPER_LEN_LEN : Fld := ⟨0x0EC, 10, 0, 0⟩
def GT_STATUS_OPER : Fld := ⟨0x0F0, 31, 31, 0⟩
def GT_STATUS_PEND : Fld := ⟨0x0F0, 30, 30, 0⟩
def GT_STATUS_COPY : Fld := ⟨0x0F0, 29, 29, 0⟩
def GT_STATUS_REJ : Fld := ⟨0x0F0, 28, 28, 0⟩
def GT_STATUS_GATES : Fld := ⟨0x0F0, 23, 16, 0⟩
def GT_STATUS_ENTRY : Fld := ⟨0x0F0, 9, 0, 0⟩
def GT_START_SKIP_N : Fld := ⟨0x0F8, 31, 0, 0⟩
def GT_MAXWIN_NS : Fld := ⟨0x100, 31, 0, 4⟩
def GT_CNT_CLR : Fld := ⟨0x120, 1, 1, 0⟩
def GT_CNT_SNAP : Fld := ⟨0x120, 0, 0, 0⟩
def TM_LAT_CFG_EN : Fld := ⟨0x0C0, 31, 31, 0⟩
def TM_LAT_CFG_CLR : Fld := ⟨0x0C0, 30, 30, 0⟩
def TM_LAT_CFG_TB : Fld := ⟨0x0C0, 26, 24, 0⟩
def TM_LAT_CFG_HIST_SHIFT : Fld := ⟨0x0C0, 20, 16, 0⟩
def TM_LAT_CFG_PERIOD : Fld := ⟨0x0C0, 15, 0, 0⟩
def EPOCH_SKIP_COUNT : Fld := ⟨0x0C4, 31, 0, 0⟩
def HIST_CARRY_COUNT : Fld := ⟨0x0C8, 31, 0, 0⟩
def TM_LAT_SEQ_SEQ : Fld := ⟨0x0CC, 15, 0, 0⟩
def LK_LEARN_CFG_EN : Fld := ⟨0x0C0, 31, 31, 0⟩
def LK_LEARN_CFG_FREEZE : Fld := ⟨0x0C0, 23, 16, 0⟩
def LK_LEARN_CFG_MOVE_THR : Fld := ⟨0x0C0, 15, 0, 0⟩
def LK_MOVE_SRC_COUNT : Fld := ⟨0x0C4, 31, 16, 0⟩
def LK_MOVE_SRC_SRC : Fld := ⟨0x0C4, 5, 0, 0⟩
def LK_HP_CFG_AUTO : Fld := ⟨0x0C8, 31, 31, 0⟩
def LK_HP_CFG_STASH_PCT : Fld := ⟨0x0C8, 30, 24, 0⟩
def LK_HP_CFG_RELOC_THR : Fld := ⟨0x0C8, 23, 16, 0⟩
def LK_HP_CFG_HOLD : Fld := ⟨0x0C8, 15, 8, 0⟩
def LK_HP_CFG_MIN_GAP : Fld := ⟨0x0C8, 7, 0, 0⟩
def LK_HP_STAT_PRESS : Fld := ⟨0x0CC, 31, 31, 4⟩
def LK_HP_STAT_STASH : Fld := ⟨0x0CC, 30, 20, 4⟩
def LK_HP_STAT_RELOC_AVG : Fld := ⟨0x0CC, 15, 0, 4⟩
def LK_RSD_CTRL_START : Fld := ⟨0x0D8, 31, 31, 0⟩
def LK_RSD_CTRL_REJ : Fld := ⟨0x0D8, 30, 30, 0⟩
def LK_RSD_CTRL_TID : Fld := ⟨0x0D8, 29, 28, 0⟩
def LK_RSD_JRNL_ACTIVE : Fld := ⟨0x0DC, 31, 31, 0⟩
def LK_RSD_JRNL_GEN : Fld := ⟨0x0DC, 30, 30, 0⟩
def LK_RSD_JRNL_TID : Fld := ⟨0x0DC, 29, 28, 0⟩
def LK_RSD_JRNL_CURSOR : Fld := ⟨0x0DC, 19, 0, 0⟩
def LK_PFX_CTRL_REBUILD : Fld := ⟨0x0E0, 31, 31, 0⟩
def LK_PFX_CTRL_BUSY : Fld := ⟨0x0E0, 30, 30, 0⟩
def LK_PFX_CTRL_REBUILDS : Fld := ⟨0x0E0, 15, 0, 0⟩
def LK_CTI_CFG_ETH_EN : Fld := ⟨0x0E4, 31, 31, 0⟩
def LK_CTI_CFG_UDP_EN : Fld := ⟨0x0E4, 30, 30, 0⟩
def LK_CTI_CFG_ETYPE : Fld := ⟨0x0E4, 15, 0, 0⟩
def LK_CTI_UDP_PORT : Fld := ⟨0x0E8, 15, 0, 0⟩
def LK_V6LEN_LEN0 : Fld := ⟨0x0F0, 7, 0, 4⟩
def LK_V6LEN_LEN1 : Fld := ⟨0x0F0, 15, 8, 4⟩
def LK_V6LEN_LEN2 : Fld := ⟨0x0F0, 23, 16, 4⟩
def LK_V6LEN_LEN3 : Fld := ⟨0x0F0, 31, 24, 4⟩
def LK_CNT_CLR : Fld := ⟨0x140, 1, 1, 0⟩
def LK_CNT_SNAP : Fld := ⟨0x140, 0, 0, 0⟩
def BP_POOL_CFG_EN : Fld := ⟨0x0C0, 31, 31, 16⟩
def BP_POOL_CFG_TYPE : Fld := ⟨0x0C0, 30, 30, 16⟩
def BP_POOL_CFG_COUNT : Fld := ⟨0x0C0, 23, 0, 16⟩
def BP_POOL_BASE_BASE : Fld := ⟨0x0C4, 22, 0, 16⟩
def BP_POOL_STAT_INIT : Fld := ⟨0x0C8, 31, 31, 16⟩
def BP_POOL_STAT_BROKEN : Fld := ⟨0x0C8, 30, 30, 16⟩
def BP_POOL_STAT_FREE : Fld := ⟨0x0C8, 23, 0, 16⟩
def BP_POOL_MIN_MIN : Fld := ⟨0x0CC, 23, 0, 16⟩
def BP_CMD_OP : Fld := ⟨0x1C0, 31, 28, 0⟩
def BP_CMD_POOL : Fld := ⟨0x1C0, 3, 0, 0⟩
def BP_CMD_STAT_REJ : Fld := ⟨0x1C4, 31, 31, 0⟩
def BP_CMD_STAT_BUSY : Fld := ⟨0x1C4, 30, 30, 0⟩
def BP_BAD_LAST_VALID : Fld := ⟨0x1C8, 31, 31, 0⟩
def BP_BAD_LAST_REASON : Fld := ⟨0x1C8, 30, 27, 0⟩
def BP_BAD_LAST_REQ : Fld := ⟨0x1C8, 26, 20, 0⟩
def BP_BAD_HANDLE_HANDLE : Fld := ⟨0x1CC, 23, 0, 0⟩
def BP_NOBUF_SRC_CAUSE : Fld := ⟨0x1D0, 13, 12, 0⟩
def BP_NOBUF_SRC_POOL : Fld := ⟨0x1D0, 11, 8, 0⟩
def BP_NOBUF_SRC_REQ : Fld := ⟨0x1D0, 6, 0, 0⟩
def BP_CNT_CLR : Fld := ⟨0x1E0, 1, 1, 0⟩
def BP_CNT_SNAP : Fld := ⟨0x1E0, 0, 0, 0⟩
def DM_MODE_MODE : Fld := ⟨0x0C0, 1, 0, 0⟩
def DM_SCHED_AGE_MAX : Fld := ⟨0x0C4, 31, 16, 0⟩
def DM_SCHED_HIT_MAX : Fld := ⟨0x0C4, 11, 8, 0⟩
def DM_WM_WM_HIGH : Fld := ⟨0x0C8, 14, 8, 0⟩
def DM_WM_WM_LOW : Fld := ⟨0x0C8, 6, 0, 0⟩
def DM_DP_CFG_CLASS : Fld := ⟨0x0D0, 31, 30, 4⟩
def DM_DP_CFG_TARGET : Fld := ⟨0x0D0, 15, 0, 4⟩
def DM_REF_STAT_TEMP : Fld := ⟨0x100, 31, 24, 4⟩
def DM_REF_STAT_THROT : Fld := ⟨0x100, 23, 23, 4⟩
def DM_REF_STAT_X2 : Fld := ⟨0x100, 22, 22, 4⟩
def DM_REF_STAT_CATCHUP_MAX : Fld := ⟨0x100, 15, 8, 4⟩
def DM_REF_STAT_DEBT : Fld := ⟨0x100, 7, 0, 4⟩
def DM_THERM_THROTTLE : Fld := ⟨0x108, 7, 0, 0⟩
def DM_FREQ_CTRL_GO : Fld := ⟨0x10C, 31, 31, 0⟩
def DM_FREQ_CTRL_FORCE : Fld := ⟨0x10C, 30, 30, 0⟩
def DM_FREQ_CTRL_INIT1 : Fld := ⟨0x10C, 29, 29, 0⟩
def DM_FREQ_CTRL_TARGET : Fld := ⟨0x10C, 0, 0, 0⟩
def DM_FREQ_STAT_BUSY : Fld := ⟨0x110, 31, 31, 0⟩
def DM_FREQ_STAT_DEFER : Fld := ⟨0x110, 30, 30, 0⟩
def DM_FREQ_STAT_ABANDON : Fld := ⟨0x110, 29, 29, 0⟩
def DM_FREQ_STAT_FAIL : Fld := ⟨0x110, 28, 28, 0⟩
def DM_FREQ_STAT_CUR : Fld := ⟨0x110, 16, 16, 0⟩
def DM_FREQ_STAT_LAST : Fld := ⟨0x110, 15, 0, 0⟩
def DM_TRAIN_CTRL_START : Fld := ⟨0x114, 31, 31, 0⟩
def DM_TRAIN_CTRL_STEPS : Fld := ⟨0x114, 4, 0, 0⟩
def DM_TRAIN_CFG_PERIOD : Fld := ⟨0x118, 9, 0, 0⟩
def DM_TRAIN_STAT_BUSY : Fld := ⟨0x11C, 31, 31, 0⟩
def DM_TRAIN_STAT_VALID1 : Fld := ⟨0x11C, 30, 30, 0⟩
def DM_TRAIN_STAT_VALID0 : Fld := ⟨0x11C, 29, 29, 0⟩
def DM_TRAIN_STAT_STEP : Fld := ⟨0x11C, 26, 24, 0⟩
def DM_TRAIN_STAT_ABANDONED : Fld := ⟨0x11C, 22, 22, 0⟩
def DM_TRAIN_STAT_FAILED : Fld := ⟨0x11C, 21, 21, 0⟩
def DM_TRAIN_STAT_PC : Fld := ⟨0x11C, 13, 8, 0⟩
def DM_SCRUB_PERIOD_H : Fld := ⟨0x120, 7, 0, 0⟩
def DM_SCRUB_POS_POS : Fld := ⟨0x124, 25, 0, 0⟩
def DM_CNT_CLR : Fld := ⟨0x140, 1, 1, 0⟩
def DM_CNT_SNAP : Fld := ⟨0x140, 0, 0, 0⟩
def DM_TS_ROW_TRCD : Fld := ⟨0x040, 31, 24, 0⟩
def DM_TS_ROW_TRP : Fld := ⟨0x040, 23, 16, 0⟩
def DM_TS_ROW_TRAS : Fld := ⟨0x040, 15, 8, 0⟩
def DM_TS_ROW_TRRD : Fld := ⟨0x040, 7, 0, 0⟩
def DM_TS_REF_TREFI : Fld := ⟨0x044, 31, 16, 0⟩
def DM_TS_REF_TRFC : Fld := ⟨0x044, 15, 0, 0⟩
def DM_TS_LAT_RL : Fld := ⟨0x048, 31, 24, 0⟩
def DM_TS_LAT_WL : Fld := ⟨0x048, 23, 16, 0⟩
def DM_TS_LAT_TFAW : Fld := ⟨0x048, 15, 8, 0⟩
def DM_TS_LAT_TCCD : Fld := ⟨0x048, 7, 0, 0⟩
def DM_TS_CLK_RATE : Fld := ⟨0x04C, 15, 0, 0⟩
def HX_LINK_UP : Fld := ⟨0x0C0, 31, 31, 0⟩
def HX_LINK_CXL : Fld := ⟨0x0C0, 8, 8, 0⟩
def HX_LINK_WIDTH : Fld := ⟨0x0C0, 7, 4, 0⟩
def HX_LINK_SPEED : Fld := ⟨0x0C0, 3, 0, 0⟩
def HX_LEVEL_CUR : Fld := ⟨0x0C4, 19, 16, 0⟩
def HX_LEVEL_MAX : Fld := ⟨0x0C4, 11, 8, 0⟩
def HX_LEVEL_DRV : Fld := ⟨0x0C4, 3, 0, 0⟩
def HX_RING_OVF_SRC_CAUSE : Fld := ⟨0x0C8, 8, 8, 0⟩
def HX_RING_OVF_SRC_RING : Fld := ⟨0x0C8, 7, 0, 0⟩
def HX_RING_SEC_SEC : Fld := ⟨0x0D0, 31, 0, 4⟩
def HX_APER0_EN : Fld := ⟨0x0F0, 31, 31, 0⟩
def HX_APER0_BASE : Fld := ⟨0x0F0, 11, 0, 0⟩
def MX_LINK_UP : Fld := ⟨0x0C0, 31, 31, 0⟩
def MX_LINK_SWITCH : Fld := ⟨0x0C0, 30, 30, 0⟩
def MX_LINK_WIDTH : Fld := ⟨0x0C0, 4, 0, 0⟩
def MX_WIN_LIMIT : Fld := ⟨0x0C4, 26, 16, 0⟩
def MX_WIN_SIZE : Fld := ⟨0x0C4, 10, 0, 0⟩
def MX_FAULT_ADDR_LO_ADDR : Fld := ⟨0x0C8, 31, 0, 0⟩
def MX_FAULT_ADDR_HI_VALID : Fld := ⟨0x0CC, 31, 31, 0⟩
def MX_FAULT_ADDR_HI_CAUSE : Fld := ⟨0x0CC, 30, 28, 0⟩
def MX_FAULT_ADDR_HI_ADDR : Fld := ⟨0x0CC, 7, 0, 0⟩
def MX_CNT_CLR : Fld := ⟨0x0E0, 1, 1, 0⟩
def MX_CNT_SNAP : Fld := ⟨0x0E0, 0, 0, 0⟩
def MX_IDE_CTRL_EN : Fld := ⟨0x0C0, 31, 31, 0⟩
def MX_IDE_CTRL_RESUME : Fld := ⟨0x0C0, 30, 30, 0⟩
def MX_IDE_STAT_SECURE : Fld := ⟨0x0C4, 31, 31, 0⟩
def MX_IDE_STAT_FAILED : Fld := ⟨0x0C4, 30, 30, 0⟩
def MX_DOE_CTRL_GO : Fld := ⟨0x0C8, 31, 31, 0⟩
def MX_DOE_CTRL_BUSY : Fld := ⟨0x0C8, 30, 30, 0⟩
def MX_DOE_CTRL_ERR : Fld := ⟨0x0C8, 29, 29, 0⟩
def MX_DOE_CTRL_RLEN : Fld := ⟨0x0C8, 10, 0, 0⟩
def MX_DOE_WR_DATA : Fld := ⟨0x0CC, 31, 0, 0⟩
def MX_DOE_RD_DATA : Fld := ⟨0x0D0, 31, 0, 0⟩
def UL_GRP_EN : Fld := ⟨0x0C0, 31, 31, 4⟩
def UL_GRP_UP : Fld := ⟨0x0C0, 30, 30, 4⟩
def UL_GRP_WIDTH : Fld := ⟨0x0C0, 29, 28, 4⟩
def UL_GRP_FEC : Fld := ⟨0x0C0, 27, 26, 4⟩
def UL_GRP_MAX_PKT : Fld := ⟨0x0C0, 13, 0, 4⟩
def UL_SEQ_SRC_STREAM : Fld := ⟨0x100, 11, 0, 0⟩
def UL_ELIM_SRC_STREAM : Fld := ⟨0x104, 11, 0, 0⟩
def CE_CFG_EN : Fld := ⟨0x0C0, 31, 31, 0⟩
def CE_CFG_ETYPE : Fld := ⟨0x0C0, 15, 0, 0⟩
def CE_SMAC_LO_SMAC : Fld := ⟨0x0C4, 31, 0, 0⟩
def CE_SMAC_HI_SMAC : Fld := ⟨0x0C8, 15, 0, 0⟩
def CE_LAST_LOF : Fld := ⟨0x0CC, 26, 16, 0⟩
def CE_LAST_SLIP : Fld := ⟨0x0CC, 10, 0, 0⟩
def PX_CFG_EN : Fld := ⟨0x040, 31, 31, 0⟩
def PX_CFG_COLD : Fld := ⟨0x040, 30, 30, 0⟩
def PX_CFG_REVERT : Fld := ⟨0x040, 29, 29, 0⟩
def PX_CFG_V1_OK : Fld := ⟨0x040, 28, 28, 0⟩
def PX_CFG_ROLE : Fld := ⟨0x040, 27, 27, 0⟩
def PX_CFG_SW_LEAD : Fld := ⟨0x040, 23, 16, 0⟩
def PX_CFG_ALIGN_TOL : Fld := ⟨0x040, 15, 8, 0⟩
def PX_CFG_TX_LEAD : Fld := ⟨0x040, 7, 0, 0⟩
def PX_TMO_WTR : Fld := ⟨0x044, 31, 20, 0⟩
def PX_TMO_HB_MISS : Fld := ⟨0x044, 15, 8, 0⟩
def PX_TMO_WIT_WIN : Fld := ⟨0x044, 7, 0, 0⟩
def PX_PORTS_LO_PORTS : Fld := ⟨0x048, 31, 0, 0⟩
def PX_PORTS_HI_PORTS : Fld := ⟨0x04C, 15, 0, 0⟩
def PX_WIT_NOW : Fld := ⟨0x050, 15, 8, 0⟩
def PX_WIT_EN : Fld := ⟨0x050, 7, 0, 0⟩
def PX_STATE_STATE : Fld := ⟨0x054, 31, 28, 0⟩
def PX_STATE_PEER : Fld := ⟨0x054, 27, 24, 0⟩
def PX_STATE_VER : Fld := ⟨0x054, 23, 20, 0⟩
def PX_STATE_TERMS : Fld := ⟨0x054, 19, 19, 0⟩
def PX_STATE_A_OK : Fld := ⟨0x054, 18, 18, 0⟩
def PX_STATE_B_OK : Fld := ⟨0x054, 17, 17, 0⟩
def PX_STATE_B_INV : Fld := ⟨0x054, 16, 16, 0⟩
def PX_STATE_WIT : Fld := ⟨0x054, 15, 15, 0⟩
def PX_STATE_ALIGNED : Fld := ⟨0x054, 14, 14, 0⟩
def PX_STATE_LIG_UP : Fld := ⟨0x054, 13, 13, 0⟩
def PX_STATE_WTR_LEFT : Fld := ⟨0x054, 12, 0, 0⟩
def PX_SWQ_TX_A : Fld := ⟨0x058, 31, 24, 0⟩
def PX_SWQ_TX_B : Fld := ⟨0x058, 23, 16, 0⟩
def PX_SWQ_RX_A : Fld := ⟨0x058, 15, 8, 0⟩
def PX_SWQ_RX_B : Fld := ⟨0x058, 7, 0, 0⟩
def PX_CMD_OP : Fld := ⟨0x05C, 31, 28, 0⟩
def PX_CMD_STAT_REJ : Fld := ⟨0x060, 31, 31, 0⟩
def PX_CMD_STAT_BUSY : Fld := ⟨0x060, 30, 30, 0⟩
def PX_CMD_STAT_LO : Fld := ⟨0x060, 29, 29, 0⟩
def PX_CMD_STAT_LEFT : Fld := ⟨0x060, 7, 0, 0⟩
def PX_SW_SFC_LO_SFC : Fld := ⟨0x064, 31, 0, 0⟩
def PX_SW_SFC_HI_SFC : Fld := ⟨0x068, 18, 0, 0⟩
def PX_CKPT_BASE_LO_ADDR : Fld := ⟨0x06C, 31, 0, 0⟩
def PX_CKPT_BASE_HI_ADDR : Fld := ⟨0x070, 7, 0, 0⟩
def PX_CKPT_CFG_SLOT_MIB : Fld := ⟨0x074, 7, 0, 0⟩
def PX_CKPT_STAT_SLOT : Fld := ⟨0x078, 31, 31, 0⟩
def PX_CKPT_STAT_CAUSE : Fld := ⟨0x078, 30, 28, 0⟩
def PX_CKPT_STAT_DSEQ : Fld := ⟨0x078, 27, 16, 0⟩
def PX_CKPT_STAT_GEN : Fld := ⟨0x078, 15, 0, 0⟩
def PX_MEAS_BURSTS : Fld := ⟨0x07C, 31, 16, 0⟩
def PX_MEAS_WIN : Fld := ⟨0x07C, 15, 0, 0⟩
def PX_CNT_CLR : Fld := ⟨0x080, 1, 1, 0⟩
def PX_CNT_SNAP : Fld := ⟨0x080, 0, 0, 0⟩
def PX_OFS_VALID : Fld := ⟨0x100, 31, 31, 4⟩
def PX_OFS_OFS : Fld := ⟨0x100, 24, 0, 4⟩
def PM_DIDT_CFG_REPORT : Fld := ⟨0x0C0, 15, 8, 0⟩
def PM_DIDT_CFG_MAX : Fld := ⟨0x0C0, 5, 0, 0⟩
def PM_DIDT_STAT_LAST : Fld := ⟨0x0C4, 31, 16, 0⟩
def PM_DIDT_STAT_SECT : Fld := ⟨0x0C4, 10, 0, 0⟩
def PM_DIDT_CNT_COUNT : Fld := ⟨0x0C8, 31, 0, 0⟩
def PM_MODBUS_CFG_RSSI_WAIT : Fld := ⟨0x0CC, 15, 8, 0⟩
def PM_MODBUS_CFG_SPEED : Fld := ⟨0x0CC, 0, 0, 0⟩
def PM_MODBUS_STAT_STUCK : Fld := ⟨0x0D0, 11, 0, 0⟩
def PM_TRC_BASE_LO_ADDR : Fld := ⟨0x0D4, 31, 0, 0⟩
def PM_TRC_BASE_HI_ADDR : Fld := ⟨0x0D8, 7, 0, 0⟩
def PM_TRC_CTRL_OP : Fld := ⟨0x200, 31, 28, 64⟩
def PM_TRC_CFG_DEPTH : Fld := ⟨0x204, 31, 28, 64⟩
def PM_TRC_CFG_PASSES : Fld := ⟨0x204, 26, 24, 64⟩
def PM_TRC_CFG_QW : Fld := ⟨0x204, 23, 16, 64⟩
def PM_TRC_CFG_PER : Fld := ⟨0x204, 15, 8, 64⟩
def PM_TRC_CFG_AVG : Fld := ⟨0x204, 7, 0, 64⟩
def PM_TRC_ZERO_ZERO : Fld := ⟨0x208, 15, 0, 64⟩
def PM_TRC_STAT_STATE : Fld := ⟨0x20C, 31, 29, 64⟩
def PM_TRC_STAT_URGENT : Fld := ⟨0x20C, 28, 28, 64⟩
def PM_TRC_STAT_PASS : Fld := ⟨0x20C, 26, 24, 64⟩
def PM_TRC_STAT_STEP : Fld := ⟨0x20C, 19, 16, 64⟩
def PM_TRC_STAT_WIN : Fld := ⟨0x20C, 15, 0, 64⟩
def PM_TRC_DET_REFL_TH : Fld := ⟨0x210, 31, 24, 64⟩
def PM_TRC_DET_LOSS_TH : Fld := ⟨0x210, 23, 16, 64⟩
def PM_TRC_DET_DELTA_TH : Fld := ⟨0x210, 15, 8, 64⟩
def PM_TRC_DET_BREAK_TH : Fld := ⟨0x210, 7, 0, 64⟩
def PM_TRC_RES_NEVT : Fld := ⟨0x214, 31, 24, 64⟩
def PM_TRC_RES_BREAK : Fld := ⟨0x214, 23, 23, 64⟩
def PM_TRC_RES_DIST : Fld := ⟨0x214, 16, 0, 64⟩
def PM_ALS_CFG_EN : Fld := ⟨0x218, 31, 31, 64⟩
def PM_ALS_CFG_ALS_TRACE : Fld := ⟨0x218, 30, 30, 64⟩
def PM_ALS_CFG_PWR : Fld := ⟨0x218, 23, 16, 64⟩
def PM_ALS_CFG_BRK_DIST : Fld := ⟨0x218, 15, 8, 64⟩
def PM_ALS_CFG_ALS_HOLD : Fld := ⟨0x218, 7, 0, 64⟩
def PM_ALS_CFG2_BUDGET : Fld := ⟨0x21C, 31, 16, 64⟩
def PM_ALS_CFG2_ON_TH : Fld := ⟨0x21C, 15, 8, 64⟩
def PM_ALS_CFG2_FAST_AVG : Fld := ⟨0x21C, 7, 0, 64⟩
def PM_ALS_CMD_OP : Fld := ⟨0x220, 31, 28, 64⟩
def PM_ALS_STAT_STATE : Fld := ⟨0x224, 31, 29, 64⟩
def PM_ALS_STAT_LASER : Fld := ⟨0x224, 28, 28, 64⟩
def PM_ALS_STAT_CAUSE : Fld := ⟨0x224, 27, 26, 64⟩
def PM_ALS_STAT_REJ : Fld := ⟨0x224, 25, 25, 64⟩
def PM_ALS_STAT_NEXT : Fld := ⟨0x224, 22, 16, 64⟩
def PM_ALS_ACC_ACC : Fld := ⟨0x228, 15, 0, 64⟩
def PM_MOD_CFG_MAP : Fld := ⟨0x22C, 31, 31, 64⟩
def PM_MOD_CFG_MON_OK : Fld := ⟨0x22C, 30, 30, 64⟩
def PM_MOD_CFG_EXPECT : Fld := ⟨0x22C, 23, 16, 64⟩
def PM_MOD_CFG_POLL : Fld := ⟨0x22C, 7, 0, 64⟩
def PM_MOD_STAT_PRESENT : Fld := ⟨0x230, 31, 31, 64⟩
def PM_MOD_STAT_FAULT : Fld := ⟨0x230, 30, 30, 64⟩
def PM_MOD_STAT_CAUSE : Fld := ⟨0x230, 27, 24, 64⟩
def PM_MOD_STAT_IDENT : Fld := ⟨0x230, 23, 16, 64⟩
def PM_MOD_STAT_FLAGS : Fld := ⟨0x230, 15, 0, 64⟩
def PM_DDM0_TEMP : Fld := ⟨0x234, 31, 16, 64⟩
def PM_DDM0_VCC : Fld := ⟨0x234, 15, 0, 64⟩
def PM_DDM1_BIAS : Fld := ⟨0x238, 31, 16, 64⟩
def PM_DDM1_TXP : Fld := ⟨0x238, 15, 0, 64⟩
def PM_DDM2_RXP : Fld := ⟨0x23C, 15, 0, 64⟩
def PS_PWR_GATE : Fld := ⟨0x044, 31, 31, 0⟩
def PS_PWR_GATED : Fld := ⟨0x044, 30, 30, 0⟩
def PS_PWR_HUSH : Fld := ⟨0x044, 7, 0, 0⟩
def PW_STATE_STATE : Fld := ⟨0x040, 2, 0, 0⟩
def PW_CTRL_OP : Fld := ⟨0x044, 31, 28, 0⟩
def PW_CTRL_REJ : Fld := ⟨0x044, 0, 0, 0⟩
def PW_WAKE_EN_EN : Fld := ⟨0x048, 3, 0, 0⟩
def PW_WAKE_TMO_REF : Fld := ⟨0x04C, 31, 24, 0⟩
def PW_WAKE_TMO_PG2 : Fld := ⟨0x04C, 23, 16, 0⟩
def PW_WAKE_TMO_PG1 : Fld := ⟨0x04C, 15, 8, 0⟩
def PW_WAKE_TMO_PG0 : Fld := ⟨0x04C, 7, 0, 0⟩
def PW_WAKE_CFG_WAKE_RETRY : Fld := ⟨0x050, 3, 0, 0⟩
def PW_WAKE_STATUS_FAILED : Fld := ⟨0x054, 31, 31, 0⟩
def PW_WAKE_STATUS_HX_LATE : Fld := ⟨0x054, 30, 30, 0⟩
def PW_WAKE_STATUS_MX_LATE : Fld := ⟨0x054, 29, 29, 0⟩
def PW_WAKE_STATUS_REF_FB : Fld := ⟨0x054, 26, 24, 0⟩
def PW_WAKE_STATUS_ATTEMPT : Fld := ⟨0x054, 23, 20, 0⟩
def PW_WAKE_STATUS_STEP : Fld := ⟨0x054, 19, 16, 0⟩
def PW_WAKE_STATUS_RET_FAIL : Fld := ⟨0x054, 15, 8, 0⟩
def PW_WAKE_STATUS_RET_DONE : Fld := ⟨0x054, 7, 0, 0⟩
def PW_LAST_WAKE_SRC : Fld := ⟨0x058, 31, 28, 0⟩
def PW_LAST_WAKE_COUNT : Fld := ⟨0x058, 15, 0, 0⟩
def PW_LAST_WAKE_T_MS : Fld := ⟨0x05C, 31, 0, 0⟩
def PW_ALARM_EN : Fld := ⟨0x060, 31, 31, 0⟩
def PW_ALARM_TIME : Fld := ⟨0x060, 23, 0, 0⟩
def PW_SMS_CFG_ADDR : Fld := ⟨0x064, 6, 0, 0⟩
def PW_RET_SEQ_SEQ : Fld := ⟨0x068, 31, 0, 0⟩
def PW_RET_CE_COUNT : Fld := ⟨0x06C, 31, 0, 0⟩
def PW_REF_CTRL_SWITCH : Fld := ⟨0x070, 2, 0, 0⟩
def PW_PIN_STAT_FAULT_N : Fld := ⟨0x074, 3, 3, 0⟩
def PW_PIN_STAT_PWR_EN : Fld := ⟨0x074, 2, 0, 0⟩
def SC_VIOL_LO_ADDR : Fld := ⟨0x0C0, 31, 0, 0⟩
def SC_VIOL_HI_VALID : Fld := ⟨0x0C4, 31, 31, 0⟩
def SC_VIOL_HI_KIND : Fld := ⟨0x0C4, 30, 28, 0⟩
def SC_VIOL_HI_FN : Fld := ⟨0x0C4, 27, 27, 0⟩
def SC_VIOL_HI_WR : Fld := ⟨0x0C4, 26, 26, 0⟩
def SC_VIOL_HI_ADDR : Fld := ⟨0x0C4, 7, 0, 0⟩
def SC_SECT_CFG_SEC : Fld := ⟨0x0C8, 10, 0, 0⟩
def SC_DRAM_CFG_DEF_SEC : Fld := ⟨0x0CC, 0, 0, 0⟩
def SC_RET_WORLD_SEC : Fld := ⟨0x0D0, 7, 0, 0⟩
def SC_LC_STATE : Fld := ⟨0x0D4, 1, 0, 0⟩
def SC_LC_CMD_OP : Fld := ⟨0x0D8, 31, 28, 0⟩
def SC_LC_CMD_CONFIRM : Fld := ⟨0x0D8, 15, 0, 0⟩
def SC_DEV_ID_LO_ID : Fld := ⟨0x0DC, 31, 0, 0⟩
def SC_DEV_ID_HI_ID : Fld := ⟨0x0E0, 31, 0, 0⟩
def SC_DBG_CMD_OP : Fld := ⟨0x0E4, 31, 28, 0⟩
def SC_DBG_STAT_OPEN : Fld := ⟨0x0E8, 31, 31, 0⟩
def SC_DBG_STAT_METHOD : Fld := ⟨0x0E8, 30, 29, 0⟩
def SC_DBG_STAT_PW_SET : Fld := ⟨0x0E8, 28, 28, 0⟩
def SC_DBG_STAT_PW_LOCKED : Fld := ⟨0x0E8, 27, 27, 0⟩
def SC_DBG_STAT_NONCE_VALID : Fld := ⟨0x0E8, 26, 26, 0⟩
def SC_DBG_STAT_REJ : Fld := ⟨0x0E8, 25, 25, 0⟩
def SC_DBG_STAT_PW_FAILS : Fld := ⟨0x0E8, 20, 16, 0⟩
def SC_DBG_STAT_CR_FAILS : Fld := ⟨0x0E8, 15, 0, 0⟩
def SC_DBG_PW_PW : Fld := ⟨0x0F0, 31, 0, 4⟩
def SC_DBG_NONCE_NONCE : Fld := ⟨0x100, 31, 0, 4⟩
def SC_DBG_RESP_RESP : Fld := ⟨0x110, 31, 0, 4⟩
def SC_PAIR_KEY_KEY : Fld := ⟨0x130, 31, 0, 4⟩
def SC_PAIR_CMD_OP : Fld := ⟨0x150, 31, 28, 0⟩
def SC_PAIR_STAT_VALID : Fld := ⟨0x154, 31, 31, 0⟩
def SC_PAIR_KCV_KCV : Fld := ⟨0x158, 31, 0, 0⟩
def SC_RNG_RND : Fld := ⟨0x15C, 31, 0, 0⟩
def DV_RST_DRST : Fld := ⟨0x280, 31, 31, 0⟩
def DV_RST_SRST : Fld := ⟨0x280, 30, 30, 0⟩
def DV_RST_SECT : Fld := ⟨0x280, 3, 0, 0⟩
def DV_RST_STAT_REJ : Fld := ⟨0x284, 31, 31, 0⟩
def DV_RST_STAT_LAST : Fld := ⟨0x284, 19, 16, 0⟩
def DV_RST_STAT_BUSY : Fld := ⟨0x284, 10, 0, 0⟩
def PE_PIN_STAT_FAULTS : Fld := ⟨0x078, 31, 16, 0⟩
def PE_PIN_STAT_MON_HI : Fld := ⟨0x078, 7, 7, 0⟩
def PE_PIN_STAT_MON_LO : Fld := ⟨0x078, 6, 6, 0⟩
def PE_PIN_STAT_RSSI_HI : Fld := ⟨0x078, 5, 5, 0⟩
def PE_PIN_STAT_RSSI_LO : Fld := ⟨0x078, 4, 4, 0⟩
def PE_PIN_STAT_BRST_HI : Fld := ⟨0x078, 3, 3, 0⟩
def PE_PIN_STAT_BRST_LO : Fld := ⟨0x078, 2, 2, 0⟩
def PE_PIN_STAT_TXDIS_HI : Fld := ⟨0x078, 1, 1, 0⟩
def PE_PIN_STAT_TXDIS_LO : Fld := ⟨0x078, 0, 0, 0⟩
def PM_CNT_CLR : Fld := ⟨0x0C0, 1, 1, 0⟩
def PM_CNT_SNAP : Fld := ⟨0x0C0, 0, 0, 0⟩
def HX_APER1_EN : Fld := ⟨0x0C0, 31, 31, 0⟩
def HX_APER1_BASE : Fld := ⟨0x0C0, 11, 0, 0⟩

end F

namespace C

def DS_FRAMES : Ctr := ⟨0x044, 64, false⟩
def DS_BYTES : Ctr := ⟨0x04C, 64, false⟩
def DS_PKTS : Ctr := ⟨0x054, 32, false⟩
def DS_XGEM : Ctr := ⟨0x058, 32, false⟩
def DS_FRAGS : Ctr := ⟨0x05C, 32, false⟩
def DS_CW_STD : Ctr := ⟨0x060, 32, false⟩
def DS_CW_LEAN : Ctr := ⟨0x064, 32, false⟩
def DS_CW_IDLE : Ctr := ⟨0x068, 32, false⟩
def DS_LATE_FILL : Ctr := ⟨0x06C, 32, true⟩
def DS_OVERSIZE : Ctr := ⟨0x070, 32, true⟩
def DS_POISON : Ctr := ⟨0x074, 32, true⟩
def DS_PLOAM_TX : Ctr := ⟨0x078, 32, false⟩
def DS_PLOAM_DEFER : Ctr := ⟨0x07C, 32, true⟩
def DS_OMCI_TX : Ctr := ⟨0x080, 32, false⟩
def DS_RAMP_FRAMES : Ctr := ⟨0x084, 32, true⟩
def DS_REALIGNS : Ctr := ⟨0x088, 32, true⟩
def DS_LZ_CLOSES : Ctr := ⟨0x08C, 32, true⟩
def US_GRANTED : Ctr := ⟨0x044, 32, false⟩
def US_RECEIVED : Ctr := ⟨0x048, 32, false⟩
def US_MISSING : Ctr := ⟨0x04C, 32, true⟩
def US_NO_DELIM : Ctr := ⟨0x050, 32, true⟩
def US_ID_MISMATCH : Ctr := ⟨0x054, 32, true⟩
def US_FALSE_DELIM : Ctr := ⟨0x058, 32, true⟩
def US_DRIFT : Ctr := ⟨0x05C, 32, true⟩
def US_GUARD_LIGHT : Ctr := ⟨0x060, 32, true⟩
def US_CW : Ctr := ⟨0x064, 32, false⟩
def US_CW_CORR : Ctr := ⟨0x068, 32, false⟩
def US_CW_UNCORR : Ctr := ⟨0x06C, 32, true⟩
def US_SYM_CORR : Ctr := ⟨0x070, 64, false⟩
def US_BIP_ERR : Ctr := ⟨0x078, 32, true⟩
def US_XGEM : Ctr := ⟨0x07C, 32, false⟩
def US_XGEM_HEC : Ctr := ⟨0x080, 32, true⟩
def US_DELIN_LOSS : Ctr := ⟨0x084, 32, true⟩
def US_XGEM_UNKNOWN : Ctr := ⟨0x088, 32, true⟩
def US_KEY_ERR : Ctr := ⟨0x08C, 32, true⟩
def US_REASM_DROP : Ctr := ⟨0x090, 32, true⟩
def US_OVERSIZE : Ctr := ⟨0x094, 32, true⟩
def US_PKTS : Ctr := ⟨0x098, 32, false⟩
def US_BYTES : Ctr := ⟨0x09C, 64, false⟩
def US_DBRU : Ctr := ⟨0x0A4, 32, false⟩
def US_DBRU_ERR : Ctr := ⟨0x0A8, 32, true⟩
def US_PLOAM_RX : Ctr := ⟨0x0AC, 32, false⟩
def US_PLOAM_MIC : Ctr := ⟨0x0B0, 32, true⟩
def US_OMCI_RX : Ctr := ⟨0x0B4, 32, false⟩
def US_RSSI_SKIP : Ctr := ⟨0x0B8, 32, true⟩
def ACT_SN_RX : Ctr := ⟨0x104, 32, false⟩
def ACT_SN_UNKNOWN : Ctr := ⟨0x108, 32, true⟩
def ACT_SN_DUP : Ctr := ⟨0x10C, 32, true⟩
def ACT_WRONG_PORT : Ctr := ⟨0x110, 32, true⟩
def ACT_RNG_FAIL : Ctr := ⟨0x114, 32, true⟩
def ACT_RNG_RANGE : Ctr := ⟨0x118, 32, true⟩
def ACT_AUTH_FAIL : Ctr := ⟨0x11C, 32, true⟩
def ACT_LOST_EXPIRED : Ctr := ⟨0x120, 32, true⟩
def ACT_EQD_UPD : Ctr := ⟨0x124, 32, false⟩
def GS_MAPS : Ctr := ⟨0x0E4, 32, false⟩
def GS_STALE : Ctr := ⟨0x0E8, 32, true⟩
def GS_STRUCTS : Ctr := ⟨0x0EC, 32, false⟩
def GS_STRUCT_LIMIT : Ctr := ⟨0x0F0, 32, true⟩
def GS_QW_PLACED : Ctr := ⟨0x0F4, 32, false⟩
def GS_QW_NOPLAN : Ctr := ⟨0x0F8, 32, true⟩
def GS_QW_LOST : Ctr := ⟨0x0FC, 32, true⟩
def GS_HINT_RX : Ctr := ⟨0x100, 32, false⟩
def GS_HINT_LATE : Ctr := ⟨0x104, 32, true⟩
def GS_HINT_EARLY : Ctr := ⟨0x108, 32, true⟩
def GS_HINT_OVF : Ctr := ⟨0x10C, 32, true⟩
def GS_HINT_FROZEN : Ctr := ⟨0x110, 32, true⟩
def GS_SHORT : Ctr := ⟨0x114, 32, true⟩
def GS_IDLE : Ctr := ⟨0x118, 64, false⟩
def MS_ROBUST : Ctr := ⟨0x0F4, 32, false⟩
def MS_FAST : Ctr := ⟨0x0F8, 32, false⟩
def MS_REVERT : Ctr := ⟨0x0FC, 32, true⟩
def MS_PINS : Ctr := ⟨0x100, 32, true⟩
def MS_ADV_DROP : Ctr := ⟨0x104, 32, true⟩
def MS_RPT_RX : Ctr := ⟨0x108, 32, false⟩
def MS_RPT_BAD : Ctr := ⟨0x10C, 32, true⟩
def TM_DROP_DIS : Ctr := ⟨0x0E4, 32, true⟩
def TM_DROP_NOXGEM : Ctr := ⟨0x0E8, 32, true⟩
def TM_FLUSHED : Ctr := ⟨0x0EC, 32, true⟩
def TM_DS_DEQ : Ctr := ⟨0x0F0, 64, false⟩
def TM_US_DEQ : Ctr := ⟨0x0F8, 64, false⟩
def GT_HELD : Ctr := ⟨0x124, 32, true⟩
def GT_OVERSIZE : Ctr := ⟨0x128, 32, true⟩
def GT_OVERRUN : Ctr := ⟨0x12C, 32, true⟩
def GT_STARTS : Ctr := ⟨0x130, 32, false⟩
def LK_CLS_MISS : Ctr := ⟨0x144, 32, false⟩
def LK_CTI_RX : Ctr := ⟨0x148, 32, false⟩
def LK_LEARNS : Ctr := ⟨0x14C, 32, false⟩
def LK_LEARN_DROP : Ctr := ⟨0x150, 32, true⟩
def LK_LIMIT_DROP : Ctr := ⟨0x154, 32, true⟩
def LK_MOVES : Ctr := ⟨0x158, 32, false⟩
def LK_SA_STATIC : Ctr := ⟨0x15C, 32, true⟩
def LK_DA_MISS : Ctr := ⟨0x160, 32, false⟩
def LK_HAIRPIN : Ctr := ⟨0x164, 32, true⟩
def LK_PFX_MISS : Ctr := ⟨0x168, 32, true⟩
def LK_TTL_PUNT : Ctr := ⟨0x16C, 32, true⟩
def LK_NH_DROP : Ctr := ⟨0x170, 32, true⟩
def LK_PUNT : Ctr := ⟨0x174, 32, false⟩
def LK_DROP : Ctr := ⟨0x178, 32, true⟩
def LK_RETRY : Ctr := ⟨0x17C, 32, false⟩
def LK_RESEEDS : Ctr := ⟨0x180, 32, false⟩
def BP_ALLOCS : Ctr := ⟨0x1E4, 32, false⟩
def BP_FREES : Ctr := ⟨0x1E8, 32, false⟩
def BP_BAD_FREE : Ctr := ⟨0x1EC, 32, true⟩
def BP_QUARANTINE : Ctr := ⟨0x1F0, 32, true⟩
def DM_CATCHUPS : Ctr := ⟨0x144, 32, true⟩
def DM_THROTTLE_US : Ctr := ⟨0x148, 32, true⟩
def DM_FREQ_CHANGES : Ctr := ⟨0x14C, 32, false⟩
def DM_PAR_RETRY : Ctr := ⟨0x150, 32, true⟩
def DM_SCRUB_PASSES : Ctr := ⟨0x154, 32, false⟩
def MX_RD_REQ : Ctr := ⟨0x0E4, 32, false⟩
def MX_WR_REQ : Ctr := ⟨0x0E8, 32, false⟩
def MX_POISON_RX : Ctr := ⟨0x0EC, 32, true⟩
def MX_WR_DISCARD : Ctr := ⟨0x0F0, 32, true⟩
def PX_TAKEOVERS : Ctr := ⟨0x084, 32, true⟩
def PX_SWITCHES : Ctr := ⟨0x088, 32, false⟩
def PX_ABORTS : Ctr := ⟨0x08C, 32, true⟩
def PX_LIG_BAD : Ctr := ⟨0x090, 32, true⟩
def PX_DELTAS : Ctr := ⟨0x094, 32, false⟩
def PX_IMAGES : Ctr := ⟨0x098, 32, false⟩
def PX_SHADOW_DROP : Ctr := ⟨0x09C, 32, false⟩
def PM_TRACES0 : Ctr := ⟨0x0C4, 32, false⟩
def PM_TRACES1 : Ctr := ⟨0x0D4, 32, false⟩
def PM_TRACES2 : Ctr := ⟨0x0E4, 32, false⟩
def PM_TRACES3 : Ctr := ⟨0x0F4, 32, false⟩
def PM_TRACES4 : Ctr := ⟨0x104, 32, false⟩
def PM_TRACES5 : Ctr := ⟨0x114, 32, false⟩
def PM_TRACES6 : Ctr := ⟨0x124, 32, false⟩
def PM_TRACES7 : Ctr := ⟨0x134, 32, false⟩
def PM_WIN_DISCARD0 : Ctr := ⟨0x0C8, 32, true⟩
def PM_WIN_DISCARD1 : Ctr := ⟨0x0D8, 32, true⟩
def PM_WIN_DISCARD2 : Ctr := ⟨0x0E8, 32, true⟩
def PM_WIN_DISCARD3 : Ctr := ⟨0x0F8, 32, true⟩
def PM_WIN_DISCARD4 : Ctr := ⟨0x108, 32, true⟩
def PM_WIN_DISCARD5 : Ctr := ⟨0x118, 32, true⟩
def PM_WIN_DISCARD6 : Ctr := ⟨0x128, 32, true⟩
def PM_WIN_DISCARD7 : Ctr := ⟨0x138, 32, true⟩
def PM_MUTES0 : Ctr := ⟨0x0CC, 32, true⟩
def PM_MUTES1 : Ctr := ⟨0x0DC, 32, true⟩
def PM_MUTES2 : Ctr := ⟨0x0EC, 32, true⟩
def PM_MUTES3 : Ctr := ⟨0x0FC, 32, true⟩
def PM_MUTES4 : Ctr := ⟨0x10C, 32, true⟩
def PM_MUTES5 : Ctr := ⟨0x11C, 32, true⟩
def PM_MUTES6 : Ctr := ⟨0x12C, 32, true⟩
def PM_MUTES7 : Ctr := ⟨0x13C, 32, true⟩
def PM_PULSES0 : Ctr := ⟨0x0D0, 32, true⟩
def PM_PULSES1 : Ctr := ⟨0x0E0, 32, true⟩
def PM_PULSES2 : Ctr := ⟨0x0F0, 32, true⟩
def PM_PULSES3 : Ctr := ⟨0x100, 32, true⟩
def PM_PULSES4 : Ctr := ⟨0x110, 32, true⟩
def PM_PULSES5 : Ctr := ⟨0x120, 32, true⟩
def PM_PULSES6 : Ctr := ⟨0x130, 32, true⟩
def PM_PULSES7 : Ctr := ⟨0x140, 32, true⟩

end C

/-- The snapshot counters of a page of kind pe1 (R121). -/
def ctrs_pe1 : List Ctr :=
  [C.DS_FRAMES, C.DS_BYTES, C.DS_PKTS, C.DS_XGEM, C.DS_FRAGS, C.DS_CW_STD, C.DS_CW_LEAN, C.DS_CW_IDLE, C.DS_LATE_FILL, C.DS_OVERSIZE, C.DS_POISON, C.DS_PLOAM_TX] ++
  [C.DS_PLOAM_DEFER, C.DS_OMCI_TX, C.DS_RAMP_FRAMES, C.DS_REALIGNS, C.DS_LZ_CLOSES]

/-- The snapshot counters of a page of kind pe5 (R121). -/
def ctrs_pe5 : List Ctr :=
  [C.US_GRANTED, C.US_RECEIVED, C.US_MISSING, C.US_NO_DELIM, C.US_ID_MISMATCH, C.US_FALSE_DELIM, C.US_DRIFT, C.US_GUARD_LIGHT, C.US_CW, C.US_CW_CORR, C.US_CW_UNCORR, C.US_SYM_CORR] ++
  [C.US_BIP_ERR, C.US_XGEM, C.US_XGEM_HEC, C.US_DELIN_LOSS, C.US_XGEM_UNKNOWN, C.US_KEY_ERR, C.US_REASM_DROP, C.US_OVERSIZE, C.US_PKTS, C.US_BYTES, C.US_DBRU, C.US_DBRU_ERR] ++
  [C.US_PLOAM_RX, C.US_PLOAM_MIC, C.US_OMCI_RX, C.US_RSSI_SKIP]

/-- The snapshot counters of a page of kind pe7 (R121). -/
def ctrs_pe7 : List Ctr :=
  [C.ACT_SN_RX, C.ACT_SN_UNKNOWN, C.ACT_SN_DUP, C.ACT_WRONG_PORT, C.ACT_RNG_FAIL, C.ACT_RNG_RANGE, C.ACT_AUTH_FAIL, C.ACT_LOST_EXPIRED, C.ACT_EQD_UPD]

/-- The snapshot counters of a page of kind gsP (R121). -/
def ctrs_gsP : List Ctr :=
  [C.GS_MAPS, C.GS_STALE, C.GS_STRUCTS, C.GS_STRUCT_LIMIT, C.GS_QW_PLACED, C.GS_QW_NOPLAN, C.GS_QW_LOST, C.GS_HINT_RX, C.GS_HINT_LATE, C.GS_HINT_EARLY, C.GS_HINT_OVF, C.GS_HINT_FROZEN] ++
  [C.GS_SHORT, C.GS_IDLE]

/-- The snapshot counters of a page of kind pe8 (R121). -/
def ctrs_pe8 : List Ctr :=
  [C.MS_ROBUST, C.MS_FAST, C.MS_REVERT, C.MS_PINS, C.MS_ADV_DROP, C.MS_RPT_RX, C.MS_RPT_BAD]

/-- The snapshot counters of a page of kind tm0 (R121). -/
def ctrs_tm0 : List Ctr :=
  [C.TM_DROP_DIS, C.TM_DROP_NOXGEM, C.TM_FLUSHED, C.TM_DS_DEQ, C.TM_US_DEQ]

/-- The snapshot counters of a page of kind gl (R121). -/
def ctrs_gl : List Ctr :=
  [C.GT_HELD, C.GT_OVERSIZE, C.GT_OVERRUN, C.GT_STARTS]

/-- The snapshot counters of a page of kind lk0 (R121). -/
def ctrs_lk0 : List Ctr :=
  [C.LK_CLS_MISS, C.LK_CTI_RX, C.LK_LEARNS, C.LK_LEARN_DROP, C.LK_LIMIT_DROP, C.LK_MOVES, C.LK_SA_STATIC, C.LK_DA_MISS, C.LK_HAIRPIN, C.LK_PFX_MISS, C.LK_TTL_PUNT, C.LK_NH_DROP] ++
  [C.LK_PUNT, C.LK_DROP, C.LK_RETRY, C.LK_RESEEDS]

/-- The snapshot counters of a page of kind bp (R121). -/
def ctrs_bp : List Ctr :=
  [C.BP_ALLOCS, C.BP_FREES, C.BP_BAD_FREE, C.BP_QUARANTINE]

/-- The snapshot counters of a page of kind dm0 (R121). -/
def ctrs_dm0 : List Ctr :=
  [C.DM_CATCHUPS, C.DM_THROTTLE_US, C.DM_FREQ_CHANGES, C.DM_PAR_RETRY, C.DM_SCRUB_PASSES]

/-- The snapshot counters of a page of kind mx0 (R121). -/
def ctrs_mx0 : List Ctr :=
  [C.MX_RD_REQ, C.MX_WR_REQ, C.MX_POISON_RX, C.MX_WR_DISCARD]

/-- The snapshot counters of a page of kind px (R121). -/
def ctrs_px : List Ctr :=
  [C.PX_TAKEOVERS, C.PX_SWITCHES, C.PX_ABORTS, C.PX_LIG_BAD, C.PX_DELTAS, C.PX_IMAGES, C.PX_SHADOW_DROP]

/-- The snapshot counters of a page of kind pmg (R121). -/
def ctrs_pmg : List Ctr :=
  [C.PM_TRACES0, C.PM_TRACES1, C.PM_TRACES2, C.PM_TRACES3, C.PM_TRACES4, C.PM_TRACES5, C.PM_TRACES6, C.PM_TRACES7, C.PM_WIN_DISCARD0, C.PM_WIN_DISCARD1, C.PM_WIN_DISCARD2, C.PM_WIN_DISCARD3] ++
  [C.PM_WIN_DISCARD4, C.PM_WIN_DISCARD5, C.PM_WIN_DISCARD6, C.PM_WIN_DISCARD7, C.PM_MUTES0, C.PM_MUTES1, C.PM_MUTES2, C.PM_MUTES3, C.PM_MUTES4, C.PM_MUTES5, C.PM_MUTES6, C.PM_MUTES7] ++
  [C.PM_PULSES0, C.PM_PULSES1, C.PM_PULSES2, C.PM_PULSES3, C.PM_PULSES4, C.PM_PULSES5, C.PM_PULSES6, C.PM_PULSES7]

def spec_dv : List Spec :=
  [⟨0x100, 11, 4, 31, 31, .ro, 0, .any⟩,
   ⟨0x100, 11, 4, 27, 16, .ro, 0, .any⟩,
   ⟨0x100, 11, 4, 11, 0, .ro, 0, .any⟩,
   ⟨0x140, 1, 0, 31, 31, .wo, 0, .any⟩,
   ⟨0x140, 1, 0, 27, 16, .ro, 400, .any⟩,
   ⟨0x140, 1, 0, 11, 0, .rw, 360, .range 300 390⟩,
   ⟨0x144, 1, 0, 3, 0, .ro, 0, .any⟩,
   ⟨0x148, 1, 0, 27, 16, .rw, 820, .range 700 820⟩,
   ⟨0x148, 1, 0, 15, 4, .rw, 680, .range 650 800⟩,
   ⟨0x148, 1, 0, 0, 0, .rw, 0, .any⟩] ++
  [⟨0x14C, 1, 0, 23, 16, .rw, 5, .range 5 20⟩,
   ⟨0x14C, 1, 0, 15, 0, .rw, 10, .range 1 1000⟩,
   ⟨0x150, 1, 0, 17, 17, .ro, 0, .any⟩,
   ⟨0x150, 1, 0, 16, 16, .ro, 0, .any⟩,
   ⟨0x150, 1, 0, 11, 0, .ro, 0, .any⟩,
   ⟨0x180, 1, 0, 31, 16, .rw, 1000, .range 1 65535⟩,
   ⟨0x180, 1, 0, 7, 0, .rw, 24, .any⟩,
   ⟨0x1C0, 11, 4, 31, 0, .ro, 0, .any⟩,
   ⟨0x200, 11, 4, 31, 0, .ro, 0, .any⟩,
   ⟨0x240, 1, 0, 31, 31, .w1c, 0, .any⟩] ++
  [⟨0x240, 1, 0, 30, 30, .wo, 0, .any⟩,
   ⟨0x240, 1, 0, 7, 4, .ro, 0, .any⟩,
   ⟨0x240, 1, 0, 3, 0, .ro, 0, .any⟩,
   ⟨0x244, 1, 0, 31, 0, .ro, 0, .any⟩,
   ⟨0x260, 1, 0, 31, 31, .w1c, 0, .any⟩,
   ⟨0x260, 1, 0, 30, 30, .ro, 0, .any⟩,
   ⟨0x260, 1, 0, 29, 29, .ro, 0, .any⟩,
   ⟨0x260, 1, 0, 27, 0, .ro, 0, .any⟩,
   ⟨0x280, 1, 0, 31, 31, .wo, 0, .any⟩,
   ⟨0x280, 1, 0, 30, 30, .wo, 0, .any⟩] ++
  [⟨0x280, 1, 0, 3, 0, .wo, 0, .any⟩,
   ⟨0x284, 1, 0, 31, 31, .w1c, 0, .any⟩,
   ⟨0x284, 1, 0, 19, 16, .ro, 0, .any⟩,
   ⟨0x284, 1, 0, 10, 0, .ro, 0, .any⟩]

def spec_ln : List Spec :=
  [⟨0x040, 1, 0, 23, 20, .rwl, 0, .any⟩,
   ⟨0x040, 1, 0, 17, 17, .rw, 0, .any⟩,
   ⟨0x040, 1, 0, 11, 11, .rw, 1, .any⟩,
   ⟨0x040, 1, 0, 10, 10, .rw, 0, .any⟩,
   ⟨0x040, 1, 0, 9, 9, .rw, 0, .any⟩,
   ⟨0x044, 1, 0, 11, 8, .rwl, 8, .any⟩,
   ⟨0x044, 1, 0, 3, 0, .rwl, 0, .any⟩,
   ⟨0x048, 1, 0, 23, 16, .rwl, 0, .srange (-40) 0⟩,
   ⟨0x048, 1, 0, 15, 8, .rwl, 0, .srange (-40) 0⟩,
   ⟨0x048, 1, 0, 7, 0, .rwl, 0, .srange (-40) 0⟩] ++
  [⟨0x04C, 1, 0, 27, 24, .ro, 0, .any⟩,
   ⟨0x04C, 1, 0, 19, 19, .ro, 0, .any⟩,
   ⟨0x04C, 1, 0, 18, 18, .ro, 0, .any⟩,
   ⟨0x04C, 1, 0, 17, 17, .ro, 0, .any⟩,
   ⟨0x04C, 1, 0, 16, 16, .ro, 0, .any⟩,
   ⟨0x04C, 1, 0, 13, 13, .ro, 0, .any⟩,
   ⟨0x04C, 1, 0, 11, 11, .ro, 0, .any⟩,
   ⟨0x04C, 1, 0, 10, 10, .ro, 0, .any⟩,
   ⟨0x04C, 1, 0, 9, 9, .ro, 0, .any⟩,
   ⟨0x04C, 1, 0, 8, 8, .ro, 0, .any⟩] ++
  [⟨0x04C, 1, 0, 2, 0, .ro, 0, .any⟩,
   ⟨0x050, 1, 0, 31, 31, .rw, 0, .any⟩,
   ⟨0x050, 1, 0, 25, 16, .rw, 64, .any⟩,
   ⟨0x050, 1, 0, 7, 0, .rw, 10, .any⟩,
   ⟨0x054, 1, 0, 25, 25, .rw, 1, .any⟩,
   ⟨0x054, 1, 0, 24, 16, .rw, 0, .any⟩,
   ⟨0x054, 1, 0, 15, 8, .rw, 8, .range 1 255⟩,
   ⟨0x058, 1, 0, 31, 31, .wo, 0, .any⟩,
   ⟨0x058, 1, 0, 30, 30, .rw, 0, .any⟩,
   ⟨0x058, 1, 0, 29, 29, .wo, 0, .any⟩] ++
  [⟨0x058, 1, 0, 15, 8, .ro, 0, .any⟩,
   ⟨0x058, 1, 0, 7, 0, .ro, 0, .any⟩,
   ⟨0x060, 1, 0, 31, 31, .wo, 0, .any⟩,
   ⟨0x060, 1, 0, 30, 30, .wo, 0, .any⟩,
   ⟨0x060, 1, 0, 13, 12, .rw, 0, .range 0 2⟩,
   ⟨0x060, 1, 0, 7, 4, .rw, 0, .any⟩,
   ⟨0x060, 1, 0, 3, 0, .rw, 0, .any⟩,
   ⟨0x064, 1, 0, 31, 31, .ro, 0, .any⟩,
   ⟨0x064, 1, 0, 30, 30, .ro, 0, .any⟩,
   ⟨0x064, 1, 0, 15, 0, .ro, 0, .any⟩] ++
  [⟨0x068, 1, 0, 31, 0, .ro, 0, .any⟩,
   ⟨0x06C, 1, 0, 15, 0, .ro, 0, .any⟩,
   ⟨0x070, 1, 0, 31, 0, .ro, 0, .any⟩,
   ⟨0x074, 1, 0, 15, 0, .ro, 0, .any⟩,
   ⟨0x078, 1, 0, 31, 0, .ro, 0, .any⟩,
   ⟨0x07C, 1, 0, 15, 0, .ro, 0, .any⟩]

def spec_pe0 : List Spec :=
  [⟨0x040, 1, 0, 29, 16, .rw, 9728, .range 64 16380⟩,
   ⟨0x040, 1, 0, 12, 8, .rw, 4, .range 1 16⟩,
   ⟨0x040, 1, 0, 1, 0, .ro, 0, .any⟩,
   ⟨0x044, 1, 0, 31, 16, .rw, 0, .any⟩,
   ⟨0x044, 1, 0, 12, 8, .rw, 2, .range 1 25⟩,
   ⟨0x044, 1, 0, 4, 4, .rw, 0, .any⟩,
   ⟨0x044, 1, 0, 2, 0, .rw, 0, .any⟩,
   ⟨0x048, 1, 0, 31, 0, .rw, 0, .any⟩,
   ⟨0x04C, 1, 0, 31, 0, .rw, 0, .any⟩,
   ⟨0x050, 1, 0, 0, 0, .wo, 0, .any⟩] ++
  [⟨0x054, 1, 0, 31, 31, .ro, 0, .any⟩,
   ⟨0x054, 1, 0, 30, 30, .ro, 0, .any⟩,
   ⟨0x054, 1, 0, 29, 29, .ro, 0, .any⟩,
   ⟨0x054, 1, 0, 28, 28, .ro, 0, .any⟩,
   ⟨0x054, 1, 0, 7, 0, .ro, 0, .any⟩,
   ⟨0x058, 1, 0, 31, 0, .ro, 0, .any⟩,
   ⟨0x05C, 1, 0, 31, 0, .ro, 0, .any⟩,
   ⟨0x060, 1, 0, 18, 0, .ro, 0, .any⟩,
   ⟨0x064, 1, 0, 31, 16, .rw, 1000, .any⟩,
   ⟨0x064, 1, 0, 0, 0, .rw, 0, .any⟩] ++
  [⟨0x068, 1, 0, 8, 0, .rw, 48, .any⟩,
   ⟨0x06C, 1, 0, 31, 31, .ro, 0, .any⟩,
   ⟨0x06C, 1, 0, 30, 30, .ro, 0, .any⟩,
   ⟨0x06C, 1, 0, 29, 29, .ro, 0, .any⟩,
   ⟨0x06C, 1, 0, 28, 28, .ro, 0, .any⟩,
   ⟨0x06C, 1, 0, 27, 27, .ro, 0, .any⟩,
   ⟨0x06C, 1, 0, 23, 16, .ro, 0, .any⟩,
   ⟨0x06C, 1, 0, 8, 0, .ro, 48, .any⟩,
   ⟨0x070, 1, 0, 7, 0, .rwl, 240, .any⟩,
   ⟨0x074, 1, 0, 31, 16, .ro, 0, .any⟩] ++
  [⟨0x074, 1, 0, 9, 0, .ro, 0, .any⟩,
   ⟨0x078, 1, 0, 31, 16, .ro, 0, .any⟩,
   ⟨0x078, 1, 0, 7, 7, .ro, 0, .any⟩,
   ⟨0x078, 1, 0, 6, 6, .ro, 0, .any⟩,
   ⟨0x078, 1, 0, 5, 5, .ro, 0, .any⟩,
   ⟨0x078, 1, 0, 4, 4, .ro, 0, .any⟩,
   ⟨0x078, 1, 0, 3, 3, .ro, 0, .any⟩,
   ⟨0x078, 1, 0, 2, 2, .ro, 0, .any⟩,
   ⟨0x078, 1, 0, 1, 1, .ro, 0, .any⟩,
   ⟨0x078, 1, 0, 0, 0, .ro, 0, .any⟩]

def spec_pe1 : List Spec :=
  [⟨0x040, 1, 0, 1, 1, .wo, 0, .any⟩,
   ⟨0x040, 1, 0, 0, 0, .wo, 0, .any⟩,
   ⟨0x044, 1, 0, 31, 0, .ro, 0, .any⟩,
   ⟨0x048, 1, 0, 31, 0, .ro, 0, .any⟩,
   ⟨0x04C, 1, 0, 31, 0, .ro, 0, .any⟩,
   ⟨0x050, 1, 0, 31, 0, .ro, 0, .any⟩,
   ⟨0x054, 1, 0, 31, 0, .ro, 0, .any⟩,
   ⟨0x058, 1, 0, 31, 0, .ro, 0, .any⟩,
   ⟨0x05C, 1, 0, 31, 0, .ro, 0, .any⟩,
   ⟨0x060, 1, 0, 31, 0, .ro, 0, .any⟩] ++
  [⟨0x064, 1, 0, 31, 0, .ro, 0, .any⟩,
   ⟨0x068, 1, 0, 31, 0, .ro, 0, .any⟩,
   ⟨0x06C, 1, 0, 31, 0, .ro, 0, .any⟩,
   ⟨0x070, 1, 0, 31, 0, .ro, 0, .any⟩,
   ⟨0x074, 1, 0, 31, 0, .ro, 0, .any⟩,
   ⟨0x078, 1, 0, 31, 0, .ro, 0, .any⟩,
   ⟨0x07C, 1, 0, 31, 0, .ro, 0, .any⟩,
   ⟨0x080, 1, 0, 31, 0, .ro, 0, .any⟩,
   ⟨0x084, 1, 0, 31, 0, .ro, 0, .any⟩,
   ⟨0x088, 1, 0, 31, 0, .ro, 0, .any⟩] ++
  [⟨0x08C, 1, 0, 31, 0, .ro, 0, .any⟩]

def spec_ps : List Spec :=
  [⟨0x040, 1, 0, 3, 0, .rwl, 0, .any⟩,
   ⟨0x044, 1, 0, 31, 31, .rw, 0, .any⟩,
   ⟨0x044, 1, 0, 30, 30, .ro, 0, .any⟩,
   ⟨0x044, 1, 0, 7, 0, .rw, 0, .any⟩]

def spec_pe4 : List Spec :=
  [⟨0x0C0, 1, 0, 29, 16, .rw, 9728, .range 64 16380⟩,
   ⟨0x0C0, 1, 0, 15, 8, .rw, 4, .range 1 255⟩,
   ⟨0x0C0, 1, 0, 7, 0, .rw, 8, .range 2 255⟩,
   ⟨0x0C4, 1, 0, 19, 0, .rwl, 750000, .range 250000 1000000⟩,
   ⟨0x0C8, 1, 0, 15, 8, .rw, 16, .range 4 255⟩,
   ⟨0x0C8, 1, 0, 7, 0, .rw, 8, .range 2 64⟩,
   ⟨0x0CC, 1, 0, 5, 0, .rw, 8, .range 1 63⟩,
   ⟨0x0D0, 1, 0, 31, 30, .rw, 0, .range 0 2⟩,
   ⟨0x0D0, 1, 0, 28, 20, .rw, 0, .any⟩,
   ⟨0x0D0, 1, 0, 19, 12, .rw, 64, .range 1 255⟩] ++
  [⟨0x0D0, 1, 0, 11, 6, .rw, 25, .range 1 63⟩,
   ⟨0x0D0, 1, 0, 5, 0, .rw, 12, .any⟩,
   ⟨0x0D4, 1, 0, 31, 31, .ro, 0, .any⟩,
   ⟨0x0D4, 1, 0, 24, 16, .ro, 0, .any⟩,
   ⟨0x0D4, 1, 0, 15, 0, .ro, 0, .any⟩,
   ⟨0x0D8, 1, 0, 8, 0, .ro, 0, .any⟩]

def spec_pe5 : List Spec :=
  [⟨0x040, 1, 0, 2, 2, .wo, 0, .any⟩,
   ⟨0x040, 1, 0, 1, 1, .wo, 0, .any⟩,
   ⟨0x040, 1, 0, 0, 0, .wo, 0, .any⟩,
   ⟨0x044, 1, 0, 31, 0, .ro, 0, .any⟩,
   ⟨0x048, 1, 0, 31, 0, .ro, 0, .any⟩,
   ⟨0x04C, 1, 0, 31, 0, .ro, 0, .any⟩,
   ⟨0x050, 1, 0, 31, 0, .ro, 0, .any⟩,
   ⟨0x054, 1, 0, 31, 0, .ro, 0, .any⟩,
   ⟨0x058, 1, 0, 31, 0, .ro, 0, .any⟩,
   ⟨0x05C, 1, 0, 31, 0, .ro, 0, .any⟩] ++
  [⟨0x060, 1, 0, 31, 0, .ro, 0, .any⟩,
   ⟨0x064, 1, 0, 31, 0, .ro, 0, .any⟩,
   ⟨0x068, 1, 0, 31, 0, .ro, 0, .any⟩,
   ⟨0x06C, 1, 0, 31, 0, .ro, 0, .any⟩,
   ⟨0x070, 1, 0, 31, 0, .ro, 0, .any⟩,
   ⟨0x074, 1, 0, 31, 0, .ro, 0, .any⟩,
   ⟨0x078, 1, 0, 31, 0, .ro, 0, .any⟩,
   ⟨0x07C, 1, 0, 31, 0, .ro, 0, .any⟩,
   ⟨0x080, 1, 0, 31, 0, .ro, 0, .any⟩,
   ⟨0x084, 1, 0, 31, 0, .ro, 0, .any⟩] ++
  [⟨0x088, 1, 0, 31, 0, .ro, 0, .any⟩,
   ⟨0x08C, 1, 0, 31, 0, .ro, 0, .any⟩,
   ⟨0x090, 1, 0, 31, 0, .ro, 0, .any⟩,
   ⟨0x094, 1, 0, 31, 0, .ro, 0, .any⟩,
   ⟨0x098, 1, 0, 31, 0, .ro, 0, .any⟩,
   ⟨0x09C, 1, 0, 31, 0, .ro, 0, .any⟩,
   ⟨0x0A0, 1, 0, 31, 0, .ro, 0, .any⟩,
   ⟨0x0A4, 1, 0, 31, 0, .ro, 0, .any⟩,
   ⟨0x0A8, 1, 0, 31, 0, .ro, 0, .any⟩,
   ⟨0x0AC, 1, 0, 31, 0, .ro, 0, .any⟩] ++
  [⟨0x0B0, 1, 0, 31, 0, .ro, 0, .any⟩,
   ⟨0x0B4, 1, 0, 31, 0, .ro, 0, .any⟩,
   ⟨0x0B8, 1, 0, 31, 0, .ro, 0, .any⟩]

def spec_pe7 : List Spec :=
  [⟨0x0C0, 1, 0, 31, 31, .rw, 0, .any⟩,
   ⟨0x0C0, 1, 0, 30, 30, .rw, 1, .any⟩,
   ⟨0x0C0, 1, 0, 25, 16, .rw, 100, .range 1 1000⟩,
   ⟨0x0C0, 1, 0, 15, 12, .rw, 10, .range 1 15⟩,
   ⟨0x0C0, 1, 0, 10, 8, .rw, 0, .any⟩,
   ⟨0x0C0, 1, 0, 7, 0, .rw, 4, .range 1 255⟩,
   ⟨0x0C4, 1, 0, 31, 22, .rwl, 200, .range 0 600⟩,
   ⟨0x0C4, 1, 0, 21, 12, .rwl, 0, .any⟩,
   ⟨0x0C4, 1, 0, 11, 0, .rwl, 100, .any⟩,
   ⟨0x0C8, 1, 0, 31, 16, .rwl, 34000, .any⟩] ++
  [⟨0x0C8, 1, 0, 15, 0, .rwl, 36000, .any⟩,
   ⟨0x0CC, 1, 0, 15, 0, .rwl, 48000, .any⟩,
   ⟨0x0D0, 1, 0, 19, 0, .ro, 0, .any⟩,
   ⟨0x0D4, 1, 0, 19, 0, .ro, 0, .any⟩,
   ⟨0x0D8, 1, 0, 31, 24, .rw, 10, .range 1 255⟩,
   ⟨0x0D8, 1, 0, 23, 16, .rw, 10, .any⟩,
   ⟨0x0D8, 1, 0, 3, 0, .rw, 3, .range 1 15⟩,
   ⟨0x0DC, 1, 0, 31, 31, .rw, 1, .any⟩,
   ⟨0x0DC, 1, 0, 15, 8, .rw, 16, .range 1 255⟩,
   ⟨0x0DC, 1, 0, 7, 0, .rw, 16, .range 1 255⟩] ++
  [⟨0x0E0, 1, 0, 31, 0, .rw, 0, .any⟩,
   ⟨0x0E4, 1, 0, 31, 28, .wo, 0, .any⟩,
   ⟨0x0E4, 1, 0, 8, 0, .wo, 0, .any⟩,
   ⟨0x0E8, 1, 0, 31, 31, .w1c, 0, .any⟩,
   ⟨0x0EC, 1, 0, 24, 16, .ro, 0, .any⟩,
   ⟨0x0EC, 1, 0, 8, 0, .ro, 0, .any⟩,
   ⟨0x0F0, 1, 0, 5, 0, .ro, 0, .any⟩,
   ⟨0x0F4, 1, 0, 31, 0, .ro, 0, .any⟩,
   ⟨0x0F8, 1, 0, 31, 0, .ro, 0, .any⟩,
   ⟨0x100, 1, 0, 1, 1, .wo, 0, .any⟩] ++
  [⟨0x100, 1, 0, 0, 0, .wo, 0, .any⟩,
   ⟨0x104, 1, 0, 31, 0, .ro, 0, .any⟩,
   ⟨0x108, 1, 0, 31, 0, .ro, 0, .any⟩,
   ⟨0x10C, 1, 0, 31, 0, .ro, 0, .any⟩,
   ⟨0x110, 1, 0, 31, 0, .ro, 0, .any⟩,
   ⟨0x114, 1, 0, 31, 0, .ro, 0, .any⟩,
   ⟨0x118, 1, 0, 31, 0, .ro, 0, .any⟩,
   ⟨0x11C, 1, 0, 31, 0, .ro, 0, .any⟩,
   ⟨0x120, 1, 0, 31, 0, .ro, 0, .any⟩,
   ⟨0x124, 1, 0, 31, 0, .ro, 0, .any⟩]

def spec_gs0 : List Spec :=
  [⟨0x040, 1, 0, 31, 31, .wo, 0, .any⟩,
   ⟨0x040, 1, 0, 6, 0, .rw, 45, .range 25 100⟩,
   ⟨0x044, 1, 0, 31, 31, .rw, 0, .any⟩,
   ⟨0x044, 1, 0, 30, 28, .rw, 0, .any⟩,
   ⟨0x044, 1, 0, 27, 16, .rw, 20, .range 1 4095⟩,
   ⟨0x044, 1, 0, 15, 0, .rw, 0, .any⟩,
   ⟨0x048, 1, 0, 15, 8, .ro, 0, .any⟩,
   ⟨0x048, 1, 0, 7, 0, .ro, 0, .any⟩,
   ⟨0x04C, 1, 0, 31, 0, .ro, 0, .any⟩,
   ⟨0x050, 1, 0, 31, 0, .ro, 0, .any⟩]

def spec_gsP : List Spec :=
  [⟨0x0C0, 1, 0, 31, 24, .rw, 32, .range 1 255⟩,
   ⟨0x0C0, 1, 0, 21, 16, .rw, 4, .range 1 63⟩,
   ⟨0x0C0, 1, 0, 13, 8, .rw, 8, .range 1 63⟩,
   ⟨0x0C0, 1, 0, 0, 0, .rw, 0, .any⟩,
   ⟨0x0C4, 1, 0, 15, 0, .rw, 20000, .any⟩,
   ⟨0x0C8, 1, 0, 31, 16, .ro, 0, .any⟩,
   ⟨0x0C8, 1, 0, 15, 0, .ro, 0, .any⟩,
   ⟨0x0CC, 1, 0, 9, 0, .ro, 0, .any⟩,
   ⟨0x0D0, 1, 0, 31, 16, .ro, 0, .any⟩,
   ⟨0x0D0, 1, 0, 15, 0, .ro, 65535, .any⟩] ++
  [⟨0x0E0, 1, 0, 1, 1, .wo, 0, .any⟩,
   ⟨0x0E0, 1, 0, 0, 0, .wo, 0, .any⟩,
   ⟨0x0E4, 1, 0, 31, 0, .ro, 0, .any⟩,
   ⟨0x0E8, 1, 0, 31, 0, .ro, 0, .any⟩,
   ⟨0x0EC, 1, 0, 31, 0, .ro, 0, .any⟩,
   ⟨0x0F0, 1, 0, 31, 0, .ro, 0, .any⟩,
   ⟨0x0F4, 1, 0, 31, 0, .ro, 0, .any⟩,
   ⟨0x0F8, 1, 0, 31, 0, .ro, 0, .any⟩,
   ⟨0x0FC, 1, 0, 31, 0, .ro, 0, .any⟩,
   ⟨0x100, 1, 0, 31, 0, .ro, 0, .any⟩] ++
  [⟨0x104, 1, 0, 31, 0, .ro, 0, .any⟩,
   ⟨0x108, 1, 0, 31, 0, .ro, 0, .any⟩,
   ⟨0x10C, 1, 0, 31, 0, .ro, 0, .any⟩,
   ⟨0x110, 1, 0, 31, 0, .ro, 0, .any⟩,
   ⟨0x114, 1, 0, 31, 0, .ro, 0, .any⟩,
   ⟨0x118, 1, 0, 31, 0, .ro, 0, .any⟩,
   ⟨0x11C, 1, 0, 31, 0, .ro, 0, .any⟩]

def spec_pe8 : List Spec :=
  [⟨0x0C0, 1, 0, 15, 8, .rwl, 241, .any⟩,
   ⟨0x0C0, 1, 0, 2, 2, .rw, 0, .any⟩,
   ⟨0x0C0, 1, 0, 1, 0, .rw, 0, .range 0 2⟩,
   ⟨0x0C4, 1, 0, 31, 24, .rw, 4, .range 1 255⟩,
   ⟨0x0C4, 1, 0, 23, 16, .rw, 8, .range 1 255⟩,
   ⟨0x0C4, 1, 0, 15, 0, .rw, 1000, .range 1 65535⟩,
   ⟨0x0C8, 1, 0, 31, 16, .rw, 40, .any⟩,
   ⟨0x0C8, 1, 0, 15, 0, .rw, 10, .any⟩,
   ⟨0x0CC, 1, 0, 31, 16, .rw, 1000, .range 1 65535⟩,
   ⟨0x0CC, 1, 0, 15, 8, .rw, 6, .range 1 63⟩] ++
  [⟨0x0CC, 1, 0, 7, 0, .rw, 24, .any⟩,
   ⟨0x0D0, 1, 0, 3, 3, .rw, 0, .any⟩,
   ⟨0x0D0, 1, 0, 7, 7, .rw, 0, .any⟩,
   ⟨0x0D0, 1, 0, 11, 11, .rw, 0, .any⟩,
   ⟨0x0D0, 1, 0, 15, 15, .rw, 0, .any⟩,
   ⟨0x0D0, 1, 0, 19, 19, .rw, 0, .any⟩,
   ⟨0x0D0, 1, 0, 23, 23, .rw, 0, .any⟩,
   ⟨0x0D0, 1, 0, 27, 27, .rw, 0, .any⟩,
   ⟨0x0D0, 1, 0, 31, 31, .rw, 0, .any⟩,
   ⟨0x0D0, 1, 0, 2, 0, .rw, 0, .any⟩] ++
  [⟨0x0D0, 1, 0, 6, 4, .rw, 0, .any⟩,
   ⟨0x0D0, 1, 0, 10, 8, .rw, 0, .any⟩,
   ⟨0x0D0, 1, 0, 14, 12, .rw, 0, .any⟩,
   ⟨0x0D0, 1, 0, 18, 16, .rw, 0, .any⟩,
   ⟨0x0D0, 1, 0, 22, 20, .rw, 0, .any⟩,
   ⟨0x0D0, 1, 0, 26, 24, .rw, 0, .any⟩,
   ⟨0x0D0, 1, 0, 30, 28, .rw, 0, .any⟩,
   ⟨0x0D4, 1, 0, 15, 0, .rw, 1000, .range 1 65535⟩,
   ⟨0x0D8, 1, 0, 31, 16, .rw, 30, .any⟩,
   ⟨0x0D8, 1, 0, 15, 0, .rw, 20, .any⟩] ++
  [⟨0x0DC, 1, 0, 27, 16, .rw, 250, .range 1 4095⟩,
   ⟨0x0DC, 1, 0, 15, 8, .rw, 64, .range 1 255⟩,
   ⟨0x0DC, 1, 0, 7, 0, .rw, 16, .any⟩,
   ⟨0x0E0, 1, 0, 31, 16, .ro, 0, .any⟩,
   ⟨0x0E0, 1, 0, 12, 12, .ro, 0, .any⟩,
   ⟨0x0E0, 1, 0, 8, 0, .ro, 0, .any⟩,
   ⟨0x0E4, 1, 0, 31, 28, .wo, 0, .any⟩,
   ⟨0x0E4, 1, 0, 18, 16, .wo, 0, .any⟩,
   ⟨0x0E4, 1, 0, 8, 0, .wo, 0, .any⟩,
   ⟨0x0E8, 1, 0, 31, 31, .w1c, 0, .any⟩] ++
  [⟨0x0EC, 1, 0, 8, 0, .ro, 0, .any⟩,
   ⟨0x0F0, 1, 0, 1, 1, .wo, 0, .any⟩,
   ⟨0x0F0, 1, 0, 0, 0, .wo, 0, .any⟩,
   ⟨0x0F4, 1, 0, 31, 0, .ro, 0, .any⟩,
   ⟨0x0F8, 1, 0, 31, 0, .ro, 0, .any⟩,
   ⟨0x0FC, 1, 0, 31, 0, .ro, 0, .any⟩,
   ⟨0x100, 1, 0, 31, 0, .ro, 0, .any⟩,
   ⟨0x104, 1, 0, 31, 0, .ro, 0, .any⟩,
   ⟨0x108, 1, 0, 31, 0, .ro, 0, .any⟩,
   ⟨0x10C, 1, 0, 31, 0, .ro, 0, .any⟩] ++
  [⟨0x140, 16, 4, 27, 16, .rw, 0, .any⟩,
   ⟨0x140, 16, 4, 15, 0, .rw, 0, .any⟩]

def spec_tm0 : List Spec :=
  [⟨0x0C0, 1, 0, 31, 31, .rwl, 1, .any⟩,
   ⟨0x0C0, 1, 0, 15, 8, .rw, 16, .range 1 255⟩,
   ⟨0x0C0, 1, 0, 7, 0, .rw, 100, .range 1 255⟩,
   ⟨0x0C4, 1, 0, 31, 28, .wo, 0, .any⟩,
   ⟨0x0C4, 1, 0, 15, 0, .wo, 0, .any⟩,
   ⟨0x0C8, 1, 0, 31, 31, .w1c, 0, .any⟩,
   ⟨0x0C8, 1, 0, 30, 30, .ro, 0, .any⟩,
   ⟨0x0CC, 1, 0, 31, 0, .rw, 1000000, .range 1 4294967295⟩,
   ⟨0x0D0, 1, 0, 6, 6, .ro, 0, .any⟩,
   ⟨0x0D0, 1, 0, 5, 0, .ro, 0, .any⟩] ++
  [⟨0x0E0, 1, 0, 1, 1, .wo, 0, .any⟩,
   ⟨0x0E0, 1, 0, 0, 0, .wo, 0, .any⟩,
   ⟨0x0E4, 1, 0, 31, 0, .ro, 0, .any⟩,
   ⟨0x0E8, 1, 0, 31, 0, .ro, 0, .any⟩,
   ⟨0x0EC, 1, 0, 31, 0, .ro, 0, .any⟩,
   ⟨0x0F0, 1, 0, 31, 0, .ro, 0, .any⟩,
   ⟨0x0F4, 1, 0, 31, 0, .ro, 0, .any⟩,
   ⟨0x0F8, 1, 0, 31, 0, .ro, 0, .any⟩,
   ⟨0x0FC, 1, 0, 31, 0, .ro, 0, .any⟩]

def spec_te : List Spec :=
  [⟨0x0C0, 1, 0, 0, 0, .wo, 0, .any⟩,
   ⟨0x0C4, 1, 0, 8, 8, .ro, 0, .any⟩,
   ⟨0x0C4, 1, 0, 2, 2, .ro, 0, .any⟩,
   ⟨0x0C4, 1, 0, 1, 1, .ro, 0, .any⟩,
   ⟨0x0C4, 1, 0, 0, 0, .ro, 0, .any⟩,
   ⟨0x0C8, 2, 4, 31, 31, .rw, 1, .any⟩,
   ⟨0x0C8, 2, 4, 30, 30, .rw, 0, .any⟩,
   ⟨0x0C8, 2, 4, 29, 29, .ro, 0, .any⟩,
   ⟨0x0C8, 2, 4, 28, 28, .ro, 0, .any⟩,
   ⟨0x0C8, 2, 4, 27, 16, .ro, 0, .any⟩] ++
  [⟨0x0C8, 2, 4, 15, 0, .ro, 0, .any⟩,
   ⟨0x0D0, 1, 0, 29, 28, .rw, 0, .range 0 2⟩,
   ⟨0x0D0, 1, 0, 27, 27, .rw, 0, .any⟩,
   ⟨0x0D0, 1, 0, 12, 0, .rw, 8000, .range 1 8000⟩,
   ⟨0x0D4, 1, 0, 31, 31, .ro, 0, .any⟩,
   ⟨0x0D4, 1, 0, 15, 0, .ro, 0, .any⟩,
   ⟨0x0D8, 2, 4, 31, 31, .rw, 0, .any⟩,
   ⟨0x0D8, 2, 4, 30, 28, .rw, 0, .any⟩,
   ⟨0x0D8, 2, 4, 11, 0, .rw, 10, .range 1 4095⟩,
   ⟨0x0E0, 2, 4, 31, 0, .rw, 0, .srange (-500000000) 500000000⟩] ++
  [⟨0x0E8, 2, 4, 31, 31, .rw, 0, .any⟩,
   ⟨0x0E8, 2, 4, 30, 30, .ro, 0, .any⟩,
   ⟨0x0E8, 2, 4, 24, 16, .rw, 96, .range 96 115⟩,
   ⟨0x0E8, 2, 4, 0, 0, .rw, 0, .any⟩,
   ⟨0x0F0, 1, 0, 31, 31, .wo, 0, .any⟩,
   ⟨0x0F0, 1, 0, 12, 0, .rw, 8000, .multiple 8 8 8000⟩,
   ⟨0x0F4, 1, 0, 31, 0, .ro, 0, .any⟩]

def spec_tb : List Spec :=
  [⟨0x040, 1, 0, 31, 28, .wo, 0, .any⟩,
   ⟨0x040, 1, 0, 25, 24, .wo, 0, .any⟩,
   ⟨0x044, 1, 0, 31, 31, .ro, 0, .any⟩,
   ⟨0x044, 1, 0, 30, 30, .ro, 0, .any⟩,
   ⟨0x044, 1, 0, 29, 29, .ro, 0, .any⟩,
   ⟨0x044, 1, 0, 28, 28, .w1c, 0, .any⟩,
   ⟨0x044, 1, 0, 27, 27, .ro, 0, .any⟩,
   ⟨0x044, 1, 0, 15, 0, .ro, 0, .any⟩,
   ⟨0x048, 1, 0, 31, 0, .ro, 0, .any⟩,
   ⟨0x04C, 1, 0, 15, 0, .ro, 0, .any⟩] ++
  [⟨0x050, 1, 0, 29, 0, .ro, 0, .any⟩,
   ⟨0x054, 1, 0, 31, 0, .ro, 0, .any⟩,
   ⟨0x058, 1, 0, 31, 0, .rw, 0, .any⟩,
   ⟨0x05C, 1, 0, 15, 0, .rw, 0, .any⟩,
   ⟨0x060, 1, 0, 29, 0, .rw, 0, .range 0 999999999⟩,
   ⟨0x064, 1, 0, 31, 0, .rw, 0, .any⟩,
   ⟨0x068, 1, 0, 31, 0, .rw, 0, .any⟩,
   ⟨0x06C, 1, 0, 31, 0, .rw, 0, .any⟩,
   ⟨0x070, 1, 0, 15, 0, .rw, 0, .any⟩,
   ⟨0x074, 1, 0, 10, 0, .rw, 100, .range 1 1000⟩] ++
  [⟨0x078, 1, 0, 31, 0, .ro, 0, .any⟩,
   ⟨0x07C, 1, 0, 31, 0, .ro, 0, .any⟩,
   ⟨0x080, 1, 0, 31, 31, .rw, 0, .any⟩,
   ⟨0x080, 1, 0, 30, 30, .rw, 0, .any⟩,
   ⟨0x080, 1, 0, 29, 0, .rw, 1000, .range 1 500000000⟩,
   ⟨0x084, 1, 0, 31, 0, .ro, 0, .any⟩,
   ⟨0x088, 1, 0, 31, 0, .ro, 0, .any⟩,
   ⟨0x08C, 1, 0, 31, 0, .ro, 0, .any⟩,
   ⟨0x090, 1, 0, 31, 0, .ro, 0, .any⟩,
   ⟨0x098, 2, 8, 31, 0, .rw, 0, .any⟩] ++
  [⟨0x09C, 2, 8, 31, 31, .w1s, 0, .any⟩,
   ⟨0x09C, 2, 8, 30, 30, .w1c, 0, .any⟩,
   ⟨0x09C, 2, 8, 29, 29, .w1c, 0, .any⟩,
   ⟨0x09C, 2, 8, 28, 28, .w1c, 0, .any⟩,
   ⟨0x0A8, 1, 0, 31, 0, .rw, 0, .any⟩,
   ⟨0x0AC, 1, 0, 15, 0, .rw, 0, .any⟩,
   ⟨0x0B0, 1, 0, 29, 0, .rw, 0, .any⟩,
   ⟨0x0B4, 1, 0, 31, 31, .w1s, 0, .any⟩,
   ⟨0x0B4, 1, 0, 30, 30, .w1c, 0, .any⟩,
   ⟨0x0B4, 1, 0, 29, 29, .w1c, 0, .any⟩]

def spec_gl : List Spec :=
  [⟨0x0C0, 1, 0, 31, 31, .rw, 0, .any⟩,
   ⟨0x0C0, 1, 0, 30, 30, .wo, 0, .any⟩,
   ⟨0x0C0, 1, 0, 29, 29, .wo, 0, .any⟩,
   ⟨0x0C0, 1, 0, 18, 16, .rw, 0, .any⟩,
   ⟨0x0C0, 1, 0, 7, 0, .rw, 255, .any⟩,
   ⟨0x0C4, 1, 0, 31, 0, .rw, 0, .any⟩,
   ⟨0x0C8, 1, 0, 15, 0, .rw, 0, .any⟩,
   ⟨0x0CC, 1, 0, 29, 0, .rw, 0, .any⟩,
   ⟨0x0D0, 1, 0, 29, 0, .rw, 1000000, .any⟩,
   ⟨0x0D4, 1, 0, 10, 0, .rw, 1, .any⟩] ++
  [⟨0x0D8, 1, 0, 29, 20, .rw, 10, .range 2 1000⟩,
   ⟨0x0D8, 1, 0, 3, 0, .rw, 2, .any⟩,
   ⟨0x0DC, 1, 0, 31, 0, .ro, 0, .any⟩,
   ⟨0x0E0, 1, 0, 15, 0, .ro, 0, .any⟩,
   ⟨0x0E4, 1, 0, 29, 0, .ro, 0, .any⟩,
   ⟨0x0E8, 1, 0, 29, 0, .ro, 0, .any⟩,
   ⟨0x0EC, 1, 0, 10, 0, .ro, 0, .any⟩,
   ⟨0x0F0, 1, 0, 31, 31, .ro, 0, .any⟩,
   ⟨0x0F0, 1, 0, 30, 30, .ro, 0, .any⟩,
   ⟨0x0F0, 1, 0, 29, 29, .ro, 0, .any⟩] ++
  [⟨0x0F0, 1, 0, 28, 28, .w1c, 0, .any⟩,
   ⟨0x0F0, 1, 0, 23, 16, .ro, 255, .any⟩,
   ⟨0x0F0, 1, 0, 9, 0, .ro, 0, .any⟩,
   ⟨0x0F8, 1, 0, 31, 0, .ro, 0, .any⟩,
   ⟨0x100, 8, 4, 31, 0, .ro, 4294967295, .any⟩,
   ⟨0x120, 1, 0, 1, 1, .wo, 0, .any⟩,
   ⟨0x120, 1, 0, 0, 0, .wo, 0, .any⟩,
   ⟨0x124, 1, 0, 31, 0, .ro, 0, .any⟩,
   ⟨0x128, 1, 0, 31, 0, .ro, 0, .any⟩,
   ⟨0x12C, 1, 0, 31, 0, .ro, 0, .any⟩] ++
  [⟨0x130, 1, 0, 31, 0, .ro, 0, .any⟩]

def spec_tm2 : List Spec :=
  [⟨0x0C0, 1, 0, 31, 31, .rw, 0, .any⟩,
   ⟨0x0C0, 1, 0, 30, 30, .wo, 0, .any⟩,
   ⟨0x0C0, 1, 0, 26, 24, .rw, 0, .any⟩,
   ⟨0x0C0, 1, 0, 20, 16, .rw, 10, .range 0 17⟩,
   ⟨0x0C0, 1, 0, 15, 0, .rw, 1000, .range 10 60000⟩,
   ⟨0x0C4, 1, 0, 31, 0, .ro, 0, .any⟩,
   ⟨0x0C8, 1, 0, 31, 0, .ro, 0, .any⟩,
   ⟨0x0CC, 1, 0, 15, 0, .ro, 0, .any⟩]

def spec_lk0 : List Spec :=
  [⟨0x0C0, 1, 0, 31, 31, .rw, 1, .any⟩,
   ⟨0x0C0, 1, 0, 23, 16, .rw, 0, .any⟩,
   ⟨0x0C0, 1, 0, 15, 0, .rw, 1000, .range 1 65535⟩,
   ⟨0x0C4, 1, 0, 31, 16, .ro, 0, .any⟩,
   ⟨0x0C4, 1, 0, 5, 0, .ro, 0, .any⟩,
   ⟨0x0C8, 1, 0, 31, 31, .rw, 0, .any⟩,
   ⟨0x0C8, 1, 0, 30, 24, .rw, 50, .range 1 100⟩,
   ⟨0x0C8, 1, 0, 23, 16, .rw, 64, .range 1 255⟩,
   ⟨0x0C8, 1, 0, 15, 8, .rw, 10, .range 1 255⟩,
   ⟨0x0C8, 1, 0, 7, 0, .rw, 60, .any⟩] ++
  [⟨0x0CC, 3, 4, 31, 31, .ro, 0, .any⟩,
   ⟨0x0CC, 3, 4, 30, 20, .ro, 0, .any⟩,
   ⟨0x0CC, 3, 4, 15, 0, .ro, 0, .any⟩,
   ⟨0x0D8, 1, 0, 31, 31, .wo, 0, .any⟩,
   ⟨0x0D8, 1, 0, 30, 30, .w1c, 0, .any⟩,
   ⟨0x0D8, 1, 0, 29, 28, .wo, 0, .any⟩,
   ⟨0x0DC, 1, 0, 31, 31, .ro, 0, .any⟩,
   ⟨0x0DC, 1, 0, 30, 30, .ro, 0, .any⟩,
   ⟨0x0DC, 1, 0, 29, 28, .ro, 0, .any⟩,
   ⟨0x0DC, 1, 0, 19, 0, .ro, 0, .any⟩] ++
  [⟨0x0E0, 1, 0, 31, 31, .wo, 0, .any⟩,
   ⟨0x0E0, 1, 0, 30, 30, .ro, 0, .any⟩,
   ⟨0x0E0, 1, 0, 15, 0, .ro, 0, .any⟩,
   ⟨0x0E4, 1, 0, 31, 31, .rw, 0, .any⟩,
   ⟨0x0E4, 1, 0, 30, 30, .rw, 0, .any⟩,
   ⟨0x0E4, 1, 0, 15, 0, .rw, 0, .any⟩,
   ⟨0x0E8, 1, 0, 15, 0, .rw, 0, .any⟩,
   ⟨0x0F0, 16, 4, 7, 0, .rw, 255, .v6len⟩,
   ⟨0x0F0, 16, 4, 15, 8, .rw, 255, .v6len⟩,
   ⟨0x0F0, 16, 4, 23, 16, .rw, 255, .v6len⟩] ++
  [⟨0x0F0, 16, 4, 31, 24, .rw, 255, .v6len⟩,
   ⟨0x140, 1, 0, 1, 1, .wo, 0, .any⟩,
   ⟨0x140, 1, 0, 0, 0, .wo, 0, .any⟩,
   ⟨0x144, 1, 0, 31, 0, .ro, 0, .any⟩,
   ⟨0x148, 1, 0, 31, 0, .ro, 0, .any⟩,
   ⟨0x14C, 1, 0, 31, 0, .ro, 0, .any⟩,
   ⟨0x150, 1, 0, 31, 0, .ro, 0, .any⟩,
   ⟨0x154, 1, 0, 31, 0, .ro, 0, .any⟩,
   ⟨0x158, 1, 0, 31, 0, .ro, 0, .any⟩,
   ⟨0x15C, 1, 0, 31, 0, .ro, 0, .any⟩] ++
  [⟨0x160, 1, 0, 31, 0, .ro, 0, .any⟩,
   ⟨0x164, 1, 0, 31, 0, .ro, 0, .any⟩,
   ⟨0x168, 1, 0, 31, 0, .ro, 0, .any⟩,
   ⟨0x16C, 1, 0, 31, 0, .ro, 0, .any⟩,
   ⟨0x170, 1, 0, 31, 0, .ro, 0, .any⟩,
   ⟨0x174, 1, 0, 31, 0, .ro, 0, .any⟩,
   ⟨0x178, 1, 0, 31, 0, .ro, 0, .any⟩,
   ⟨0x17C, 1, 0, 31, 0, .ro, 0, .any⟩,
   ⟨0x180, 1, 0, 31, 0, .ro, 0, .any⟩]

def spec_bp : List Spec :=
  [⟨0x0C0, 16, 16, 31, 31, .rw, 0, .any⟩,
   ⟨0x0C0, 16, 16, 30, 30, .rw, 0, .any⟩,
   ⟨0x0C0, 16, 16, 23, 0, .rw, 0, .any⟩,
   ⟨0x0C4, 16, 16, 22, 0, .rw, 0, .any⟩,
   ⟨0x0C8, 16, 16, 31, 31, .ro, 0, .any⟩,
   ⟨0x0C8, 16, 16, 30, 30, .ro, 0, .any⟩,
   ⟨0x0C8, 16, 16, 23, 0, .ro, 0, .any⟩,
   ⟨0x0CC, 16, 16, 23, 0, .ro, 0, .any⟩,
   ⟨0x1C0, 1, 0, 31, 28, .wo, 0, .any⟩,
   ⟨0x1C0, 1, 0, 3, 0, .wo, 0, .any⟩] ++
  [⟨0x1C4, 1, 0, 31, 31, .w1c, 0, .any⟩,
   ⟨0x1C4, 1, 0, 30, 30, .ro, 0, .any⟩,
   ⟨0x1C8, 1, 0, 31, 31, .w1c, 0, .any⟩,
   ⟨0x1C8, 1, 0, 30, 27, .ro, 0, .any⟩,
   ⟨0x1C8, 1, 0, 26, 20, .ro, 0, .any⟩,
   ⟨0x1CC, 1, 0, 23, 0, .ro, 0, .any⟩,
   ⟨0x1D0, 1, 0, 13, 12, .ro, 0, .any⟩,
   ⟨0x1D0, 1, 0, 11, 8, .ro, 0, .any⟩,
   ⟨0x1D0, 1, 0, 6, 0, .ro, 0, .any⟩,
   ⟨0x1E0, 1, 0, 1, 1, .wo, 0, .any⟩] ++
  [⟨0x1E0, 1, 0, 0, 0, .wo, 0, .any⟩,
   ⟨0x1E4, 1, 0, 31, 0, .ro, 0, .any⟩,
   ⟨0x1E8, 1, 0, 31, 0, .ro, 0, .any⟩,
   ⟨0x1EC, 1, 0, 31, 0, .ro, 0, .any⟩,
   ⟨0x1F0, 1, 0, 31, 0, .ro, 0, .any⟩]

def spec_dm0 : List Spec :=
  [⟨0x0C0, 1, 0, 1, 0, .rw, 1, .any⟩,
   ⟨0x0C4, 1, 0, 31, 16, .rw, 2000, .range 100 65535⟩,
   ⟨0x0C4, 1, 0, 11, 8, .rw, 4, .any⟩,
   ⟨0x0C8, 1, 0, 14, 8, .rw, 48, .range 2 64⟩,
   ⟨0x0C8, 1, 0, 6, 0, .rw, 16, .any⟩,
   ⟨0x0D0, 12, 4, 31, 30, .rw, 0, .range 0 2⟩,
   ⟨0x0D0, 12, 4, 15, 0, .rw, 0, .range 1 65535⟩,
   ⟨0x100, 2, 4, 31, 24, .ro, 0, .any⟩,
   ⟨0x100, 2, 4, 23, 23, .ro, 0, .any⟩,
   ⟨0x100, 2, 4, 22, 22, .ro, 0, .any⟩] ++
  [⟨0x100, 2, 4, 15, 8, .ro, 0, .any⟩,
   ⟨0x100, 2, 4, 7, 0, .ro, 0, .any⟩,
   ⟨0x108, 1, 0, 7, 0, .rw, 50, .range 10 100⟩,
   ⟨0x10C, 1, 0, 31, 31, .wo, 0, .any⟩,
   ⟨0x10C, 1, 0, 30, 30, .rw, 0, .any⟩,
   ⟨0x10C, 1, 0, 29, 29, .wo, 0, .any⟩,
   ⟨0x10C, 1, 0, 0, 0, .rw, 0, .any⟩,
   ⟨0x110, 1, 0, 31, 31, .ro, 0, .any⟩,
   ⟨0x110, 1, 0, 30, 30, .ro, 0, .any⟩,
   ⟨0x110, 1, 0, 29, 29, .w1c, 0, .any⟩] ++
  [⟨0x110, 1, 0, 28, 28, .w1c, 0, .any⟩,
   ⟨0x110, 1, 0, 16, 16, .ro, 0, .any⟩,
   ⟨0x110, 1, 0, 15, 0, .ro, 0, .any⟩,
   ⟨0x114, 1, 0, 31, 31, .wo, 0, .any⟩,
   ⟨0x114, 1, 0, 4, 0, .rw, 15, .any⟩,
   ⟨0x118, 1, 0, 9, 0, .rw, 100, .range 0 1000⟩,
   ⟨0x11C, 1, 0, 31, 31, .ro, 0, .any⟩,
   ⟨0x11C, 1, 0, 30, 30, .ro, 0, .any⟩,
   ⟨0x11C, 1, 0, 29, 29, .ro, 0, .any⟩,
   ⟨0x11C, 1, 0, 26, 24, .ro, 0, .any⟩] ++
  [⟨0x11C, 1, 0, 22, 22, .ro, 0, .any⟩,
   ⟨0x11C, 1, 0, 21, 21, .w1c, 0, .any⟩,
   ⟨0x11C, 1, 0, 13, 8, .ro, 0, .any⟩,
   ⟨0x120, 1, 0, 7, 0, .rw, 24, .any⟩,
   ⟨0x124, 1, 0, 25, 0, .ro, 0, .any⟩,
   ⟨0x140, 1, 0, 1, 1, .wo, 0, .any⟩,
   ⟨0x140, 1, 0, 0, 0, .wo, 0, .any⟩,
   ⟨0x144, 1, 0, 31, 0, .ro, 0, .any⟩,
   ⟨0x148, 1, 0, 31, 0, .ro, 0, .any⟩,
   ⟨0x14C, 1, 0, 31, 0, .ro, 0, .any⟩] ++
  [⟨0x150, 1, 0, 31, 0, .ro, 0, .any⟩,
   ⟨0x154, 1, 0, 31, 0, .ro, 0, .any⟩]

def spec_dmT : List Spec :=
  [⟨0x040, 1, 0, 31, 24, .rw, 14, .any⟩,
   ⟨0x040, 1, 0, 23, 16, .rw, 14, .any⟩,
   ⟨0x040, 1, 0, 15, 8, .rw, 28, .any⟩,
   ⟨0x040, 1, 0, 7, 0, .rw, 2, .any⟩,
   ⟨0x044, 1, 0, 31, 16, .rw, 3900, .any⟩,
   ⟨0x044, 1, 0, 15, 0, .rw, 350, .any⟩,
   ⟨0x048, 1, 0, 31, 24, .rw, 18, .any⟩,
   ⟨0x048, 1, 0, 23, 16, .rw, 8, .any⟩,
   ⟨0x048, 1, 0, 15, 8, .rw, 16, .any⟩,
   ⟨0x048, 1, 0, 7, 0, .rw, 1, .any⟩] ++
  [⟨0x04C, 1, 0, 15, 0, .ro, 8000, .any⟩]

def spec_hx0 : List Spec :=
  [⟨0x0C0, 1, 0, 31, 31, .ro, 0, .any⟩,
   ⟨0x0C0, 1, 0, 8, 8, .ro, 0, .any⟩,
   ⟨0x0C0, 1, 0, 7, 4, .ro, 0, .any⟩,
   ⟨0x0C0, 1, 0, 3, 0, .ro, 0, .any⟩,
   ⟨0x0C4, 1, 0, 19, 16, .ro, 2, .any⟩,
   ⟨0x0C4, 1, 0, 11, 8, .ro, 2, .any⟩,
   ⟨0x0C4, 1, 0, 3, 0, .rw, 0, .any⟩,
   ⟨0x0C8, 1, 0, 8, 8, .ro, 0, .any⟩,
   ⟨0x0C8, 1, 0, 7, 0, .ro, 0, .any⟩,
   ⟨0x0D0, 8, 4, 31, 0, .rw, 0, .any⟩] ++
  [⟨0x0F0, 1, 0, 31, 31, .rw, 0, .any⟩,
   ⟨0x0F0, 1, 0, 11, 0, .rw, 0, .any⟩]

def spec_mx0 : List Spec :=
  [⟨0x0C0, 1, 0, 31, 31, .ro, 0, .any⟩,
   ⟨0x0C0, 1, 0, 30, 30, .ro, 0, .any⟩,
   ⟨0x0C0, 1, 0, 4, 0, .ro, 0, .any⟩,
   ⟨0x0C4, 1, 0, 26, 16, .rwl, 1024, .range 1 1024⟩,
   ⟨0x0C4, 1, 0, 10, 0, .ro, 0, .any⟩,
   ⟨0x0C8, 1, 0, 31, 0, .ro, 0, .any⟩,
   ⟨0x0CC, 1, 0, 31, 31, .w1c, 0, .any⟩,
   ⟨0x0CC, 1, 0, 30, 28, .ro, 0, .any⟩,
   ⟨0x0CC, 1, 0, 7, 0, .ro, 0, .any⟩,
   ⟨0x0E0, 1, 0, 1, 1, .wo, 0, .any⟩] ++
  [⟨0x0E0, 1, 0, 0, 0, .wo, 0, .any⟩,
   ⟨0x0E4, 1, 0, 31, 0, .ro, 0, .any⟩,
   ⟨0x0E8, 1, 0, 31, 0, .ro, 0, .any⟩,
   ⟨0x0EC, 1, 0, 31, 0, .ro, 0, .any⟩,
   ⟨0x0F0, 1, 0, 31, 0, .ro, 0, .any⟩]

def spec_mx1 : List Spec :=
  [⟨0x0C0, 1, 0, 31, 31, .rw, 0, .any⟩,
   ⟨0x0C0, 1, 0, 30, 30, .wo, 0, .any⟩,
   ⟨0x0C4, 1, 0, 31, 31, .ro, 0, .any⟩,
   ⟨0x0C4, 1, 0, 30, 30, .ro, 0, .any⟩,
   ⟨0x0C8, 1, 0, 31, 31, .wo, 0, .any⟩,
   ⟨0x0C8, 1, 0, 30, 30, .ro, 0, .any⟩,
   ⟨0x0C8, 1, 0, 29, 29, .w1c, 0, .any⟩,
   ⟨0x0C8, 1, 0, 10, 0, .ro, 0, .any⟩,
   ⟨0x0CC, 1, 0, 31, 0, .wo, 0, .any⟩,
   ⟨0x0D0, 1, 0, 31, 0, .ro, 0, .any⟩]

def spec_ul : List Spec :=
  [⟨0x0C0, 16, 4, 31, 31, .rw, 0, .any⟩,
   ⟨0x0C0, 16, 4, 30, 30, .ro, 0, .any⟩,
   ⟨0x0C0, 16, 4, 29, 28, .rw, 0, .any⟩,
   ⟨0x0C0, 16, 4, 27, 26, .rw, 0, .range 0 2⟩,
   ⟨0x0C0, 16, 4, 13, 0, .rw, 9728, .range 64 16380⟩,
   ⟨0x100, 1, 0, 11, 0, .ro, 0, .any⟩,
   ⟨0x104, 1, 0, 11, 0, .ro, 0, .any⟩]

def spec_ce : List Spec :=
  [⟨0x0C0, 1, 0, 31, 31, .rw, 0, .any⟩,
   ⟨0x0C0, 1, 0, 15, 0, .rw, 35032, .any⟩,
   ⟨0x0C4, 1, 0, 31, 0, .rw, 0, .any⟩,
   ⟨0x0C8, 1, 0, 15, 0, .rw, 0, .any⟩,
   ⟨0x0CC, 1, 0, 26, 16, .ro, 0, .any⟩,
   ⟨0x0CC, 1, 0, 10, 0, .ro, 0, .any⟩]

def spec_px : List Spec :=
  [⟨0x040, 1, 0, 31, 31, .rw, 0, .any⟩,
   ⟨0x040, 1, 0, 30, 30, .rw, 1, .any⟩,
   ⟨0x040, 1, 0, 29, 29, .rw, 1, .any⟩,
   ⟨0x040, 1, 0, 28, 28, .rw, 0, .any⟩,
   ⟨0x040, 1, 0, 27, 27, .ro, 0, .any⟩,
   ⟨0x040, 1, 0, 23, 16, .rw, 64, .range 16 255⟩,
   ⟨0x040, 1, 0, 15, 8, .rw, 50, .range 1 255⟩,
   ⟨0x040, 1, 0, 7, 0, .rw, 2, .any⟩,
   ⟨0x044, 1, 0, 31, 20, .rw, 300, .range 10 3600⟩,
   ⟨0x044, 1, 0, 15, 8, .rw, 30, .range 10 255⟩] ++
  [⟨0x044, 1, 0, 7, 0, .rw, 10, .range 1 255⟩,
   ⟨0x048, 1, 0, 31, 0, .rwl, 0, .any⟩,
   ⟨0x04C, 1, 0, 15, 0, .rwl, 0, .any⟩,
   ⟨0x050, 1, 0, 15, 8, .ro, 0, .any⟩,
   ⟨0x050, 1, 0, 7, 0, .rw, 0, .any⟩,
   ⟨0x054, 1, 0, 31, 28, .ro, 0, .any⟩,
   ⟨0x054, 1, 0, 27, 24, .ro, 15, .any⟩,
   ⟨0x054, 1, 0, 23, 20, .ro, 0, .any⟩,
   ⟨0x054, 1, 0, 19, 19, .ro, 0, .any⟩,
   ⟨0x054, 1, 0, 18, 18, .ro, 0, .any⟩] ++
  [⟨0x054, 1, 0, 17, 17, .ro, 0, .any⟩,
   ⟨0x054, 1, 0, 16, 16, .ro, 0, .any⟩,
   ⟨0x054, 1, 0, 15, 15, .ro, 0, .any⟩,
   ⟨0x054, 1, 0, 14, 14, .ro, 0, .any⟩,
   ⟨0x054, 1, 0, 13, 13, .ro, 0, .any⟩,
   ⟨0x054, 1, 0, 12, 0, .ro, 0, .any⟩,
   ⟨0x058, 1, 0, 31, 24, .ro, 0, .any⟩,
   ⟨0x058, 1, 0, 23, 16, .ro, 0, .any⟩,
   ⟨0x058, 1, 0, 15, 8, .ro, 0, .any⟩,
   ⟨0x058, 1, 0, 7, 0, .ro, 0, .any⟩] ++
  [⟨0x05C, 1, 0, 31, 28, .wo, 0, .any⟩,
   ⟨0x060, 1, 0, 31, 31, .w1c, 0, .any⟩,
   ⟨0x060, 1, 0, 30, 30, .ro, 0, .any⟩,
   ⟨0x060, 1, 0, 29, 29, .ro, 0, .any⟩,
   ⟨0x060, 1, 0, 7, 0, .ro, 0, .any⟩,
   ⟨0x064, 1, 0, 31, 0, .ro, 0, .any⟩,
   ⟨0x068, 1, 0, 18, 0, .ro, 0, .any⟩,
   ⟨0x06C, 1, 0, 31, 0, .rwl, 0, .multiple 1048576 0 4294967295⟩,
   ⟨0x070, 1, 0, 7, 0, .rwl, 0, .any⟩,
   ⟨0x074, 1, 0, 7, 0, .rwl, 64, .range 56 255⟩] ++
  [⟨0x078, 1, 0, 31, 31, .ro, 0, .any⟩,
   ⟨0x078, 1, 0, 30, 28, .ro, 0, .any⟩,
   ⟨0x078, 1, 0, 27, 16, .ro, 0, .any⟩,
   ⟨0x078, 1, 0, 15, 0, .ro, 0, .any⟩,
   ⟨0x07C, 1, 0, 31, 16, .rw, 1024, .range 1 65535⟩,
   ⟨0x07C, 1, 0, 15, 0, .rw, 100, .range 1 1000⟩,
   ⟨0x080, 1, 0, 1, 1, .wo, 0, .any⟩,
   ⟨0x080, 1, 0, 0, 0, .wo, 0, .any⟩,
   ⟨0x084, 1, 0, 31, 0, .ro, 0, .any⟩,
   ⟨0x088, 1, 0, 31, 0, .ro, 0, .any⟩] ++
  [⟨0x08C, 1, 0, 31, 0, .ro, 0, .any⟩,
   ⟨0x090, 1, 0, 31, 0, .ro, 0, .any⟩,
   ⟨0x094, 1, 0, 31, 0, .ro, 0, .any⟩,
   ⟨0x098, 1, 0, 31, 0, .ro, 0, .any⟩,
   ⟨0x09C, 1, 0, 31, 0, .ro, 0, .any⟩,
   ⟨0x100, 48, 4, 31, 31, .rw, 0, .any⟩,
   ⟨0x100, 48, 4, 24, 0, .rw, 0, .any⟩]

def spec_pm : List Spec :=
  [⟨0x0C0, 1, 0, 15, 8, .rw, 2, .range 1 255⟩,
   ⟨0x0C0, 1, 0, 5, 0, .rw, 20, .range 5 40⟩,
   ⟨0x0C4, 1, 0, 31, 16, .ro, 0, .any⟩,
   ⟨0x0C4, 1, 0, 10, 0, .ro, 0, .any⟩,
   ⟨0x0C8, 1, 0, 31, 0, .ro, 0, .any⟩,
   ⟨0x0CC, 1, 0, 15, 8, .rw, 50, .range 1 150⟩,
   ⟨0x0CC, 1, 0, 0, 0, .rw, 1, .any⟩,
   ⟨0x0D0, 1, 0, 11, 0, .ro, 0, .any⟩,
   ⟨0x0D4, 1, 0, 31, 0, .rw, 0, .multiple 1048576 0 4294967295⟩,
   ⟨0x0D8, 1, 0, 7, 0, .rw, 0, .any⟩]

def spec_pmg : List Spec :=
  [⟨0x200, 8, 64, 31, 28, .wo, 0, .any⟩,
   ⟨0x204, 8, 64, 31, 28, .rw, 4, .range 2 8⟩,
   ⟨0x204, 8, 64, 26, 24, .rw, 2, .any⟩,
   ⟨0x204, 8, 64, 23, 16, .rw, 50, .range 10 125⟩,
   ⟨0x204, 8, 64, 15, 8, .rw, 1, .range 1 255⟩,
   ⟨0x204, 8, 64, 7, 0, .rw, 40, .range 1 255⟩,
   ⟨0x208, 8, 64, 15, 0, .rw, 100, .any⟩,
   ⟨0x20C, 8, 64, 31, 29, .ro, 0, .any⟩,
   ⟨0x20C, 8, 64, 28, 28, .ro, 0, .any⟩,
   ⟨0x20C, 8, 64, 26, 24, .ro, 0, .any⟩] ++
  [⟨0x20C, 8, 64, 19, 16, .ro, 0, .any⟩,
   ⟨0x20C, 8, 64, 15, 0, .ro, 0, .any⟩,
   ⟨0x210, 8, 64, 31, 24, .rw, 10, .any⟩,
   ⟨0x210, 8, 64, 23, 16, .rw, 5, .any⟩,
   ⟨0x210, 8, 64, 15, 8, .rw, 3, .any⟩,
   ⟨0x210, 8, 64, 7, 0, .rw, 60, .any⟩,
   ⟨0x214, 8, 64, 31, 24, .ro, 0, .any⟩,
   ⟨0x214, 8, 64, 23, 23, .ro, 0, .any⟩,
   ⟨0x214, 8, 64, 16, 0, .ro, 0, .any⟩,
   ⟨0x218, 8, 64, 31, 31, .rw, 0, .any⟩] ++
  [⟨0x218, 8, 64, 30, 30, .rw, 1, .any⟩,
   ⟨0x218, 8, 64, 23, 16, .rw, 126, .range 1 126⟩,
   ⟨0x218, 8, 64, 15, 8, .rw, 10, .range 0 120⟩,
   ⟨0x218, 8, 64, 7, 0, .rw, 50, .range 1 255⟩,
   ⟨0x21C, 8, 64, 31, 16, .sw, 400, .any⟩,
   ⟨0x21C, 8, 64, 15, 8, .rw, 1, .any⟩,
   ⟨0x21C, 8, 64, 7, 0, .rw, 64, .range 1 255⟩,
   ⟨0x220, 8, 64, 31, 28, .wo, 0, .any⟩,
   ⟨0x224, 8, 64, 31, 29, .ro, 0, .any⟩,
   ⟨0x224, 8, 64, 28, 28, .ro, 0, .any⟩] ++
  [⟨0x224, 8, 64, 27, 26, .ro, 0, .any⟩,
   ⟨0x224, 8, 64, 25, 25, .w1c, 0, .any⟩,
   ⟨0x224, 8, 64, 22, 16, .ro, 0, .any⟩,
   ⟨0x228, 8, 64, 15, 0, .ro, 0, .any⟩,
   ⟨0x22C, 8, 64, 31, 31, .rw, 0, .any⟩,
   ⟨0x22C, 8, 64, 30, 30, .rw, 0, .any⟩,
   ⟨0x22C, 8, 64, 23, 16, .rw, 0, .any⟩,
   ⟨0x22C, 8, 64, 7, 0, .rw, 10, .range 1 255⟩,
   ⟨0x230, 8, 64, 31, 31, .ro, 0, .any⟩,
   ⟨0x230, 8, 64, 30, 30, .ro, 0, .any⟩] ++
  [⟨0x230, 8, 64, 27, 24, .ro, 0, .any⟩,
   ⟨0x230, 8, 64, 23, 16, .ro, 0, .any⟩,
   ⟨0x230, 8, 64, 15, 0, .ro, 0, .any⟩,
   ⟨0x234, 8, 64, 31, 16, .ro, 0, .any⟩,
   ⟨0x234, 8, 64, 15, 0, .ro, 0, .any⟩,
   ⟨0x238, 8, 64, 31, 16, .ro, 0, .any⟩,
   ⟨0x238, 8, 64, 15, 0, .ro, 0, .any⟩,
   ⟨0x23C, 8, 64, 15, 0, .ro, 0, .any⟩,
   ⟨0x0C0, 1, 0, 1, 1, .wo, 0, .any⟩,
   ⟨0x0C0, 1, 0, 0, 0, .wo, 0, .any⟩] ++
  [⟨0x0C4, 32, 4, 31, 0, .ro, 0, .any⟩]

def spec_pw : List Spec :=
  [⟨0x040, 1, 0, 2, 0, .ro, 3, .any⟩,
   ⟨0x044, 1, 0, 31, 28, .wo, 0, .any⟩,
   ⟨0x044, 1, 0, 0, 0, .w1c, 0, .any⟩,
   ⟨0x048, 1, 0, 3, 0, .rw, 15, .any⟩,
   ⟨0x04C, 1, 0, 31, 24, .rw, 2, .range 1 20⟩,
   ⟨0x04C, 1, 0, 23, 16, .rw, 5, .range 1 20⟩,
   ⟨0x04C, 1, 0, 15, 8, .rw, 5, .range 1 20⟩,
   ⟨0x04C, 1, 0, 7, 0, .rw, 5, .range 1 20⟩,
   ⟨0x050, 1, 0, 3, 0, .rw, 3, .any⟩,
   ⟨0x054, 1, 0, 31, 31, .ro, 0, .any⟩] ++
  [⟨0x054, 1, 0, 30, 30, .ro, 0, .any⟩,
   ⟨0x054, 1, 0, 29, 29, .ro, 0, .any⟩,
   ⟨0x054, 1, 0, 26, 24, .ro, 0, .any⟩,
   ⟨0x054, 1, 0, 23, 20, .ro, 0, .any⟩,
   ⟨0x054, 1, 0, 19, 16, .ro, 0, .any⟩,
   ⟨0x054, 1, 0, 15, 8, .w1c, 0, .any⟩,
   ⟨0x054, 1, 0, 7, 0, .ro, 0, .any⟩,
   ⟨0x058, 1, 0, 31, 28, .ro, 0, .any⟩,
   ⟨0x058, 1, 0, 15, 0, .ro, 0, .any⟩,
   ⟨0x05C, 1, 0, 31, 0, .ro, 0, .any⟩] ++
  [⟨0x060, 1, 0, 31, 31, .rw, 0, .any⟩,
   ⟨0x060, 1, 0, 23, 0, .rw, 0, .any⟩,
   ⟨0x064, 1, 0, 6, 0, .rw, 92, .any⟩,
   ⟨0x068, 1, 0, 31, 0, .ro, 0, .any⟩,
   ⟨0x06C, 1, 0, 31, 0, .ro, 0, .any⟩,
   ⟨0x070, 1, 0, 2, 0, .wo, 0, .any⟩,
   ⟨0x074, 1, 0, 3, 3, .ro, 0, .any⟩,
   ⟨0x074, 1, 0, 2, 0, .ro, 0, .any⟩]

def spec_sc : List Spec :=
  [⟨0x0C0, 1, 0, 31, 0, .ro, 0, .any⟩,
   ⟨0x0C4, 1, 0, 31, 31, .w1c, 0, .any⟩,
   ⟨0x0C4, 1, 0, 30, 28, .ro, 0, .any⟩,
   ⟨0x0C4, 1, 0, 27, 27, .ro, 0, .any⟩,
   ⟨0x0C4, 1, 0, 26, 26, .ro, 0, .any⟩,
   ⟨0x0C4, 1, 0, 7, 0, .ro, 0, .any⟩,
   ⟨0x0C8, 1, 0, 10, 0, .rw, 2047, .any⟩,
   ⟨0x0CC, 1, 0, 0, 0, .rw, 1, .any⟩,
   ⟨0x0D0, 1, 0, 7, 0, .rw, 255, .any⟩,
   ⟨0x0D4, 1, 0, 1, 0, .ro, 0, .any⟩] ++
  [⟨0x0D8, 1, 0, 31, 28, .wo, 0, .any⟩,
   ⟨0x0D8, 1, 0, 15, 0, .wo, 0, .any⟩,
   ⟨0x0DC, 1, 0, 31, 0, .ro, 0, .any⟩,
   ⟨0x0E0, 1, 0, 31, 0, .ro, 0, .any⟩,
   ⟨0x0E4, 1, 0, 31, 28, .wo, 0, .any⟩,
   ⟨0x0E8, 1, 0, 31, 31, .ro, 0, .any⟩,
   ⟨0x0E8, 1, 0, 30, 29, .ro, 0, .any⟩,
   ⟨0x0E8, 1, 0, 28, 28, .ro, 0, .any⟩,
   ⟨0x0E8, 1, 0, 27, 27, .ro, 0, .any⟩,
   ⟨0x0E8, 1, 0, 26, 26, .ro, 0, .any⟩] ++
  [⟨0x0E8, 1, 0, 25, 25, .w1c, 0, .any⟩,
   ⟨0x0E8, 1, 0, 20, 16, .ro, 0, .any⟩,
   ⟨0x0E8, 1, 0, 15, 0, .ro, 0, .any⟩,
   ⟨0x0F0, 4, 4, 31, 0, .wo, 0, .any⟩,
   ⟨0x100, 4, 4, 31, 0, .ro, 0, .any⟩,
   ⟨0x110, 8, 4, 31, 0, .wo, 0, .any⟩,
   ⟨0x130, 8, 4, 31, 0, .wo, 0, .any⟩,
   ⟨0x150, 1, 0, 31, 28, .wo, 0, .any⟩,
   ⟨0x154, 1, 0, 31, 31, .ro, 0, .any⟩,
   ⟨0x158, 1, 0, 31, 0, .ro, 0, .any⟩] ++
  [⟨0x15C, 1, 0, 31, 0, .ro, 0, .any⟩]

def spec_hx2 : List Spec :=
  [⟨0x0C0, 1, 0, 31, 31, .rw, 0, .any⟩,
   ⟨0x0C0, 1, 0, 11, 0, .rw, 0, .any⟩]

end Sys2Proof.Machine
end

