-- ==== Sys2Proof/Machine/State.lean ====
section
/-! DEFINITION. Everything the spec gives the block that can change, as plain data, and the state after reset. Register
words, table entries and counters stand in sparse maps by address; what the spec gives an engine beside its registers stands
in one structure per engine. Every default below is the value at reset. -/

namespace Sys2Proof.Machine

/-- Why a command stops the block. -/
inductive Fault where
  /-- Raised by DRAM_REQUEST alone, for a request that no engine can make: not 32 to 256 bytes in units of 32 bytes inside one
  granule of the 16 GiB (R326). Safe: the block has no effect to give such a request. -/
  | dramAddress
  deriving DecidableEq, Repr

/-- Why a command has no meaning. -/
inductive Refusal where
  /-- A command of the table that has no meaning yet. No arm answers it: every command has its meaning. Safe. -/
  | notModelled (mnemonic : String)
  deriving DecidableEq, Repr

/-- A downstream PLOAM message (R102 to R104, R148 to R160): vendor messages by their target, the sequencer's messages,
or 48 bytes from the host. `sn` is VSSN + VID × 2^32; `eqd` is in 1/64 ns; `no` is the sequence number that the copies of one
message share (R102). -/
inductive PMsg where
  | lzNotice (target start : Nat)
  | lzClose (target : Nat)
  | realign (target : Nat) (shorten : Int)
  | burstProfile (p : Nat)
  | assign (ctx onu sn : Nat)
  | rangingTime (onu : Nat) (eqd : Int) (relative : Bool) (no : Nat)
  | deactivate (onu : Nat)
  | disable (sn : Nat) (enable : Bool)
  | levelQuery (ctx onu : Nat)
  | levelSet (ctx onu level : Nat)
  | host (data : List Byte)
  deriving DecidableEq, Repr

/-- The message as numbers, for its MIC (R102). -/
def PMsg.words : PMsg → List Nat
  | .lzNotice t s => [0, t, s]
  | .lzClose t => [1, t]
  | .realign t d => [2, t, d.natAbs, if d < 0 then 1 else 0]
  | .burstProfile p => [3, p]
  | .assign c o sn => [4, c, o, sn]
  | .rangingTime o d r _ => [5, o, d.natAbs, if d < 0 then 1 else 0, if r then 1 else 0]
  | .deactivate o => [6, o]
  | .disable sn e => [7, sn, if e then 1 else 0]
  | .levelQuery c o => [8, c, o]
  | .levelSet c o l => [9, c, o, l]
  | .host d => 10 :: d.map (fun b => b.toNat)

/-- The ONU-ID that a message addresses, 1,023 for all (R102, R103). DEDUCED (log entry 131): the first two bytes of a host's message
hold it. -/
def PMsg.addr : PMsg → Nat
  | .rangingTime o _ _ _ => o
  | .deactivate o => o
  | .host d => ((d.headD 0).toNat * 256 + (d.getD 1 0).toNat) % 1024
  | .lzNotice .. | .lzClose _ | .realign .. | .burstProfile _ | .assign .. | .disable .. | .levelQuery .. | .levelSet .. => 1023

/-- An allocation structure as a map carries it (R164, R174): its Alloc-ID, flags, burst profile, and its StartTime and GrantSize as
G.9804.2 encodes them. -/
structure BwStruct where
  alloc : Nat
  dbru : Bool
  ploam : Bool
  prof : Nat
  start : Nat
  size : Nat
  deriving DecidableEq, Repr

/-- What the block sends to the outside world (log entry 12): interrupts, voltage requests, a lane's swing in mV and taps in 1/128,
its breath (a 1 is level `high`, a 0 level 0, then `post` ns of fill), its test pattern, injected errors, pulses of PPS_OUT (WIDTH in
units of 10 µs, 0 where the output is driven low, R251),
words read by the host, XGEM frames with their payload as it is sent, downstream frames with what the ramp adds to their length in ns
(R111), drone without a PSBd (R115), pulses of BRST_RST_N, RSSI_TRIG and MON_SEL (start in parts of a nanosecond after the frame of the map, and
width in ns), a lane's trace overlay (DEPTH in percent, 0 for none, R439), the pulses that free a module bus (R444), bandwidth maps, PLOAM messages (of a vendor message the type and the 36 bytes of content; sequence number and MIC), circuit packets, uplink packets, memory accesses, protection words, the
standby memory service and rail enables. -/
inductive Output where
  | msix (fn vec : Nat)
  | avs (mv : Nat)
  | avsRead
  | drive (lane amp : Nat) (pre2 pre1 main post1 : Int)
  | breath (lane high : Nat) (bits : List Byte) (post : Nat)
  | pattern (lane : Nat) (taps : List Nat)
  | inject (lane : Nat)
  | ppsOut (m width : Nat)
  | readData (fn addr : Nat) (value : Word)
  | xgem (port id keyIdx last bytes : Nat) (payload : List Byte)
  | frame (port sfc : Nat) (longer : Int)
  | gap (port : Nat) (ns : Nat)
  | pulse (port : Nat) (at_ : Int) (w : Nat)
  | rssi (port : Nat) (at_ : Int) (w : Nat)
  | overlay (lane depth : Nat)
  | monSel (port : Nat) (at_ : Int) (w : Nat)
  | busClear (bus : Nat)
  | bwmap (port sfc : Nat) (structs : List BwStruct)
  | ploam (port : Nat) (msg : PMsg) (vendor : Option (Nat × List Byte)) (no : Nat) (mic : BitVec 64)
  | ligMap (msg : List Byte) (structs : List BwStruct)
  | ligHeader (bytes : List Byte)
  | ceFrame (circuit control : Nat)
  | uplink (group : Nat) (bytes : List Byte)
  | aperture (fn addr : Nat) (data : Option (List Byte))
  | doe (words : List Word)
  | dram (port addr : Nat) (data : Option (List Byte))
  | hbWord (word : Nat)
  | sms (bytes : List Byte)
  | rail (n : Nat) (on : Bool)
  | allocated (pool head : Nat)
  | noBuf (pool cause : Nat)
  | lastNotice (fin head : Nat)
  deriving DecidableEq, Repr

/-- An MSI-X vector (R61): mask, pending bit, whether its minimum gap runs, and a message held until the gap ends. -/
structure Vec where
  masked : Bool
  pba : Bool
  gapRunning : Bool
  held : Bool
  deriving DecidableEq, Repr

/-- A vector at reset: masked (log entry 9). -/
def Vec.reset : Vec := ⟨true, false, false, false⟩

/-- The device page's hidden state: sections whose PITCH_SLOW was raised in this excursion (R25); the voltage the loop holds,
fast intervals counted, requests not acknowledged, whether the first reading is awaited, the request in flight (R26 to R28);
when the governor last acted (R29); code corrections of this second by memory (R36); sections whose reset waits for their
gate (R498). -/
structure Dev where
  slowRaised : Word := 0
  avsV : Nat := 0
  avsLow : Nat := 0
  avsUnacked : Nat := 0
  avsReading : Bool := false
  avsFlight : Option Nat := none
  didtAt : Option Nat := none
  ceSec : SMap Nat := []
  gatedRst : Nat := 0
  deriving DecidableEq, Repr

/-- Where a receiver's equaliser starts (R70, R71, R75). -/
inductive EqSrc where
  | defaults | last | frozen
  deriving DecidableEq, Repr

/-- Receiver of a lane: the step of R70 it is in, or its state. -/
inductive RxSt where
  | off | waitSig | adapt | pcs | locked | idle | fast | burst | test
  deriving DecidableEq, Repr

/-- Transmitter of a lane. -/
inductive TxSt where
  | off | detect | open | sending | idle
  deriving DecidableEq, Repr

/-- A lane's state behind its page: where bring-up stands, whether a breath is due when the termination is found, drone until the
next frame boundary (R74, R81), test mode and its end at that boundary, the polarity applied, counters, and a PRX receiver's
equaliser: the values in it, and the values last settled for each burst profile (R77; 0 the family's defaults). -/
structure Lane where
  pllWait : Bool := false
  refWait : Bool := false
  rx : RxSt := .off
  tx : TxSt := .off
  src : EqSrc := .defaults
  frozen : Bool := false
  last : Bool := false
  idlePend : Bool := false
  detectDue : Bool := false
  exitDue : Bool := false
  drone : Bool := false
  testPend : Bool := false
  test : Bool := false
  testEnd : Bool := false
  inverted : Bool := false
  wired : Bool := false
  compRun : Nat := 0
  losRun : Nat := 0
  eq : Nat := 0
  eqProf : SMap Nat := []
  bits : Nat := 0
  berr : Nat := 0
  serr : Nat := 0
  deriving DecidableEq, Repr

/-- A timestamp (R245): seconds, nanoseconds, 1/64 ns and epoch. -/
structure Stamp where
  sec : Nat := 0
  ns : Nat := 0
  frac : Nat := 0
  epoch : Nat := 0
  deriving DecidableEq, Repr

/-- A correction held for a PPS edge (R241): its OP, its input, its value in ns, and when it was written. -/
structure Held where
  op : Nat
  input : Nat
  value : Int
  since : Nat
  deriving DecidableEq, Repr

/-- A time base (R234): its exact value in parts of a nanosecond, epoch, rate, what is left to slew, and the baseline of
R242. -/
structure TimeBase where
  t : Nat := 0
  epoch : Nat := 0
  rate : Int := 0
  rem : Int := 0
  held : Option Held := none
  baseline : Option Int := none
  deriving DecidableEq, Repr

/-- A PPS input (R249): the last qualified edge and the run of periods that read inverted. -/
structure Pps where
  last : Option Nat := none
  run : Nat := 0
  deriving DecidableEq, Repr

/-- A buffer pool's list (R320): the head cache, top first, and the head of the list beyond it. -/
structure Pool where
  cache : List Nat := []
  top : Nat := 0x7FFFFF
  deriving DecidableEq, Repr

/-- The pool manager: pools, headers that differ from the threaded form (value plus 1, by handle), the pool a REBUILD
scans, and when BP_NOBUF was last raised. -/
structure Bp where
  pools : SMap Pool := []
  hdrs : SMap Nat := []
  rebuild : Option Nat := none
  nobufAt : Option Nat := none
  deriving DecidableEq, Repr

/-- A packet injected by the host (R356): its ring generation, COOKIE, TS_REQ, whether every copy so far was sent, the
copies that left on an uplink, and the last egress timestamp. -/
structure Inj where
  gen : Nat
  cookie : Word
  tsReq : Bool
  sent : Bool := true
  uplinks : Nat := 0
  stamp : Stamp := {}
  ingress : Stamp := {}
  deriving DecidableEq, Repr

/-- The host port: when HX_RING_OVF was last raised by each ring (plus 1), functions in D3hot, the generation of the
INJECT ring, and the injected packets by handle. -/
structure Hx where
  ovfAt : SMap Nat := []
  d3 : Nat := 0
  injGen : Nat := 0
  inj : List (Nat × Inj) := []
  deriving DecidableEq, Repr

/-- The memory port: all traffic stopped by an IDE failure (R368), a bring-up or retraining in progress (R363), the codewords
of the data space that hold an uncorrectable error (address / 16), and the DOE mailbox. -/
structure Mx where
  training : Bool := false
  stopped : Bool := false
  bad : List Nat := []
  doeReq : List Word := []
  doeReply : List Word := []
  deriving DecidableEq, Repr

/-- A packet as it travels: its bytes from the destination address to the FCS, the requester charged for it (R313), its
colour (0 green, 1 yellow, 2 red), a one-step marking (operation and time base, R246) and its ingress timestamps, one on each time base. `orig` is its length in the buffers where edits at dequeue change it (R283). -/
structure Pkt where
  bytes : List Byte := []
  charge : Nat := 0
  colour : Nat := 0
  oneStep : Option (Nat × Nat) := none
  orig : Option Nat := none
  ingress : List Stamp := []
  deriving DecidableEq, Repr

/-- A packet that waits for the lookup pass: its ingress source (R277), XGEM port, bytes, ingress timestamps, and for a PON
packet the frame of its map, its ordinal and whether its terminal lost delineation in that frame (R382, R384). -/
structure LkIn where
  src : Nat
  xgem : Nat := 0
  bytes : List Byte
  stamps : List Stamp := []
  sfc : Nat := 0
  ord : Nat := 0
  unsure : Bool := false
  deriving DecidableEq, Repr

/-- The lookup engine behind its tables (R291 to R306): the identity last given, learn requests (key, destination, source),
when LEARN_FULL was last raised, moves of this second by source, frozen sources (instant plus 1), seeds (table × 2 +
generation), the current generation of each table, moves and INSERTs of this second by table, since when a table's condition
holds (plus 1), the end of its last reseed (plus 1), and the length filter with the one being rebuilt (family × 65,536 +
first 16 bits), and the table whose reseed waits for random bits,
with whether PRESS asked for it (R305, R481). A seed not listed is the one drawn at power-on. The slots relocated since the latest pass
(R301); the requester whose turn it is and its credit in half slots (R36). -/
structure Lk where
  ident : Nat := 0
  learns : List (Nat × Nat × Nat) := []
  fullAt : Option Nat := none
  moves : SMap Nat := []
  frozen : SMap Nat := []
  seeds : SMap (Option Nat) := []
  gens : SMap Nat := []
  relocs : SMap (Nat × Nat) := []
  cond : SMap Nat := []
  gap : SMap Nat := []
  filt : SMap Nat := []
  shadow : SMap Nat := []
  waiting : Option (Nat × Bool) := none
  moved : List Nat := []
  turn : Nat := 0
  credit : Int := 0
  deriving DecidableEq, Repr

/-- Recovery of an eliminating stream (R386, R387): take-any, the history with bit k for the number k below the recovery
number, the instant of the last acceptance, and consecutive packets discarded as rogue. A counting stream (R385) keeps its
next number in `hist`. -/
structure Recov where
  any : Bool := true
  hist : Nat := 0
  at_ : Nat := 0
  rogue : Nat := 0
  deriving DecidableEq, Repr

/-- The uplinks behind their tables: recovery by stream, and when UL_SEQ_INELIGIBLE and UL_ELIM_OVERRUN were last raised. -/
structure Ul where
  rcv : SMap Recov := []
  seqAt : Option Nat := none
  elimAt : Option Nat := none
  deriving DecidableEq, Repr

/-- A packet offered to queues (R223): the tree table (0 downstream, 4 uplink) and queue of each copy; for an injected
packet its COOKIE and TS_REQ (R356). -/
structure Offer where
  pkt : Pkt
  dests : List (Nat × Nat)
  inj : Option (Word × Bool) := none
  deriving DecidableEq, Repr

/-- A packet in a queue: its handle, length and charged length, its sample (T mod 2^40, epoch, depth), whether it was held
at a gate, and how many cycle starts its list had when it was first held as oversize (R264). -/
structure QPkt where
  handle : Nat
  len : Nat
  charged : Nat
  sample : Option (Nat × Nat × Nat) := none
  held : Bool := false
  oversize : Option Nat := none
  deriving DecidableEq, Repr

/-- A queue: its packets, head first, AVG in 1/65,536 byte (R224), and when it became empty. -/
structure TmQ where
  pkts : List QPkt := []
  avg : Nat := 0
  emptyAt : Nat := 0
  deriving DecidableEq, Repr

/-- A histogram (R270): its bins, its largest sojourn, where its first interval started, and whether it was carried. -/
structure Hist where
  bins : SMap Nat := []
  max : Nat := 0
  start : Nat := 0
  merged : Bool := false
  deriving DecidableEq, Repr

/-- The rates and depths of a node that are in effect until the next update (R226). -/
structure Rates where
  cir : Nat
  cbs : Nat
  pir : Nat
  pbs : Nat
  deriving DecidableEq, Repr

/-- The traffic manager behind its tables: buckets in 1/1,000 byte (key: table key × 2 + bucket), deficits, round-robin
pointers, queues, the packets held in buffers by handle, packets offered, drops of the interval by tree (R225), and the
histograms with the start of their interval, and the rates in effect at nodes written since the last update (R226). -/
structure Tm where
  mil : SMap Int := []
  dfc : SMap (Int × Int) := []
  rr : SMap Nat := []
  qs : SMap TmQ := []
  pkts : List (Nat × Pkt) := []
  offers : List Offer := []
  drops : SMap Nat := []
  hist : SMap Hist := []
  histStart : Nat := 0
  oldRates : SMap (Option Rates) := []
  deriving DecidableEq, Repr

/-- A gate list (R258, R264, R265): the start instant of a pending list in ns, the class and end instant (in parts of a
nanosecond) of the packet whose transmission last started, and the cycle starts counted up to an instant. -/
structure Gl where
  pend : Option Nat := none
  flight : Option (Nat × Nat) := none
  starts : Nat := 0
  since : Nat := 0
  deriving DecidableEq, Repr

/-- A message of the activation sequencer: the frames it is still to be sent in, and the frame it is held for. -/
structure SeqMsg where
  msg : PMsg
  copies : Nat
  due : Option Nat := none
  deriving DecidableEq, Repr

/-- An allocation of a burst: its table index (none for a default Alloc-ID), data bytes, DBRu and PLOAMu flags, and the
class: 1 fixed or PLOAM, 3 cooperative pre-grant, 4 assured, 5 surplus of phase 5, 6 best-effort, 7 cooperative at AR. -/
structure Alc where
  entry : Option Nat
  bytes : Nat
  dbru : Bool
  ploam : Bool
  phase : Nat
  deriving DecidableEq, Repr

/-- A burst of a map: ONU context, profile, first guard instant and length in TU, overhead, header instant allowed at the
earliest (TU), whether it holds a pre-grant, whether it is the fixed burst, and its allocations. -/
structure Burst where
  onu : Nat
  prof : Nat
  start : Nat := 0
  size : Nat := 0
  ovh : Nat := 0
  earliest : Nat := 0
  pre : Bool := false
  fixed : Bool := false
  allocs : List Alc := []
  deriving DecidableEq, Repr

/-- A planned serial-number (0), ranging (1) or probe (2) grant of a map: its context, profile and StartTime in TU, and where the
window of its response begins after StartTime and how long it is, in parts of 1/62,208 ns (R150, R151). -/
structure QGrant where
  kind : Nat
  ctx : Nat
  prof : Nat
  st : Nat
  ofs : Int := 0
  len : Nat := 0
  deriving DecidableEq, Repr

/-- A serial-number window that is open (R150): its grant, the start Sk of the frame that carried it, and the serial numbers already
handled in it. -/
structure SnWin where
  grant : QGrant
  sk : Int
  seen : List Nat := []
  deriving DecidableEq, Repr

/-- A bandwidth map (R163): its frame, whether it is a reduced map, its bursts and its planned grants, and the structures it was
sealed with. -/
structure GMap where
  sfc : Nat := 0
  reduced : Bool := false
  bursts : List Burst := []
  grants : List QGrant := []
  words : List BwStruct := []
  deriving DecidableEq, Repr

/-- A request for a quiet window (R178): kind 0 serial-number, 1 ranging, 2 probe, 3 plant monitor; offset and length in
parts of 1/62,208 ns (R150, R151). -/
structure QReq where
  kind : Nat
  ctx : Nat := 0
  prof : Nat := 0
  ofs : Int := 0
  len : Nat
  deriving DecidableEq, Repr

/-- A reserved silence (R179): frame, first TU, length in TU, kind. -/
structure Silence where
  sfc : Nat
  start : Nat
  len : Nat
  kind : Nat
  deriving DecidableEq, Repr

/-- A pending cooperative hint (R183): its context, target upstream frame, earliest header instant in TU, and bytes. -/
structure Hint where
  ctx : Nat
  target : Nat
  at_ : Nat
  bytes : Nat
  deriving DecidableEq, Repr

/-- What a build of a map changes (R169, R176, R185): buckets and deficits by table index, rotation pointers, silences and
hints. -/
structure GCore where
  ta : SMap Int := []
  tp : SMap Nat := []
  dc : SMap Nat := []
  dbruAt : SMap Nat := []
  rr4 : Nat := 0
  rr5 : Nat := 0
  rr6 : Nat := 0
  layout : Nat := 0
  deriving DecidableEq, Repr

/-- A map under construction: the map, the state its grants leave, the shortfalls by table index, unused TU, whether N
reached 0, the new plan with its map's frame, the silences it reserves, the requests returned as not plannable, and those
returned because N ran out. -/
structure Build where
  map : GMap
  core : GCore
  shorts : List (Nat × Nat) := []
  idle : Nat := 0
  limit : Bool := false
  taken : Option QReq := none
  plan : Option (Nat × QGrant × QReq) := none
  sils : List Silence := []
  noplan : List QReq := []
  omitted : List QReq := []
  deriving DecidableEq, Repr

/-- A port of a grant slice: its buckets and pointers, the map under construction, the map sealed for the next frame, the map
last sent, pending requests, reserved silences, planned grants by map, pending hints, the data bytes of maps sent (frame, table
index, bytes), consecutive stale maps, and hints delivered but not yet treated (table index, Th in ns, bytes). -/
structure Gp where
  core : GCore := {}
  built : Option Build := none
  sealed_ : Option GMap := none
  prev : GMap := {}
  reqs : List QReq := []
  silences : List Silence := []
  plans : List (Nat × QGrant × QReq) := []
  hints : List Hint := []
  hist : List (Nat × Nat × Nat) := []
  staleRun : Nat := 0
  inbox : List (Nat × Nat × Nat) := []
  deriving DecidableEq, Repr

/-- A burst window (R125): the burst, the frame of its map, whether the gap before it is sampled (R134), the start Sk of that frame
(R124), and whether its reset pulse was issued (R128). -/
structure Win where
  burst : Burst
  sfc : Nat
  gap : Bool
  sk : Int := 0
  pulsed : Bool := false
  deriving DecidableEq, Repr

/-- A received burst on its way to its score (R141): its window, offset in 1/64 ns, DELIM_Q, and what decoding found. -/
structure RxBurst where
  win : Win
  d : Int
  q : Nat
  decoded : Bool := false
  cw : Nat := 0
  sym : Nat := 0
  corr : Nat := 0
  uncorr : Nat := 0
  bits : Nat := 0
  berr : Nat := 0
  stamps : List Stamp := []
  deriving DecidableEq, Repr

/-- A packet waiting in the encapsulator: its buffer handle (none for OMCI), XGEM port, length, and the bytes of an OMCI message. -/
structure EncItem where
  handle : Option Nat
  xgem : Nat
  len : Nat
  data : List Byte := []
  deriving DecidableEq, Repr

/-- What a context held before the moves that no map build has committed yet (R199, R202): RUNG, PROFILE, PROB, PROB_LEFT, CHANGES, and
the flap window with the rungs held in it. -/
structure MsUndo where
  rung : Nat
  prof : Nat
  prob : Nat
  left : Nat
  changes : Nat
  flap : List Nat
  rungs : List (Nat × Nat)
  deriving DecidableEq, Repr

/-- An activation in progress or a terminal in service, behind its context record. -/
structure Ctx where
  x : Nat := 0               -- instant of the serial-number response, 1/64 ns after Sk + ST
  lostFrom : Nat := 0        -- the state a LOST context was lost from
  snLost : Bool := false     -- ranging windows follow a serial-number response (R159)
  assigned : Bool := false   -- every Assign_ONU-ID copy has been sent
  reranging : Bool := false
  asked : Bool := false      -- a window request is with the grant slice
  open_ : Bool := false      -- a window was opened and its response is awaited
  tries : Nat := 0
  winSfc : Nat := 0          -- frame of the latest window
  queries : Nat := 0
  querySfc : Option Nat := none
  levelSfc : Nat := 0        -- frame in which state LEVEL began
  decided : Option Nat := none
  ended : Bool := false
  ext : Bool := false        -- LEVEL_REPLY bit 0: extended margin reports
  since : Nat := 0           -- instant AUTH_HOLD or LOST began
  rangedAt : Nat := 0        -- frame from which the context is ranged
  lob : Nat := 0
  trkSum : Int := 0
  trkN : Nat := 0
  scored : Bool := false     -- a scored burst in this superframe (R197)
  dsFor : Nat := 0           -- superframes since the downstream margin was set (R205)
  flap : List Nat := []      -- changes in the six buckets, newest first (R201)
  rungs : List (Nat × Nat) := []  -- rungs held in the window, with the bucket number they were held in
  pinAt : Nat := 0
  posted : List (Nat × Nat) := []  -- advice kinds with the frame they were last posted in
  undo : Option MsUndo := none
  deriving DecidableEq, Repr

/-- A partial packet of an XGEM port (R139); one over the limit keeps no bytes. -/
structure Part where
  bytes : List Byte
  excess : Bool
  onu : Nat
  sfc : Nat
  deriving DecidableEq, Repr

/-- A circuit-frame (R394): its bytes and the L flag of its control word. -/
structure CFrame where
  bytes : List Byte
  l : Bool
  deriving DecidableEq, Repr

/-- A circuit behind its entry (R395 to R402): both slip buffers, oldest first, the last circuit-frame read from each, the
last sequence accepted from the network and the next one sent to it, the unsearched bits of the upstream stream, whether the
next circuit-frame carries the alignment signal, consecutive alignment words in error, loss of frame, and with TSRC = 1 the instant of
the next upstream read tick on TB, in parts of a nanosecond (R398). -/
structure Ckt where
  ds : List CFrame := []
  us : List CFrame := []
  dsLast : Option CFrame := none
  usLast : Option CFrame := none
  dsSeq : Option Nat := none
  usSeq : Nat := 0
  acc : List Bool := []
  fas : Bool := false
  bad : Nat := 0
  lof : Bool := false
  grid : Int := 0
  deriving DecidableEq, Repr

/-- The circuit engine: circuits by number, when CE_SLIP was last raised, and packets from the uplink. -/
structure Ce where
  ckts : SMap Ckt := []
  slipAt : Option Nat := none
  inq : List (Nat × List Byte) := []
  deriving DecidableEq, Repr

/-- The plant monitor's port (R437 to R447): since when the shutdown state stands, the instant pulses count from, the
energies of the account (instant, µJ), the module's soft transmit-disable, transactions without acknowledge, whether the
module gives readings, the hold of TXDIS for a module fault, and the running trace: its first frame, frames since its last
silence, powers of the last accepted windows, and whether all windows are in. -/
structure Als where
  since : Nat := 0
  pulseBase : Nat := 0
  account : List (Nat × Nat) := []
  softDis : Bool := false
  noAck : Nat := 0
  reads : Bool := false
  hold : Bool := false
  trcStart : Nat := 0
  trcFrames : Nat := 0
  trcPowers : List Nat := []
  trcFull : Bool := false
  deriving DecidableEq, Repr

/-- A port engine behind its pages. Instants `tg` and `ofs` are in parts of a nanosecond; `sfcHi` is what PE_SFC_HI returns, copied
at the latest read of PE_SFC_LO (R120); `corr` is what the ramp adds to the frame on the lane, in ns (R111); `numbers` counts the PLOAM
messages sent to each ONU-ID (R102); `quiet` holds the quiet windows whose reset pulse is still to come, with the start of their frame
(R150); `plant` counts the plant silences of maps sent that are still to be sampled (R438). `pos` counts the payload bytes of the frame
that the framer has passed, `prog` those still to come of the XGEM frame in progress, `ceLen` those of the frame's circuit-frames (R96, R262). -/
structure Pe where
  sfcHi : Nat := 0
  waiting : Bool := false
  running : Bool := false
  needEdge : Bool := false
  edge : Option Int := none
  tg : Int := 0
  ofs : Int := 0
  sfc : Nat := 0
  selDone : Bool := false
  e : Int := 0
  corr : Int := 0
  numbers : SMap Nat := []
  realign : Option Nat := none
  shorten : Int := 0
  short : Bool := false
  notice : Option Nat := none
  noticeFrom : Nat := 0
  close : Option Nat := none
  closeCopies : Nat := 0
  closeTarget : Nat := 0
  restart : Bool := false
  holdFrom : Option Nat := none
  onCount : Nat := 0
  seq : List SeqMsg := []
  sel : List PMsg := []
  hdr : Option (GMap × List PMsg) := none
  enc : List EncItem := []
  ce : List (Nat × List Byte) := []
  prog : Nat := 0
  pos : Nat := 0
  ceLen : Nat := 0
  cont : Option (EncItem × Nat) := none
  wins : List Win := []
  rx : List RxBurst := []
  emptyFrame : Bool := true
  tailSil : Bool := false
  losFound : Bool := false
  lastWin : Option (Win × Bool) := none
  parts : SMap (Option Part) := []
  ords : SMap (Nat × Nat) := []
  losses : SMap Nat := []
  rssiWait : Option (Nat × Option Bool) := none
  rssiNext : Nat := 0
  rssiFrames : Nat := 0
  rssiDone : Bool := false
  snWin : Option SnWin := none
  quiet : List (QGrant × Int) := []
  plant : Nat := 0
  wrong : List (Nat × Nat) := []
  ctxs : SMap Ctx := []
  bucket : Nat := 0
  deriving DecidableEq, Repr

/-- Protection behind its page: whether a listen period runs and light was heard in it, the instant of the latest burst
with disposition 0 or 4 on a protected port, the latest frame with disposition 0 and the run of such frames by port (frame
plus 1), the latest superframe with one (plus 1), whether MEASURE runs and its sums (R415, R417, R433, R434).
The ligature: aligned lanes with their logical numbers plus 1, HB_CNT sent and the last one received, the instants of the
latest new HB_CNT and of the latest good path-B word, the state a ligature header and the version the peer carry, the requests heard
with their runs (R407 to R413). The decision: peer declared failed, the take-over armed for the next frame boundary with its
earliest instant, the counter and start of the latest word from an active peer, the instant until which PTX keeps drone, a
take-over by wake in progress, the instant PROVISIONAL was entered (R414 to R425). The switch: own request, pending K, when the
last planned switch was made, and since when WTR counts (R430 to R434). Parts of a MAP not yet complete, those whole whose
frame is yet to come, and by port the run of aligned frames (R409, R429). The next FCNT and the frames that wait for an earlier one
(R408), and the frame of the latest planned switch (R431). The bellows: both slots as this device wrote them, the image being written, the values the newest commit
and its deltas hold, whether the restore ended and raised CKPT_SLOT_FAIL, and the recorded time offsets (R420 to R425). Events that arose in
Rest (R406). -/
structure Px where
  listening : Bool := false
  light : Bool := false
  heard : Option Nat := none
  ok : SMap (Nat × Nat) := []
  okSuper : SMap Nat := []
  measuring : Bool := false
  meas : SMap (Nat × Int) := []
  lanes : SMap Nat := []
  hbSent : Nat := 0
  hbRx : Option Nat := none
  aAt : Option Nat := none
  bAt : Option Nat := none
  ligState : Nat := 15
  peerVer : Nat := 0
  candA : Nat × Nat := (0, 0)
  candB : Nat × Nat := (0, 0)
  failed : Bool := false
  armed : Option Nat := none
  peerSfc : Option (Nat × Nat) := none
  droneUntil : Nat := 0
  takeover : Bool := false
  provAt : Nat := 0
  req : Nat := 0
  k : Option Nat := none
  switchAt : Option Nat := none
  wtrAt : Option Nat := none
  parts : SMap (Nat × Nat × List MapBurst) := []
  maps : SMap (List GMap) := []
  aligned : SMap Nat := []
  fcnt : Option Nat := none
  ahead : List (Nat × LigFrame) := []
  lastK : Option Nat := none
  slots : SMap (Option CkSlot) := []
  image : Option (Nat × Nat × CkData) := none
  base : CkData := {}
  restored : Bool := false
  slotFail : Bool := false
  times : List (Nat × Int × Nat) := []
  late : List Nat := []
  deriving DecidableEq, Repr

/-- A request in a DRAM port queue (R328, R329): its world, address, length, the data of a write, the packet it belongs
to, the instant of its acceptance, its urgency, whether all its tries failed (R345), its place in the order of acceptance, and whether it
rewrites a corrected codeword (R344). -/
structure DReq where
  sec : Bool
  addr : Nat
  len : Nat
  data : Option (List Byte)
  handle : Option Nat
  since : Nat
  urg : Nat := 0
  failed : Bool := false
  seq : Nat := 0
  rewrite : Bool := false
  deriving DecidableEq, Repr

/-- The DRAM controller behind its pages: the stacks' bytes by data address, poisoned codewords (address / 16), port queues,
oldest first, the debt of each pseudo-channel (R336), the throttled time not yet counted (R338), the frequency change in progress or
deferred with its target and whether it is INIT1 (R340, R343) and when it was requested, the training steps still to run, the
first of them running, the abandoned step, the steps completed at each point (bit 8p + step), whether an engine reset waits for the change to end (R494), and the trained values (8p + step);
codewords read with an uncorrectable error (address / 16), requests accepted so far, requests whose handshake stalls (R331), the open row of each
bank (16 × pseudo-channel + bank, row plus 1), the commands that went ahead of an older request (R332), the pseudo-channels that
drain their writes (R334), and when each refreshes, from and to (R336, R337). -/
structure Dm where
  mem : SMap Byte := []
  bad : List Nat := []
  queues : SMap (List DReq) := []
  debts : SMap Nat := []
  thrAt : Option Nat := none
  thrAcc : Nat := 0
  change : Option (Nat × Bool) := none
  deferAt : Nat := 0
  steps : List Nat := []
  abandoned : Nat := 0
  done : Nat := 0
  erst : Bool := false
  trained : SMap Nat := []
  ue : List Nat := []
  seq : Nat := 0
  waiting : SMap (List DReq) := []
  rows : SMap Nat := []
  hits : SMap Nat := []
  drain : SMap Nat := []
  refr : SMap (Nat × Nat) := []
  deriving DecidableEq, Repr

/-- A retention bank (R463, R464): the sequence of its signature, the register words, table entries and further values
it holds. -/
structure Bank where
  seq : Nat
  regs : SMap Word
  tabs : SMap Entry
  nums : SMap Nat
  deriving DecidableEq, Repr

/-- The always-on island behind the PW page: a wake attempt unwinds, the wake step that runs (0 none, 1 to 3 rails, 5 PLLs,
6 restore, 7 for steps 7 and 8), the attempt of the series, the instant Rest was entered or the latest attempt failed, the junction trip (R520), and the
banks. -/
structure Pw where
  unwinding : Bool := false
  step : Nat := 1
  attempt : Nat := 1
  since : Nat := 0
  trip : Bool := false
  banks : SMap (Option Bank) := []
  deriving DecidableEq, Repr

/-- The security controller: the pair key plus 1 (R480), the IDE key of the memory link plus 1 (R368, R478), the password digest in the fuses (R485), the instants of the latest
CHALLENGE and of the latest password failure, and the health of the random source (R481). -/
structure Sc where
  pair : Nat := 0
  ide : Nat := 0
  digest : Option (BitVec 256) := none
  nonceAt : Option Nat := none
  failAt : Option Nat := none
  rngBad : Bool := false
  deriving DecidableEq, Repr

/-- The state of one CM4850. -/
structure State where
  /-- Register words by BAR0 address; an address not listed holds its reset word. -/
  regs : SMap Word := []
  /-- Words written that take effect with a later one. -/
  staged : SMap (Option Word) := []
  /-- Live counts behind the snapshot counters (R121). -/
  live : SMap Nat := []
  /-- Table entries by page, TID and index. -/
  tabs : SMap Entry := []
  /-- Table entries with a latched uncorrectable error (R37). -/
  bad : List Nat := []
  /-- Buffers outside a packet that hold an uncorrectable codeword (R42, R321). -/
  poison : List Nat := []
  /-- Sticky event bits whose recovery action is due, by page (R60). -/
  sticky : SMap Word := []
  /-- MSI-X vectors by function and number. -/
  vecs : SMap Vec := []
  /-- Chapter 01. -/
  dev : Dev := {}
  /-- Lanes by LN page. -/
  lanes : SMap Lane := []
  /-- Reference inputs without a signal. -/
  refAbsent : Nat := 0
  /-- Time bases. -/
  tbs : SMap TimeBase := []
  /-- The time-base island runs. -/
  tbRun : Bool := false
  /-- PPS inputs. -/
  pps : SMap Pps := []
  /-- PPS outputs: the cycle of the latest rising edge and its WIDTH, 0 for none (R251). -/
  ppsOn : SMap (Nat × Nat) := []
  /-- Instant of the last FSYNC edge. -/
  fsyncLast : Option Nat := none
  /-- Buffer pools. -/
  bp : Bp := {}
  /-- Traffic manager. -/
  tm : Tm := {}
  /-- Gate lists. -/
  gl : SMap Gl := []
  /-- Port engines. -/
  pes : SMap Pe := []
  /-- Ports of the grant slices. -/
  gps : SMap Gp := []
  /-- Key values by slot, plus 1 (R477, R478). -/
  keys : SMap Nat := []
  /-- Packets waiting for the lookup pass. -/
  lookups : List LkIn := []
  /-- Lookup engine. -/
  lk : Lk := {}
  /-- Uplink engine. -/
  ul : Ul := {}
  /-- Host port. -/
  hx : Hx := {}
  /-- Memory port. -/
  mx : Mx := {}
  /-- Bytes of host memory the block has written; an unlisted byte reads 0 (log entry 8). -/
  hostMem : SMap Byte := []
  /-- Bytes of the CXL module; an unlisted byte reads 0 (log entry 8). -/
  cxl : SMap Byte := []
  /-- Circuit engine. -/
  ce : Ce := {}
  /-- Plant monitor by port. -/
  als : SMap Als := []
  /-- DRAM controller. -/
  dm : Dm := {}
  /-- Protection. -/
  px : Px := {}
  /-- Always-on island. -/
  pw : Pw := {}
  /-- Security controller. -/
  sc : Sc := {}
  /-- Cycles of the time-base island since reset (log entry 5). -/
  now : Nat := 0
  /-- Free values drawn so far: the model's own, not the spec's (log entry 2). -/
  free : Nat := 0
  /-- What the block sent, newest first: the model's own (log entry 12). -/
  out : List Output := []
  /-- Commands that wait, first in, first out. -/
  pending : List Instr := []
  deriving DecidableEq, Repr

/-- The state right after power is applied (R491, R493): every register at its reset word, every structure at its defaults, nothing
listed in any memory, no command waiting. -/
def State.reset : State := {}

/-- What a meaning answers. -/
abbrev Res := Host.Outcome State Fault Refusal

end Sys2Proof.Machine
end

