-- ==== Sys2Proof/Machine/Operands.lean ====
section
/-! DEFINITION. Operand forms of a register access: the BAR0 page map of R46, the page header of R49, reset words,
and the one operation that reads and the one that writes a register word or field. -/

namespace Sys2Proof.Machine

/-- The kind of a BAR0 page (R46); `pe`, `gs`, `tm`, `gt`, `lk`, `dm`, `hx`, `mx`, `ev` carry the page index. -/
inductive PKind where
  | dv | ev (p : Nat) | sc | pw | te | tb | px | pm | pmg | ce | ln
  | pe (p : Nat) | ps | gs (p : Nat) | tm (p : Nat) | gt (p : Nat) | lk (p : Nat) | bp
  | dm (p : Nat) | hx (p : Nat) | mx (p : Nat) | ul
  deriving DecidableEq, Repr

/-! Page bases (R46). -/
def pgDV : Nat := 0x0000000
def pgEV (p : Nat) : Nat := 0x0001000 + 0x1000 * p
def pgSC : Nat := 0x0010000
def pgPW : Nat := 0x0020000
def pgTE : Nat := 0x0030000
def pgTB (n : Nat) : Nat := 0x0030000 + 0x1000 * (n + 1)
def pgPX : Nat := 0x0040000
def pgPM : Nat := 0x0050000
def pgPMG (g : Nat) : Nat := 0x0050000 + 0x1000 * (g + 1)
def pgCE : Nat := 0x0060000
def pgLN (i : Nat) : Nat := if i < 116 then 0x0080000 + 0x1000 * i else 0x0068000 + 0x1000 * (i - 116)
def pgPE (n p : Nat) : Nat := 0x0100000 + 0x10000 * n + 0x1000 * p
def pgPS (s : Nat) : Nat := 0x0400000 + 0x1000 * s
def pgGS (s p : Nat) : Nat := 0x0500000 + 0x10000 * s + 0x1000 * p
def pgTM (p : Nat) : Nat := 0x0600000 + 0x1000 * p
def pgGT (p : Nat) : Nat := 0x0780000 + 0x1000 * p
/-- The page of gate list `n` (R273). -/
def pgGL (n : Nat) : Nat := pgGT (n + 2)
def pgLK (p : Nat) : Nat := 0x0800000 + 0x1000 * p
def pgBP : Nat := 0x0A00000
def pgDM (p : Nat) : Nat := 0x0B00000 + 0x1000 * p
def pgHX (p : Nat) : Nat := 0x0C00000 + 0x1000 * p
def pgMX (p : Nat) : Nat := 0x0C80000 + 0x1000 * p
def pgUL : Nat := 0x0D00000

/-- The grant slice port page of port `n` (R190): page `1 + n mod 8` of slice `n / 8`. -/
def pgGP (n : Nat) : Nat := pgGS (n / 8) (1 + n % 8)

/-- The page number of an address: kind and the engine's number, none where BAR0 holds no page (R46). -/
def pageNo (p : Nat) : Option (PKind × Nat) :=
  if p = 0 then some (.dv, 0)
  else if p < 0x10 then some (.ev (p - 1), 0)
  else if p = 0x10 then some (.sc, 0)
  else if p = 0x20 then some (.pw, 0)
  else if p = 0x30 then some (.te, 0)
  else if 0x31 ≤ p ∧ p < 0x39 then some (.tb, p - 0x31)
  else if p = 0x40 then some (.px, 0)
  else if p = 0x50 then some (.pm, 0)
  else if 0x51 ≤ p ∧ p < 0x57 then some (.pmg, p - 0x51)
  else if p = 0x60 then some (.ce, 0)
  else if 0x68 ≤ p ∧ p < 0x80 then some (.ln, p - 0x68 + 116)
  else if 0x80 ≤ p ∧ p < 0xF4 then some (.ln, p - 0x80)
  else if 0x100 ≤ p ∧ p < 0x400 then some (.pe (p % 16), (p - 0x100) / 16)
  else if 0x400 ≤ p ∧ p < 0x406 then some (.ps, p - 0x400)
  else if 0x500 ≤ p ∧ p < 0x560 then some (.gs (p % 16), (p - 0x500) / 16)
  else if 0x600 ≤ p ∧ p < 0x603 then some (.tm (p - 0x600), 0)
  else if 0x780 ≤ p ∧ p < 0x7C2 then some (.gt (p - 0x780), 0)
  else if 0x800 ≤ p ∧ p < 0x802 then some (.lk (p - 0x800), 0)
  else if p = 0xA00 then some (.bp, 0)
  else if 0xB00 ≤ p ∧ p < 0xB04 then some (.dm (p - 0xB00), 0)
  else if 0xC00 ≤ p ∧ p < 0xC03 then some (.hx (p - 0xC00), 0)
  else if 0xC80 ≤ p ∧ p < 0xC82 then some (.mx (p - 0xC80), 0)
  else if p = 0xD00 then some (.ul, 0)
  else none

/-- The page of a BAR0 byte address. -/
def pageOf (a : Nat) : Option (PKind × Nat) := pageNo (a / 4096)

/-- The lane family of LN page `i` (R46): 0 PTX, 1 PRX, 2 ULN, 3 LGL, 4 HXL, 5 MXL. -/
def lnFamily (i : Nat) : Nat :=
  if i < 48 then 0 else if i < 96 then 1 else if i < 112 then 2 else if i < 116 then 3 else if i < 124 then 4 else 5

/-- PAGE_ID.TYPE (R46). -/
def typeCode (k : PKind) (i : Nat) : Nat :=
  match k with
  | .dv => 0x010
  | .ev p => if p = 0 then 0x020 else if p = 1 then 0x021 else if p < 10 then 0x022 else if p = 10 then 0x023
             else if p < 13 then 0x024 else 0x000
  | .sc => 0x030 | .pw => 0x040 | .te => 0x050 | .tb => 0x051 | .px => 0x060 | .pm => 0x070 | .pmg => 0x071
  | .ce => 0x080 | .ln => 0x091 + lnFamily i
  | .pe p => 0x0A0 + p | .ps => 0x0B0 | .gs p => 0x0C0 + p
  | .tm _ => 0x0D0 | .gt _ => 0x0E0 | .lk _ => 0x0F0 | .bp => 0x100 | .dm _ => 0x110 | .hx _ => 0x120
  | .mx _ => 0x130 | .ul => 0x140

/-- PAGE_ID's instance number (R46). -/
def instNo (k : PKind) (i : Nat) : Nat :=
  match k with
  | .ev p => if 2 ≤ p ∧ p < 10 then p - 2 else if p = 12 then 1 else 0
  | .tm p | .gt p | .lk p | .dm p | .hx p | .mx p => p
  | .ln => if i < 48 then i else if i < 96 then i - 48 else if i < 112 then i - 96 else if i < 116 then i - 112
           else if i < 124 then i - 116 else i - 124
  | _ => i

/-- The event bits a page defines, as `(bit, severity, kind)` masks (R65): defined, critical, sticky, level. -/
def evMasks (k : PKind) : Nat × Nat × Nat × Nat :=
  match k with
  | .dv => (0xFFFF, 0, 0, 0x2000)
  | .sc => (0x1F, 0x0C, 0x04, 0x08)
  | .pw => (0x1F, 0x04, 0x04, 0x18)
  | .te => (0x7F, 0, 0, 0x7B)
  | .tb => (0x0F, 0, 0, 0)
  | .px => (0x3FF, 0x04, 0x04, 0xCB)
  | .pm => (0x3, 0, 0, 0x2)
  | .pmg => (0xFFFFFFFF, 0x22222222, 0x22222222, 0x99999999)
  | .ce => (0x7, 0, 0, 0)
  | .ln => (0x7, 0, 0, 0x3)
  | .pe 0 => (0x7FF, 0, 0, 0x400)
  | .ps => (0x3, 0, 0, 0)
  | .gs 0 => (0xFFFF, 0, 0, 0)
  | .tm 0 => (0x3, 0, 0, 0)
  | .gt p => if p < 2 then (0xFFFFFFFF, 0, 0, 0) else (0, 0, 0, 0)
  | .lk 0 => (0xF, 0, 0, 0x2)
  | .bp => (0x3, 0, 0, 0)
  | .dm 0 => (0x1F, 0x04, 0, 0x04)
  | .hx 0 => (0x7, 0, 0, 0x1)
  | .mx 0 => (0x7, 0x02, 0x02, 0x01)
  | .ul => (0x3FFFF, 0, 0, 0xFFFF)
  | _ => (0, 0, 0, 0)

/-- The number of set bits below `n`. -/
def popc (m : Nat) : Nat → Nat
  | 0 => 0
  | n + 1 => popc m n + (if m.testBit n then 1 else 0)

/-- The source number of bit 0 of a page with events (R65). -/
def srcBase (k : PKind) (i : Nat) : Option Nat :=
  match k with
  | .dv => some 0 | .sc => some 32 | .pw => some 48 | .te => some 64 | .tb => some (80 + 8 * i)
  | .px => some 144 | .pm => some 176 | .pmg => some (192 + 32 * i) | .ce => some 384
  | .ln => some (416 + 3 * i) | .pe 0 => some (836 + 16 * i) | .ps => some (1604 + 8 * i)
  | .gs 0 => some (1652 + 16 * i) | .tm 0 => some 1748
  | .gt p => if p < 2 then some (1780 + 32 * p) else none
  | .lk 0 => some 1844 | .bp => some 1876 | .dm 0 => some 1908 | .hx 0 => some 1940 | .mx 0 => some 1972
  | .ul => some 2004
  | _ => none

/-- The section of a page (R19, R62): 0 to 10, or 11 for the always-on island. DV counts as VS. -/
def sectOf (k : PKind) (i : Nat) : Nat :=
  match k with
  | .pe _ => i / 8 | .ps => i | .gs _ => i
  | .ln => if i < 96 then (i % 48) / 8 else if i < 116 then 9 else 8
  | .lk _ => 6 | .tm _ | .bp | .gt _ => 7 | .dm _ | .mx _ | .hx _ => 8 | .ul | .ce => 9
  | .pw => 11
  | _ => 10

/-- Pages whose world is fixed secure, fixed non-secure, or split (R51, R474): none where PAGE_WORLD.SEC can change. -/
inductive Fixed where
  | secure | nonSecure | split
  deriving DecidableEq, Repr

def fixedOf : PKind → Option Fixed
  | .dv | .sc | .pw | .px => some .secure
  | .ev p => if p = 0 ∨ p = 11 then some .secure else if p = 1 ∨ p = 12 then some .nonSecure else some .split
  | .pe 3 => some .secure
  | .hx p => if p = 2 then some .nonSecure else some .secure
  | .mx _ => some .secure
  | _ => none

/-- Pages with a table window (PAGE_CAP.TBL). -/
def hasTbl : PKind → Bool
  | .sc | .te | .ce | .bp | .ul => true
  | .pe p => p = 2 || p = 3 || p = 4 || p = 6 || p = 7 || p = 8
  | .gs p => 1 ≤ p && p ≤ 9
  | .tm _ | .lk _ => true
  | .gt p => 2 ≤ p
  | .dm p => p = 1
  | .hx p => p = 1 || p = 2
  | .mx p => p = 1
  | _ => false

/-- Pages whose PAGE_CTRL acts: the first page of each engine (R50, R49). -/
def isCtrl : PKind → Bool
  | .te | .px | .pm | .ce | .ln | .bp | .ul => true
  | .pe 0 | .gs 0 | .tm 0 | .gt 0 | .lk 0 | .dm 0 | .hx 0 | .mx 0 => true
  | _ => false

/-- PAGE_CAP.PAGES: pages of the engine minus 1. -/
def pagesM1 : PKind → Nat
  | .ev _ => 14 | .te | .tb => 8 | .pm | .pmg => 6 | .pe _ | .gs _ => 15 | .tm _ => 2 | .gt _ => 65 | .lk _ => 1
  | .dm _ => 3 | .hx _ => 2 | .mx _ => 1
  | _ => 0

/-- The register fields of a page beyond header and table window. -/
def specsOf : PKind → List Spec
  | .dv => spec_dv | .ln => spec_ln | .pe 0 => spec_pe0 | .pe 1 => spec_pe1 | .pe 4 => spec_pe4 | .pe 5 => spec_pe5
  | .pe 7 => spec_pe7 | .pe 8 => spec_pe8 | .ps => spec_ps | .gs 0 => spec_gs0
  | .gs p => if 1 ≤ p ∧ p ≤ 8 then spec_gsP else []
  | .tm 0 => spec_tm0 | .tm 2 => spec_tm2 | .te => spec_te | .tb => spec_tb
  | .gt p => if 2 ≤ p then spec_gl else []
  | .lk 0 => spec_lk0 | .bp => spec_bp | .dm 0 => spec_dm0
  | .dm p => if 2 ≤ p then spec_dmT else []
  | .hx 0 => spec_hx0 | .hx 2 => spec_hx2 | .mx 0 => spec_mx0 | .mx 1 => spec_mx1 | .ul => spec_ul | .ce => spec_ce
  | .px => spec_px | .pm => spec_pm | .pmg => spec_pmg | .pw => spec_pw | .sc => spec_sc
  | _ => []

/-- The snapshot counters of a page (R121), with the offset of its SNAP and CLR register. -/
def ctrsOf : PKind → List Ctr × Nat
  | .pe 1 => (ctrs_pe1, 0x040) | .pe 5 => (ctrs_pe5, 0x040) | .pe 7 => (ctrs_pe7, 0x100) | .pe 8 => (ctrs_pe8, 0x0F0)
  | .gs p => if 1 ≤ p ∧ p ≤ 8 then (ctrs_gsP, 0x0E0) else ([], 0)
  | .tm 0 => (ctrs_tm0, 0x0E0)
  | .gt p => if 2 ≤ p then (ctrs_gl, 0x120) else ([], 0)
  | .lk 0 => (ctrs_lk0, 0x140) | .bp => (ctrs_bp, 0x1E0) | .dm 0 => (ctrs_dm0, 0x140) | .mx 0 => (ctrs_mx0, 0x0E0)
  | .px => (ctrs_px, 0x080) | .pmg => (ctrs_pmg, 0x0C0)
  | _ => ([], 0)

/-- Does the field cover the word at page offset `off`? -/
def Spec.covers (f : Spec) (off : Nat) : Bool :=
  if f.n ≤ 1 then off = f.off
  else decide (f.off ≤ off) && decide ((off - f.off) % f.stride = 0) && decide ((off - f.off) / f.stride < f.n)

def Spec.mask (f : Spec) : Nat := (2 ^ (f.hi - f.lo + 1) - 1) * 2 ^ f.lo

/-- The fields of the word at offset `off` of a page. -/
def specsAt (k : PKind) (off : Nat) : List Spec := (specsOf k).filter (fun f => f.covers off)

/-- PAGE_CAP.LOCKABLE: the page's table has RWL fields (R49). DESIGN CHOICE (log entry 122): it reads 1 on HXL and MXL lane pages too,
where by R90 no such field acts. -/
def lockable (k : PKind) : Bool := (specsOf k).any (fun f => f.ty = .rwl)

/-- PAGE_CAP (R49). -/
def capWord (k : PKind) : Nat :=
  pagesM1 k * 2 ^ 24 + popc (evMasks k).1 32 * 2 ^ 8 + (if (fixedOf k).isSome then 8 else 0) +
    (if lockable k then 4 else 0) + (if hasTbl k then 2 else 0) + (if isCtrl k then 1 else 0)

/-- Reset words that the register tables give "per" another rule. -/
def resetSpecial (k : PKind) (i off : Nat) : Option Nat :=
  match k with
  | .ln =>
    let fam := lnFamily i
    if fam ≥ 4 then (if off = 0x04C then some 6 else some 0)
    else if off = 0x040 then
      some ((if fam = 2 then 2 else if fam = 3 then 3 else 0) * 2 ^ 20 + (if fam = 0 then 0 else 1) * 2 ^ 11)
    else if off = 0x044 then
      some (if fam = 1 then 0 else if fam = 0 then 0x804 else if fam = 2 then 0x806 else 0x805)
    else if off = 0x050 then
      some (if fam = 1 then 0 else 0x040 * 2 ^ 16 + (if fam = 2 ∨ fam = 3 then 0x0A else 0))
    else if off = 0x054 then some (if fam = 1 then 2 ^ 25 + 8 * 2 ^ 8 else 0)
    else none
  | .pe 8 =>
    if 0x140 ≤ off ∧ off < 0x180 ∧ off % 4 = 0 then some (Config.marginResetWord ((off - 0x140) / 4)) else none
  | .dm 0 =>
    if 0x0D0 ≤ off ∧ off < 0x100 ∧ off % 4 = 0 then some (Config.dpResetWord ((off - 0x0D0) / 4)) else none
  | .dm p =>
    if p = 3 ∧ off = 0x040 then some 0x0E0E1C03 else if p = 3 ∧ off = 0x048 then some 0x140A1003
    else if p = 3 ∧ off = 0x04C then some 0x0C80 else none
  | .hx 0 =>
    if 0x0D0 ≤ off ∧ off < 0x0F0 ∧ off % 4 = 0 then some (Config.ringSecResetWord ((off - 0x0D0) / 4)) else none
  | .sc =>
    if off = 0x0DC then some Config.devIdLo.toNat else if off = 0x0E0 then some Config.devIdHi.toNat
    else if off = 0x0E8 then some 0x80000000 else none
  | _ => none

/-- The reset word of the register at a BAR0 address: the Reset column of its table, or the header's (R49). -/
def resetWord (a : Nat) : Word :=
  match pageOf a with
  | none => 0
  | some (k, i) =>
    let off := a % 4096
    BitVec.ofNat 32 (
      if off = 0x000 then typeCode k i * 2 ^ 20 + instNo k i * 2 ^ 8 + 1
      else if off = 0x004 then capWord k
      else if off = 0x018 then (evMasks k).2.1
      else if off = 0x020 then (match fixedOf k with | some .nonSecure | some .split => 0 | _ => 1)
      else if off < 0x040 then 0
      else match resetSpecial k i off with
        | some w => w
        | none => (specsAt k off).foldl (fun acc f => acc + f.reset * 2 ^ f.lo) 0)

/-- The bits of a word that act on this page: fields that do not apply to a lane's family read 0 and ignore writes
(R89, R90); bit 5 of SC_RET_WORLD reads 1 and ignores writes (R487). -/
def applyMask (k : PKind) (i off : Nat) : Nat :=
  match k with
  | .ln =>
    let fam := lnFamily i
    if fam ≥ 4 then 0
    else if off = 0x040 then
      0x00F00000 + (if fam = 2 ∨ fam = 3 then 0x20000 else 0) + (if fam = 0 then 0 else 0xC00) + (if fam = 1 then 0 else 0x200)
    else if off = 0x044 ∨ off = 0x048 then (if fam = 1 then 0 else 0xFFFFFFFF)
    else if off = 0x050 then (if fam = 1 then 0 else if fam = 0 then 0xFFFFFF00 else 0xFFFFFFFF)
    else if off = 0x054 then (if fam = 1 then 0xFFFFFFFF else 0)
    else if off = 0x058 then (if fam = 0 then 0 else 0xFFFFFFFF)
    else 0xFFFFFFFF
  | .sc => if off = 0x0D0 then 0xFFFFFFDF else 0xFFFFFFFF
  | _ => 0xFFFFFFFF

/-- A register word: what was written, or its reset word. -/
def State.reg (s : State) (a : Nat) : Word := sget (resetWord a) s.regs a

/-- Write a register word. -/
def State.setReg (s : State) (a : Nat) (w : Word) : State := { s with regs := sset (resetWord a) s.regs a w }

/-- Read a field of a page. -/
def State.get (s : State) (pg : Nat) (f : Fld) : Nat :=
  ((s.reg (pg + f.off)).toNat / 2 ^ f.lo) % 2 ^ (f.hi - f.lo + 1)

/-- A word with the bits `hi:lo` replaced by `v`, the rest kept. -/
def putBits (w : Word) (hi lo v : Nat) : Word :=
  let x := w.toNat
  let m := 2 ^ (hi - lo + 1)
  BitVec.ofNat 32 (x - ((x / 2 ^ lo) % m) * 2 ^ lo + (v % m) * 2 ^ lo)

/-- Write a field of a page, reduced to the field's width. -/
def State.put (s : State) (pg : Nat) (f : Fld) (v : Nat) : State :=
  s.setReg (pg + f.off) (putBits (s.reg (pg + f.off)) f.hi f.lo v)

/-- A one-bit field as a Bool. -/
def State.bit (s : State) (pg : Nat) (f : Fld) : Bool := s.get pg f != 0

def State.putBit (s : State) (pg : Nat) (f : Fld) (b : Bool) : State := s.put pg f (if b then 1 else 0)

/-- The value of `w` low bits as a two's complement number. -/
def toSigned (w v : Nat) : Int := if v % 2 ^ w < 2 ^ (w - 1) then (v % 2 ^ w : Nat) else (v % 2 ^ w : Nat) - (2 ^ w : Nat)

/-- A number as `w` bits of two's complement. -/
def ofSigned (w : Nat) (x : Int) : Nat := (x % (2 ^ w : Nat)).toNat

/-- Read a signed field. -/
def State.getI (s : State) (pg : Nat) (f : Fld) : Int := toSigned (f.hi - f.lo + 1) (s.get pg f)

def State.putI (s : State) (pg : Nat) (f : Fld) (x : Int) : State := s.put pg f (ofSigned (f.hi - f.lo + 1) x)

/-- A 64-bit pair of fields, low word first. -/
def State.get2 (s : State) (pg : Nat) (lo hi : Fld) : Nat := s.get pg lo + s.get pg hi * 2 ^ 32

def State.put2 (s : State) (pg : Nat) (lo hi : Fld) (v : Nat) : State := (s.put pg lo v).put pg hi (v / 2 ^ 32)

/-- Add to a field that wraps. -/
def State.incWrap (s : State) (pg : Nat) (f : Fld) (n : Nat := 1) : State := s.put pg f (s.get pg f + n)

/-- Add to a field that stops at all ones. -/
def State.incSat (s : State) (pg : Nat) (f : Fld) (n : Nat := 1) : State :=
  s.put pg f (min (s.get pg f + n) (2 ^ (f.hi - f.lo + 1) - 1))

/-- Count an event in a snapshot counter (R121); reads go on returning the snapshot. -/
def State.bump (s : State) (pg : Nat) (c : Ctr) (n : Nat := 1) : State :=
  let v := sget 0 s.live (pg + c.off) + n
  { s with live := sset 0 s.live (pg + c.off) (if c.sat then min v (2 ^ c.width - 1) else v % 2 ^ c.width) }

/-- The live count behind a snapshot counter. -/
def State.count (s : State) (pg : Nat) (c : Ctr) : Nat := sget 0 s.live (pg + c.off)

/-- Is the page of kind `k`, number `i`, secure now (PAGE_WORLD.SEC)? -/
def State.pageSecure (s : State) (a : Nat) : Bool := (s.reg (a / 4096 * 4096 + 0x020)).toNat % 2 = 1

/-! PAGE_CTRL and PAGE_STATUS fields of every page (R49). -/
namespace F
def PAGE_EN : Fld := ⟨0x008, 0, 0, 0⟩
def PAGE_QUIESCE : Fld := ⟨0x008, 1, 1, 0⟩
def ST_READY : Fld := ⟨0x00C, 0, 0, 0⟩
def ST_BUSY : Fld := ⟨0x00C, 1, 1, 0⟩
def ST_FAULT : Fld := ⟨0x00C, 2, 2, 0⟩
def ST_NOT_RESTORED : Fld := ⟨0x00C, 3, 3, 0⟩
def ST_QUIESCED : Fld := ⟨0x00C, 4, 4, 0⟩
def ST_LOCKED : Fld := ⟨0x00C, 5, 5, 0⟩
def ST_CFG_REJ : Fld := ⟨0x00C, 8, 8, 0⟩
def ST_LOCK_VIOL : Fld := ⟨0x00C, 9, 9, 0⟩
def WORLD_SEC : Fld := ⟨0x020, 0, 0, 0⟩
def LOCK_LOCK : Fld := ⟨0x024, 0, 0, 0⟩
def GEN_COUNT : Fld := ⟨0x028, 31, 0, 0⟩
def TBL_ADDR_TID : Fld := ⟨0x040, 31, 28, 0⟩
def TBL_ADDR_INDEX : Fld := ⟨0x040, 23, 0, 0⟩
def TBL_CMD_CWORD : Fld := ⟨0x044, 23, 20, 0⟩
def TBL_CMD_BYKEY : Fld := ⟨0x044, 16, 16, 0⟩
def TBL_CMD_OP : Fld := ⟨0x044, 3, 0, 0⟩
def TBL_STAT_OVR : Fld := ⟨0x048, 30, 30, 0⟩
def TBL_STAT_CODE : Fld := ⟨0x048, 27, 24, 0⟩
def TBL_STAT_INDEX : Fld := ⟨0x048, 23, 0, 0⟩
def TBL_STAT_BUSY : Fld := ⟨0x048, 31, 31, 0⟩
def TBL_CMP_CMP : Fld := ⟨0x04C, 31, 0, 0⟩
def TBL_CMPMASK_MASK : Fld := ⟨0x050, 31, 0, 0⟩
/-- TBL_DATA word 0 of 32 (R53). -/
def TBL_DATA_DATA : Fld := ⟨0x080, 31, 0, 4⟩
end F

end Sys2Proof.Machine
end

