-- ==== Sys2Proof/Machine/Flags.lean ====
section
/-! DEFINITION. The flags of the block: pending, raw and sticky event bits (R60, R61), the vectors they assert (R62 to
R64, R361), the MSI-X messages, the sticky status bits of a page, and the commits of R53. -/

namespace Sys2Proof.Machine

/-! ### Table entries -/

/-- The key of an entry in `State.tabs`: page, table, index. -/
def tkey (pg tid idx : Nat) : Nat := (pg / 4096 * 16 + tid) * 2 ^ 24 + idx

/-- A field of a table entry: word, high bit, low bit. -/
structure TF where
  word : Nat
  hi : Nat
  lo : Nat
  deriving DecidableEq, Repr

/-- Read a field of an entry. -/
def eget (e : Entry) (f : TF) : Nat := (e.toNat / 2 ^ (32 * f.word + f.lo)) % 2 ^ (f.hi - f.lo + 1)

/-- Write a field of an entry. -/
def eput (e : Entry) (f : TF) (v : Nat) : Entry :=
  let x := e.toNat
  let sh := 2 ^ (32 * f.word + f.lo)
  let m := 2 ^ (f.hi - f.lo + 1)
  BitVec.ofNat 512 (x - ((x / sh) % m) * sh + (v % m) * sh)

/-- Word `i` of an entry. -/
def ew (e : Entry) (i : Nat) : Nat := eget e ⟨i, 31, 0⟩

def ewPut (e : Entry) (i v : Nat) : Entry := eput e ⟨i, 31, 0⟩ v

/-- Words `i` and `i+1` of an entry as 64 bits. -/
def ew2 (e : Entry) (i : Nat) : Nat := ew e i + ew e (i + 1) * 2 ^ 32

def ew2Put (e : Entry) (i v : Nat) : Entry := ewPut (ewPut e i v) (i + 1) (v / 2 ^ 32)

/-- The first `n` words of an entry. -/
def eLow (e : Entry) (n : Nat) : Entry := BitVec.ofNat 512 (e.toNat % 2 ^ (32 * n))

/-- What an entry holds at cold reset: port and lane-group nodes exist (R230), drop profiles have W 9 and TAIL all ones
(R231), latency entries MIN all ones (R269), margin records MAX_RUNG 7 (R208), next hops ACT 1 (R299), profiles FMODE 4 (R278), quota entries QUOTA 0xFF_FFFF (R325); every other entry is 0. -/
def entReset (key : Nat) : Entry :=
  let page := key / 2 ^ 28
  let tid := key / 2 ^ 24 % 16
  let idx := key % 2 ^ 24
  if page = pgTM 0 / 4096 then
    if tid = 3 ∧ idx < 48 then ewPut (ewPut 0 0 0xC0080000) 5 8
    else if tid = 7 ∧ idx < 16 then ewPut (ewPut 0 0 0xC0080000) 5 20
    else if tid = 8 ∧ idx < 256 then ewPut (ewPut (ewPut (ewPut 0 0 9) 1 0xFFFFFF) 4 0xFFFFFF) 7 0xFFFFFF
    else 0
  else if page = pgTM 2 / 4096 ∧ tid < 2 then ewPut 0 1 0xFFFFFFFF
  else if page = pgBP / 4096 ∧ tid = 0 then 0xFFFFFF
  else if page = pgLK 0 / 4096 ∧ tid = 4 then ewPut 0 1 0x40000000
  else if page = pgLK 0 / 4096 ∧ tid = 6 ∧ idx < 16 then ewPut 0 5 0x80000000
  else if 0x100 ≤ page ∧ page < 0x400 ∧ page % 16 = 8 ∧ tid = 0 ∧ idx < 512 then 0x1C0
  else 0

/-- The entry at an index of a page's table. -/
def State.ent (s : State) (pg tid idx : Nat) : Entry := sget (entReset (tkey pg tid idx)) s.tabs (tkey pg tid idx)

def State.setEnt (s : State) (pg tid idx : Nat) (e : Entry) : State :=
  { s with tabs := sset (entReset (tkey pg tid idx)) s.tabs (tkey pg tid idx) e }

/-- Change one field of an entry. -/
def State.putE (s : State) (pg tid idx : Nat) (f : TF) (v : Nat) : State :=
  s.setEnt pg tid idx (eput (s.ent pg tid idx) f v)

def State.getE (s : State) (pg tid idx : Nat) (f : TF) : Nat := eget (s.ent pg tid idx) f

/-- The listed entries of a table, as (index, entry) in rising index. -/
def State.rows (s : State) (pg tid : Nat) : List (Nat × Entry) :=
  (s.tabs.filter (fun p => p.1 / 2 ^ 24 = pg / 4096 * 16 + tid)).map (fun p => (p.1 % 2 ^ 24, p.2))

/-! ### Rings as event sources (R353) -/

/-- The table index of the ring entries; both HX pages show the one entry a ring has. -/
def ringEnt (s : State) (r : Nat) : Entry := s.ent (pgHX 1) 0 r

namespace RF
def EN : TF := ⟨2, 31, 31⟩
def LOC : TF := ⟨2, 30, 30⟩
def WB : TF := ⟨2, 29, 29⟩
def SIZE : TF := ⟨2, 16, 0⟩
def TB : TF := ⟨3, 30, 28⟩
def VEC : TF := ⟨3, 24, 16⟩
def SLOT : TF := ⟨3, 14, 0⟩
def CIDX : TF := ⟨4, 31, 16⟩
def PIDX : TF := ⟨4, 15, 0⟩
def DROPS : TF := ⟨5, 31, 0⟩
end RF

/-- Is ring `r` secure (R351)? -/
def ringSecure (s : State) (r : Nat) : Bool := (s.reg (pgHX 0 + 0x0D0 + 4 * (r / 32))).toNat.testBit (r % 32)

/-- The function of ring `r`: 0 when secure. -/
def ringFn (s : State) (r : Nat) : Nat := if ringSecure s r then 0 else 1

/-- Rings on which the device produces (R351). -/
def ringToHost (r : Nat) : Bool :=
  (48 ≤ r && r < 96) || (144 ≤ r && r ≤ 240) || r = 242 || r = 243

/-! ### Active sources and asserted vectors -/

/-- HX_LEVEL.CUR: the host interface level in effect. -/
def State.level (s : State) : Nat := s.get (pgHX 0) F.HX_LEVEL_CUR

/-- At level 1 a VEC selects vector VEC mod 32 (R361). -/
def State.vecAt (s : State) (v : Nat) : Nat := if s.level = 1 then v % 32 else v

/-- The BAR0 address of a source's EV_MAP entry (R63). -/
def evMapAddr (src : Nat) : Nat := pgEV (2 + src / 256) + 0x040 + 4 * (src % 256)

/-- The vector a source is mapped to. -/
def State.vecOf (s : State) (src : Nat) : Nat := s.vecAt ((s.reg (evMapAddr src)).toNat % 512)

/-- The bit numbers of a word. -/
def bitsOf (w : Nat) : List Nat := (List.range 32).filter (fun b => w.testBit b)

/-- Every active source (PEND and EN both 1, R62) as (function, source number). -/
def State.activeSrcs (s : State) : List (Nat × Nat) :=
  s.regs.flatMap (fun p =>
    if p.1 % 4096 = 0x014 then
      match pageOf p.1 with
      | none => []
      | some (k, i) =>
        match srcBase k i with
        | none => []
        | some base =>
          (bitsOf (p.2.toNat &&& (s.reg (p.1 + 4)).toNat)).map
            (fun b => ((if s.pageSecure p.1 then 0 else 1), base + b))
    else [])

/-- Every (function, vector) asserted now: by an active source or by a ring with PIDX ≠ CIDX (R64, R353). -/
def State.assertedVecs (s : State) : List (Nat × Nat) :=
  s.activeSrcs.map (fun p => (p.1, s.vecOf p.2)) ++
  ((s.rows (pgHX 1) 0).filter (fun p => ringToHost p.1 && eget p.2 RF.PIDX != eget p.2 RF.CIDX)).map
    (fun p => (ringFn s p.1, s.vecAt (eget p.2 RF.VEC)))

/-- A critical source pends in either world (R60). -/
def State.criticalPending (s : State) : Bool :=
  s.regs.any (fun p => p.1 % 4096 = 0x014 &&
    (match pageOf p.1 with | none => false | some (k, _) => (p.2.toNat &&& (evMasks k).2.1) != 0))

/-- FAULT_N is driven low: a critical source pends, or a wake attempt unwinds (R60, R470). -/
def State.faultAsserted (s : State) : Bool := s.criticalPending || s.pw.unwinding

/-! ### MSI-X messages (R64) -/

/-- Record something the device sends out. -/
def State.emit (s : State) (o : Output) : State := { s with out := o :: s.out }

def State.vec (s : State) (fn v : Nat) : Vec := sget Vec.reset s.vecs (fn * 512 + v)

def State.setVec (s : State) (fn v : Nat) (x : Vec) : State := { s with vecs := sset Vec.reset s.vecs (fn * 512 + v) x }

/-- EV_VEC_CFGv.GAP of a function's vector, in µs. -/
def State.gapOf (s : State) (fn v : Nat) : Nat := (s.reg (pgEV (11 + fn) + 0x040 + 4 * v)).toNat % 1024

/-- A message of a vector falls due: sent, held back by the gap, or left in the PBA by the mask. -/
def State.message (s : State) (p : Nat × Nat) : State :=
  let x := s.vec p.1 p.2
  if x.gapRunning then s.setVec p.1 p.2 { x with held := true }
  else if x.masked then s.setVec p.1 p.2 { x with pba := true }
  else (s.setVec p.1 p.2 { x with gapRunning := s.gapOf p.1 p.2 != 0 }).emit (.msix p.1 p.2)

/-- Remove repeats, keeping the first of each. -/
def dedup : List (Nat × Nat) → List (Nat × Nat)
  | [] => []
  | x :: r => x :: (dedup r).filter (fun y => y != x)

/-- Of the vectors `was` asserted before, those asserted no more: the cause is gone, so a message pending in the PBA under the mask
is due no more (R64, the MSI-X rules of PCIe; log entry 9). -/
def State.vecFalls (was : List (Nat × Nat)) (s : State) : State :=
  let now := s.assertedVecs
  (dedup (was.filter (fun p => !now.contains p))).foldl (fun s p => s.setVec p.1 p.2 { s.vec p.1 p.2 with pba := false }) s

/-- A change from `old` to `s` is complete: pending bits whose cause went away clear, and a message follows for every vector
that became asserted. -/
def State.settle (old s : State) : State :=
  let was := old.assertedVecs
  (dedup (s.assertedVecs.filter (fun p => !was.contains p))).foldl State.message (s.vecFalls was)

/-! ### Raising events (R60, R61) -/

def maskBit (b : Nat) : Word := BitVec.ofNat 32 (2 ^ b)

/-- A source occurs: its PEND bit is set, a sticky source's recovery is due, and its vector's message follows. -/
def State.raise (s : State) (pg bit : Nat) : State :=
  match pageOf pg with
  | none => s
  | some (k, _) =>
    let m := evMasks k
    if m.1.testBit bit then
      let s1 := s.setReg (pg + 0x014) (s.reg (pg + 0x014) ||| maskBit bit)
      let s2 := if m.2.2.1.testBit bit then { s1 with sticky := sset 0 s1.sticky pg (sget 0 s1.sticky pg ||| maskBit bit) }
                else s1
      State.settle s s2
    else s

/-- The recovery action of a sticky source has been taken (R60). -/
def State.recovered (s : State) (pg bit : Nat) : State :=
  { s with sticky := sset 0 s.sticky pg (sget 0 s.sticky pg &&& ~~~ maskBit bit) }

/-- The condition of a level source is `v`: RAW shows it, and a rise sets PEND. -/
def State.levelTo (s : State) (pg bit : Nat) (v : Bool) : State :=
  let raw := s.reg (pg + 0x010)
  if raw.toNat.testBit bit = v then s
  else if v then (s.setReg (pg + 0x010) (raw ||| maskBit bit)).raise pg bit
  else s.setReg (pg + 0x010) (raw &&& ~~~ maskBit bit)

/-- RAW of a level source. -/
def State.raw (s : State) (pg bit : Nat) : Bool := (s.reg (pg + 0x010)).toNat.testBit bit

/-! ### Status bits of a page and commits (R52 to R54) -/

/-- A configuration change commits: PAGE_GEN rises by one. -/
def State.commit (s : State) (pg : Nat) : State := s.incWrap pg F.GEN_COUNT

/-- A configuration change is refused: PAGE_STATUS.CFG_REJ. -/
def State.cfgRej (s : State) (pg : Nat) : State := s.putBit pg F.ST_CFG_REJ true

/-- A write would change an RWL field of a locked page: PAGE_STATUS.LOCK_VIOL. -/
def State.lockViol (s : State) (pg : Nat) : State := s.putBit pg F.ST_LOCK_VIOL true

def State.locked (s : State) (pg : Nat) : Bool := s.bit pg F.LOCK_LOCK

/-- The engine of this page is enabled. -/
def State.en (s : State) (pg : Nat) : Bool := s.bit pg F.PAGE_EN

/-- The engine of this page accepts no new work (R49). -/
def State.quiescing (s : State) (pg : Nat) : Bool := s.bit pg F.PAGE_QUIESCE

end Sys2Proof.Machine
end

