-- ==== Sys2Proof/Machine/Admit.lean ====
section
/-! DEFINITION. Which configuration changes a chapter refuses beyond a field's own range (R54, R522), and which
registers are operational (R237, R258). -/

namespace Sys2Proof.Machine

/-- Operational registers: writes to them are not configuration changes. -/
def isOperational (k : PKind) (off : Nat) : Bool :=
  match k with
  | .tb => decide (0x06C ≤ off ∧ off < 0x074) || decide (0x098 ≤ off)
  | .gt _ => decide (0x0C4 ≤ off ∧ off < 0x0D8)
  | _ => false

/-- Bits `hi:lo` of a word. -/
def fld (w hi lo : Nat) : Nat := (w / 2 ^ lo) % 2 ^ (hi - lo + 1)

/-- LN pages: rate codes of the family and no rate change while enabled (R66, R72, R89), presets 8 to 14 (R69), a STALE of
0 (R89), and patterns the lane cannot run (R80, R81). -/
def lnRefuses (s : State) (i off old cand : Nat) : Bool :=
  let fam := lnFamily i
  if off = 0x040 then
    let r := fld cand 23 20
    let listed := if fam ≤ 1 then decide (r ≤ 1) else if fam = 2 then decide (2 ≤ r ∧ r ≤ 5) else decide (r = 3)
    let q := s.get (pgLN i) F.LN_PRBS_CTRL_TXPAT
    let p := s.get (pgLN i) F.LN_PRBS_CTRL_RXPAT
    !listed || (s.en (pgLN i) && fld old 23 20 != r) || (decide (fam = 2 ∧ r = 5) && decide (7 ≤ q ∨ 7 ≤ p))
  else if off = 0x044 then decide (8 ≤ fld cand 3 0 ∧ fld cand 3 0 ≤ 14)
  else if off = 0x050 then (fam = 2 || fam = 3) && fld cand 7 0 == 0
  else if off = 0x060 then
    let m := fld cand 13 12
    let rx := fld cand 7 4
    let tx := fld cand 3 0
    let pam4 := let r := s.get (pgLN i) F.LN_CFG_RATE; decide (2 ≤ r ∧ r ≤ 4)
    let bad (p : Nat) := decide (8 < p) || (decide (7 ≤ p) && !pam4)
    (m == 2 && fam != 1) || bad rx || bad tx || (fam == 0 && rx != 0) || (fam == 1 && tx != 0)
  else false

/-- The pool settings after a write of a CFG or BASE word: whether they break R323. -/
def poolRefuses (s : State) (off old cand : Nat) : Bool :=
  if 0x0C0 ≤ off ∧ off < 0x1C0 ∧ off % 16 < 8 then
    let p := (off - 0x0C0) / 16
    let isCfg := off % 16 = 0
    let cfg := if isCfg then cand else (s.reg (pgBP + (0x0C0 + 16 * p))).toNat
    let base := if isCfg then s.get pgBP (F.BP_POOL_BASE_BASE.ix p) else fld cand 22 0
    let wasEn := s.bit pgBP (F.BP_POOL_CFG_EN.ix p)
    let clearing := isCfg && decide (fld old 31 31 = 1) && decide (fld cand 31 31 = 0)
    let ty := fld cfg 30 30
    let n := fld cfg 23 0
    let excess (q : Nat) : Bool := -- a pool of no buffers overlaps none (R498 writes BASE before CFG)
      q != p && n != 0 && s.get pgBP (F.BP_POOL_CFG_COUNT.ix q) != 0 && (s.get pgBP (F.BP_POOL_CFG_TYPE.ix q) == ty) &&
        decide (base < s.get pgBP (F.BP_POOL_BASE_BASE.ix q) + s.get pgBP (F.BP_POOL_CFG_COUNT.ix q)) &&
        decide (s.get pgBP (F.BP_POOL_BASE_BASE.ix q) < base + n)
    (wasEn && !clearing) || (clearing && (s.get pgBP (F.BP_POOL_STAT_FREE.ix p) != s.get pgBP (F.BP_POOL_CFG_COUNT.ix p))) ||
      (n != 0 && decide ((if ty = 1 then 8388608 else 65536) < base + n)) || (List.range 16).any excess
  else false

/-- PS_PWR (R455, R456): HUSH of a port whose engine is enabled; GATE unless every port is hushed and the slice is disabled. -/
def psPwrRefuses (s : State) (i old cand : Nat) : Bool :=
  (List.range 8).any (fun k => cand.testBit k && !old.testBit k && s.en (pgPE (8 * i + k) 0)) ||
    (cand.testBit 31 && !old.testBit 31 && (fld cand 7 0 != 255 || s.en (pgGS i 0)))

/-- Port `n` is the legacy side of a combo pair (R118). -/
def State.isLegacy (s : State) (n : Nat) : Bool :=
  n % 2 == 1 && (s.get (pgPS (n / 8)) F.PS_COMBO_PAIR).testBit (n % 8 / 2)

/-- An engine of section `sect` has PAGE_CTRL.EN = 1. -/
def State.sectEn (s : State) (sect : Nat) : Bool :=
  s.regs.any (fun p => p.1 % 4096 == 8 && p.2.toNat.testBit 0 &&
    (match pageOf p.1 with | none => false | some (k, i) => isCtrl k && sectOf k i == sect))

/-- A context of port `n` is in one of the activation states `l`. -/
def State.ctxIn (s : State) (n : Nat) (l : List Nat) : Bool :=
  (s.rows (pgPE n 7) 1).any (fun p => l.contains (eget p.2 ⟨0, 2, 0⟩))

/-- PE page 0: TB and SRC while the engine runs (R117). -/
def pe0Refuses (s : State) (n off old cand : Nat) : Bool :=
  off = 0x044 && s.en (pgPE n 0) && (fld old 2 0 != fld cand 2 0 || fld old 4 4 != fld cand 4 4)

/-- PE page 4: LEAD, W and WIN among themselves and against enabled profiles; TEQD while the engine runs (R144). -/
def pe4Refuses (s : State) (n off cand : Nat) : Bool :=
  if off = 0x0C4 then s.en (pgPE n 0)
  else if off = 0x0C0 ∨ off = 0x0C8 then
    let win := if off = 0x0C0 then fld cand 7 0 else s.get (pgPE n 4) F.PE_US_CFG_WIN
    let lead := if off = 0x0C8 then fld cand 15 8 else s.get (pgPE n 4) F.PE_US_RST_LEAD
    let w := if off = 0x0C8 then fld cand 7 0 else s.get (pgPE n 4) F.PE_US_RST_W
    decide (lead < w + win) || (List.range 8).any (fun p =>
      let e := s.ent (pgPE n 4) 0 p
      eget e ⟨0, 31, 31⟩ == 1 && decide (eget e ⟨1, 7, 0⟩ < lead + win))
  else false

/-- PE page 7: REACH, RSP and RD while a context is in ASSIGNED or RANGING, and their own relations (R161, R162). -/
def pe7Refuses (s : State) (n off cand : Nat) : Bool :=
  (decide (0x0C4 ≤ off ∧ off < 0x0D0) && s.ctxIn n [1, 2]) ||
    (off = 0x0C4 && (decide (fld cand 31 22 < fld cand 21 12) || decide (400 < fld cand 31 22 - fld cand 21 12))) ||
    (off = 0x0C8 && decide (fld cand 15 0 < fld cand 31 16))

/-- The ladder of a candidate word breaks R195. -/
def ladderRefuses (s : State) (n cand : Nat) : Bool :=
  let valid (r : Nat) : Bool := cand.testBit (4 * r + 3)
  let prof (r : Nat) : Nat := fld cand (4 * r + 2) (4 * r)
  let ent (r : Nat) : Entry := s.ent (pgPE n 4) 0 (prof r)
  let l := (List.range 8).filter valid
  s.get (pgPE n 8) F.PE_MS_CTRL_MODE != 0 || l.any (fun r => decide (l.length ≤ r)) ||
    l.any (fun r => l.any (fun q => decide (q < r) && prof q == prof r)) || l.any (fun r => eget (ent r) ⟨0, 31, 31⟩ == 0) ||
    l.any (fun r => valid (r + 1) && decide (r < 7) && decide (eget (ent r) ⟨0, 26, 24⟩ < eget (ent (r + 1)) ⟨0, 26, 24⟩))

/-- PE page 8: threshold pairs, the ladder, and the order of the margin table (R194, R195, R208). -/
def pe8Refuses (s : State) (n off cand : Nat) : Bool :=
  if off = 0x0C8 then decide (toSigned 16 (fld cand 31 16) ≤ toSigned 16 (fld cand 15 0))
  else if off = 0x0D8 then decide (toSigned 16 (fld cand 31 16) < toSigned 16 (fld cand 15 0))
  else if off = 0x0D0 then ladderRefuses s n cand
  else if 0x140 ≤ off ∧ off < 0x180 then
    let i := (off - 0x140) / 4
    let th (j : Nat) : Nat := s.get (pgPE n 8) (F.PE_MS_MTBL_TH.ix j)
    (decide (0 < i) && decide (fld cand 27 16 < th (i - 1))) || (decide (i < 15) && decide (th (i + 1) < fld cand 27 16))
  else false

/-- PS_COMBO: PAIRk changes while either engine of the pair is enabled (R118). -/
def comboRefuses (s : State) (i old cand : Nat) : Bool :=
  (List.range 4).any (fun k => old.testBit k != cand.testBit k && (s.en (pgPE (8 * i + 2 * k) 0) || s.en (pgPE (8 * i + 2 * k + 1) 0)))

/-- The IPv6 lengths of a candidate LK_V6LEN word (R295): one twice, one above 128, or one removed that has prefixes. -/
def v6Refuses (s : State) (off cand : Nat) : Bool :=
  let lens (w : Nat) : List Nat := (List.range 4).map (fun j => fld w (8 * j + 7) (8 * j))
  let word (i : Nat) : Nat := (s.reg (pgLK 0 + 0x0F0 + 4 * i)).toNat
  let was := (List.range 16).flatMap (fun i => lens (word i))
  let now := ((List.range 16).flatMap (fun i => lens (if off = 0x0F0 + 4 * i then cand else word i))).filter (fun x => x != 255)
  now.any (fun x => decide (128 < x) || decide (2 ≤ now.count x)) ||
    (s.rows (pgLK 0) 2).any (fun p => eget p.2 ⟨15, 31, 31⟩ == 1 && eget p.2 ⟨4, 31, 31⟩ == 1 &&
      was.contains (eget p.2 ⟨4, 23, 16⟩) && !now.contains (eget p.2 ⟨4, 23, 16⟩))

/-- UL_GRPg (R375). -/
def groupRefuses (s : State) (g old cand : Nat) : Bool :=
  let wd := 2 ^ fld cand 29 28
  let rate (u : Nat) : Nat := s.get (pgLN (96 + u)) F.LN_CFG_RATE
  let r := rate g
  let fec := fld cand 27 26
  let inTable := if r = 5 then (wd == 1 && (fec == 1 || fec == 2)) || (wd == 4 && fec == 1) else fec == 0 && decide (2 ≤ r ∧ r ≤ 4)
  let clash (h : Nat) : Bool :=
    h != g && s.bit pgUL (F.UL_GRP_EN.ix h) &&
      ((decide (g < h) && decide (h < g + wd)) || (decide (h < g) && decide (g < h + 2 ^ s.get pgUL (F.UL_GRP_WIDTH.ix h))))
  !inTable || (fld old 31 31 == 1 && (fld old 29 26 != fld cand 29 26 || fld old 13 0 != fld cand 13 0)) ||
    (fld cand 31 31 == 1 &&
      (g % wd != 0 || (List.range 16).any clash || (List.range wd).any (fun k => rate (g + k) != r)))

/-- The ring section words: a ring that runs keeps its world (R351). -/
def ringSecRefuses (s : State) (i old cand : Nat) : Bool :=
  (List.range 32).any (fun b => old.testBit b != cand.testBit b && eget (ringEnt s (32 * i + b)) RF.EN == 1)

/-- The write would break a rule of the owning chapter. -/
def regRefuses (s : State) (k : PKind) (i _fn off old cand : Nat) : Bool :=
  match k with
  | .dv => off = 0x148 && decide (fld cand 27 16 < fld cand 15 4)
  | .ln => lnRefuses s i off old cand
  | .bp => poolRefuses s off old cand
  | .pe 0 => pe0Refuses s i off old cand
  | .pe 4 => pe4Refuses s i off cand
  | .pe 7 => pe7Refuses s i off cand
  | .pe 8 => pe8Refuses s i off cand
  | .ps => (off = 0x040 && comboRefuses s i old cand) || (off = 0x044 && psPwrRefuses s i old cand)
  | .gs p => -- R186
    let n := 8 * i + p - 1
    off = 0x0C4 && decide (1 ≤ p ∧ p ≤ 8) &&
      decide ((if s.isLegacy n then 38880 else 48600) < s.get (pgGP n) F.GS_PORT_COMMIT_C + fld cand 15 0)
  | .lk 0 => decide (0x0F0 ≤ off ∧ off < 0x130) && v6Refuses s off cand
  | .dm p => -- R334, R339
    if p = 0 then off = 0x0C8 && decide (fld cand 14 8 ≤ fld cand 6 0)
    else decide (2 ≤ p) && p - 2 == s.get (pgDM 0) F.DM_FREQ_STAT_CUR
  | .hx 0 => decide (0x0D0 ≤ off ∧ off < 0x0F0) && ringSecRefuses s ((off - 0x0D0) / 4) old cand
  | .px => -- R415, R436
    (off = 0x044 && decide (fld cand 15 8 ≤ fld cand 7 0)) ||
      ([0x048, 0x04C, 0x06C, 0x070, 0x074].contains off && s.bit pgPX F.PX_CFG_EN)
  | .pm => -- R450
    (off = 0x0D4 || off = 0x0D8) &&
      (List.range 48).any (fun n => s.get (pgPMG (n / 8)) (F.PM_TRC_STAT_STATE.ix (n % 8)) == 1)
  | .pw => off = 0x060 && fld cand 31 31 == 1 && fld cand 23 0 == 0
  | .sc => -- R475
    off = 0x0C8 && (List.range 11).any (fun b => old.testBit b != cand.testBit b && s.sectEn b)
  | .ul => decide (0x0C0 ≤ off ∧ off < 0x100) && groupRefuses s ((off - 0x0C0) / 4) old cand
  | .gt p => -- R258, R261
    (decide (0x0C4 ≤ off ∧ off < 0x0D8) && (s.bit (pgGT p) F.GT_STATUS_PEND || s.bit (pgGT p) F.GT_STATUS_COPY)) ||
      (off = 0x0C0 && fld old 31 31 == 1 && fld cand 31 31 == 1 && fld old 18 16 != fld cand 18 16)
  | _ => false

end Sys2Proof.Machine
end

