-- ==== Sys2Proof/Machine/Ops.lean ====
section
/-! DEFINITION. The operations every meaning shares: what a register access does (R47, R50 to R54, R472, R473, R522),
free values, and the small loops over lists of numbers. -/

namespace Sys2Proof.Machine

/-! ### Free values -/

/-- The next free value of the run, and the state that has used it (log entry 2). -/
def State.draw (s : State) : Nat × State := (Config.freeValue s.free, { s with free := s.free + 1 })

/-! ### Time -/

/-- The parts of a nanosecond in which a time base counts exactly: a cycle of the 1.24416 GHz island is 3125/3888 ns,
RATE is in units of 2^-48 and a slew in parts per million (R235, R240). -/
def tbUnit : Nat := 3888 * 2 ^ 48 * 1000000

/-- What one cycle adds at rate `rate`, without slew (R235). -/
def tbCycle (rate : Int) : Int := 3125 * ((2 ^ 48 * 1000000 : Int) + rate * 1000000)

/-- What a slew of `ppm` adds in one cycle (R240). -/
def slewCycle (ppm : Nat) : Nat := 3125 * ppm * 2 ^ 48

/-- The span of a time base: 2^48 seconds. -/
def tbSpan : Nat := 2 ^ 48 * 1000000000 * tbUnit

/-- Advance a time base by `n` island cycles (R235, R240): the last cycle of a slew is shortened as needed. -/
def TimeBase.advance (b : TimeBase) (ppm n : Nat) : TimeBase :=
  let want : Nat := min (slewCycle ppm * n) b.rem.natAbs
  let part : Int := if b.rem < 0 then -(want : Int) else want
  { b with t := ((b.t : Int) + tbCycle b.rate * n + part).toNat % tbSpan, rem := b.rem - part }

def State.tb (s : State) (n : Nat) : TimeBase := sget {} s.tbs n

def State.setTb (s : State) (n : Nat) (b : TimeBase) : State := { s with tbs := sset {} s.tbs n b }

/-- The instant of a command, in cycles of the time-base island since reset; time never runs back (log entry 5). The
eight time bases count while the island runs. -/
def State.at (s : State) (t : Nat) : State :=
  if t ≤ s.now then s
  else if s.tbRun then
    (List.range 8).foldl
      (fun s' n => s'.setTb n ((s'.tb n).advance (s'.get (pgTB n) F.TE_TB_SLEW_MAX) (t - s.now))) { s with now := t }
  else { s with now := t }

/-- Cycles of the 1.24416 GHz island in one second. -/
def cyclesPerSec : Nat := 1244160000

/-- At least one second has passed since the last raise, if there was one. -/
def State.secSince (s : State) (last : Option Nat) : Bool :=
  match last with
  | none => true
  | some t => decide (t + cyclesPerSec ≤ s.now)

/-! ### Access errors and world violations -/

/-- An access error (R47): ADDR_UNMAPPED, and DV_ACC_ERR latches the first one. -/
def State.accessError (s : State) (fn : Nat) (wr : Bool) (a : Nat) : State :=
  let s1 :=
    if (s.reg (pgDV + 0x260)).toNat.testBit 31 then s
    else s.setReg (pgDV + 0x260)
      (BitVec.ofNat 32 (2 ^ 31 + (fn % 2) * 2 ^ 30 + (if wr then 2 ^ 29 else 0) + a % 2 ^ 28))
  s1.raise pgDV 15

/-- A world violation (R473): SC_WORLD_VIOLATION, and SC_VIOL latches the first one. KIND per R487. -/
def State.violation (s : State) (kind fn : Nat) (wr : Bool) (addr : Nat) : State :=
  let s1 :=
    if s.bit pgSC F.SC_VIOL_HI_VALID then s
    else (s.setReg (pgSC + 0x0C0) (BitVec.ofNat 32 addr)).setReg (pgSC + 0x0C4)
      (BitVec.ofNat 32 (2 ^ 31 + kind * 2 ^ 28 + fn * 2 ^ 27 + (if wr then 2 ^ 26 else 0) + addr / 2 ^ 32 % 256))
  s1.raise pgSC 0

/-- The registers that R51 opens to both worlds: PAGE_ID, PAGE_CAP and PAGE_WORLD. -/
def bothWorlds (off : Nat) : Bool := off == 0x000 || off == 0x004 || off == 0x020

/-- The page is out of reach: its port section is gated (R456), or the device rests (R454, log entry 14). -/
def State.unreachable (s : State) (k : PKind) (i off : Nat) : Bool :=
  if k = .pw then false
  else
    (s.get pgPW F.PW_STATE_STATE == 2) ||
    (decide (sectOf k i < 6) && k != .ps && s.bit (pgPS (sectOf k i)) F.PS_PWR_GATED &&
      !bothWorlds off)

/-- Does an access of function `fn` violate the page's world? Split pages check entry by entry (R51, R472). -/
def State.violates (s : State) (k : PKind) (fn a : Nat) : Bool :=
  decide (fn = 1) && fixedOf k != some .split && !bothWorlds (a % 4096) && s.pageSecure a

/-! ### Writes -/

/-- The bits of the configuration fields of a word that a write by `fn` can change: SW fields only from the secure
world, RWL fields only while the page is unlocked (R13, R52). -/
def cfgMask (fs : List Spec) (fn : Nat) (locked : Bool) : Nat :=
  fs.foldl (fun m f =>
    if f.ty = .rw ∨ (f.ty = .sw ∧ fn = 0) ∨ (f.ty = .rwl ∧ locked = false) then m ||| f.mask else m) 0

def tyMask (fs : List Spec) (t : FTy) : Nat := fs.foldl (fun m f => if f.ty = t then m ||| f.mask else m) 0

/-- Field `f` takes a value R522 admits in word `w`. -/
def fieldOk (f : Spec) (w : Nat) : Bool :=
  let v := (w / 2 ^ f.lo) % 2 ^ (f.hi - f.lo + 1)
  match f.adm with
  | .any => true
  | .range a b => decide (a ≤ v) && decide (v ≤ b)
  | .srange a b => decide (a ≤ toSigned (f.hi - f.lo + 1) v) && decide (toSigned (f.hi - f.lo + 1) v ≤ b)
  | .multiple m a b => decide (v % m = 0) && decide (a ≤ v) && decide (v ≤ b)
  | .v6len => decide (v ≤ 128) || decide (v = 255)

/-- The word a write of `w` leaves in the register's configuration fields, before any refusal. -/
def candidate (m old w : Nat) : Nat :=
  (old &&& (0xFFFFFFFF - m)) ||| (w &&& m)

/-- Store the fields of a word written: the configuration fields together or not at all (R522), write-one bits apart.
The result says whether a configuration change committed. -/
def State.storeFields (s : State) (k : PKind) (i fn a : Nat) (w : Nat) : State × Bool :=
  let off := a % 4096
  let pg := a / 4096 * 4096
  let fs := specsAt k off
  let locked := s.locked pg
  let old := (s.reg a).toNat
  let lockedMask := if locked then tyMask fs .rwl &&& applyMask k i off else 0
  let s0 := if (old ^^^ w) &&& lockedMask != 0 then s.lockViol pg else s
  let m := cfgMask fs fn locked &&& applyMask k i off
  let cand := candidate m old w
  let good := (fs.all (fun f => f.ty != .rw && f.ty != .rwl && f.ty != .sw || fieldOk f cand)) &&
    !regRefuses s k i fn off old cand
  let oper := isOperational k off
  let s1 :=
    if m = 0 then (s0, false)
    else if good then
      let s' := s0.setReg a (BitVec.ofNat 32 cand)
      if oper then (s', true) else (s'.commit pg, true)
    else if oper then (s0, false)
    else (s0.cfgRej pg, false)
  let clr := tyMask fs .w1c &&& w
  let set := tyMask fs .w1s &&& w
  if clr = 0 ∧ set = 0 then s1
  else (s1.1.setReg a (BitVec.ofNat 32 (((s1.1.reg a).toNat &&& (0xFFFFFFFF - clr)) ||| set)), s1.2)

/-- A register write reaches its page: access error, unreachable page, world violation, or the effect `act`,
which is given the page, the state before and the word written. -/
def State.access (s : State) (fn a : Nat) (act : PKind → Nat → State → State) : State :=
  match pageOf a with
  | none => s.accessError fn true a
  | some (k, i) =>
    if a % 4 ≠ 0 then s.accessError fn true a
    else if s.unreachable k i (a % 4096) then s
    else if s.violates k fn a then s.violation 1 fn true a
    else act k i s

/-- A host write of a register with fields: the fields are stored, then `act` runs on the result, knowing whether the
configuration fields committed. Its action runs whether or not they did (R522). -/
def State.hostWrite (s : State) (fn a : Nat) (w : Word) (act : State → Bool → State) : State :=
  s.access fn a (fun k i s1 =>
    let r := s1.storeFields k i fn a w.toNat
    act r.1 r.2)

/-- SNAP and CLR of a page's counters (R121): the snapshot first, then the clear. -/
def State.snapClr (s : State) (pg : Nat) (cs : List Ctr) (snap clr : Bool) : State :=
  let put (s : State) (c : Ctr) (v : Nat) : State :=
    let s1 := s.setReg (pg + c.off) (BitVec.ofNat 32 v)
    if c.width = 64 then s1.setReg (pg + c.off + 4) (BitVec.ofNat 32 (v / 2 ^ 32)) else s1
  let s1 := if snap then cs.foldl (fun s c => put s c (s.count pg c)) s
            else if clr then cs.foldl (fun s c => put s c 0) s else s
  if clr then cs.foldl (fun s c => { s with live := sset 0 s.live (pg + c.off) 0 }) s1 else s1

/-! ### Protection (R405, R428) -/

/-- Port `n` is protected (R403). -/
def State.protected_ (s : State) (n : Nat) : Bool :=
  s.bit pgPX F.PX_CFG_EN && (s.get2 pgPX F.PX_PORTS_LO_PORTS F.PX_PORTS_HI_PORTS).testBit n

/-- The protected ports. -/
def State.pxPorts (s : State) : List Nat := (List.range 48).filter s.protected_

/-- The reference port: the lowest-numbered protected one (R405). -/
def State.refPort (s : State) : Nat := s.pxPorts.headD 0

/-- STATE of protection. -/
def State.pxState (s : State) : Nat := s.get pgPX F.PX_STATE_STATE

/-- The port is received only, for the active peer (R428). -/
def State.pxShadow (s : State) (n : Nat) : Bool := s.protected_ n && s.pxState == 3

/-! ### Loops -/

/-- `f 0`, …, `f (n-1)` in turn. -/
def forN (n : Nat) (f : Nat → State → State) (s : State) : State := (List.range n).foldl (fun s i => f i s) s

/-- Apply `f` when `c` holds. -/
def State.when (s : State) (c : Bool) (f : State → State) : State := if c then f s else s

/-- Signed rounding division: nearest, half away from zero. -/
def roundDiv (x : Int) (d : Nat) : Int :=
  if x < 0 then -((((-x).toNat * 2 + d) / (2 * d) : Nat) : Int) else ((x.toNat * 2 + d) / (2 * d) : Nat)

/-! ### Bytes in memory -/

/-- Write bytes from an address. -/
def memWrite (m : SMap Byte) (a : Nat) (d : List Byte) : SMap Byte :=
  (d.zipIdx).foldl (fun m p => sset 0 m (a + p.2) p.1) m

def memRead (m : SMap Byte) (a n : Nat) : List Byte := (List.range n).map (fun i => sget 0 m (a + i))

/-- The canonical form of a memory: addresses strictly rising, no entry equal to the 0 an unlisted byte reads as (log entry 8). -/
def Memory.wf (m : SMap Byte) : Bool := swf (fun _ => 0) m

end Sys2Proof.Machine
end

