-- ==== Sys2Proof/Machine/Pools.lean ====
section
/-! DEFINITION. Chapter 13: buffer pools, headers and the four ownership operations (R311 to R325). -/

namespace Sys2Proof.Machine

/-- NIL (R311). -/
def nilH : Nat := 0x7FFFFF

/-- The handle of DRAM buffer 0 (R311). -/
def dramBase : Nat := 0x800000

/-- Data bytes of a buffer of a pool (R311). -/
def State.poolData (s : State) (p : Nat) : Nat := if s.bit pgBP (F.BP_POOL_CFG_TYPE.ix p) then 2040 else 248

def State.pool (s : State) (p : Nat) : Pool := sget {} s.bp.pools p

def State.setPool (s : State) (p : Nat) (x : Pool) : State := { s with bp := { s.bp with pools := sset {} s.bp.pools p x } }

/-- The first and the past-the-end handle of a pool. -/
def State.poolRange (s : State) (p : Nat) : Nat × Nat :=
  let b := s.get pgBP (F.BP_POOL_BASE_BASE.ix p) + if s.bit pgBP (F.BP_POOL_CFG_TYPE.ix p) then dramBase else 0
  (b, b + s.get pgBP (F.BP_POOL_CFG_COUNT.ix p))

/-- The enabled pool that covers a handle (R311). -/
def State.poolOf (s : State) (h : Nat) : Option Nat :=
  ((List.range 16).filter (fun p =>
    s.bit pgBP (F.BP_POOL_CFG_EN.ix p) && decide ((s.poolRange p).1 ≤ h) && decide (h < (s.poolRange p).2))).head?

/-! ### Headers (R312) -/

/-- The poison pattern of a free header. -/
def freePattern : Nat := 0xA5A55A5AA5

/-- Bits `hi:lo` of a header. -/
def hbits (v hi lo : Nat) : Nat := (v / 2 ^ lo) % 2 ^ (hi - lo + 1)

/-- The free form with NEXT_FREE `n`. -/
def freeHdr (n : Nat) : Nat := freePattern * 2 ^ 24 + n

def memberHdr (n : Nat) : Nat := 3 * 2 ^ 62 + n

/-- The head form. -/
def headHdr (refcnt finisher charge pool poison nbuf next : Nat) : Nat :=
  2 ^ 62 + refcnt * 2 ^ 54 + finisher * 2 ^ 47 + charge * 2 ^ 40 + pool * 2 ^ 36 + poison * 2 ^ 31 + nbuf * 2 ^ 24 + next

/-- The header a buffer has after its pool was threaded (R323). -/
def State.threaded (s : State) (h : Nat) : Nat :=
  match s.poolOf h with
  | none => freeHdr nilH
  | some p => freeHdr (if h + 1 < (s.poolRange p).2 then h + 1 else nilH)

/-- The header of a buffer. -/
def State.hdr (s : State) (h : Nat) : Nat :=
  let v := sget 0 s.bp.hdrs h
  if v = 0 then s.threaded h else v - 1

def State.setHdr (s : State) (h v : Nat) : State :=
  { s with bp := { s.bp with hdrs := sset 0 s.bp.hdrs h (if v = s.threaded h then 0 else v + 1) } }

/-- Change the bits `hi:lo` of a header. -/
def State.setHbits (s : State) (h hi lo x : Nat) : State :=
  let v := s.hdr h
  s.setHdr h (v - hbits v hi lo * 2 ^ lo + x % 2 ^ (hi - lo + 1) * 2 ^ lo)

def isFreeHdr (v : Nat) : Bool := hbits v 63 62 == 2
def isHeadHdr (v : Nat) : Bool := hbits v 63 62 == 1

/-- The buffers of a chain of `n` from `h`. -/
def chainFrom (s : State) : Nat → Nat → List Nat
  | 0, _ => []
  | n + 1, h => h :: chainFrom s n (hbits (s.hdr h) 23 0)

/-- The buffers of the packet with head `h`. -/
def State.chain (s : State) (h : Nat) : List Nat := chainFrom s (hbits (s.hdr h) 30 24) h

/-- The head of the packet that occupies buffer `h`. -/
def State.headOf (s : State) (h : Nat) : Option Nat :=
  ((s.bp.hdrs.map (fun e => e.1)).filter (fun x => isHeadHdr (s.hdr x) && (s.chain x).contains h)).head?

/-- Codeword `k` of buffer `h` holds an uncorrectable error (R42): its packet becomes poisoned; of a free buffer only the codeword of
the header matters, which reads bad (R321). -/
def poisonBuffer (h k : Nat) (s : State) : State :=
  match s.headOf h with
  | some x => s.setHbits x 31 31 1
  | none => if k ≠ 0 ∨ s.poison.contains h then s else { s with poison := h :: s.poison }

/-! ### Packets in their buffers (R311, R312) -/

def State.pktAt (s : State) (h : Nat) : Pkt := match s.tm.pkts.find? (fun p => p.1 == h) with | some p => p.2 | none => {}

/-- The data address of DRAM buffer `h` (R311). -/
def dramAddr (h : Nat) : Nat := (h - dramBase) * 2048

/-- A packet leaves the DRAM buffers `c`: their bytes from byte 8 on stay what they were (R312). -/
def leaveBytes (x : Nat) (c : List Nat) (s : State) : State :=
  if x < dramBase then s
  else
    let d := (s.pktAt x).bytes
    let put (m : SMap Byte) (e : Nat × Nat) : SMap Byte := memWrite m (dramAddr e.1 + 8) ((d.drop (2040 * e.2)).take 2040)
    { s with dm := { s.dm with mem := c.zipIdx.foldl put s.dm.mem } }

/-- The packet with head `h` is marked poisoned. -/
def State.pktPoisoned (s : State) (h : Nat) : Bool := isHeadHdr (s.hdr h) && hbits (s.hdr h) 31 31 == 1

/-! ### Quotas (R318, R325) -/

def qQUOTA : TF := ⟨0, 23, 0⟩
def qRESERVE : TF := ⟨1, 23, 0⟩
def qINUSE : TF := ⟨2, 23, 0⟩
def qNOBUF : TF := ⟨3, 31, 0⟩
def qPEAK : TF := ⟨4, 23, 0⟩

/-- Σ over s ≠ r of max(0, S_s − U_s). -/
def State.heldBack (s : State) (p r : Nat) : Nat :=
  ((s.rows pgBP 0).filter (fun e => e.1 / 128 = p && e.1 % 128 != r)).foldl
    (fun n e => n + (eget e.2 qRESERVE - eget e.2 qINUSE)) 0

/-- Σ of the RESERVE values of a pool, but for entry `r`. -/
def State.reserved (s : State) (p r : Nat) : Nat :=
  ((s.rows pgBP 0).filter (fun e => e.1 / 128 = p && e.1 % 128 != r)).foldl (fun n e => n + eget e.2 qRESERVE) 0

def State.poolFree (s : State) (p : Nat) : Nat := s.get pgBP (F.BP_POOL_STAT_FREE.ix p)

/-- FREE changes, and MIN follows it down. -/
def setFree (p n : Nat) (s : State) : State :=
  (s.put pgBP (F.BP_POOL_STAT_FREE.ix p) n).put pgBP (F.BP_POOL_MIN_MIN.ix p)
    (min (s.get pgBP (F.BP_POOL_MIN_MIN.ix p)) n)

/-- The manager takes new work: it is enabled and not quiescing (R49, R50). -/
def State.bpUp (s : State) : Bool := s.en pgBP && !s.quiescing pgBP

/-- Why ALLOC(p, k, r) is not admitted: 0 admitted, 1 EMPTY, 2 QUOTA, 3 RESERVE (R315, R318). DESIGN CHOICE (log entry 50): a manager
that takes no new work has no buffer to give, which is cause EMPTY. During a REBUILD only the cache gives buffers (R322). -/
def State.allocCause (s : State) (p k r : Nat) : Nat :=
  let f := s.poolFree p
  let e := s.ent pgBP 0 (p * 128 + r)
  if !s.bpUp || !s.bit pgBP (F.BP_POOL_CFG_EN.ix p) || s.bit pgBP (F.BP_POOL_STAT_INIT.ix p) || decide (f < k) ||
      ((s.bp.rebuild == some p) && decide ((s.pool p).cache.length < k)) then 1
  else if eget e qQUOTA < eget e qINUSE + k then 2
  else if f < k + s.heldBack p r then 3
  else 0

/-- The IDs of R313: 0 to 67, and 127 for the reaper. 68 to 126 are reserved. -/
def requesterOk (r : Nat) : Bool := decide (r ≤ 67) || r == 127

/-! ### Rejections (R316) -/

/-- A rejected operation: counted, latched while VALID is 0, and raised. -/
def bpReject (reason req h : Nat) (s : State) : State :=
  let s1 :=
    if s.bit pgBP F.BP_BAD_LAST_VALID then s
    else (((s.putBit pgBP F.BP_BAD_LAST_VALID true).put pgBP F.BP_BAD_LAST_REASON reason).put pgBP F.BP_BAD_LAST_REQ req).put
      pgBP F.BP_BAD_HANDLE_HANDLE h
  (s1.bump pgBP C.BP_BAD_FREE).raise pgBP 0

/-- The reason an operation on `h` is rejected whatever it is: none for an allocated head. -/
def State.notHead (s : State) (h : Nat) : Option Nat :=
  match s.poolOf h with
  | none => some 6
  | some _ => if isFreeHdr (s.hdr h) then some 3 else if isHeadHdr (s.hdr h) then none else some 5

/-! ### The free list (R320, R321) -/

/-- The buffer may be handed out: it is one of the pool's, its header reads well and holds the poison pattern. -/
def State.buffOk (s : State) (p h : Nat) : Bool :=
  (s.poolOf h == some p) && (s.hdr h / 2 ^ 24 == freePattern) && !s.poison.contains h

/-- The first `n` handles of the list from `h`, as far as the headers can be followed. -/
def listFrom (p : Nat) (s : State) : Nat → Nat → List Nat
  | 0, _ => []
  | n + 1, h =>
    if h = nilH then []
    else h :: (if s.buffOk p h then listFrom p s n (hbits (s.hdr h) 23 0) else [])

/-- What follows a stretch of the list that ended at `h`. -/
def State.listNext (s : State) (p h : Nat) : Nat := if s.buffOk p h then hbits (s.hdr h) 23 0 else nilH

/-- The first `k` handles of the free list, cache first. -/
def State.stackTop (s : State) (p k : Nat) : List Nat :=
  let c := (s.pool p).cache.take k
  c ++ listFrom p s (k - c.length) (s.pool p).top

/-- The NEXT_FREE of cached buffers follow the cache, and the last one's the list beyond it, `top`. A header that is no free form is
left for ALLOC to find. -/
def relinkCache (p top : Nat) : List Nat → State → State
  | [], s => s
  | h :: r, s =>
    relinkCache p top r (if s.buffOk p h then s.setHbits h 23 0 (match r with | [] => top | x :: _ => x) else s)

/-- Withhold a buffer that was written while free (R321): `issuer` asked for it. -/
def quarantine (p issuer h : Nat) (s : State) : State :=
  let c := (s.pool p).cache.filter (fun x => x != h)
  let s1 := relinkCache p nilH c (s.setPool p { cache := c, top := nilH })
  let s2 := (s1.bump pgBP C.BP_QUARANTINE).putBit pgBP (F.BP_POOL_STAT_BROKEN.ix p) true
  bpReject 7 issuer h (setFree p c.length s2)

/-- Check the `k` buffers an ALLOC for charge `r` would hand out; each bad one is withheld and the rest looked at again. -/
def scrubTop (p k r issuer : Nat) : Nat → State → State
  | 0, s => s
  | n + 1, s =>
    if s.allocCause p k r = 0 then
      match (s.stackTop p k).filter (fun h => !s.buffOk p h) with
      | [] => s
      | h :: _ => scrubTop p k r issuer n (quarantine p issuer h s)
    else s

/-- Take the first `k` buffers off the list. -/
def popBufs (p k : Nat) (s : State) : State :=
  let x := s.pool p
  let beyond := k - x.cache.length
  let last := (listFrom p s beyond x.top).getLast?
  s.setPool p { cache := x.cache.drop k, top := match last with | none => x.top | some h => s.listNext p h }

/-- Write the member headers of a chain. -/
def linkMembers : List Nat → State → State
  | [], s => s
  | [h], s => s.setHdr h (memberHdr nilH)
  | h :: h' :: r, s => linkMembers (h' :: r) (s.setHdr h (memberHdr h'))

/-- NOBUF: counted in the quota entry, and reported at most once in a second (R315). -/
def noBuf (p r cause : Nat) (s : State) : State :=
  let e := s.ent pgBP 0 (p * 128 + r)
  let s1 := s.setEnt pgBP 0 (p * 128 + r) (eput e qNOBUF (min (eget e qNOBUF + 1) (2 ^ 32 - 1)))
  if s1.secSince s1.bp.nobufAt then
    let s2 := ((s1.put pgBP F.BP_NOBUF_SRC_CAUSE cause).put pgBP F.BP_NOBUF_SRC_POOL p).put pgBP F.BP_NOBUF_SRC_REQ r
    ({ s2 with bp := { s2.bp with nobufAt := some s2.now } } : State).raise pgBP 1
  else s1

/-- ALLOC(p, k, r) by `issuer` (R314, R315, R318, R321): the handle of the head, or the cause of NOBUF. What names no requester that
can allocate, or no number of buffers a packet can have, is no ALLOC (log entry 51): cause 0 and nothing done. -/
def alloc (p k r issuer : Nat) (s0 : State) : Except Nat Nat × State :=
  if k = 0 ∨ 127 < k ∨ 67 < r ∨ 67 < issuer then (.error 0, s0)
  else
    let s := scrubTop p k r issuer 128 s0
    let cause := s.allocCause p k r
    if cause ≠ 0 then (.error cause, noBuf p r cause s)
    else
      match s.stackTop p k with
      | [] => (.error 1, noBuf p r 1 s)
      | h :: rest =>
        if rest.length + 1 < k then (.error 1, noBuf p r 1 s)
        else
          let s1 := setFree p (s.poolFree p - k) (popBufs p k s)
          let next := match rest with | [] => nilH | x :: _ => x
          let s2 := (linkMembers rest s1).setHdr h (headHdr 1 issuer r p 0 k next)
          let e := s2.ent pgBP 0 (p * 128 + r)
          let u := eget e qINUSE + k
          let s3 := s2.setEnt pgBP 0 (p * 128 + r) (eput (eput e qINUSE u) qPEAK (max (eget e qPEAK) u))
          (.ok h, s3.bump pgBP C.BP_ALLOCS)

/-- Write the free headers of a chain, the last pointing at `top`. -/
def linkFree (top : Nat) : List Nat → State → State
  | [], s => s
  | [h], s => s.setHdr h (freeHdr top)
  | h :: h' :: r, s => linkFree top (h' :: r) (s.setHdr h (freeHdr h'))

/-- The top of a pool's list. -/
def Pool.head (x : Pool) : Nat := match x.cache with | [] => x.top | h :: _ => h

/-- Push a chain with its first buffer on top; what no longer fits the 64-pointer cache stays in the list. -/
def pushBufs (p : Nat) (c : List Nat) (s : State) : State :=
  let x := s.pool p
  let s1 := linkFree x.head c s
  let all := c ++ x.cache
  match all.drop 64 with
  | [] => s1.setPool p { x with cache := all }
  | h :: _ =>
    let s2 := match all.getLast? with | some b => s1.setHdr b (freeHdr x.top) | none => s1
    s2.setPool p { cache := all.take 64, top := h }

/-- All buffers of a packet rejoin their pool, and its charge falls. -/
def freeChain (h : Nat) (s : State) : State :=
  match s.poolOf h with
  | none => s
  | some p =>
    let v := s.hdr h
    let c := s.chain h
    let i := p * 128 + hbits v 46 40
    let s0 := leaveBytes h c s
    let s1 := pushBufs p c { s0 with poison := s0.poison.filter (fun x => !c.contains x) }
    let s2 := setFree p (s1.poolFree p + c.length) s1
    let e := s2.ent pgBP 0 i
    (s2.setEnt pgBP 0 i (eput e qINUSE (eget e qINUSE - c.length))).bump pgBP C.BP_FREES

/-- SHARE(h, n, f) by `req` (R314, R316). A reserved ID `f` names no engine to hand the packet to (log entry 51). -/
def share (h n f req : Nat) (s : State) : State :=
  if !requesterOk f then s else
  match s.notHead h with
  | some r => bpReject r req h s
  | none =>
    let v := s.hdr h
    if hbits v 53 47 ≠ req then bpReject 1 req h s
    else if 1 < hbits v 61 54 then bpReject 2 req h s
    else if n = 0 ∨ 255 < n then bpReject 8 req h s
    else (s.setHbits h 61 54 n).setHbits h 53 47 f

/-- FREE(h) by `req` (R314, R316). -/
def free (h req : Nat) (s : State) : State :=
  match s.notHead h with
  | some r => bpReject r req h s
  | none =>
    let v := s.hdr h
    if hbits v 53 47 ≠ req then bpReject 1 req h s
    else if 1 < hbits v 61 54 then bpReject 2 req h s
    else freeChain h s

/-- RELEASE(h) by `req`: at REFCNT 1 the reaper frees; another FINISHER gets the LAST notice `last` (R314). -/
def release (h req : Nat) (last : Nat → Nat → State → State) (s : State) : State :=
  match s.notHead h with
  | some r => bpReject r req h s
  | none =>
    let v := s.hdr h
    let n := hbits v 61 54
    let fin := hbits v 53 47
    if fin = req ∨ n = 1 then bpReject 4 req h s
    else
      let s1 := s.setHbits h 61 54 (n - 1)
      if n = 2 then (if fin = 127 then freeChain h s1 else last fin h s1) else s1

/-- The manager refills a cache below 32 pointers from the list, to its 64 (R320), unless it re-links that list (R322). -/
def cacheRefill (p : Nat) (s : State) : State :=
  let x := s.pool p
  if s.bp.rebuild ≠ some p ∧ x.cache.length < 32 ∧ x.top ≠ nilH then
    let n := min (64 - x.cache.length) (s.poolFree p - x.cache.length)
    let c := listFrom p s n x.top
    match c.getLast? with
    | none => s
    | some b => s.setPool p { cache := x.cache ++ c, top := s.listNext p b }
  else s

/-! ### Threading, REBUILD and CLR_MIN (R322, R323) -/

/-- Threading starts when EN goes from 0 to 1; an emptied pool has no list. -/
def poolCfgAct (p : Nat) (was : Bool) (s : State) : State :=
  let now := s.bit pgBP (F.BP_POOL_CFG_EN.ix p)
  if now && !was then
    let r := s.poolRange p
    let s1 := { s with bp := { s.bp with pools := sset {} s.bp.pools p {}, hdrs := skeep (fun h => !(decide (r.1 ≤ h) && decide (h < r.2))) s.bp.hdrs },
                         poison := s.poison.filter (fun h => !(decide (r.1 ≤ h) && decide (h < r.2))) }
    (setFree p 0 s1).putBit pgBP (F.BP_POOL_STAT_INIT.ix p) true
  else if was && !now then
    ((setFree p 0 (s.setPool p {})).putBit pgBP (F.BP_POOL_STAT_INIT.ix p) false).putBit pgBP (F.BP_POOL_STAT_BROKEN.ix p) false
  else s

/-- Threading, which runs while the manager is enabled, ends: every buffer is free, in ascending order, and the cache is filled. -/
def poolInitDone (p : Nat) (s : State) : State :=
  if s.en pgBP && s.bit pgBP (F.BP_POOL_STAT_INIT.ix p) then
    let n := s.get pgBP (F.BP_POOL_CFG_COUNT.ix p)
    let b := (s.poolRange p).1
    let s1 := (setFree p n s).putBit pgBP (F.BP_POOL_STAT_INIT.ix p) false
    cacheRefill p (s1.setPool p { cache := [], top := if n = 0 then nilH else b })
  else s

/-- Insert into a rising list without repeats. -/
def insertNat (x : Nat) : List Nat → List Nat
  | [] => [x]
  | y :: r => if x < y then x :: y :: r else if x = y then y :: r else y :: insertNat x r

/-- The first handle from `h` on that is not excluded: NIL past `top`. -/
def nextFound (ex : List Nat) (top : Nat) : Nat → Nat → Nat
  | 0, _ => nilH
  | n + 1, h => if top ≤ h then nilH else if ex.contains h then nextFound ex top n (h + 1) else h

/-- The end of a REBUILD: buffers that hold the poison pattern and are not cached are linked again, ascending. -/
def rebuildPool (p : Nat) (s : State) : State :=
  let r := s.poolRange p
  let c := (s.pool p).cache
  let inR (h : Nat) : Bool := decide (r.1 ≤ h) && decide (h < r.2)
  let listed := (s.bp.hdrs.map (fun e => e.1)).filter inR
  let bad := listed.filter (fun h => !s.buffOk p h) ++ s.poison.filter inR
  let ex := (bad ++ c).foldl (fun l h => insertNat h l) []
  let keep := listed.filter (fun h => !ex.contains h)
  let s1 := keep.foldl (fun s h => s.setHdr h (s.threaded h)) s
  let fix (s : State) (h : Nat) : State :=
    if 1 ≤ h ∧ inR (h - 1) ∧ !ex.contains (h - 1) then
      s.setHdr (h - 1) (freeHdr (nextFound ex r.2 (ex.length + 1) h))
    else s
  let s2 := ex.foldl fix s1
  let top := nextFound ex r.2 (ex.length + 1) r.1
  let s3 := relinkCache p top c (s2.setPool p { cache := c, top := top })
  (setFree p (r.2 - r.1 - ex.length + c.length) s3).putBit pgBP (F.BP_POOL_STAT_BROKEN.ix p) false

/-- A write of BP_CMD (R322); OP 0 does nothing (R522). -/
def bpCommand (w : Nat) (s : State) : State :=
  let op := fld w 31 28
  let p := fld w 3 0
  if op = 0 then s
  else if s.bit pgBP F.BP_CMD_STAT_BUSY ∨ 2 < op then s.putBit pgBP F.BP_CMD_STAT_REJ true
  else if op = 1 then
    ({ s with bp := { s.bp with rebuild := some p } } : State).putBit pgBP F.BP_CMD_STAT_BUSY true
  else s.put pgBP (F.BP_POOL_MIN_MIN.ix p) (s.poolFree p)

def bpRebuildDone (s : State) : State :=
  match s.bp.rebuild with
  | none => s
  | some p => (rebuildPool p { s with bp := { s.bp with rebuild := none } }).putBit pgBP F.BP_CMD_STAT_BUSY false

/-- An engine reset of BP: head caches rejoin their lists; threading and REBUILD start again (R494). -/
def bpErst (s : State) : State :=
  forN 16 (fun p s => let x := s.pool p; s.setPool p { cache := [], top := x.head }) s

/-! ### Meanings -/

def execAlloc (pool : Fin 16) (k : Nat) (charge issuer : Fin 128) (t : Nat) (s : State) : Res :=
  let r := alloc pool.val k charge.val issuer.val (s.at t)
  .next (match r.1 with
    | .ok h => r.2.emit (.allocated pool.val h)
    | .error c => if c = 0 then r.2 else r.2.emit (.noBuf pool.val c))

def execShare (h n : Nat) (f issuer : Fin 128) (s : State) : Res := .next (share h n f.val issuer.val s)

def execFree (h : Nat) (issuer : Fin 128) (s : State) : Res := .next (free h issuer.val s)

def execCacheRefill (pool : Fin 16) (s : State) : Res := .next (cacheRefill pool.val s)

def execBpRebuild (fn : Fn) (pool : Fin 16) (s : State) : Res :=
  let w : Word := BitVec.ofNat 32 (0x10000000 + pool.val)
  .next (s.hostWrite fn.val (pgBP + 0x1C0) w (fun s _ => bpCommand w.toNat s))

def execBpRebuildDone (s : State) : Res := .next (bpRebuildDone s)

def execClrMin (fn : Fn) (pool : Fin 16) (s : State) : Res :=
  let w : Word := BitVec.ofNat 32 (0x20000000 + pool.val)
  .next (s.hostWrite fn.val (pgBP + 0x1C0) w (fun s _ => bpCommand w.toNat s))

def execPoolEnable (fn : Fn) (pool : Fin 16) (w : Word) (s : State) : Res :=
  let was := s.bit pgBP (F.BP_POOL_CFG_EN.ix pool.val)
  .next (s.hostWrite fn.val (pgBP + 0x0C0 + 16 * pool.val) (w ||| maskBit 31) (fun s _ => poolCfgAct pool.val was s))

def execPoolInitDone (pool : Fin 16) (s : State) : Res := .next (poolInitDone pool.val s)

end Sys2Proof.Machine
end

