-- ==== Sys2Proof/Machine/Dev.lean ====
section
/-! DEFINITION. Chapter 01: pitch, adaptive voltage, the di/dt governor and the one code everywhere (R25 to R45, R449). -/

namespace Sys2Proof.Machine

/-- A section is in Run: the device is in Run or Trim (R453) and the section is not gated (R26, R456). -/
def State.sectRuns (s : State) (n : Nat) : Bool :=
  decide (s.get pgPW F.PW_STATE_STATE ≤ 1) && !(decide (n < 6) && s.bit (pgPS n) F.PS_PWR_GATED)

/-! ### The voltage limit -/

/-- The largest pitch of the sections in Run (R26). -/
def State.maxPitch (s : State) : Nat :=
  ((List.range 11).filter s.sectRuns).foldl (fun m n => max m (s.get pgDV (F.DV_PITCH_CUR.ix n))) 0

/-- AVS_AT_LIMIT is a level: v equals VMAX and the pitch is above TARGET (R28, R31). It is judged while the loop is enabled and
has its starting value, and at every change of v, VMAX, TARGET or of a pitch. -/
def avsLimit (s : State) : State :=
  let lim := s.bit pgDV F.DV_AVS_CTRL_EN && !s.dev.avsReading &&
    decide (s.dev.avsV = s.get pgDV F.DV_AVS_CTRL_VMAX) && decide (s.get pgDV F.DV_PITCH_CFG_TARGET < s.maxPitch)
  (s.putBit pgDV F.DV_AVS_STATUS_LIMIT lim).levelTo pgDV 13 lim

/-! ### Pitch -/

/-- No excursion of the section is on record. -/
def slowOver (n : Nat) (s : State) : State :=
  { s with dev := { s.dev with slowRaised := s.dev.slowRaised &&& ~~~ maskBit n } }

/-- A pitch measurement of a section in Run: CUR, WORST and SLOW (R30); a section stretched by the governor is not slow
(R29). -/
def pitchMeasure (n ps : Nat) (stretched : Bool) (s : State) : State :=
  if s.sectRuns n then
    let s1 := (s.put pgDV (F.DV_PITCH_CUR.ix n) ps).put pgDV (F.DV_PITCH_WORST.ix n)
      (max (s.get pgDV (F.DV_PITCH_WORST.ix n)) ps)
    let slow := decide (400 < ps) && !stretched
    let s2 := s1.putBit pgDV (F.DV_PITCH_SLOW.ix n) slow
    avsLimit (if slow then s2 else slowOver n s2)
  else s

/-- The section enters Run again: CUR reads 0 until its first measurement (R30). -/
def pitchStart (n : Nat) (s : State) : State :=
  slowOver n ((s.put pgDV (F.DV_PITCH_CUR.ix n) 0).putBit pgDV (F.DV_PITCH_SLOW.ix n) false)

/-- PITCH_SLOW of a section slow for longer than 1 µs, once in each excursion (R25). -/
def pitchSlow (n : Nat) (s : State) : State :=
  if s.bit pgDV (F.DV_PITCH_SLOW.ix n) && !s.dev.slowRaised.toNat.testBit n then
    let s1 := s.put pgDV F.DV_PITCH_SLOW_SRC_SECT n
    ({ s1 with dev := { s1.dev with slowRaised := s1.dev.slowRaised ||| maskBit n } } : State).raise pgDV 12
  else s

/-- CLR_WORST: WORST becomes 0 in every DV_PITCHn (R31). -/
def clearWorst (s : State) : State := forN 11 (fun n s => s.put pgDV (F.DV_PITCH_WORST.ix n) 0) s

/-! ### Adaptive voltage scaling -/

/-- Send a voltage request to the regulator. -/
def avsSend (s : State) (v : Nat) : State :=
  ({ s with dev := { s.dev with avsFlight := some v } } : State).emit (.avs v)

/-- What a write of DV_AVS_CTRL does beyond its fields: EN from 0 to 1 starts the reading of R26, EN 0 ends BUSERR. -/
def avsCtrlAct (was : Bool) (s : State) : State :=
  let en := s.bit pgDV F.DV_AVS_CTRL_EN
  if en && !was then
    let d := { s.dev with avsReading := true, avsLow := 0, avsUnacked := 0, avsFlight := some 0 }
    avsLimit (({ s with dev := d } : State).emit .avsRead)
  else if !en && was then
    let d := { s.dev with avsReading := false, avsLow := 0, avsUnacked := 0, avsFlight := none }
    avsLimit (({ s with dev := d } : State).putBit pgDV F.DV_AVS_STATUS_BUSERR false)
  else avsLimit s

/-- The voltage and the count of fast intervals after one pass of the loop of R26: raise at once, lower after 8 fast
intervals, within VMIN and VMAX. -/
def avsNext (s : State) : Nat × Nat :=
  if s.get pgDV F.DV_PITCH_CFG_TARGET < s.maxPitch then
    (min (s.dev.avsV + s.get pgDV F.DV_AVS_CFG_STEP) (s.get pgDV F.DV_AVS_CTRL_VMAX), 0)
  else if s.maxPitch + 20 < s.get pgDV F.DV_PITCH_CFG_TARGET then
    if s.dev.avsLow + 1 = 8 then (max (s.dev.avsV - s.get pgDV F.DV_AVS_CFG_STEP) (s.get pgDV F.DV_AVS_CTRL_VMIN), 0)
    else (s.dev.avsV, s.dev.avsLow + 1)
  else (s.dev.avsV, 0)

/-- One pass of the loop: the voltage is sent when it differs from the last one acknowledged. DESIGN CHOICE (log entry 120): a
request still in flight is not joined by a second one; the next interval after its end sends v. -/
def avsStep (s : State) : State :=
  let x := avsNext s
  let s1 : State := { s with dev := { s.dev with avsV := x.1, avsLow := x.2 } }
  if x.1 = s.get pgDV F.DV_AVS_STATUS_VREQ || s.dev.avsFlight.isSome then s1 else avsSend s1 x.1

/-- One interval of the AVS controller (R26, R28): the reading is repeated until it is acknowledged; after a bus fault nothing is
sent, and the limit is still judged. -/
def avsLoop (s : State) : State :=
  if !s.bit pgDV F.DV_AVS_CTRL_EN then s
  else if s.bit pgDV F.DV_AVS_STATUS_BUSERR then avsLimit s
  else if s.dev.avsReading then
    if s.dev.avsFlight.isSome then s else ({ s with dev := { s.dev with avsFlight := some 0 } } : State).emit .avsRead
  else avsLimit (avsStep s)

/-- An AVS transaction ends (R28): acknowledged, or one more unacknowledged; the third raises AVS_BUS_FAULT. DEDUCED (log entry
120): the controller then holds the last acknowledged voltage, so v returns to VREQ. -/
def avsEnd (acked : Bool) (mv : Nat) (s : State) : State :=
  match s.dev.avsFlight with
  | none => s
  | some v =>
    if acked then
      let value := if s.dev.avsReading then mv else v
      let d := { s.dev with avsV := (if s.dev.avsReading then mv else s.dev.avsV), avsReading := false,
                            avsUnacked := 0, avsFlight := none }
      avsLimit (({ s with dev := d } : State).put pgDV F.DV_AVS_STATUS_VREQ value)
    else if s.dev.avsUnacked + 1 = 3 then
      let v := if s.dev.avsReading then s.dev.avsV else s.get pgDV F.DV_AVS_STATUS_VREQ
      let s1 : State := { s with dev := { s.dev with avsV := v, avsUnacked := 3, avsFlight := none } }
      avsLimit ((s1.putBit pgDV F.DV_AVS_STATUS_BUSERR true).raise pgDV 14)
    else { s with dev := { s.dev with avsUnacked := s.dev.avsUnacked + 1, avsFlight := none } }

/-! ### The di/dt governor -/

/-- An episode of the governor ends: its duration, its sections and the count (R29, R450). -/
def didtEpisode (sects dur : Nat) (s : State) : State :=
  ((s.put pgPM F.PM_DIDT_STAT_LAST dur).put pgPM F.PM_DIDT_STAT_SECT sects).incWrap pgPM F.PM_DIDT_CNT_COUNT

/-- DIDT_LIMIT at the end of an episode longer than REPORT µs, at most once per second (R449). -/
def didtLimit (t : Nat) (s0 : State) : State :=
  let s := s0.at t
  if decide (s.get pgPM F.PM_DIDT_CFG_REPORT * 100 < s.get pgPM F.PM_DIDT_STAT_LAST) && s.secSince s.dev.didtAt then
    ({ s with dev := { s.dev with didtAt := some s.now } } : State).raise pgPM 0
  else s

/-! ### Corrected and uncorrectable codewords -/

/-- A corrected codeword of a section is counted (R42, R45). -/
def eccCorrected (n : Nat) (s : State) : State :=
  let s1 := s.incSat pgDV (F.DV_ECC_CE_COUNT.ix n)
  { s1 with dev := { s1.dev with ceSec := sset 0 s1.dev.ceSec n (sget 0 s1.dev.ceSec n + 1) } }

/-- An uncorrectable codeword is counted, latched while VALID is 0, and raised (R45). -/
def eccUncorrectable (n place idx : Nat) (s : State) : State :=
  let s1 := s.incSat pgDV (F.DV_ECC_UE_COUNT.ix n)
  let s2 :=
    if s1.bit pgDV F.DV_ECC_LAST_UE_VALID then s1
    else (((s1.putBit pgDV F.DV_ECC_LAST_UE_VALID true).put pgDV F.DV_ECC_LAST_UE_PLACE place).put pgDV
      F.DV_ECC_LAST_UE_SECT n).put pgDV F.DV_ECC_LAST_UE_IDX_IDX idx
  s2.raise pgDV 11

/-- A keyed table, by the key of its entries: lookups go through its keys, so an invalid entry of it is one they miss. -/
def keyedTab (key : Nat) : Bool :=
  match pageNo (key / 2 ^ 28) with
  | some (.pe p, _) => p = 2 || p = 7 && key / 2 ^ 24 % 16 = 0
  | some (.gs _, _) => true
  | some (.lk _, _) => decide (key / 2 ^ 24 % 16 < 3)
  | _ => false

/-- Mark a table entry invalid: lookups miss it, READ and FIND return POISONED (R42, R57). What an indexed entry held is lost: every
use of it finds an entry of zeros. -/
def State.markBad (s : State) (key : Nat) : State :=
  if s.bad.contains key then s
  else
    let s1 : State := { s with bad := key :: s.bad }
    if keyedTab key then s1 else { s1 with tabs := sset (entReset key) s1.tabs key 0 }

/-- The four-bit symbols of a codeword that hold a wrong bit (R39). -/
def wrongSymbols (e : BitVec 144) : Nat := ((List.range 36).filter (fun i => e.toNat / 16 ^ i % 16 != 0)).length

/-- What the code finds (R39): nothing, a corrected error (one symbol), or an uncorrectable one (two symbols). With more symbols
wrong it is open. -/
def eccVerdict (f : EccFinding) : Option Bool :=
  match wrongSymbols f.err with
  | 0 => none
  | 1 => some false
  | 2 => some true
  | _ => Config.eccWide f.err

/-- A finding is of a table entry rather than a buffer. -/
def eccEntry (f : EccFinding) : Bool := f.place == 0 || f.page != 0

/-- One finding of a read (R42): a corrected codeword is rewritten and counted; an uncorrectable one is handled by its place: a table
entry becomes invalid, with poison written, a packet buffer poisoned. Poison is told from an error (R41). -/
def patrolFinding (s : State) (f : EccFinding) : State :=
  if eccEntry f && s.bad.contains (tkey f.page f.tid f.entry) then s
  else
    match eccVerdict f with
    | none => s
    | some false => eccCorrected f.sect s
    | some true =>
      let s1 := if eccEntry f then s.markBad (tkey f.page f.tid f.entry)
                else if f.place = 1 then poisonBuffer (f.idx.toNat / 16) (f.idx.toNat % 16) s
                else if f.place = 2 then poisonBuffer (dramBase + f.idx.toNat / 128) (f.idx.toNat % 128) s
                else s
      eccUncorrectable f.sect f.place f.idx.toNat s1

/-- One patrol pass over the on-chip SRAM, which SCRUB_H = 0 disables (R44). -/
def sramPatrol (found : List EccFinding) (s : State) : State :=
  if s.get pgDV F.DV_ECC_CFG_SCRUB_H = 0 then s
  else (found.filter (fun f => decide (f.place.val ≤ 1))).foldl patrolFinding s

/-- The end of a second: ECC_CE_RATE for each section whose corrected count rose by more than CE_RATE (R45). DESIGN CHOICE (log
entry 121): the second is a fixed window that this command ends, not one that slides. -/
def eccCeRate (s : State) : State :=
  let s1 := forN 11 (fun n s =>
    if s.get pgDV F.DV_ECC_CFG_CE_RATE < sget 0 s.dev.ceSec n then s.raise pgDV n else s) s
  { s1 with dev := { s1.dev with ceSec := [] } }

/-- CLR_CNT: every DV_ECC_CEn and DV_ECC_UEn becomes 0 (R45). DESIGN CHOICE (log entry 121): the count of the running second
goes on. -/
def clearEccCounts (s : State) : State :=
  forN 11 (fun n s => (s.put pgDV (F.DV_ECC_CE_COUNT.ix n) 0).put pgDV (F.DV_ECC_UE_COUNT.ix n) 0) s

/-! ### Meanings -/

def execPitchMeasure (sect : Fin 11) (ps : BitVec 12) (stretched : Bool) (s : State) : Host.Outcome State Fault Refusal :=
  .next (pitchMeasure sect.val ps.toNat stretched s)

def execPitchSlow (sect : Fin 11) (s : State) : Host.Outcome State Fault Refusal := .next (pitchSlow sect.val s)

def execClrWorst (fn : Fn) (w : Word) (s : State) : Host.Outcome State Fault Refusal :=
  .next (s.hostWrite fn.val (pgDV + 0x140) (w ||| maskBit 31) (fun s _ => avsLimit (clearWorst s)))

def execAvsEnable (fn : Fn) (w : Word) (s : State) : Host.Outcome State Fault Refusal :=
  .next (s.hostWrite fn.val (pgDV + 0x148) (w ||| 1) (fun s' _ => avsCtrlAct (s.bit pgDV F.DV_AVS_CTRL_EN) s'))

def execAvsLoop (s : State) : Host.Outcome State Fault Refusal := .next (avsLoop s)

def execAvsTransactionEnd (acked : Bool) (mv : BitVec 12) (s : State) : Host.Outcome State Fault Refusal :=
  .next (avsEnd acked mv.toNat s)

def execDidtEpisode (sects : BitVec 11) (dur : BitVec 16) (s : State) : Host.Outcome State Fault Refusal :=
  .next (didtEpisode sects.toNat dur.toNat s)

def execDidtLimit (t : Nat) (s : State) : Host.Outcome State Fault Refusal := .next (didtLimit t s)

def execSramPatrol (found : List EccFinding) (s : State) : Host.Outcome State Fault Refusal := .next (sramPatrol found s)

def execEccCeRate (s : State) : Host.Outcome State Fault Refusal := .next (eccCeRate s)

def execClrCnt (fn : Fn) (w : Word) (s : State) : Host.Outcome State Fault Refusal :=
  .next (s.hostWrite fn.val (pgDV + 0x240) (w ||| maskBit 30) (fun s _ => clearEccCounts s))

end Sys2Proof.Machine
end

