-- ==== Sys2Proof/Machine/Lanes.lean ====
section
/-! DEFINITION. Chapter 03: bring-up, breath, pattern checking and wiring detection of the serial lanes (R66 to R90). -/

namespace Sys2Proof.Machine

def State.lane (s : State) (i : Nat) : Lane := sget {} s.lanes i

def State.setLane (s : State) (i : Nat) (l : Lane) : State := { s with lanes := sset {} s.lanes i l }

/-- Change the lane's hidden state. -/
def State.modLane (s : State) (i : Nat) (f : Lane → Lane) : State := s.setLane i (f (s.lane i))

/-- Families with a transmitter: PTX, ULN, LGL; with a blind receiver: PRX, ULN, LGL; both: ULN, LGL (R66). -/
def hasTx (i : Nat) : Bool := decide (lnFamily i = 0 ∨ lnFamily i = 2 ∨ lnFamily i = 3)
def hasRx (i : Nat) : Bool := decide (1 ≤ lnFamily i ∧ lnFamily i ≤ 3)
def isDuplex (i : Nat) : Bool := decide (lnFamily i = 2 ∨ lnFamily i = 3)
def isPcie (i : Nat) : Bool := decide (4 ≤ lnFamily i)

def State.lst (s : State) (i : Nat) (f : Fld) (b : Bool) : State := s.putBit (pgLN i) f b

/-- Lane group `g` exists (R375). -/
def State.groupExists (s : State) (g : Nat) : Bool := s.bit pgUL (F.UL_GRP_EN.ix g)

/-- UL_LINK_DOWN follows EN and the link (R377). -/
def ulLevel (g : Nat) (s : State) : State :=
  s.levelTo pgUL g (s.groupExists g && !s.bit pgUL (F.UL_GRP_UP.ix g))

def ulLink (g : Nat) (up : Bool) (s : State) : State :=
  ulLevel g (s.putBit pgUL (F.UL_GRP_UP.ix g) (up && s.groupExists g))

/-- The enabled lane group that covers ULN lane `u`: its number and width (R375). -/
def State.groupOf (s : State) (u : Nat) : Option (Nat × Nat) :=
  ((List.range 16).filterMap (fun g =>
    let wd := 2 ^ s.get pgUL (F.UL_GRP_WIDTH.ix g)
    if s.bit pgUL (F.UL_GRP_EN.ix g) && decide (g ≤ u) && decide (u < g + wd) then some (g, wd) else none)).head?

/-- LN_STATUS.STATE: 0 DISABLED, 1 ADAPT, 2 LOCKED, 3 IDLE, 4 BURST, 5 TEST. The link of a lane group needs every lane LOCKED (R377). -/
def State.lnState (s : State) (i v : Nat) : State :=
  let s1 := s.put (pgLN i) F.LN_STATUS_STATE v
  match decide (lnFamily i = 2 ∧ v ≠ 2), s1.groupOf (i - 96) with
  | true, some (g, _) => ulLink g false s1
  | _, _ => s1

/-- Port `n` is hushed (R455). -/
def State.hushed (s : State) (n : Nat) : Bool := (s.get (pgPS (n / 8)) F.PS_PWR_HUSH).testBit (n % 8)

/-- The values last settled, or none yet, as a receiver's adaptation leaves them (R77). With FREEZE they stay as they are. -/
def eqSettle (i prof : Nat) (s : State) : State :=
  if s.bit (pgLN i) F.LN_ADAPT_FREEZE then s.modLane i (fun l => { l with eqProf := sset 0 l.eqProf prof l.eq })
  else let d := s.draw; d.2.modLane i (fun l => { l with eq := d.1, eqProf := sset 0 l.eqProf prof d.1 })

/-- A burst begins: the receiver loads the values it last settled for the burst's profile (R77). -/
def eqLoad (i prof : Nat) (s : State) : State := s.modLane i (fun l => { l with eq := sget 0 l.eqProf prof })

/-- LN_LOS of a lane; the PRX lane of a hushed port holds it at 0 (R455). -/
def lnLos (i : Nat) (v : Bool) (s : State) : State :=
  s.levelTo (pgLN i) 0 (v && !(decide (lnFamily i = 1) && s.hushed (i - 48)))

/-- LN_OPEN and LN_STATUS.OPEN (R88). -/
def lnOpen (i : Nat) (v : Bool) (s : State) : State := (s.lst i F.LN_STATUS_OPEN v).levelTo (pgLN i) 1 v

/-- FROZEN shows the FREEZE bit or a receiver in IDLE. -/
def lnFrozen (i : Nat) (s : State) : State :=
  s.lst i F.LN_STATUS_FROZEN (s.bit (pgLN i) F.LN_ADAPT_FREEZE || decide ((s.lane i).rx = .idle))

/-- Clear the receiver's lock bits. -/
def lnUnlock (i : Nat) (s : State) : State :=
  (s.lst i F.LN_STATUS_CDR_LOCK false).lst i F.LN_STATUS_PCS_LOCK false

/-- Send a receiver to step 5 of R70 from the given equaliser values; LN_LOS is 1 without the locks (R79). -/
def toAdapt (i : Nat) (src : EqSrc) (s : State) : State :=
  let s1 := (lnUnlock i s).modLane i (fun l => { l with rx := .adapt, src := src })
  lnLos i true (lnFrozen i (s1.lnState i 1))

/-- The reference of a lane's family is absent or fell back, so its bring-up waits (R469, R503). -/
def State.refHeld (s : State) (i : Nat) : Bool :=
  if lnFamily i ≤ 1 then (s.get pgPW F.PW_WAKE_STATUS_REF_FB).testBit 0
  else if isDuplex i then s.refAbsent.testBit 1 else false

/-! ### The transmitter (R68, R69, R73, R74, R80) -/

/-- PRE2, PRE1 and POST1 of a transmit preset, in 1/128 of full swing (R69). -/
def presetTaps (p : Nat) : Int × Int × Int :=
  ([(0, 0, 0), (0, -4, 0), (0, -8, 0), (0, 0, -8), (0, -4, -8), (0, -8, -12), (-2, -12, -8), (-2, -16, -16)] :
    List (Int × Int × Int)).getD p (0, 0, 0)

/-- The taps a lane sends with: PRE2, PRE1, main cursor, POST1. PRESET 15 takes them from LN_TX_COEF (R69). -/
def State.txTaps (s : State) (i : Nat) : Int × Int × Int × Int :=
  let p := s.get (pgLN i) F.LN_TX_PRESET
  let t := if p = 15 then (s.getI (pgLN i) F.LN_TX_COEF_PRE2, s.getI (pgLN i) F.LN_TX_COEF_PRE1, s.getI (pgLN i) F.LN_TX_COEF_POST1)
           else presetTaps p
  (t.1, t.2.1, 128 - t.1.natAbs - t.2.1.natAbs - t.2.2.natAbs, t.2.2)

/-- A transmitter drives with the amplitude and taps of LN_TX (R68, R72, R89). -/
def txDrive (i : Nat) (s : State) : State :=
  let t := s.txTaps i
  s.emit (.drive i (400 + 50 * s.get (pgLN i) F.LN_TX_AMP) t.1 t.2.1 t.2.2.1 t.2.2.2)

/-- The rate of a lane is a PAM4 rate (R66). -/
def State.pam4 (s : State) (i : Nat) : Bool :=
  isDuplex i && decide (2 ≤ s.get (pgLN i) F.LN_CFG_RATE ∧ s.get (pgLN i) F.LN_CFG_RATE ≤ 4)

/-- The 256 bits of a breath, most significant first: 1,1,0,0 repeated 56 times, then the marker 0x3C5A_96E1 (R74). -/
def breathBits : List Byte := List.replicate 28 0xCC ++ [0x3C, 0x5A, 0x96, 0xE1]

/-- Electrical idle is asked for: by LN_IDLE.REQ, a hushed port, or a laser that stays off in OVERBLOW (R73, R447, R455). -/
def State.txHeld (s : State) (i : Nat) : Bool :=
  s.bit (pgLN i) F.LN_IDLE_REQ ||
    (decide (lnFamily i = 0) && (s.hushed i || s.get (pgPMG (i / 8)) (F.PM_ALS_STAT_STATE.ix (i % 8)) == 4))

/-- The transmitter leaves idle with a breath, fill for POST, then data, on PTX drone until the next frame boundary (R74). -/
def breathOut (i : Nat) (s : State) : State :=
  ((s.lst i F.LN_STATUS_TX_IDLE false).modLane i (fun l =>
    { l with tx := .sending, exitDue := false, drone := decide (lnFamily i = 0) })).emit
      (.breath i (if s.pam4 i then 3 else 1) breathBits (s.get (pgLN i) F.LN_IDLE_POST))

/-- A transmitter in idle leaves it when nothing holds it there. The termination is detected again (R88): beside the breath, or before
it on a lane whose termination is known to be absent (DESIGN CHOICE, log entry 124). -/
def txLeave (i : Nat) (s : State) : State :=
  if decide ((s.lane i).tx = .idle) && !s.txHeld i then
    if s.bit (pgLN i) F.LN_STATUS_OPEN then s.modLane i (fun l => { l with tx := .detect, exitDue := true })
    else breathOut i (s.modLane i (fun l => { l with detectDue := true }))
  else s

/-- The taps k of a pattern code: bit n is the sum of bits n − k (R80). PRESUMED: PRBS13Q and PRBS31Q of IEEE 802.3 are PRBS13 and
PRBS31, Gray-coded (log entry 125). -/
def prbsTaps (code : Nat) : List Nat :=
  ([[], [7, 6], [9, 5], [13, 12, 2, 1], [15, 14], [23, 18], [31, 28], [13, 12, 2, 1], [31, 28]] : List (List Nat)).getD code []

/-- The bit that follows the bits `hist`, newest first. -/
def prbsNext (taps : List Nat) (hist : List Bool) : Bool := taps.foldl (fun a k => a != hist.getD (k - 1) false) false

/-- Bits that differ from the recurrence. -/
def prbsErrors (taps : List Nat) : List Bool → List Bool → Nat
  | _, [] => 0
  | hist, b :: r => (if b = prbsNext taps hist then 0 else 1) + prbsErrors taps (b :: hist) r

/-- A checker seeded from the first bits finds the next 64 free of error (R82). -/
def prbsFits (code : Nat) (bits : List Bool) : Bool :=
  let taps := prbsTaps code
  let d := taps.headD 0
  decide (0 < d ∧ d + 64 ≤ bits.length) && prbsErrors taps (bits.take d).reverse ((bits.drop d).take 64) == 0

/-- The generator of a lane in test mode sends TXPAT (R81). -/
def patternOut (i : Nat) (s : State) : State :=
  if hasTx i && (s.lane i).test && s.get (pgLN i) F.LN_PRBS_CTRL_TXPAT != 0 then
    s.emit (.pattern i (prbsTaps (s.get (pgLN i) F.LN_PRBS_CTRL_TXPAT)))
  else s

/-- A PTX lane carries its port's frames. DESIGN CHOICE (log entry 126): while it does not, the frame engine goes on and what it builds
does not leave. -/
def State.carries (s : State) (n : Nat) : Bool := decide ((s.lane n).tx = .sending) && !(s.lane n).test && !(s.lane n).drone

/-- Send on a PTX lane. -/
def State.emitPtx (s : State) (n : Nat) (o : Output) : State := if s.carries n then s.emit o else s

/-! ### Bring-up (R70) -/

/-- The receive polarity that POL_AUTO = 0 fixes (R86). -/
def State.rxInvFixed (s : State) (i : Nat) : Bool := !s.bit (pgLN i) F.LN_CFG_POL_AUTO && s.bit (pgLN i) F.LN_CFG_RX_INV

/-- A lane's state machines and status bits at their start; SIGDET is the signal's, and the pattern counters stay (R492). -/
def laneClear (i : Nat) (l : Lane) (s : State) : State :=
  let l1 : Lane := { bits := l.bits, berr := l.berr, serr := l.serr, pllWait := l.pllWait, refWait := l.refWait,
                     testPend := l.testPend, inverted := s.rxInvFixed i }
  let s1 := (((lnUnlock i ((s.setLane i l1).lnState i 0)).lst i F.LN_STATUS_PLL_LOCK false).lst i F.LN_STATUS_POL_FIX false).lst i
    F.LN_STATUS_ORDER_FIX false
  let s2 := (((s1.put (pgLN i) F.LN_STATUS_WIRE_LANE 0).putBit (pgLN i) F.ST_READY false).putBit (pgLN i) F.ST_FAULT false).putBit
    (pgLN i) F.LN_PRBS_STAT_SYNC (decide (s.get (pgLN i) F.LN_PRBS_CTRL_MODE = 2))
  lnFrozen i (lnLos i false s2)

/-- Step 1 of R70, from default equaliser values; a lane whose reference is absent waits. A transmitter idles until its
termination is found (R88, log entry 40). Test mode still asked for is entered again. PCIe lanes have no blind bring-up (R90). -/
def laneStart (i : Nat) (s : State) : State :=
  if isPcie i then s
  else
    let held := s.refHeld i
    let mode := s.get (pgLN i) F.LN_PRBS_CTRL_MODE
    (laneClear i { s.lane i with pllWait := !held, refWait := held, testPend := decide (mode = 1) } s).lst i F.LN_STATUS_TX_IDLE (hasTx i)

/-- A lane page's EN written 0, or its section reset: the lane is off. -/
def laneStop (i : Nat) (s : State) : State :=
  if isPcie i then s
  else
    lnOpen i false ((laneClear i { s.lane i with pllWait := false, refWait := false, testPend := false } s).lst i
      F.LN_STATUS_TX_IDLE false)

/-- Step 1 ends: READY; a PRX lane goes to BURST, the others to steps 2 and 4, and to step 5 where signal is there (R70). -/
def pllLock (i : Nat) (s : State) : State :=
  if isPcie i then s.lst i F.LN_STATUS_PLL_LOCK true
  else if (s.lane i).pllWait then
    let s1 := ((s.lst i F.LN_STATUS_PLL_LOCK true).putBit (pgLN i) F.ST_READY true)
    if lnFamily i = 1 then (s1.modLane i (fun l => { l with pllWait := false, rx := .burst })).lnState i 4
    else if lnFamily i = 0 then s1.modLane i (fun l => { l with pllWait := false, tx := .detect })
    else
      let s2 := lnLos i true ((s1.modLane i (fun l => { l with pllWait := false, tx := .detect, rx := .waitSig })).lnState i 1)
      if s.bit (pgLN i) F.LN_STATUS_SIGDET then toAdapt i .defaults s2 else s2
  else s

/-- Step 1 fails: FAULT, and the lane stays in DISABLED (R70). -/
def pllTimeout (i : Nat) (s : State) : State :=
  if (s.lane i).pllWait then
    ((s.modLane i (fun l => { l with pllWait := false, rx := .off, tx := .off })).putBit (pgLN i) F.ST_FAULT true)
  else s

/-- Step 3: the transmitter sends, at the preset; with idle asked for it stays in idle (R70, R73). -/
def txStart (i : Nat) (s : State) : State :=
  if s.txHeld i then (s.lst i F.LN_STATUS_TX_IDLE true).modLane i (fun l => { l with tx := .idle, exitDue := false })
  else if (s.lane i).exitDue then breathOut i s
  else
    txDrive i ((s.lst i F.LN_STATUS_TX_IDLE false).modLane i (fun l => { l with tx := .sending, drone := decide (lnFamily i = 0) }))

/-- Step 2 ends, in bring-up, in a repetition, or as the transmitter leaves idle (R70, R88). On a PCIe lane it is the receiver detect
of link training (R90, log entry 127). -/
def terminationDetect (i : Nat) (found : Bool) (s : State) : State :=
  let l := s.lane i
  if isPcie i then s.levelTo (pgLN i) 1 (!found)
  else if hasTx i && (decide (l.tx = .detect) || l.detectDue) then
    let s1 := s.modLane i (fun l => { l with detectDue := false })
    if !found then lnOpen i true ((s1.lst i F.LN_STATUS_TX_IDLE true).modLane i (fun l => { l with tx := .open, exitDue := l.exitDue || decide (l.tx = .sending) }))
    else if l.tx = .detect then txStart i (lnOpen i false s1)
    else lnOpen i false s1
  else s

/-- Every 100 ms the detection of an open lane is repeated (R70). -/
def terminationRetry (i : Nat) (s : State) : State :=
  if (s.lane i).tx = .open then s.modLane i (fun l => { l with tx := .detect }) else s

/-- Step 4 ends: SIGDET; step 5 from the values the lane holds for it (R70, R71, R76). A receiver whose far end went idle before it
was LOCKED goes on with step 5 too (DESIGN CHOICE, log entry 128). -/
def sigdet (i : Nat) (s : State) : State :=
  let s1 := s.lst i F.LN_STATUS_SIGDET true
  if isPcie i then lnLos i false s1
  else if (s.lane i).rx = .waitSig ∨ ((s.lane i).rx = .idle ∧ isDuplex i = true ∧ (s.lane i).frozen = false) then
    toAdapt i (s.lane i).src s1
  else if hasRx i then s1 else s

/-- CDR lock and settled adaptation: on to PCS lock; a PRX lane in TEST holds lock on the pattern (R70, R81). -/
def adaptSettled (i : Nat) (s : State) : State :=
  let l := s.lane i
  if l.rx = .adapt then
    (s.lst i F.LN_STATUS_CDR_LOCK true).modLane i (fun l => { l with rx := .pcs, last := true })
  else if l.rx = .test ∧ lnFamily i = 1 then lnLos i false (s.lst i F.LN_STATUS_CDR_LOCK true)
  else s

/-- Step 5 misses its limit: RESTARTS, and again from the defaults (R70). -/
def adaptTimeout (i : Nat) (s : State) : State :=
  if (s.lane i).rx = .adapt then toAdapt i .defaults (s.incSat (pgLN i) F.LN_ADAPT_RESTARTS) else s

/-- The lane's own position in its group (R87), on a PCIe lane its place in the link (R90). DESIGN CHOICE (log entry 129): that of a
ULN lane that no enabled lane group covers is its lane number, the spec being silent. -/
def State.ownPosition (s : State) (i : Nat) : Nat :=
  if lnFamily i = 2 then (match s.groupOf (i - 96) with | some (g, _) => i - 96 - g | none => i - 96)
  else if lnFamily i = 3 then i - 112
  else if lnFamily i = 4 then i - 116 else if lnFamily i = 5 then i - 124 else 0

/-- LN_WIRING. -/
def wiring (i : Nat) (s : State) : State := s.raise (pgLN i) 2

/-- PCS lock in either polarity (R70, R86, R87): LOCKED, polarity and order corrections applied. With POL_AUTO = 0 only
the polarity as written locks. On a PCIe lane it is the lock of link training, with the polarity inversion or lane reversal found in
it (R90, log entry 127). -/
def pcsLock (i : Nat) (inverted : Bool) (position : Nat) (s : State) : State :=
  let l := s.lane i
  let auto := s.bit (pgLN i) F.LN_CFG_POL_AUTO
  if isPcie i then
    (lnLos i false (s.lst i F.LN_STATUS_CDR_LOCK true)).when (inverted || decide (position ≠ s.ownPosition i)) (wiring i)
  else if isDuplex i && (decide (l.rx = .pcs) || decide (l.rx = .fast)) && (auto || inverted == s.bit (pgLN i) F.LN_CFG_RX_INV) then
    let s1 := (((s.lst i F.LN_STATUS_PCS_LOCK true).lst i F.LN_STATUS_CDR_LOCK true).lnState i 2).modLane i
      (fun l => { l with rx := .locked, last := true, frozen := false, inverted := inverted })
    let s2 := lnFrozen i (lnLos i false s1)
    let s3 := (s2.lst i F.LN_STATUS_POL_FIX (auto && inverted)).when (auto && inverted) (wiring i)
    let wrong := decide (position ≠ s.ownPosition i)
    let s4 := (s3.put (pgLN i) F.LN_STATUS_WIRE_LANE position).lst i F.LN_STATUS_ORDER_FIX wrong
    if wrong && !l.wired then (wiring i s4).modLane i (fun l => { l with wired := true }) else s4
  else s

/-- PCS lock not reached: back to step 5 (R70). -/
def pcsTimeout (i : Nat) (s : State) : State :=
  if (s.lane i).rx = .pcs then toAdapt i .defaults s else s

/-- A receiver loses CDR or PCS lock for more than 1 µs (R71, R79, R81). -/
def lockLoss (i : Nat) (s : State) : State :=
  let l := s.lane i
  if isPcie i then lnLos i true (s.lst i F.LN_STATUS_CDR_LOCK false)
  else if l.rx = .locked then toAdapt i .last s
  else if l.rx = .test then lnLos i true (s.lst i F.LN_STATUS_CDR_LOCK false)
  else s

/-- LN_ADAPT.RESTART: step 5 with the defaults from any state but DISABLED, BURST and TEST (R71). -/
def adaptRestart (i : Nat) (s : State) : State :=
  let rx := (s.lane i).rx
  if rx = .off ∨ rx = .burst ∨ rx = .test then s
  else toAdapt i .defaults (s.modLane i (fun l => { l with frozen := false }))

/-- LN_ADAPT.CLR_ADAPT. -/
def clearAdapt (i : Nat) (s : State) : State :=
  (s.put (pgLN i) F.LN_ADAPT_RESTARTS 0).put (pgLN i) F.LN_ADAPT_FAST_FAIL 0

/-! ### Electrical idle and breath (R73 to R76) -/

/-- What a write of LN_IDLE does: REQ 1 asks for idle, REQ 0 leaves it (R73, R74). -/
def idleAct (i : Nat) (s : State) : State :=
  if s.bit (pgLN i) F.LN_IDLE_REQ then
    if (s.lane i).tx = .sending then s.modLane i (fun l => { l with idlePend := true }) else s
  else txLeave i s

/-- At the end of the packet or frame in progress the transmitter enters idle; an exit already asked for follows. -/
def idleEntry (i : Nat) (s : State) : State :=
  if (s.lane i).idlePend && decide ((s.lane i).tx = .sending) then
    txLeave i ((s.lst i F.LN_STATUS_TX_IDLE true).modLane i (fun l => { l with tx := .idle, idlePend := false, detectDue := false }))
  else s

/-- A breath with its marker, at a receiver that went idle from LOCKED: the fast path (R75). DESIGN CHOICE (log entry 130): STATE shows
3 IDLE until it locks or fails, with FROZEN as FREEZE gives it, the spec being silent. -/
def breathRx (i : Nat) (s : State) : State :=
  if isDuplex i && decide ((s.lane i).rx = .idle) && (s.lane i).frozen then
    lnFrozen i ((s.lst i F.LN_STATUS_SIGDET true).modLane i (fun l => { l with rx := .fast }))
  else s

/-- The fast path fails: no marker within 512 UI, or no lock in time (R75). -/
def fastPathFail (i : Nat) (s : State) : State :=
  let l := s.lane i
  if isDuplex i && l.frozen && (decide (l.rx = .fast) || decide (l.rx = .idle)) then
    let s1 := (s.lst i F.LN_STATUS_SIGDET true).incSat (pgLN i) F.LN_ADAPT_FAST_FAIL
    toAdapt i .frozen (s1.modLane i (fun l => { l with frozen := false }))
  else s

/-- Receive signal is lost (R76, R79). -/
def signalLoss (i : Nat) (s : State) : State :=
  let l := s.lane i
  let s0 := if isPcie i || hasRx i then s.lst i F.LN_STATUS_SIGDET false else s
  if isPcie i then lnLos i true s0
  else if isDuplex i && !(decide (l.rx = .off) || decide (l.rx = .idle) || decide (l.rx = .waitSig)) then
    let s1 := lnUnlock i s0
    if s.bit (pgLN i) F.LN_CFG_IDLE_OK then
      lnLos i false (lnFrozen i ((s1.modLane i (fun l =>
        { l with rx := .idle, frozen := decide (l.rx = .locked) || (l.frozen && decide (l.rx = .fast)) })).lnState i 3))
    else
      lnFrozen i (lnLos i true ((s1.modLane i (fun l =>
        { l with rx := .waitSig, src := if l.last then .last else .defaults, frozen := false })).lnState i 1))
  else if lnFamily i = 1 ∧ l.rx = .test then lnLos i true (s0.lst i F.LN_STATUS_CDR_LOCK false)
  else s0

/-- Signal absent for longer than STALE: the frozen values go, LN_LOS is raised, the defaults wait (R76). -/
def idleStale (i : Nat) (s : State) : State :=
  if (s.lane i).rx = .idle then
    lnLos i true (lnFrozen i
      ((s.modLane i (fun l => { l with rx := .waitSig, src := .defaults, frozen := false })).lnState i 1))
  else s

/-! ### Pattern generator and checker (R80 to R85) -/

/-- A PRX receiver returns from TEST to BURST; LN_LOS is again the run of frames without a delimiter (R79, R81). -/
def prxToBurst (i : Nat) (s : State) : State :=
  lnLos i (decide (s.get (pgLN i) F.LN_PRX_CFG_LOS_FR ≤ (s.lane i).losRun))
    ((s.modLane i (fun l => { l with rx := .burst, testEnd := false })).lnState i 4)

/-- Leave test mode (R81): a ULN or LGL receiver to step 6, a PTX transmitter to drone, a PRX receiver at the next boundary of its
port's frames, at once where the port sends none. -/
def leaveTest (i : Nat) (s : State) : State :=
  let l := s.lane i
  let s1 := (s.putBit (pgLN i) F.LN_PRBS_STAT_SYNC false).modLane i (fun l => { l with testPend := false, test := false })
  if l.test then
    if lnFamily i = 1 then
      if (sget {} s.pes (i - 48)).running then s1.modLane i (fun l => { l with testEnd := true }) else prxToBurst i s1
    else if isDuplex i then
      lnLos i true (((s1.modLane i (fun l => { l with rx := .pcs })).lst i F.LN_STATUS_PCS_LOCK false).lnState i 1)
    else s1.modLane i (fun l => { l with drone := true })
  else s1

/-- The next frame of port `n` begins: its PTX lane's drone ends, and its PRX lane leaves TEST (R74, R81). -/
def laneFrame (n : Nat) (s : State) : State :=
  let s1 := if (s.lane n).tx = .sending ∧ (s.lane n).test = false then s.modLane n (fun l => { l with drone := false }) else s
  if (s1.lane (48 + n)).testEnd then prxToBurst (48 + n) s1 else s1

/-- What a write of LN_PRBS_CTRL.MODE does (R81, R84): a checker that enters test has yet to synchronise. -/
def prbsModeAct (i : Nat) (s : State) : State :=
  let m := s.get (pgLN i) F.LN_PRBS_CTRL_MODE
  if m = 1 then
    if (s.lane i).test then patternOut i s
    else (s.putBit (pgLN i) F.LN_PRBS_STAT_SYNC false).modLane i (fun l => { l with testPend := !l.testEnd, test := l.testEnd, testEnd := false })
  else if m = 2 then (leaveTest i s).putBit (pgLN i) F.LN_PRBS_STAT_SYNC true
  else leaveTest i s

/-- At the end of the packet or frame in progress the lane enters test (R81). -/
def testEntry (i : Nat) (s : State) : State :=
  let l := s.lane i
  if l.testPend then
    let s1 := s.modLane i (fun l => { l with testPend := false, test := true })
    if lnFamily i = 0 then (if l.tx = .sending then patternOut i s1 else s)
    else if isDuplex i then
      if l.rx = .locked then
        patternOut i ((s1.modLane i (fun l => { l with rx := .test })).lnState i 5)
      else s
    else if lnFamily i = 1 ∧ l.rx = .burst then
      lnLos i true (((s1.modLane i (fun l => { l with rx := .test, src := .defaults })).lnState i 5).lst i
        F.LN_STATUS_CDR_LOCK false)
    else s
  else s

/-- The largest value of a 48-bit pattern counter. -/
def prbsMax : Nat := 2 ^ 48 - 1

/-- Count compared bits, bit errors and symbol errors; when one reaches its limit all three stop (R83). -/
def prbsCount (i bits berr serr : Nat) (s : State) : State :=
  if s.bit (pgLN i) F.LN_PRBS_STAT_SYNC && !s.bit (pgLN i) F.LN_PRBS_STAT_SAT then
    let l := s.lane i
    let s1 := s.modLane i (fun l => { l with bits := min (l.bits + bits) prbsMax, berr := min (l.berr + berr) prbsMax,
                                              serr := min (l.serr + serr) prbsMax })
    if decide (prbsMax ≤ l.bits + bits) || decide (prbsMax ≤ l.berr + berr) || decide (prbsMax ≤ l.serr + serr) then
      s1.putBit (pgLN i) F.LN_PRBS_STAT_SAT true
    else s1
  else s

/-- The checker runs: a receiver in test with a pattern chosen. -/
def State.checking (s : State) (i : Nat) : Bool :=
  (s.lane i).test && hasRx i && (s.get (pgLN i) F.LN_PRBS_CTRL_RXPAT != 0)

/-- The checker seeds itself from the received bits, as they arrive at the ball, Gray-decoded on PAM4, and the next 64 fit RXPAT in
one polarity: SYNC, and that polarity is applied when POL_AUTO = 1 (R82, R86). -/
def prbsSync (i : Nat) (rx : List Bool) (s : State) : State :=
  let code := s.get (pgLN i) F.LN_PRBS_CTRL_RXPAT
  let inverted := prbsFits code (rx.map (fun b => !b))
  if s.checking i && (prbsFits code rx || inverted) then
    let s1 := s.putBit (pgLN i) F.LN_PRBS_STAT_SYNC true
    if s.bit (pgLN i) F.LN_CFG_POL_AUTO then
      ((s1.lst i F.LN_STATUS_POL_FIX inverted).modLane i (fun l => { l with inverted := inverted })).when inverted (wiring i)
    else s1
  else s

/-- A write of LN_CFG: with POL_AUTO = 0 the polarity of RX_INV is applied, and nothing is detected (R86). -/
def lnCfgAct (i : Nat) (s : State) : State :=
  if hasRx i && !s.bit (pgLN i) F.LN_CFG_POL_AUTO then
    (s.lst i F.LN_STATUS_POL_FIX false).modLane i (fun l => { l with inverted := s.rxInvFixed i, compRun := 0 })
  else s

/-- A write of LN_TX or LN_TX_COEF changes what a sending transmitter drives (R72). -/
def lnTxAct (i : Nat) (s : State) : State := s.when (hasTx i && decide ((s.lane i).tx = .sending)) (txDrive i)

/-- 128 errors in 1,024 bits: SYNC drops, LOSS counts, seeding restarts (R82). -/
def prbsSyncLoss (i bits berr serr : Nat) (s : State) : State :=
  if s.checking i && s.bit (pgLN i) F.LN_PRBS_STAT_SYNC then
    ((prbsCount i bits berr serr s).putBit (pgLN i) F.LN_PRBS_STAT_SYNC false).incSat (pgLN i) F.LN_PRBS_STAT_LOSS
  else s

/-- Write a 48-bit snapshot. -/
def put48 (pg : Nat) (lo hi : Fld) (v : Nat) (s : State) : State := s.put2 pg lo hi v

/-- The three counters into their snapshot registers. -/
def prbsSnap (i : Nat) (s : State) : State :=
  let l := s.lane i
  put48 (pgLN i) F.LN_PRBS_SERR_LO_COUNT F.LN_PRBS_SERR_HI_COUNT l.serr
    (put48 (pgLN i) F.LN_PRBS_BERR_LO_COUNT F.LN_PRBS_BERR_HI_COUNT l.berr
      (put48 (pgLN i) F.LN_PRBS_BITS_LO_COUNT F.LN_PRBS_BITS_HI_COUNT l.bits s))

/-- CLR: counters, LOSS, SAT and snapshot become 0 (R83). -/
def prbsClear (i : Nat) (s : State) : State :=
  let s1 := prbsSnap i (s.modLane i (fun l => { l with bits := 0, berr := 0, serr := 0 }))
  (s1.put (pgLN i) F.LN_PRBS_STAT_LOSS 0).putBit (pgLN i) F.LN_PRBS_STAT_SAT false

/-- INJ: one bit or symbol of a running generator is corrupted (R85). -/
def prbsInject (i : Nat) (s : State) : State :=
  if hasTx i && (s.lane i).test && (s.get (pgLN i) F.LN_PRBS_CTRL_TXPAT != 0) then s.emit (.inject i) else s

/-- After 4 consecutive bursts found only in the complement, that polarity is applied (R86). -/
def prxPolarityFix (n : Nat) (s : State) : State :=
  let i := 48 + n
  let l := s.lane i
  if s.bit (pgLN i) F.LN_CFG_POL_AUTO && decide (4 ≤ l.compRun) then
    wiring i ((s.lst i F.LN_STATUS_POL_FIX (!l.inverted)).modLane i
      (fun l => { l with inverted := !l.inverted, compRun := 0 }))
  else s

/-- What a write of LN_PRBS_CTRL does: its settings' mode, CLR and INJ. -/
def prbsCtrlAct (i : Nat) (w : Word) (committed : Bool) (s : State) : State :=
  let s1 := s.when committed (prbsModeAct i)
  let s2 := s1.when (w.getLsbD 31) (prbsClear i)
  s2.when (w.getLsbD 30) (prbsInject i)

/-- What a write of LN_ADAPT does: FREEZE, RESTART and CLR_ADAPT. -/
def adaptAct (i : Nat) (w : Word) (s : State) : State :=
  if hasRx i then
    lnFrozen i ((s.when (w.getLsbD 29) (clearAdapt i)).when (w.getLsbD 31) (adaptRestart i))
  else s

/-- A read by function `fn`: the value goes back to it, 0 when the read may not see the page (R473). -/
def State.readBack (s : State) (fn a : Nat) (act : State → State) : State :=
  match pageOf a with
  | none => (s.accessError fn false a).emit (.readData fn a 0)
  | some (k, i) =>
    if s.unreachable k i (a % 4096) then s.emit (.readData fn a 0)
    else if s.violates k fn a then (s.violation 1 fn false a).emit (.readData fn a 0)
    else
      let s1 := act s
      s1.emit (.readData fn a (s1.reg a))

/-! ### Meanings -/

/-- A lane's engine reset: step 1 of R70 from default values, settings kept (R493). -/
def laneErst (i : Nat) (s : State) : State :=
  let s1 := (s.putBit (pgLN i) F.PAGE_QUIESCE false).putBit (pgLN i) F.ST_QUIESCED false
  if s.en (pgLN i) then laneStart i s1 else s1

def execPllLock (lane : Fin 140) (s : State) : Host.Outcome State Fault Refusal := .next (pllLock lane.val s)

def execPllLockTimeout (lane : Fin 140) (s : State) : Host.Outcome State Fault Refusal := .next (pllTimeout lane.val s)

def execTerminationDetect (lane : Fin 140) (found : Bool) (s : State) : Host.Outcome State Fault Refusal :=
  .next (terminationDetect lane.val found s)

def execTerminationRetry (lane : Fin 140) (s : State) : Host.Outcome State Fault Refusal :=
  .next (terminationRetry lane.val s)

def execSigdet (lane : Fin 140) (s : State) : Host.Outcome State Fault Refusal := .next (sigdet lane.val s)

def execAdaptSettled (lane : Fin 140) (s : State) : Host.Outcome State Fault Refusal := .next (adaptSettled lane.val s)

def execAdaptTimeout (lane : Fin 140) (s : State) : Host.Outcome State Fault Refusal := .next (adaptTimeout lane.val s)

def execPcsLock (lane : Fin 140) (inverted : Bool) (position : Fin 16) (s : State) : Host.Outcome State Fault Refusal :=
  .next (pcsLock lane.val inverted position.val s)

def execPcsLockTimeout (lane : Fin 140) (s : State) : Host.Outcome State Fault Refusal := .next (pcsTimeout lane.val s)

def execLockLoss (lane : Fin 140) (s : State) : Host.Outcome State Fault Refusal := .next (lockLoss lane.val s)

def execAdaptRestart (fn : Fn) (lane : Fin 140) (w : Word) (s : State) : Host.Outcome State Fault Refusal :=
  .next (s.hostWrite fn.val (pgLN lane.val + 0x058) (w ||| maskBit 31)
    (fun s _ => adaptAct lane.val (w ||| maskBit 31) s))

def execClrAdapt (fn : Fn) (lane : Fin 140) (w : Word) (s : State) : Host.Outcome State Fault Refusal :=
  .next (s.hostWrite fn.val (pgLN lane.val + 0x058) (w ||| maskBit 29)
    (fun s _ => adaptAct lane.val (w ||| maskBit 29) s))

def execIdleRequest (fn : Fn) (lane : Fin 140) (w : Word) (s : State) : Host.Outcome State Fault Refusal :=
  .next (s.hostWrite fn.val (pgLN lane.val + 0x050) (w ||| maskBit 31) (fun s ok => s.when ok (idleAct lane.val)))

def execIdleEntry (lane : Fin 140) (s : State) : Host.Outcome State Fault Refusal := .next (idleEntry lane.val s)

def execIdleExit (fn : Fn) (lane : Fin 140) (w : Word) (s : State) : Host.Outcome State Fault Refusal :=
  .next (s.hostWrite fn.val (pgLN lane.val + 0x050) (w &&& ~~~ maskBit 31) (fun s ok => s.when ok (idleAct lane.val)))

def execBreathRx (lane : Fin 140) (s : State) : Host.Outcome State Fault Refusal := .next (breathRx lane.val s)

def execFastPathFail (lane : Fin 140) (s : State) : Host.Outcome State Fault Refusal := .next (fastPathFail lane.val s)

def execSignalLoss (lane : Fin 140) (s : State) : Host.Outcome State Fault Refusal := .next (signalLoss lane.val s)

def execIdleStale (lane : Fin 140) (s : State) : Host.Outcome State Fault Refusal := .next (idleStale lane.val s)

/-- LN_PRBS_CTRL.MODE as given, the other bits as written. -/
def withMode (w : Word) (m : Nat) : Word := putBits w 13 12 m

def execPrbsModeTest (fn : Fn) (lane : Fin 140) (w : Word) (s : State) : Host.Outcome State Fault Refusal :=
  .next (s.hostWrite fn.val (pgLN lane.val + 0x060) (withMode w 1) (fun s ok => prbsCtrlAct lane.val w ok s))

def execTestEntry (lane : Fin 140) (s : State) : Host.Outcome State Fault Refusal := .next (testEntry lane.val s)

def execPrbsModeService (fn : Fn) (lane : Fin 140) (w : Word) (s : State) : Host.Outcome State Fault Refusal :=
  .next (s.hostWrite fn.val (pgLN lane.val + 0x060) (withMode w 2) (fun s ok => prbsCtrlAct lane.val w ok s))

def execPrbsModeOff (fn : Fn) (lane : Fin 140) (w : Word) (s : State) : Host.Outcome State Fault Refusal :=
  .next (s.hostWrite fn.val (pgLN lane.val + 0x060) (withMode w 0) (fun s ok => prbsCtrlAct lane.val w ok s))

def execPrbsSync (lane : Fin 140) (rx : List Bool) (s : State) : Host.Outcome State Fault Refusal :=
  .next (prbsSync lane.val rx s)

def execPrbsSyncLoss (lane : Fin 140) (bits berr serr : Nat) (s : State) : Host.Outcome State Fault Refusal :=
  .next (prbsSyncLoss lane.val bits berr serr s)

def execPrbsSat (lane : Fin 140) (bits berr serr : Nat) (s : State) : Host.Outcome State Fault Refusal :=
  .next (prbsCount lane.val bits berr serr s)

def execPrbsSnapshot (fn : Fn) (lane : Fin 140) (bits berr serr : Nat) (s : State) : Host.Outcome State Fault Refusal :=
  .next ((prbsCount lane.val bits berr serr s).readBack fn.val (pgLN lane.val + 0x068) (prbsSnap lane.val))

def execPrbsClr (fn : Fn) (lane : Fin 140) (w : Word) (s : State) : Host.Outcome State Fault Refusal :=
  .next (s.hostWrite fn.val (pgLN lane.val + 0x060) (w ||| maskBit 31)
    (fun s ok => prbsCtrlAct lane.val (w ||| maskBit 31) ok s))

def execPrbsInj (fn : Fn) (lane : Fin 140) (w : Word) (s : State) : Host.Outcome State Fault Refusal :=
  .next (s.hostWrite fn.val (pgLN lane.val + 0x060) (w ||| maskBit 30)
    (fun s ok => prbsCtrlAct lane.val (w ||| maskBit 30) ok s))

def execPrxPolarityFix (port : Fin 48) (s : State) : Host.Outcome State Fault Refusal :=
  .next (prxPolarityFix port.val s)

end Sys2Proof.Machine
end

