-- ==== Sys2Proof/Machine/Time.lean ====
section
/-! DEFINITION. Chapter 10: time bases, corrections, triggers, the PPS and FSYNC inputs and the time outputs
(R234 to R255). -/

namespace Sys2Proof.Machine

/-- T of a time base in whole nanoseconds (R234). -/
def State.tNs (s : State) (n : Nat) : Nat := (s.tb n).t / tbUnit

/-- T32 (R234). -/
def State.t32 (s : State) (n : Nat) : Nat := s.tNs n % 2 ^ 32

/-- R243: a 32-bit instant is reached when the signed difference T32 − E32 is 0 or more. -/
def reached32 (t32 e32 : Nat) : Bool := decide (0 ≤ toSigned 32 (t32 + 2 ^ 32 - e32 % 2 ^ 32))

/-- A timestamp of R245 on time base `n`, `lat` tenths of a nanosecond from the island to the ball (negative on receive):
seconds, nanoseconds, 1/64 ns and epoch. -/
def State.stampAt (s : State) (n : Nat) (d : Int) : Stamp :=
  let b := s.tb n
  let u := ((b.t : Int) + d).toNat
  { sec := u / (1000000000 * tbUnit) % 2 ^ 48, ns := u / tbUnit % 1000000000, frac := u % tbUnit * 64 / tbUnit,
    epoch := b.epoch }

/-- The same for the present instant corrected by a latency, in tenths of a nanosecond (R245). -/
def State.stamp (s : State) (n : Nat) (lat : Int) : Stamp := s.stampAt n (lat * tbUnit / 10)

/-- ULN transmit latency by rate code, in tenths of a nanosecond (R245). -/
def ulnTxLatency (rate : Nat) : Int := ([224, 270, 356, 183].getD (rate - 2) 224 : Nat)
def ulnRxLatency (rate : Nat) : Int := -([963, 1185, 1512, 417].getD (rate - 2) 963 : Nat)

/-- The fixed latency of an input edge, ball to island: 2.1 ns (R245). An edge's command comes at the island. -/
def edgeLat : Int := ((21 * tbUnit / 10 : Nat) : Int)

/-- The fixed latency of PPS_OUT, island to ball: 2.4 ns (R245). -/
def ppsLat : Int := ((24 * tbUnit / 10 : Nat) : Int)

/-- TE_TB_STAT's live bits: COMPAT, PEND and SLEWING (R255), and TE_TB_SLEW_REM; a read shows them as they are then. -/
def tbStat (n : Nat) (s : State) : State :=
  let b := s.tb n
  let s1 := (s.putBit (pgTB n) F.TE_TB_STAT_COMPAT (decide (s.level = 1))).putBit (pgTB n) F.TE_TB_STAT_PEND b.held.isSome
  let s2 := s1.putBit (pgTB n) F.TE_TB_STAT_SLEWING (decide (b.rem ≠ 0))
  let r := ofSigned 64 (b.rem / tbUnit)
  s2.put2 (pgTB n) F.TE_TB_SLEW_REM_LO_REM F.TE_TB_SLEW_REM_HI_REM r

def tbReject (n : Nat) (s : State) : State := s.putBit (pgTB n) F.TE_TB_STAT_REJ true

/-! ### Rate -/

/-- The largest RATE: 1,000 ppm (R235). -/
def rateMax : Int := 281474976711

/-- A write of TE_TB_RATE_HI commits both words or is refused with REJ; the staged low word goes either way (R235). -/
def rateWrite (n : Nat) (w : Word) (s : State) : State :=
  let a := pgTB n + 0x06C
  let lo := (sget none s.staged a).getD (s.reg a)
  let r := toSigned 48 (lo.toNat + w.toNat % 2 ^ 16 * 2 ^ 32)
  let s1 : State := { s with staged := sset none s.staged a none }
  if -rateMax ≤ r ∧ r ≤ rateMax then
    ((s1.setReg a lo).setReg (a + 4) (BitVec.ofNat 32 (w.toNat % 2 ^ 16))).setTb n { s1.tb n with rate := r }
  else tbReject n s1

/-! ### Triggers and alarm (R243, R244) -/

/-- The alarm's instant in nanoseconds. -/
def State.alarmNs (s : State) (n : Nat) : Nat :=
  s.get2 (pgTB n) F.TE_TB_ALM_SEC_LO_SEC F.TE_TB_ALM_SEC_HI_SEC * 1000000000 + s.get (pgTB n) F.TE_TB_ALM_NS_NS

/-- Trigger `k` has reached its instant. -/
def State.trigReached (s : State) (n k : Nat) : Bool := reached32 (s.t32 n) (s.get (pgTB n) (F.TE_TB_TRIG_TIME.ix k))

/-- A trigger fires: ARM clears, FIRED sets, TB_ALARM is raised. -/
def trigFire (n k : Nat) (late : Bool) (s : State) : State :=
  let s1 := (s.putBit (pgTB n) (F.TE_TB_TRIG_CTL_ARM.ix k) false).putBit (pgTB n) (F.TE_TB_TRIG_CTL_FIRED.ix k) true
  (if late then s1.putBit (pgTB n) (F.TE_TB_TRIG_CTL_LATE.ix k) true else s1).raise (pgTB n) 3

/-- The alarm fires. -/
def alarmFire (n : Nat) (late : Bool) (s : State) : State :=
  let s1 := (s.putBit (pgTB n) F.TE_TB_ALM_CTL_ARM false).putBit (pgTB n) F.TE_TB_ALM_CTL_FIRED true
  (if late then s1.putBit (pgTB n) F.TE_TB_ALM_CTL_LATE true else s1).raise (pgTB n) 3

/-- Trigger or alarm `k` (2 is the alarm) has just been armed: an instant already reached fires with LATE. -/
def armAct (n k : Nat) (s : State) : State :=
  if k < 2 then
    if s.bit (pgTB n) (F.TE_TB_TRIG_CTL_ARM.ix k) && s.trigReached n k then trigFire n k true s else s
  else if s.bit (pgTB n) F.TE_TB_ALM_CTL_ARM && decide (s.alarmNs n ≤ s.tNs n) then alarmFire n true s else s

/-- A write to TIME, or to the alarm time, disarms it (R244). -/
def disarmAct (n off : Nat) (s : State) : State :=
  if off = 0x098 then s.putBit (pgTB n) (F.TE_TB_TRIG_CTL_ARM.ix 0) false
  else if off = 0x0A0 then s.putBit (pgTB n) (F.TE_TB_TRIG_CTL_ARM.ix 1) false
  else if 0x0A8 ≤ off ∧ off < 0x0B4 then s.putBit (pgTB n) F.TE_TB_ALM_CTL_ARM false
  else s

/-! ### Corrections (R238 to R241) -/

/-- An offset in nanoseconds reduced into −500,000,000 < x ≤ 500,000,000 (R242). -/
def reduceSec (x : Int) : Int :=
  let m := x % 1000000000
  if m ≤ 500000000 then m else m - 1000000000

/-- Move a time base by `d` parts of a nanosecond, modulo its span. -/
def TimeBase.move (b : TimeBase) (d : Int) : TimeBase := { b with t := (((b.t : Int) + d) % (tbSpan : Int)).toNat }

/-- Δ of a change by `d` parts: new T minus old T, both whole nanoseconds (R234, R238). -/
def TimeBase.delta (b : TimeBase) (d : Int) : Int := ((b.t : Int) + d) / tbUnit - (b.t / tbUnit : Nat)

/-- A re-step by `d` on one cycle (R239): the epoch rises, TB_RESTEP is raised, triggers are cancelled, the baseline
moves with it, an alarm passed fires with LATE, and `note` tells the engines that select the time base. -/
def reStep (n : Nat) (d : Int) (note : Nat → Int → State → State) (s : State) : State :=
  let b := s.tb n
  let b' := { b.move d with epoch := (b.epoch + 1) % 2 ^ 16, baseline := b.baseline.map (fun x => reduceSec (x + b.delta d)) }
  let s1 := (s.setTb n b').put2 (pgTB n) F.TE_TB_LAST_DELTA_LO_DELTA F.TE_TB_LAST_DELTA_HI_DELTA (ofSigned 64 (b.delta d))
  let cancel (s : State) (k : Nat) : State :=
    if s.bit (pgTB n) (F.TE_TB_TRIG_CTL_ARM.ix k) then
      (s.putBit (pgTB n) (F.TE_TB_TRIG_CTL_ARM.ix k) false).putBit (pgTB n) (F.TE_TB_TRIG_CTL_CANCELLED.ix k) true
    else s
  let s2 := (cancel (cancel s1 0) 1).raise (pgTB n) 2
  note n d (armAct n 2 s2)

/-- Apply a correction of the given OP and value, in parts of a nanosecond (R238, R240). The value of an ABS correction is the time it
loads. -/
def tbApply (n op : Nat) (value : Int) (note : Nat → Int → State → State) (s : State) : State :=
  let b := s.tb n
  let abs := op = 1 ∨ op = 3
  let d : Int := if abs then value - b.t else value
  let s' :=
    if !s.bit (pgTB n) F.TE_TB_STAT_ACQ then (s.setTb n (b.move d)).putBit (pgTB n) F.TE_TB_STAT_ACQ true
    else if s.level = 1 then s.setTb n { b with rem := if abs then d else b.rem + d }
    else if op = 3 ∨ op = 4 then reStep n d note s
    else tbReject n (s.raise (pgTB n) 0)
  tbStat n s'

/-- The value of a correction at the instant its command is written (R241). -/
def State.corrValue (s : State) (n op : Nat) : Int :=
  if op = 1 ∨ op = 3 then
    ((s.get2 (pgTB n) F.TE_TB_SET_SEC_LO_SEC F.TE_TB_SET_SEC_HI_SEC * 1000000000 + s.get (pgTB n) F.TE_TB_SET_NS_NS : Nat) : Int)
  else toSigned 64 (s.get2 (pgTB n) F.TE_TB_OFS_LO_OFS F.TE_TB_OFS_HI_OFS)

/-- A write of TE_TB_CMD (R238, R241, R255). -/
def tbCommand (n op input : Nat) (note : Nat → Int → State → State) (s : State) : State :=
  let b := s.tb n
  if op = 0 then s
  else if input = 3 ∨ 5 < op then tbReject n s
  else if op = 5 then tbStat n (s.setTb n { b with held := none })
  else if b.held.isSome then tbReject n s
  else if input = 0 then tbApply n op (s.corrValue n op * tbUnit) note s
  else tbStat n (s.setTb n { b with held := some { op := op, input := input, value := s.corrValue n op, since := s.now } })

/-- A held correction without an edge for 2 s is discarded with REJ (R241). -/
def heldTimeout (n : Nat) (s : State) : State :=
  match (s.tb n).held with
  | none => s
  | some h =>
    if h.since + 2 * cyclesPerSec ≤ s.now then tbReject n (tbStat n (s.setTb n { s.tb n with held := none })) else s

/-- A read of TE_TB_SEC_LO copies seconds, nanoseconds, fraction and epoch into the snapshot (R236). -/
def tbSnap (n : Nat) (s : State) : State :=
  let b := s.tb n
  let sec := b.t / (1000000000 * tbUnit)
  let s1 := s.put2 (pgTB n) F.TE_TB_SEC_LO_SEC F.TE_TB_SEC_HI_SEC sec
  let s2 := (s1.put (pgTB n) F.TE_TB_NS_NS (b.t / tbUnit % 1000000000)).put (pgTB n) F.TE_TB_FRAC_FRAC
    (b.t % tbUnit * 2 ^ 32 / tbUnit)
  s2.put (pgTB n) F.TE_TB_STAT_EPOCH b.epoch

/-! ### PPS and FSYNC inputs (R242, R249, R250) -/

/-- The reference comparison of R242 at a qualified edge: the offset of its timestamp, in whole nanoseconds, against the baseline. -/
def refEdge (k : Nat) (returning : Bool) (n : Nat) (s : State) : State :=
  if s.bit (pgTB n) F.TE_TB_REF_CFG_EN && decide (s.get (pgTB n) F.TE_TB_REF_CFG_SRC = k) then
    let b := s.tb n
    let ofs := reduceSec (((b.t : Int) - edgeLat) / tbUnit)
    let s1 := s.putI (pgTB n) F.TE_TB_REF_OFS_OFS ofs
    let jump := match b.baseline with
      | some x => !returning && decide (s1.get (pgTB n) F.TE_TB_REF_CFG_JUMP_THR < (ofs - x).natAbs)
      | none => false
    let s2 := s1.setTb n { b with baseline := some ofs }
    if jump then (s2.putI (pgTB n) F.TE_TB_REF_JUMP_OFS ofs).raise (pgTB n) 1 else s2
  else s

/-- A qualified edge on a time base: it is timestamped and compared (R242), then a correction held for it is applied (R238): an ABS
value is what the time base read at the ball. -/
def tbEdge (k : Nat) (returning : Bool) (note : Nat → Int → State → State) (s : State) (n : Nat) : State :=
  let s1 := refEdge k returning n s
  match (s1.tb n).held with
  | some h =>
    if h.input = k + 1 then
      tbApply n h.op (h.value * tbUnit + if h.op = 1 ∨ h.op = 3 then edgeLat else 0) note (s1.setTb n { s1.tb n with held := none })
    else s1
  | none => s1

/-- Cycles in a millisecond. -/
def cyclesMs : Nat := 1244160

/-- An active edge of PPS_INk (R249): polarity, qualification within 0.999 s to 1.001 s, and its effects. -/
def ppsEdge (k : Nat) (longHigh : Bool) (note : Nat → Int → State → State) (s : State) : State :=
  let p := sget {} s.pps k
  let run := if longHigh then p.run + 1 else 0
  let fix := s.bit pgTE (F.TE_PPSI_CFG_POL_AUTO.ix k) && decide (3 ≤ run) && !s.bit pgTE (F.TE_PPSI_CFG_INV.ix k)
  let s1 :=
    if fix then
      ((s.putBit pgTE (F.TE_PPSI_CFG_INV.ix k) true).putBit pgTE (F.TE_PPSI_CFG_POL_FIX.ix k) true).raise pgTE 2
    else s
  let p1 : Pps := { p with run := if fix then 0 else run }
  let good := match p.last with
    | none => true
    | some l => decide (l + 999 * cyclesMs ≤ s.now) && decide (s.now ≤ l + 1001 * cyclesMs)
  if good then
    let s2 : State := { s1 with pps := sset {} s1.pps k { p1 with last := some s.now } }
    let s3 := ((s2.incWrap pgTE (F.TE_PPSI_CFG_EDGES.ix k)).putBit pgTE (F.TE_PPSI_CFG_PRESENT.ix k) true).levelTo pgTE k false
    (List.range 8).foldl (tbEdge k p.last.isNone note) s3
  else { s1 with pps := sset {} s1.pps k p1 }.incSat pgTE (F.TE_PPSI_CFG_GLITCH.ix k)

/-- No qualified edge for 1.5 s (R249). -/
def ppsLoss (k : Nat) (s : State) : State :=
  let p := sget {} s.pps k
  let due := match p.last with
    | none => true
    | some l => decide (l + 1500 * cyclesMs ≤ s.now)
  if due then
    (({ s with pps := sset {} s.pps k { p with last := none } } : State).putBit pgTE (F.TE_PPSI_CFG_PRESENT.ix k) false).levelTo
      pgTE k true
  else s

/-- The expected period of FSYNC_IN in cycles: DIV frames of 155,520 cycles, DIV = 1 in MODE 1 (R250). -/
def State.fsyncPeriod (s : State) : Nat :=
  155520 * (if s.get pgTE F.TE_FSYNC_CFG_MODE = 2 then s.get pgTE F.TE_FSYNC_CFG_DIV else 1)

/-- An active FSYNC_IN edge (R250): qualified within 2 µs of the expected instant, or the first after loss, and passed on
by `pass`; otherwise counted. -/
def fsyncEdge (pass : State → State) (s : State) : State :=
  if s.get pgTE F.TE_FSYNC_CFG_MODE = 0 then s
  else
    let tol := 2488  -- whole cycles in 2 µs
    let good := match s.fsyncLast with
      | none => true
      | some l => decide (l + s.fsyncPeriod ≤ s.now + tol) && decide (s.now ≤ l + s.fsyncPeriod + tol)
    if good then
      pass ((({ s with fsyncLast := some s.now } : State).putBit pgTE F.TE_FSYNC_STAT_PRESENT true).levelTo pgTE 3 false)
    else s.incSat pgTE F.TE_FSYNC_STAT_GLITCH

/-- A write that changes MODE or DIV restarts qualification; MODE 0 expects no edge (R250). -/
def fsyncCfgAct (s : State) : State :=
  let s1 := ({ s with fsyncLast := none } : State).putBit pgTE F.TE_FSYNC_STAT_PRESENT false
  if s1.get pgTE F.TE_FSYNC_CFG_MODE = 0 then s1.levelTo pgTE 3 false else s1

/-- PPS_OUTm rises at each whole second of the selected time base less its offset, for WIDTH (R251): the instant at the ball falls
within this cycle. An edge due during a pulse restarts it. -/
def ppsOut (m : Nat) (s : State) : State :=
  let n := s.get pgTE (F.TE_PPSO_CFG_TB.ix m)
  let b := s.tb n
  let x := (b.t : Int) + ppsLat - s.getI pgTE (F.TE_PPSO_OFS_OFS.ix m) * tbUnit
  let step := ((b.advance (s.get (pgTB n) F.TE_TB_SLEW_MAX) 1).t : Int) - b.t
  if s.bit pgTE (F.TE_PPSO_CFG_EN.ix m) && decide (x % (1000000000 * tbUnit : Nat) < step % (tbSpan : Int)) then
    let w := s.get pgTE (F.TE_PPSO_CFG_WIDTH.ix m)
    ({ s with ppsOn := sset (0, 0) s.ppsOn m (s.now, w) } : State).emit (.ppsOut m w)
  else s

/-- PPS_OUTm is high: within WIDTH × 10 µs of its latest rising edge, and enabled (R251). -/
def State.ppsHigh (s : State) (m : Nat) : Bool :=
  let p := sget (0, 0) s.ppsOn m
  s.bit pgTE (F.TE_PPSO_CFG_EN.ix m) && decide (s.now * 3125 < p.1 * 3125 + p.2 * 10000 * 3888)

/-- A write that clears EN drives the output low, in the middle of a pulse too (R251). -/
def ppsCfgAct (m : Nat) (was : Bool) (s : State) : State :=
  if was && !s.bit pgTE (F.TE_PPSO_CFG_EN.ix m) then ({ s with ppsOn := sset (0, 0) s.ppsOn m (0, 0) } : State).emit (.ppsOut m 0)
  else s

/-! ### The recovered clocks (R252) -/

/-- RCLK_OUTj is squelched: it is enabled, and its lane has lost its signal or is not LOCKED. DEDUCED (log entry 144): SQ of an output
that is not enabled reads 0, its reset value. -/
def State.rclkSquelched (s : State) (j : Nat) : Bool :=
  let pg := pgLN (s.get pgTE (F.TE_RCLK_CFG_SRC.ix j))
  s.bit pgTE (F.TE_RCLK_CFG_EN.ix j) && (s.raw pg 0 || s.get pg F.LN_STATUS_STATE != 2)

/-- The frequency of RCLK_OUTj in units of 10 kHz, none while it is held low. -/
def State.rclkOut (s : State) (j : Nat) : Option Nat :=
  if !s.bit pgTE (F.TE_RCLK_CFG_EN.ix j) || s.rclkSquelched j then none
  else some (if s.bit pgTE (F.TE_RCLK_CFG_DIV.ix j) then 3125 else 15625)

/-- An engine reset of TE: values, rates and triggers kept; PPS and FSYNC qualification restarts (R493). -/
def teErst (s : State) : State :=
  fsyncCfgAct { s with pps := [], ppsOn := [] }

/-- At wake every time base holds 0 with ACQ 0, nothing armed, held or slewing; rate and epoch are kept (R466). -/
def tbWake (s : State) : State :=
  forN 8 (fun n s =>
    let b := s.tb n
    let s1 := s.setTb n { t := 0, epoch := b.epoch, rate := b.rate }
    let s2 := forN 2 (fun k s => s.putBit (pgTB n) (F.TE_TB_TRIG_CTL_ARM.ix k) false) s1
    tbStat n ((s2.putBit (pgTB n) F.TE_TB_ALM_CTL_ARM false).putBit (pgTB n) F.TE_TB_STAT_ACQ false)) s

/-! ### Meanings that touch nothing but the time engine -/

def execRateWrite (fn : Fn) (tb : Fin 8) (w : Word) (t : Nat) (s : State) : Host.Outcome State Fault Refusal :=
  .next ((s.at t).access fn.val (pgTB tb.val + 0x070) (fun _ _ s => rateWrite tb.val w s))

def execTbSnapshot (fn : Fn) (tb : Fin 8) (t : Nat) (s : State) : Host.Outcome State Fault Refusal :=
  .next ((s.at t).readBack fn.val (pgTB tb.val + 0x048) (tbSnap tb.val))

def execCancel (fn : Fn) (tb : Fin 8) (w : Word) (s : State) : Host.Outcome State Fault Refusal :=
  .next (s.access fn.val (pgTB tb.val + 0x040) (fun _ _ s => tbCommand tb.val 5 (fld w.toNat 25 24) (fun _ _ s => s) s))

def execHeldCorrectionTimeout (tb : Fin 8) (t : Nat) (s : State) : Host.Outcome State Fault Refusal :=
  .next (heldTimeout tb.val (s.at t))

def execSlewDone (tb : Fin 8) (t : Nat) (s : State) : Host.Outcome State Fault Refusal :=
  .next (tbStat tb.val (s.at t))

/-- The register that arms trigger or alarm `k`. -/
def armAddr (n k : Nat) : Nat := pgTB n + (if k < 2 then 0x09C + 8 * k else 0x0B4)

def execTrigArm (fn : Fn) (tb : Fin 8) (k : Fin 3) (w : Word) (t : Nat) (s : State) : Host.Outcome State Fault Refusal :=
  .next ((s.at t).hostWrite fn.val (armAddr tb.val k.val) (w ||| maskBit 31) (fun s _ => armAct tb.val k.val s))

def execTriggerFire (tb : Fin 8) (k : Fin 2) (t : Nat) (s : State) : Host.Outcome State Fault Refusal :=
  let s1 := s.at t
  .next (if s1.bit (pgTB tb.val) (F.TE_TB_TRIG_CTL_ARM.ix k.val) && s1.trigReached tb.val k.val then trigFire tb.val k.val false s1
         else s1)

def execAlarmFire (tb : Fin 8) (t : Nat) (s : State) : Host.Outcome State Fault Refusal :=
  let s1 := s.at t
  .next (if s1.bit (pgTB tb.val) F.TE_TB_ALM_CTL_ARM && decide (s1.alarmNs tb.val ≤ s1.tNs tb.val) then alarmFire tb.val false s1
         else s1)

def execPpsInLoss (k : Fin 2) (t : Nat) (s : State) : Host.Outcome State Fault Refusal := .next (ppsLoss k.val (s.at t))

def execPpsOut (m : Fin 2) (t : Nat) (s : State) : Host.Outcome State Fault Refusal := .next (ppsOut m.val (s.at t))

def execClr1step (fn : Fn) (w : Word) (s : State) : Host.Outcome State Fault Refusal :=
  .next (s.hostWrite fn.val (pgTE + 0x0F0) (w ||| maskBit 31) (fun s _ => s.put pgTE F.TE_1STEP_SKIP_COUNT 0))

end Sys2Proof.Machine
end

