-- ==== Sys2Proof/Machine/Gates.lean ====
section
/-! DEFINITION. Chapter 11, first part: gate lists and their cycles (R256 to R266). -/

namespace Sys2Proof.Machine

def State.glist (s : State) (n : Nat) : Gl := sget {} s.gl n

def State.setGlist (s : State) (n : Nat) (g : Gl) : State := { s with gl := sset {} s.gl n g }

def glGATES : TF := ⟨0, 7, 0⟩
def glDUR : TF := ⟨1, 29, 0⟩

/-- The first `len` entries of a list table as gate states and durations in ns. -/
def State.glEntries (s : State) (n tid len : Nat) : List (Nat × Nat) :=
  (List.range len).map (fun i => let e := s.ent (pgGL n) tid i; (eget e glGATES, eget e glDUR))

/-- One cycle of a list: cut at the cycle end, or its last state held until then (R257). -/
def mkSegs : List (Nat × Nat) → Nat → List (Nat × Nat)
  | [], left => [(0xFF, left)]
  | [(g, _)], left => [(g, left)]
  | (g, d) :: r, left => if left ≤ d then [(g, left)] else (g, d) :: mkSegs r (left - d)

/-- The operational list as the segments of one cycle. -/
def State.operSegs (s : State) (n : Nat) : List (Nat × Nat) :=
  mkSegs (s.glEntries n 1 (s.get (pgGL n) F.GT_OPER_LEN_LEN)) (s.get (pgGL n) F.GT_OPER_CYCLE_CYCLE)

/-- OPER_BASE in ns. -/
def State.operBase (s : State) (n : Nat) : Nat :=
  s.get2 (pgGL n) F.GT_OPER_BASE_SEC_LO_SEC F.GT_OPER_BASE_SEC_HI_SEC * 1000000000 + s.get (pgGL n) F.GT_OPER_BASE_NS_NS

/-- The governing time base of a list, and its T in parts of a nanosecond. -/
def State.glTb (s : State) (n : Nat) : Nat := s.get (pgGL n) F.GT_CTRL_TB

def State.glT (s : State) (n : Nat) : Nat := (s.tb (s.glTb n)).t

/-- The state and the entry in effect at offset `pos` of a cycle (both in ns × tbUnit). -/
def segAt : List (Nat × Nat) → Nat → Nat → Nat × Nat
  | [], _, i => (0xFF, i)
  | [(g, _)], _, i => (g, i)
  | (g, d) :: r, pos, i => if pos < d * tbUnit then (g, i) else segAt r (pos - d * tbUnit) (i + 1)

/-- The Ethernet rate of a lane group in Gb/s (R375). -/
def State.groupRate (s : State) (g : Nat) : Nat :=
  2 ^ s.get pgUL (F.UL_GRP_WIDTH.ix g) * (200 / 2 ^ (s.get (pgLN (96 + g)) F.LN_CFG_RATE - 2))

/-- The tree of a list exists: a port, or a lane group of the configured port mode (R256). -/
def State.glExists (s : State) (n : Nat) : Bool := decide (n < 48) || s.groupExists (n - 48)

/-- The list gates its tree now: the engine and the list are enabled, and the tree exists. -/
def State.glOn (s : State) (n : Nat) : Bool := s.en (pgGT 0) && s.bit (pgGL n) F.GT_CTRL_EN && s.glExists n

/-- The operational list is running at instant `t` of its time base: present, and OPER_BASE is reached (R261). -/
def State.glRuns (s : State) (n t : Nat) : Bool :=
  s.bit (pgGL n) F.GT_STATUS_OPER && decide (s.operBase n * tbUnit ≤ t)

/-- Gate states and entry at instant `t`. -/
def State.gatesAt (s : State) (n t : Nat) : Nat × Nat :=
  if !s.glOn n then (0xFF, 0)
  else if s.glRuns n t then
    segAt (s.operSegs n) ((t - s.operBase n * tbUnit) % (max 1 (s.get (pgGL n) F.GT_OPER_CYCLE_CYCLE) * tbUnit)) 0
  else (s.get (pgGL n) F.GT_CTRL_IDLE_GATES, 0)

/-- Gate states and entry in effect. -/
def State.gates (s : State) (n : Nat) : Nat × Nat := s.gatesAt n (s.glT n)

/-- GT_STATUS.GATES and ENTRY follow the state in effect. -/
def glStat (n : Nat) (s : State) : State :=
  let g := s.gates n
  (s.put (pgGL n) F.GT_STATUS_GATES g.1).put (pgGL n) F.GT_STATUS_ENTRY g.2

/-- How long class `c` stays open from offset `skip` on (parts of a nanosecond). -/
def spanOpen (c : Nat) : Nat → List (Nat × Nat) → Nat
  | _, [] => 0
  | skip, (g, d) :: r =>
    if d * tbUnit ≤ skip then spanOpen c (skip - d * tbUnit) r
    else if g.testBit c then d * tbUnit - skip + spanOpen c 0 r
    else 0

/-- R263: class `c` of list `n` is open at instant `t` of its time base and stays open for `dur` parts of a nanosecond. -/
def State.classOpen (s : State) (n c t dur : Nat) : Bool :=
  if !s.glOn n then true
  else
    let cyc := max 1 (s.get (pgGL n) F.GT_OPER_CYCLE_CYCLE) * tbUnit
    let many := (List.replicate (dur / cyc + 2) (s.operSegs n)).flatten
    if s.glRuns n t then
      (s.gatesAt n t).1.testBit c && decide (dur ≤ spanOpen c ((t - s.operBase n * tbUnit) % cyc) many)
    else
      let idle := (s.get (pgGL n) F.GT_CTRL_IDLE_GATES).testBit c
      if s.bit (pgGL n) F.GT_STATUS_OPER then
        let wait := s.operBase n * tbUnit - t
        idle && decide (dur ≤ wait + spanOpen c 0 many)
      else idle

/-- R262, R263: the class is open for a packet that starts at the ball after `x.1` and lasts `x.2`: the engine allows for its latency. -/
def State.classOpenAt (s : State) (n c : Nat) (x : Int × Nat) : Bool := s.classOpen n c ((s.glT n : Int) + x.1).toNat x.2

/-- Cycle starts of the operational list after one instant of its time base and up to another. -/
def State.cycleStarts (s : State) (n a b : Nat) : Nat :=
  let base := s.operBase n * tbUnit
  let cyc := max 1 (s.get (pgGL n) F.GT_OPER_CYCLE_CYCLE) * tbUnit
  let k (x : Nat) : Nat := if x < base || !s.bit (pgGL n) F.GT_STATUS_OPER then 0 else (x - base) / cyc + 1
  k b - k a

/-- Cycle starts of the list that have passed so far, on every operational list it had (R264). -/
def State.glStarts (s : State) (n : Nat) : Nat := (s.glist n).starts + s.cycleStarts n (s.glist n).since (s.glT n)

/-- The cycle starts up to instant `a` are counted, and counting goes on from instant `b`: where the grid or its time changes. -/
def glSettle (n a b : Nat) (s : State) : State :=
  s.setGlist n { s.glist n with starts := (s.glist n).starts + s.cycleStarts n (s.glist n).since a, since := b }

/-- The longest run of `c` over a list of segments: the run in progress, and the longest so far. -/
def longestRun (c : Nat) : Nat → Nat → List (Nat × Nat) → Nat
  | cur, best, [] => max cur best
  | cur, best, (g, d) :: r => if g.testBit c then longestRun c (cur + d) best r else longestRun c 0 (max cur best) r

/-- GT_MAXWINc of the operational list (R264). -/
def State.maxWin (s : State) (n c : Nat) : Nat :=
  let segs := s.operSegs n
  if segs.all (fun p => p.1.testBit c) then 0xFFFFFFFF else longestRun c 0 0 (segs ++ segs)

def setMaxWin (n : Nat) (s : State) : State :=
  forN 8 (fun c s => s.put (pgGL n) (F.GT_MAXWIN_NS.ix c) (if s.bit (pgGL n) F.GT_STATUS_OPER then s.maxWin n c else 0xFFFFFFFF)) s

/-- A packet in flight whose class the new state closes before its end completes and counts in OVERRUN (R265). -/
def overrun (n : Nat) (s : State) : State :=
  match (s.glist n).flight with
  | none => s
  | some (c, e) =>
    if s.glT n < e ∧ !s.classOpen n c (s.glT n) (e - s.glT n) then
      (s.bump (pgGL n) C.GT_OVERRUN).setGlist n { s.glist n with flight := none }
    else s

/-! ### Submitting a list (R258, R259) -/

/-- BASE of the administrative registers in ns. -/
def State.adminBase (s : State) (n : Nat) : Nat :=
  s.get2 (pgGL n) F.GT_ADMIN_BASE_SEC_LO_SEC F.GT_ADMIN_BASE_SEC_HI_SEC * 1000000000 + s.get (pgGL n) F.GT_ADMIN_BASE_NS_NS

/-- The page and bit of GL_START_LATE of list `n` (R65). -/
def startLate (n : Nat) (s : State) : State := s.raise (pgGT (n / 32)) (n % 32)

/-- Fix the start instant (R259), `tc` being the governing T now; whether it was moved. -/
def fixStart (n : Nat) (s : State) : State × Bool :=
  let tc := s.glT n
  let base := s.adminBase n
  let cyc := max 1 (s.get (pgGL n) F.GT_ADMIN_CYCLE_CYCLE)
  let need := tc + s.get (pgGL n) F.GT_CFG_SETUP * 1000 * tbUnit
  if need ≤ base * tbUnit then (s.setGlist n { s.glist n with pend := some base }, false)
  else
    let k := (need - base * tbUnit + cyc * tbUnit - 1) / (cyc * tbUnit)
    let s1 := s.setGlist n { s.glist n with pend := some (base + k * cyc) }
    ((s1.put (pgGL n) F.GT_START_SKIP_N (min k (2 ^ 32 - 1))), true)

/-- The submission of R258 is refused. -/
def State.submitBad (s : State) (n : Nat) : Bool :=
  let pg := pgGL n
  let cyc := s.get pg F.GT_ADMIN_CYCLE_CYCLE
  let len := s.get pg F.GT_ADMIN_LEN_LEN
  !s.bit pg F.GT_CTRL_EN || s.bit pg F.GT_STATUS_PEND || s.bit pg F.GT_STATUS_COPY ||
    !s.bit (pgTB (s.glTb n)) F.TE_TB_STAT_ACQ || decide (cyc < 1000) || decide (1000000000 < cyc) ||
    decide (len < 1) || decide (1024 < len) || decide (999999999 < s.get pg F.GT_ADMIN_BASE_NS_NS) ||
    (s.glEntries n 0 len).any (fun p => decide (p.2 < 16) || decide (1000000000 < p.2))

def submit (n : Nat) (s : State) : State :=
  if s.submitBad n || s.quiescing (pgGT 0) then s.putBit (pgGL n) F.GT_STATUS_REJ true
  else
    let r := fixStart n (s.putBit (pgGL n) F.GT_STATUS_PEND true)
    if r.2 then startLate n r.1 else r.1

/-- Discard a pending list. -/
def glCancel (n : Nat) (s : State) : State :=
  (s.putBit (pgGL n) F.GT_STATUS_PEND false).setGlist n { s.glist n with pend := none }

/-- EN goes to 0: every class opens, and every list is discarded (R261). -/
def glDisable (n : Nat) (s : State) : State :=
  glStat n (setMaxWin n (((glCancel n s).putBit (pgGL n) F.GT_STATUS_OPER false).putBit (pgGL n) F.GT_STATUS_COPY false))

/-- What a write of GT_CTRL does beyond its fields. -/
def glCtrlAct (n : Nat) (wasEn : Bool) (wasTb w : Nat) (s : State) : State :=
  let s1 := if wasEn && fld w 31 31 == 1 && wasTb != fld w 18 16 then s.putBit (pgGL n) F.GT_STATUS_REJ true else s
  let s2 := if wasEn && !s1.bit (pgGL n) F.GT_CTRL_EN then glDisable n s1 else s1
  let s3 := if w.testBit 29 then glCancel n s2 else s2
  glStat n (if w.testBit 30 then submit n s3 else s3)

/-- Exchange the roles of tables 0 and 1 (R260). -/
def glSwap (n : Nat) (s : State) : State :=
  forN 1024 (fun i s =>
    let a := s.ent (pgGL n) 0 i
    let b := s.ent (pgGL n) 1 i
    if a = b then s else (s.setEnt (pgGL n) 0 i b).setEnt (pgGL n) 1 i a) s

/-- The start instant of a pending list (R260). -/
def glStart (n : Nat) (s : State) : State :=
  match (s.glist n).pend with
  | none => s
  | some st =>
    if s.bit (pgGL n) F.GT_STATUS_PEND && decide (st * tbUnit ≤ s.glT n) then
      let pg := pgGL n
      let s0 := glSettle n (st * tbUnit - 1) (st * tbUnit - 1) s
      let s1 := (glSwap n s0).put2 pg F.GT_OPER_BASE_SEC_LO_SEC F.GT_OPER_BASE_SEC_HI_SEC (st / 1000000000)
      let s2 := (s1.put pg F.GT_OPER_BASE_NS_NS (st % 1000000000)).put pg F.GT_OPER_CYCLE_CYCLE (s.get pg F.GT_ADMIN_CYCLE_CYCLE)
      let s3 := (s2.put pg F.GT_OPER_LEN_LEN (s.get pg F.GT_ADMIN_LEN_LEN)).putBit pg F.GT_STATUS_OPER true
      let s4 := ((glCancel n s3).putBit pg F.GT_STATUS_COPY true).commit pg
      overrun n (glStat n (setMaxWin n (s4.bump pg C.GT_STARTS)))
    else s

/-- The copy back into table 0 ends (R260). -/
def glCopyDone (n : Nat) (s : State) : State :=
  if s.bit (pgGL n) F.GT_STATUS_COPY then
    (forN 1024 (fun i s => s.setEnt (pgGL n) 0 i (s.ent (pgGL n) 1 i)) s).putBit (pgGL n) F.GT_STATUS_COPY false
  else s

/-- A re-step by `d` of time base `tb` (R266): the grids stay, a pending start may move, and a packet in flight keeps its end. -/
def glRestep (tb : Nat) (d : Int) (s : State) : State :=
  forN 64 (fun n s =>
    if s.glTb n = tb && s.bit (pgGL n) F.GT_CTRL_EN then
      let s0 := glSettle n ((s.glT n : Int) - d).toNat (s.glT n) s
      let s0 := s0.setGlist n { s0.glist n with flight := (s0.glist n).flight.map (fun x => (x.1, ((x.2 : Int) + d).toNat)) }
      let s1 :=
        match (s0.glist n).pend with
        | none => s0
        | some st =>
          if st * tbUnit < s0.glT n + s0.get (pgGL n) F.GT_CFG_SETUP * 1000 * tbUnit then startLate n (fixStart n s0).1 else s0
      overrun n (glStat n s1)
    else s) s

/-! ### Meanings -/

/-- A write of GT_CTRL of list `n`. -/
def glCtrlWrite (fn n : Nat) (w : Word) (s : State) : State :=
  s.hostWrite fn (pgGL n + 0x0C0) w
    (fun s' _ => glCtrlAct n (s.bit (pgGL n) F.GT_CTRL_EN) (s.glTb n) w.toNat s')

def execConfigChange (fn : Fn) (list : Fin 64) (w : Word) (t : Nat) (s : State) : Res :=
  .next (glCtrlWrite fn.val list.val (w ||| maskBit 30) (s.at t))

def execGtCancel (fn : Fn) (list : Fin 64) (w : Word) (t : Nat) (s : State) : Res :=
  .next (glCtrlWrite fn.val list.val ((w ||| maskBit 29) &&& ~~~ maskBit 30) (s.at t))

def execGtDisable (fn : Fn) (list : Fin 64) (w : Word) (t : Nat) (s : State) : Res :=
  .next (glCtrlWrite fn.val list.val (w &&& 0x3FFFFFFF) (s.at t))

def execGtListStart (list : Fin 64) (t : Nat) (s : State) : Res := .next (glStart list.val (s.at t))

def execGtCopyDone (list : Fin 64) (s : State) : Res := .next (glCopyDone list.val s)

def execGtEntryChange (list : Fin 64) (t : Nat) (s : State) : Res := .next (glStat list.val (s.at t))

end Sys2Proof.Machine
end

