-- ==== Sys2Proof/Machine/Rings.lean ====
section
/-! DEFINITION. The host rings and the CXL window as every engine uses them (R351 to R354, R364 to R369). -/

namespace Sys2Proof.Machine

/-- The bytes of a word, low byte first. -/
def wordBytes (w : Nat) : List Byte := (List.range 4).map (fun i => BitVec.ofNat 8 (w / 2 ^ (8 * i)))

/-- The number a list of bytes spells, low byte first. -/
def leNat : List Byte → Nat
  | [] => 0
  | b :: r => b.toNat + 256 * leNat r

/-- The number a list of bytes spells, high byte first. -/
def beNat (l : List Byte) : Nat := l.foldl (fun n b => n * 256 + b.toNat) 0

/-- `n` bytes of a number, high byte first. -/
def beBytes (n v : Nat) : List Byte := (List.range n).map (fun i => BitVec.ofNat 8 (v / 2 ^ (8 * (n - 1 - i))))

/-! ### The CXL window (R364 to R369) -/

def rgBASE : TF := ⟨0, 19, 0⟩
def rgLAST : TF := ⟨1, 19, 0⟩
def rgEN : TF := ⟨2, 31, 31⟩
def rgSEC : TF := ⟨2, 30, 30⟩
def rgPEER : TF := ⟨2, 29, 29⟩
def rgPEERRO : TF := ⟨2, 28, 28⟩
def rgAPER : TF := ⟨2, 27, 27⟩

/-- Bytes of the data space (R364). -/
def State.cxlSize (s : State) : Nat := s.get (pgMX 0) F.MX_WIN_SIZE * 2 ^ 30 / 576 * 512

/-- Where data address `a` lies in the raw window, and where the check bits of its codeword lie (R364). -/
def cxlRaw (a : Nat) : Nat := a / 512 * 576 + a % 512
def cxlCheck (a : Nat) : Nat := a / 512 * 576 + 512 + 2 * (a % 512 / 16)

/-- The enabled region that holds a data address. -/
def State.regionOf (s : State) (a : Nat) : Option Entry :=
  (((s.rows (pgMX 1) 0).map (fun p => p.2)).filter (fun e =>
    eget e rgEN == 1 && decide (eget e rgBASE ≤ a / 2 ^ 20) && decide (a / 2 ^ 20 ≤ eget e rgLAST))).head?

/-- This device does not write the region: PEER_RO, or shared while this device is not the active one (R366, R419). -/
def State.peerRo (s : State) (e : Entry) : Bool :=
  eget e rgPEERRO == 1 || (eget e rgPEER == 1 && !(s.pxState == 4 || s.pxState == 5))

/-- What an MX access meets: 0 allowed, 1 to 4 the CAUSE of R366, 8 a world violation. -/
def State.mxCheck (s : State) (sec aper wr : Bool) (a n : Nat) : Nat :=
  if s.cxlSize < a + n then 3
  else
    match s.regionOf a, s.regionOf (a + n - 1) with
    | some e, some e' =>
      if !sec && (eget e rgSEC == 1 || eget e' rgSEC == 1) then 8
      else if aper && (eget e rgAPER == 0 || eget e' rgAPER == 0) then 4
      else if wr && (s.peerRo e || s.peerRo e') then 2
      else 0
    | _, _ => 1

/-- MX_REGION_FAULT, the first one latched (R366). -/
def mxFault (cause a : Nat) (s : State) : State :=
  let s1 :=
    if s.bit (pgMX 0) F.MX_FAULT_ADDR_HI_VALID then s
    else (((s.put (pgMX 0) F.MX_FAULT_ADDR_LO_ADDR a).put (pgMX 0) F.MX_FAULT_ADDR_HI_ADDR (a / 2 ^ 32)).put (pgMX 0)
      F.MX_FAULT_ADDR_HI_CAUSE cause).putBit (pgMX 0) F.MX_FAULT_ADDR_HI_VALID true
  s1.raise (pgMX 0) 2

/-- A refused MX access: a world violation, or a region fault. -/
def mxRefused (c fn : Nat) (wr : Bool) (a : Nat) (s : State) : State :=
  if c = 8 then s.violation 3 fn wr a else mxFault c a s

/-- The memory port carries traffic: its link is up and no IDE failure stops it. -/
def State.mxUp (s : State) : Bool := s.bit (pgMX 0) F.MX_LINK_UP && !s.raw (pgMX 0) 0 && !s.mx.stopped

/-- The codewords in the `n` bytes at `a` that hold an uncorrectable error. -/
def State.mxBad (s : State) (a n : Nat) : List Nat := s.mx.bad.filter (fun w => decide (a / 16 ≤ w) && decide (w < (a + n + 15) / 16))

/-- Read `n` bytes of the data space: none is poison. An uncorrectable codeword poisons the read (R42). -/
def mxRead (sec aper : Bool) (a n : Nat) (s : State) : Option (List Byte) × State :=
  let s1 := s.bump (pgMX 0) C.MX_RD_REQ
  if !s1.mxUp then (none, s1)
  else
    let c := s1.mxCheck sec aper false a n
    if c ≠ 0 then (none, mxRefused c (if sec then 0 else 1) false a s1)
    else
      match s1.mxBad a n with
      | [] => (some (memRead s1.cxl a n), s1)
      | l => (none, l.foldl (fun s w => eccUncorrectable 8 3 w s) s1)

/-- Write bytes to the data space: discarded where the access is refused or the port is down. A codeword written whole is good again;
one written in part is merged with what is read, so an uncorrectable one stays so (R364; DEDUCED, log entry 150). -/
def mxWrite (sec aper : Bool) (a : Nat) (d : List Byte) (s : State) : State :=
  let s1 := s.bump (pgMX 0) C.MX_WR_REQ
  if !s1.mxUp then s1.bump (pgMX 0) C.MX_WR_DISCARD
  else
    let c := s1.mxCheck sec aper true a d.length
    if c ≠ 0 then (mxRefused c (if sec then 0 else 1) true a s1).bump (pgMX 0) C.MX_WR_DISCARD
    else
      let whole (w : Nat) : Bool := decide (a ≤ 16 * w) && decide (16 * w + 16 ≤ a + d.length)
      { s1 with cxl := memWrite s1.cxl a d, mx := { s1.mx with bad := s1.mx.bad.filter (fun w => !whole w) } }

/-! ### Rings (R351 to R354) -/

/-- Store the entry of ring `r`. -/
def State.setRing (s : State) (r : Nat) (e : Entry) : State := s.setEnt (pgHX 1) 0 r e

/-- Change fields of a ring's entry, and send what its vector owes (R353). -/
def State.ringPut (s : State) (r : Nat) (f : TF) (v : Nat) : State :=
  State.settle s (s.setRing r (eput (ringEnt s r) f v))

/-- BASE of a ring. -/
def ringBase (e : Entry) : Nat := ew2 e 0 / 32 * 32

/-- Count in DROPS. -/
def ringDrop (r : Nat) (s : State) : State :=
  let e := ringEnt s r
  s.setRing r (eput e RF.DROPS (min (eget e RF.DROPS + 1) (2 ^ 32 - 1)))

/-- HX_RING_OVF with its source. -/
def ringOvf (r cause : Nat) (s : State) : State :=
  ((s.put (pgHX 0) F.HX_RING_OVF_SRC_RING r).put (pgHX 0) F.HX_RING_OVF_SRC_CAUSE cause).raise (pgHX 0) 2

/-- A full ring of a kind other than HIST and ADVICE: HX_RING_OVF at most once per second and ring (R353). -/
def ringFullNote (r : Nat) (s : State) : State :=
  let last := sget 0 s.hx.ovfAt r
  if s.secSince (if last = 0 then none else some (last - 1)) then
    ringOvf r 0 { s with hx := { s.hx with ovfAt := sset 0 s.hx.ovfAt r (s.now + 1) } }
  else s

/-- The ring is full (R352). -/
def ringFull (e : Entry) : Bool := (eget e RF.PIDX + 1) % max 1 (eget e RF.SIZE) == eget e RF.CIDX

/-- DMA of a function is possible: the host port is enabled, the link is up, and the function is in D0 (R50, R349, R358). -/
def State.dmaUp (s : State) (fn : Nat) : Bool := s.en (pgHX 0) && !s.raw (pgHX 0) 0 && !s.hx.d3.testBit fn

/-- Write to where a ring lies: host memory, or the CXL data space in the ring's world. -/
def ringWrite (r a : Nat) (d : List Byte) (s : State) : State :=
  if eget (ringEnt s r) RF.LOC = 1 then mxWrite (ringSecure s r) false a d s
  else { s with hostMem := memWrite s.hostMem a d }

/-- Write one record to a device-to-host ring (R352, R353): the state, and whether the record was written. -/
def ringPost (r : Nat) (slot : List Byte) (s : State) : Bool × State :=
  let e := ringEnt s r
  if eget e RF.EN = 0 then (false, s)
  else if !s.dmaUp (ringFn s r) then (false, ringDrop r s)
  else if ringFull e then
    if r = 243 then (false, s)
    else if 192 ≤ r ∧ r < 240 then (false, ringDrop r s)
    else (false, ringFullNote r (ringDrop r s))
  else
    let s1 := ringWrite r (ringBase e + eget e RF.PIDX * eget e RF.SLOT) (slot.take (eget e RF.SLOT)) s
    let p := (eget e RF.PIDX + 1) % max 1 (eget e RF.SIZE)
    let s2 := if eget e RF.WB = 1 then ringWrite r (ringBase e + eget e RF.SIZE * eget e RF.SLOT) (wordBytes p) s1 else s1
    (true, s2.ringPut r RF.PIDX p)

/-- The four words of a timestamp (R254, R354). -/
def stampWords (x : Stamp) : List Nat :=
  [x.sec % 2 ^ 32, x.epoch * 2 ^ 16 + x.sec / 2 ^ 32 % 2 ^ 16, x.ns, x.frac * 2 ^ 26]

/-- A 32-byte slot header (R354). -/
def slotHdr (kind stat flag len w1 w2 w3 : Nat) (ts : List Nat) : List Byte :=
  let w0 := kind * 2 ^ 28 + stat * 2 ^ 24 + flag * 2 ^ 23 + len % 2 ^ 16
  (([w0, w1, w2, w3] ++ (ts ++ [0, 0, 0, 0]).take 4).flatMap wordBytes)

/-- A slot waits on host-to-device ring `r`: its bytes, or poison; none where nothing waits or the ring is not read. A quiescing
host port takes no new slot (R49). -/
def ringPeek (r : Nat) (s : State) : Option (Option (List Byte)) × State :=
  let e := ringEnt s r
  if eget e RF.EN = 0 ∨ eget e RF.PIDX = eget e RF.CIDX ∨ s.dmaUp (ringFn s r) = false ∨ s.quiescing (pgHX 0) = true then (none, s)
  else
    let a := ringBase e + eget e RF.CIDX * eget e RF.SLOT
    if eget e RF.LOC = 1 then
      let x := mxRead (ringSecure s r) false a (eget e RF.SLOT) s
      (some x.1, x.2)
    else (some (some (memRead s.hostMem a (eget e RF.SLOT))), s)

/-- Consume the slot at CIDX. -/
def ringTake (r : Nat) (s : State) : State :=
  let e := ringEnt s r
  s.ringPut r RF.CIDX ((eget e RF.CIDX + 1) % max 1 (eget e RF.SIZE))

/-- A ring stops on a failed read (R359). -/
def ringStop (r : Nat) (s : State) : State :=
  let s1 := s.ringPut r RF.EN 0
  let s2 : State := if r = 241 then { s1 with hx := { s1.hx with injGen := s1.hx.injGen + 1 } } else s1
  ringOvf r 1 s2

/-- The next usable slot of a host-to-device ring of the given kind and length range: mis-made slots before it are
discarded into DROPS (R355). `n` bounds the slots looked at. -/
def ringNext (r kind lo hi : Nat) : Nat → State → Option (List Byte) × State
  | 0, s => (none, s)
  | n + 1, s =>
    let x := ringPeek r s
    match x.1 with
    | none => (none, x.2)
    | some none => (none, ringStop r x.2)
    | some (some d) =>
      let w0 := leNat (d.take 4)
      if w0 / 2 ^ 28 = kind ∧ lo ≤ w0 % 2 ^ 16 ∧ w0 % 2 ^ 16 ≤ hi then (some d, ringTake r x.2)
      else ringNext r kind lo hi n (ringDrop r (ringTake r x.2))

/-- LEN of a slot. -/
def slotLen (d : List Byte) : Nat := leNat (d.take 4) % 2 ^ 16

/-- Word `i` of a slot's header. -/
def slotWord (d : List Byte) (i : Nat) : Nat := leNat ((d.drop (4 * i)).take 4)

/-- The data of a slot. -/
def slotData (d : List Byte) : List Byte := (d.drop 32).take (slotLen d)

end Sys2Proof.Machine
end

