-- ==== Sys2Proof/Machine/Frame.lean ====
section
/-! DEFINITION. The frame of a port: its counter and targets, its header and codewords, and where in it the next XGEM frame will stand
(R91 to R96, R109 to R112, R119, R262). -/

namespace Sys2Proof.Machine

def State.pe (s : State) (n : Nat) : Pe := sget {} s.pes n

def State.modPe (s : State) (n : Nat) (f : Pe → Pe) : State := { s with pes := sset {} s.pes n (f (s.pe n)) }

/-- The span of the superframe counter. -/
def sfcSpan : Nat := 2 ^ 51

/-- A counter has reached or passed a frame (R100). -/
def passed (a target : Nat) : Bool := decide ((a + sfcSpan - target % sfcSpan) % sfcSpan < 2 ^ 50)

/-- Frames from `a` to `b`. -/
def sfcDiff (b a : Nat) : Nat := (b + sfcSpan - a % sfcSpan) % sfcSpan

/-- The first superframe boundary at least `d` frames after frame `f` (R112). -/
def boundaryAfter (f d : Nat) : Nat := (f + d + 7) / 8 * 8 % sfcSpan

/-- The frame that the engine prepares next. -/
def Pe.next (p : Pe) : Nat := (p.sfc + 1) % sfcSpan

/-- The first frame whose PLOAM messages are not yet selected (R104). -/
def Pe.unsel (p : Pe) : Nat := (p.sfc + if p.selDone then 2 else 1) % sfcSpan

def pe0 (n : Nat) : Nat := pgPE n 0

/-- 125,000 ns in parts of a nanosecond. -/
def framePeriod : Int := ((125000 * tbUnit : Nat) : Int)

/-- The engine whose settings govern port `n`'s boundary: the even one of a combo pair (R118). -/
def State.fbPort (s : State) (n : Nat) : Nat := if s.isLegacy n then n - 1 else n

def State.fbTb (s : State) (n : Nat) : Nat := s.get (pe0 (s.fbPort n)) F.PE_FB_CFG_TB
def State.fbT (s : State) (n : Nat) : Int := ((s.tb (s.fbTb n)).t : Int)
/-- Parts of a nanosecond in which the windows of R150, R151 and R178 are whole numbers. -/
def qUnit : Nat := 62208

/-- TU of an upstream frame, and a TU in parts of R178's nanosecond. -/
def State.frameTu (s : State) (n : Nat) : Nat := if s.isLegacy n then 38880 else 48600
def State.tu (s : State) (n : Nat) : Nat := if s.isLegacy n then 200000 else 160000

/-- PE_PIN_STAT of pin `p` (0 TXDIS, 1 BRST_RST_N, 2 RSSI_TRIG, 3 MON_SEL) shows a short, high or low. -/
def State.pinShort (s : State) (n p : Nat) : Bool := (s.reg (pe0 n + 0x078)).toNat / 4 ^ p % 4 != 0

/-- The fixed latency of a PTX lane, island to ball, in tenths of a nanosecond (R245). -/
def State.ptxLatency (s : State) (n : Nat) : Int := if s.isLegacy n then 386 else 142

/-- The allocation structures of a map (R174): one for each allocation and for each serial-number or ranging grant. -/
def GMap.structs (m : GMap) : Nat := (m.bursts.map (fun b => b.allocs.length)).foldl (· + ·) 0 + m.grants.length

/-- Bytes of the FS header (R92). -/
def hdrBytes (m : GMap) (msgs : List PMsg) : Nat := 4 + 8 * m.structs + 48 * msgs.length

/-- Codewords of a frame, and the payload bytes of codeword `c` (R91, R105, R119). -/
def State.cwCount (s : State) (n : Nat) : Nat := if s.isLegacy n then 627 else 360

def State.cwCap (s : State) (n c : Nat) : Nat :=
  if s.isLegacy n then 216
  else
    let lean := s.bit (pe0 n) F.PE_LZ_STATUS_OPEN && decide (s.get (pe0 n) F.PE_LZ_STATUS_CUR ≤ c)
    (if lean then 2016 else 1824) - (if c = 359 then 24 else 0)

/-- Payload bytes after codeword `c` in the frame. -/
def State.capAfter (s : State) (n c : Nat) : Nat :=
  ((List.range (s.cwCount n)).filter (fun i => decide (c < i))).foldl (fun a i => a + s.cwCap n i) 0

/-- Bytes an XGEM frame of `len` payload bytes takes (R94). -/
def xgemBytes (len : Nat) : Nat := 8 + (len + 3) / 4 * 4

/-- Payload bytes of a whole frame. -/
def State.frameCap (s : State) (n : Nat) : Nat := ((List.range (s.cwCount n)).map (s.cwCap n)).foldl (· + ·) 0

/-! ### Protection at a frame (R409, R428, R431) -/

/-- The PSBd instant of a frame of port `n` at the ball, in parts of a nanosecond on its time base (R245). -/
def State.psbdAt (s : State) (n f : Nat) : Int :=
  let p := s.pe n
  p.tg + p.e + (sfcDiff f p.sfc : Int) * framePeriod + (if f = p.sfc then 0 else p.corr * tbUnit) + s.ptxLatency n * tbUnit / 10

/-- What arrives upstream in a burst of the map of frame `f` is not this device's to forward: in SHADOW, but a device that handed over
at frame K still forwards the frames below K, and the one that took over only those from K on (R428, R431). -/
def State.pxUpDrops (s : State) (n f : Nat) : Bool :=
  s.protected_ n && match s.px.lastK with
    | none => s.pxState == 3
    | some k => if s.pxState = 3 then passed f k else (s.pxState == 4 || s.pxState == 5) && !passed f k

/-- The device that is to take over at K queues downstream from frame K − 1 (R431). -/
def State.queuesEarly (s : State) : Bool :=
  match s.px.k with
  | none => false
  | some k => passed ((s.pe s.refPort).sfc + 1) k

/-- The device that is to take over has released TXDIS, TX_LEAD before frame K (R431). -/
def State.txLead (s : State) (n : Nat) : Bool :=
  match s.px.k with
  | none => false
  | some k =>
    s.pxState == 3 && decide (s.psbdAt n k - s.ptxLatency n * tbUnit / 10 - s.fbT n ≤ ((s.get pgPX F.PX_CFG_TX_LEAD * 1000 * tbUnit : Nat) : Int))

/-! ### Where the next packet will stand (R93, R94, R262) -/

/-- The codeword that holds byte `x`, given the payload bytes of each: searched from `c` on. -/
def cwFind (cap : Nat → Nat) : Nat → Nat → Nat → Nat
  | 0, c, _ => c
  | k + 1, c, x => if x < cap c then c else cwFind cap k (c + 1) (x - cap c)

/-- The codeword of byte `x` of a frame's payload. -/
def State.cwOf (s : State) (n x : Nat) : Nat := cwFind (s.cwCap n) (s.cwCount n - 1) 0 x

/-- The end of an XGEM frame of `z` bytes that is placed after position `a` (frames ahead, byte), as a whole or in two (R94): `cap` bytes
in a frame, XGEM frames begin at `h` in the next. -/
def placeXgem (cap h : Nat) (a : Nat × Nat) (z : Nat) : Nat × Nat :=
  let room := cap - a.2
  if z ≤ room then (a.1, a.2 + z) else if 16 ≤ room then (a.1 + 1, h + 8 + (z - room)) else (a.1 + 1, h + z)

/-- Where it begins. -/
def placeStart (cap h : Nat) (a : Nat × Nat) (z : Nat) : Nat × Nat :=
  if z ≤ cap - a.2 ∨ 16 ≤ cap - a.2 then a else (a.1 + 1, h)

/-- Where the packets of the next frame begin: after its FS header and the circuit-frames. DESIGN CHOICE (log entry 146): while its map
or messages are not fixed they count at their limits, and its circuit-frames as those of the frame in progress. -/
def State.nextHead (s : State) (n : Nat) : Nat :=
  let p := s.pe n
  p.ceLen + match p.hdr with
    | some (m, msgs) => hdrBytes m msgs
    | none =>
      4 + (match (sget {} s.gps n).sealed_ with | some m => 8 * m.structs | none => 4096) +
        48 * (if p.selDone then p.sel.length else s.get (pe0 n) F.PE_DS_CFG_PLOAM_MAX)

/-- Where the encapsulator's contents end: what the framer has passed, the XGEM frame in progress, its continuation, circuit-frames and
packets. -/
def State.encEnd (s : State) (n : Nat) : Nat × Nat :=
  let p := s.pe n
  let zs := (match p.cont with | some (i, d) => [xgemBytes (i.len - d)] | none => []) ++ p.ce.map (fun q => xgemBytes q.2.length) ++
    p.enc.map (fun i => xgemBytes i.len)
  zs.foldl (placeXgem (s.frameCap n) (s.nextHead n)) (0, p.pos + p.prog)

/-- The first bit of codeword `c` of the frame `k` frames ahead at the ball, in parts of a nanosecond on the port's time base: codewords
of 17,280 bits at 49.7664 Gb/s, or of 1,984 bits at 9.95328 Gb/s on a legacy half, after a PSBd of 192 bits (R93, R119, R245). -/
def State.cwInstant (s : State) (n k c : Nat) : Int :=
  let p := s.pe n
  let bits := if s.isLegacy n then (192 + 1984 * c) * 100000 * tbUnit / 995328 else (192 + 17280 * c) * 10000 * tbUnit / 497664
  p.tg + p.e + (k : Int) * framePeriod + (if k = 0 then 0 else p.corr * tbUnit) + s.ptxLatency n * tbUnit / 10 + bits

/-- A packet of `len` bytes on a PON port (R262): from now to the first bit of the codeword with its first byte, and from there to the
last bit of the last codeword it occupies, in parts of a nanosecond. -/
def State.ponSpan (s : State) (n len : Nat) : Int × Nat :=
  let cap := s.frameCap n
  let h := s.nextHead n
  let a := s.encEnd n
  let b := placeStart cap h a (xgemBytes len)
  let e := placeXgem cap h a (xgemBytes len)
  let start := s.cwInstant n b.1 (s.cwOf n b.2)
  (start - s.fbT n, (s.cwInstant n e.1 (s.cwOf n (e.2 - 1) + 1) - start).toNat)

end Sys2Proof.Machine
end

