-- ==== Sys2Proof/Machine/Tm.lean ====
section
/-! DEFINITION. Chapters 09 and 11: the two trees, token buckets, policers, congestion checks, flushes and latency
observation (R209 to R233, R267 to R274). -/

namespace Sys2Proof.Machine

def pTM : Nat := pgTM 0

/-! Fields of a node or queue entry (R230). -/
def nVALID : TF := ⟨0, 31, 31⟩
def nEN : TF := ⟨0, 30, 30⟩
def nPRIO : TF := ⟨0, 29, 27⟩
def nWEIGHT : TF := ⟨0, 26, 19⟩
def nCLR : TF := ⟨0, 18, 18⟩
def nTCLS : TF := ⟨0, 17, 15⟩
def nPARENT : TF := ⟨0, 14, 0⟩
def nCIR : TF := ⟨1, 27, 0⟩
def nCBS : TF := ⟨2, 23, 0⟩
def nPIR : TF := ⟨3, 27, 0⟩
def nPBS : TF := ⟨4, 23, 0⟩
def nDPROF : TF := ⟨5, 31, 24⟩
def nPOOL : TF := ⟨5, 23, 20⟩
def nSAMPLEK : TF := ⟨5, 19, 16⟩
def nXGEM : TF := ⟨5, 15, 0⟩
def nADJ : TF := ⟨5, 7, 0⟩
def nDEPTH : TF := ⟨6, 31, 0⟩
def nAVG : TF := ⟨7, 31, 0⟩
def nCHILDREN : TF := ⟨7, 17, 0⟩
def nTC : TF := ⟨8, 31, 0⟩
def nTP : TF := ⟨9, 31, 0⟩

/-- The counts of a node table (R209). -/
def tmSize (tid : Nat) : Nat := [65536, 32768, 26624, 48, 4096, 1024, 256, 16, 256].getD tid 0

/-- A queue table; a root table. -/
def isQ (tid : Nat) : Bool := tid == 0 || tid == 4
def isRoot (tid : Nat) : Bool := tid == 3 || tid == 7

def State.node (s : State) (tid i : Nat) : Entry := s.ent pTM tid i
def State.setNode (s : State) (tid i : Nat) (e : Entry) : State := s.setEnt pTM tid i e
def State.nget (s : State) (tid i : Nat) (f : TF) : Nat := eget (s.node tid i) f
def State.nodeValid (s : State) (tid i : Nat) : Bool := decide (i < tmSize tid) && (s.nget tid i nVALID == 1)

/-- From an entry up to its root: (table, index) pairs, the entry first. -/
def pathUp (s : State) : Nat → Nat → Nat → List (Nat × Nat)
  | 0, _, _ => []
  | n + 1, tid, i => (tid, i) :: if isRoot tid then [] else pathUp s n (tid + 1) (s.nget tid i nPARENT)

def State.path (s : State) (tid i : Nat) : List (Nat × Nat) := pathUp s 4 tid i

/-- The root index above an entry. -/
def State.rootOf (s : State) (tid i : Nat) : Nat := match (s.path tid i).getLast? with | some p => p.2 | none => 0

/-- The children of a node: indices in the table below. -/
def State.kids (s : State) (tid i : Nat) : List Nat :=
  if tid = 0 ∨ tid = 4 then []
  else ((s.rows pTM (tid - 1)).filter (fun p => eget p.2 nVALID == 1 && eget p.2 nPARENT == i)).map (fun p => p.1)

def State.tmq (s : State) (tid q : Nat) : TmQ := sget {} s.tm.qs (tkey pTM tid q)

def State.setTmq (s : State) (tid q : Nat) (x : TmQ) : State :=
  { s with tm := { s.tm with qs := sset {} s.tm.qs (tkey pTM tid q) x } }

/-! ### Buckets (R211, R212) -/

/-- A bucket in 1/1,000 byte: 0 is TC, 1 is TP (or TE of a policer). -/
def State.mil (s : State) (key b : Nat) : Int := sget 0 s.tm.mil (key * 2 + b)

/-- Set a bucket; its table word shows whole bytes, rounded toward minus infinity. -/
def setMil (pg tid i b wordNo : Nat) (x : Int) (s : State) : State :=
  let s1 : State := { s with tm := { s.tm with mil := sset 0 s.tm.mil (tkey pg tid i * 2 + b) x } }
  s1.setEnt pg tid i (ewPut (s1.ent pg tid i) wordNo (ofSigned 32 (x / 1000)))

def setTC (tid i : Nat) (x : Int) : State → State := setMil pTM tid i 0 8 x
def setTP (tid i : Nat) (x : Int) : State → State := setMil pTM tid i 1 9 x
def State.tc (s : State) (tid i : Nat) : Int := s.mil (tkey pTM tid i) 0
def State.tp (s : State) (tid i : Nat) : Int := s.mil (tkey pTM tid i) 1

/-- ADJ of the root of an entry's tree, signed. -/
def State.adjOf (s : State) (tid i : Nat) : Int :=
  let up := if tid < 4 then 3 else 7
  toSigned 8 (s.nget up (s.rootOf tid i) nADJ)

/-- The charged length of a packet (R211). -/
def State.charged (s : State) (tid q len : Nat) : Nat :=
  let b : Int := if tid < 4 then ((len + 3) / 4 * 4 : Nat) else (len : Nat)
  (b + s.adjOf tid q).toNat

/-- One update of a node's buckets (R212). -/
def nodeTick (tid i : Nat) (s : State) : State :=
  let e := s.node tid i
  let cap (lvl : Int) (rate depth : Nat) : Int := min (lvl + rate) ((depth * 1000 : Nat) : Int)
  let s1 := setTC tid i (cap (s.tc tid i) (eget e nCIR) (eget e nCBS)) s
  if eget e nPIR = 0 then s1 else setTP tid i (cap (s1.tp tid i) (eget e nPIR) (eget e nPBS)) s1

/-! ### Node states and selection (R213 to R216) -/

/-- The rates and depths of a table entry. -/
def ratesOf (e : Entry) : Rates := ⟨eget e nCIR, eget e nCBS, eget e nPIR, eget e nPBS⟩

/-- The rates and depths of a node in effect: those of its entry, or until the next update after a WRITE those before it (R226). -/
def State.rates (s : State) (tid i : Nat) : Rates :=
  match sget none s.tm.oldRates (tkey pTM tid i) with | some r => r | none => ratesOf (s.node tid i)

/-- Set or clear what a node keeps in effect until the next update. -/
def setRates (tid i : Nat) (r : Option Rates) (s : State) : State :=
  { s with tm := { s.tm with oldRates := sset none s.tm.oldRates (tkey pTM tid i) r } }

/-- R213: 0 committed, 1 peak, 2 blocked. -/
def State.nodeState (s : State) (tid i : Nat) : Nat :=
  let e := s.rates tid i
  let peak := e.pir == 0 || decide (0 < s.tp tid i)
  if e.cir ≠ 0 ∧ 0 < s.tc tid i ∧ peak = true then 0 else if peak then 1 else 2

/-- From now to the start of a packet at the ball, and its transmission time, in parts of a nanosecond (R262): on a PON port as it will
stand in the codewords, on an uplink from the first bit of its preamble at the group's rate. DESIGN CHOICE (log entry 147): the preamble
leaves the island at the dequeue. -/
def State.txSpan (s : State) (tree len charged : Nat) : Int × Nat :=
  if tree < 48 then s.ponSpan tree len
  else
    let g := tree - 48
    (ulnTxLatency (s.get (pgLN (96 + g)) F.LN_CFG_RATE) * tbUnit / 10, charged * 8 * tbUnit / max 1 (s.groupRate g))

/-- A queue is backlogged (R213): it holds a packet, is not blocked, and its class is open long enough. -/
def State.qBacklogged (s : State) (tree tid q : Nat) : Bool :=
  match (s.tmq tid q).pkts with
  | [] => false
  | p :: _ => s.nodeState tid q != 2 && s.classOpenAt tree (s.nget tid q nTCLS) (s.txSpan tree p.len p.charged)

/-- A node or queue is backlogged; `n` is the number of levels below. -/
def backlogged (s : State) (tree : Nat) : Nat → Nat → Nat → Bool
  | 0, tid, i => s.qBacklogged tree tid i
  | n + 1, tid, i =>
    (s.nget tid i nEN == 1) && (s.nodeState tid i != 2) && (s.kids tid i).any (backlogged s tree n (tid - 1))

/-- A child is backlogged, by its key (R213). -/
def State.keyBacklogged (s : State) (k : Nat) : Bool :=
  let tid := k / 2 ^ 24 % 16
  let i := k % 2 ^ 24
  backlogged s (s.rootOf tid i + if tid < 4 then 0 else 48) (tid % 4) tid i

/-- Children that are no longer backlogged have no deficits (R215). -/
def dfcSettle (s : State) : State := { s with tm := { s.tm with dfc := skeep s.keyBacklogged s.tm.dfc } }

/-- The deficits of a child (R215). -/
def State.dfc (s : State) (key : Nat) : Int × Int := sget (0, 0) s.tm.dfc key

def State.setDfc (s : State) (key : Nat) (d : Int × Int) : State :=
  { s with tm := { s.tm with dfc := sset (0, 0) s.tm.dfc key d } }

def pick (pass : Nat) (d : Int × Int) : Int := if pass = 0 then d.1 else d.2
def unpick (pass : Nat) (d : Int × Int) (x : Int) : Int × Int := if pass = 0 then (x, d.2) else (d.1, x)

/-- The children from the pointer on, then the others. -/
def rotate (ptr : Nat) (l : List Nat) : List Nat := l.filter (fun i => ptr ≤ i) ++ l.filter (fun i => i < ptr)

/-- DWRR (R215): serve the child at the pointer while its deficit is above 0, else it gains and the pointer moves on.
The pointer is kept by parent, pass and priority. -/
def dwrr (ptid pidx pass prio : Nat) (kids : List Nat) : Nat → State → Option Nat × State
  | 0, s => (kids.head?, s)
  | n + 1, s =>
    let key := (tkey pTM ptid pidx * 2 + pass) * 8 + prio
    match rotate (sget 0 s.tm.rr key) kids with
    | [] => (none, s)
    | c :: _ =>
      let k := tkey pTM (ptid - 1) c
      let d := pick pass (s.dfc k)
      if 0 < d then (some c, { s with tm := { s.tm with rr := sset 0 s.tm.rr key c } })
      else
        let q := s.nget (ptid - 1) c nWEIGHT * s.get pTM F.TM_CFG_QUANT * 64
        let s1 := s.setDfc k (unpick pass (s.dfc k) (d + q))
        let next := match (kids.filter (fun i => c < i)) with | [] => 0 | x :: _ => x
        dwrr ptid pidx pass prio kids n { s1 with tm := { s1.tm with rr := sset 0 s1.tm.rr key next } }

/-- One node selects among its children (R214): the child and the step that chose it. `lv` is the child's level. -/
def selectChild (tree lv tid i : Nat) (s : State) : Option (Nat × Nat) × State :=
  let all := s.kids tid i
  let ready := all.filter (backlogged s tree lv (tid - 1))
  let s0 := (all.filter (fun c => !ready.contains c)).foldl (fun s c => s.setDfc (tkey pTM (tid - 1) c) (0, 0)) s
  let inC := ready.filter (fun c => s.nodeState (tid - 1) c == 0)
  let pass := if inC.isEmpty then 1 else 0
  let set := if inC.isEmpty then ready else inC
  let prio := set.foldl (fun m c => min m (s.nget (tid - 1) c nPRIO)) 7
  let lvl := set.filter (fun c => s.nget (tid - 1) c nPRIO == prio)
  let r := dwrr tid i pass prio lvl (lvl.length * 300 + 1) s0
  match r.1 with
  | none => (none, r.2)
  | some c => (some (c, pass), r.2)

/-- The selected path from a root down: (table, index, step that chose it), the queue last. -/
def selectPath (tree : Nat) : Nat → Nat → Nat → State → Option (List (Nat × Nat × Nat)) × State
  | 0, _, _, s => (some [], s)
  | n + 1, tid, i, s =>
    let r := selectChild tree n tid i s
    match r.1 with
    | none => (none, r.2)
    | some (c, pass) =>
      let d := selectPath tree n (tid - 1) c r.2
      match d.1 with
      | none => (none, d.2)
      | some p => (some ((tid - 1, c, pass) :: p), d.2)

/-- Charge the packet to one node of its path (R214, R215) and count it. -/
def chargeNode (len : Nat) (p : Nat × Nat × Nat) (s : State) : State :=
  let tid := p.1
  let i := p.2.1
  let l : Int := ((len * 1000 : Nat) : Int)
  let s1 := if (s.rates tid i).pir = 0 then s else setTP tid i (s.tp tid i - l) s
  let s2 := if p.2.2 = 0 then setTC tid i (s1.tc tid i - l) s1 else s1
  let k := tkey pTM tid i
  let d := s2.dfc k
  let s3 := if p.2.2 < 2 then s2.setDfc k (unpick p.2.2 d (pick p.2.2 d - len)) else s2
  let e3 := s3.node tid i
  s3.setNode tid i (ew2Put (ewPut e3 10 (ew e3 10 + 1)) 11 (ew2 e3 11 + len))

/-- DEPTH_B changes on a whole path. -/
def depthAdd (tid q : Nat) (x : Int) (s : State) : State :=
  (s.path tid q).foldl (fun s p => s.setNode p.1 p.2 (eput (s.node p.1 p.2) nDEPTH (((s.nget p.1 p.2 nDEPTH : Nat) : Int) + x).toNat)) s

/-- Take the head packet off a queue. -/
def popQueue (tid q : Nat) (s : State) : State :=
  let x := s.tmq tid q
  match x.pkts with
  | [] => s
  | p :: r =>
    let s1 := s.setTmq tid q { x with pkts := r, emptyAt := if r.isEmpty then s.now else x.emptyAt }
    let s2 := depthAdd tid q (-(p.charged : Int)) s1
    if r.isEmpty then s2.setDfc (tkey pTM tid q) (0, 0) else s2

/-! ### The packets behind the handles -/

def dropPkt (h : Nat) (s : State) : State := { s with tm := { s.tm with pkts := s.tm.pkts.filter (fun p => p.1 != h) } }

/-- The packet's buffer is gone or free: forget what it held. -/
def forget (h : Nat) (s : State) : State := if isHeadHdr (s.hdr h) then s else dropPkt h s

/-- The record of an injected packet. -/
def State.injOf (s : State) (h : Nat) : Option Inj := (s.hx.inj.find? (fun p => p.1 == h)).map (fun p => p.2)

/-- Write one INJ_CPL record (R356), unless the INJECT ring that carried the packet was stopped since. -/
def injCpl (gen stat flag : Nat) (cookie : Word) (ts : Stamp) (s : State) : State :=
  if gen = s.hx.injGen then
    (ringPost 242 (slotHdr 7 stat flag 0 cookie.toNat 0 0 (if flag = 1 then stampWords ts else [])) s).2
  else s

/-- The LAST notice of a packet (R314, R356): the host port frees it and completes an injected one; another engine is told. -/
def lastNotice (fin h : Nat) (s : State) : State :=
  if fin = 65 then
    let s1 := forget h (freeChain h s)
    match s.injOf h with
    | none => s1
    | some x =>
      let s2 : State := { s1 with hx := { s1.hx with inj := s1.hx.inj.filter (fun p => p.1 != h) } }
      let flag := if x.tsReq && decide (x.uplinks = 1) then 1 else 0
      injCpl x.gen (if x.sent then 0 else 3) flag x.cookie x.stamp s2
  else s.emit (.lastNotice fin h)

/-- A RELEASE by an engine, with its notice. -/
def releaseRef (h req : Nat) (s : State) : State := forget h (release h req lastNotice s)

/-- A copy of an injected packet was sent or discarded (R356). -/
def injMark (h : Nat) (f : Inj → Inj) (s : State) : State :=
  { s with hx := { s.hx with inj := s.hx.inj.map (fun p => if p.1 = h then (p.1, f p.2) else p) } }

/-- An owner gives up a reference to a packet it drops: FREE where it is the FINISHER, else RELEASE. -/
def dropRef (h req : Nat) (s : State) : State :=
  let s1 := injMark h (fun x => { x with sent := false }) s
  if hbits (s1.hdr h) 53 47 = req then
    match s1.injOf h with
    | none => forget h (free h req s1)
    | some x =>
      let s2 : State := { forget h (free h req s1) with hx := { s1.hx with inj := s1.hx.inj.filter (fun p => p.1 != h) } }
      injCpl x.gen 3 0 x.cookie {} s2
  else releaseRef h req s1

/-! ### Congestion (R223 to R225) -/

def dpTAIL (c : Nat) : TF := ⟨1 + 3 * c, 23, 0⟩
def dpPMAX (c : Nat) : TF := ⟨2 + 3 * c, 31, 24⟩
def dpMIN (c : Nat) : TF := ⟨2 + 3 * c, 23, 0⟩
def dpMAX (c : Nat) : TF := ⟨3 + 3 * c, 23, 0⟩
def dpWED : TF := ⟨0, 31, 31⟩
def dpW : TF := ⟨0, 3, 0⟩

/-- The average of a queue at an arrival (R224), in 1/65,536 byte, rounded toward minus infinity. -/
def State.newAvg (s : State) (tid q : Nat) : Nat :=
  let x := s.tmq tid q
  let depth := s.nget tid q nDEPTH
  let w := eget (s.ent pTM 8 (s.nget tid q nDPROF)) dpW
  let idle := depth = 0 ∧ x.emptyAt + s.get pTM F.TM_CFG_IDLE_RST * cyclesPerSec / 1000000 ≤ s.now
  let a : Int := if idle then 0 else x.avg
  (a + ((depth * 65536 : Nat) - a) / ((2 ^ w : Nat) : Int)).toNat

/-- The early-drop decision (R224): dropped or not, and the state after its draw. -/
def wedDrop (prof c avg : Nat) (s : State) : Bool × State :=
  let e := s.ent pTM 8 prof
  let lo := eget e (dpMIN c) * 64 * 65536
  let hi := eget e (dpMAX c) * 64 * 65536
  if eget e dpWED = 0 ∨ avg < lo then (false, s)
  else if hi ≤ avg then (true, s)
  else
    let d := s.draw
    (decide (d.1 % 65536 * (hi - lo) < eget e (dpPMAX c) * 256 * (avg - lo)), d.2)

/-- Count a drop of checks 2 to 4 (R225), in word `wordNo` of the queue and in its tree. -/
def tmDrop (tid q wordNo : Nat) (s : State) : State :=
  let e := s.node tid q
  let s1 := s.setNode tid q (ewPut e wordNo (min (ew e wordNo + 1) (2 ^ 32 - 1)))
  let tree := s.rootOf tid q + if tid < 4 then 0 else 48
  { s1 with tm := { s1.tm with drops := sset 0 s1.tm.drops tree (sget 0 s1.tm.drops tree + 1) } }

/-- Check 3 of R223 at the average `avg`: 0 passed, or 3. -/
def tmWed (tid q prof c avg : Nat) (s : State) : Nat × State :=
  match wedDrop prof c avg s with
  | (true, s1) => (3, tmDrop tid q 14 s1)
  | (false, s1) => (0, s1)

/-- Checks 2 and 3 of R223 at the average `avg`, which the node shows: 0 passed, or the check that failed. -/
def tmThreshold (tid q c len avg : Nat) (s : State) : Nat × State :=
  if eget (s.ent pTM 8 (s.nget tid q nDPROF)) (dpTAIL c) * 64 < s.nget tid q nDEPTH + s.charged tid q len then
    (2, tmDrop tid q 13 s)
  else tmWed tid q (s.nget tid q nDPROF) c avg s

/-- Checks 1 to 3 of R223 for one copy: 0 passed, or the check that failed. -/
def tmChecks (tid q c len : Nat) (s : State) : Nat × State :=
  if !s.nodeValid tid q || s.nget tid q nEN == 0 then (1, s.bump pTM C.TM_DROP_DIS)
  else tmThreshold tid q c len (s.newAvg tid q)
    ((s.setTmq tid q { s.tmq tid q with avg := s.newAvg tid q }).setNode tid q (eput (s.node tid q) nAVG (s.newAvg tid q / 65536)))

/-- Check every copy of an offer: the copies that pass, and the first failing check among the others. -/
def tmCheckAll (c len : Nat) : List (Nat × Nat) → State → List (Nat × Nat) × State
  | [], s => ([], s)
  | (tid, q) :: r, s =>
    let x := tmChecks tid q c len s
    let y := tmCheckAll c len r x.2
    (if x.1 = 0 then (tid, q) :: y.1 else y.1, y.2)

/-- Draw whether a packet is sampled (R267), and put it at the tail of its queue. -/
def tmPut (h len : Nat) (p : Nat × Nat) (s : State) : State :=
  let l := s.charged p.1 p.2 len
  let s1 := depthAdd p.1 p.2 l s
  let k := s1.nget p.1 p.2 nSAMPLEK
  let en := s1.bit (pgTM 2) F.TM_LAT_CFG_EN
  let d := if en && decide (0 < k) then s1.draw else (0, s1)
  let b := d.2.tb (d.2.get (pgTM 2) F.TM_LAT_CFG_TB)
  let sample := if en && decide (d.1 % 2 ^ k = 0) then some (b.t / tbUnit % 2 ^ 40, b.epoch, d.2.nget p.1 p.2 nDEPTH) else none
  let x := d.2.tmq p.1 p.2
  d.2.setTmq p.1 p.2 { x with pkts := x.pkts ++ [{ handle := h, len := len, charged := l, sample := sample }] }

/-- Offer a packet to its queues (R223, R317): a packet for several queues is shared at enqueue. -/
def tmEnqueue (o : Offer) (s0 : State) : State :=
  let s := dfcSettle s0
  let len := o.pkt.bytes.length
  let x := tmCheckAll o.pkt.colour len o.dests s
  let data (p : Nat × Nat) := x.2.poolData (x.2.nget p.1 p.2 nPOOL)
  match x.1 with
  | [] => match o.inj with | none => x.2 | some i => injCpl x.2.hx.injGen 1 0 i.1 {} x.2
  | p :: _ =>
    let a := alloc (x.2.nget p.1 p.2 nPOOL) ((o.pkt.orig.getD len + data p - 1) / data p) o.pkt.charge 64 x.2
    match a.1 with
    | .error _ =>
      let s1 := x.1.foldl (fun s q => tmDrop q.1 q.2 15 s) a.2
      match o.inj with | none => s1 | some i => injCpl s1.hx.injGen 2 0 i.1 {} s1
    | .ok h =>
      let s1 : State := { a.2 with tm := { a.2.tm with pkts := (h, o.pkt) :: a.2.tm.pkts } }
      let s2 := match o.inj with
        | none => s1
        | some i => { s1 with hx := { s1.hx with inj := (h, { gen := s1.hx.injGen, cookie := i.1, tsReq := i.2 }) :: s1.hx.inj } }
      let c := o.dests.length
      let s3 := if c ≤ 1 then s2 else share h (x.1.length + 1) (if o.inj.isSome then 65 else 127) 64 s2
      x.1.foldl (fun s q => tmPut h len q s) s3

/-- Offer a packet: TM_ENQUEUE takes offers in order. -/
def offer (o : Offer) (s : State) : State := { s with tm := { s.tm with offers := s.tm.offers ++ [o] } }

/-- An offer that the disabled or quiescing traffic manager does not take: every copy is dropped as at a disabled queue. -/
def tmRefuse (o : Offer) (s : State) : State :=
  let s1 := s.bump pTM C.TM_DROP_DIS o.dests.length
  match o.inj with | none => s1 | some i => injCpl s1.hx.injGen 1 0 i.1 {} s1

/-- TM_DROP_RATE at the end of an interval (R225): the tree with the largest count. -/
def tmDropRate (s : State) : State :=
  let best := s.tm.drops.foldl (fun (b : Nat × Nat) p => if b.2 < p.2 then p else b) (0, 0)
  let s1 : State := { s with tm := { s.tm with drops := [] } }
  if s.get pTM F.TM_DROP_CFG_THR < best.2 then
    ((s1.putBit pTM F.TM_DROP_SRC_UP (decide (48 ≤ best.1))).put pTM F.TM_DROP_SRC_TREE
      (if 48 ≤ best.1 then best.1 - 48 else best.1)).raise pTM 0
  else s1

/-! ### Flush (R228) -/

/-- Drop every packet of a queue. -/
def flushQueue (tid q : Nat) (s : State) : State :=
  let x := s.tmq tid q
  let s1 := x.pkts.foldl (fun s p => (dropRef p.handle 64 s).bump pTM C.TM_FLUSHED) s
  let s2 := depthAdd tid q (-((s1.nget tid q nDEPTH : Nat) : Int)) s1
  dfcSettle (((s2.setTmq tid q { emptyAt := s.now }).setNode tid q (eput (s2.node tid q) nAVG 0)).setDfc (tkey pTM tid q) (0, 0))

/-- A write of TM_CMD: OP 0 does nothing (R228, R522). -/
def tmCommand (w : Nat) (s : State) : State :=
  let op := fld w 31 28
  let tid := if op = 1 then 0 else 4
  if op = 0 then s
  else if s.bit pTM F.TM_CMD_STAT_BUSY ∨ (op ≠ 1 ∧ op ≠ 2) ∨ s.nodeValid tid (fld w 15 0) = false then
    s.putBit pTM F.TM_CMD_STAT_REJ true
  else (flushQueue tid (fld w 15 0) s).putBit pTM F.TM_CMD_STAT_BUSY true

/-! ### Node-table commands (R219, R226, R227, R230) -/

/-- The capacity of a root (R219). -/
def State.rootCapacity (s : State) (tid i : Nat) : Nat :=
  if tid = 3 then (if s.isLegacy i then 1083456 else 5252928)
  else if s.groupExists i then s.groupRate i * 125000 else 0

/-- A node's limit on its children's CIR: none where there is no limit. -/
def State.cirLimit (s : State) (tid i : Nat) (e : Entry) : Option Nat :=
  if eget e nCIR ≠ 0 then some (eget e nCIR)
  else if eget e nPIR ≠ 0 then some (eget e nPIR)
  else if isRoot tid then some (s.rootCapacity tid i)
  else none

/-- The children's CIR sum meets the node's limit. -/
def State.cirOk (s : State) (tid i : Nat) : Bool :=
  match s.cirLimit tid i (s.node tid i) with
  | none => true
  | some m => decide (((s.kids tid i).foldl (fun n c => n + s.nget (tid - 1) c nCIR) 0) ≤ m)

/-- Both buckets of a node are full, as on creation (R212). -/
def fillNode (tid i : Nat) (s : State) : State :=
  let e := s.node tid i
  setTP tid i ((eget e nPBS * 1000 : Nat) : Int) (setTC tid i ((eget e nCBS * 1000 : Nat) : Int) s)

/-- Add to CHILDREN of a node. -/
def kidsAdd (tid i : Nat) (x : Int) (s : State) : State :=
  s.setNode tid i (eput (s.node tid i) nCHILDREN (((s.nget tid i nCHILDREN : Nat) : Int) + x).toNat)

/-- WRITE or a successful CAS of a node or queue: the TBL code (0 OK, 7 DENIED) and the state. -/
def tmNodeWrite (tid i : Nat) (d : Entry) (s : State) : Nat × State :=
  let old := s.node tid i
  let isNew := eget old nVALID == 0
  let root := isRoot tid
  let bad :=
    (!root && !s.nodeValid (tid + 1) (eget d nPARENT)) || eget d nWEIGHT == 0 ||
    (eget d nPIR != 0 && decide (eget d nPIR < eget d nCIR)) ||
    (eget d nCIR != 0 && decide (eget d nCBS < 64)) || (eget d nPIR != 0 && decide (eget d nPBS < 64)) ||
    (root && eget d nCIR != 0)
  let moved := !root && !isNew && eget d nPARENT != eget old nPARENT
  let oldRoot := s.rootOf tid i
  let newRoot := s.rootOf (tid + 1) (eget d nPARENT)
  let cross := moved && decide (tid < 4) && eget old nDEPTH != 0 && oldRoot != newRoot
  if bad || cross then (7, s.cfgRej pTM)
  else
    let clr := eget d nCLR == 1
    let low := eput (eput (eLow d 6) nVALID 1) nCLR 0
    let low := if isQ tid then low else eput low nTCLS 0
    let hw : Entry := BitVec.ofNat 512 (old.toNat / 2 ^ 192 * 2 ^ 192)
    let hw := if clr then eLow hw 10 else hw
    let e := low ||| hw
    let depth : Int := (eget old nDEPTH : Nat)
    let s1 := if moved then depthAdd (tid + 1) (eget old nPARENT) (-depth) (kidsAdd (tid + 1) (eget old nPARENT) (-1) s) else s
    let s2 := s1.setNode tid i e
    let s3 := if moved then (depthAdd (tid + 1) (eget d nPARENT) depth (kidsAdd (tid + 1) (eget d nPARENT) 1 s2)).setDfc (tkey pTM tid i) (0, 0)
              else if isNew && !root then kidsAdd (tid + 1) (eget d nPARENT) 1 s2 else s2
    let s4 := if isNew then fillNode tid i s3 else setRates tid i (some (s.rates tid i)) s3
    let excess := s.bit pTM F.TM_CFG_CIR_CHECK && (!(isQ tid || s4.cirOk tid i) || !(root || s4.cirOk (tid + 1) (eget d nPARENT)))
    if excess then (7, s.cfgRej pTM) else (0, dfcSettle s4)

/-- DELETE of a node or queue (R227). -/
def tmNodeDelete (tid i : Nat) (s : State) : Nat × State :=
  let e := s.node tid i
  if isRoot tid || eget e nDEPTH != 0 || (!isQ tid && eget e nCHILDREN != 0) then (7, s)
  else
    let k := tkey pTM tid i
    let s1 := kidsAdd (tid + 1) (eget e nPARENT) (-1) (s.setNode tid i 0)
    (0, ({ s1 with tm := { s1.tm with mil := sset 0 (sset 0 s1.tm.mil (k * 2) 0) (k * 2 + 1) 0,
                                       qs := sset {} s1.tm.qs k {}, oldRates := sset none s1.tm.oldRates k none } } : State).setDfc k
        (0, 0))

/-- WRITE of a drop profile (R231). -/
def dropProfileWrite (i : Nat) (d : Entry) (s : State) : Nat × State :=
  let bad := eget d dpWED == 1 && (List.range 3).any (fun c =>
    decide (eget d (dpMAX c) < eget d (dpMIN c)) || decide (eget d (dpTAIL c) < eget d (dpMAX c)))
  if bad then (7, s.cfgRej pTM) else (0, s.setNode 8 i (eLow d 10))

/-! ### Policers (R220 to R222, R232) -/

def plEN : TF := ⟨0, 31, 31⟩
def plMODE : TF := ⟨0, 30, 30⟩
def plAWARE : TF := ⟨0, 29, 29⟩
def plREDDROP : TF := ⟨0, 28, 28⟩
def plCLR : TF := ⟨0, 0, 0⟩
def plCIR : TF := ⟨1, 27, 0⟩
def plCBS : TF := ⟨2, 23, 0⟩
def plPIR : TF := ⟨3, 27, 0⟩
def plEBS : TF := ⟨4, 23, 0⟩

def pPL : Nat := pgTM 1

def State.plBucket (s : State) (i b : Nat) : Int := s.mil (tkey pPL 0 i) b
def setPl (i b : Nat) (x : Int) : State → State := setMil pPL 0 i b (5 + b) x

/-- WRITE of a policer. -/
def policerWrite (i : Nat) (d : Entry) (s : State) : Nat × State :=
  let bad := (eget d plMODE == 1 && decide (eget d plPIR < eget d plCIR)) ||
    (eget d plCIR != 0 && decide (eget d plCBS < 64)) || (eget d plMODE == 1 && decide (eget d plEBS < 64))
  if bad then (7, s.cfgRej pPL)
  else
    let old := s.ent pPL 0 i
    let hw : Entry := BitVec.ofNat 512 (old.toNat / 2 ^ 160 * 2 ^ 160)
    let hw := if eget d plCLR = 1 then eLow hw 7 else hw
    let s1 := s.setEnt pPL 0 i (eput (eLow d 5) plCLR 0 ||| hw)
    let c : Int := ((eget d plCBS * 1000 : Nat) : Int)
    let p : Int := ((eget d plEBS * 1000 : Nat) : Int)
    (0, setPl i 1 (min (s1.plBucket i 1) p) (setPl i 0 (min (s1.plBucket i 0) c) s1))

/-- One update of a policer's buckets: in MODE 0 the overflow of C feeds E. -/
def policerTick (i : Nat) (s : State) : State :=
  let e := s.ent pPL 0 i
  let cmax : Int := ((eget e plCBS * 1000 : Nat) : Int)
  let emax : Int := ((eget e plEBS * 1000 : Nat) : Int)
  let c := s.plBucket i 0 + (eget e plCIR : Nat)
  let x := s.plBucket i 1 + if eget e plMODE = 1 then ((eget e plPIR : Nat) : Int) else max 0 (c - cmax)
  setPl i 1 (min x emax) (setPl i 0 (min c cmax) s)

/-- The colour a policer gives a packet of `len` bytes, and what it takes from its buckets (R220). -/
def policerColour (e : Entry) (c x : Int) (len input : Nat) : Nat × Int × Int :=
  let b : Int := ((len * 1000 : Nat) : Int)
  let inp := if eget e plAWARE = 1 then input else 0
  if eget e plMODE = 0 then
    if inp = 0 ∧ b ≤ c then (0, b, 0) else if inp ≤ 1 ∧ b ≤ x then (1, 0, b) else (2, 0, 0)
  else if inp = 2 ∨ x < b then (2, 0, 0)
  else if inp = 1 ∨ c < b then (1, 0, b)
  else (0, b, b)

/-- A packet passes policer `i`: its colour, and whether it is dropped (R220 to R222). -/
def policer (i len input : Nat) (s : State) : Nat × Bool × State :=
  let e := s.ent pPL 0 i
  let count (c : Nat) (s : State) : State :=
    let e := s.ent pPL 0 i
    s.setEnt pPL 0 i (ewPut (ewPut e (7 + c) (ew e (7 + c) + 1)) (10 + c) (ew e (10 + c) + len))
  if eget e plEN = 0 then (input, false, count input s)
  else
    let c := s.plBucket i 0
    let x := s.plBucket i 1
    let r := policerColour e c x len input
    let s1 := setPl i 1 (x - r.2.2) (setPl i 0 (c - r.2.1) s)
    (r.1, r.1 == 2 && eget e plREDDROP == 1, count r.1 s1)

/-- One 1 µs update of every bucket, from which rates and depths written since the last one are in effect (R212, R220, R226). -/
def bucketUpdate (s00 : State) : State :=
  let s0 := dfcSettle s00
  let s : State := { s0 with tm := { s0.tm with oldRates := [] } }
  let s1 := (List.range 8).foldl (fun s tid =>
    ((s.rows pTM tid).filter (fun p => eget p.2 nVALID == 1)).foldl (fun s p => nodeTick tid p.1 s) s) s
  (s1.rows pPL 0).foldl (fun s p => policerTick p.1 s) s1

/-! ### Latency observation (R267 to R274) -/

def pLAT : Nat := pgTM 2

/-- The bin of a sojourn (R270). -/
def histBin (sh d : Nat) : Nat := ((List.range 15).filter (fun b => decide (2 ^ (sh + b) ≤ d))).length

/-- Add a sample to a histogram: key kind × 2^16 + index. -/
def histAdd (key d : Nat) (s : State) : State :=
  let h0 := sget {} s.tm.hist key
  let h := if h0.bins.isEmpty then { h0 with start := s.tm.histStart } else h0
  let b := histBin (s.get pLAT F.TM_LAT_CFG_HIST_SHIFT) d
  let h' := { h with bins := sset 0 h.bins b (min (sget 0 h.bins b + 1) (2 ^ 32 - 1)), max := max h.max d }
  { s with tm := { s.tm with hist := sset {} s.tm.hist key h' } }

/-- A sampled packet is dequeued (R268 to R270). -/
def latSample (tid q : Nat) (smp : Nat × Nat × Nat) (s : State) : State :=
  let b := s.tb (s.get pLAT F.TM_LAT_CFG_TB)
  if smp.2.1 ≠ b.epoch then s.incSat pLAT F.EPOCH_SKIP_COUNT
  else
    let d := min ((b.t / tbUnit + 2 ^ 40 - smp.1) % 2 ^ 40) (2 ^ 32 - 1)
    let t := if tid = 0 then 0 else 1
    let e := s.ent pLAT t q
    let e' := ewPut (ewPut (ewPut (ewPut (ewPut (ewPut e 0 d) 1 (min (ew e 1) d)) 2 (max (ew e 2) d)) 3 smp.2.2) 4
      (max (ew e 4) smp.2.2)) 5 ((ew e 5 + 1) % 2 ^ 31)
    let s1 := s.setEnt pLAT t q e'
    let root := s.rootOf tid q
    if tid = 0 then
      let sub := s.nget 1 (s.nget 0 q nPARENT) nPARENT
      histAdd (3 * 2 ^ 16 + sub) d (histAdd (2 ^ 16 + root) d s1)
    else histAdd (2 * 2 ^ 16 + root) d s1

/-- WRITE of a latency entry acts only through CLR (R269). -/
def latWrite (tid i : Nat) (d : Entry) (s : State) : Nat × State :=
  if eget d ⟨5, 31, 31⟩ = 1 then (0, s.setEnt pLAT tid i (ewPut 0 1 0xFFFFFFFF)) else (0, s)

/-- A histogram record (R272). -/
def histRecord (key epoch seq fin : Nat) (h : Hist) : List Byte :=
  let w0 := key / 2 ^ 16 * 2 ^ 30 + (if h.merged then 2 ^ 29 else 0) + key % 2 ^ 15
  ([w0, epoch * 2 ^ 16 + seq, h.start % 2 ^ 32, h.start / 2 ^ 32 % 2 ^ 32, fin % 2 ^ 32, fin / 2 ^ 32 % 2 ^ 32] ++
    (List.range 16).map (fun b => sget 0 h.bins b) ++ [h.max, 0]).flatMap wordBytes

/-- Write the closed histograms in order; from the first that does not fit on, they carry over (R271). -/
def histWrite (epoch seq fin : Nat) : Bool → List (Nat × Hist) → State → State
  | _, [], s => s
  | stopped, (k, h) :: r, s =>
    let p := if stopped then (false, s) else ringPost 243 (histRecord k epoch seq fin h) s
    if p.1 then
      histWrite epoch seq fin false r { p.2 with tm := { p.2.tm with hist := sset {} p.2.tm.hist k {} } }
    else
      let s1 : State := { p.2 with tm := { p.2.tm with hist := sset {} p.2.tm.hist k { h with merged := true } } }
      histWrite epoch seq fin true r (s1.incSat pLAT F.HIST_CARRY_COUNT)

/-- All histograms close at one instant (R271). -/
def histClose (s : State) : State :=
  let b := s.tb (s.get pLAT F.TM_LAT_CFG_TB)
  let fin := b.t / tbUnit % 2 ^ 64
  let s1 := s.incWrap pLAT F.TM_LAT_SEQ_SEQ
  let due := s.tm.hist.filter (fun p => !p.2.bins.isEmpty)
  let s2 := histWrite b.epoch (s1.get pLAT F.TM_LAT_SEQ_SEQ) fin false due s1
  ({ s2 with tm := { s2.tm with histStart := fin } } : State).raise pTM 1

/-! ### Meanings -/

def execTmEnqueue (t : Nat) (s0 : State) : Res :=
  let s := s0.at t
  match s.tm.offers with
  | [] => .next s
  | o :: r =>
    let s1 : State := { s with tm := { s.tm with offers := r } }
    .next (if s.en pTM && !s.quiescing pTM then tmEnqueue o s1 else tmRefuse o s1)

def execTmDropRate (s : State) : Res := .next (tmDropRate s)

def execFlushDq (fn : Fn) (queue : BitVec 16) (s : State) : Res :=
  let w : Word := BitVec.ofNat 32 (0x10000000 + queue.toNat)
  .next (s.hostWrite fn.val (pTM + 0x0C4) w (fun s _ => tmCommand w.toNat s))

def execFlushUq (fn : Fn) (queue : BitVec 16) (s : State) : Res :=
  let w : Word := BitVec.ofNat 32 (0x20000000 + queue.toNat)
  .next (s.hostWrite fn.val (pTM + 0x0C4) w (fun s _ => tmCommand w.toNat s))

def execFlushDone (s : State) : Res := .next (s.putBit pTM F.TM_CMD_STAT_BUSY false)

def execBucketUpdate (s : State) : Res := .next (bucketUpdate s)

def execHistClose (t : Nat) (s : State) : Res := .next (histClose (s.at t))

def execLatClr (fn : Fn) (w : Word) (s : State) : Res :=
  .next (s.hostWrite fn.val (pLAT + 0x0C0) (w ||| maskBit 30)
    (fun s _ => (s.put pLAT F.EPOCH_SKIP_COUNT 0).put pLAT F.HIST_CARRY_COUNT 0))

def execRelease (h : Nat) (issuer : Fin 128) (s : State) : Res := .next (releaseRef h issuer.val s)

end Sys2Proof.Machine
end

