-- ==== Sys2Proof/Machine/Pe.lean ====
section
/-! DEFINITION. Chapter 04: downstream frames, PLOAM selection, keys, the lean zone and the frame boundary (R91 to R123,
R524). -/

namespace Sys2Proof.Machine

/-! ### Context records (R147, R161) -/

def cST : TF := ⟨0, 2, 0⟩
def cLEVEL : TF := ⟨0, 5, 4⟩
def cONU : TF := ⟨0, 25, 16⟩

def State.crec (s : State) (n c : Nat) : Entry := s.ent (pgPE n 7) 1 c
def State.st (s : State) (n c : Nat) : Nat := eget (s.crec n c) cST
def State.level3 (s : State) (n c : Nat) : Nat := eget (s.crec n c) cLEVEL
def setRec (n c : Nat) (f : Entry → Entry) (s : State) : State := s.setEnt (pgPE n 7) 1 c (f (s.crec n c))
def setSt (n c v : Nat) (s : State) : State := setRec n c (fun e => eput e cST v) s

def State.cx (s : State) (n c : Nat) : Ctx := sget {} (s.pe n).ctxs c
def State.modCx (s : State) (n c : Nat) (f : Ctx → Ctx) : State :=
  s.modPe n (fun p => { p with ctxs := sset {} p.ctxs c (f (sget {} p.ctxs c)) })

/-- Contexts of a port that are not FREE. -/
def State.liveCtx (s : State) (n : Nat) : List Nat :=
  ((s.rows (pgPE n 7) 1).filter (fun p => eget p.2 cST != 0)).map (fun p => p.1)

/-- A context is ranged (R147). -/
def State.ranged (s : State) (n c : Nat) : Bool := decide (4 ≤ s.st n c ∧ s.st n c ≤ 6)

/-- The state of a context permits XGEM frames of a port with this OMCC flag (R147). -/
def State.permits (s : State) (n c : Nat) (omcc : Bool) : Bool := s.st n c == 6 || (s.st n c == 5 && omcc)

/-! ### XGEM port table (R143) -/

def xUS : TF := ⟨0, 31, 31⟩
def xDS : TF := ⟨0, 30, 30⟩
def xOMCC : TF := ⟨0, 29, 29⟩
def xBCAST : TF := ⟨0, 28, 28⟩
def xENC : TF := ⟨0, 27, 27⟩
def xENCREQ : TF := ⟨0, 26, 26⟩
def xONU : TF := ⟨0, 24, 16⟩
def xID : TF := ⟨0, 15, 0⟩

/-- An entry of a keyed table exists: kept above the entry's own words. -/
def eUSED : TF := ⟨15, 31, 31⟩

/-- The existing entries of a keyed table; lookups miss one whose codeword is uncorrectable (R42). -/
def State.used (s : State) (pg tid : Nat) : List (Nat × Entry) := (s.rows pg tid).filter (fun p => eget p.2 eUSED == 1 && !s.bad.contains (tkey pg tid p.1))

def State.findXgem (s : State) (n id : Nat) : Option (Nat × Entry) :=
  (s.used (pgPE n 2) 0).find? (fun p => eget p.2 xID == id)

/-- Count a packet in words `w` and `w + 1` of an XGEM entry. -/
def xgemCount (n id w len : Nat) (s : State) : State :=
  match s.findXgem n id with
  | none => s
  | some (i, e) => s.setEnt (pgPE n 2) 0 i (ewPut (ewPut e w (ew e w + 1)) (w + 1) (ew e (w + 1) + len))

/-! ### Keys (R97 to R100, R122) -/

def kLOAD : TF := ⟨4, 31, 31⟩
def kSCHED : TF := ⟨4, 30, 30⟩
def kACTIVE : TF := ⟨4, 29, 29⟩
def kNEXT : TF := ⟨4, 28, 28⟩
def kPEND : TF := ⟨4, 27, 27⟩

/-- Where the key of a slot is held. -/
def keySlot (n c slot : Nat) : Nat := (n * 1024 + c) * 2 + slot

def State.hasKey (s : State) (n c slot : Nat) : Bool := sget 0 s.keys (keySlot n c slot) != 0

def State.keyEnt (s : State) (n c : Nat) : Entry := s.ent (pgPE n 3) 0 c

/-- SW_SFC of a key entry. -/
def swSfc (e : Entry) : Nat := ew2 e 5 % sfcSpan

/-- WRITE on the key table (R98, R99): the code and the state. -/
def keyWrite (n c : Nat) (d : Entry) (s : State) : Nat × State :=
  let e := s.keyEnt n c
  let load := eget d kLOAD == 1
  let sched := eget d kSCHED == 1
  let sw := swSfc d
  let ahead := sfcDiff sw (s.pe n).unsel
  let bad := (load && eget e kPEND == 1) ||
    (sched && (sw % 8 != 0 || decide (ahead < 2) || decide (2 ^ 31 < ahead) || (eget e kNEXT == 0 && !load)))
  if bad then (7, s.cfgRej (pgPE n 3))
  else
    let slot := 1 - eget e kACTIVE
    let s1 : State := if load then { s with keys := sset 0 s.keys (keySlot n c slot) (d.toNat % 2 ^ 128 + 1) } else s
    let e1 := if load then eput e kNEXT 1 else e
    let e2 := if sched then ew2Put (eput e1 kPEND 1) 5 sw else e1
    (0, s1.setEnt (pgPE n 3) 0 c e2)

/-- DELETE on the key table (R98). -/
def keyDelete (n c : Nat) (s : State) : State :=
  { s.setEnt (pgPE n 3) 0 c 0 with keys := sset 0 (sset 0 s.keys (keySlot n c 0) 0) (keySlot n c 1) 0 }

/-- The switches due at a frame (R100), in ascending context. -/
def keySwitch (n sfc : Nat) (s : State) : State :=
  ((s.rows (pgPE n 3) 0).filter (fun p => eget p.2 kPEND == 1 && passed sfc (swSfc p.2))).foldl (fun s p =>
    let e := eput (eput (eput p.2 kACTIVE (1 - eget p.2 kACTIVE)) kPEND 0) kNEXT 0
    ((((s.setEnt (pgPE n 3) 0 p.1 e).put (pgPE n 0) F.PE_KEY_LAST_CTX p.1).incWrap (pgPE n 0) F.PE_KEY_LAST_COUNT).raise
      (pgPE n 0) 7)) s

/-- An XGEM frame's payload in counter mode under a key, encrypted or decrypted (R97, R138). -/
def ctrCrypt (key : BitVec 128) (up : Bool) (sfc pos : Nat) (d : List Byte) : List Byte :=
  d.zipIdx.map (fun p => p.1 ^^^ Config.aesCtrByte key up sfc pos p.2)

/-- The key in a slot of a context. -/
def State.keyAt (s : State) (n c slot : Nat) : BitVec 128 := BitVec.ofNat 128 (sget 0 s.keys (keySlot n c slot) - 1)

/-- The key index of an XGEM frame downstream (R97, R98). DESIGN CHOICE (log entry 134): a DELETE of the key acts on the XGEM frames
that leave after it, those of the frame in progress too, though R93 fixes the frame's key slots at −10 µs. -/
def State.keyIndex (s : State) (n : Nat) (e : Entry) : Nat :=
  let c := if eget e xBCAST = 1 then 512 else eget e xONU
  let a := eget (s.keyEnt n c) kACTIVE
  if eget e xENC = 1 && s.hasKey n c a then a + 1 else 0

/-- A payload as it is sent with key index `k` (R97): the frame on the lane and the position in it form the counter block. -/
def State.encrypt (s : State) (n k pos : Nat) (e : Entry) (d : List Byte) : List Byte :=
  if k = 0 then d
  else ctrCrypt (s.keyAt n (if eget e xBCAST = 1 then 512 else eget e xONU) (k - 1)) false (s.pe n).sfc pos d

/-! ### The lean zone (R105 to R108, R524) -/

/-- The address of PE_LZ_START, under which a start waits to be committed. -/
def lzAddr (n : Nat) : Nat := pgPE n 0 + 0x068

def State.stagedStart (s : State) (n : Nat) : Option Word :=
  sget none s.staged (lzAddr n)

def unstage (n : Nat) (s : State) : State := { s with staged := sset none s.staged (lzAddr n) none }

/-- Commit a start: PE_LZ_START, CUR and PAGE_GEN together. -/
def commitStart (n : Nat) (w : Word) (s : State) : State :=
  (((unstage n s).setReg (lzAddr n) w).put (pe0 n) F.PE_LZ_STATUS_CUR w.toNat).commit (pe0 n)

/-- ALL_L3 (R106). -/
def State.allL3 (s : State) (n : Nat) : Bool :=
  let live := s.liveCtx n
  live.any (fun c => s.ranged n c) && live.all (fun c =>
    (!s.ranged n c || s.level3 n c == 3) &&
    !(s.st n c == 3 && decide (1 ≤ s.level3 n c ∧ s.level3 n c < 3)))

/-- HOLD has not elapsed since the zone last closed; after a stop it counts from the first frame that is sent again (R524). -/
def State.lzHolding (s : State) (n : Nat) : Bool :=
  (s.pe n).restart ||
  match (s.pe n).holdFrom with
  | none => false
  | some h => decide (sfcDiff (s.pe n).sfc h < s.get (pe0 n) F.PE_LZ_CTRL_HOLD * 8) || !passed (s.pe n).sfc h

/-- The conditions of R106. -/
def State.lzConds (s : State) (n : Nat) : Bool :=
  s.bit (pe0 n) F.PE_LZ_CTRL_EN && s.bit (pe0 n) F.PE_LZ_STATUS_ELIG && s.bit (pe0 n) F.PE_LZ_STATUS_ALL_L3 &&
    !s.lzHolding n && !s.isLegacy n

/-- LEFT follows the notice. -/
def lzLeft (n : Nat) (s : State) : State :=
  let p := s.pe n
  let s1 := s.put (pe0 n) F.PE_LZ_STATUS_LEFT (match p.notice with | none => 0 | some t => sfcDiff t p.sfc)
  (s1.putBit (pe0 n) F.PE_LZ_STATUS_NOTICE p.notice.isSome).putBit (pe0 n) F.PE_LZ_STATUS_HOLDING (s1.lzHolding n)

/-- Start a notice (R107). -/
def lzNotice (n : Nat) (s : State) : State :=
  lzLeft n (s.modPe n (fun p => { p with notice := some (boundaryAfter p.unsel 16), noticeFrom := p.unsel }))

/-- Decide a close (R108). -/
def lzClose (n : Nat) (s : State) : State :=
  lzLeft n ((unstage n s).modPe n (fun p =>
    let t := (p.unsel + 1) % sfcSpan
    { p with notice := none, close := some t, closeCopies := 8, closeTarget := t }))

/-- Judge the zone by R106 wherever one of its conditions can have changed. -/
def lzEval (n : Nat) (s : State) : State :=
  let s1 := (s.putBit (pe0 n) F.PE_LZ_STATUS_ALL_L3 (!s.isLegacy n && s.allL3 n))
  let p := s1.pe n
  if !(p.running || p.waiting) || p.close.isSome then lzLeft n s1
  else
    let open_ := s1.bit (pe0 n) F.PE_LZ_STATUS_OPEN
    if s1.lzConds n then (if !open_ && p.notice.isNone then lzNotice n s1 else lzLeft n s1)
    else if open_ || p.notice.isSome then lzClose n s1
    else lzLeft n s1

/-- A write of PE_LZ_START by the state of the zone (R107). -/
def lzStartWrite (n : Nat) (w : Word) (s : State) : State :=
  let cw := w.toNat % 512
  let v : Word := BitVec.ofNat 32 cw
  let p := s.pe n
  if s.isLegacy n then s
  else if cw < 3 ∨ 359 < cw ∨ p.notice.isSome then s.cfgRej (pe0 n)
  else if p.close.isSome then { s with staged := sset none s.staged (lzAddr n) (some v) }
  else if s.bit (pe0 n) F.PE_LZ_STATUS_OPEN then
    lzNotice n { s with staged := sset none s.staged (lzAddr n) (some v) }
  else commitStart n v s

/-- The notice target is reached: the zone opens, or a new start commits (R107). -/
def lzOpened (n : Nat) (s : State) : State :=
  match (s.pe n).notice with
  | none => s
  | some t =>
    if passed (s.pe n).sfc t then
      let s1 := s.modPe n (fun p => { p with notice := none })
      let s2 := match s1.stagedStart n with | none => s1 | some w => commitStart n w s1
      if s2.bit (pe0 n) F.PE_LZ_STATUS_OPEN then lzLeft n s2
      else (lzLeft n (s2.putBit (pe0 n) F.PE_LZ_STATUS_OPEN true)).raise (pe0 n) 4
    else s

/-- LZ_CLOSED with its count. -/
def lzCloseNote (n : Nat) (s : State) : State := (s.bump (pgPE n 1) C.DS_LZ_CLOSES).raise (pe0 n) 3

/-- The close target is reached (R108). DESIGN CHOICE (log entry 135): LZ_CLOSED is raised and LZ_CLOSES counts here, at the first frame
without the zone, the rule giving no instant. -/
def lzClosed (n : Nat) (s : State) : State :=
  match (s.pe n).close with
  | none => s
  | some t =>
    if passed (s.pe n).sfc t then
      let s1 := s.modPe n (fun p => { p with close := none, holdFrom := some t })
      let s2 := match s1.stagedStart n with | none => s1 | some w => commitStart n w s1
      lzEval n (lzCloseNote n (s2.putBit (pe0 n) F.PE_LZ_STATUS_OPEN false))
    else s

/-- The engine stops (R524). -/
def lzStop (n : Nat) (s : State) : State :=
  let p := s.pe n
  if s.bit (pe0 n) F.PE_LZ_STATUS_OPEN || p.notice.isSome || p.close.isSome then
    let s1 := (unstage n s).modPe n (fun p => { p with notice := none, close := none, closeCopies := 0, restart := true })
    lzLeft n (lzCloseNote n (s1.putBit (pe0 n) F.PE_LZ_STATUS_OPEN false))
  else s

/-! ### The grid of target instants (R109, R110, R117) -/

def State.fbSrc (s : State) (n : Nat) : Nat := s.get (pe0 (s.fbPort n)) F.PE_FB_CFG_SRC

/-- The origin of the grid: OFS, or the last FSYNC edge. -/
def State.fbOrigin (s : State) (n : Nat) : Option Int :=
  let p := s.pe (s.fbPort n)
  if s.fbSrc n = 0 then some p.ofs else p.edge

/-- The target nearest to `x` on the grid through `o`, ties to the earlier one (R111). -/
def nearestTarget (o x : Int) : Int := o + -((framePeriod - 2 * (x - o)) / (2 * framePeriod)) * framePeriod

/-- The first target at or after `x`. -/
def targetAfter (o x : Int) : Int := o + -((o - x) / framePeriod) * framePeriod

/-- The superframe counter of a target (R110). -/
def sfcOf (tg ofs : Int) : Nat := ((2 * (tg - ofs) + framePeriod) / (2 * framePeriod) % (sfcSpan : Int)).toNat

/-- OFS as the registers hold it. -/
def State.ofsReg (s : State) (n : Nat) : Nat := s.get2 (pe0 n) F.PE_SFC_OFS_LO_OFS F.PE_SFC_OFS_HI_OFS

/-- NOFSYNC of R114 and R117. -/
def setNofsync (n : Nat) (v : Bool) (s : State) : State := s.putBit (pe0 n) F.PE_FB_STATUS_NOFSYNC v

/-- Fix the first frame: the first target at least 10 µs ahead (R117). -/
def planFirst (n : Nat) (s : State) : State :=
  match s.fbOrigin n with
  | none => s
  | some o =>
    let tg := targetAfter o (s.fbT n + ((10000 * tbUnit : Nat) : Int))
    let f := sfcOf tg (s.pe (s.fbPort n)).ofs
    s.modPe n (fun p => { p with tg := tg, sfc := (f + sfcSpan - 1) % sfcSpan, needEdge := false })

/-- The engine of a hushed port is gated (R455), and the framers of an absent REFCLK_PON are not started (R469). -/
def State.peGated (s : State) (n : Nat) : Bool := s.hushed n || s.bit pgTE F.TE_REF_STAT_INT

/-- The engine is enabled (R117). -/
def peStart (n : Nat) (s : State) : State :=
  let s1 := s.modPe n (fun p =>
    { p with waiting := !s.peGated n, running := false, needEdge := true, edge := none, ofs := ((s.ofsReg n * tbUnit : Nat) : Int),
             selDone := false, e := 0, realign := none, short := false, sel := [], hdr := none, enc := [], ce := [], prog := 0, pos := 0, ceLen := 0, cont := none,
             closeCopies := if p.restart then 8 else 0 })
  let s2 := planFirst n s1
  setNofsync n (s.fbSrc n == 1 && (s2.pe n).needEdge) s2

/-- A qualified FSYNC edge for port `n` (R109, R114, R117). -/
def peEdge (n : Nat) (s : State) : State :=
  if s.fbSrc n = 1 && s.en (pe0 n) then
    let d : Int := toSigned 16 (s.get (pe0 (s.fbPort n)) F.PE_FB_CFG_FSYNC_DLY)
    let s1 := setNofsync n false (s.modPe n (fun p => { p with edge := some (s.fbT n - edgeLat + d * tbUnit) }))
    if (s1.pe n).waiting && (s1.pe n).needEdge then planFirst n s1 else s1
  else s

/-! ### Sending a frame -/

/-- A message of the header has left: what it changes in the sequencer (R148, R155). -/
def seqSent (n f : Nat) (m : PMsg) (s : State) : State :=
  match m with
  | .assign c _ _ =>
    let more := (s.pe n).seq.any (fun q => match q.msg with | .assign c' _ _ => c' == c | _ => false)
    if more then s
    else
      let s1 := if s.st n c = 1 then setSt n c 2 s else s
      s1.modCx n c (fun x => { x with assigned := true })
  | .levelQuery c _ => s.modCx n c (fun x => { x with queries := x.queries + 1, querySfc := some f })
  | .levelSet c _ l =>
    if s.st n c = 3 && !(s.cx n c).ended then
      lzEval n ((setRec n c (fun e => eput e cLEVEL l) s).modCx n c (fun x => { x with ended := true }))
    else s
  | _ => s

/-- The data bytes that a map grants to each context, with its frame. -/
def GMap.grantsOf (m : GMap) : List (Nat × Nat × Nat) :=
  m.bursts.flatMap (fun b => b.allocs.filterMap (fun a => a.entry.map (fun i => (m.sfc, i, a.bytes))))

/-- `n` zero bytes. -/
def zeroBytes (n : Nat) : List Byte := List.replicate n 0

/-- The 36 bytes of content of a vendor message (R103, R155). -/
def vendorContent : PMsg → Option (List Byte)
  | .lzNotice k st => some (beBytes 1 0x01 ++ beBytes 7 k ++ beBytes 2 st ++ zeroBytes 26)
  | .lzClose k => some (beBytes 1 0x02 ++ beBytes 7 k ++ zeroBytes 28)
  | .realign k d => some (beBytes 1 0x03 ++ beBytes 7 k ++ zeroBytes 2 ++ beBytes 4 (BitVec.ofInt 32 d).toNat ++ zeroBytes 22)
  | .levelQuery _ onu => some (beBytes 1 0x10 ++ beBytes 2 onu ++ beBytes 1 3 ++ zeroBytes 32)
  | .levelSet _ onu l => some (beBytes 1 0x12 ++ beBytes 2 onu ++ beBytes 1 l ++ zeroBytes 32)
  | .burstProfile _ | .assign .. | .rangingTime .. | .deactivate _ | .disable .. | .host _ => none

/-- Where a PLOAM integrity key is held (R479). -/
def ploamSlot (n c : Nat) : Nat := 2 ^ 20 + n * 512 + c

/-- The key of a message's MIC (R102): the integrity key of the ONU addressed, the default key for all of them. DESIGN CHOICE
(log entry 131): the default key where the ONU has no key yet. -/
def State.micKey (s : State) (n addr : Nat) : BitVec 128 :=
  let c := if addr = 1023 then none else (s.liveCtx n).find? (fun c => eget (s.crec n c) cONU == addr)
  match c with
  | none => Config.ploamDefaultKey
  | some c => let k := sget 0 s.keys (ploamSlot n c); if k = 0 then Config.ploamDefaultKey else BitVec.ofNat 128 (k - 1)

/-- The next sequence number to an address (R102). DESIGN CHOICE (log entry 131): each address counts its messages modulo 256. -/
def State.nextNo (s : State) (n addr : Nat) : Nat := (sget 0 (s.pe n).numbers addr + 1) % 256

/-- A sequence number is used. -/
def tookNo (n addr : Nat) (s : State) : State := s.modPe n (fun p => { p with numbers := sset 0 p.numbers addr (s.nextNo n addr) })

/-- A message leaves with the frame, with its sequence number and MIC (R102): vendor messages have the type of PE_VENDOR (R103). -/
def ploamOut (n : Nat) (m : PMsg) (s : State) : State :=
  let no := match m with | .rangingTime _ _ _ no => no | _ => s.nextNo n m.addr
  let s1 := match m with | .rangingTime .. => s | _ => tookNo n m.addr s
  s1.emitPtx n (.ploam n m ((vendorContent m).map (fun c => (s.get (pe0 n) F.PE_VENDOR_MTYPE, c))) no
    (Config.ploamMic (s.micKey n m.addr) no m.words))

/-- Is the gap before each burst sampled (R134)? Not where it holds a silence; `from_` is the end of the burst before, and
`first` says for the gap at the start of the frame whether it is not sampled. -/
def gapFlags (sils : List Silence) : Nat → Bool → List Burst → List Bool
  | _, _, [] => []
  | from_, first, b :: r =>
    (!first && !sils.any (fun x => decide (from_ < x.start + x.len ∧ x.start < b.start + b.size))) ::
      gapFlags sils (b.start + b.size) false r

/-- Words of a context's burst record (R146). -/
def recPut (n c : Nat) (f : TF) (v : Nat) (s : State) : State := s.putE (pgPE n 6) 0 c f v
def recAdd (n c : Nat) (f : TF) (k : Nat) (sat : Bool) (s : State) : State :=
  let v := s.getE (pgPE n 6) 0 c f + k
  recPut n c f (if sat then min v (2 ^ (f.hi - f.lo + 1) - 1) else v) s

/-- The structures a map is sealed with (R164, R174): those of its bursts in order, the first of a burst at its header instant, then
its serial-number and ranging grants. -/
def State.structsOf (s : State) (n : Nat) (m : GMap) : List BwStruct :=
  let leg := s.isLegacy n
  m.bursts.flatMap (fun b => b.allocs.zipIdx.map (fun p =>
    { alloc := (match p.1.entry with
        | none => Config.defaultAlloc leg (eget (s.crec n b.onu) cONU)
        | some i => eget (s.ent (pgGP n) 0 i) ⟨0, 13, 0⟩),
      dbru := p.1.dbru, ploam := p.1.ploam, prof := b.prof,
      start := Config.startTime leg (if p.2 = 0 then some (b.start + b.ovh) else none),
      size := Config.grantSize leg (p.1.bytes + (if p.1.dbru then 4 else 0) + (if p.1.ploam then 48 else 0)) })) ++
  m.grants.map (fun g =>
    { alloc := if g.kind = 0 then Config.broadcastAlloc leg else Config.defaultAlloc leg (eget (s.crec n g.ctx) cONU),
      dbru := false, ploam := true, prof := g.prof, start := Config.startTime leg (some g.st), size := Config.grantSize leg 48 })

/-- The plant silences of a frame (R438): MON_SEL is high from the start of each to 1 µs before its end, unless its driver is off
(R500), and each is sampled. -/
def plantWindows (n : Nat) (sils : List Silence) (s : State) : State :=
  let l := sils.filter (fun x => x.kind == 3)
  let s1 := s.modPe n (fun p => { p with plant := p.plant + l.length })
  if s.pinShort n 3 then s1
  else l.foldl (fun s x => s.emit (.monSel n (((s.get (pgPE n 4) F.PE_US_TEQD_TEQD * qUnit + x.start * s.tu n : Nat) : Int))
    (x.len * s.tu n / qUnit - 1000))) s1

/-- The windows of a map that was sent (R125, R134, R150, R151). DEDUCED (log entry 138): the grant of an abandoned step that stands in a
sealed map goes out, and its window counts for nothing. -/
def openWindows (n : Nat) (m : GMap) (s : State) : State :=
  let sils := (sget {} s.gps n).silences.filter (fun x => x.sfc == m.sfc)
  let p := s.pe n
  let ws := (m.bursts.zip (gapFlags sils 0 (p.emptyFrame || p.tailSil) m.bursts)).map
    (fun b => ({ burst := b.1, sfc := m.sfc, gap := b.2, sk := p.tg + p.e } : Win))
  let tail := match m.bursts.getLast? with
    | none => false
    | some b => sils.any (fun x => decide (b.start + b.size < x.start + x.len))
  let s1 := (s.modPe n (fun p => { p with wins := p.wins ++ ws, emptyFrame := ws.isEmpty, tailSil := tail })).bump (pgPE n 5)
    C.US_GRANTED ws.length
  let s1 := ws.foldl (fun s w => recAdd n w.burst.onu ⟨0, 31, 0⟩ 1 false s) (plantWindows n sils s1)
  m.grants.foldl (fun s g =>
    let s := s.modPe n (fun p => { p with quiet := p.quiet ++ [(g, p.tg + p.e)] })
    if g.kind = 0 then s.modPe n (fun p => { p with snWin := some { grant := g, sk := p.tg + p.e } })
    else if (s.cx n g.ctx).asked then
      s.modCx n g.ctx (fun x => { x with open_ := true, asked := false, tries := x.tries + 1, winSfc := m.sfc })
    else s) s1

/-- A map leaves, and the grant slice's record of it (R170, R185, R190): the data bytes of each context, for later reports. -/
def mapSent (n : Nat) (m : GMap) (s : State) : State :=
  let g := sget {} s.gps n
  let g' := { g with prev := m, sealed_ := g.sealed_.filter (fun x => x.sfc != m.sfc),
                     hist := g.hist.filter (fun h => decide (sfcDiff m.sfc h.1 < 64)) ++ m.grantsOf,
                     silences := g.silences.filter (fun x => decide (sfcDiff m.sfc x.sfc = 0) || !passed m.sfc x.sfc) }
  let s1 : State := ({ s with gps := sset {} s.gps n g' } : State).emitPtx n (.bwmap n m.sfc m.words)
  (s1.put (pgGP n) F.GS_PORT_STATUS_STRUCT m.structs).bump (pgGP n) C.GS_STRUCTS m.structs

/-- Codewords of a frame K − 1 that is shortened by `e`, sent whole (R91, R115, R119, R121). -/
def State.wholeCodewords (s : State) (n : Nat) (e : Int) : Nat :=
  if s.isLegacy n then min 627 ((1244160 - (e.toNat * 995328) / (100000 * tbUnit) - 192) / 1984)
  else min 360 ((6220800 - (e.toNat * 497664) / (10000 * tbUnit) - 192) / 17280)

/-- In SHADOW the windows of frame `f` are those of the peer's map of it, where it came in time (R428). -/
def shadowWindows (n f : Nat) (s : State) : State :=
  let l := sget [] s.px.maps n
  let s1 : State := { s with px := { s.px with maps := sset [] s.px.maps n (l.filter (fun m => !passed f m.sfc)) } }
  match l.find? (fun m => m.sfc == f) with
  | none => s1
  | some m => openWindows n m s1

/-- Frame `f` begins on the lane with its header; a frame K − 1 shortened under R115 carries its PSBd and drone only. DESIGN CHOICE
(log entry 136): its whole codewords count in CW_IDLE alone, and not also in CW_STD or CW_LEAN as the idle codewords of other frames do. -/
def frameStart (n f : Nat) (short : Bool) (s : State) : State :=
  let p := s.pe n
  let s1 := (s.modPe n (fun p => { p with sfc := f, selDone := false, short := short, running := true, waiting := false }))
  let s2 := (s1.put2 (pe0 n) F.PE_SFC_LO_SFC F.PE_SFC_HI_SFC f).bump (pgPE n 1) C.DS_FRAMES
  let s2 := (laneFrame n s2).emitPtx n (.frame n f (if short then -(roundDiv p.e tbUnit) else p.corr))
  if short then
    (s2.bump (pgPE n 1) C.DS_CW_IDLE (s.wholeCodewords n p.e)).modPe n (fun p => { p with prog := 0, pos := 0, emptyFrame := true })
  else
    match (if s.pxShadow n then none else p.hdr) with
    | none =>
      let s3 := s2.modPe n (fun p => { p with hdr := none, sel := [], prog := hdrBytes {} [], pos := 0, emptyFrame := true })
      if s.pxShadow n then shadowWindows n f s3 else s3
    | some (m, msgs) =>
      let k := hdrBytes m msgs
      let s3 := (s2.modPe n (fun p => { p with hdr := none, sel := [], prog := k, pos := 0 })).bump (pgPE n 1) C.DS_PLOAM_TX msgs.length
      msgs.foldl (fun s m => seqSent n f m (ploamOut n m s)) (mapSent n m (openWindows n m s3))

/-- PE_FIRST_FRAME (R117). -/
def firstFrame (n : Nat) (s : State) : State :=
  let p := s.pe n
  if p.waiting && !p.needEdge && s.en (pe0 n) && !(s.protected_ n && decide (s.now < s.px.droneUntil)) then
    let f := (p.sfc + 1) % sfcSpan
    let s1 := s.modPe n (fun p => { p with e := 0, corr := 0, restart := false,
                                           holdFrom := if p.restart then some f else p.holdFrom,
                                           closeTarget := if p.restart then f else p.closeTarget })
    lzEval n (frameStart n f false ((s1.putI (pe0 n) F.PE_FB_ERR_ERR 0).putBit (pe0 n) F.PE_FB_STATUS_FAR false))
  else s

/-- A realignment is pending on the engine whose boundary port `n` has (R115, R118). -/
def State.realignAt (s : State) (n : Nat) : Option Nat := (s.pe (s.fbPort n)).realign

/-- Measure e at a boundary (R111, R113, R114) and set the correction of the frame that begins: min(|e|, FS_STEP), so that e moves
toward 0. An odd engine of a combo pair has the settings of the even one (R118). -/
def measure (n : Nat) (s : State) : State :=
  let x := s.fbT n
  match s.fbOrigin n with
  | none => s
  | some o =>
    let tg := nearestTarget o x
    let held := s.bit (pe0 n) F.PE_FB_STATUS_NOFSYNC
    let e := if held then (s.pe n).e else x - tg
    let ns := roundDiv e tbUnit
    let far := decide (((2000 * tbUnit : Nat) : Int) < (e.natAbs : Int))
    let corr := if held || (s.realignAt n).isSome then 0 else min ns.natAbs (s.get (pe0 (s.fbPort n)) F.PE_FB_CFG_FS_STEP)
    let s1 := (s.modPe n (fun p => { p with tg := tg, e := e, corr := if 0 < e then -(corr : Int) else (corr : Int) })).putI (pe0 n)
      F.PE_FB_ERR_ERR ns
    let was := s1.bit (pe0 n) F.PE_FB_STATUS_FAR
    let s2 := (s1.putBit (pe0 n) F.PE_FB_STATUS_FAR far).putBit (pe0 n) F.PE_FB_STATUS_RAMP (corr != 0)
    let s3 := if corr != 0 then s2.bump (pgPE n 1) C.DS_RAMP_FRAMES else s2
    if far && !was then s3.raise (pe0 n) 0 else s3

/-- The timestamp and counter of a frame for ToD (R253). The entry of the odd engine of a combo pair is written with the even one's. -/
def todCapture (n f : Nat) (s : State) : State :=
  if f % max 1 (s.get pgTE F.TE_TOD_CFG_DIV) ≠ 0 || s.isLegacy n then s
  else
    let w := stampWords (s.stamp (s.fbTb n) (s.ptxLatency n))
    let e := (w.zipIdx).foldl (fun e p => ewPut e (2 + p.2) p.1) (ew2Put 0 0 f)
    let s1 := s.setEnt pgTE 0 n e
    if s.isLegacy (n + 1) then s1.setEnt pgTE 0 (n + 1) e else s1

/-- The frame's own part of a boundary (R100, R110 to R113, R115, R253): what does not belong to other blocks. -/
def frameBoundary (n : Nat) (s0 : State) : State :=
  let s := measure n s0
  let p := s.pe n
  let f := sfcOf p.tg (s.pe (s.fbPort n)).ofs
  let short := (match s.realignAt n with | none => false | some k => f == (k + sfcSpan - 1) % sfcSpan) && decide (0 < p.e)
  let s1 := frameStart n f short s
  let s2 := s1.put (pe0 n) F.PE_FB_STATUS_LEFT (match p.realign with | none => 0 | some k => sfcDiff k f)
  todCapture n f (keySwitch n f s2)

/-! ### Realignment (R115) -/

/-- A write of 1 to REALIGN. -/
def realign (n : Nat) (s : State) : State :=
  let p := s.pe n
  if s.isLegacy n then s
  else if decide (p.e.natAbs ≤ 2000 * tbUnit) || s.bit (pe0 n) F.PE_FB_STATUS_NOFSYNC || p.realign.isSome then s.cfgRej (pe0 n)
  else
    let k := boundaryAfter p.unsel 16
    let s1 := (s.modPe n (fun p => { p with realign := some k, shorten := roundDiv p.e tbUnit })).putBit (pe0 n) F.PE_FB_STATUS_REALIGN_PEND true
    (s1.put (pe0 n) F.PE_FB_STATUS_LEFT (sfcDiff k p.sfc)).putBit (pe0 n) F.PE_FB_STATUS_RAMP false

/-- Frame K − 1 is on the lane: the realignment is applied, and ramping resumes. An early boundary is made up with drone that has no
PSBd (R115). -/
def realignApply (n : Nat) (s0 : State) : State :=
  match (s0.pe n).realign with
  | none => s0
  | some k =>
    if (s0.pe n).next = k then
      let s := if (s0.pe n).e < 0 then s0.emitPtx n (.gap n (roundDiv (s0.pe n).e tbUnit).natAbs) else s0
      (((s.modPe n (fun p => { p with realign := none })).putBit (pe0 n) F.PE_FB_STATUS_REALIGN_PEND false).put (pe0 n)
        F.PE_FB_STATUS_LEFT 0).bump (pgPE n 1) C.DS_REALIGNS
    else s0

/-- A write of PE_SFC_OFS_HI commits both words (R116). -/
def ofsWrite (n : Nat) (w : Word) (s : State) : State :=
  let a := pe0 n + 0x048
  let lo := (sget none s.staged a).getD (s.reg a)
  let s1 : State := { s with staged := sset none s.staged a none }
  let s2 := ((s1.setReg a lo).setReg (a + 4) w).commit (pe0 n)
  s2.modPe n (fun p => { p with ofs := (((lo.toNat + w.toNat * 2 ^ 32) * tbUnit : Nat) : Int) })

/-- A re-step by `d` of time base `tb`: engines that select it follow (R116). -/
def peRestep (tb : Nat) (d : Int) (s : State) : State :=
  forN 48 (fun n s =>
    if s.en (pe0 n) && s.fbTb n == tb then
      let o := (s.pe n).ofs + d
      let s1 := s.modPe n (fun p => { p with tg := p.tg + d, edge := p.edge.map (· + d), wins := p.wins.map (fun w => { w with sk := w.sk + d }),
                                             quiet := p.quiet.map (fun q => (q.1, q.2 + d)),
                                             snWin := p.snWin.map (fun w => { w with sk := w.sk + d }) })
      if s.isLegacy n then s1
      else (s1.modPe n (fun p => { p with ofs := o })).put2 (pe0 n) F.PE_SFC_OFS_LO_OFS F.PE_SFC_OFS_HI_OFS (ofSigned 64 (o / tbUnit))
    else s) s

/-! ### PLOAM selection (R101 to R104) -/

/-- Vendor messages due in frame `f`, in the order of their subtypes (R104). -/
def State.vendorDue (s : State) (n f : Nat) : List PMsg :=
  let p := s.pe n
  let start := (match s.stagedStart n with | none => (s.reg (lzAddr n)).toNat | some w => w.toNat) % 512
  (match p.notice with
    | none => []
    | some t => if passed f p.noticeFrom && !passed f t then [.lzNotice t start] else []) ++
  (if 0 < p.closeCopies then [.lzClose (if p.waiting then p.next else p.closeTarget)] else []) ++
  (match p.realign with
    | none => []
    | some k => if !passed f k then [.realign k p.shorten] else [])

/-- Take one copy from each sequencer message that is due, up to `room`: the messages taken and what stays. -/
def takeSeq (f : Nat) : Nat → List SeqMsg → List PMsg × List SeqMsg
  | _, [] => ([], [])
  | 0, q => ([], q)
  | room + 1, m :: r =>
    if (match m.due with | none => true | some d => passed f d) then
      let x := takeSeq f room r
      (m.msg :: x.1, if m.copies ≤ 1 then x.2 else { m with copies := m.copies - 1 } :: x.2)
    else
      let x := takeSeq f (room + 1) r
      (x.1, m :: x.2)

/-- Take up to `room` messages from the host's PLOAM ring. -/
def takeHost (n : Nat) : Nat → State → List PMsg × State
  | 0, s => ([], s)
  | room + 1, s =>
    if s.quiescing (pe0 n) then ([], s) else
    let x := ringNext n 1 48 48 64 s
    match x.1 with
    | none => ([], x.2)
    | some d => let y := takeHost n room x.2; (.host (slotData d) :: y.1, y.2)

/-- Slots that wait on a ring. -/
def ringWaiting (s : State) (r : Nat) : Nat :=
  let e := ringEnt s r
  if eget e RF.EN = 0 then 0
  else (eget e RF.PIDX + eget e RF.SIZE - eget e RF.CIDX) % max 1 (eget e RF.SIZE)

/-- Select the messages of the next frame (R101). DESIGN CHOICE (log entry 137): those moved from a frame replaced under R115 go first,
and stay whole where PLOAM_MAX was lowered meanwhile. -/
def ploamSelect (n : Nat) (s : State) : State :=
  let p := s.pe n
  let f := p.next
  let top := s.get (pe0 n) F.PE_DS_CFG_PLOAM_MAX
  let kept := p.sel.filter (fun m => match m with | .realign _ _ => false | _ => true)
  let vend := s.vendorDue n f
  let v := vend.take (top - kept.length)
  let q := takeSeq f (top - kept.length - v.length) p.seq
  let h := takeHost n (top - kept.length - v.length - q.1.length)
    (s.modPe n (fun p => { p with seq := q.2, closeCopies := p.closeCopies - (v.filter (fun m => match m with | .lzClose _ => true | _ => false)).length }))
  let dueLeft := (q.2.filter (fun m => (match m.due with | none => true | some d => passed f d) &&
    !(q.1.contains m.msg))).length
  let defer := (vend.length - v.length) + dueLeft + ringWaiting h.2 n
  let s1 := h.2.modPe n (fun p => { p with sel := kept ++ v ++ q.1 ++ h.1, selDone := true })
  lzEval n (s1.bump (pgPE n 1) C.DS_PLOAM_DEFER defer)

/-- The header of the next frame is assembled (R92, R93): the map sealed for it, or none. -/
def headerAssemble (n : Nat) (s : State) : State :=
  let p := s.pe n
  let m : GMap := match (sget {} s.gps n).sealed_ with
    | some m => if m.sfc = p.next then m else { sfc := p.next }
    | none => { sfc := p.next }
  s.modPe n (fun p => { p with hdr := some (m, p.sel) })

/-- Queue a message of the sequencer. -/
def sendSeq (n : Nat) (m : PMsg) (copies : Nat) (s : State) : State :=
  s.modPe n (fun p => { p with seq := p.seq ++ [{ msg := m, copies := copies }] })

/-! ### The framer (R94 to R96) -/

/-- The owner of a packet has sent it: FREE, or RELEASE of its copy, marked as sent. -/
def sentRef (h req : Nat) (s : State) : State :=
  if hbits (s.hdr h) 53 47 = req then forget h (free h req s) else releaseRef h req s

/-- The XGEM frame that leaves at byte `pos` of its frame's payload: its index, last-fragment flag and encrypted payload go with it. -/
def State.xgemFrame (s : State) (n id len last pos : Nat) (d : List Byte) : Output :=
  match s.findXgem n id with
  | none => .xgem n id 0 last len d
  | some (_, e) => .xgem n id (s.keyIndex n e) last len (s.encrypt n (s.keyIndex n e) pos e d)

def sendXgem (n id len last pos : Nat) (d : List Byte) (s : State) : State :=
  (s.emitPtx n (s.xgemFrame n id len last pos d)).bump (pgPE n 1) C.DS_XGEM

/-- The bytes of an item of the encapsulator. -/
def State.itemBytes (s : State) (i : EncItem) : List Byte := match i.handle with | none => i.data | some h => (s.pktAt h).bytes

/-- The last byte of a packet is placed. -/
def itemDone (n : Nat) (i : EncItem) (s : State) : State :=
  match i.handle with
  | none => s.bump (pgPE n 1) C.DS_OMCI_TX
  | some h => sentRef h n (((xgemCount n i.xgem 4 i.len s).bump (pgPE n 1) C.DS_PKTS).bump (pgPE n 1) C.DS_BYTES i.len)

/-- The next OMCI message of the host's ring with a port to carry it (R355). -/
def nextOmci (n : Nat) : Nat → State → Option EncItem × State
  | 0, s => (none, s)
  | k + 1, s =>
    if s.quiescing (pe0 n) then (none, s) else
    let x := ringNext (96 + n) 3 1 2040 64 s
    match x.1 with
    | none => (none, x.2)
    | some d =>
      let c := slotWord d 1 % 512
      match (x.2.used (pgPE n 2) 0).find? (fun p => eget p.2 xOMCC == 1 && eget p.2 xONU == c) with
      | some (_, e) =>
        if x.2.permits n c true then (some { handle := none, xgem := eget e xID, len := slotLen d, data := slotData d }, x.2)
        else nextOmci n k (ringDrop (96 + n) x.2)
      | none => nextOmci n k (ringDrop (96 + n) x.2)

/-- Start a new XGEM frame with item `i` where `room` bytes are left of the frame (R96, R100): whole, as a first fragment, or not
at all, when an OMCI message waits to be the first XGEM frame of the next frame. -/
def fillItem (n room : Nat) (i : EncItem) (s : State) : Bool × State :=
  if xgemBytes i.len ≤ room then
    (true, (itemDone n i (sendXgem n i.xgem i.len 1 (s.frameCap n - room) (s.itemBytes i) s)).modPe n
      (fun p => { p with prog := xgemBytes i.len }))
  else if 16 ≤ room then
    (true, ((sendXgem n i.xgem (room - 8) 0 (s.frameCap n - room) ((s.itemBytes i).take (room - 8)) s).bump (pgPE n 1) C.DS_FRAGS).modPe n
      (fun p => { p with prog := room, cont := some (i, room - 8) }))
  else (false, s.modPe n (fun p => { p with enc := i :: p.enc }))

/-- Discard packets at the head of the encapsulator that became poisoned there, with how many of `present` stay (R43, R95). -/
def dropBad (n : Nat) : Nat → Nat → State → Nat × State
  | 0, present, s => (present, s)
  | f + 1, present, s =>
    match (s.pe n).enc with
    | [] => (present, s)
    | i :: r =>
      match i.handle with
      | none => (present, s)
      | some h =>
        if s.pktPoisoned h then
          dropBad n f (present - 1) (dropRef h n ((s.modPe n (fun p => { p with enc := r })).bump (pgPE n 1) C.DS_POISON))
        else (present, s)

/-- The packet at the head of the encapsulator, wholly in the buffer; with none, what is not yet whole is counted as late. -/
def fillPkt (n room present : Nat) (s : State) : Option Nat × State :=
  let x := dropBad n (s.pe n).enc.length present s
  match (x.2.pe n).enc, x.1 with
  | i :: r, k + 1 =>
    match fillItem n room i (x.2.modPe n (fun p => { p with enc := r })) with
    | (true, s2) => (some k, s2)
    | (false, s2) => (none, s2)
  | [], _ => (none, x.2)
  | _ :: _, 0 => (none, x.2.bump (pgPE n 1) C.DS_LATE_FILL)

/-- The next OMCI message that has the encapsulator's first call: one encapsulated before and held, else one of the port's ring. -/
def ownItem (n : Nat) (s : State) : Option EncItem × State :=
  match (s.pe n).enc with
  | i :: r => if i.handle.isNone then (some i, s.modPe n (fun p => { p with enc := r })) else nextOmci n 64 s
  | [] => nextOmci n 64 s

/-- Choose the next item: an OMCI message, one that waited for this frame first, then the oldest packet wholly in the buffer (R96). -/
def fillNew (n room present : Nat) (s : State) : Option Nat × State :=
  match ownItem n s with
  | (some i, s1) =>
    match fillItem n room i s1 with
    | (true, s2) => (some present, s2)
    | (false, s2) => (none, s2)
  | (none, s1) => fillPkt n room present s1

/-- Fill what is left of a codeword: `space` bytes, `after` bytes of the frame beyond it, `present` packets wholly in the
buffer; answers whether anything but drone was placed. -/
def fillLoop (n after : Nat) : Nat → Nat → Nat → Bool → State → Bool × State
  | 0, _, _, any, s => (any, s)
  | k + 1, space, present, any, s =>
    if space = 0 then (any, s)
    else if 0 < (s.pe n).prog then
      fillLoop n after k (space - min (s.pe n).prog space) present true
        (s.modPe n (fun p => { p with prog := p.prog - min p.prog space }))
    else
      match (s.pe n).cont with
      | some (i, done) =>
        fillLoop n after k space present any ((itemDone n i (sendXgem n i.xgem (i.len - done) 1 (s.frameCap n - (space + after))
            ((s.itemBytes i).drop done) s)).modPe n
          (fun p => { p with cont := none, prog := xgemBytes (i.len - done) }))
      | none =>
        match (s.pe n).ce with
        | (id, d) :: r =>
          fillLoop n after k space present any ((sendXgem n id d.length 1 (s.frameCap n - (space + after)) d s).modPe n
            (fun p => { p with ce := r, prog := xgemBytes d.length }))
        | [] =>
          match fillNew n (space + after) present s with
          | (some left, s1) => fillLoop n after k space left any s1
          | (none, s1) => (any, s1)

/-- The packets of the encapsulator, first in front, whose bytes have all been read: none is waited for at DP1 (R37, R328). -/
def State.readIn (s : State) (n : Nat) : Nat :=
  let due := (sget [] s.dm.queues 1 ++ sget [] s.dm.waiting 1).filterMap (fun r => r.handle)
  ((s.pe n).enc.takeWhile (fun i => match i.handle with | none => true | some h => !due.contains h)).length

/-- A codeword instant (R96). -/
def codewordFill (n c present : Nat) (s : State) : State :=
  if (s.pe n).short || !(s.pe n).running || decide (s.cwCount n ≤ c) then s
  else
    let cap := s.cwCap n c
    let whole := if s.pxShadow n then 0 else min present (s.readIn n)
    let f := fillLoop n (s.capAfter n c) (cap + 8) cap whole false s
    let r := (f.1, f.2.modPe n (fun p => { p with pos := s.frameCap n - s.capAfter n c }))
    let s1 := if !s.isLegacy n && decide (1824 < cap) then r.2.bump (pgPE n 1) C.DS_CW_LEAN else r.2.bump (pgPE n 1) C.DS_CW_STD
    if r.1 then s1 else if (s1.pe n).enc.isEmpty || decide (0 < whole) then s1.bump (pgPE n 1) C.DS_CW_IDLE else s1

/-! ### Meanings -/

/-- The frame engine runs. -/
def State.peUp (s : State) (n : Nat) : Bool := s.en (pe0 n) && ((s.pe n).running || (s.pe n).waiting)

def execPloamSelect (port : Fin 48) (s : State) : Res :=
  .next (if s.peUp port.val && !(s.pe port.val).selDone then ploamSelect port.val s else s)

def execHeaderAssemble (port : Fin 48) (s : State) : Res :=
  .next (if s.peUp port.val then headerAssemble port.val s else s)

def execCodewordFill (port : Fin 48) (cw : Fin 627) (present : Nat) (s : State) : Res :=
  .next (if s.peUp port.val then codewordFill port.val cw.val present s else s)

def execLzStartWrite (fn : Fn) (port : Fin 48) (w : Word) (s : State) : Res :=
  .next (s.access fn.val (lzAddr port.val) (fun _ _ s => lzStartWrite port.val w s))

def execLzOpened (port : Fin 48) (s : State) : Res := .next (lzOpened port.val s)

def execLzClosed (port : Fin 48) (s : State) : Res := .next (lzClosed port.val s)

def execRealign (fn : Fn) (port : Fin 48) (s : State) : Res :=
  .next (s.access fn.val (pe0 port.val + 0x050) (fun _ _ s => realign port.val s))

def execRealignApply (port : Fin 48) (s : State) : Res := .next (realignApply port.val s)

def execSfcOfsWrite (fn : Fn) (port : Fin 48) (w : Word) (s : State) : Res :=
  .next (s.access fn.val (pe0 port.val + 0x04C) (fun _ _ s => ofsWrite port.val w s))

end Sys2Proof.Machine
end

