-- ==== Sys2Proof/Machine/Margin.lean ====
section
/-! DEFINITION. Chapter 08: margins, the ladder of burst profiles, flap limit, advice, and lean-zone eligibility
(R192 to R208). -/

namespace Sys2Proof.Machine

def pgMS (n : Nat) : Nat := pgPE n 8

def mSETMAX : TF := ⟨0, 31, 31⟩
def mDOWN : TF := ⟨0, 23, 16⟩
def mNOLAD : TF := ⟨0, 11, 11⟩
def mPROB : TF := ⟨0, 10, 10⟩
def mPIN : TF := ⟨0, 9, 9⟩
def mMAX : TF := ⟨0, 8, 6⟩
def mPROFILE : TF := ⟨0, 5, 3⟩
def mRUNG : TF := ⟨0, 2, 0⟩
def mPROBLEFT : TF := ⟨1, 31, 16⟩
def mUP : TF := ⟨1, 15, 0⟩
def mLAMBDA : TF := ⟨2, 27, 16⟩
def mMARGIN : TF := ⟨2, 15, 0⟩
def mCORR : TF := ⟨5, 31, 0⟩
def mDSAGE : TF := ⟨6, 31, 20⟩
def mSETDS : TF := ⟨6, 19, 19⟩
def mDSUNC : TF := ⟨6, 18, 18⟩
def mDSSRC : TF := ⟨6, 17, 16⟩
def mDSMARGIN : TF := ⟨6, 15, 0⟩
def mCHANGES : TF := ⟨7, 15, 8⟩
def mFLAP : TF := ⟨7, 7, 0⟩

def State.mrec (s : State) (n c : Nat) : Entry := s.ent (pgMS n) 0 c
def setM (n c : Nat) (f : Entry → Entry) (s : State) : State := s.setEnt (pgMS n) 0 c (f (s.mrec n c))
def State.mget (s : State) (n c : Nat) (f : TF) : Nat := eget (s.mrec n c) f
def mput (n c : Nat) (f : TF) (v : Nat) : State → State := setM n c (fun e => eput e f v)

/-- ACC_SYM (48 bits). -/
def accSym (e : Entry) : Nat := ew2 e 3 % 2 ^ 48

/-! ### From counts to a margin (R193, R194) -/

/-- Λ = floor(64 × log2(N / max(C, 1))), capped at 4,095. -/
def lambdaOf (n c : Nat) : Nat := min 4095 (Nat.log2 (n ^ 64 / (max c 1) ^ 64))

/-- The margin of Λ by the port's table, in 0.1 dB. -/
def State.marginOf (s : State) (n l : Nat) : Int :=
  let i := ((List.range 16).filter (fun i => decide (s.get (pgMS n) (F.PE_MS_MTBL_TH.ix i) ≤ l))).foldl max 0
  s.getI (pgMS n) (F.PE_MS_MTBL_MARGIN.ix i)

/-! ### The ladder (R195) -/

/-- Rung `r` of the ladder: its profile, none where it is not valid. -/
def State.rung (s : State) (n r : Nat) : Option Nat :=
  let w := (s.reg (pgMS n + 0x0D0)).toNat
  if 7 < r ∨ fld w (4 * r + 3) (4 * r + 3) = 0 then none else some (fld w (4 * r + 2) (4 * r))

/-- The position of a profile on the ladder. -/
def State.rungOf (s : State) (n prof : Nat) : Option Nat := (List.range 8).find? (fun r => s.rung n r == some prof)

/-- Clear the accumulator. -/
def clearAcc (n c : Nat) : State → State := setM n c (fun e => eput (ewPut (ewPut e 3 0) 4 0) mCORR 0)

/-- A context holds rung `r` with profile `prof`: counts and accumulator restart at every change of rung, whatever its cause. -/
def holdRung (n c r prof : Nat) (s : State) : State :=
  clearAcc n c (setM n c (fun e => eput (eput (eput (eput e mRUNG r) mPROFILE prof) mUP 0) mDOWN 0) s)

/-- Give a context the rung of its profile, or NOLAD. -/
def deriveRung (n c prof : Nat) (s : State) : State :=
  match s.rungOf n prof with
  | some r =>
    let s1 := setM n c (fun e => eput (eput e mPROFILE prof) mNOLAD 0) s
    if s.mget n c mRUNG = r then s1 else holdRung n c r prof s1
  | none => setM n c (fun e => eput (eput e mPROFILE prof) mNOLAD 1) s

/-- A committed ladder write re-derives every context's rung. -/
def rederive (n : Nat) (s : State) : State := (s.liveCtx n).foldl (fun s c => deriveRung n c (s.mget n c mPROFILE) s) s

/-- A change to a rung of the ladder. -/
def setRung (n c r : Nat) (s : State) : State :=
  holdRung n c r (match s.rung n r with | some p => p | none => s.mget n c mPROFILE) s

/-! ### Advice (R203, R204) -/

/-- Post one record on the port's ADVICE ring. -/
def advice (n kind c src dst : Nat) (margin : Int) (lambda flap : Nat) (s : State) : State :=
  let sfc := (s.pe n).sfc
  let w := [kind * 2 ^ 28 + n * 2 ^ 16 + c, src * 2 ^ 24 + dst * 2 ^ 16 + ofSigned 16 margin, sfc % 2 ^ 32, sfc / 2 ^ 32,
            lambda * 2 ^ 16 + flap % 256, 0, 0, 0]
  let e := ringEnt s (192 + n)
  let r := ringPost (192 + n) (w.flatMap wordBytes) s
  if r.1 || eget e RF.EN == 0 || !ringFull e then r.2 else r.2.bump (pgMS n) C.MS_ADV_DROP

/-- In Advise mode a record of one kind for one context is posted once in REP superframes; whether it was due. -/
def adviceDue (s : State) (n kind c : Nat) : Bool :=
  match (s.cx n c).posted.find? (fun p => p.1 == kind) with
  | none => true
  | some (_, f) => decide (s.get (pgMS n) F.PE_MS_ADV_REP * 8 ≤ sfcDiff (s.pe n).sfc f)

def notePosted (n kind c : Nat) (s : State) : State :=
  s.modCx n c (fun x => { x with posted := (kind, (s.pe n).sfc) :: x.posted.filter (fun p => p.1 != kind) })

def State.msMode (s : State) (n : Nat) : Nat := s.get (pgMS n) F.PE_MS_CTRL_MODE
def State.msLog (s : State) (n : Nat) : Bool := s.bit (pgMS n) F.PE_MS_CTRL_LOG

/-! ### Moves (R196 to R198, R201) -/

/-- Changes in the flap window. -/
def flapCount (x : Ctx) : Nat := (x.flap.take 6).foldl (· + ·) 0

/-- The FLAP field follows the window. -/
def flapStat (n c : Nat) (s : State) : State := mput n c mFLAP (flapCount (s.cx n c)) s

/-- The counter of a kind of move. -/
def moveCtr (kind : Nat) : Ctr := if kind = 1 then C.MS_ROBUST else if kind = 2 then C.MS_FAST else C.MS_REVERT

/-- The rung that a context leaves was held up to the current bucket (R201). -/
def noteRung (n c : Nat) (s : State) : State :=
  s.modCx n c (fun x => { x with rungs := (s.mget n c mRUNG, (s.pe n).bucket) :: x.rungs })

/-- Before a move: what the context holds, unless an earlier move since the last build kept it (R199, R202). -/
def keepUndo (n c : Nat) (s : State) : State :=
  let e := s.mrec n c
  s.modCx n c (fun x => match x.undo with
    | some _ => x
    | none => { x with undo := some ⟨eget e mRUNG, eget e mPROFILE, eget e mPROB, eget e mPROBLEFT, eget e mCHANGES, x.flap, x.rungs⟩ })

/-- A build commits the moves decided before it (R199). -/
def commitMoves (n : Nat) (s : State) : State :=
  s.modPe n (fun p => { p with ctxs := smapv {} (fun x => { x with undo := none }) p.ctxs })

/-- Pin a context at the lowest rung it held within the window (R201). -/
def pin (n c : Nat) (margin : Int) (lambda : Nat) (s : State) : State :=
  let x := s.cx n c
  let low := (x.rungs.map (fun p => p.1)).foldl min (s.mget n c mRUNG)
  let src := s.mget n c mPROFILE
  let s1 := if low = s.mget n c mRUNG then s else setRung n c low (noteRung n c s)
  let s2 := (mput n c mPIN 1 s1).modCx n c (fun x => { x with pinAt := s1.now })
  let s3 := ((s2.put (pgMS n) F.PE_MS_LAST_PIN_CTX c).bump (pgMS n) C.MS_PINS).raise (pe0 n) 2
  if s3.msLog n then advice n 4 c src (s3.mget n c mPROFILE) margin lambda (flapCount x) s3 else s3

/-- Carry out a move to rung `r` in Auto mode (kind 1 robust, 2 fast, 3 revert). -/
def autoMove (n c kind r : Nat) (margin : Int) (lambda : Nat) (s : State) : State :=
  let src := s.mget n c mPROFILE
  let s1 := setRung n c r (noteRung n c (keepUndo n c s))
  let s2 := setM n c (fun e =>
    let e1 := eput e mCHANGES (eget e mCHANGES + 1)
    if kind = 2 then eput (eput e1 mPROB 1) mPROBLEFT (s.get (pgMS n) F.PE_MS_PROB_PROB)
    else if kind = 3 then eput (eput e1 mPROB 0) mPROBLEFT 0 else e1) s1
  let s3 := flapStat n c (s2.modCx n c (fun x =>
    { x with flap := (match x.flap with | [] => [1] | k :: t => (k + 1) :: t) }))
  let s4 := s3.bump (pgMS n) (moveCtr kind)
  let s5 := if s4.msLog n then advice n kind c src (s4.mget n c mPROFILE) margin lambda (flapCount (s4.cx n c)) s4 else s4
  if s5.mget n c mPIN = 0 && decide (s5.get (pgMS n) F.PE_MS_PROB_FLAP_MAX ≤ flapCount (s5.cx n c)) then pin n c margin lambda s5
  else s5

/-- A decision by the mode (R203): nothing, a record, or the move. `restart` restarts the count behind it. -/
def decision (n c kind r : Nat) (margin : Int) (lambda : Nat) (restart : State → State) (s : State) : State :=
  if s.msMode n = 2 then autoMove n c kind r margin lambda s
  else if s.msMode n = 1 then
    let s1 := restart s
    if adviceDue s1 n kind c then
      let dst := match s1.rung n r with | some p => p | none => s1.mget n c mPROFILE
      (advice n kind c (s1.mget n c mPROFILE) dst margin lambda (flapCount (s1.cx n c)) (notePosted n kind c s1)).bump (pgMS n)
        (moveCtr kind)
    else s1
  else s

/-- The context is in AUTH_HOLD or OPERATION. -/
def State.inService (s : State) (n c : Nat) : Bool := s.st n c == 5 || s.st n c == 6

/-- ROBUST_MOVE falls due (R196, R198). -/
def robustMove (n c : Nat) (s : State) : State :=
  if s.inService n c && decide (s.get (pgMS n) F.PE_MS_CFG_DOWN_N ≤ s.mget n c mDOWN) && s.mget n c mNOLAD == 0 then
    let r := s.mget n c mRUNG
    if r = 0 then mput n c mDOWN 0 s
    else
      let kind := if s.mget n c mPROB = 1 then 3 else 1
      decision n c kind (r - 1) (toSigned 16 (s.mget n c mMARGIN)) (s.mget n c mLAMBDA) (mput n c mDOWN 0) s
  else s

/-- FAST_MOVE falls due (R197). -/
def fastMove (n c : Nat) (s : State) : State :=
  let r := s.mget n c mRUNG
  if s.inService n c && decide (s.get (pgMS n) F.PE_MS_CFG_UP_K ≤ s.mget n c mUP) && s.mget n c mNOLAD == 0 &&
      decide (r < s.mget n c mMAX) && (s.rung n (r + 1)).isSome && s.mget n c mPROB == 0 && s.mget n c mPIN == 0 then
    let l := lambdaOf (accSym (s.mrec n c)) (s.mget n c mCORR)
    decision n c 2 (r + 1) (s.marginOf n l) l (mput n c mUP 0) s
  else s

/-- A score reaches margin steering (R192, R193, R195, R196, R198): `sym` symbols decoded, `corr` corrected. -/
def marginScore (n c disp prof sym corr : Nat) (s : State) : State :=
  if s.inService n c && s.mget n c mPROFILE == prof && (disp == 2 || disp == 4 ||
      (disp == 0 && decide (s.get (pgMS n) F.PE_MS_CFG_MIN_SYM * 1024 ≤ sym))) then
    let l := lambdaOf sym corr
    let m := s.marginOf n l
    let low := disp != 0 || decide (m < s.getI (pgMS n) F.PE_MS_THR_LOW_TH)
    let s1 := if disp = 2 then s
              else if disp = 4 then mput n c mLAMBDA l s
              else setM n c (fun e => eput (eput e mLAMBDA l) mMARGIN (ofSigned 16 m)) s
    let s2 := if disp = 2 then s1 else s1.modCx n c (fun x => { x with scored := true })
    let s3 :=
      if low then clearAcc n c (mput n c mDOWN (min 255 (s2.mget n c mDOWN + 1)) s2)
      else setM n c (fun e =>
        let a := min (accSym e + sym) (2 ^ 48 - 1)
        eput (ewPut (eput (ewPut e 3 a) ⟨4, 15, 0⟩ (a / 2 ^ 32)) 5 (min (eget e mCORR + corr) (2 ^ 32 - 1))) mDOWN 0) s2
    if disp ≠ 0 ∧ s3.mget n c mPROB = 1 ∧ s3.mget n c mNOLAD = 0 ∧ 0 < s3.mget n c mRUNG then
      decision n c 3 (s3.mget n c mRUNG - 1) (toSigned 16 (s3.mget n c mMARGIN)) l (fun s => s) s3
    else s3
  else s

/-- The superframe boundary of one context (R197, R198, R205): the up count, probation and the age of its margin. -/
def marginCtx (n c : Nat) (s : State) : State :=
  let x := s.cx n c
  let s1 :=
    if x.scored && s.inService n c then
      let l := lambdaOf (accSym (s.mrec n c)) (s.mget n c mCORR)
      let up := if s.getI (pgMS n) F.PE_MS_THR_HIGH_TH ≤ s.marginOf n l then
          min (s.mget n c mUP + 1) (s.get (pgMS n) F.PE_MS_CFG_UP_K) else 0
      mput n c mUP up s
    else s
  let s2 := s1.modCx n c (fun x => { x with scored := false })
  let s3 := if s2.mget n c mPROB = 1 then mput n c mPROBLEFT (s2.mget n c mPROBLEFT - 1) s2 else s2
  if s3.mget n c mDSSRC = 0 then s3
  else
    let k := (s3.cx n c).dsFor + 1
    mput n c mDSAGE (min 4095 (k / 16)) (s3.modCx n c (fun x => { x with dsFor := k }))

/-- Probation ends (R198). -/
def probationEnd (n c : Nat) (s : State) : State :=
  if s.mget n c mPROB = 1 ∧ s.mget n c mPROBLEFT = 0 then mput n c mPROB 0 s else s

/-- The flap window advances by one bucket (R201). -/
def flapBucket (n : Nat) (s : State) : State :=
  let s1 := s.modPe n (fun p => { p with bucket := p.bucket + 1 })
  (s.liveCtx n).foldl (fun s c => flapStat n c (s.modCx n c (fun x =>
    { x with flap := (0 :: x.flap).take 6, rungs := x.rungs.filter (fun p => decide ((s1.pe n).bucket ≤ p.2 + 5)) }))) s1

/-- A pin ends: window and up count are cleared (R201). -/
def unpin (n c : Nat) (s : State) : State :=
  if s.mget n c mPIN = 1 then
    let s1 := setM n c (fun e => eput (eput (eput e mPIN 0) mUP 0) mFLAP 0) s
    let s2 := s1.modCx n c (fun x => { x with flap := [] })
    let p := s2.mget n c mPROFILE
    if s2.msMode n = 2 && s2.msLog n then
      advice n 5 c p p (toSigned 16 (s2.mget n c mMARGIN)) (s2.mget n c mLAMBDA) 0 s2
    else s2
  else s

/-- PIN_HOLD hours have passed. -/
def pinExpiry (n c : Nat) (s : State) : State :=
  let h := s.get (pgMS n) F.PE_MS_PROB_PIN_HOLD
  if h ≠ 0 ∧ (s.cx n c).pinAt + h * 3600 * cyclesPerSec ≤ s.now then unpin n c s else s

/-- In Auto mode a command discards the moves decided and not yet committed to a build: the context is as it was before them (R202).
DESIGN CHOICE (log entry 143): counters and records posted stay. -/
def dropMoves (n c : Nat) (s : State) : State :=
  match (s.cx n c).undo with
  | none => s
  | some u =>
    if s.msMode n = 2 then
      let s1 := setM n c (fun e => eput (eput (eput e mPROB u.prob) mPROBLEFT u.left) mCHANGES u.changes) (holdRung n c u.rung u.prof s)
      flapStat n c (s1.modCx n c (fun x => { x with undo := none, flap := u.flap, rungs := u.rungs }))
    else s

/-- A write of PE_MS_CMD (R202). -/
def msCommand (n w : Nat) (s : State) : State :=
  let op := fld w 31 28
  let c := fld w 8 0
  let r := fld w 18 16
  let rej (s : State) := s.putBit (pgMS n) F.PE_MS_CMD_STAT_REJ true
  if op = 0 then s
  else if s.inService n c = false ∨ 3 < op then rej s
  else if op = 1 then
    if (s.rung n r).isNone || decide (s.mget n c mMAX < r) then rej s
    else
      let s1 := setRung n c r (noteRung n c (dropMoves n c s))
      (setM n c (fun e => eput (eput (eput (eput e mNOLAD 0) mPIN 0) mPROB 0) mPROBLEFT 0) s1)
  else if op = 2 then unpin n c (dropMoves n c s)
  else mput n c mFLAP 0 ((dropMoves n c s).modCx n c (fun x => { x with flap := [] }))

/-- A context enters AUTH_HOLD with its approved profile (R195). -/
def marginEnter (n c prof : Nat) (s : State) : State := deriveRung n c prof s

/-- A context enters LOST (R200). -/
def marginLost (n c : Nat) (s : State) : State :=
  clearAcc n c (setM n c (fun e => eput (eput (eput (eput e mUP 0) mDOWN 0) mPROB 0) mPROBLEFT 0) s)

/-- A context passes through FREE (R200): its record is cleared. -/
def marginFree (n c : Nat) (s : State) : State := s.setEnt (pgMS n) 0 c (entReset (tkey (pgMS n) 0 c))

/-- WRITE of a margin record (R208). -/
def msWrite (n c : Nat) (d : Entry) (s : State) : Nat × State :=
  if s.st n c = 0 then (7, s)
  else
    let s1 := if eget d mSETMAX = 1 then mput n c mMAX (eget d mMAX) s else s
    let s2 := if eget d mSETDS = 1 then
        (setM n c (fun e => eput (eput (eput (eput e mDSMARGIN (eget d mDSMARGIN)) mDSSRC 2) mDSAGE 0) mDSUNC 0) s1).modCx n c
          (fun x => { x with dsFor := 0 })
      else s1
    (0, s2)

/-! ### Lean-zone eligibility (R205, R206) -/

/-- An extended margin report (R205). -/
def marginReport (n c fmt : Nat) (margin : Int) (unc : Nat) (s : State) : State :=
  if s.level3 n c < 3 ∨ fmt ≠ 1 then s.bump (pgMS n) C.MS_RPT_BAD
  else
    let s1 := (setM n c (fun e => eput (eput (eput e mDSMARGIN (ofSigned 16 margin)) mDSSRC 1) mDSAGE 0) s).modCx n c
      (fun x => { x with dsFor := 0 })
    (mput n c mDSUNC (if unc = 0 then 0 else 1) s1).bump (pgMS n) C.MS_RPT_RX

/-- ELIG changes: the bit, its record, and the zone. -/
def setElig (n : Nat) (v : Bool) (s : State) : State :=
  let was := s.bit (pe0 n) F.PE_LZ_STATUS_ELIG
  if was = v then s
  else
    let s1 := s.putBit (pe0 n) F.PE_LZ_STATUS_ELIG v
    let b (x : Bool) : Nat := if x then 1 else 0
    let s2 := if s1.msMode n = 1 || s1.msLog n then
        advice n 6 0 (b was) (b v) (s1.getI (pgMS n) F.PE_MS_LZ_STAT_MIN) 0 0 s1
      else s1
    lzEval n s2

/-- The judgement of a superframe boundary (R206). -/
def eligEval (n : Nat) (s : State) : State :=
  if s.isLegacy n then s
  else
    let age := s.get (pgMS n) F.PE_MS_LZ2_LZ_AGE
    let known (c : Nat) : Bool := s.mget n c mDSSRC != 0 && decide (s.mget n c mDSAGE ≤ age)
    let grace := s.get (pgMS n) F.PE_MS_LZ2_LZ_GRACE
    let judged := (s.liveCtx n).filter (fun c => s.ranged n c &&
      (known c || decide (grace * 8 ≤ sfcDiff (s.pe n).sfc (s.cx n c).rangedAt)))
    let dm (c : Nat) : Int := toSigned 16 (s.mget n c mDSMARGIN)
    let unk := judged.filter (fun c => !known c)
    let kn := judged.filter known
    let low := kn.foldl (fun (b : Option Nat) c => match b with | none => some c | some x => if dm c < dm x then some c else some x) none
    let s1 := s.putI (pgMS n) F.PE_MS_LZ_STAT_MIN (match low with | none => 0 | some c => dm c)
    let s2 := (s1.putBit (pgMS n) F.PE_MS_LZ_STAT_UNKNOWN (!unk.isEmpty)).put (pgMS n) F.PE_MS_LZ_STAT_CTX
      (match unk with | c :: _ => c | [] => (match low with | none => 0 | some c => c))
    let off := s.getI (pgMS n) F.PE_MS_LZ_LZ_OFF
    let on := s.getI (pgMS n) F.PE_MS_LZ_LZ_ON
    if !unk.isEmpty || kn.any (fun c => s.mget n c mDSUNC == 1 || decide (dm c < off)) then
      setElig n false (s2.modPe n (fun p => { p with onCount := 0 }))
    else if !judged.isEmpty && kn.all (fun c => decide (on ≤ dm c)) then
      s2.modPe n (fun p => { p with onCount := min (p.onCount + 1) (s.get (pgMS n) F.PE_MS_LZ2_LZ_K) })
    else s2.modPe n (fun p => { p with onCount := 0 })

/-- LZ_ELIG_SET: the on-count has reached LZ_K. -/
def eligSet (n : Nat) (s : State) : State :=
  if !s.isLegacy n && decide (s.get (pgMS n) F.PE_MS_LZ2_LZ_K ≤ (s.pe n).onCount) then setElig n true s else s

/-- Everything tied to a superframe boundary (R112). -/
def superframe (n : Nat) (s : State) : State :=
  eligEval n ((s.liveCtx n).foldl (fun s c => marginCtx n c s) s)

/-! ### Meanings -/

def execRobustMove (port : Fin 48) (ctx : Fin 512) (s : State) : Res := .next (robustMove port.val ctx.val s)

def execFastMove (port : Fin 48) (ctx : Fin 512) (s : State) : Res := .next (fastMove port.val ctx.val s)

def execProbationEnd (port : Fin 48) (ctx : Fin 512) (s : State) : Res := .next (probationEnd port.val ctx.val s)

def execFlapBucket (port : Fin 48) (s : State) : Res := .next (flapBucket port.val s)

def execPinExpiry (port : Fin 48) (ctx : Fin 512) (t : Nat) (s : State) : Res := .next (pinExpiry port.val ctx.val (s.at t))

/-- A write of PE_MS_CMD with the operation `op`. -/
def msWriteCmd (fn n op : Nat) (w : Word) (s : State) : State :=
  let v : Word := BitVec.ofNat 32 (op * 2 ^ 28 + w.toNat % 2 ^ 28)
  s.hostWrite fn (pgMS n + 0x0E4) v (fun s _ => msCommand n v.toNat s)

def execSetRung (fn : Fn) (port : Fin 48) (w : Word) (s : State) : Res := .next (msWriteCmd fn.val port.val 1 w s)

def execUnpin (fn : Fn) (port : Fin 48) (w : Word) (s : State) : Res := .next (msWriteCmd fn.val port.val 2 w s)

def execClrFlap (fn : Fn) (port : Fin 48) (w : Word) (s : State) : Res := .next (msWriteCmd fn.val port.val 3 w s)

def execLzEligSet (port : Fin 48) (s : State) : Res := .next (eligSet port.val s)

end Sys2Proof.Machine
end

