-- ==== Sys2Proof/Machine/Act.lean ====
section
/-! DEFINITION. Chapter 06: activation, ranging, levels, loss and re-activation (R147 to R162). -/

namespace Sys2Proof.Machine

/-! ### Settings and windows (R126, R150, R151) -/

def bEN : TF := ⟨0, 31, 31⟩
def bRATE : TF := ⟨0, 26, 24⟩
def bFEC : TF := ⟨0, 20, 20⟩
def bDLEN : TF := ⟨0, 16, 16⟩
def bPRE : TF := ⟨0, 10, 0⟩
def bDERR : TF := ⟨1, 11, 8⟩
def bGUARD : TF := ⟨1, 7, 0⟩

/-- Burst profile `p` of a port (R126). -/
def State.prof (s : State) (n p : Nat) : Entry := s.ent (pgPE n 4) 0 p

def State.profOn (s : State) (n p : Nat) : Bool := eget (s.prof n p) bEN == 1

/-- The bit interval of a burst rate in those parts: 49.7664, 24.8832, 12.4416 and 9.95328 Gb/s. -/
def uiLen (rate : Nat) : Nat := 1250 * [1, 2, 4, 5].getD rate 1

/-- Preamble and delimiter of a profile. -/
def preDelim (e : Entry) : Nat := (eget e bPRE * 8 + (if eget e bDLEN = 1 then 64 else 32)) * uiLen (eget e bRATE)

/-- T_SN: one response in a profile. -/
def tSn (e : Entry) : Nat := preDelim e + 1024 * uiLen (eget e bRATE)

/-- The activation profile. -/
def State.actProf (s : State) (n : Nat) : Nat := s.get (pgPE n 7) F.PE_ACT_CFG_PROF

def State.usWin (s : State) (n : Nat) : Nat := s.get (pgPE n 4) F.PE_US_CFG_WIN

/-- A of R150. -/
def State.snA (s : State) (n : Nat) : Int :=
  let pg := pgPE n 7
  ((980 * s.get pg F.PE_ACT_REACH_LMIN + s.get pg F.PE_ACT_RSP_RSP_MIN + s.get pg F.PE_ACT_REACH_LOOP : Nat) -
    (s.usWin n : Int)) * qUnit

/-- QW of R150. -/
def State.snQw (s : State) (n : Nat) : Nat :=
  let pg := pgPE n 7
  (980 * (s.get pg F.PE_ACT_REACH_LMAX - s.get pg F.PE_ACT_REACH_LMIN) +
    (s.get pg F.PE_ACT_RSP_RSP_MAX - s.get pg F.PE_ACT_RSP_RSP_MIN) + s.get pg F.PE_ACT_RD_RD_MAX + 2 * s.usWin n) * qUnit +
    tSn (s.prof n (s.actProf n))

/-- RQW of R151. -/
def State.rqw (s : State) (n : Nat) : Nat :=
  (s.get (pgPE n 7) F.PE_ACT_RD_RD_MAX + 2 * s.usWin n) * qUnit + tSn (s.prof n (s.actProf n))

/-- A length in whole nanoseconds, rounded up. -/
def ceilNs (x : Nat) : Nat := (x + qUnit - 1) / qUnit

def State.gp (s : State) (n : Nat) : Gp := sget {} s.gps n

def State.modGp (s : State) (n : Nat) (f : Gp → Gp) : State := { s with gps := sset {} s.gps n (f (s.gp n)) }

/-- Ask the grant slice for a window (R178). -/
def askWindow (n : Nat) (q : QReq) (s : State) : State := s.modGp n (fun g => { g with reqs := g.reqs ++ [q] })

/-! ### Records and lists -/

def aCTX : TF := ⟨2, 24, 16⟩
def aONU : TF := ⟨2, 9, 0⟩
def aDIS : TF := ⟨3, 31, 31⟩
def aLMAX : TF := ⟨3, 29, 28⟩
def aPROF : TF := ⟨3, 26, 24⟩

/-- The approved entry of a serial number (VSSN + VID × 2^32) on a port. -/
def State.findSn (s : State) (n sn : Nat) : Option (Nat × Entry) :=
  (s.used (pgPE n 7) 0).find? (fun p => ew2 p.2 0 == sn)

/-- The port whose approved list holds a serial number (R152). -/
def State.snPort (s : State) (sn : Nat) : Option Nat := (List.range 48).find? (fun n => (s.findSn n sn).isSome)

/-- The approved entry of a context. -/
def State.ctxEntry (s : State) (n c : Nat) : Entry :=
  match (s.used (pgPE n 7) 0).find? (fun p => eget p.2 aCTX == c) with | some p => p.2 | none => 0

def State.onuId (s : State) (n c : Nat) : Nat := eget (s.crec n c) cONU

def State.eqd (s : State) (n c : Nat) : Int := toSigned 32 (ew (s.crec n c) 1)

/-- Messages of the sequencer that belong to the steps of context `c` with ONU-ID `o`. -/
def msgOf (c o : Nat) : PMsg → Bool
  | .assign c' _ _ => c' == c
  | .levelQuery c' _ => c' == c
  | .levelSet c' _ _ => c' == c
  | .rangingTime o' _ rel _ => o' == o && !rel
  | _ => false

/-- Abandon a context's steps (R160): its messages not yet in a header, its window requests, and its grants planned or in a map under
construction. The silences reserved for them stay (R181). -/
def dropAct (n c : Nat) (s : State) : State :=
  let keep (r : QReq) : Bool := !((r.kind == 1 || r.kind == 2) && r.ctx == c)
  let keepG (q : QGrant) : Bool := !((q.kind == 1 || q.kind == 2) && q.ctx == c)
  let o := s.onuId n c
  (s.modPe n (fun p => { p with seq := p.seq.filter (fun m => !msgOf c o m.msg), sel := p.sel.filter (fun m => !msgOf c o m) })).modGp n
    (fun g => { g with reqs := g.reqs.filter keep, plans := g.plans.filter (fun p => keepG p.2.1),
                       built := g.built.map (fun b => { b with map := { b.map with grants := b.map.grants.filter keepG },
                                                               plan := b.plan.filter (fun p => keepG p.2.1),
                                                               noplan := b.noplan.filter keep, omitted := b.omitted.filter keep }) })

def ploamKeyDelete (n c : Nat) (s : State) : State :=
  { s.setEnt (pgPE n 3) 1 c 0 with keys := sset 0 s.keys (ploamSlot n c) 0 }

/-- The keys of a context are deleted as it passes through FREE (R122, R479). -/
def dropKeys (n c : Nat) (s : State) : State := ploamKeyDelete n c (keyDelete n c s)

/-- A context goes to FREE with Deactivate_ONU-ID (R148, R159, R160); its keys and margin record go with it. -/
def freeCtx (n c : Nat) (s : State) : State :=
  let s1 := sendSeq n (.deactivate (s.onuId n c)) 1 (dropAct n c s)
  let s2 := (marginFree n c (dropKeys n c s1)).setEnt (pgPE n 7) 1 c 0
  lzEval n (s2.modPe n (fun p => { p with ctxs := sset {} p.ctxs c {} }))

/-- As `freeCtx`, counted. -/
def failCtx (n c : Nat) (k : Ctr) (s : State) : State := (freeCtx n c s).bump (pgPE n 7) k

/-- A context goes to DISABLED (R152, R156). -/
def disableCtx (n c sn : Nat) (s : State) : State :=
  let s1 := sendSeq n (.disable sn false) 1 (dropAct n c s)
  let s2 := (marginFree n c (dropKeys n c s1)).setEnt (pgPE n 7) 1 c (ew2Put (eput 0 cST 7) 3 sn)
  lzEval n (s2.modPe n (fun p => { p with ctxs := sset {} p.ctxs c {} }))

/-! ### Serial numbers (R149, R152, R154) -/

/-- Announce the enabled burst profiles (R149): with the map of a frame, or in the next frames. -/
def announceProfiles (n : Nat) (due : Option Nat) (s : State) : State :=
  let msgs := ((List.range 8).filter (fun i => s.profOn n i)).map (fun i => ({ msg := .burstProfile i, copies := 1, due := due } : SeqMsg))
  let old (m : SeqMsg) : Bool := match m.msg with | .burstProfile _ => due.isNone && m.due.isNone | _ => false
  s.modPe n (fun p => { p with seq := p.seq.filter (fun m => !old m) ++ msgs })

/-- The profile table changed (R149). -/
def profilesChanged (n : Nat) (s : State) : State := s.when (s.peUp n && !s.pxShadow n) (announceProfiles n none)

/-- SN_PER has passed (R149). -/
def snWindow (n : Nat) (s : State) : State :=
  if s.peUp n && !s.pxShadow n && s.bit (pgPE n 7) F.PE_ACT_CFG_SN_EN && s.profOn n (s.actProf n) &&
      !(s.gp n).reqs.any (fun r => r.kind == 0) then
    askWindow n { kind := 0, prof := s.actProf n, ofs := s.snA n, len := s.snQw n } s
  else s

/-- Post a message on the host PLOAM ring (R354): STAT 0 passed, 1 discovery, 2 duplicate. -/
def postPloam (n stat ctx sfc : Nat) (msg : List Byte) (s : State) : State :=
  (ringPost (48 + n) (slotHdr 2 stat 0 48 ctx (sfc % 2 ^ 32) (sfc / 2 ^ 32) [] ++ msg.take 48) s).2.raise (pe0 n) 8

/-- A PLOAM message passes to the host (R136). -/
def passPloam (n ctx sfc : Nat) (msg : List Byte) (s : State) : State :=
  postPloam n 0 ctx sfc msg (s.bump (pgPE n 5) C.US_PLOAM_RX)

/-- ONU_WRONG_PORT (R154): raised again for one serial number only after REPEAT seconds. -/
def wrongPort (n sn port : Nat) (s : State) : State :=
  let s1 := s.bump (pgPE n 7) C.ACT_WRONG_PORT
  let hold := s.get (pgPE n 7) F.PE_ACT_CFG_REPEAT * cyclesPerSec
  let recent := match (s.pe n).wrong.find? (fun p => p.1 == sn) with | none => false | some p => decide (s.now < p.2 + hold)
  if recent then s1
  else
    let s2 := s1.modPe n (fun p => { p with wrong := (sn, s.now) :: p.wrong.filter (fun q => q.1 != sn) })
    let s3 := (s2.put (pgPE n 7) F.PE_ACT_WRONG_PORT port).put (pgPE n 7) F.PE_ACT_WRONG_SN_LO_SN sn
    (s3.put (pgPE n 7) F.PE_ACT_WRONG_SN_HI_SN (sn / 2 ^ 32)).raise (pe0 n) 1

/-- Start an activation: step 2 of R148. -/
def startAct (n c x sn : Nat) (e : Entry) (s : State) : State :=
  let r : Entry := ew2Put (eput (eput 0 cST 1) cONU (eget e aONU)) 3 sn
  let s1 := s.setEnt (pgPE n 7) 1 c r
  let s2 := s1.modPe n (fun p => { p with ctxs := sset {} p.ctxs c { x := x } })
  lzEval n (sendSeq n (.assign c (eget e aONU) sn) 3 s2)

/-- The last delimiter bit of a response `x` (in 1/64 ns) after Sk + ST lies in the window (R150). -/
def SnWin.holds (w : SnWin) (x : Nat) : Bool :=
  decide (w.grant.ofs ≤ ((x * 972 : Nat) : Int)) && decide (((x * 972 : Nat) : Int) ≤ w.grant.ofs + (w.grant.len : Int))

/-- A serial-number window in which a response can be found. -/
def State.snOpen (s : State) (n x : Nat) : Option SnWin := (s.pe n).snWin.filter (fun w => w.holds x)

/-- A serial number response accepted in a window (R150, R152). -/
def snResponse (n sn x : Nat) (msg : List Byte) (s : State) : State :=
  match s.snOpen n x with
  | none => s
  | some w =>
    let seen := w.seen
    let sfc := (s.pe n).sfc
    let rx (s : State) : State := s.bump (pgPE n 7) C.ACT_SN_RX
    let dup (s : State) : State := postPloam n 2 0x1FF sfc msg (s.bump (pgPE n 7) C.ACT_SN_DUP)
    let s0 := s.bump (pgPE n 5) C.US_PLOAM_RX
    if seen.contains sn then dup s0
    else
      let s1 := s0.modPe n (fun p => { p with snWin := some { w with seen := sn :: seen } })
      match s.findSn n sn with
      | some (_, e) =>
        let c := eget e aCTX
        if eget e aDIS = 1 then rx (disableCtx n c sn s1)
        else if s.st n c = 0 then rx (startAct n c x sn e s1)
        else if s.st n c = 4 then
          let s2 := (dropAct n c s1).modCx n c (fun y =>
            { y with x := x, snLost := true, reranging := false, assigned := false, asked := false, open_ := false, tries := 0 })
          rx (sendSeq n (.assign c (s.onuId n c) sn) 3 s2)
        else dup s1
      | none =>
        match s.snPort sn with
        | some q => wrongPort n sn q s1
        | none =>
          let s2 := s1.bump (pgPE n 7) C.ACT_SN_UNKNOWN
          if s.bit (pgPE n 7) F.PE_ACT_CFG_DISC then postPloam n 1 0x1FF sfc msg s2 else s2

/-! ### Ranging (R148 steps 3 and 4, R151, R153, R159, R432) -/

/-- A window centred on the stored RTD (R151). -/
def askCentred (n c kind : Nat) (s : State) : State :=
  let rtd := ew (s.crec n c) 2
  (askWindow n { kind := kind, ctx := c, prof := s.actProf n, ofs := ((rtd * 972 : Nat) : Int) - ((s.rqw n / 2 : Nat) : Int),
                 len := s.rqw n } s).modCx n c (fun x => { x with asked := true })

/-- A window placed from the serial-number response (R151). -/
def askRanging (n c : Nat) (s : State) : State :=
  let x := s.cx n c
  let ofs : Int := ((x.x * 972 : Nat) : Int) - ((s.get (pgPE n 7) F.PE_ACT_RD_RD_MAX + s.usWin n) * qUnit : Nat)
  (askWindow n { kind := 1, ctx := c, prof := s.actProf n, ofs := ofs, len := s.rqw n } s).modCx n c (fun x => { x with asked := true })

def State.rngTries (s : State) (n : Nat) : Nat := s.get (pgPE n 7) F.PE_ACT_TMO_RNG_TRIES

/-- Ranging windows of one context, one every 8 frames; requests that came back unplanned are made again. -/
def ctxWindow (n c : Nat) (s : State) : State :=
  let x := s.cx n c
  let st := s.st n c
  let again := !x.asked && (!x.open_ || decide (8 ≤ sfcDiff (s.pe n).sfc x.winSfc))
  if !again then s
  else if (st == 2 || (st == 4 && x.snLost)) && x.assigned && decide (x.tries < s.rngTries n) then askRanging n c s
  else if x.reranging && decide (x.tries = 0) then askCentred n c 1 s
  else s

/-- What the sequencer asks of the grant slice at a frame boundary. -/
def windowRequests (n : Nat) (s : State) : State := if s.pxShadow n then s else (s.liveCtx n).foldl (fun s c => ctxWindow n c s) s

/-- The window shift of R432, in 1/64 ns. -/
def State.pxShift (s : State) (n : Nat) : Int :=
  let d (role : Nat) : Int := if role = 1 then s.getI pgPX (F.PX_OFS_OFS.ix n) else 0
  if s.protected_ n then d (s.get pgPX F.PX_CFG_ROLE) - d (s.get pgPX F.PX_STATE_TERMS) else 0

/-- A time in 1/64 ns at the nearest unit of the port's Ranging_Time (R153). DESIGN CHOICE (log entry 13): a record holds the nearest
1/64 ns to that unit. -/
def State.rangingRound (s : State) (n : Nat) (x : Int) : Int :=
  let u := Config.rangingUnit (s.isLegacy n) + 1
  roundDiv (roundDiv (x * 972) u * u) 972

/-- Send Ranging_Time to an ONU-ID, every copy with one sequence number (R102, R148, R160). -/
def sendRanging (n onu : Nat) (v : Int) (rel : Bool) (copies : Nat) (s : State) : State :=
  sendSeq n (.rangingTime onu v rel (s.nextNo n onu)) copies (tookNo n onu s)

/-- Send a new absolute equalisation delay and store it (R153, R158). -/
def sendEqd (n c : Nat) (eqd : Int) (copies : Nat) (s : State) : State :=
  let r := s.rangingRound n eqd
  sendRanging n (s.onuId n c) r false copies (setRec n c (fun e => ewPut e 1 (ofSigned 32 r)) s)

/-- Step 5 begins (R155); a legacy terminal is level 1 without an exchange (R119). -/
def levelStart (n c : Nat) (s : State) : State :=
  let s1 := (setSt n c 3 s).modCx n c (fun x => { x with levelSfc := (s.pe n).sfc, queries := 0, querySfc := none })
  if s.isLegacy n then lzEval n ((setRec n c (fun e => eput e cLEVEL 1) s1).modCx n c (fun x => { x with decided := some 1, ended := true }))
  else lzEval n (sendSeq n (.levelQuery c (s.onuId n c)) 1 s1)

/-- A Registration response in a window of the context (R153, R159, R160). `rtd` is in 1/64 ns. -/
def rangingResponse (n c rtd : Nat) (msg : List Byte) (s : State) : State :=
  let x := s.cx n c
  let st := s.st n c
  if x.open_ && (st == 2 || st == 4 || (x.reranging && (st == 5 || st == 6))) then
    let s1 := passPloam n c x.winSfc msg (s.modCx n c (fun x => { x with open_ := false }))
    let eqd : Int := ((s.get (pgPE n 4) F.PE_US_TEQD_TEQD * 64 : Nat) : Int) - ((rtd : Int) - s.pxShift n)
    if eqd < 0 then failCtx n c C.ACT_RNG_RANGE s1
    else
      let s2 := sendEqd n c eqd 2 (setRec n c (fun e => ewPut e 2 rtd) s1)
      let s3 := s2.modCx n c (fun x => { x with trkSum := 0, trkN := 0, lob := 0 })
      if st = 2 then levelStart n c s3
      else if x.reranging then s3.modCx n c (fun x => { x with reranging := false, tries := 0 })
      else
        lzEval n (((setSt n c x.lostFrom s3)).modCx n c (fun x => { x with snLost := false, asked := false, tries := 0, since := s.now }))
  else s

/-- RNG_TRIES opened windows found nothing (R148, R159). -/
def rngFail (n c : Nat) (s : State) : State :=
  let x := s.cx n c
  if s.rngTries n ≤ x.tries then
    if s.st n c = 2 then failCtx n c C.ACT_RNG_FAIL s
    else if s.st n c = 4 && x.snLost then s.modCx n c (fun x => { x with snLost := false, open_ := false, tries := 0 })
    else s
  else s

/-! ### The level exchange (R155) -/

/-- Decide the level and send LEVEL_SET. -/
def levelDecide (n c l : Nat) (s : State) : State :=
  let s1 := s.modPe n (fun p => { p with seq := p.seq.filter (fun m => match m.msg with | .levelQuery c' _ => c' != c | _ => true) })
  sendSeq n (.levelSet c (s.onuId n c) l) 3 (s1.modCx n c (fun x => { x with decided := some l }))

/-- The exchange runs and no level is decided. -/
def State.levelOpen (s : State) (n c : Nat) : Bool := s.st n c == 3 && (s.cx n c).decided.isNone

def levelReply (n c level : Nat) (ext : Bool) (s : State) : State :=
  if s.levelOpen n c then
    let r := if level = 0 then 1 else min level 3
    levelDecide n c (min r (eget (s.ctxEntry n c) aLMAX)) (s.modCx n c (fun x => { x with ext := ext }))
  else s

def levelQueryTimeout (n c : Nat) (s : State) : State :=
  let x := s.cx n c
  match x.querySfc with
  | none => s
  | some f =>
    if s.levelOpen n c && decide (8 ≤ sfcDiff (s.pe n).sfc f) then
      if x.queries < 3 then sendSeq n (.levelQuery c (s.onuId n c)) 1 (s.modCx n c (fun x => { x with querySfc := none }))
      else levelDecide n c 1 s
    else s

/-- A LEVEL_SET still to be sent for context `c` carries level 1. -/
def levelOne (c : Nat) : PMsg → PMsg
  | .levelSet c' o l => if c' = c then .levelSet c' o 1 else .levelSet c' o l
  | m => m

def levelLimit (n c : Nat) (s : State) : State :=
  let x := s.cx n c
  if s.st n c = 3 && !x.ended && decide (32 ≤ sfcDiff (s.pe n).sfc x.levelSfc) then
    if x.decided.isNone then levelDecide n c 1 s
    else (s.modCx n c (fun x => { x with decided := some 1 })).modPe n (fun p =>
      { p with seq := p.seq.map (fun m => { m with msg := levelOne c m.msg }), sel := p.sel.map (levelOne c),
               hdr := p.hdr.map (fun h => (h.1, h.2.map (levelOne c))) })
  else s

/-- Step 6 (R148): the exchange ended and, below level 3, a frame without the lean zone was sent. -/
def actDone (n c : Nat) (s : State) : State :=
  if s.st n c = 3 && (s.cx n c).ended && (s.level3 n c == 3 || !s.bit (pe0 n) F.PE_LZ_STATUS_OPEN) then
    let s1 := (setSt n c 5 s).modCx n c (fun x => { x with since := s.now, rangedAt := (s.pe n).sfc, lob := 0 })
    let s2 := marginEnter n c (eget (s.ctxEntry n c) aPROF) s1
    lzEval n ((s2.put (pgPE n 7) F.PE_ACT_LAST_CTX c).raise (pe0 n) 5)
  else s

/-! ### Authentication, loss and commands (R148, R159, R160, R162) -/

def authPass (n c : Nat) (s : State) : State := if s.st n c = 5 then lzEval n (setSt n c 6 s) else s

def authFail (n c : Nat) (s : State) : State := if s.st n c = 5 then failCtx n c C.ACT_AUTH_FAIL s else s

def authTimeout (n c : Nat) (s : State) : State :=
  if s.st n c = 5 ∧ (s.cx n c).since + s.get (pgPE n 7) F.PE_ACT_TMO_AUTH_TMO * cyclesPerSec ≤ s.now then
    failCtx n c C.ACT_AUTH_FAIL s
  else s

/-- LOB_N windows in a row brought nothing (R159): a robust move that fell due with the last of them is made first (R200). -/
def onuLost (n c : Nat) (s0 : State) : State :=
  if s0.inService n c && decide (s0.get (pgPE n 7) F.PE_ACT_CFG_LOB_N ≤ (s0.cx n c).lob) then
    let s := robustMove n c s0
    let s1 := (setSt n c 4 s).modCx n c (fun x =>
      { x with lostFrom := s.st n c, since := s.now, lob := 0, tries := 0, snLost := false, reranging := false, asked := false,
               open_ := false, trkSum := 0, trkN := 0 })
    lzEval n (((marginLost n c s1).put (pgPE n 7) F.PE_ACT_LAST_LOST_CTX c).raise (pe0 n) 6)
  else s0

def probeGrant (n c : Nat) (s : State) : State :=
  if s.st n c = 4 && !(s.cx n c).asked && !(s.cx n c).snLost then
    askCentred n c 2 (s.modCx n c (fun x => { x with reranging := false }))
  else s

def lostExpired (n c : Nat) (s : State) : State :=
  if s.st n c = 4 ∧ (s.cx n c).since + s.get (pgPE n 7) F.PE_ACT_TMO_LOST_HOLD * cyclesPerSec ≤ s.now then
    failCtx n c C.ACT_LOST_EXPIRED s
  else s

def actReject (n : Nat) (s : State) : State := s.putBit (pgPE n 7) F.PE_ACT_CMD_STAT_REJ true

/-- BCAST_ADJ (R160): one relative Ranging_Time to ONU-ID 1,023, in two consecutive frames. -/
def bcastAdj (n : Nat) (s : State) : State :=
  let r := s.rangingRound n (s.getI (pgPE n 7) F.PE_RNG_ADJ_ADJ)
  let cs := (s.liveCtx n).filter (fun c => s.ranged n c)
  if cs.any (fun c => decide (s.eqd n c + r < 0)) then actReject n s
  else
    let s1 := cs.foldl (fun s c => setRec n c (fun e => ewPut e 1 (ofSigned 32 (s.eqd n c + r))) s) s
    sendRanging n 1023 r true 2 s1

/-- RERANGE (R160). -/
def rerange (n c : Nat) (s : State) : State :=
  if 4 ≤ s.st n c ∧ s.st n c ≤ 6 then
    askCentred n c 1 ((dropAct n c s).modCx n c (fun x => { x with reranging := true, snLost := false, open_ := false, tries := 0 }))
  else actReject n s

def deact (n c : Nat) (s : State) : State :=
  if 1 ≤ s.st n c ∧ s.st n c ≤ 6 then freeCtx n c s else actReject n s

/-- A write of PE_ACT_CMD. -/
def actCommand (n w : Nat) (s : State) : State :=
  let op := fld w 31 28
  let c := fld w 8 0
  if op = 0 then s
  else if op = 1 then deact n c s
  else if op = 2 then rerange n c s
  else if op = 3 then bcastAdj n s
  else actReject n s

/-- A write of PE_AUTH (R162). -/
def authWrite (n w : Nat) (s : State) : State :=
  let op := fld w 31 30
  let c := fld w 8 0
  if op = 1 then authPass n c s else if op = 2 then authFail n c s else s

/-- A reset during activation: every context that is not ranged returns to FREE (R160). -/
def actReset (n : Nat) (s : State) : State :=
  (s.liveCtx n).foldl (fun s c => if 1 ≤ s.st n c ∧ s.st n c ≤ 3 then
    (marginFree n c (dropKeys n c s)).setEnt (pgPE n 7) 1 c 0 |>.modPe n (fun p => { p with ctxs := sset {} p.ctxs c {} }) else s) s

/-! ### Meanings -/

def execSnWindow (port : Fin 48) (s : State) : Res := .next (snWindow port.val s)

def execRangingResponse (port : Fin 48) (ctx : Fin 512) (rtd : Nat) (msg : List Byte) (s : State) : Res :=
  .next (rangingResponse port.val ctx.val rtd msg s)

def execRngFail (port : Fin 48) (ctx : Fin 512) (s : State) : Res := .next (rngFail port.val ctx.val s)

def execLevelQueryTimeout (port : Fin 48) (ctx : Fin 512) (s : State) : Res := .next (levelQueryTimeout port.val ctx.val s)

def execLevelReply (port : Fin 48) (ctx : Fin 512) (level : Byte) (ext : Bool) (s : State) : Res :=
  .next (levelReply port.val ctx.val level.toNat ext s)

def execLevelLimit (port : Fin 48) (ctx : Fin 512) (s : State) : Res := .next (levelLimit port.val ctx.val s)

def execActDone (port : Fin 48) (ctx : Fin 512) (t : Nat) (s : State) : Res := .next (actDone port.val ctx.val (s.at t))

/-- A write of PE_AUTH with operation `op`. -/
def authPort (fn n op : Nat) (ctx : Nat) (s : State) : State :=
  s.access fn (pgPE n 3 + 0x0C0) (fun _ _ s => authWrite n (op * 2 ^ 30 + ctx) s)

def execAuthPass (fn : Fn) (port : Fin 48) (ctx : Fin 512) (s : State) : Res := .next (authPort fn.val port.val 1 ctx.val s)

def execAuthFail (fn : Fn) (port : Fin 48) (ctx : Fin 512) (s : State) : Res := .next (authPort fn.val port.val 2 ctx.val s)

def execAuthTimeout (port : Fin 48) (ctx : Fin 512) (t : Nat) (s : State) : Res := .next (authTimeout port.val ctx.val (s.at t))

def execOnuLost (port : Fin 48) (ctx : Fin 512) (t : Nat) (s : State) : Res := .next (onuLost port.val ctx.val (s.at t))

def execProbeGrant (port : Fin 48) (ctx : Fin 512) (s : State) : Res := .next (probeGrant port.val ctx.val s)

def execLostExpired (port : Fin 48) (ctx : Fin 512) (t : Nat) (s : State) : Res := .next (lostExpired port.val ctx.val (s.at t))

/-- A write of PE_ACT_CMD with operation `op`. -/
def actPort (fn n op : Nat) (ctx : Nat) (s : State) : State :=
  s.access fn (pgPE n 7 + 0x0E4) (fun _ _ s => actCommand n (op * 2 ^ 28 + ctx) s)

def execDeact (fn : Fn) (port : Fin 48) (ctx : Fin 512) (s : State) : Res := .next (actPort fn.val port.val 1 ctx.val s)

def execRerange (fn : Fn) (port : Fin 48) (ctx : Fin 512) (s : State) : Res := .next (actPort fn.val port.val 2 ctx.val s)

def execBcastAdj (fn : Fn) (port : Fin 48) (s : State) : Res := .next (actPort fn.val port.val 3 0 s)

end Sys2Proof.Machine
end

