-- ==== Sys2Proof/Machine/Grant.lean ====
section
/-! DEFINITION. Chapter 07: building, sealing and replacing bandwidth maps (R163 to R191). -/

namespace Sys2Proof.Machine

/-! ### Allocation contexts (R166, R167) -/

def gEN : TF := ⟨0, 31, 31⟩
def gOMCC : TF := ⟨0, 30, 30⟩
def gDBRU : TF := ⟨0, 29, 29⟩
def gTYPE : TF := ⟨0, 28, 26⟩
def gONU : TF := ⟨0, 24, 16⟩
def gID : TF := ⟨0, 13, 0⟩
def gWT : TF := ⟨1, 31, 24⟩
def gFIX : TF := ⟨1, 13, 0⟩
def gAR : TF := ⟨2, 23, 0⟩
def gAB : TF := ⟨3, 19, 0⟩
def gPR : TF := ⟨4, 23, 0⟩
def gPB : TF := ⟨5, 19, 0⟩
def gBACKLOG : TF := ⟨6, 23, 0⟩
def gCLR : TF := ⟨8, 31, 31⟩
def gSHORTFR : TF := ⟨8, 15, 0⟩

def State.aent (s : State) (n i : Nat) : Entry := if s.bad.contains (tkey (pgGP n) 0 i) then 0 else s.ent (pgGP n) 0 i

/-- The slice page of a port, and its bit there. -/
def gsPg (n : Nat) : Nat := pgGS (n / 8) 0
def gsBit (n : Nat) : Nat := n % 8

/-- GS_STATUS.FROZEN of a port (R185). -/
def State.frozen (s : State) (n : Nat) : Bool := (s.get (gsPg n) F.GS_STATUS_FROZEN).testBit (gsBit n)

def setBitOf (s : State) (pg : Nat) (f : Fld) (b : Nat) (v : Bool) : State :=
  let w := s.get pg f
  s.put pg f (if v then w ||| 2 ^ b else w - (if w.testBit b then 2 ^ b else 0))

/-- Entry `e` is eligible (R166). -/
def State.eligible (s : State) (n : Nat) (e : Entry) : Bool :=
  eget e gEN == 1 && (s.st n (eget e gONU) == 6 || (s.st n (eget e gONU) == 5 && eget e gOMCC == 1))

/-- A cooperative context is served as a level-2 context (R168). -/
def State.coopL2 (s : State) (n : Nat) (e : Entry) : Bool := decide (2 ≤ s.level3 n (eget e gONU)) && !s.frozen n

/-- The burst profile a terminal is charged at (R165): its committed profile; before AUTH_HOLD its approved one. -/
def State.burstProf (s : State) (n c : Nat) : Nat :=
  if s.st n c = 3 then eget (s.ctxEntry n c) aPROF else s.mget n c mPROFILE

/-! ### Charging (R164, R172) -/

def ceilDiv (a b : Nat) : Nat := (a + b - 1) / b

/-- OVH(p) of a profile. -/
def State.ovh (s : State) (n : Nat) (e : Entry) : Nat := ceilDiv (eget e bGUARD * qUnit + preDelim e) (s.tu n)

/-- c(P), the coded bits. -/
def coded (e : Entry) (p : Nat) : Nat :=
  if eget e bFEC = 0 then 8 * p
  else
    let k := if eget e bRATE = 3 then (232, 16) else (1824, 336)
    8 * ((k.1 + k.2) * (p / k.1) + if p % k.1 = 0 then 0 else p % k.1 + k.2)

/-- U(P) in TU. -/
def State.uTu (s : State) (n : Nat) (e : Entry) (p : Nat) : Nat := ceilDiv (coded e p * uiLen (eget e bRATE)) (s.tu n)

/-- The allocation bytes of an allocation, and the burst payload of a list of them. -/
def Alc.cost (a : Alc) : Nat := a.bytes + (if a.dbru then 4 else 0) + (if a.ploam then 48 else 0)
def payload (l : List Alc) : Nat := 8 + (l.map Alc.cost).foldl (· + ·) 0

/-- The size of a burst in TU: 0 with no allocation. -/
def State.burstTu (s : State) (n prof : Nat) (l : List Alc) : Nat :=
  if l.isEmpty then 0 else s.ovh n (s.prof n prof) + s.uTu n (s.prof n prof) (payload l)

/-! ### Commitment (R186) -/

/-- The contexts that count for C, by ONU. -/
def State.committedOnus (s : State) (n : Nat) : List Nat :=
  (((s.used (pgGP n) 0).filter (fun p => eget p.2 gEN == 1 && (eget p.2 gTYPE == 0 || eget p.2 gTYPE == 1 || eget p.2 gTYPE == 4))).foldl
    (fun l p => insertNat (eget p.2 gONU) l) [])

/-- C in TU. -/
def State.commitLoad (s : State) (n : Nat) : Nat :=
  (s.committedOnus n).foldl (fun c o =>
    let mine := (s.used (pgGP n) 0).filter (fun p => eget p.2 gEN == 1 && eget p.2 gONU == o)
    let f := (mine.filter (fun p => eget p.2 gTYPE == 0)).foldl (fun x p => x + 4 * eget p.2 gFIX) 0
    let a := (mine.filter (fun p => eget p.2 gTYPE == 1 || eget p.2 gTYPE == 4)).foldl
      (fun x p => x + ceilDiv (eget p.2 gAR) 8 + 4 * eget p.2 gDBRU) 0
    c + ((List.range 8).filter (fun p => s.profOn n p)).foldl (fun m p =>
      max m (s.ovh n (s.prof n p) + s.uTu n (s.prof n p) (8 + 48 + f + a))) 0) 0

/-- The commitment holds with `qres` TU kept free. -/
def State.commitOk (s : State) (n qres : Nat) : Bool := decide (s.commitLoad n + qres ≤ s.frameTu n)

/-- GS_PORT_COMMIT.C follows the tables. -/
def setCommit (n : Nat) (s : State) : State := s.put (pgGP n) F.GS_PORT_COMMIT_C (s.commitLoad n)

/-! ### The work of a build (R174) -/

/-- A build in progress: remaining capacity and structures, bursts, buckets and backlogs as the grants leave them. -/
structure Work where
  r : Nat
  k : Nat := 512
  bursts : List Burst := []
  core : GCore
  backlog : SMap Nat := []
  shorts : List (Nat × Nat) := []
  limit : Bool := false
  deriving DecidableEq, Repr

/-- The burst of an ONU of a kind. -/
def Work.find (w : Work) (onu : Nat) (fixed : Bool) : Option Burst :=
  w.bursts.find? (fun b => b.onu == onu && b.fixed == fixed)

/-- Put a burst in place of its former self. -/
def Work.setBurst (w : Work) (b : Burst) : Work :=
  if w.bursts.any (fun x => x.onu == b.onu && x.fixed == b.fixed) then
    { w with bursts := w.bursts.map (fun x => if x.onu == b.onu && x.fixed == b.fixed then b else x) }
  else { w with bursts := w.bursts ++ [b] }

/-- The allocations of a burst with `g` bytes more for entry `i`: a context has one allocation for each class of grant, with one
structure and one report where it asks for reports, and the rounds of phase 5 add to it (R167, R174, R176). A default-Alloc-ID
opportunity gives its PLOAMu flag to the first other allocation (R171). -/
def addAlloc (l : List Alc) (i g : Nat) (dbru : Bool) (cls : Nat) : List Alc :=
  let same (a : Alc) : Bool := a.entry == some i && a.phase == cls
  if l.any same then l.map (fun a => if same a then { a with bytes := a.bytes + g } else a)
  else if l.all (fun a => a.entry == none) then [{ entry := some i, bytes := g, dbru := dbru, ploam := !l.isEmpty, phase := cls }]
  else l ++ [{ entry := some i, bytes := g, dbru := dbru, ploam := false, phase := cls }]

/-- What adding `g` bytes for entry `i` costs: TU and structures. -/
def addCost (s : State) (n : Nat) (w : Work) (i g : Nat) (cls : Nat) (fixed : Bool) : Nat × Nat :=
  let e := s.aent n i
  let o := eget e gONU
  let old := match w.find o fixed with | none => [] | some b => b.allocs
  let new := addAlloc old i g (eget e gDBRU == 1) cls
  let p := s.burstProf n o
  (s.burstTu n p new - s.burstTu n p old, new.length - old.length)

/-- The addition fits R and N. -/
def fits (s : State) (n : Nat) (w : Work) (i g cls : Nat) (fixed : Bool) : Bool :=
  let c := addCost s n w i g cls fixed
  decide (c.1 ≤ w.r) && decide (c.2 ≤ w.k)

/-- The largest number of words up to `hi` that fits, by halving; `lo` words fit. -/
def fitWords (s : State) (n : Nat) (w : Work) (i cls : Nat) : Nat → Nat → Nat → Nat
  | 0, lo, _ => lo
  | f + 1, lo, hi =>
    if hi ≤ lo then lo
    else
      let m := (lo + hi + 1) / 2
      if fits s n w i (4 * m) cls false then fitWords s n w i cls f m hi else fitWords s n w i cls f lo (m - 1)

/-- Place `g` bytes for entry `i`. -/
def place (s : State) (n i g cls : Nat) (fixed : Bool) (sfc : Nat) (w : Work) : Work :=
  let e := s.aent n i
  let o := eget e gONU
  let c := addCost s n w i g cls fixed
  let b := match w.find o fixed with | none => ({ onu := o, prof := s.burstProf n o, fixed := fixed } : Burst) | some b => b
  let w1 := w.setBurst { b with allocs := addAlloc b.allocs i g (eget e gDBRU == 1) cls }
  let core := if eget e gDBRU = 1 then { w.core with dbruAt := sset 0 w.core.dbruAt i (sfc + 1) } else w.core
  { w1 with r := w.r - c.1, k := w.k - c.2, core := core, backlog := sset 0 w.backlog i (sget 0 w.backlog i - g) }

/-- Record a shortfall of entry `i`. -/
def Work.short (w : Work) (i b : Nat) : Work := if b = 0 then w else { w with shorts := w.shorts ++ [(i, b)] }

/-- Charge a grant to the buckets (R169). -/
def Work.charge (w : Work) (i g : Nat) (assured : Bool) : Work :=
  let c := w.core
  { w with core := { c with tp := sset 0 c.tp i (sget 0 c.tp i - 8 * g),
                            ta := if assured then sset 0 c.ta i (sget 0 c.ta i - ((8 * g : Nat) : Int)) else c.ta } }

/-- Place up to `want` bytes, cut to what fits (R174): the bytes placed, none where nothing fits. -/
def placeCut (s : State) (n i want cls : Nat) (assured : Bool) (sfc : Nat) (w : Work) : Option Nat × Work :=
  let w := if w.k < (addCost s n w i 0 cls false).2 then { w with limit := true } else w
  if !fits s n w i 0 cls false then (none, w)
  else
    let g := if fits s n w i want cls false then want else 4 * fitWords s n w i cls 24 0 (want / 4)
    if g = 0 ∧ want ≠ 0 then (none, w)
    else (some g, (place s n i g cls false sfc w).charge i g assured)

/-! ### Phases (R171, R174 to R177) -/

/-- Eligible entries of some types whose terminal has an enabled profile. -/
def State.buildEnts (s : State) (n : Nat) (types : List Nat) : List Nat :=
  ((s.used (pgGP n) 0).filter (fun p => s.eligible n p.2 && types.contains (eget p.2 gTYPE) &&
    s.profOn n (s.burstProf n (eget p.2 gONU)))).map (fun p => p.1)

/-- Terminals with a PLOAM opportunity due (R171): the rotation gives context `c` frame `sfc` when PLOAM_PER divides
`sfc + c`. -/
def State.ploamDue (s : State) (n sfc : Nat) : List Nat :=
  (s.liveCtx n).filter (fun c => s.profOn n (s.burstProf n c) && (s.st n c == 3 || ((s.st n c == 5 || s.st n c == 6) &&
    decide ((sfc + c) % max 1 (s.get (pgGP n) F.GS_PORT_CFG_PLOAM_PER) = 0))))

/-- One fixed allocation, in whole or not at all; with FIX_W 0 it is there for its report alone. -/
def fixedOne (s : State) (n sfc i : Nat) (w : Work) : Work :=
  let g := 4 * eget (s.aent n i) gFIX
  if g = 0 ∧ eget (s.aent n i) gDBRU = 0 then w
  else if w.k = 0 then ({ w with limit := true }).short i g
  else if fits s n w i g 1 true then place s n i g 1 true sfc w
  else w.short i g

/-- A PLOAM opportunity: a flag on the fixed burst, or an allocation of the default Alloc-ID. -/
def ploamOne (s : State) (n o : Nat) (w : Work) : Work :=
  let p := s.burstProf n o
  match w.find o true with
  | some b =>
    let l := match b.allocs with | [] => [] | a :: r => { a with ploam := true } :: r
    let c := s.burstTu n p l - s.burstTu n p b.allocs
    if c ≤ w.r then { w.setBurst { b with allocs := l } with r := w.r - c } else w
  | none =>
    let l : List Alc := [{ entry := none, bytes := 0, dbru := false, ploam := true, phase := 1 }]
    let c := s.burstTu n p l
    if w.k = 0 then { w with limit := true }
    else if c ≤ w.r then
      { w.setBurst { onu := o, prof := p, allocs := l } with r := w.r - c, k := w.k - 1 }
    else w

/-- Two intervals of TU meet. -/
def meets (a b c d : Nat) : Bool := decide (a < d) && decide (c < b)

/-- The TU from one fixed burst to the next: those of the terminal's fixed allocations with its PLOAM opportunity, so that a fixed burst
keeps its position from frame to frame (R173). DEDUCED (log entry 141). -/
def fixedSlot (s : State) (n o : Nat) (mine : List Nat) : Nat :=
  s.burstTu n (s.burstProf n o)
    (mine.map (fun i => ⟨some i, 4 * eget (s.aent n i) gFIX, eget (s.aent n i) gDBRU == 1, mine.head? == some i, 1⟩))

/-- Phase 1, with the slots of the fixed bursts packed from TU 0 (R173, R180, R184): the work and the end of the fixed bursts. -/
def phase1 (s : State) (n sfc : Nat) (sils : List Silence) (w : Work) : Work × Nat :=
  let fixed := s.buildEnts n [0]
  let due := s.ploamDue n sfc
  let onus := (fixed.map (fun i => eget (s.aent n i) gONU) ++ due).foldl (fun l o => insertNat o l) []
  let r := onus.foldl (fun (x : Work × Nat × Nat) o =>
    let mine := fixed.filter (fun i => eget (s.aent n i) gONU == o && (eget (s.aent n i) gFIX != 0 || eget (s.aent n i) gDBRU == 1))
    let whole := mine.foldl (fun w i => fixedOne s n sfc i w) x.1
    let whole := if due.contains o then ploamOne s n o whole else whole
    let at_ := x.2.1
    let next := at_ + fixedSlot s n o mine
    match whole.find o true with
    | none => (whole, next, x.2.2)
    | some b =>
      let sz := s.burstTu n b.prof b.allocs
      let cover := s.bit (pgGP n) F.GS_PORT_CFG_QW_FIX &&
        sils.any (fun q => q.sfc == sfc && q.kind == 0 && meets at_ (at_ + sz) q.start (q.start + q.len))
      if cover || decide (s.frameTu n < at_ + sz) then
        let w1 := mine.foldl (fun (w : Work) i => w.short i (4 * eget (s.aent n i) gFIX)) x.1
        (if due.contains o then ploamOne s n o w1 else w1, next, if cover then at_ + sz else x.2.2)
      else (whole.setBurst { b with start := at_, size := sz }, next, at_ + sz)) (w, 0, 0)
  (r.1, r.2.2)

/-- Entries from a rotation pointer on. -/
def rotIdx (p : Nat) (l : List Nat) : List Nat := rotate p l

/-- A poll is due (R170). -/
def pollDue (s : State) (n sfc i : Nat) (w : Work) : Bool :=
  eget (s.aent n i) gDBRU == 1 && sget 0 w.backlog i == 0 &&
    (let d := sget 0 w.core.dbruAt i; d == 0 || decide (s.get (pgGP n) F.GS_PORT_CFG_POLL ≤ sfcDiff sfc (d - 1)))

/-- Phase 3 (R183): the pending hints of each context for this frame, in ascending earliest header instant. -/
def phase3 (s : State) (n sfc : Nat) (hints : List Hint) (w : Work) : Work :=
  let due := hints.filter (fun h => passed sfc h.target)
  let idx := (s.buildEnts n [4]).filter (fun i => s.coopL2 n (s.aent n i) && due.any (fun h => h.ctx == i))
  let at_ (i : Nat) : Nat := ((due.filter (fun h => h.ctx == i)).map (fun h => if h.target = sfc then h.at_ else 0)).foldl max 0
  let ordered := idx.foldl (fun l i => l.filter (fun x => decide (at_ x ≤ at_ i)) ++ [i] ++ l.filter (fun x => decide (at_ i < at_ x))) []
  ordered.foldl (fun w i =>
    let sum := (due.filter (fun h => h.ctx == i)).foldl (fun x h => x + h.bytes) 0
    let want := min sum (sget 0 w.core.tp i / 8) / 4 * 4
    if want = 0 then w
    else
      let r := placeCut s n i want 3 false sfc w
      match r.1 with
      | none => r.2.short i want
      | some g =>
        let o := eget (s.aent n i) gONU
        let w1 := r.2.short i (want - g)
        match w1.find o false with
        | none => w1
        | some b => w1.setBurst { b with pre := true, earliest := max b.earliest (at_ i) }) w

/-- Phase 4 (R175). -/
def phase4 (s : State) (n sfc : Nat) (w : Work) : Work :=
  (rotIdx w.core.rr4 (s.buildEnts n [1, 4])).foldl (fun w i =>
    let e := s.aent n i
    let cls := if eget e gTYPE = 1 then 4 else 7
    let want := min (sget 0 w.backlog i) (sget 0 w.core.ta i / 8).toNat / 4 * 4
    if want ≠ 0 then
      let r := placeCut s n i want cls true sfc w
      match r.1 with
      | none => r.2.short i want
      | some g => { r.2.short i (want - g) with core := { r.2.core with rr4 := i + 1 } }
    else if pollDue s n sfc i w then
      let r := placeCut s n i 0 cls false sfc w
      match r.1 with | none => r.2 | some _ => { r.2 with core := { r.2.core with rr4 := i + 1 } }
    else w) w

/-- One visit of phase 5 (R176): the work, whether the phase ends, and whether the context stays in the rounds. -/
def visit5 (s : State) (n sfc i : Nat) (w : Work) : Work × Bool × Bool :=
  let e := s.aent n i
  let setDc (w : Work) (v : Nat) : Work := { w with core := { w.core with dc := sset 0 w.core.dc i v } }
  if 0 < sget 0 w.backlog i ∧ 32 ≤ sget 0 w.core.tp i then
    let q := eget e gWT * s.get (pgGP n) F.GS_PORT_CFG_QUANT * 256
    let dc := min (sget 0 w.core.dc i + q) (2 * q)
    let want := min (min dc (sget 0 w.backlog i)) (sget 0 w.core.tp i / 8) / 4 * 4
    let w1 := setDc w dc
    if want = 0 then (w1, false, false)
    else
      let r := placeCut s n i want 5 false sfc w1
      match r.1 with
      | none => (r.2, true, false)
      | some g =>
        let w2 := { setDc r.2 (if sget 0 r.2.backlog i = 0 then 0 else dc - g) with
                      core := { (setDc r.2 (if sget 0 r.2.backlog i = 0 then 0 else dc - g)).core with rr5 := i + 1 } }
        (w2, decide (g < want), decide (0 < sget 0 w2.backlog i) && decide (32 ≤ sget 0 w2.core.tp i))
  else if eget e gTYPE = 2 && pollDue s n sfc i w then
    let r := placeCut s n i 0 5 false sfc w
    (r.2, r.1.isNone, false)
  else (w, false, false)

/-- Visit contexts in turn: the work, whether the phase ended, and who stays. -/
def round5 (s : State) (n sfc : Nat) : List Nat → Work → Work × Bool × List Nat
  | [], w => (w, false, [])
  | i :: r, w =>
    let v := visit5 s n sfc i w
    if v.2.1 then (v.1, true, [])
    else
      let x := round5 s n sfc r v.1
      (x.1, x.2.1, if v.2.2 then i :: x.2.2 else x.2.2)

def rounds5 (s : State) (n sfc : Nat) : Nat → List Nat → Work → Work
  | 0, _, w => w
  | _, [], w => w
  | f + 1, l, w =>
    let x := round5 s n sfc l w
    if x.2.1 then x.1 else rounds5 s n sfc f x.2.2 x.1

/-- Phase 5 (R176): a context without backlog has no deficit. Every visit that stays in the rounds has granted its quantum, so 4,096
rounds exceed any frame. -/
def phase5 (s : State) (n sfc : Nat) (w : Work) : Work :=
  let l := (s.buildEnts n [1, 2]).filter (fun i =>
    let e := s.aent n i; eget e gTYPE == 2 || decide (eget e gAR < eget e gPR))
  let dc := l.foldl (fun m i => if sget 0 w.backlog i = 0 then sset 0 m i 0 else m) w.core.dc
  rounds5 s n sfc 4096 (rotIdx w.core.rr5 l) { w with core := { w.core with dc := dc } }

/-- Phase 6 (R177). -/
def phase6 (s : State) (n sfc : Nat) : List Nat → Work → Work
  | [], w => w
  | i :: r, w =>
    let want := min (sget 0 w.backlog i) (sget 0 w.core.tp i / 8) / 4 * 4
    if want ≠ 0 then
      let x := placeCut s n i want 6 false sfc w
      match x.1 with
      | none => x.2
      | some g =>
        let w1 := { x.2 with core := { x.2.core with rr6 := i + 1 } }
        if g < want then w1 else phase6 s n sfc r w1
    else if pollDue s n sfc i w then
      let x := placeCut s n i 0 6 false sfc w
      match x.1 with
      | none => x.2
      | some _ => phase6 s n sfc r { x.2 with core := { x.2.core with rr6 := i + 1 } }
    else phase6 s n sfc r w

/-! ### Quiet windows (R178 to R181) -/

/-- The pieces of a silence that starts in frame `j` at TU `z`. -/
def pieces (tuF j kind : Nat) (z len : Nat) : List Silence :=
  (List.range 3).filterMap (fun f =>
    let a := max z (f * tuF) - f * tuF
    let b := min (z + len) ((f + 1) * tuF)
    if f * tuF + a < b then some { sfc := (j + f) % sfcSpan, start := a, len := b - f * tuF - a, kind := kind } else none)

/-- The order of R179: ranging and probes, plant monitor, serial-number. -/
def reqOrder (l : List QReq) : List QReq :=
  l.filter (fun r => r.kind == 1 || r.kind == 2) ++ l.filter (fun r => r.kind == 3) ++ l.filter (fun r => r.kind == 0)

/-- What R179 makes of one request: never plannable, waits, or planned (map, grant and silences). -/
inductive Planned where
  | never
  | waits
  | plan (k : Nat) (g : Option QGrant) (sils : List Silence)
  deriving DecidableEq, Repr

def planOne (s : State) (n j z : Nat) (q : QReq) : Planned :=
  let g := s.gp n
  let tuF := s.frameTu n
  let tu := s.tu n
  if q.kind = 3 then
    let len := ceilDiv q.len tu
    if tuF < z + len then .waits else .plan j none [{ sfc := j, start := z, len := len, kind := 3 }]
  else
    let e := s.prof n q.prof
    let pa := eget e bGUARD * qUnit + preDelim e
    let frame : Int := ((125000 * qUnit : Nat) : Int)
    let x : Int := ((s.get (pgPE n 4) F.PE_US_TEQD_TEQD * qUnit + z * tu + pa : Nat) : Int) - q.ofs
    let d := x / frame
    if d < 1 then .never
    else
      let st := ceilDiv (x - d * frame).toNat tu
      let k := (j + d.toNat) % sfcSpan
      let len := ceilDiv (pa + q.len) tu + 1
      let ps := pieces tuF j q.kind z len
      let later := ps.filter (fun p => p.sfc != j)
      let clash := later.any (fun p => g.silences.any (fun x => x.sfc == p.sfc && meets p.start (p.start + p.len) x.start (x.start + x.len)))
      let same := g.plans.any (fun p => p.1 == k && p.2.1.kind == q.kind)
      if tuF ≤ z ∨ clash = true ∨ same = true ∨ (q.kind ≠ 0 ∧ tuF < z + len) ∨ 3 * tuF < z + len then .waits
      else .plan k (some { kind := q.kind, ctx := q.ctx, prof := q.prof, st := st, ofs := q.ofs, len := q.len }) ps

/-- Take requests until one is planned: the requests that can never be, and the one planned. -/
def planAll (s : State) (n j z : Nat) : List QReq → List QReq × Option (QReq × Nat × Option QGrant × List Silence)
  | [] => ([], none)
  | q :: r =>
    match planOne s n j z q with
    | .plan k g ps => ([], some (q, k, g, ps))
    | .waits => planAll s n j z r
    | .never => let x := planAll s n j z r; (q :: x.1, x.2)

/-! ### Layout (R184) -/

/-- The lowest position from `lo` on where `size` TU are free. -/
def findSlot (tuF lo size : Nat) (occ : List (Nat × Nat)) : Option Nat :=
  let free (p : Nat) : Bool := decide (p + size ≤ tuF) && occ.all (fun o => !meets p (p + size) o.1 o.2)
  ((lo :: (occ.map (fun o => o.2)).filter (fun x => decide (lo ≤ x))).filter free).foldl
    (fun (b : Option Nat) p => match b with | none => some p | some q => some (min p q)) none

/-- Remove the last allocation of the least class from a burst: the allocation and the rest. -/
def dropOne (l : List Alc) : Option Alc × List Alc :=
  let rank (a : Alc) : Nat := if a.phase = 6 then 3 else if a.phase = 5 then 2 else if a.entry = none then 0 else 1
  let top := (l.map rank).foldl max 0
  match (l.zipIdx.filter (fun p => rank p.1 == top)).getLast? with
  | none => (none, [])
  | some (a, i) =>
    let rest := (l.zipIdx.filter (fun p => p.2 != i)).map (fun p => p.1)
    (some a, if a.ploam then (match rest with | [] => [] | x :: r => { x with ploam := true } :: r) else rest)

/-- Undo the grant of an allocation that the layout removes from a burst that keeps `rest`: its buckets are as the build found
them, charged for what the burst keeps of its context. -/
def undo (c0 : GCore) (rest : List Alc) (a : Alc) (w : Work) : Work :=
  match a.entry with
  | none => w
  | some i =>
    let c := w.core
    let mine := rest.filter (fun b => b.entry == some i)
    let ta := mine.foldl (fun x b => if b.phase = 4 ∨ b.phase = 7 then x - ((8 * b.bytes : Nat) : Int) else x) (sget 0 c0.ta i)
    let tp := mine.foldl (fun x b => x - 8 * b.bytes) (sget 0 c0.tp i)
    let asked := if mine.any (fun b => b.dbru) then sget 0 c.dbruAt i else sget 0 c0.dbruAt i
    let w1 := { w with core := { c with ta := sset 0 c.ta i ta, tp := sset 0 c.tp i tp, dbruAt := sset 0 c.dbruAt i asked } }
    if a.phase = 3 ∨ a.phase = 4 ∨ a.phase = 7 then w1.short i a.bytes else w1

/-- Place one burst, removing allocations until it fits: the burst placed, and the work. -/
def layBurst (s : State) (n : Nat) (c0 : GCore) (occ : List (Nat × Nat)) : Nat → Burst → Work → Option Burst × Work
  | 0, _, w => (none, w)
  | f + 1, b, w =>
    if b.allocs.isEmpty then (none, w)
    else
      let sz := s.burstTu n b.prof b.allocs
      let lo := if b.pre then b.earliest - s.ovh n (s.prof n b.prof) else 0
      match findSlot (s.frameTu n) lo sz occ with
      | some p => (some { b with start := p, size := sz }, w)
      | none =>
        let d := dropOne b.allocs
        match d.1 with
        | none => (none, w)
        | some a => layBurst s n c0 occ f { b with allocs := d.2 } (undo c0 d.2 a w)

def layAll (s : State) (n : Nat) (c0 : GCore) : List Burst → List (Nat × Nat) → Work → List Burst × Work
  | [], _, w => ([], w)
  | b :: r, occ, w =>
    let x := layBurst s n c0 occ 520 b w
    match x.1 with
    | none => layAll s n c0 r occ x.2
    | some b' => let y := layAll s n c0 r ((b'.start, b'.start + b'.size) :: occ) x.2; (b' :: y.1, y.2)

/-- Insert by rising key. -/
def insBurst (key : Burst → Nat) (b : Burst) : List Burst → List Burst
  | [] => [b]
  | x :: r => if key b < key x then b :: x :: r else x :: insBurst key b r

def sortBursts (key : Burst → Nat) (l : List Burst) : List Burst := l.foldl (fun a b => insBurst key b a) []

/-- TU of a frame that no interval of a rising list covers; `p` is the first TU not yet looked at. -/
def freeTu (tuF : Nat) : Nat → List (Nat × Nat) → Nat
  | p, [] => tuF - p
  | p, (a, b) :: r => (a - p) + freeTu tuF (max p b) r

def sortIv (l : List (Nat × Nat)) : List (Nat × Nat) :=
  l.foldl (fun acc x => acc.filter (fun y => decide (y.1 ≤ x.1)) ++ [x] ++ acc.filter (fun y => decide (x.1 < y.1))) []

/-- The TU of frame `j` that neither its bursts nor its silences use (R184). -/
def idleTu (s : State) (n j : Nat) (bs : List Burst) : Nat :=
  freeTu (s.frameTu n) 0 (sortIv ((((s.gp n).silences.filter (fun x => x.sfc == j)).map (fun x => (x.start, x.start + x.len))) ++
    bs.map (fun b => (b.start, b.start + b.size))))

/-! ### The build (R165, R169, R174) -/

/-- Refill the buckets of the enabled contexts. -/
def refill (s : State) (n : Nat) (c : GCore) : GCore :=
  ((s.used (pgGP n) 0).filter (fun p => eget p.2 gEN == 1)).foldl (fun c p =>
    let e := p.2
    { c with ta := sset 0 c.ta p.1 (min (sget 0 c.ta p.1 + ((eget e gAR : Nat) : Int)) ((8 * eget e gAB : Nat) : Int)),
             tp := sset 0 c.tp p.1 (min (sget 0 c.tp p.1 + eget e gPR) (8 * eget e gPB)) }) c

/-- The map of frame `j`. -/
def buildMap (s : State) (n j : Nat) : Build :=
  let g := s.gp n
  let c0 := refill s n g.core
  let backs := (s.used (pgGP n) 0).foldl (fun m p => sset 0 m p.1 (eget p.2 gBACKLOG)) ([] : SMap Nat)
  let w0 : Work := { r := s.frameTu n, core := c0, backlog := backs }
  let p1 := phase1 s n j g.silences w0
  let here := g.silences.filter (fun x => x.sfc == j)
  let pl := g.plans.filter (fun p => p.1 == j)
  let sent := pl.take p1.1.k
  let omitted := (pl.drop p1.1.k).map (fun p => p.2.2)
  let z := here.foldl (fun m x => max m (x.start + x.len)) p1.2
  let np := if s.bit (pe0 n) F.PE_FB_STATUS_REALIGN_PEND then ([], none) else planAll s n j z (reqOrder g.reqs)
  let newSil := match np.2 with | none => [] | some x => x.2.2.2
  let now := here ++ newSil.filter (fun x => x.sfc == j)
  let w2 := { p1.1 with r := p1.1.r - now.foldl (fun m x => m + x.len) 0, k := p1.1.k - sent.length,
                        limit := p1.1.limit || !omitted.isEmpty }
  let w3 := phase3 s n j g.hints w2
  let w4 := phase4 s n j w3
  let w5 := phase5 s n j w4
  let w6 := phase6 s n j (rotIdx w5.core.rr6 (s.buildEnts n [3])) w5
  let fixed := w6.bursts.filter (fun b => b.fixed)
  let pre := sortBursts (fun b => b.earliest) (w6.bursts.filter (fun b => !b.fixed && b.pre))
  let lay := w6.core.layout
  let rest := sortBursts (fun b => (b.onu + 512 - lay) % 512) (w6.bursts.filter (fun b => !b.fixed && !b.pre))
  let occ := now.map (fun x => (x.start, x.start + x.len)) ++ fixed.map (fun b => (b.start, b.start + b.size))
  let l := layAll s n c0 (pre ++ rest) occ w6
  let bs := sortBursts (fun b => b.start) ((fixed ++ l.1).map (fun b => { b with ovh := s.ovh n (s.prof n b.prof) }))
  let used := sortIv (now.map (fun x => (x.start, x.start + x.len)) ++ bs.map (fun b => (b.start, b.start + b.size)))
  { map := { sfc := j, bursts := bs, grants := sent.map (fun p => p.2.1) },
    core := { l.2.core with layout := (lay + 1) % 512 },
    shorts := l.2.shorts,
    idle := freeTu (s.frameTu n) 0 used,
    limit := l.2.limit,
    taken := np.2.map (fun x => x.1),
    plan := match np.2 with | some (q, k, some gr, _) => some (k, gr, q) | _ => none,
    sils := newSil,
    noplan := np.1,
    omitted := omitted }

/-- The realignment that shortens frame K − 1: its target K. DEDUCED (log entry 142): R181 speaks of a late boundary, as for an early one
no frame loses content (R115). -/
def State.lateRealign (s : State) (n : Nat) : Option Nat := (s.realignAt n).filter (fun _ => decide (0 < (s.pe n).e))

/-- The frame a build that starts now is for: none where R181 lets no build run. -/
def State.buildFrame (s : State) (n : Nat) : Option Nat :=
  let p := s.pe n
  match s.lateRealign n with
  | none => some p.next
  | some k => if p.next = (k + sfcSpan - 1) % sfcSpan then some k else if p.next = k then none else some p.next

/-- The slice schedules port `n` (R163). -/
def State.gsUp (s : State) (n : Nat) : Bool := s.en (gsPg n) && s.peUp n

def mapBuild (n : Nat) (s : State) : State :=
  if s.gsUp n && !s.quiescing (gsPg n) then
    match s.buildFrame n with
    | none => s
    | some j => commitMoves n (s.modGp n (fun g => { g with built := some (buildMap s n j) }))
  else s

/-! ### Sealing (R165, R170, R187) -/

/-- Return a request to the sequencer: the window was not opened (R151, R179, R181). -/
def returnReq (n : Nat) (q : QReq) (s : State) : State :=
  if q.kind = 1 ∨ q.kind = 2 then s.modCx n q.ctx (fun x => { x with asked := false }) else s

/-- Charge the grants of a map to BACKLOG and GRANT_B. -/
def chargeMap (n : Nat) (m : GMap) (s : State) : State :=
  (m.bursts.flatMap (fun b => b.allocs)).foldl (fun s a =>
    match a.entry with
    | none => s
    | some i =>
      let e := s.aent n i
      if eget e eUSED = 0 then s
      else s.setEnt (pgGP n) 0 i (ewPut (eput e gBACKLOG (eget e gBACKLOG - a.bytes)) 7 (ew e 7 + a.bytes))) s

/-- Record the shortfalls of a frame. -/
def chargeShorts (n sfc : Nat) (l : List (Nat × Nat)) (s : State) : State :=
  let idx := (l.map (fun p => p.1)).foldl (fun a i => insertNat i a) []
  idx.foldl (fun s i =>
    let b := (l.filter (fun p => p.1 == i)).foldl (fun x p => x + p.2) 0
    let e := s.aent n i
    if eget e eUSED = 0 then s
    else
      let e1 := eput e gSHORTFR (min (eget e gSHORTFR + 1) 0xFFFF)
      (s.setEnt (pgGP n) 0 i (ewPut (ewPut e1 9 (min (ew e 9 + b) (2 ^ 32 - 1))) 10 sfc)).bump (pgGP n) C.GS_SHORT) s

/-- The parts of a map of `k` structures (R409): PART, COUNT and LAST. -/
def mapParts (k : Nat) : List (Nat × Nat × Bool) :=
  if k ≤ 255 then [(0, k, true)]
  else if k ≤ 510 then [(0, 255, false), (1, k - 255, true)]
  else [(0, 255, false), (1, 255, false), (2, k - 510, true)]

/-- A MAP message up to its structures (R409): TYPE, PORT, LEN, and the head with the superframe counter, the PSBd timestamp of the
frame, PART, COUNT and LAST. DEDUCED (log entry 119): numbers of more than a byte go most significant byte first. -/
def ligMapHead (n sfc : Nat) (x : Stamp) (part count : Nat) (last : Bool) : List Byte :=
  beBytes 1 1 ++ beBytes 1 n ++ beBytes 2 (32 + 8 * count) ++ beBytes 8 sfc ++ (stampWords x).flatMap (beBytes 4) ++
    beBytes 1 part ++ beBytes 1 count ++ beBytes 1 (if last then 1 else 0) ++ List.replicate 5 0

/-- The active device of a pair sends each protected port's map to its peer, part after part (R409); none for frame K of a pending
switch, which is the other's (R431). -/
def ligMap (n : Nat) (m : GMap) (s : State) : State :=
  let handed := match s.px.k with | none => false | some k => passed m.sfc k
  if s.protected_ n && (s.pxState == 4 || s.pxState == 5) && s.get pgPX F.PX_STATE_VER == 2 && !handed then
    let x := s.stampAt (s.fbTb n) (s.psbdAt n m.sfc - s.fbT n)
    (mapParts m.structs).foldl (fun s p =>
      s.emit (.ligMap (ligMapHead n m.sfc x p.1 p.2.1 p.2.2) ((m.words.drop (255 * p.1)).take p.2.1))) s
  else s

/-- Take requests off the list. -/
def removeReq (q : QReq) : List QReq → List QReq
  | [] => []
  | x :: r => if x = q then r else x :: removeReq q r

/-- A port's map is sealed, `margin` tenths of a microsecond before the deadline, with its structures encoded (R164). -/
def mapSeal (n margin : Nat) (s : State) : State :=
  match (s.gp n).built with
  | none => s
  | some b0 =>
    let b := { b0 with map := { b0.map with words := s.structsOf n b0.map } }
    let gone := (match b.taken with | none => [] | some q => [q]) ++ b.noplan
    let s1 := s.modGp n (fun g =>
      { g with core := b.core, built := none, sealed_ := some b.map, staleRun := 0,
               reqs := gone.foldl (fun l q => removeReq q l) g.reqs,
               silences := g.silences ++ b.sils,
               plans := g.plans.filter (fun p => p.1 != b.map.sfc) ++ (match b.plan with | none => [] | some p => [p]),
               hints := g.hints.filter (fun h => !passed b.map.sfc h.target) })
    let s2 := chargeShorts n b.map.sfc b.shorts (chargeMap n b.map s1)
    let pg := pgGP n
    let s3 := ((s2.bump pg C.GS_MAPS).bump pg C.GS_IDLE b.idle).when b.limit (fun s => s.bump pg C.GS_STRUCT_LIMIT)
    let s4 := (s3.when b.taken.isSome (fun s => s.bump pg C.GS_QW_PLACED)).bump pg C.GS_QW_NOPLAN b.noplan.length
    let s5 := (b.noplan ++ b.omitted).foldl (fun s q => returnReq n q s) s4
    let s6 := match b.plan with
      | some (k, g, _) =>
        if g.kind = 0 then announceProfiles n (some k) s5 else s5
      | none => s5
    let m := min margin 0xFFFF
    let s7 := (s6.put pg F.GS_PORT_SEAL_LAST m).put pg F.GS_PORT_SEAL_MIN (min m (s6.get pg F.GS_PORT_SEAL_MIN))
    ligMap n b.map (setBitOf (setBitOf s7 (gsPg n) F.GS_STATUS_STALE (gsBit n) false) (gsPg n) F.GS_STATUS_FROZEN (gsBit n) false)

/-! ### Stale maps (R181, R185) -/

/-- The reduced map of frame `j`. -/
def reducedMap (s : State) (n j : Nat) : GMap :=
  let g := s.gp n
  let keepA (a : Alc) : Bool :=
    match a.entry with
    | none => false
    | some i => (a.phase == 1 || a.phase == 4) && eget (s.aent n i) eUSED == 1 && s.eligible n (s.aent n i)
  let bs := g.prev.bursts.filterMap (fun b =>
    let al := b.allocs.filter keepA
    let sz := s.burstTu n b.prof al
    let excess := g.silences.any (fun x => x.sfc == j && meets b.start (b.start + sz) x.start (x.start + x.len))
    if al.isEmpty || excess || s.burstProf n b.onu != b.prof then none else some { b with allocs := al, size := sz, pre := false })
  { sfc := j, reduced := true, bursts := bs }

/-- Charge the buckets and reports for a reduced map. -/
def chargeBuckets (c : GCore) (m : GMap) : GCore :=
  (m.bursts.flatMap (fun b => b.allocs)).foldl (fun c0 a =>
    match a.entry with
    | none => c0
    | some i =>
      let c := if a.dbru then { c0 with dbruAt := sset 0 c0.dbruAt i (m.sfc + 1) } else c0
      if a.phase = 4 then
        { c with tp := sset 0 c.tp i (sget 0 c.tp i - 8 * a.bytes), ta := sset 0 c.ta i (sget 0 c.ta i - ((8 * a.bytes : Nat) : Int)) }
      else c) c

/-- What a reduced map charges (R185): buckets, reports, the pointer of phase 4 for the last context served in rotation, and the layout
pointer, which advances each frame (R184). -/
def staleCore (c : GCore) (m : GMap) : GCore :=
  let idx := (m.bursts.flatMap (fun b => b.allocs)).foldl (fun l a =>
    match a.entry with | some i => if a.phase = 4 then insertNat i l else l | none => l) []
  let c1 := chargeBuckets c m
  { c1 with rr4 := (match (rotIdx c.rr4 idx).getLast? with | some i => i + 1 | none => c.rr4), layout := (c.layout + 1) % 512 }

/-- Map `m` of frame `j` takes the place of one that was not sealed in time (R185): it is charged, what was planned for the
frame is lost, and the port shows the stale map. -/
def staleWith (n j : Nat) (m0 : GMap) (s : State) : State :=
  let g := s.gp n
  let m := { m0 with words := s.structsOf n m0 }
  let lost := g.plans.filter (fun q => q.1 == j)
  let late := g.hints.filter (fun h => h.target == j)
  let s1 := s.modGp n (fun g =>
    { g with built := none, sealed_ := some m, core := staleCore g.core m, staleRun := g.staleRun + 1,
             plans := g.plans.filter (fun q => q.1 != j),
             hints := g.hints.map (fun h => if h.target = j then { h with target := (j + 1) % sfcSpan, at_ := 0 } else h) })
  let pg := pgGP n
  let s2 := ((chargeMap n m s1).bump pg C.GS_STALE).bump pg C.GS_HINT_LATE late.length
  let s3 := lost.foldl (fun s q => returnReq n q.2.2 (s.bump pg C.GS_QW_LOST)) s2
  let s4 := (s3.put pg F.GS_PORT_SEAL_LAST 0).put pg F.GS_PORT_SEAL_MIN 0
  let s5 := (setBitOf s4 (gsPg n) F.GS_STATUS_STALE (gsBit n) true).raise (gsPg n) (gsBit n)
  if g.staleRun + 1 = 2 then
    (setBitOf s5 (gsPg n) F.GS_STATUS_FROZEN (gsBit n) true).raise (gsPg n) (8 + gsBit n)
  else s5

/-- The build was late (R185); the TU the reduced map leaves unused are unused as well (R190). -/
def mapStale (n : Nat) (s : State) : State :=
  let g := s.gp n
  let p := s.pe n
  let j := p.next
  let isSealed := match g.sealed_ with | some m => m.sfc == j | none => false
  let empty := match s.lateRealign n with | some k => j == (k + sfcSpan - 1) % sfcSpan | none => false
  if !s.gsUp n || isSealed || empty then s
  else
    let m := reducedMap s n j
    ligMap n m ((staleWith n j m s).bump (pgGP n) C.GS_IDLE (idleTu s n j m.bursts))

/-! ### Reports and hints (R170, R182, R183) -/

/-- A buffer-occupancy report of `b` bytes for the map of frame `m` (R170). A sealed map is charged already, so its grants
count beside those of the maps sent. -/
def report (n i m b : Nat) (s : State) : State :=
  let due := match (s.gp n).sealed_ with | none => [] | some x => x.grantsOf
  let g := (((s.gp n).hist ++ due).filter (fun h => h.2.1 == i && decide (0 < sfcDiff h.1 m) && passed h.1 m)).foldl (fun x h => x + h.2.2) 0
  s.putE (pgGP n) 0 i gBACKLOG (min (b - g) 0xFFFFFF)

/-- The first map whose build has not started. -/
def State.openMap (s : State) (n : Nat) : Nat :=
  let p := s.pe n
  let g := s.gp n
  let begun := g.built.isSome || (match g.sealed_ with | some m => m.sfc == p.next | none => false)
  if begun then (p.next + 1) % sfcSpan else p.next

/-- The slice treats a delivered hint (R183): `th` in ns on the hint time base. Upstream frames are counted from the one of the frame on
the lane, from its start (R124). -/
def hintRx (n i th bytes : Nat) (s : State) : State :=
  let e := s.aent n i
  let pg := pgGP n
  let gs := gsPg n
  if !s.bit gs F.GS_HINT_CFG_EN then s
  else
    let now : Int := ((s.tb (s.get gs F.GS_HINT_CFG_TB)).t : Int)
    let ahead : Int := ((th * tbUnit : Nat) : Int) - now
    if ((s.get gs F.GS_HINT_CFG_AHEAD * 100000 * tbUnit : Nat) : Int) < ahead then s.bump pg C.GS_HINT_EARLY
    else if eget e gTYPE ≠ 4 ∨ s.level3 n (eget e gONU) < 2 then s.bump pg C.GS_HINT_LATE
    else if s.frozen n then s.bump pg C.GS_HINT_FROZEN
    else if 4 ≤ ((s.gp n).hints.filter (fun h => h.ctx == i)).length then s.bump pg C.GS_HINT_OVF
    else
      let p := s.pe n
      let u0 : Int := p.tg + p.e + ((s.get (pgPE n 4) F.PE_US_TEQD_TEQD * tbUnit : Nat) : Int)
      let x : Int := ahead + s.getI gs F.GS_HINT_CFG_ADV * tbUnit + s.fbT n - u0
      let k := x / framePeriod
      let base := if p.waiting then p.next else p.sfc
      let target := ((base : Int) + k) % (sfcSpan : Int)
      let first := s.openMap n
      let add (t a : Nat) (s : State) : State :=
        s.modGp n (fun g => { g with hints := g.hints ++ [{ ctx := i, target := t, at_ := a, bytes := bytes }] })
      if passed target.toNat first then
        add target.toNat (ceilDiv ((x - k * framePeriod).toNat * qUnit) (tbUnit * s.tu n)) s
      else add first 0 (s.bump pg C.GS_HINT_LATE)

/-- The oldest delivered hint of a port. -/
def hintNext (n : Nat) (s : State) : State :=
  match (s.gp n).inbox with
  | [] => s
  | (i, th, b) :: r => hintRx n i th b (s.modGp n (fun g => { g with inbox := r }))

/-- GS_CFG.CLR (R189). -/
def hintCntClr (sl : Nat) (s : State) : State := (s.put (pgGS sl 0) F.GS_HINT_NOKEY_COUNT 0).put (pgGS sl 0) F.GS_HINT_BAD_COUNT 0

/-! ### Meanings -/

def execMapBuild (slice : Fin 6) (s : State) : Res := .next (forN 8 (fun k s => mapBuild (slice.val * 8 + k) s) s)

def execMapSeal (port : Fin 48) (margin : Nat) (s : State) : Res := .next (mapSeal port.val margin s)

def execMapStale (port : Fin 48) (s : State) : Res := .next (mapStale port.val s)

def execHintRx (port : Fin 48) (t : Nat) (s : State) : Res := .next (hintNext port.val (s.at t))

def execHintCntClr (fn : Fn) (slice : Fin 6) (w : Word) (s : State) : Res :=
  .next (s.hostWrite fn.val (pgGS slice.val 0 + 0x040) (w ||| maskBit 31) (fun s _ => hintCntClr slice.val s))

end Sys2Proof.Machine
end

