-- ==== Sys2Proof/Machine/Circuits.lean ====
section
/-! DEFINITION. Chapter 17: constant-rate circuits and their slip buffers (R393 to R404). -/

namespace Sys2Proof.Machine

/-! ### Ethernet packets -/

/-- One step of the Ethernet CRC over a bit. -/
def crcBit (c : Nat) (b : Bool) : Nat :=
  let x := c ^^^ (if b then 1 else 0)
  if x % 2 = 1 then (x / 2) ^^^ 0xEDB88320 else x / 2

/-- The bits of a byte, least significant first. -/
def bitsLsb (b : Byte) : List Bool := (List.range 8).map (fun i => b.toNat.testBit i)

/-- The frame check sequence of a packet, as its four bytes. -/
def fcs (d : List Byte) : List Byte :=
  let c := d.foldl (fun c b => (bitsLsb b).foldl crcBit c) 0xFFFFFFFF
  wordBytes (0xFFFFFFFF - c)

/-- Pad to the Ethernet minimum and add the frame check sequence. -/
def finish (d : List Byte) : List Byte :=
  let p := d ++ List.replicate (60 - d.length) 0
  p ++ fcs p

/-! ### Entries (R404) -/

def ceEN : TF := ⟨0, 31, 31⟩
def ceTYPE : TF := ⟨0, 30, 29⟩
def ceTSRC : TF := ⟨0, 28, 28⟩
def ceTB : TF := ⟨0, 27, 25⟩
def cePORT : TF := ⟨0, 21, 16⟩
def ceXGEM : TF := ⟨0, 15, 0⟩
def ceECID : TF := ⟨1, 31, 12⟩
def ceUQ : TF := ⟨1, 11, 0⟩
def ceVLAN : TF := ⟨3, 31, 31⟩
def ceVID : TF := ⟨3, 27, 16⟩
def ceDMHI : TF := ⟨3, 15, 0⟩
def ceCLR : TF := ⟨4, 31, 31⟩
def ceALIGNED : TF := ⟨4, 4, 4⟩
def ceUSFILL : TF := ⟨4, 3, 2⟩
def ceDSFILL : TF := ⟨4, 1, 0⟩
def ceDSDROP : TF := ⟨5, 31, 16⟩
def ceDSREP : TF := ⟨5, 15, 0⟩
def ceUSDROP : TF := ⟨6, 31, 16⟩
def ceUSREP : TF := ⟨6, 15, 0⟩
def ceDSLOST : TF := ⟨7, 31, 16⟩
def ceUSLOST : TF := ⟨7, 15, 0⟩
def ceDSSTRAY : TF := ⟨8, 31, 16⟩
def ceUSSTRAY : TF := ⟨8, 15, 0⟩
def ceLOF : TF := ⟨9, 31, 16⟩
def ceFALSE : TF := ⟨9, 15, 0⟩
def ceTX : TF := ⟨10, 31, 0⟩

def State.cent (s : State) (c : Nat) : Entry := s.ent pgCE 0 c
def State.cget (s : State) (c : Nat) (f : TF) : Nat := eget (s.cent c) f
def cput (c : Nat) (f : TF) (v : Nat) (s : State) : State := s.putE pgCE 0 c f v
/-- Count in a saturating field of an entry. -/
def cinc (c : Nat) (f : TF) (k : Nat) (s : State) : State := cput c f (min (s.cget c f + k) (2 ^ (f.hi - f.lo + 1) - 1)) s

def State.ckt (s : State) (c : Nat) : Ckt := sget {} s.ce.ckts c
def State.modCkt (s : State) (c : Nat) (f : Ckt → Ckt) : State :=
  { s with ce := { s.ce with ckts := sset {} s.ce.ckts c (f (s.ckt c)) } }

/-- Circuit `c` works: it is enabled, and so is its engine. -/
def State.cktOn (s : State) (c : Nat) : Bool := s.en pgCE && s.cget c ceEN == 1

/-- Bytes of a circuit-frame (R393), and of the payload that carries it on the PON. -/
def frameBytes (typ : Nat) : Nat := if typ = 2 then 2430 else 32
def ponBytes (typ : Nat) : Nat := if typ = 2 then 2436 else 36

/-- The payload of a circuit-frame on the PON: the control word, the circuit-frame, and padding (R394). -/
def ponPayload (typ ctl : Nat) (d : List Byte) : List Byte :=
  (beBytes 4 ctl ++ d ++ zeroBytes (ponBytes typ)).take (ponBytes typ)

def State.cktType (s : State) (c : Nat) : Nat := s.cget c ceTYPE

/-- A filler (R397). -/
def State.filler (s : State) (c : Nat) : CFrame := { bytes := List.replicate (frameBytes (s.cktType c)) 0xFF, l := true }

/-- The ONU context of a circuit's XGEM port. -/
def State.cktOnu (s : State) (c : Nat) : Option Nat :=
  (s.findXgem (s.cget c cePORT) (s.cget c ceXGEM)).map (fun p => eget p.2 xONU)

/-- Its terminal is in OPERATION. -/
def State.cktLive (s : State) (c : Nat) : Bool :=
  match s.cktOnu c with | none => false | some o => s.st (s.cget c cePORT) o == 6

/-- Enabled circuits of a port. -/
def State.cktsOf (s : State) (n : Nat) : List Nat :=
  ((s.rows pgCE 0).filter (fun p => eget p.2 ceEN == 1 && eget p.2 cePORT == n)).map (fun p => p.1)

/-- FILL fields follow the buffers. -/
def ceFill (c : Nat) (s : State) : State :=
  cput c ceUSFILL (s.ckt c).us.length (cput c ceDSFILL (s.ckt c).ds.length s)

/-- A slip (R400). -/
def slip (c : Nat) (f : TF) (s : State) : State :=
  let s1 := (cinc c f 1 s).put pgCE F.CE_LAST_SLIP c
  if s1.secSince s1.ce.slipAt then ({ s1 with ce := { s1.ce with slipAt := some s1.now } } : State).raise pgCE 0 else s1

/-! ### Downstream (R396, R397) -/

def dsWrite (c : Nat) (x : CFrame) (s : State) : State :=
  let excess := 2 ≤ (s.ckt c).ds.length
  let s1 := if excess then slip c ceDSDROP s else s
  ceFill c (s1.modCkt c (fun k => { k with ds := (if excess then k.ds.drop 1 else k.ds) ++ [x] }))

/-- The control word of R394. -/
def ctlWord (l r : Bool) (seq : Nat) : Nat := (if l then 2 ^ 27 else 0) + (if r then 2 ^ 26 else 0) + seq % 65536

/-- A downstream read tick in frame `sfc` of its port. -/
def dsTick (c sfc : Nat) (s : State) : State :=
  if !s.cktOn c then s
  else
    let k := s.ckt c
    let x := match k.ds with
      | x :: _ => x
      | [] => match k.dsLast with | some x => x | none => s.filler c
    let s1 := if k.ds.isEmpty && k.dsLast.isSome then slip c ceDSREP s else s
    let s2 := ceFill c (s1.modCkt c (fun k => { k with ds := k.ds.drop 1, dsLast := if k.ds.isEmpty then k.dsLast else some x }))
    if s2.cktLive c then
      let n := s2.cget c cePORT
      let ctl := ctlWord x.l k.lof sfc
      let s3 := s2.modPe n (fun p => { p with ce := p.ce ++ [(s2.cget c ceXGEM, ponPayload (s2.cktType c) ctl x.bytes)] })
      (cput c ceTX (s3.cget c ceTX + 1) s3).emit (.ceFrame c ctl)
    else s2

/-- Every circuit of a port at a frame that carries payload. -/
def circuitTicks (n sfc : Nat) (s : State) : State :=
  let s0 := s.modPe n (fun p => { p with ce := [] })
  ((s0.cktsOf n).foldl (fun s c => dsTick c sfc s) s0).modPe n (fun p =>
    { p with ceLen := (p.ce.map (fun q => xgemBytes q.2.length)).foldl (· + ·) 0 })

/-- Where the ECID of a packet stands, after at most one tag, when its ethertype is ETYPE. -/
def State.ceHeader (s : State) (d : List Byte) : Option (List Byte) :=
  let et (o : Nat) : Nat := beNat ((d.drop o).take 2)
  let want := s.get pgCE F.CE_CFG_ETYPE
  if et 12 = want then some (d.drop 14)
  else if (et 12 = 0x8100 ∨ et 12 = 0x88A8) ∧ et 16 = want then some (d.drop 18)
  else none

/-- The enabled circuit a received packet belongs to (R396). -/
def State.ceMatch (s : State) (d : List Byte) : Option Nat :=
  if !s.en pgCE || !s.bit pgCE F.CE_CFG_EN then none
  else
    match s.ceHeader d with
    | none => none
    | some p =>
      let ecid := beNat (p.take 4) / 4096
      (((s.rows pgCE 0).filter (fun r => eget r.2 ceEN == 1 && eget r.2 ceECID == ecid)).map (fun r => r.1)).head?

/-- A circuit packet from the uplink (R396). Its payload length does not count the padding of a minimum-size packet. -/
def dsPacket (c : Nat) (d : List Byte) (s : State) : State :=
  match s.ceHeader d with
  | none => s
  | some p =>
    let want := frameBytes (s.cktType c)
    let body := (p.drop 8).take ((p.drop 8).length - 4)
    let padded := decide (d.length ≤ 64) && decide (want ≤ body.length)
    if !(body.length == want || padded) then cinc c ceDSSTRAY 1 s
    else
      let cw := beNat ((p.drop 4).take 4)
      let seq := cw % 65536
      let x : CFrame := { bytes := body.take want, l := cw.testBit 27 }
      let k := match (s.ckt c).dsSeq with | none => 1 | some q => (seq + 65536 - q) % 65536
      if k = 0 ∨ 32767 < k then cinc c ceDSSTRAY 1 s
      else
        let s1 := forN (min (k - 1) 2) (fun _ s => dsWrite c (s.filler c) s) s
        (dsWrite c x (cinc c ceDSLOST (k - 1) s1)).modCkt c (fun y => { y with dsSeq := some seq })

/-! ### Alignment (R401, R402) -/

/-- The bits of a byte, most significant first. -/
def bitsMsb (b : Byte) : List Bool := (List.range 8).map (fun i => b.toNat.testBit (7 - i))

def packBits : List Bool → Nat → List Byte
  | _, 0 => []
  | l, n + 1 => BitVec.ofNat 8 ((l.take 8).foldl (fun a b => 2 * a + if b then 1 else 0) 0) :: packBits (l.drop 8) n

/-- The alignment signal stands at the head of these bits. -/
def isFas (l : List Bool) : Bool := (l.drop 1).take 7 == [false, false, true, true, false, true, true]

/-- Search from the head of the stream: false candidates, and either the bits kept for later or the bits from the
confirmed alignment on. -/
def fasSearch : Nat → List Bool → Nat × Bool × List Bool
  | 0, l => (0, false, l)
  | n + 1, l =>
    if l.length < 520 then (0, false, l)
    else if isFas l then
      if (l.drop 257).head? = some true ∧ isFas (l.drop 512) = true then (0, true, l)
      else let r := fasSearch n (l.drop 1); (r.1 + 1, r.2)
    else fasSearch n (l.drop 1)

/-- CE_LOF: three consecutive alignment words were in error. -/
def ceLof (c : Nat) (s : State) : State :=
  if s.cget c ceALIGNED = 1 ∧ 3 ≤ (s.ckt c).bad then
    let s1 := s.modCkt c (fun k => { k with acc := [], bad := 0, lof := true })
    (((cinc c ceLOF 1 (cput c ceALIGNED 0 s1)).put pgCE F.CE_LAST_LOF c).raise pgCE 1)
  else s

/-- A received circuit-frame of a structured circuit enters the stream: the circuit-frame that is written. A loss of alignment that is due
acts first. -/
def alignFrame (c : Nat) (x : CFrame) (s0 : State) : CFrame × State :=
  let s := ceLof c s0
  let k := s.ckt c
  let bits := x.bytes.flatMap bitsMsb
  if s.cget c ceALIGNED = 1 then
    let l := k.acc ++ bits
    let y : CFrame := { bytes := packBits l 32, l := x.l }
    let bad := if k.fas then (if isFas l then 0 else k.bad + 1) else k.bad
    let s1 := s.modCkt c (fun k => { k with acc := l.drop 256, fas := !k.fas, bad := bad })
    (if 3 ≤ bad then s.filler c else y, s1)
  else
    let r := fasSearch (k.acc.length + 256) (k.acc ++ bits)
    let s1 := cinc c ceFALSE r.1 s
    let out := if k.lof then s.filler c else x
    if r.2.1 then
      let m := r.2.2.length / 256
      let s2 := cput c ceALIGNED 1 (s1.modCkt c (fun k =>
        { k with acc := r.2.2.drop (256 * m), fas := m % 2 == 0, bad := 0, lof := false }))
      (out, if k.lof then s2.raise pgCE 2 else s2)
    else (out, s1.modCkt c (fun k => { k with acc := r.2.2 }))

/-! ### Upstream (R395, R397, R398) -/

def usPush (c : Nat) (x : CFrame) (s : State) : State :=
  let excess := 2 ≤ (s.ckt c).us.length
  let s1 := if excess then slip c ceUSDROP s else s
  ceFill c (s1.modCkt c (fun k => { k with us := (if excess then k.us.drop 1 else k.us) ++ [x] }))

/-- Write one upstream circuit-frame: a structured circuit's stream is aligned first. -/
def usWrite (c : Nat) (x : CFrame) (s : State) : State :=
  if s.cktType c = 0 then let r := alignFrame c x s; usPush c r.1 r.2 else usPush c x s

/-- A filler in place of a circuit-frame that did not arrive. -/
def usLost (c : Nat) (s : State) : State :=
  if s.cktOn c then cinc c ceUSLOST 1 (usWrite c (s.filler c) s) else s

/-- The payload of a circuit's XGEM frame in a burst of the map of frame `sfc` (R394): whether it was written. -/
def usPayload (c sfc : Nat) (d : List Byte) (s : State) : Bool × State :=
  let cw := beNat (d.take 4)
  if cw % 65536 ≠ sfc % 65536 then (false, cinc c ceUSSTRAY 1 s)
  else if s.cktLive c then (true, usWrite c { bytes := (d.drop 4).take (frameBytes (s.cktType c)), l := cw.testBit 27 } s)
  else (true, cinc c ceUSLOST 1 (usWrite c (s.filler c) s))

/-- The circuit an XGEM port is bound to. -/
def State.cktOfXgem (s : State) (n id : Nat) : Option Nat :=
  if s.en pgCE then (s.cktsOf n).find? (fun c => s.cget c ceXGEM == id) else none

/-- The packet of an upstream circuit-frame (R395). -/
def State.cePacket (s : State) (c : Nat) (x : CFrame) : List Byte :=
  let e := s.cent c
  let dm := ew e 2 + eget e ceDMHI * 2 ^ 32
  let sm := s.get2 pgCE F.CE_SMAC_LO_SMAC F.CE_SMAC_HI_SMAC
  let tag := if eget e ceVLAN = 1 then beBytes 2 0x8100 ++ beBytes 2 (eget e ceVID) else []
  finish (beBytes 6 dm ++ beBytes 6 sm ++ tag ++ beBytes 2 (s.get pgCE F.CE_CFG_ETYPE) ++ beBytes 4 (eget e ceECID * 4096) ++
    beBytes 4 (ctlWord x.l false (s.ckt c).usSeq) ++ x.bytes)

/-- T of a circuit's time base in parts of a nanosecond. -/
def State.cktT (s : State) (c : Nat) : Int := ((s.tb (s.cget c ceTB)).t : Int)

/-- The first tick of the grid that a circuit's read ticks with TSRC = 1 fall on (R398). DESIGN CHOICE (log entry 145): the grid's
origin is the instant at which it is fixed. -/
def gridStart (c : Nat) (s : State) : State := s.modCkt c (fun k => { k with grid := s.cktT c + framePeriod })

/-- A re-step by `d` of time base `tb` moves the grids on it (R398). -/
def ceRestep (tb : Nat) (d : Int) (s : State) : State :=
  ((s.rows pgCE 0).filter (fun p => eget p.2 ceEN == 1 && eget p.2 ceTSRC == 1 && eget p.2 ceTB == tb)).foldl
    (fun s p => s.modCkt p.1 (fun k => { k with grid := k.grid + d })) s

/-- An upstream read tick (R397, R398). -/
def usTick (c : Nat) (s : State) : State :=
  if !s.cktOn c then s
  else
    let k := s.ckt c
    let x := match k.us with
      | x :: _ => x
      | [] => match k.usLast with | some x => x | none => s.filler c
    let s1 := if k.us.isEmpty && k.usLast.isSome then slip c ceUSREP s else s
    let pkt : Pkt := { bytes := s1.cePacket c x, charge := 66 }
    let s2 := ceFill c (s1.modCkt c (fun k =>
      { k with us := k.us.drop 1, usLast := (if k.us.isEmpty then k.usLast else some x), usSeq := (k.usSeq + 1) % 65536 }))
    offer { pkt := pkt, dests := [(4, s2.cget c ceUQ)] } (cput c ceTX (s2.cget c ceTX + 1) s2)

/-- CE_US_TICK: with TSRC = 0 the start of an upstream frame of the port; with TSRC = 1 it acts once its instant on the grid is
reached (R398). -/
def usTickDue (c : Nat) (s : State) : State :=
  if s.cget c ceTSRC = 0 then usTick c s
  else if (s.ckt c).grid ≤ s.cktT c then usTick c (s.modCkt c (fun k => { k with grid := k.grid + framePeriod }))
  else s

/-! ### The table (R404) -/

/-- WRITE or a successful CAS of a circuit. -/
def ceTblWrite (c : Nat) (d : Entry) (s : State) : Nat × State :=
  let typ := eget d ceTYPE
  let n := eget d cePORT
  let others := (s.rows pgCE 0).filter (fun p => p.1 != c && eget p.2 ceEN == 1)
  let fit := if typ = 2 then decide (1024 ≤ c) else decide (c < 1024)
  let xg := match s.findXgem n (eget d ceXGEM) with
    | none => false
    | some (_, e) => eget e xUS == 1 && eget e xDS == 1
  let same := others.filter (fun p => eget p.2 cePORT == n)
  let e1s := (same.filter (fun p => eget p.2 ceTYPE != 2)).length + (if eget d ceEN = 1 ∧ typ ≠ 2 then 1 else 0)
  let bigs := (same.filter (fun p => eget p.2 ceTYPE == 2)).length + (if eget d ceEN = 1 ∧ typ = 2 then 1 else 0)
  let bad := typ == 3 || !fit || decide (47 < n) || !xg || same.any (fun p => eget p.2 ceXGEM == eget d ceXGEM) ||
    others.any (fun p => eget p.2 ceECID == eget d ceECID) || decide (256 < e1s) || decide (8 < bigs)
  if bad then (7, s.cfgRej pgCE)
  else
    let old := s.cent c
    let hw : Entry := BitVec.ofNat 512 (old.toNat / 2 ^ 128 * 2 ^ 128)
    let hw := if eget d ceCLR = 1 then eLow hw 5 else hw
    let starts := eget d ceEN == 1 && eget old ceEN == 0
    let s1 := s.setEnt pgCE 0 c (eLow d 4 ||| eput hw ceCLR 0)
    if starts then (0, gridStart c (ceFill c (cput c ceALIGNED 0 (s1.modCkt c (fun _ => {})))))
    else if eget d ceTSRC ≠ eget old ceTSRC ∨ eget d ceTB ≠ eget old ceTB then (0, gridStart c s1)
    else (0, s1)

/-! ### Meanings -/

def execCeDsPacket (t : Nat) (s0 : State) : Res :=
  let s := s0.at t
  match s.ce.inq with
  | [] => .next s
  | (c, d) :: r =>
    let s1 : State := { s with ce := { s.ce with inq := r } }
    .next (if s1.cktOn c then dsPacket c d s1 else s1)

def execCeUsTick (circuit : Fin 1088) (t : Nat) (s : State) : Res := .next (usTickDue circuit.val (s.at t))

def execCeLof (circuit : Fin 1088) (s : State) : Res := .next (ceLof circuit.val s)

end Sys2Proof.Machine
end

