-- ==== Sys2Proof/Machine/Plant.lean ====
section
/-! DEFINITION. Chapter 19 and R500 to R502: reflectometry, modules, laser shutdown, shorted pins and TXDIS (R437 to R452,
R499 to R502, R523). -/

namespace Sys2Proof.Machine

/-- The PM group page of a port, and its place there. -/
def pmPg (n : Nat) : Nat := pgPMG (n / 8)
def pmK (n : Nat) : Nat := n % 8

def State.pmget (s : State) (n : Nat) (f : Fld) : Nat := s.get (pmPg n) (f.ix (pmK n))
def State.pmbit (s : State) (n : Nat) (f : Fld) : Bool := s.bit (pmPg n) (f.ix (pmK n))
def pmput (n : Nat) (f : Fld) (v : Nat) (s : State) : State := s.put (pmPg n) (f.ix (pmK n)) v

/-- A counter of a port's block: 0 TRACES, 1 WIN_DISCARD, 2 MUTES, 3 PULSES (R451). -/
def pmCtr (n k : Nat) : Ctr := ⟨0x0C4 + 0x10 * pmK n + 4 * k, 32, decide (0 < k)⟩
def pmCount (n k : Nat) (s : State) : State := s.bump (pmPg n) (pmCtr n k)

/-- Events of a port on its group page: 0 MUTE, 1 OVERBLOW, 2 TRACE_EVENT, 3 MODULE_FAULT. -/
def pmEv (n e : Nat) : Nat := 4 * pmK n + e

def State.alsOf (s : State) (n : Nat) : Als := sget {} s.als n
def State.modAls (s : State) (n : Nat) (f : Als → Als) : State := { s with als := sset {} s.als n (f (s.alsOf n)) }

def State.alsState (s : State) (n : Nat) : Nat := s.pmget n F.PM_ALS_STAT_STATE

/-! ### TXDIS (R523) -/

/-- Protection holds TXDIS of the port; the device that takes over at frame K releases it TX_LEAD before (R431). -/
def State.pxHolds (s : State) (n : Nat) : Bool :=
  s.protected_ n && ((!(s.pxState == 4 || s.pxState == 5) && !s.txLead n) || s.px.listening)

/-- The port whose machine governs port `n`: the even one of a combo pair. -/
def State.alsPort (s : State) (n : Nat) : Nat := if s.isLegacy n then n - 1 else n

/-- The PTX lane transmits: it has left electrical idle, in which it stands until its termination is found. -/
def State.transmits (s : State) (n : Nat) : Bool :=
  let l := s.lane n
  l.test || (s.bit (pgLN n) F.LN_STATUS_PLL_LOCK && !l.refWait && l.tx == .sending)

/-- TXDISn is driven high. -/
def State.txdis (s : State) (n : Nat) : Bool :=
  let st := s.alsState (s.alsPort n)
  decide (2 ≤ s.get pgPW F.PW_STATE_STATE) || s.pxHolds n || (s.alsOf n).hold || st == 2 || st == 4 ||
    (st != 5 && !(s.en (pe0 n) && s.transmits n))

/-! ### Shorted pins (R499 to R501) -/

/-- PE_PIN_STAT's bits [7:0], and the level PE_PIN_FAULT. -/
def pinLevel (n : Nat) (s : State) : State :=
  s.levelTo (pe0 n) 10 ((s.reg (pe0 n + 0x078)).toNat % 256 != 0)

/-! ### Traces (R437 to R440) -/

def State.trcRuns (s : State) (n : Nat) : Bool := s.pmget n F.PM_TRC_STAT_STATE == 1

/-- Stop a trace in state `st`: the overlay ends, and no more silences are asked for. -/
def trcStop (n st : Nat) (s : State) : State :=
  let s1 := (pmput n F.PM_TRC_STAT_STATE st s).modGp n (fun g => { g with reqs := g.reqs.filter (fun r => r.kind != 3) })
  (s1.modPe n (fun p => { p with plant := 0 })).emit (.overlay n 0)

/-- Abort a running trace. -/
def trcAbort (n : Nat) (s : State) : State := if s.trcRuns n then trcStop n 3 s else s

/-- Begin a trace: the overlay is on PTXn while it runs (R437, R439). -/
def trcBegin (n : Nat) (urgent : Bool) (s : State) : State :=
  let w : Word := BitVec.ofNat 32 (2 ^ 29 + (if urgent then 2 ^ 28 else 0))
  ((s.setReg (pmPg n + 0x20C + 64 * pmK n) w).modAls n (fun a =>
    { a with trcStart := (s.pe n).sfc, trcFrames := 0, trcFull := false })).emit (.overlay n (s.pmget n F.PM_TRC_CFG_DEPTH))

def pmReject (n : Nat) (s : State) : State := pmput n F.PM_ALS_STAT_REJ 1 s

/-- START (R437; MON_SEL shorted, R504). -/
def trcStart (n : Nat) (s : State) : State :=
  if s.trcRuns n || !s.en (pe0 n) || !s.pmbit n F.PM_MOD_CFG_MON_OK || s.alsState n != 0 || s.isLegacy n ||
      (s.protected_ n && s.get pgPX F.PX_STATE_STATE != 4) || s.pinShort n 3 then pmReject n s
  else trcBegin n false s

/-- Passes of the trace that runs: an urgent one covers what reaches BRK_DIST (R445). -/
def State.trcPasses (s : State) (n : Nat) : Nat :=
  if s.pmbit n F.PM_TRC_STAT_URGENT then max 1 (min 8 ((s.pmget n F.PM_ALS_CFG_BRK_DIST * 500 + 7999) / 8000))
  else s.pmget n F.PM_TRC_CFG_PASSES + 1

def State.trcAvg (s : State) (n : Nat) : Nat :=
  if s.pmbit n F.PM_TRC_STAT_URGENT then s.pmget n F.PM_ALS_CFG2_FAST_AVG else s.pmget n F.PM_TRC_CFG_AVG * 16

/-- While a trace runs, one silence is asked for every PER frames (R437). -/
def plantTick (n : Nat) (s : State) : State :=
  if s.trcRuns n && !(s.alsOf n).trcFull then
    let due := decide (s.pmget n F.PM_TRC_CFG_PER ≤ (s.alsOf n).trcFrames + 1) && !(s.gp n).reqs.any (fun r => r.kind == 3)
    if due then
      askWindow n { kind := 3, len := s.pmget n F.PM_TRC_CFG_QW * 1000 * qUnit } (s.modAls n (fun a => { a with trcFrames := 0 }))
    else s.modAls n (fun a => { a with trcFrames := a.trcFrames + 1 })
  else s

/-- A plant silence that the map placed was sampled, with a mean power: accepted or discarded, and the trace advances (R438 to R440).
The comparison with 3 dB is of tenth powers. DESIGN CHOICE (log entry 153): with fewer than 16 accepted windows the mean is over those. -/
def plantSilence (n power : Nat) (s0 : State) : State :=
  let a := s0.alsOf n
  if !s0.trcRuns n || a.trcFull || s0.pinShort n 3 || (s0.pe n).plant == 0 then s0
  else
    let s := s0.modPe n (fun p => { p with plant := p.plant - 1 })
    let k := a.trcPowers.length
    let sum := a.trcPowers.foldl (· + ·) 0
    if 0 < k ∧ sum ^ 10 * 1000 < (power * k) ^ 10 then pmCount n 1 s
    else
      let s1 := s.modAls n (fun a => { a with trcPowers := (power :: a.trcPowers).take 16 })
      let w := s.pmget n F.PM_TRC_STAT_WIN + 1
      if w < s.trcAvg n then pmput n F.PM_TRC_STAT_WIN w s1
      else
        let s2 := pmput n F.PM_TRC_STAT_WIN 0 s1
        let st := s.pmget n F.PM_TRC_STAT_STEP + 1
        if st < 16 then pmput n F.PM_TRC_STAT_STEP st s2
        else
          let p := s.pmget n F.PM_TRC_STAT_PASS + 1
          let s3 := pmput n F.PM_TRC_STAT_STEP 0 s2
          if p < s.trcPasses n then pmput n F.PM_TRC_STAT_PASS p s3 else s3.modAls n (fun a => { a with trcFull := true })

/-! ### Laser shutdown (R445 to R448) -/

/-- LN_LOS of the port's receivers. -/
def State.lossOf (s : State) (n : Nat) : Bool :=
  s.raw (pgLN (48 + n)) 0 && (if s.isLegacy (n + 1) && n % 2 == 0 then s.raw (pgLN (49 + n)) 0 else true)

/-- Protection does not freeze the machine, and it is enabled on this port. -/
def State.alsRuns (s : State) (n : Nat) : Bool := s.pmbit n F.PM_ALS_CFG_EN && !s.isLegacy n && !s.pxHolds n

/-- The sum of the account in µJ, and the register that shows it. -/
def acctSum (a : Als) : Nat := a.account.foldl (fun x e => x + e.2) 0

def showAcct (n : Nat) (s : State) : State :=
  let st := s.alsState n
  if 2 ≤ st ∧ st ≤ 4 then pmput n F.PM_ALS_ACC_ACC (min 0xFFFF (acctSum (s.alsOf n) / 100)) s
  else pmput n F.PM_ALS_ACC_ACC 0 (s.modAls n (fun a => { a with account := [] }))

/-- Seconds to the next PULSE. -/
def showNext (n : Nat) (s : State) : State :=
  let due := (s.alsOf n).pulseBase + 100 * cyclesPerSec
  pmput n F.PM_ALS_STAT_NEXT (if s.alsState n = 2 then min 100 ((due - s.now + cyclesPerSec - 1) / cyclesPerSec) else 0) s

/-- Enter a state: MUTE is the level of states 2 to 4, and leaving NORMAL or LOSS aborts the trace that runs (R437, R445). -/
def alsTo (n st : Nat) (s : State) : State :=
  let s0 := if s.alsState n ≤ 1 ∧ st ≠ s.alsState n then trcAbort n s else s
  let s1 := (pmput n F.PM_ALS_STAT_STATE st s0).modAls n (fun a => { a with since := s.now })
  showNext n (showAcct n (s1.levelTo (pmPg n) (pmEv n 0) (decide (2 ≤ st ∧ st ≤ 4))))

/-- Enter MUTE: from LOSS with a cause and an empty account. -/
def toMute (n : Nat) (cause : Option Nat) (s : State) : State :=
  let s1 := match cause with
    | none => s
    | some c => (pmput n F.PM_ALS_STAT_CAUSE c s).modAls n (fun a => { a with account := [] })
  alsTo n 2 (pmCount n 2 (s1.modAls n (fun a => { a with pulseBase := s.now })))

/-- Enter LOSS, with an urgent trace where the module can make one (R445, R504). -/
def toLoss (n : Nat) (s : State) : State :=
  let s1 := alsTo n 1 s
  if s1.pmbit n F.PM_ALS_CFG_ALS_TRACE && s1.pmbit n F.PM_MOD_CFG_MON_OK && !s1.pinShort n 3 then trcBegin n true s1 else s1

/-- Judge NORMAL and LOSS by the receivers (R445). -/
def alsEval (m : Nat) (s : State) : State :=
  let n := s.alsPort m
  if !s.alsRuns n then s
  else if s.alsState n = 0 && s.lossOf n then toLoss n s
  else if s.alsState n = 1 && !s.lossOf n then alsTo n 0 s
  else s

/-- LN_LOS of port `n`'s PRX lane takes a value, and the shutdown machine follows. -/
def prxLos (n : Nat) (v : Bool) (s : State) : State := alsEval n (lnLos (48 + n) v s)

/-- A burst with disposition 0 or an accepted serial-number response (R445). -/
def alsAnswer (m : Nat) (s : State) : State :=
  let n := s.alsPort m
  if s.alsRuns n && s.alsState n == 3 then alsTo n 0 s else s

def alsHold (n : Nat) (s : State) : State :=
  if s.alsRuns n && s.alsState n == 1 &&
      decide ((s.alsOf n).since + s.pmget n F.PM_ALS_CFG_ALS_HOLD * (cyclesPerSec / 100) ≤ s.now) then
    toMute n (some 2) s
  else s

def toPulse (n : Nat) (s : State) : State := alsTo n 3 (pmCount n 3 s)

def alsPulse (n : Nat) (s : State) : State :=
  if s.alsRuns n && s.alsState n == 2 && decide ((s.alsOf n).pulseBase + 100 * cyclesPerSec ≤ s.now) then toPulse n s
  else showNext n s

def alsPulseEnd (n : Nat) (s : State) : State :=
  if s.alsState n = 3 ∧ (s.alsOf n).since + 2 * cyclesPerSec ≤ s.now then toMute n none s else s

/-- The laser counts as on (R446): by the module's reading, or by TXDIS reading low. -/
def State.laserOn (s : State) (n : Nat) : Bool :=
  if (s.alsOf n).reads then decide (s.pmget n F.PM_ALS_CFG2_ON_TH * 1000 ≤ s.pmget n F.PM_DDM1_TXP)
  else if s.bit (pe0 n) F.PE_PIN_STAT_TXDIS_HI then false
  else s.bit (pe0 n) F.PE_PIN_STAT_TXDIS_LO || !s.txdis n

/-- OVERBLOW (R447): soft transmit-disable, and PTXn in electrical idle. -/
def overblow (n : Nat) (s : State) : State :=
  let s1 := (alsTo n 4 s).modAls n (fun a => { a with softDis := true })
  ((s1.lst n F.LN_STATUS_TX_IDLE true).modLane n (fun l => { l with tx := if l.tx = .off then .off else .idle })).raise
    (pmPg n) (pmEv n 1)

/-- The 10 ms update of the account. -/
def alsAccount (n : Nat) (s0 : State) : State :=
  let s := alsEval n s0
  let st := s.alsState n
  let on := s.laserOn n
  let s1 := pmput n F.PM_ALS_STAT_LASER (if on then 1 else 0) s
  if 2 ≤ st ∧ st ≤ 4 ∧ s.pxHolds n = false then
    let s2 := s1.modAls n (fun a =>
      { a with account := (if on then [(s.now, s.pmget n F.PM_ALS_CFG_PWR)] else []) ++
                 a.account.filter (fun e => decide (s.now < e.1 + 100 * cyclesPerSec)) })
    let s3 := showNext n (showAcct n s2)
    if st ≠ 4 ∧ s3.pmget n F.PM_ALS_CFG2_BUDGET * 100 < acctSum (s3.alsOf n) then overblow n s3 else s3
  else s1

/-- Leave the soft disable and idle of OVERBLOW. -/
def relight (n : Nat) (s : State) : State :=
  txLeave n (s.modAls n (fun a => { a with softDis := false }))

/-- A write of PM_ALS_CMD by function `fn` (R447, R448). -/
def alsCommand (fn n op : Nat) (s : State) : State :=
  let st := s.alsState n
  if op = 0 then s
  else if s.isLegacy n then pmReject n s
  else if op = 1 then (if st = 2 then toPulse n s else pmReject n s)
  else if op = 2 then
    if fn = 0 ∧ st = 4 ∧ acctSum (s.alsOf n) * 2 ≤ s.pmget n F.PM_ALS_CFG2_BUDGET * 100 then
      (relight n (toMute n none s)).recovered (pmPg n) (pmEv n 1)
    else pmReject n s
  else if op = 3 then
    if fn = 0 ∧ s.get pgSC F.SC_LC_STATE = 0 then
      let s1 := alsTo n 5 s
      if st = 4 then (relight n s1).recovered (pmPg n) (pmEv n 1) else s1
    else pmReject n s
  else if op = 4 then
    if st = 5 then
      let s1 := s.modAls n (fun a => { a with account := [] })
      if s.pmbit n F.PM_ALS_CFG_EN && s.lossOf n then toLoss n s1 else alsTo n 0 s1
    else pmReject n s
  else pmReject n s

/-- EN is written 0 (R448), or 1. -/
def alsCfgAct (n : Nat) (s : State) : State :=
  if s.pmbit n F.PM_ALS_CFG_EN then alsEval n s
  else if s.alsState n = 4 ∨ s.alsState n = 5 ∨ s.alsState n = 0 then s
  else alsTo n 0 s

/-- On a take-over the machine starts in NORMAL with the account at 0; one that was forced dark is lit again. -/
def alsTakeover (n : Nat) (s : State) : State :=
  let st := s.alsState n
  if st = 0 then s
  else
    let s1 := alsTo n 0 s
    if st = 4 then (relight n s1).recovered (pmPg n) (pmEv n 1) else s1

/-! ### The record of a trace (R441, R442) -/

/-- The data address of a port's block `b`. -/
def State.trcAddr (s : State) (n b : Nat) : Nat :=
  s.get2 pgPM F.PM_TRC_BASE_LO_ADDR F.PM_TRC_BASE_HI_ADDR + n * 262144 + b * 131072

/-- `n` bytes of a number, low byte first. -/
def leBytes (n v : Nat) : List Byte := (List.range n).map (fun i => BitVec.ofNat 8 (v / 256 ^ i))

/-- An event as it is reported: kind, change, distance, baseline size, size. -/
structure TraceRep where
  kind : Nat
  change : Nat
  dist : Nat
  base : Nat
  size : Nat
  deriving DecidableEq, Repr

def TraceRep.words (r : TraceRep) : List Nat :=
  [r.kind * 2 ^ 28 + r.change * 2 ^ 26 + r.dist, r.base * 2 ^ 16 + r.size, 0, 0]

/-- The events of the baseline: (kind, distance, size), none where block 1 is not VALID. -/
def State.baseline (s : State) (n : Nat) : Option (List (Nat × Nat × Nat)) :=
  let a := s.trcAddr n 1
  let rd (o k : Nat) : Nat := leNat (memRead s.cxl (a + o) k)
  if rd 0 4 = 0x504D5452 ∧ rd 4 1 % 2 = 1 then
    some ((List.range (min 64 (rd 28 2))).map (fun i =>
      let w := rd (128064 + 16 * i) 4
      (w / 2 ^ 28, w % 2 ^ 17, rd (128064 + 16 * i + 4) 2)))
  else none

/-- Insert an event by rising distance. -/
def insRep (r : TraceRep) : List TraceRep → List TraceRep
  | [] => [r]
  | x :: l => if r.dist < x.dist then r :: x :: l else x :: insRep r l

/-- What is reported of the events found (R442). -/
def traceReport (delta : Nat) (base : Option (List (Nat × Nat × Nat))) (found : List TraceEvent) : List TraceRep :=
  let one (e : TraceEvent) : Option TraceRep :=
    let k := e.kind.val
    let d := e.dist.toNat
    match base with
    | none => some ⟨k, 1, d, 0, e.size.toNat⟩
    | some bs =>
      match bs.find? (fun b => b.1 == k && decide (b.2.1 ≤ d + 8) && decide (d ≤ b.2.1 + 8)) with
      | none => some ⟨k, 1, d, 0, e.size.toNat⟩
      | some b =>
        let diff := (toSigned 16 e.size.toNat - toSigned 16 b.2.2).natAbs
        if delta * 10 ≤ diff then some ⟨k, 2, d, b.2.2, e.size.toNat⟩
        else if k = 3 then some ⟨k, 0, d, b.2.2, e.size.toNat⟩ else none
  let gone := match base with
    | none => []
    | some bs => (bs.filter (fun b => !found.any (fun e => e.kind.val == b.1 && decide (b.2.1 ≤ e.dist.toNat + 8) &&
        decide (e.dist.toNat ≤ b.2.1 + 8)))).map (fun b => (⟨b.1, 3, b.2.1, b.2.2, 0⟩ : TraceRep))
  (found.filterMap one ++ gone).foldl (fun l r => insRep r l) []

/-- The sum of levels. -/
def binSum (l : List (BitVec 16)) : Int := ((l.foldl (fun a b => a + b.toNat) 0 : Nat) : Int)

/-- An event that the correlator found meets the criterion of its kind (R442), on levels in 0.01 dB below full scale: a peak at least
REFL_TH above the mean of the 32 bins on each side; a drop between the means of the 32 bins before and after of at least LOSS_TH, or for
a break BREAK_TH, less the slope; or no bin above the noise floor from there on. -/
def eventOk (refl loss brk : Nat) (bins : List (BitVec 16)) (e : TraceEvent) : Bool :=
  let d := e.dist.toNat
  let b := (bins.drop (d - 32)).take (min d 32)
  let a := (bins.drop (d + 1)).take 32
  let nb : Int := (b.length : Int)
  let na : Int := (a.length : Int)
  let x : Int := ((bins.getD d 0xFFFF).toNat : Int)
  let drops (th : Nat) : Bool :=
    decide (0 < nb ∧ 0 < na ∧ ((10 * th : Nat) + Config.traceSlope (b ++ a)) * nb * na ≤ binSum a * nb - binSum b * na)
  match e.kind.val with
  | 1 => decide ((x + (10 * refl : Nat)) * nb ≤ binSum b ∧ (x + (10 * refl : Nat)) * na ≤ binSum a)
  | 2 => drops loss
  | 3 => drops brk || (bins.drop (d + 1)).all (fun w => w == 0xFFFF)
  | _ => false

/-- A completed trace (R442): the record is written, VALID last, and the result raised. -/
def traceDone (n : Nat) (bins0 : List (BitVec 16)) (noise : Nat) (found0 : List TraceEvent) (s : State) : State :=
  if !s.trcRuns n || !(s.alsOf n).trcFull then s
  else
    let bins := bins0.take (8000 * s.trcPasses n)
    let found := found0.filter (eventOk (s.pmget n F.PM_TRC_DET_REFL_TH) (s.pmget n F.PM_TRC_DET_LOSS_TH)
      (s.pmget n F.PM_TRC_DET_BREAK_TH) bins)
    let urgent := s.pmbit n F.PM_TRC_STAT_URGENT
    let all := traceReport (s.pmget n F.PM_TRC_DET_DELTA_TH) (s.baseline n) found
    let reps := all.take 64
    let a := s.trcAddr n 0
    let sec := s.pageSecure (pmPg n)
    let flags := (if urgent then 2 else 0) + (if 64 < all.length then 4 else 0)
    let head := leBytes 4 0x504D5452 ++ leBytes 4 flags ++ leBytes 8 (s.alsOf n).trcStart ++ leBytes 8 (s.pe n).sfc ++
      leBytes 4 bins.length ++ leBytes 2 reps.length ++ leBytes 1 (s.pmget n F.PM_TRC_CFG_DEPTH) ++ leBytes 1 (s.trcPasses n) ++
      leBytes 2 (s.trcAvg n) ++ leBytes 2 (s.pmget n F.PM_TRC_ZERO_ZERO) ++ leBytes 2 noise
    let ok := s.mxUp && s.mxCheck sec false true a 131072 == 0
    let s1 := mxWrite sec false a (head ++ List.replicate (64 - head.length) 0) s
    if !ok then trcStop n 4 s1
    else
      let s2 := mxWrite sec false (a + 64) (bins.flatMap (fun b => leBytes 2 b.toNat)) s1
      let s3 := mxWrite sec false (a + 4) (leBytes 1 (flags + 1)) (mxWrite sec false (a + 128064) (reps.flatMap (fun r => r.words.flatMap wordBytes)) s2)
      let brk := found.foldl (fun (m : Option Nat) e => if e.kind.val = 3 then
        (match m with | none => some e.dist.toNat | some d => some (min d e.dist.toNat)) else m) none
      let res := reps.length * 2 ^ 24 + (match brk with | none => 0 | some d => 2 ^ 23 + d)
      let s4 := pmCount n 0 (trcStop n 2 (s3.setReg (pmPg n + 0x214 + 64 * pmK n) (BitVec.ofNat 32 res)))
      let s5 := if reps.isEmpty then s4 else s4.raise (pmPg n) (pmEv n 2)
      match brk with
      | none => s5
      | some d => if urgent && s5.alsState n == 1 && decide (d ≤ s5.pmget n F.PM_ALS_CFG_BRK_DIST * 500) then toMute n (some 1) s5 else s5

/-- BASELINE: block 0 is copied to block 1 (R441). -/
def trcBaseline (n : Nat) (s : State) : State :=
  if s.trcRuns n then pmReject n s
  else
    let sec := s.pageSecure (pmPg n)
    let a := s.trcAddr n 0
    let s1 := s.bump (pgMX 0) C.MX_RD_REQ
    let s2 := s1.bump (pgMX 0) C.MX_WR_REQ
    if !s.mxUp then s2.bump (pgMX 0) C.MX_WR_DISCARD
    else
      let c := s.mxCheck sec false true a 262144
      if c ≠ 0 then (mxRefused c (if sec then 0 else 1) true a s2).bump (pgMX 0) C.MX_WR_DISCARD
      else
        let src := s.cxl.filter (fun e => decide (a ≤ e.1) && decide (e.1 < a + 131072))
        let rest := skeep (fun k => !(decide (a + 131072 ≤ k) && decide (k < a + 262144))) s.cxl
        let hurt := (s.mx.bad.filter (fun u => decide (a ≤ 16 * u) && decide (16 * u < a + 131072))).map (fun u => u + 8192)
        let keep := s.mx.bad.filter (fun u => !(decide (a + 131072 ≤ 16 * u) && decide (16 * u < a + 262144)))
        { s2 with cxl := src.foldl (fun m e => sset 0 m (e.1 + 131072) e.2) rest,
                  mx := { s2.mx with bad := hurt.foldl (fun l u => insertNat u l) keep } }

/-- A write of PM_TRC_CTRL. -/
def trcCommand (n op : Nat) (s : State) : State :=
  if op = 0 then s else if op = 1 then trcStart n s else if op = 2 then trcAbort n s else if op = 3 then trcBaseline n s
  else pmReject n s

/-! ### Modules (R443, R444, R502) -/

/-- The lowest cause of MODULE_FAULT that holds: 0 none. -/
def State.modCause (s : State) (n : Nat) : Nat :=
  let present := s.pmbit n F.PM_MOD_STAT_PRESENT
  let expect := s.pmget n F.PM_MOD_CFG_EXPECT
  if !present && s.en (pe0 n) then 1
  else if present && expect != 0 && s.pmget n F.PM_MOD_STAT_IDENT != expect then 2
  else if 3 ≤ (s.alsOf n).noAck then 3
  else if 0x100 ≤ s.pmget n F.PM_MOD_STAT_FLAGS then 4
  else if (s.get pgPM F.PM_MODBUS_STAT_STUCK).testBit (n / 4) then 5
  else 0

/-- FAULT, CAUSE, MODULE_FAULT and the hold of TXDIS follow; the hold ends only at a poll. -/
def modEval (n : Nat) (poll : Bool) (s : State) : State :=
  let c := s.modCause n
  let s1 := pmput n F.PM_MOD_STAT_CAUSE c (pmput n F.PM_MOD_STAT_FAULT (if c = 0 then 0 else 1) s)
  let s2 := s1.modAls n (fun a => { a with hold := c == 1 || c == 2 || (a.hold && !poll) })
  s2.levelTo (pmPg n) (pmEv n 3) (c != 0)

def moduleInsert (n ident : Nat) (s : State) : State :=
  let s1 := pmput n F.PM_MOD_STAT_IDENT ident (pmput n F.PM_MOD_STAT_PRESENT 1 s)
  modEval n false (s1.modAls n (fun a => { a with noAck := 0, reads := false }))

def moduleRemoval (n : Nat) (s : State) : State :=
  modEval n false ((pmput n F.PM_MOD_STAT_PRESENT 0 s).modAls n (fun a => { a with reads := false }))

/-- Polls and fetches of a cage are skipped (R444, R502). -/
def State.cageSkipped (s : State) (n : Nat) : Bool :=
  !s.pmbit n F.PM_MOD_STAT_PRESENT || decide (3 ≤ (s.alsOf n).noAck) || (s.get pgPM F.PM_MODBUS_STAT_STUCK).testBit (n / 4)

def modulePoll (n : Nat) (d : Option ModuleData) (s : State) : State :=
  if s.cageSkipped n then modEval n true s
  else
    match d with
    | none => modEval n true (s.modAls n (fun a => { a with noAck := a.noAck + 1, reads := false }))
    | some d =>
      let s1 := pmput n F.PM_DDM0_VCC d.vcc.toNat (pmput n F.PM_DDM0_TEMP d.temp.toNat s)
      let s2 := pmput n F.PM_DDM1_TXP d.txp.toNat (pmput n F.PM_DDM1_BIAS d.bias.toNat s1)
      let s3 := pmput n F.PM_MOD_STAT_FLAGS d.flags.toNat (pmput n F.PM_DDM2_RXP d.rxp.toNat s2)
      modEval n true (s3.modAls n (fun a => { a with noAck := 0, reads := true }))

/-- MODBUS_STUCK is a level over all twelve buses; 9 clock pulses and a stop are to free a stuck one. -/
def modbus (b : Nat) (stuck : Bool) (s : State) : State :=
  let s0 := setBitOf s pgPM F.PM_MODBUS_STAT_STUCK b stuck
  let s1 := if stuck then s0.emit (.busClear b) else s0
  let s2 := s1.levelTo pgPM 1 (s1.get pgPM F.PM_MODBUS_STAT_STUCK != 0)
  forN 4 (fun k s => modEval (4 * b + k) false s) s2

/-- 100 ms after the latest attempt: the line is released, or the pulses are repeated. -/
def modbusRecovery (b : Nat) (released : Bool) (s : State) : State :=
  if released then modbus b false s
  else if (s.get pgPM F.PM_MODBUS_STAT_STUCK).testBit b then s.emit (.busClear b)
  else s

/-! ### Meanings -/

/-- A write of PM_TRC_CTRL with operation `op`. -/
def trcPort (fn n op : Nat) (s : State) : State :=
  s.access fn (pmPg n + 0x200 + 64 * pmK n) (fun _ _ s => trcCommand n op s)

def execTraceStart (fn : Fn) (port : Fin 48) (s : State) : Res := .next (trcPort fn.val port.val 1 s)

def execTraceAbort (fn : Fn) (port : Fin 48) (s : State) : Res := .next (trcPort fn.val port.val 2 s)

def execBaseline (fn : Fn) (port : Fin 48) (s : State) : Res := .next (trcPort fn.val port.val 3 s)

def execPlantSilence (port : Fin 48) (power : Nat) (s : State) : Res := .next (plantSilence port.val power s)

def execTraceDone (port : Fin 48) (bins : List (BitVec 16)) (noise : BitVec 16) (found : List TraceEvent) (t : Nat) (s : State) : Res :=
  .next (traceDone port.val bins noise.toNat found (s.at t))

def execModuleInsert (port : Fin 48) (ident : Byte) (s : State) : Res := .next (moduleInsert port.val ident.toNat s)

def execModulePoll (port : Fin 48) (data : Option ModuleData) (s : State) : Res := .next (modulePoll port.val data s)

def execModuleRemoval (port : Fin 48) (s : State) : Res := .next (moduleRemoval port.val s)

def execModbusStuck (bus : Fin 12) (s : State) : Res := .next (modbus bus.val true s)

def execModbusRecovery (bus : Fin 12) (released : Bool) (s : State) : Res := .next (modbusRecovery bus.val released s)

def execAlsHold (port : Fin 48) (t : Nat) (s : State) : Res := .next (alsHold port.val (s.at t))

def execAlsPulse (port : Fin 48) (t : Nat) (s : State) : Res := .next (alsPulse port.val (s.at t))

def execAlsPulseEnd (port : Fin 48) (t : Nat) (s : State) : Res := .next (alsPulseEnd port.val (s.at t))

def execAlsAccount (port : Fin 48) (t : Nat) (s : State) : Res := .next (alsAccount port.val (s.at t))

/-- A write of PM_ALS_CMD with operation `op`. -/
def alsPortCmd (fn n op : Nat) (s : State) : State :=
  s.access fn (pmPg n + 0x220 + 64 * pmK n) (fun _ _ s => alsCommand fn n op s)

def execRestart (fn : Fn) (port : Fin 48) (t : Nat) (s : State) : Res := .next (alsPortCmd fn.val port.val 1 (s.at t))

def execReleaseOverblow (fn : Fn) (port : Fin 48) (t : Nat) (s : State) : Res := .next (alsPortCmd fn.val port.val 2 (s.at t))

def execForceOn (fn : Fn) (port : Fin 48) (t : Nat) (s : State) : Res := .next (alsPortCmd fn.val port.val 3 (s.at t))

def execForceOff (fn : Fn) (port : Fin 48) (t : Nat) (s : State) : Res := .next (alsPortCmd fn.val port.val 4 (s.at t))

end Sys2Proof.Machine
end

