-- ==== Sys2Proof/Machine/Burst.lean ====
section
/-! DEFINITION. Chapter 05: burst windows, decoding, reassembly, scores and receive-power sampling (R124 to R146, R158,
R84, R443). -/

namespace Sys2Proof.Machine

/-! ### Protection's view of bursts (R415, R417, R428, R433) -/

/-- Light heard on a protected port in a listen period. -/
def pxLight (n : Nat) (s : State) : State :=
  if s.px.listening && s.protected_ n then { s with px := { s.px with light := true } } else s

/-- A burst with disposition 0 or 4 on a protected port, of the map of frame `f`. -/
def pxHeard (n disp f : Nat) (s : State) : State :=
  if !s.protected_ n then s
  else
    let x := { s.px with heard := some s.now }
    if disp = 0 ∧ s.px.listening = false then
      let o := sget (0, 0) x.ok n
      let run := if o.1 = f + 1 then o.2 else if o.1 ≠ 0 ∧ o.1 % sfcSpan = f then o.2 + 1 else 1
      { s with px := { x with ok := sset (0, 0) x.ok n (f + 1, run), okSuper := sset 0 x.okSuper n (f / 8 + 1) } }
    else { s with px := x }

/-- MEASURE runs on the port. -/
def State.measuring (s : State) (n : Nat) : Bool := s.pxShadow n && s.px.measuring

/-- One more burst of a running MEASURE. -/
def pxMeasure (n : Nat) (d : Int) (s : State) : State :=
  if s.measuring n then
    let o := sget (0, 0) s.px.meas n
    if s.get pgPX F.PX_MEAS_BURSTS ≤ o.1 then s
    else { s with px := { s.px with meas := sset (0, 0) s.px.meas n (o.1 + 1, o.2 + d) } }
  else s

/-! ### The end of a burst window (R129 to R133) -/

/-- Half-width of the windows of a port, in 1/64 ns. -/
def State.winHalf (s : State) (n : Nat) : Nat :=
  if s.measuring n then s.get pgPX F.PX_MEAS_WIN * 64000 else s.usWin n * 64

/-- H of a burst after Sk, in parts of 1/62,208 ns (R124), with the window shift of a protected port (R432). -/
def State.hdrAt (s : State) (n : Nat) (b : Burst) : Int :=
  ((s.get (pgPE n 4) F.PE_US_TEQD_TEQD * qUnit + (b.start + b.ovh) * s.tu n : Nat) : Int) + s.pxShift n * 972

/-- How far after H a match ends, in those parts. -/
def State.after (s : State) (n : Nat) (b : Burst) (m : DelimMatch) : Int := m.at_ * 972 - s.hdrAt n b

/-- d of a match (R131). DESIGN CHOICE (log entry 139): the nearest 1/64 ns. -/
def State.dOf (s : State) (n : Nat) (b : Burst) (m : DelimMatch) : Int := roundDiv (s.after n b m) 972

/-- The duration of a profile's delimiter. -/
def delimLen (e : Entry) : Nat := (if eget e bDLEN = 1 then 64 else 32) * uiLen (eget e bRATE)

/-- Is this match within the window of H, with few enough bit errors? -/
def State.isMatch (s : State) (n : Nat) (b : Burst) (m : DelimMatch) : Bool :=
  decide (m.errs ≤ eget (s.prof n b.prof) bDERR) && decide ((s.after n b m).natAbs ≤ s.winHalf n * 972)

/-- The timestamp of a burst on time base `k` (R245): of the first bit of its delimiter, on the time bases as they run now. -/
def State.burstStamp (s : State) (n k : Nat) (w : Win) (m : DelimMatch) (lat : Int) : Stamp :=
  let td : Int := w.sk + m.at_ * tbUnit / 64 - ((delimLen (s.prof n w.burst.prof) * tbUnit / qUnit : Nat) : Int)
  s.stampAt k (td - s.fbT n + lat * tbUnit / 10)

/-- The circuits that a terminal's fixed allocation carries. -/
def State.cktsOfOnu (s : State) (n c : Nat) : List Nat :=
  if s.en pgCE then (s.cktsOf n).filter (fun k => s.cktOnu k == some c) else []

/-- Fillers for the circuits of a fixed burst that brought no payload. -/
def circuitsLost (n : Nat) (w : Win) (got : List Nat) (s : State) : State :=
  if w.burst.fixed then ((s.cktsOfOnu n w.burst.onu).filter (fun k => !got.contains k)).foldl (fun s k => usLost k s) s else s

/-- A window that ends with disposition 1, 2 or 3. -/
def badEnd (n : Nat) (w : Win) (code : Nat) (s : State) : State :=
  let c := w.burst.onu
  let s1 := s.bump (pgPE n 5) (if code = 1 then C.US_MISSING else if code = 2 then C.US_NO_DELIM else C.US_ID_MISMATCH)
  let s2 := recAdd n c (if code = 1 then ⟨2, 15, 0⟩ else ⟨2, 31, 16⟩) 1 true s1
  let s3 := recPut n c ⟨8, 2, 0⟩ w.burst.prof (recPut n c ⟨6, 15, 8⟩ code s2)
  let s4 := if s3.inService n c then s3.modCx n c (fun x => { x with lob := x.lob + 1 }) else s3
  circuitsLost n w [] (marginScore n c code w.burst.prof 0 0 s4)

/-- The receive latency of a PRX lane at a burst rate, in tenths of a nanosecond (R245). -/
def prxLatency (rate : Nat) : Int := -([189, 241, 345, 413].getD rate 189 : Nat)

/-- An upstream frame has ended (R79): with or without a delimiter found. In TEST the run counts, and LN_LOS is the receiver's own
(R81). -/
def losFrame (n : Nat) (s : State) : State :=
  let i := 48 + n
  if (s.pe n).losFound then s.modPe n (fun p => { p with losFound := false })
  else
    let run := min (s.get (pgLN i) F.LN_PRX_CFG_LOS_FR) ((s.lane i).losRun + 1)
    let s1 := s.modLane i (fun l => { l with losRun := run })
    if s.get (pgLN i) F.LN_PRX_CFG_LOS_FR ≤ run ∧ (s.lane i).rx ≠ .test then prxLos n true s1 else s1

/-- A delimiter was found (R79, R86). -/
def losFound (n : Nat) (s : State) : State :=
  prxLos n false ((s.modPe n (fun p => { p with losFound := true })).modLane (48 + n) (fun l => { l with losRun := 0, compRun := 0 }))

/-- A burst window ends: `light0` tells whether light was present, `found0` the delimiter matches in order, `comp0` whether
the delimiter matched only in the complement of the polarity in effect. A receiver in TEST finds nothing (R81). A burst loads the
equaliser values of its profile, and those it settles at stay for the next burst of that profile (R77). -/
def windowEnd (n : Nat) (light0 : Bool) (found0 : List DelimMatch) (comp0 : Bool) (s0 : State) : State :=
  match (s0.pe n).wins with
  | [] => s0
  | w :: rest =>
    let test := decide ((s0.lane (48 + n)).rx = .test)
    let signal := light0 && !test
    let found := if test then [] else found0
    let comp := comp0 && s0.bit (pgLN (48 + n)) F.LN_CFG_POL_AUTO
    let prof := s0.prof n w.burst.prof
    let c := w.burst.onu
    let onu := s0.onuId n c
    let cand := found.filter (s0.isMatch n w.burst)
    let accept := fun (m : DelimMatch) => m.hec && (!s0.measuring n || m.onu == onu)
    let falses := ((cand.takeWhile (fun m => !accept m)).filter (fun m => !m.hec)).length
    let s1 := (s0.modPe n (fun p => { p with wins := rest })).bump (pgPE n 5) C.US_FALSE_DELIM falses
    let hit := cand.find? accept
    let light := signal || hit.isSome
    let s2 := if light then eqLoad (48 + n) w.burst.prof (pxLight n s1) else s1
    let s3 := if hit.isSome then losFound n s2
      else if comp && light then s2.modLane (48 + n) (fun l => { l with compRun := l.compRun + 1 })
      else if light then s2.modLane (48 + n) (fun l => { l with compRun := 0 })
      else s2
    let ok := match hit with | some m => m.onu == onu | none => false
    let s4 := s3.modPe n (fun p =>
      let wait := match p.rssiWait with
        | some (a, none) => if p.lastWin.isNone && a == c then some (a, some ok) else p.rssiWait
        | x => x
      { p with lastWin := some (w, ok), rssiWait := wait })
    let s5 := match hit with
      | none => badEnd n w (if signal then 2 else 1) (s4.when signal (eqSettle (48 + n) w.burst.prof))
      | some m =>
        if m.onu = onu then
          let far := decide (s4.get (pgPE n 4) F.PE_US_CFG_DRIFT * qUnit < (s0.after n w.burst m).natAbs)
          let d := s0.dOf n w.burst m
          let s5 := if far then recAdd n c ⟨8, 31, 16⟩ 1 true (s4.bump (pgPE n 5) C.US_DRIFT) else s4
          let lat := prxLatency (eget prof bRATE)
          let b : RxBurst := { win := w, d := d, q := m.errs, stamps := (List.range 8).map (fun k => s5.burstStamp n k w m lat) }
          (pxMeasure n d (eqSettle (48 + n) w.burst.prof s5)).modPe n (fun p => { p with rx := p.rx ++ [b] })
        else badEnd n w 3 (eqSettle (48 + n) w.burst.prof s4)
    if rest.any (fun x => x.sfc == w.sfc) then s5 else losFrame n s5

/-! ### Decoding (R135 to R140) -/

def xPARTIAL : TF := ⟨1, 0, 0⟩

/-- PARTIAL of an XGEM port follows. -/
def setPartial (n id : Nat) (v : Bool) (s : State) : State :=
  match s.findXgem n id with
  | none => s
  | some (i, _) => s.putE (pgPE n 2) 0 i xPARTIAL (if v then 1 else 0)

/-- Discard one partial packet, counted in REASM_DROP (R139). -/
def dropPart (n id : Nat) (s : State) : State :=
  match sget none (s.pe n).parts id with
  | none => s
  | some _ => setPartial n id false ((s.modPe n (fun p => { p with parts := sset none p.parts id none })).bump (pgPE n 5) C.US_REASM_DROP)

/-- Discard the partial packets of a terminal. -/
def dropParts (n c : Nat) (s : State) : State :=
  ((s.pe n).parts.filter (fun p => match p.2 with | some x => x.onu == c | none => false)).foldl (fun s p => dropPart n p.1 s) s

/-- Every partial packet of the port. -/
def dropAllParts (n : Nat) (s : State) : State := (s.pe n).parts.foldl (fun s p => dropPart n p.1 s) s

/-- Delineation of an interval is lost (R137). -/
def delinLoss (n c sfc : Nat) (s : State) : State :=
  dropParts n c ((s.bump (pgPE n 5) C.US_DELIN_LOSS).modPe n (fun p => { p with losses := sset 0 p.losses c (sfc + 1) }))

/-- An OMCI message goes to the host (R139, R354). -/
def omciRx (n c sfc : Nat) (d : List Byte) (s : State) : State :=
  if s.pxUpDrops n sfc then s
  else
    let hdr := slotHdr 4 0 0 d.length c (sfc % 2 ^ 32) (sfc / 2 ^ 32) []
    (ringPost (144 + n) (hdr ++ d) (s.bump (pgPE n 5) C.US_OMCI_RX)).2.raise (pe0 n) 9

/-- The ordinal of a packet completed on an XGEM port in an upstream frame (R382): it is counted. -/
def nextOrd (n id sfc : Nat) (s : State) : Nat × State :=
  let o := sget (0, 0) (s.pe n).ords id
  let k := if o.1 = sfc + 1 then o.2 else 0
  (k, s.modPe n (fun p => { p with ords := sset (0, 0) p.ords id (sfc + 1, k + 1) }))

/-- A packet reaches the lookup engine, which takes none while it quiesces, is disabled or is not ready (R49, R50, R307). -/
def lkArrive (x : LkIn) (s : State) : State :=
  if s.bit (pgLK 0) F.PAGE_QUIESCE || !s.en (pgLK 0) || !s.bit (pgLK 0) F.ST_READY then s.bump (pgLK 0) C.LK_DROP else { s with lookups := s.lookups ++ [x] }

/-- A packet is complete. -/
def packetDone (n c sfc id ord : Nat) (e : Entry) (stamps : List Stamp) (d : List Byte) (s : State) : State :=
  if eget e xOMCC = 1 then omciRx n c sfc d s
  else
    let s1 := ((xgemCount n id 2 d.length s).bump (pgPE n 5) C.US_PKTS).bump (pgPE n 5) C.US_BYTES d.length
    let unsure := sget 0 (s1.pe n).losses c == sfc + 1
    lkArrive { src := n, xgem := id, bytes := d, stamps := stamps, sfc := sfc, ord := ord, unsure := unsure } s1

/-- Append an accepted XGEM frame to its packet (R139). -/
def reassemble (n : Nat) (b : RxBurst) (id : Nat) (e : Entry) (last : Bool) (d : List Byte) (s : State) : State :=
  let c := b.win.burst.onu
  let old := sget none (s.pe n).parts id
  let head := match old with | some p => p.bytes | none => []
  let excess := (match old with | some p => p.excess | none => false) ||
    decide (s.get (pgPE n 4) F.PE_US_CFG_MAX_PKT < head.length + d.length)
  let data := if excess then [] else head ++ d
  if last then
    let s1 := setPartial n id false (s.modPe n (fun p => { p with parts := sset none p.parts id none }))
    let o := nextOrd n id b.win.sfc s1
    if excess then o.2.bump (pgPE n 5) C.US_OVERSIZE else packetDone n c b.win.sfc id o.1 e b.stamps data o.2
  else
    let x : Part := { bytes := data, excess := excess, onu := c, sfc := (s.pe n).sfc }
    setPartial n id true (s.modPe n (fun p => { p with parts := sset none p.parts id (some x) }))

/-- One non-idle XGEM frame at byte `pos` of the burst's payload (R138): the circuits served so far, and the state. A frame with key
index 1 or 2 is decrypted with the key in slot 0 or 1 of the context. -/
def xgemRx (n : Nat) (b : RxBurst) (id key : Nat) (last : Bool) (d0 : List Byte) (pos : Nat) (got : List Nat) (s : State) :
    List Nat × State :=
  let c := b.win.burst.onu
  let d := if key = 0 then d0 else ctrCrypt (s.keyAt n c (key - 1)) true b.win.sfc pos d0
  match s.findXgem n id with
  | none => (got, s.bump (pgPE n 5) C.US_XGEM_UNKNOWN)
  | some (_, e) =>
    if eget e xUS = 0 ∨ eget e xONU ≠ c ∨ s.permits n c (eget e xOMCC == 1) = false then (got, s.bump (pgPE n 5) C.US_XGEM_UNKNOWN)
    else if key = 3 ∨ ((key = 1 ∨ key = 2) ∧ s.hasKey n c (key - 1) = false) ∨ (key = 0 ∧ eget e xENCREQ = 1) then
      (got, s.bump (pgPE n 5) C.US_KEY_ERR)
    else
      let s1 := s.bump (pgPE n 5) C.US_XGEM
      match s1.cktOfXgem n id with
      | some k =>
        if 0 < b.uncorr then (got, s1)
        else
          let r := usPayload k b.win.sfc d s1
          (if r.1 then k :: got else got, r.2)
      | none => (got, reassemble n b id e last d s1)

/-- The items of an allocation interval up to the loss of delineation. -/
def intervalItems (n : Nat) (b : RxBurst) : List UsItem → List Nat × State → List Nat × State
  | [], x => x
  | i :: r, x =>
    match i with
    | .frame id key last d pos => intervalItems n b r (xgemRx n b id.toNat key.val last d pos x.1 x.2)
    | .idle => intervalItems n b r x
    | .badHec => (x.1, delinLoss n b.win.burst.onu b.win.sfc (x.2.bump (pgPE n 5) C.US_XGEM_HEC))
    | .pastEnd => (x.1, delinLoss n b.win.burst.onu b.win.sfc x.2)
    | .uncorrectable => (x.1, delinLoss n b.win.burst.onu b.win.sfc x.2)

/-- One allocation interval with its report (R140). -/
def interval (n : Nat) (b : RxBurst) (a : Alc) (v : UsInterval) (x : List Nat × State) : List Nat × State :=
  let s1 :=
    if !a.dbru then x.2
    else
      match v.dbru with
      | none => x.2.bump (pgPE n 5) C.US_DBRU_ERR
      | some q =>
        let s := x.2.bump (pgPE n 5) C.US_DBRU
        match a.entry with
        | none => s
        | some i => report n i b.win.sfc q.toNat s
  intervalItems n b v.items (x.1, s1)

/-- Byte `i` of the content of a 48-byte PLOAM message, and its type. PRESUMED (log entry 140): G.9804.2's layout, with the ONU-ID in
bytes 0 and 1, the type in byte 2, the sequence number in byte 3, 36 bytes of content and the MIC. -/
def contentByte (m : List Byte) (i : Nat) : Nat := (m.getD (4 + i) 0).toNat
def ploamType (m : List Byte) : Nat := (m.getD 2 0).toNat

/-- Margin steering's copy of an extended margin report (R205). -/
def reportRx (n c : Nat) (m : List Byte) (s : State) : State :=
  let b := contentByte m
  marginReport n c (b 0) (toSigned 16 (b 1 * 256 + b 2)) (((b 4 * 256 + b 5) * 256 + b 6) * 256 + b 7) s

/-- The PLOAMu message of a burst (R136, R205); one the sequencer consumes has passed too, and counts. -/
def ploamRx (n c sfc : Nat) (m : UsPloam) (s : State) : State :=
  if !m.micOk then s.bump (pgPE n 5) C.US_PLOAM_MIC
  else if s.pxUpDrops n sfc then s
  else if m.consumed then s.bump (pgPE n 5) C.US_PLOAM_RX
  else if ploamType m.msg = s.get (pgMS n) F.PE_MS_CTRL_RPT_MTYPE then reportRx n c m.msg (passPloam n c sfc m.msg s)
  else passPloam n c sfc m.msg s

/-- Replace the first burst that satisfies `q`. -/
def replaceFirst {α : Type} (q : α → Bool) (f : α → α) : List α → List α
  | [] => []
  | x :: r => if q x then f x :: r else x :: replaceFirst q f r

/-- The oldest received burst is decoded. -/
def decodeBurst (n : Nat) (d : DecodeStats) (iv : List UsInterval) (ploam : Option UsPloam) (s : State) : State :=
  match (s.pe n).rx.find? (fun b => !b.decoded) with
  | none => s
  | some b0 =>
    let b := { b0 with decoded := true, cw := d.cw, sym := d.sym, corr := d.corr, uncorr := d.uncorr, bits := d.bits, berr := d.berr }
    let pg := pgPE n 5
    let s1 := s.modPe n (fun p => { p with rx := replaceFirst (fun b => !b.decoded) (fun _ => b) p.rx })
    let s2 := ((((s1.bump pg C.US_CW d.cw).bump pg C.US_CW_CORR d.corrCw).bump pg C.US_SYM_CORR d.corr).bump pg C.US_CW_UNCORR d.uncorr)
    let s3 := match ploam with | none => s2 | some m => ploamRx n b.win.burst.onu b.win.sfc m s2
    let x := (b.win.burst.allocs.zip iv).foldl (fun x p => interval n b p.1 p.2 x) ([], s3)
    circuitsLost n b.win x.1 x.2

/-- FR frames have passed without a continuation. -/
def reasmTimeout (n id : Nat) (s : State) : State :=
  match sget none (s.pe n).parts id with
  | none => s
  | some x => if s.get (pgPE n 4) F.PE_US_REASM_FR ≤ sfcDiff (s.pe n).sfc x.sfc then dropPart n id s else s

/-! ### The score (R141, R158, R84) -/

/-- EQD_UPDATE (R158): the offsets of a context averaged over N bursts. -/
def eqdTrack (n c : Nat) (d : Int) (s : State) : State :=
  let pg := pgPE n 7
  if s.bit pg F.PE_RNG_TRK_EN && s.inService n c then
    let k := s.get pg F.PE_RNG_TRK_N
    let x := s.cx n c
    let sum := x.trkSum + d
    if x.trkN + 1 < k then s.modCx n c (fun x => { x with trkSum := sum, trkN := x.trkN + 1 })
    else
      let s1 := s.modCx n c (fun x => { x with trkSum := 0, trkN := 0 })
      if s.get pg F.PE_RNG_TRK_THR * 8 * k < sum.natAbs then
        (sendEqd n c (s.eqd n c - roundDiv sum k) 1 s1).bump pg C.ACT_EQD_UPD
      else s1
  else s

/-- The service counters of the port's PRX lane (R84). -/
def serviceCount (n c : Nat) (b : RxBurst) (s : State) : State :=
  let pg := pgLN (48 + n)
  if s.get pg F.LN_PRBS_CTRL_MODE = 2 ∧ (s.bit pg F.LN_PRX_CFG_SVC_ALL = true ∨ s.get pg F.LN_PRX_CFG_SVC_ONU = c) then
    prbsCount (48 + n) b.bits b.berr b.uncorr s
  else s

/-- The oldest decoded burst is scored, with `bip` differing bits of its BIP-32. -/
def scoreBurst (n bip : Nat) (s : State) : State :=
  match (s.pe n).rx.find? (fun b => b.decoded) with
  | none => s
  | some b =>
    let c := b.win.burst.onu
    let disp := if 0 < b.uncorr then 4 else 0
    let done := { (s.pe n) with rx := (s.pe n).rx.eraseP (fun b => b.decoded) }
    let s1 := ((s.modPe n (fun _ => done)).bump (pgPE n 5) C.US_RECEIVED).bump (pgPE n 5) C.US_BIP_ERR bip
    let s2 := recAdd n c ⟨4, 31, 0⟩ b.cw false (recAdd n c ⟨3, 31, 0⟩ b.corr true (recAdd n c ⟨1, 31, 0⟩ 1 false s1))
    let s3 := recAdd n c ⟨5, 31, 16⟩ bip true (recAdd n c ⟨5, 15, 0⟩ b.uncorr true s2)
    let s4 := recPut n c ⟨6, 31, 16⟩ (ofSigned 16 b.d) (recPut n c ⟨6, 15, 8⟩ disp (recPut n c ⟨6, 7, 0⟩ b.q s3))
    let s5 := recPut n c ⟨8, 2, 0⟩ b.win.burst.prof s4
    let s6 := pxHeard n disp b.win.sfc (eqdTrack n c b.d (serviceCount n c b (s5.modCx n c (fun x => { x with lob := 0 }))))
    let k := if eget (s.prof n b.win.burst.prof) bFEC = 0 then bip else b.corr
    let s7 := marginScore n c disp b.win.burst.prof b.sym k s6
    if disp = 0 then alsAnswer n s7 else s7

/-! ### Guards and receive power (R134, R142, R443) -/

/-- Light in the gap before the next window. -/
def guardLight (n : Nat) (s : State) : State :=
  match (s.pe n).wins with
  | [] => s
  | w :: _ =>
    if w.gap then
      let s1 := (s.bump (pgPE n 5) C.US_GUARD_LIGHT).put (pgPE n 4) F.PE_US_STATUS_GL_ONU w.burst.onu
      pxLight n (s1.modPe n (fun p => { p with wins := replaceFirst (fun _ => true) (fun w => { w with gap := false }) p.wins }))
    else s

/-- The chosen terminal of PE_RSSI_CFG. -/
def State.rssiChosen (s : State) (n : Nat) : Option Nat :=
  let pg := pgPE n 4
  if s.get pg F.PE_RSSI_CFG_MODE = 1 then some (s.get pg F.PE_RSSI_CFG_ONU)
  else if s.get pg F.PE_RSSI_CFG_MODE = 2 then
    let r := (s.liveCtx n).filter (fun c => s.ranged n c)
    match r.find? (fun c => decide ((s.pe n).rssiNext ≤ c)) with
    | some c => some c
    | none => r.head?
  else none

/-- A burst qualifies: H + DLY + W ≤ E. -/
def State.rssiFits (s : State) (n : Nat) (b : Burst) : Bool :=
  decide (4 * (s.get (pgPE n 4) F.PE_RSSI_CFG_DLY + s.get (pgPE n 4) F.PE_RSSI_CFG_W) * qUnit ≤ (b.size - b.ovh) * s.tu n)

/-- The selection ends, and the next terminal is chosen. -/
def rssiAdvance (n c : Nat) (s : State) : State := s.modPe n (fun p => { p with rssiFrames := 0, rssiDone := false, rssiNext := c + 1 })

/-- RSSI_TRIG goes high for W at H + DLY of a burst (R142); the driver of a shorted pin is off (R500). -/
def rssiPulse (n : Nat) (b : Burst) (s : State) : State :=
  if s.pinShort n 2 then s
  else s.emit (.rssi n (s.hdrAt n b + ((4 * s.get (pgPE n 4) F.PE_RSSI_CFG_DLY * qUnit : Nat) : Int)) (4 * s.get (pgPE n 4) F.PE_RSSI_CFG_W))

/-- The trigger instant H + DLY of a burst: before the end of its window when DLY lies within WIN, else after. -/
def rssiTrig (n : Nat) (s : State) : State :=
  let p := s.pe n
  let early := decide (4 * s.get (pgPE n 4) F.PE_RSSI_CFG_DLY < s.usWin n)
  let b := if early then p.wins.head?.map (fun w => (w.burst, none)) else p.lastWin.map (fun w => (w.1.burst, some w.2))
  match s.rssiChosen n, b with
  | some c, some (b, got) =>
    if b.onu = c ∧ s.rssiFits n b = true ∧ p.rssiDone = false ∧ p.rssiWait = none then
      let s1 := (s.put (pgPE n 4) F.PE_RSSI_STAT_ONU c).incWrap (pgPE n 4) F.PE_RSSI_STAT_COUNT
      (rssiPulse n b (s1.putBit (pgPE n 4) F.PE_RSSI_STAT_BUSY true)).modPe n (fun p =>
        { p with rssiWait := some (c, got), rssiDone := true, lastWin := (if early then none else p.lastWin) })
    else s
  | _, _ => s

/-- PER frames have passed without a qualifying burst. -/
def rssiSkip (n : Nat) (s : State) : State :=
  match s.rssiChosen n with
  | none => s
  | some c =>
    if (s.pe n).rssiDone = false ∧ (s.pe n).rssiWait = none ∧ s.get (pgPE n 4) F.PE_RSSI_CFG_PER ≤ (s.pe n).rssiFrames then
      rssiAdvance n c (s.bump (pgPE n 5) C.US_RSSI_SKIP)
    else s

/-- A frame of the selection has passed; a selection whose trigger was issued gives way after PER frames. -/
def rssiFrame (n : Nat) (s : State) : State :=
  match s.rssiChosen n with
  | none => s
  | some c =>
    let s1 := s.modPe n (fun p => { p with rssiFrames := p.rssiFrames + 1 })
    if (s1.pe n).rssiDone && decide (s.get (pgPE n 4) F.PE_RSSI_CFG_PER ≤ (s1.pe n).rssiFrames) then rssiAdvance n c s1 else s1

/-- The reading of a trigger arrives. -/
def rssiFetch (n v : Nat) (late : Bool) (s : State) : State :=
  match (s.pe n).rssiWait with
  | none => s
  | some (c, got) =>
    let s1 := (s.modPe n (fun p => { p with rssiWait := none })).putBit (pgPE n 4) F.PE_RSSI_STAT_BUSY false
    if got = some true ∧ late = false ∧ s.cageSkipped n = false ∧ s.pinShort n 2 = false then
      recPut n c ⟨7, 16, 16⟩ 1 (recPut n c ⟨7, 15, 0⟩ v s1)
    else s1.bump (pgPE n 5) C.US_RSSI_SKIP

/-- The reset pulses still to come (R128, R150), LEAD before the preamble of what each is for: the start of the pulse on the port's
time base, its start after Sk in parts of 1/62,208 ns, and its quiet window, none for the next burst window. -/
def State.pulses (s : State) (n : Nat) : List (Int × Int × Option (QGrant × Int)) :=
  let before (prof : Nat) : Int := ((preDelim (s.prof n prof) + s.get (pgPE n 4) F.PE_US_RST_LEAD * qUnit : Nat) : Int)
  let abs (sk x : Int) : Int := sk * qUnit + x * tbUnit
  (match (s.pe n).wins.find? (fun w => !w.pulsed) with
    | none => []
    | some w => let x := s.hdrAt n w.burst - before w.burst.prof; [(abs w.sk x, x, none)]) ++
  (s.pe n).quiet.map (fun q => let x := ((q.1.st * s.tu n : Nat) : Int) + q.1.ofs - before q.1.prof; (abs q.2 x, x, some q))

/-- The earliest pulse to come. -/
def State.nextPulse (s : State) (n : Nat) : Option (Int × Int × Option (QGrant × Int)) :=
  (s.pulses n).foldl (fun b p => match b with | none => some p | some q => if p.1 < q.1 then some p else some q) none

/-- One pulse for each window: it is used up, and W long on the pin unless the pin is shorted and its driver off (R128, R150, R500). -/
def brstPulse (n : Nat) (s : State) : State :=
  match s.nextPulse n with
  | none => s
  | some (_, x, q) =>
    let s1 := s.modPe n (fun p => match q with
      | none => { p with wins := replaceFirst (fun w => !w.pulsed) (fun w => { w with pulsed := true }) p.wins }
      | some q => { p with quiet := p.quiet.erase q })
    if s.pinShort n 1 then s1 else s1.emit (.pulse n x (s.get (pgPE n 4) F.PE_US_RST_W))

/-- A serial-number window is over, with the response that its last instant could hold (R150). -/
def snClose (n : Nat) (s : State) : State :=
  match (s.pe n).snWin with
  | none => s
  | some w =>
    let g := w.grant
    let past : Int := w.sk * qUnit + (((g.st * s.tu n + g.len + tSn (s.prof n g.prof) : Nat) : Int) + g.ofs) * tbUnit
    s.when (decide (past ≤ s.fbT n * qUnit)) (fun s => s.modPe n (fun p => { p with snWin := none }))

/-! ### Meanings -/

def execBrstRstPulse (port : Fin 48) (s : State) : Res :=
  .next (brstPulse port.val s)

def execBurstWindowEnd (port : Fin 48) (signal : Bool) (found : List DelimMatch) (complement : Bool) (t : Nat) (s : State) : Res :=
  .next (windowEnd port.val signal found complement (s.at t))

def execBurstDecode (port : Fin 48) (stats : DecodeStats) (intervals : List UsInterval) (ploam : Option UsPloam) (s : State) : Res :=
  .next (decodeBurst port.val stats intervals ploam s)

def execReasmTimeout (port : Fin 48) (id : BitVec 16) (s : State) : Res := .next (reasmTimeout port.val id.toNat s)

def execBurstScore (port : Fin 48) (bip : Nat) (t : Nat) (s : State) : Res := .next (scoreBurst port.val bip (s.at t))

def execGuardLight (port : Fin 48) (s : State) : Res := .next (guardLight port.val s)

def execRssiTrig (port : Fin 48) (s : State) : Res := .next (rssiTrig port.val s)

def execRssiSkip (port : Fin 48) (s : State) : Res := .next (rssiSkip port.val s)

def execRssiFetch (port : Fin 48) (reading : BitVec 16) (late : Bool) (s : State) : Res :=
  .next (rssiFetch port.val reading.toNat late s)

def execSnResponse (port : Fin 48) (sn : BitVec 64) (x : Nat) (msg : List Byte) (t : Nat) (s : State) : Res :=
  let s1 := s.at t
  .next (if (s1.snOpen port.val x).isSome then alsAnswer port.val (snResponse port.val sn.toNat x msg s1) else s1)

end Sys2Proof.Machine
end

