-- ==== Sys2Proof/Machine/Packet.lean ====
section
/-! DEFINITION. The parts of a packet that lookups and one-step marking read, and the edits made at dequeue (R278, R279,
R283, R298, R380). -/

namespace Sys2Proof.Machine

/-- `n` bytes at offset `o` as a number, high byte first; none where a byte is absent or beyond byte 128 (R276). -/
def fieldAt (d : List Byte) (o n : Nat) : Option Nat :=
  if o + n ≤ min 128 d.length then some (beNat ((d.drop o).take n)) else none

/-- The same; an absent field contributes zeros (R279). -/
def fieldZ (d : List Byte) (o n : Nat) : Nat := (fieldAt d o n).getD 0

def isTpid (v : Nat) : Bool := v == 0x8100 || v == 0x88A8 || v == 0x9100

/-- What the parser finds: VLAN tags with their control words, the offset of an R-TAG, the ethertype after them, and
where the payload starts. -/
structure Parsed where
  tags : Nat
  outer : Nat
  inner : Nat
  rtag : Option Nat
  etype : Nat
  l3 : Nat
  deriving DecidableEq, Repr

def parse (d : List Byte) : Parsed :=
  let t0 := isTpid (fieldZ d 12 2)
  let o1 := if t0 then 16 else 12
  let t1 := t0 && isTpid (fieldZ d o1 2)
  let o2 := if t1 then 20 else o1
  let r := fieldZ d o2 2 == 0xF1C1
  let o3 := if r then o2 + 6 else o2
  { tags := (if t0 then 1 else 0) + (if t1 then 1 else 0), outer := if t0 then fieldZ d 14 2 else 0,
    inner := if t1 then fieldZ d 18 2 else 0, rtag := if r then some o2 else none, etype := fieldZ d o3 2, l3 := o3 + 2 }

def Parsed.ip4 (p : Parsed) : Bool := p.etype == 0x0800
def Parsed.ip6 (p : Parsed) : Bool := p.etype == 0x86DD

/-- IPv4 protocol or IPv6 next header. -/
def ipProto (d : List Byte) (p : Parsed) : Nat :=
  if p.ip4 then fieldZ d (p.l3 + 9) 1 else if p.ip6 then fieldZ d (p.l3 + 6) 1 else 0

def ipDscp (d : List Byte) (p : Parsed) : Nat :=
  if p.ip4 then fieldZ d (p.l3 + 1) 1 / 4 else if p.ip6 then fieldZ d p.l3 2 / 64 % 64 else 0

/-- Where the transport header starts; none where port fields are not present. -/
def l4At (d : List Byte) (p : Parsed) : Option Nat :=
  let proto := ipProto d p
  if proto = 6 ∨ proto = 17 ∨ proto = 132 then
    if p.ip4 then
      if fieldZ d (p.l3 + 6) 2 % 8192 ≠ 0 then none else some (p.l3 + fieldZ d p.l3 1 % 16 * 4)
    else if p.ip6 then some (p.l3 + 40)
    else none
  else none

def l4Port (d : List Byte) (p : Parsed) (o : Nat) : Nat :=
  match l4At d p with
  | none => 0
  | some a => fieldZ d (a + o) 2

/-- The fields of R278 in ascending FSEL bit, each with its width. -/
def keyFields (src xgem : Nat) (d : List Byte) : List (Nat × Nat) :=
  let p := parse d
  [(16, if src < 48 then xgem else 0), (12, p.outer % 4096), (3, p.outer / 8192), (12, p.inner % 4096), (3, p.inner / 8192),
   (2, p.tags), (16, p.etype), (48, fieldZ d 0 6), (48, fieldZ d 6 6), (8, ipProto d p), (6, ipDscp d p),
   (16, l4Port d p 0), (16, l4Port d p 2), (32, if p.ip4 then fieldZ d (p.l3 + 16) 4 else 0), (6, src)]

/-- Pack the selected fields from bit 0 upward. -/
def packKey (fsel : Nat) : Nat → List (Nat × Nat) → Nat
  | _, [] => 0
  | b, (w, v) :: r => if fsel.testBit b then v % 2 ^ w + 2 ^ w * packKey fsel (b + 1) r else packKey fsel (b + 1) r

/-- The bits a selection takes. -/
def keyBits (fsel : Nat) : Nat :=
  (([16, 12, 3, 12, 3, 2, 16, 48, 48, 8, 6, 16, 16, 32, 6] : List Nat).zipIdx).foldl
    (fun n p => if fsel.testBit p.2 then n + p.1 else n) 0

/-! ### Edits (R283, R298, R381, R386) -/

/-- The edits a packet carries to its dequeue: new addresses of a routed packet (destination, source), an R-TAG removed, the
tag action with its VID, and an R-TAG added. -/
structure Edits where
  route : Option (Nat × Nat) := none
  strip : Bool := false
  act : Nat := 0
  vid : Nat := 0
  rtag : Option Nat := none
  deriving DecidableEq, Repr

/-- Replace bytes at an offset. -/
def patch (d : List Byte) (o : Nat) (x : List Byte) : List Byte := d.take o ++ x ++ d.drop (o + x.length)

/-- Sum of two 16-bit words in one's complement. -/
def onesAdd (a b : Nat) : Nat := let x := a + b; x % 65536 + x / 65536

/-- Update an internet checksum for a word that changes from `m` to `m'`. -/
def cksumUpdate (c m m' : Nat) : Nat := 65535 - onesAdd (onesAdd (65535 - c) (65535 - m)) m'

/-- TTL or hop limit lowered by one, with the IPv4 header checksum. -/
def decTtl (d : List Byte) (p : Parsed) : List Byte :=
  if p.ip4 then
    let m := beNat ((d.drop (p.l3 + 8)).take 2)
    let c := beNat ((d.drop (p.l3 + 10)).take 2)
    patch (patch d (p.l3 + 8) (beBytes 2 (m - 256))) (p.l3 + 10) (beBytes 2 (cksumUpdate c m (m - 256)))
  else if p.ip6 then patch d (p.l3 + 7) (beBytes 1 (beNat ((d.drop (p.l3 + 7)).take 1) - 1))
  else d

/-- Remove the R-TAG. -/
def stripRtag (d : List Byte) : List Byte :=
  match (parse d).rtag with
  | none => d
  | some o => d.take o ++ d.drop (o + 6)

/-- The tag action: 1 pop outer, 2 push outer, 3 replace outer VID. -/
def tagEdit (act vid : Nat) (d : List Byte) : List Byte :=
  let p := parse d
  if act = 1 then (if 0 < p.tags then d.take 12 ++ d.drop 16 else d)
  else if act = 2 then
    d.take 12 ++ beBytes 2 (if 0 < p.tags then 0x88A8 else 0x8100) ++ beBytes 2 (p.outer / 8192 * 8192 + vid) ++ d.drop 12
  else if act = 3 then (if 0 < p.tags then patch d 14 (beBytes 2 (p.outer / 4096 * 4096 + vid)) else d)
  else d

/-- Insert an R-TAG after at most two VLAN tags. -/
def addRtag (seq : Nat) (d : List Byte) : List Byte :=
  let o := 12 + 4 * (parse d).tags
  d.take o ++ beBytes 2 0xF1C1 ++ beBytes 2 0 ++ beBytes 2 seq ++ d.drop o

/-- A packet after its edits, with its frame check sequence. -/
def applyEdits (e : Edits) (d : List Byte) : List Byte :=
  if e = {} then d
  else
    let b := d.take (d.length - 4)
    let b1 := match e.route with
      | none => b
      | some (da, sa) => decTtl (beBytes 6 da ++ beBytes 6 sa ++ b.drop 12) (parse b)
    let b2 := if e.strip then stripRtag b1 else b1
    let b3 := tagEdit e.act e.vid b2
    let b4 := match e.rtag with | none => b3 | some q => addRtag q b3
    b4 ++ fcs b4

end Sys2Proof.Machine
end

