-- ==== Sys2Proof/Machine/Hash.lean ====
section
/-! DEFINITION. The hashed tables of the lookup engine: placement, relocation, pressure and reseeding (R280, R288, R295 to
R297, R301 to R306). -/

namespace Sys2Proof.Machine

def pLK : Nat := pgLK 0

/-- Slots of a way and of the stash of tables 0 to 2. -/
def lkSlots (t : Nat) : Nat := [32768, 131072, 65536].getD t 1
def lkStash (t : Nat) : Nat := [256, 1024, 512].getD t 0
def lkSize (t : Nat) : Nat := 4 * lkSlots t + lkStash t

/-- The bits of an entry that are its key. -/
def lkMask (t : Nat) : Entry :=
  BitVec.ofNat 512 (
    if t = 0 then 2 ^ 128 - 1 + 0xF0000000 * 2 ^ 128
    else if t = 1 then 0xFFFFFFFF + 0x3FFFFFFF * 2 ^ 32
    else 2 ^ 128 - 1 + 0x80FF0FFF * 2 ^ 128)

def lkKey (t : Nat) (e : Entry) : Entry := e &&& lkMask t

/-- VALID, PH and GEN of an entry; on table 0 they stand above its words. -/
def lkVALID (t : Nat) : TF := ⟨[15, 3, 5].getD t 15, 31, 31⟩
def lkPH (t : Nat) : TF := ⟨[15, 3, 5].getD t 15, 28, 28⟩
def lkGEN (t : Nat) : TF := ⟨[15, 3, 5].getD t 15, 27, 27⟩

/-- The hidden identity (R302). -/
def lkIDENT : TF := ⟨14, 31, 0⟩

/-- The entry of a key (R302: never two). -/
def State.lkFind (s : State) (t : Nat) (key : Entry) : Option (Nat × Entry) :=
  (s.used pLK t).find? (fun p => lkKey t p.2 == lkKey t key)

/-- The slot of an index holds an entry. -/
def State.lkTaken (s : State) (t i : Nat) : Bool := s.getE pLK t i eUSED == 1

/-- The generation in which a table places (R306). -/
def State.lkGen (s : State) (t : Nat) : Nat :=
  if s.bit pLK F.LK_RSD_JRNL_ACTIVE && s.get pLK F.LK_RSD_JRNL_TID == t then s.get pLK F.LK_RSD_JRNL_GEN else sget 0 s.lk.gens t

/-- The seed of a generation of a table: the one drawn last (R303). -/
def State.seed (s : State) (t g : Nat) : Nat := (sget none s.lk.seeds (2 * t + g)).getD (Config.firstSeed (2 * t + g))

/-- A seed is drawn for a generation of a table. -/
def drawSeed (t g : Nat) (s : State) : State :=
  let d := s.draw
  { d.2 with lk := { d.2.lk with seeds := sset none d.2.lk.seeds (2 * t + g) (some d.1) } }

/-- Both seed generations of every hashed table are drawn afresh (R303, R496). -/
def drawSeeds (s : State) : State := forN 6 (fun i s => drawSeed (i / 2) (i % 2) s) s

/-- The four candidate slots of a key in a generation, lowest way first. -/
def State.candidates (s : State) (t g : Nat) (key : Entry) : List Nat :=
  (List.range 4).map (fun w => w * lkSlots t + Config.hashPlace t (s.seed t g) w (lkKey t key) % lkSlots t)

/-- The slots a probe for a key visits: its candidates, those of both generations during a migration, and the stash (R288, R306). -/
def State.visits (s : State) (t : Nat) (key : Entry) (i : Nat) : Bool :=
  decide (4 * lkSlots t ≤ i) || (s.candidates t (s.lkGen t) key).contains i ||
    (s.bit pLK F.LK_RSD_JRNL_ACTIVE && s.get pLK F.LK_RSD_JRNL_TID == t && (s.candidates t (1 - s.lkGen t) key).contains i)

/-- A probe is repeated when a slot it visits was relocated while it ran (R301). DESIGN CHOICE (log entry 148): the relocations since the
pass before may have fallen within it, and whether they did is drawn. -/
def probeRetry (t : Nat) (key : Entry) (s : State) : State :=
  if s.lk.moved.any (fun k => k / 2 ^ 24 == tkey pLK t 0 / 2 ^ 24 && s.visits t key (k % 2 ^ 24)) then
    let d := s.draw
    if d.1 % 2 = 1 then d.2.bump pLK C.LK_RETRY else d.2
  else s

/-- A probe of the pass: the entry of a key. -/
def lkProbe (t : Nat) (key : Entry) (s : State) : Option (Nat × Entry) × State :=
  let s1 := probeRetry t key s
  (s1.lkFind t key, s1)

def State.lkFree (s : State) (t : Nat) (l : List Nat) : Option Nat := l.find? (fun i => !s.lkTaken t i)

/-- Fill a slot; a relocation flips its PH (R301). -/
def lkFill (t i : Nat) (e : Entry) (flip : Bool) (s : State) : State :=
  let ph := s.getE pLK t i (lkPH t)
  s.setEnt pLK t i (eput e (lkPH t) (if flip then 1 - ph else ph))

/-- Empty a slot; its PH stays, or flips in a relocation. -/
def lkEmpty (t i : Nat) (flip : Bool) (s : State) : State :=
  let ph := s.getE pLK t i (lkPH t)
  s.setEnt pLK t i (eput 0 (lkPH t) (if flip then 1 - ph else ph))

/-- The entry `e` at `i` moves to slot `j`: the new copy first; both slots are noted for the probes in the pipes. -/
def lkMove (t i j : Nat) (e : Entry) (s : State) : State :=
  let s1 := lkEmpty t i true (lkFill t j e true s)
  { s1 with lk := { s1.lk with moved := tkey pLK t i :: tkey pLK t j :: s1.lk.moved } }

/-- Relocate the entry at `i` to slot `j`. -/
def relocate (t i j : Nat) (s : State) : State := lkMove t i j (s.ent pLK t i) s

/-- Look for a chain of at most `fuel` relocations that frees its first slot: the slots, last victim first, and the free
slot. Which alternative a displaced entry tries next is open, and drawn (log entry 10). -/
def freeChainFor (t : Nat) : Nat → List Nat → State → Option (List Nat × Nat) × State
  | 0, _, s => (none, s)
  | _, [], s => (none, s)
  | fuel + 1, i :: p, s =>
    let e := s.ent pLK t i
    let alt := s.candidates t (eget e (lkGEN t)) e
    match s.lkFree t alt with
    | some f => (some (i :: p, f), s)
    | none =>
      let next := alt.filter (fun j => !(i :: p).contains j)
      let d := s.draw
      match next[d.1 % max 1 next.length]? with
      | none => (none, d.2)
      | some j => freeChainFor t fuel (j :: i :: p) d.2

/-- Carry out a chain of relocations; answers the slot it frees. -/
def runChain (t : Nat) : List Nat → Nat → State → Nat × State
  | [], f, s => (f, s)
  | i :: p, f, s => runChain t p i (relocate t i f s)

/-- The lowest free stash index. -/
def State.stashFree (s : State) (t : Nat) : Option Nat :=
  ((List.range (lkStash t)).map (fun k => 4 * lkSlots t + k)).find? (fun i => !s.lkTaken t i)

/-- Place a key in generation `g` (R288): its slot, and the number of relocations. -/
def lkPlace (t g : Nat) (key : Entry) (s : State) : Option Nat × Nat × State :=
  let cand := s.candidates t g key
  match s.lkFree t cand with
  | some i => (some i, 0, s)
  | none =>
    let d := s.draw
    let r := match cand[d.1 % 4]? with | none => (none, d.2) | some i => freeChainFor t 128 [i] d.2
    match r.1 with
    | some (chain, f) =>
      let x := runChain t chain f r.2
      (some x.1, chain.length, x.2)
    | none => (r.2.stashFree t, 0, r.2)

/-! ### Pressure (R304) -/

def lkStashUsed (s : State) (t : Nat) : Nat := ((s.used pLK t).filter (fun p => decide (4 * lkSlots t ≤ p.1))).length

def hpLevel (s : State) : State := s.levelTo pLK 1 ((List.range 3).any (fun t => s.bit pLK (F.LK_HP_STAT_PRESS.ix t)))

/-- Judge the condition of a table, and show its stash. -/
def hpEval (t : Nat) (s : State) : State :=
  let k := lkStashUsed s t
  let s1 := s.put pLK (F.LK_HP_STAT_STASH.ix t) k
  let c := decide (s1.get pLK F.LK_HP_CFG_STASH_PCT * lkStash t ≤ 100 * k) ||
    decide (s1.get pLK F.LK_HP_CFG_RELOC_THR ≤ s1.get pLK (F.LK_HP_STAT_RELOC_AVG.ix t))
  if c then
    if sget 0 s1.lk.cond t = 0 then { s1 with lk := { s1.lk with cond := sset 0 s1.lk.cond t (s1.now + 1) } } else s1
  else
    hpLevel (({ s1 with lk := { s1.lk with cond := sset 0 s1.lk.cond t 0 } } : State).putBit pLK (F.LK_HP_STAT_PRESS.ix t) false)

/-- The condition has held for RESEED_HOLD. -/
def hashPressure (t : Nat) (s : State) : State :=
  let c := sget 0 s.lk.cond t
  if c ≠ 0 ∧ c - 1 + s.get pLK F.LK_HP_CFG_HOLD * cyclesPerSec ≤ s.now then
    hpLevel (s.putBit pLK (F.LK_HP_STAT_PRESS.ix t) true)
  else s

/-- The end of a second: the mean number of relocations per INSERT. -/
def relocSecond (t : Nat) (s : State) : State :=
  let r := sget (0, 0) s.lk.relocs t
  let avg := if r.2 = 0 then 0 else min 65535 (r.1 * 16 / r.2)
  hpEval t (({ s with lk := { s.lk with relocs := sset (0, 0) s.lk.relocs t (0, 0) } } : State).put pLK (F.LK_HP_STAT_RELOC_AVG.ix t) avg)

/-! ### The length filter (R297) -/

/-- The filter word of an address of a family: its first 16 bits. -/
def filtKey (fam addr : Nat) : Nat := fam * 65536 + (if fam = 0 then addr / 2 ^ 16 else addr / 2 ^ 112) % 65536

/-- An INSERT sets the bit of its length in the live filter, and in one being rebuilt. -/
def filtSet (e : Entry) (s : State) : State :=
  let k := filtKey (eget e ⟨4, 31, 31⟩) (e.toNat % 2 ^ 128)
  let l := eget e ⟨4, 23, 16⟩
  let add (m : SMap Nat) : SMap Nat := sset 0 m k (sget 0 m k ||| 2 ^ l)
  if l ≤ 16 then s
  else { s with lk := { s.lk with filt := add s.lk.filt,
                                  shadow := if s.bit pLK F.LK_PFX_CTRL_BUSY then add s.lk.shadow else s.lk.shadow } }

/-! ### INSERT and removal -/

/-- The dynamic entries of a bridge domain change by `x` (R286). -/
def bdCount (bd : Nat) (up : Bool) (s : State) : State :=
  let c := s.getE pLK 3 bd ⟨4, 19, 0⟩
  s.putE pLK 3 bd ⟨4, 19, 0⟩ (if up then c + 1 else c - 1)

/-- The entry of layer-2 table counts as dynamic. -/
def l2Dynamic (t : Nat) (e : Entry) : Bool := t == 1 && eget e ⟨3, 30, 30⟩ == 0

/-- INSERT of an entry (R288): the code, the index and the state. -/
def lkInsert (t : Nat) (e : Entry) (s : State) : Nat × Nat × State :=
  match s.lkFind t e with
  | some (i, _) => (2, i, s)
  | none =>
    let g := s.lkGen t
    let x := lkPlace t g e s
    match x.1 with
    | none => (3, 0, x.2.2)
    | some i =>
      let e1 := eput (eput (eput (eput e (lkVALID t) 1) (lkGEN t) g) eUSED 1) lkIDENT (x.2.2.lk.ident + 1)
      let s1 := lkFill t i e1 false x.2.2
      let r := sget (0, 0) s1.lk.relocs t
      let s2 : State := { s1 with lk := { s1.lk with ident := s1.lk.ident + 1, relocs := sset (0, 0) s1.lk.relocs t (r.1 + x.2.1, r.2 + 1) } }
      let s3 := if l2Dynamic t e then bdCount (eget e ⟨1, 29, 16⟩) true s2 else s2
      (0, i, hpEval t (if t = 2 then filtSet e s3 else s3))

/-- Make the entry at an index empty. -/
def lkRemove (t i : Nat) (s : State) : State :=
  let e := s.ent pLK t i
  let s1 := lkEmpty t i false s
  hpEval t (if l2Dynamic t e then bdCount (eget e ⟨1, 29, 16⟩) false s1 else s1)

/-! ### Reseeding (R305 to R307) -/

/-- A reseed of table `t` may start now: none runs or waits for random bits, and MIN_GAP has passed. -/
def State.reseedOk (s : State) (t : Nat) : Bool :=
  let g := sget 0 s.lk.gap t
  !s.bit pLK F.LK_RSD_JRNL_ACTIVE && s.lk.waiting.isNone && (g == 0 || decide (g - 1 + s.get pLK F.LK_HP_CFG_MIN_GAP * cyclesPerSec ≤ s.now))

/-- Draw a seed for the other generation and start the migration; without random bits the reseed waits (R481). -/
def reseedStart (t : Nat) (auto : Bool) (s : State) : State :=
  if s.sc.rngBad then { s with lk := { s.lk with waiting := some (t, auto) } }
  else
  let g := 1 - sget 0 s.lk.gens t
  let s1 := drawSeed t g s
  let s2 := ((s1.putBit pLK F.LK_RSD_JRNL_ACTIVE true).put pLK F.LK_RSD_JRNL_GEN g).put pLK F.LK_RSD_JRNL_TID t
  (s2.put pLK F.LK_RSD_JRNL_CURSOR 0).bump pLK C.LK_RESEEDS

/-- Relocate one entry, named by its identity, into the new generation. An entry for which no place is left stays where it
is, counted to the new generation. -/
def migrateOne (t g ident : Nat) (s : State) : State :=
  match (s.rows pLK t).find? (fun p => eget p.2 eUSED == 1 && eget p.2 lkIDENT == ident) with
  | none => s
  | some (i, e) =>
    let x := lkPlace t g e s
    match x.1 with
    | none => x.2.2.setEnt pLK t i (eput e (lkGEN t) g)
    | some j =>
      match (x.2.2.rows pLK t).find? (fun p => eget p.2 eUSED == 1 && eget p.2 lkIDENT == ident) with
      | none => x.2.2
      | some (k, e') => lkMove t k j (eput e' (lkGEN t) g) x.2.2

/-- The cursor visits its index and moves on: an entry of the old generation there is relocated (R306). -/
def migrateStep (s : State) : State :=
  let t := s.get pLK F.LK_RSD_JRNL_TID
  let g := s.get pLK F.LK_RSD_JRNL_GEN
  let i := s.get pLK F.LK_RSD_JRNL_CURSOR
  if !s.bit pLK F.LK_RSD_JRNL_ACTIVE || !s.en pLK || !s.bit pLK F.ST_READY || decide (lkSize t ≤ i) then s
  else
    let e := s.ent pLK t i
    let s1 := if eget e eUSED = 1 ∧ eget e (lkGEN t) ≠ g then migrateOne t g (eget e lkIDENT) s else s
    s1.put pLK F.LK_RSD_JRNL_CURSOR (i + 1)

/-- The cursor visits the indices left and passes the last one; the old seed is not used again. -/
def reseedDone (s : State) : State :=
  if s.bit pLK F.LK_RSD_JRNL_ACTIVE then
    let t := s.get pLK F.LK_RSD_JRNL_TID
    let g := s.get pLK F.LK_RSD_JRNL_GEN
    let old := ((s.rows pLK t).filter (fun p => eget p.2 eUSED == 1 && eget p.2 (lkGEN t) != g)).map (fun p => eget p.2 lkIDENT)
    let s1 := old.foldl (fun s i => migrateOne t g i s) s
    let s2 : State := { s1 with lk := { s1.lk with gens := sset 0 s1.lk.gens t g, gap := sset 0 s1.lk.gap t (s1.now + 1) } }
    (hpEval t ((s2.putBit pLK F.LK_RSD_JRNL_ACTIVE false).put pLK F.LK_RSD_JRNL_CURSOR (lkSize t))).raise pLK 2
  else s

/-- LK_RSD_CTRL.START of the table that word `w` names (R305). -/
def reseedCmd (w : Nat) (s : State) : State :=
  let tid := fld w 29 28
  if tid < 3 ∧ s.reseedOk tid = true then reseedStart tid false s else s.putBit pLK F.LK_RSD_CTRL_REJ true

/-- LK_PFX_CTRL.REBUILD: the filter is built anew from the prefixes that exist; without effect while one runs. -/
def filtRebuild (s : State) : State :=
  if s.bit pLK F.LK_PFX_CTRL_BUSY then s
  else
    let s1 := ({ s with lk := { s.lk with shadow := [] } } : State).putBit pLK F.LK_PFX_CTRL_BUSY true
    let keep := s1.lk.filt
    let s2 := (s1.used pLK 2).foldl (fun s p => filtSet p.2 s) s1
    { s2 with lk := { s2.lk with filt := keep } }

/-! ### Meanings -/

def execHashPressure (tbl : Fin 3) (t : Nat) (s : State) : Res := .next (hashPressure tbl.val (s.at t))

def execReseedStart (fn : Fn) (w : Word) (t : Nat) (s : State) : Res :=
  .next ((s.at t).hostWrite fn.val (pLK + 0x0D8) (w ||| maskBit 31) (fun s _ => reseedCmd w.toNat s))

def execReseedAuto (tbl : Fin 3) (t : Nat) (s0 : State) : Res :=
  let s := s0.at t
  .next (if s.bit pLK (F.LK_HP_STAT_PRESS.ix tbl.val) && s.bit pLK F.LK_HP_CFG_AUTO && s.reseedOk tbl.val then
    reseedStart tbl.val true s else s)

def execReseedDone (t : Nat) (s : State) : Res := .next (reseedDone (s.at t))

def execRebuild (fn : Fn) (w : Word) (s : State) : Res :=
  .next (s.hostWrite fn.val (pLK + 0x0E0) (w ||| maskBit 31) (fun s _ => filtRebuild s))

def execRebuildDone (s : State) : Res :=
  .next (if s.bit pLK F.LK_PFX_CTRL_BUSY then
    let s1 : State := { s with lk := { s.lk with filt := s.lk.shadow, shadow := [] } }
    (s1.putBit pLK F.LK_PFX_CTRL_BUSY false).incWrap pLK F.LK_PFX_CTRL_REBUILDS
  else s)

end Sys2Proof.Machine
end

