-- ==== Sys2Proof/Machine/Forward.lean ====
section
/-! DEFINITION. Chapter 12, the lookup pass, and the streams of chapter 16 that it meets (R275 to R299, R379 to R387, R182,
R428). -/

namespace Sys2Proof.Machine

/-! ### Fields of a classification result (R281) -/

def rFMODE : TF := ⟨5, 31, 29⟩
def rCOLOUR : TF := ⟨5, 28, 27⟩
def rTAGACT : TF := ⟨5, 26, 25⟩
def rOS : TF := ⟨5, 24, 23⟩
def rOSTB : TF := ⟨5, 22, 20⟩
def rQOFS : TF := ⟨5, 19, 17⟩
def rVID : TF := ⟨5, 11, 0⟩
def rBD : TF := ⟨6, 29, 16⟩
def rSTREAM : TF := ⟨6, 11, 0⟩
def rPOLEN : TF := ⟨7, 31, 31⟩
def rPOLICER : TF := ⟨7, 16, 0⟩

/-- A destination word as (DTYPE, DIDX) (R285). -/
def destPair (w : Nat) : Nat × Nat := (fld w 31 30, fld w 16 0)

def rLDEST (e : Entry) : Nat × Nat := destPair (ew e 9)

def bLRN : TF := ⟨0, 31, 31⟩
def bHAIRPIN : TF := ⟨0, 30, 30⟩
def bSSDROP : TF := ⟨0, 29, 29⟩
def bLIMDROP : TF := ⟨0, 28, 28⟩
def bVRF : TF := ⟨0, 11, 0⟩
def bLIMIT : TF := ⟨3, 19, 0⟩
def bCOUNT : TF := ⟨4, 19, 0⟩

def lSTATIC : TF := ⟨3, 30, 30⟩
def lHIT : TF := ⟨3, 29, 29⟩
def lLSRC : TF := ⟨3, 5, 0⟩

def State.bd (s : State) (i : Nat) : Entry := s.ent pLK 3 i

/-- RMAC of a bridge domain. -/
def rmac (e : Entry) : Nat := ew e 5 + eget e ⟨6, 15, 0⟩ * 2 ^ 32

/-- The layer-2 key of a domain and an address. -/
def l2Key (bd mac : Nat) : Entry := ewPut (ewPut 0 0 mac) 1 (bd * 65536 + mac / 2 ^ 32 % 65536)

/-! ### Classification (R278 to R280) -/

def lkCount (c : Ctr) (s : State) : State := s.bump pLK c

/-- The classification entry with PROF and key, as an entry's key words. -/
def clsKey (prof key : Nat) : Entry := BitVec.ofNat 512 (key % 2 ^ 128 + prof * 2 ^ 156)

/-- The result for a packet: an entry's, or the profile's default. -/
def classify (src xgem : Nat) (d : List Byte) (s : State) : Entry × State :=
  let prof := s.getE pLK 7 src ⟨0, 3, 0⟩
  let p := s.ent pLK 6 prof
  let key := packKey (eget p ⟨0, 14, 0⟩) 0 (keyFields src xgem d)
  let x := lkProbe 0 (clsKey prof key) s
  match x.1 with
  | some (i, e) => (e, x.2.setEnt pLK 0 i (ewPut e 10 (ew e 10 + 1)))
  | none => (p, lkCount C.LK_CLS_MISS x.2)

/-! ### The source address (R290 to R293) -/

def State.frozenSrc (s : State) (src : Nat) : Bool := sget 0 s.lk.frozen src != 0

/-- Learning is permitted from this source in this domain. -/
def State.mayLearn (s : State) (src bd : Nat) : Bool :=
  s.bit pLK F.LK_LEARN_CFG_EN && eget (s.bd bd) bLRN == 1 && s.getE pLK 7 src ⟨0, 31, 31⟩ == 1

def setHit (i : Nat) (s : State) : State := s.putE pLK 1 i lHIT 1

/-- MAC_MOVE (R292). -/
def macMove (i src : Nat) (dest : Nat × Nat) (s : State) : State :=
  let e := s.ent pLK 1 i
  let e1 := eput (eput (eput e ⟨2, 31, 30⟩ dest.1) ⟨2, 16, 0⟩ dest.2) lLSRC src
  let s1 := lkCount C.LK_MOVES (s.setEnt pLK 1 i (eput e1 lHIT 1))
  { s1 with lk := { s1.lk with moves := sset 0 s1.lk.moves src (sget 0 s1.lk.moves src + 1) } }

/-- The destination word of an entry as one number. -/
def destNat (p : Nat × Nat) : Nat := p.1 * 2 ^ 30 + p.2

/-- The source address of a packet: whether the packet is dropped, and the state. -/
def learnStage (src : Nat) (res : Entry) (sa : Nat) (s0 : State) : Bool × State :=
  let bd := eget res rBD
  let ld := rLDEST res
  let key := l2Key bd sa
  let p := lkProbe 1 key s0
  let s := p.2
  let e := s.bd bd
  match p.1 with
  | some (i, x) =>
    let s1 := setHit i s
    if destPair (ew x 2) = ld then (false, s1)
    else if eget x lSTATIC = 1 then (eget e bSSDROP == 1, lkCount C.LK_SA_STATIC s1)
    else if s1.mayLearn src bd && !s1.frozenSrc src then (false, macMove i src ld s1)
    else (false, s1)
  | none =>
    if !s.mayLearn src bd then (false, s)
    else if s.frozenSrc src then (false, lkCount C.LK_LEARN_DROP s)
    else if eget e bLIMIT ≠ 0 ∧ eget e bLIMIT ≤ eget e bCOUNT then (eget e bLIMDROP == 1, lkCount C.LK_LIMIT_DROP s)
    else if s.lk.learns.any (fun p => p.1 == key.toNat) then (false, s)
    else if 4096 ≤ s.lk.learns.length then (false, lkCount C.LK_LEARN_DROP s)
    else (false, { s with lk := { s.lk with learns := s.lk.learns ++ [(key.toNat, destNat ld, src)] } })

/-- LEARN: the request at the head of the queue (R291). -/
def learn (s : State) : State :=
  match s.lk.learns with
  | [] => s
  | (key, dest, src) :: r =>
    let s1 : State := { s with lk := { s.lk with learns := r } }
    let k : Entry := BitVec.ofNat 512 key
    let bd := s1.bd (eget k ⟨1, 29, 16⟩)
    if (s1.lkFind 1 k).isSome then s1
    else if eget bd bLIMIT ≠ 0 ∧ eget bd bLIMIT ≤ eget bd bCOUNT then lkCount C.LK_LIMIT_DROP s1
    else
      let x := lkInsert 1 (eput (ewPut k 2 dest) lLSRC src) s1
      if x.1 = 0 then lkCount C.LK_LEARNS x.2.2
      else
        let s2 := lkCount C.LK_LEARN_DROP x.2.2
        if s2.secSince s2.lk.fullAt then ({ s2 with lk := { s2.lk with fullAt := some s2.now } } : State).raise pLK 3 else s2

/-- The end of a second (R293, R304): the source with the most moves, and its freeze. -/
def macMoveStorm (s : State) : State :=
  let best := s.lk.moves.foldl (fun (b : Nat × Nat) p => if b.2 < p.2 then p else b) (0, 0)
  let s1 : State := { s with lk := { s.lk with moves := [] } }
  let s2 := if s.get pLK F.LK_LEARN_CFG_MOVE_THR < best.2 then
      let s2 := ((s1.put pLK F.LK_MOVE_SRC_COUNT (min best.2 65535)).put pLK F.LK_MOVE_SRC_SRC best.1).raise pLK 0
      if s.get pLK F.LK_LEARN_CFG_FREEZE = 0 then s2
      else { s2 with lk := { s2.lk with frozen := sset 0 s2.lk.frozen best.1 (s2.now + 1) } }
    else s1
  forN 3 relocSecond s2

/-- FREEZE seconds have passed. -/
def freezeExpiry (src : Nat) (s : State) : State :=
  let f := sget 0 s.lk.frozen src
  if f ≠ 0 ∧ f - 1 + s.get pLK F.LK_LEARN_CFG_FREEZE * cyclesPerSec ≤ s.now then
    { s with lk := { s.lk with frozen := sset 0 s.lk.frozen src 0 } }
  else s

/-! ### Destinations (R285, R287, R290) -/

/-- What the forwarding stage decides: dropped, punted with a STAT, or queues (tree table and queue), with the new addresses
of a routed packet. -/
inductive Fwd where
  | drop
  | punt (stat : Nat)
  | to (dests : List (Nat × Nat)) (route : Option (Nat × Nat))
  deriving DecidableEq, Repr

/-- The queue of a destination of DTYPE 1 or 2. -/
def queueOf (qofs : Nat) (p : Nat × Nat) : Option (Nat × Nat) :=
  if p.1 = 1 then some (0, p.2) else if p.1 = 2 ∧ p.2 + qofs ≤ 4095 then some (4, p.2 + qofs) else none

/-- The queues of a destination word; `uni` tells a unicast decision of a bridged packet (R287). -/
def destQueues (bd : Nat) (res : Entry) (uni : Bool) (p : Nat × Nat) (route : Option (Nat × Nat)) (s : State) : Fwd × State :=
  let qofs := eget res rQOFS
  let hair := eget (s.bd bd) bHAIRPIN == 0
  if p.1 = 3 then
    let g := s.ent pLK 5 p.2
    let slots := ((List.range 16).map (fun i => destPair (ew g i))).filter (fun x => x.1 == 1 || x.1 == 2)
    let own := hair && slots.contains (rLDEST res)
    let left := if own then slots.erase (rLDEST res) else slots
    let s1 := if own then lkCount C.LK_HAIRPIN s else s
    let qs := left.filterMap (queueOf qofs)
    let s2 := s1.bump pLK C.LK_DROP (left.length - qs.length)
    if left.isEmpty then (.drop, lkCount C.LK_DROP s2) else if qs.isEmpty then (.drop, s2) else (.to qs route, s2)
  else if uni && hair && p == rLDEST res then (.drop, lkCount C.LK_HAIRPIN s)
  else
    match queueOf qofs p with
    | some q => (.to [q] route, s)
    | none => (.drop, lkCount C.LK_DROP s)

/-- The layer-2 lookup of a unicast address (R290). -/
def l2Unicast (bd da : Nat) (s : State) : Nat × Nat × Bool × State :=
  let p := lkProbe 1 (l2Key bd da) s
  match p.1 with
  | some (i, e) => let d := destPair (ew e 2); (d.1, d.2, true, setHit i p.2)
  | none => let d := destPair (ew (s.bd bd) 1); (d.1, d.2, true, lkCount C.LK_DA_MISS p.2)

/-- BRIDGE. -/
def bridge (res : Entry) (d : List Byte) (s : State) : Fwd × State :=
  let bd := eget res rBD
  let da := fieldZ d 0 6
  if (da / 2 ^ 40).testBit 0 then destQueues bd res false (destPair (ew (s.bd bd) 2)) none s
  else
    let x := l2Unicast bd da s
    destQueues bd res true (x.1, x.2.1) none x.2.2.2

/-! ### Routing (R295 to R299) -/

/-- An address without the bits beyond a length. -/
def masked (fam len addr : Nat) : Nat := let w := if fam = 0 then 32 else 128; addr / 2 ^ (w - len) * 2 ^ (w - len)

/-- The filter calls for a probe of this length. -/
def State.filtHas (s : State) (fam addr len : Nat) : Bool :=
  decide (len ≤ 16) || (sget 0 s.lk.filt (filtKey fam addr)).testBit len

/-- The longest match of an address in a VRF: its next hop. -/
def State.lpm (s : State) (vrf fam addr : Nat) : Option Nat :=
  (((s.used pLK 2).filter (fun p =>
    let e := p.2
    let l := eget e ⟨4, 23, 16⟩
    eget e ⟨4, 31, 31⟩ == fam && eget e ⟨4, 11, 0⟩ == vrf && s.filtHas fam addr l &&
      e.toNat % 2 ^ 128 == masked fam l addr)).foldl (fun (b : Option (Nat × Nat)) p =>
        let l := eget p.2 ⟨4, 23, 16⟩
        match b with
        | some (l', _) => if l' < l then some (l, eget p.2 ⟨5, 15, 0⟩) else b
        | none => some (l, eget p.2 ⟨5, 15, 0⟩)) none).map (fun x => x.2)

/-- The key of a prefix. -/
def pfxKey (vrf fam len addr : Nat) : Entry := BitVec.ofNat 512 (masked fam len addr + (fam * 2 ^ 31 + len * 2 ^ 16 + vrf) * 2 ^ 128)

/-- The lengths that the filter calls for, each with its probe (R297). -/
def probeLens (vrf fam addr : Nat) (s : State) : State :=
  let has (l : Nat) : Bool := s.filtHas fam addr l &&
    (s.used pLK 2).any (fun p => eget p.2 ⟨4, 31, 31⟩ == fam && eget p.2 ⟨4, 23, 16⟩ == l)
  ((List.range 129).filter has).foldl (fun s l => probeRetry 2 (pfxKey vrf fam l addr) s) s

/-- Steps 1 to 4 of ROUTE (R298): the packet's end, or the rewrite with the next hop's domain. -/
def routeHop (res : Entry) (d : List Byte) (s : State) : Fwd × Nat × State :=
  let p := parse d
  if !p.ip4 && !p.ip6 then (.drop, 0, lkCount C.LK_DROP s)
  else
    let ttl := if p.ip4 then fieldZ d (p.l3 + 8) 1 else fieldZ d (p.l3 + 7) 1
    if ttl ≤ 1 then (.punt 2, 0, lkCount C.LK_TTL_PUNT s)
    else
      let fam := if p.ip4 then 0 else 1
      let addr := if p.ip4 then fieldZ d (p.l3 + 16) 4 else fieldZ d (p.l3 + 24) 16
      let vrf := eget (s.bd (eget res rBD)) bVRF
      let s1 := probeLens vrf fam addr s
      match s1.lpm vrf fam addr with
      | none => (.drop, 0, lkCount C.LK_PFX_MISS s1)
      | some nh =>
        let e := s1.ent pLK 4 nh
        let act := eget e ⟨1, 31, 30⟩
        if act = 2 then (.punt 3, 0, lkCount C.LK_PUNT s1)
        else if act ≠ 0 then (.drop, 0, lkCount C.LK_NH_DROP s1)
        else
          let bd := eget e ⟨1, 29, 16⟩
          (.to [] (some (ew e 0 + eget e ⟨1, 15, 0⟩ * 2 ^ 32, rmac (s1.bd bd))), bd, s1)

/-- ROUTE (R298). -/
def routePkt (res : Entry) (d : List Byte) (s : State) : Fwd × State :=
  match routeHop res d s with
  | (.to _ (some hop), bd, s1) =>
    let x := l2Unicast bd hop.1 s1
    destQueues bd res false (x.1, x.2.1) (some hop) x.2.2.2
  | (o, _, s1) => (o, s1)

/-- The forwarding stage (R282). -/
def forward (res : Entry) (d : List Byte) (s : State) : Fwd × State :=
  match eget res rFMODE with
  | 0 => bridge res d s
  | 1 => routePkt res d s
  | 2 => destQueues (eget res rBD) res false (destPair (ew res 8)) none s
  | 3 => (.punt 1, lkCount C.LK_PUNT s)
  | _ => (.drop, lkCount C.LK_DROP s)

/-- The stage for a replicated packet: its classification destination is ignored (R381), so no destination is looked up; a routed one
is rewritten, and a packet that FMODE punts or drops ends there. -/
def streamForward (res : Entry) (d : List Byte) (s : State) : Fwd × State :=
  match eget res rFMODE with
  | 0 => (.to [] none, s)
  | 2 => (.to [] none, s)
  | 1 => let x := routeHop res d s; (x.1, x.2.2)
  | _ => forward res d s

/-- A packet's record on the host's punt ring (R354). -/
def puntPost (stat : Nat) (x : LkIn) (s : State) : State :=
  let e := ringEnt s 240
  let room := eget e RF.SLOT - 32
  let d := x.bytes.take room
  let ts := match x.stamps[eget e RF.TB]? with | some t => stampWords t | none => []
  (ringPost 240 (slotHdr 5 stat (if room < x.bytes.length then 1 else 0) d.length (x.xgem * 65536 + x.src) x.bytes.length 0 ts ++ d) s).2

/-- A packet goes to the host (R356): it lies in buffers that name the host port as finisher, charged to its source, which the host
port frees once the record is written or discarded. The pool is open, and a packet that finds no buffers is dropped and counted in
the ring's DROPS (R315; DESIGN CHOICE, log entry 151). -/
def punt (stat : Nat) (x : LkIn) (s : State) : State :=
  let p := (Config.puntPool x.src).val
  let a := alloc p ((x.bytes.length + s.poolData p - 1) / s.poolData p) x.src 65 s
  match a.1 with
  | .error _ => ringDrop 240 a.2
  | .ok h => forget h (free h 65 (puntPost stat x { a.2 with tm := { a.2.tm with pkts := (h, { bytes := x.bytes, charge := x.src }) :: a.2.tm.pkts } }))

/-! ### Streams (R379 to R387) -/

def sEN : TF := ⟨0, 31, 31⟩
def sDIR : TF := ⟨0, 30, 30⟩
def sSEQM : TF := ⟨0, 29, 29⟩
def sUNSURE : TF := ⟨0, 28, 28⟩
def sSTRIP : TF := ⟨0, 27, 27⟩
def sPASS : TF := ⟨0, 26, 26⟩
def sPORT : TF := ⟨0, 21, 16⟩
def sXGEM : TF := ⟨0, 15, 0⟩
def sQA : TF := ⟨1, 27, 16⟩
def sQB : TF := ⟨1, 11, 0⟩
def sHIST : TF := ⟨2, 26, 16⟩
def sRESETMS : TF := ⟨2, 15, 0⟩
def sCLR : TF := ⟨3, 31, 31⟩
def sSEQ : TF := ⟨3, 15, 0⟩
def sRESETS : TF := ⟨9, 31, 16⟩
def sUNTAGGED : TF := ⟨9, 15, 0⟩

def State.strm (s : State) (i : Nat) : Entry := s.ent pgUL 0 i

/-- Count in word `w` of a stream, wrapping or saturating. -/
def strmCount (i w : Nat) (sat : Bool) (k : Nat) (s : State) : State :=
  let e := s.strm i
  s.setEnt pgUL 0 i (ewPut e w (if sat then min (ew e w + k) (2 ^ 32 - 1) else ew e w + k))

/-- The stream a packet acts on: none when it is forwarded as though STREAM were 0. -/
def streamOf (src xgem : Nat) (res : Entry) (s : State) : Option Nat × State :=
  let i := eget res rSTREAM
  let e := s.strm i
  if i = 0 ∨ eget e sEN = 0 then (none, s)
  else if src < 48 then
    if eget e sDIR = 1 then (none, s)
    else if eget e sSEQM = 0 ∧ ¬ (src = eget e sPORT ∧ xgem = eget e sXGEM) then (none, strmCount i 6 true 1 s)
    else (some i, s)
  else if eget e sDIR = 0 then (none, strmCount i 6 true 1 s)
  else (some i, s)

def State.rcv (s : State) (i : Nat) : Recov := sget {} s.ul.rcv i
def State.setRcv (s : State) (i : Nat) (r : Recov) : State := { s with ul := { s.ul with rcv := sset {} s.ul.rcv i r } }

/-- REPLICATE (R381 to R385): the number and queues of the copies; none when both copies are dropped. -/
def replicate (i : Nat) (x : LkIn) (s : State) : Option (Nat × List (Nat × Nat)) × State :=
  let e := s.strm i
  let bound := eget e sSEQM == 0
  if bound && decide (1024 ≤ x.ord) then
    let s1 := strmCount i 5 true 1 s
    if s1.secSince s1.ul.seqAt then
      (none, (({ s1 with ul := { s1.ul with seqAt := some s1.now } } : State).put pgUL F.UL_SEQ_SRC_STREAM i).raise pgUL 16)
    else (none, s1)
  else if bound && eget e sUNSURE == 1 && x.unsure then (none, strmCount i 7 true 1 s)
  else
    let num := if bound then (x.sfc * 1024 + x.ord) % 65536 else (s.rcv i).hist % 65536
    let s0 := if bound then s else s.setRcv i { s.rcv i with hist := num + 1 }
    let s1 := strmCount i 4 false 1 (s0.putE pgUL 0 i sSEQ num)
    let qa := eget e sQA
    let qb := eget e sQB
    if s1.nodeValid 4 qa && s1.nodeValid 4 qb && s1.rootOf 4 qa == s1.rootOf 4 qb then (some (num, [(4, qa)]), strmCount i 8 true 1 s1)
    else (some (num, [(4, qa), (4, qb)]), s1)

/-- Unreceived numbers among the `k` oldest of a history of length `h`. -/
def lostBits (hist h k : Nat) : Nat := ((List.range k).filter (fun j => !hist.testBit (h - 1 - j))).length

/-- Reset a stream's recovery to take-any. -/
def elimReset (i : Nat) (s : State) : State :=
  let e := s.strm i
  (s.putE pgUL 0 i sRESETS (min (eget e sRESETS + 1) 65535)).setRcv i {}

/-- No packet has been accepted for RESET_MS. -/
def elimTimeout (i : Nat) (s : State) : State :=
  let e := s.strm i
  let r := s.rcv i
  if eget e sEN = 1 ∧ eget e sDIR = 1 ∧ r.any = false ∧ r.at_ + eget e sRESETMS * (cyclesPerSec / 1000) ≤ s.now then elimReset i s else s

/-- 64 consecutive packets were rogue. -/
def elimOverrun (i : Nat) (s : State) : State :=
  if 64 ≤ (s.rcv i).rogue then
    let s1 := elimReset i s
    if s1.secSince s1.ul.elimAt then
      (({ s1 with ul := { s1.ul with elimAt := some s1.now } } : State).put pgUL F.UL_ELIM_SRC_STREAM i).raise pgUL 17
    else s1
  else s

/-- ELIMINATE (R386): whether the packet goes on, and the state. A reset that is due acts first (R387). -/
def eliminate (i : Nat) (d : List Byte) (s0 : State) : Bool × State :=
  let s := elimOverrun i (elimTimeout i s0)
  let e := s.strm i
  let r := s.rcv i
  match (parse d).rtag with
  | none =>
    let s1 := (s.putE pgUL 0 i sUNTAGGED (min (eget e sUNTAGGED + 1) 65535)).setRcv i { r with rogue := 0 }
    (eget e sPASS == 1, s1)
  | some o =>
    let num := fieldZ d (o + 4) 2
    let h := eget e sHIST
    let accept (hist : Nat) (rec' : Nat) (s : State) : State :=
      (s.putE pgUL 0 i sSEQ rec').setRcv i { any := false, hist := hist, at_ := s.now, rogue := 0 }
    if r.any then (true, strmCount i 4 false 1 (accept 1 num s))
    else
      let delta := toSigned 16 (num + 65536 - eget e sSEQ)
      if (h : Int) ≤ delta ∨ delta ≤ -(h : Int) then
        (false, (strmCount i 7 true 1 s).setRcv i { r with rogue := r.rogue + 1 })
      else if 0 < delta then
        let k := delta.toNat
        let s1 := strmCount i 8 true (lostBits r.hist h k) (accept ((r.hist * 2 ^ k + 1) % 2 ^ h) num s)
        (true, strmCount i 4 false 1 s1)
      else
        let k := (-delta).toNat
        if r.hist.testBit k then (false, (strmCount i 5 false 1 s).setRcv i { r with rogue := 0 })
        else (true, strmCount i 6 true 1 (strmCount i 4 false 1 (accept (r.hist + 2 ^ k) (eget e sSEQ) s)))

/-! ### Cooperative messages (R182, R284) -/

/-- The packet is a CTI message of its source. -/
def State.isCti (s : State) (src : Nat) (d : List Byte) : Bool :=
  let p := parse d
  let e1 := if isTpid (fieldZ d 12 2) then fieldZ d 16 2 else fieldZ d 12 2
  decide (48 ≤ src) && s.getE pLK 7 src ⟨0, 30, 30⟩ == 1 &&
    ((s.bit pLK F.LK_CTI_CFG_ETH_EN && e1 == s.get pLK F.LK_CTI_CFG_ETYPE) ||
     (s.bit pLK F.LK_CTI_CFG_UDP_EN && (p.ip4 || p.ip6) && ipProto d p == 17 && (l4At d p).isSome &&
       l4Port d p 2 == s.get pLK F.LK_CTI_UDP_PORT))

/-- One entry of a report: delivered to the slice whose directory holds its flow (R191). -/
def ctiEntry (x : Option (Word × Nat × Nat)) (s : State) : State :=
  match x with
  | none => forN 6 (fun k s => s.incSat (pgGS k 0) F.GS_HINT_BAD_COUNT) s
  | some (key, th, bytes) =>
    match (List.range 6).findSome? (fun k => ((s.used (pgGS k 9) 0).find? (fun p => ew p.2 0 == key.toNat)).map (fun p => (k, p))) with
    | none => forN 6 (fun k s => s.incSat (pgGS k 0) F.GS_HINT_NOKEY_COUNT) s
    | some (k, i, e) =>
      let n := 8 * k + eget e ⟨1, 18, 16⟩
      let s1 := (s.setEnt (pgGS k 9) 0 i (ewPut e 2 (ew e 2 + 1))).bump (pgGP n) C.GS_HINT_RX
      s1.modGp n (fun g => { g with inbox := g.inbox ++ [(eget e ⟨1, 10, 0⟩, th, bytes)] })

/-- CTI_RX. -/
def ctiRx (x : LkIn) (m : CtiMsg) (s : State) : State :=
  let s1 := lkCount C.LK_CTI_RX s
  match m with
  | .other => punt 4 x s1
  | .report es => es.foldl (fun s e => ctiEntry e s) s1

/-! ### The pass (R275) -/

/-- SHADOW discards what is not a replicated stream's (R428), and at a planned switch each device what is the other's (R431): the
destinations left. -/
def shadowDests (x : LkIn) (l : List (Nat × Nat)) (s : State) : List (Nat × Nat) × State :=
  if x.src < 48 then (if s.pxUpDrops x.src x.sfc then ([], s.bump pgPX C.PX_SHADOW_DROP) else (l, s))
  else if s.pxState ≠ 3 ∨ s.queuesEarly = true then (l, s)
  else
    let k := l.filter (fun q => !(decide (q.1 < 4) && s.protected_ (s.rootOf q.1 q.2)))
    (k, if k.isEmpty && !l.isEmpty then s.bump pgPX C.PX_SHADOW_DROP else s)

/-- The policer, and the offer of the packet to its queues; a packet with no policer is green (R220). -/
def lkOffer (x : LkIn) (res : Entry) (dests : List (Nat × Nat)) (ed : Edits) (s : State) : State :=
  let d := applyEdits ed x.bytes
  let pol := if eget res rPOLEN = 1 then policer (eget res rPOLICER) d.length (eget res rCOLOUR) s else (0, false, s)
  if pol.2.1 then pol.2.2
  else
    let os := eget res rOS
    let p : Pkt := { bytes := d, charge := x.src, colour := pol.1, oneStep := if os = 0 then none else some (os, eget res rOSTB),
                     orig := if d.length = x.bytes.length then none else some x.bytes.length, ingress := x.stamps }
    offer { pkt := p, dests := dests } pol.2.2

/-- One packet passes the lookup engine. -/
def lookupOne (x : LkIn) (cti : CtiMsg) (s0 : State) : State :=
  if !s0.en pLK || !s0.bit pLK F.ST_READY then lkCount C.LK_DROP s0
  else if s0.isCti x.src x.bytes then ctiRx x cti s0
  else
    let c := classify x.src x.xgem x.bytes s0
    let res := c.1
    let l := if eget res rFMODE ≤ 2 then learnStage x.src res (fieldZ x.bytes 6 6) c.2 else (false, c.2)
    if l.1 then l.2
    else
      let st := streamOf x.src x.xgem res l.2
      let base : Edits := { act := eget res rTAGACT, vid := eget res rVID }
      match st.1, decide (x.src < 48) with
      | some i, true =>
        let f := streamForward res x.bytes st.2
        match f.1 with
        | .punt k => punt k x f.2
        | .drop => f.2
        | .to _ route =>
          let r := replicate i x f.2
          match r.1 with
          | none => r.2
          | some (num, qs) => lkOffer x res qs { base with route := route, rtag := some num } r.2
      | sid, _ =>
        let f := forward res x.bytes st.2
        match f.1 with
        | .drop => f.2
        | .punt k => punt k x f.2
        | .to qs route =>
          let e := match sid with | some i => eliminate i x.bytes f.2 | none => (true, f.2)
          if !e.1 then e.2
          else
            let strip := match sid with | some i => eget (e.2.strm i) sSTRIP == 1 | none => false
            let q := shadowDests x qs e.2
            if q.1.isEmpty then q.2 else lkOffer x res q.1 { base with route := route, strip := strip } q.2

/-! ### Sharing the pipes (R36) -/

/-- The highest rate code among the enabled burst profiles of a port. -/
def State.portRate (s : State) (n : Nat) : Nat :=
  match ((List.range 8).map (fun i => s.ent (pgPE n 4) 0 i)).filter (fun e => eget e bEN == 1) with
  | [] => 0
  | l => l.foldl (fun m e => min m (eget e bRATE)) 3

/-- The weight of a requester: its configured rate over 0.62208 Gb/s, rounded up. DESIGN CHOICE (log entry 149): a port with no enabled
profile has weight 80. -/
def State.lkWeight (s : State) (src : Nat) : Nat :=
  if src < 48 then (if s.isLegacy src then 16 else [80, 40, 20, 16].getD (s.portRate src) 80)
  else max 1 ((s.groupRate (src - 48) * 100000 + 62207) / 62208)

/-- The requester served next, and its credit in half slots: the one whose turn it is while it has credit, else the next that waits.
DESIGN CHOICE (log entry 149): the form of the weighted round robin. -/
def State.lkTurn (s : State) : Nat × Int :=
  let waits (i : Nat) : Bool := s.lookups.any (fun x => x.src == i)
  if waits s.lk.turn && decide (0 < s.lk.credit) then (s.lk.turn, s.lk.credit)
  else
    let order := (List.range 64).map (fun k => (s.lk.turn + 1 + k) % 64)
    let q := (order.find? waits).getD s.lk.turn
    (q, ((2 * s.lkWeight q : Nat) : Int))

/-- Half slots that a packet takes: a routed one 1.5 slots. -/
def State.lkCost (s : State) (x : LkIn) : Int :=
  if !s.isCti x.src x.bytes && eget (classify x.src x.xgem x.bytes s).1 rFMODE == 1 then 3 else 2

/-- The oldest packet of the requester whose turn it is passes a pipe. -/
def lookupPass (cti : CtiMsg) (s : State) : State :=
  let q := s.lkTurn
  match s.lookups.find? (fun x => x.src == q.1) with
  | none => s
  | some x =>
    let s1 : State := { s with lookups := s.lookups.eraseP (fun y => y.src == q.1),
                               lk := { s.lk with turn := q.1, credit := q.2 - s.lkCost x } }
    let s2 := lookupOne x cti s1
    { s2 with lk := { s2.lk with moved := [] } }

/-! ### Table writes of the streams (R391) -/

/-- WRITE of a stream (R391). -/
def strmWrite (i : Nat) (d : Entry) (s : State) : Nat × State :=
  let bad := decide (47 < eget d sPORT) || (eget d sDIR == 0 && eget d sQA == eget d sQB) ||
    (eget d sDIR == 1 && (decide (eget d sHIST < 2) || decide (1024 < eget d sHIST) || eget d sRESETMS == 0))
  if bad then (7, s.cfgRej pgUL)
  else
    let old := s.strm i
    let start := eget d sEN == 1 && eget old sEN == 0
    let e := ewPut (ewPut (ewPut old 0 (ew d 0)) 1 (ew d 1)) 2 (ew d 2)
    let clr (e : Entry) : Entry := (List.range 6).foldl (fun e k => ewPut e (4 + k) 0) e
    let e1 := if eget d sCLR = 1 ∨ start = true then clr e else e
    let e2 := if start then eput e1 sSEQ 0 else e1
    (0, if start then (s.setEnt pgUL 0 i e2).setRcv i {} else s.setEnt pgUL 0 i e2)

/-! ### Meanings -/

def execLookupPass (cti : CtiMsg) (t : Nat) (s : State) : Res := .next (lookupPass cti (s.at t))
def execLearn (t : Nat) (s : State) : Res := .next (learn (s.at t))
def execMacMoveStorm (t : Nat) (s : State) : Res := .next (macMoveStorm (s.at t))
def execFreezeExpiry (src : Fin 64) (t : Nat) (s : State) : Res := .next (freezeExpiry src.val (s.at t))
def execElimReset (stream : Fin 4096) (t : Nat) (s : State) : Res := .next (elimTimeout stream.val (s.at t))
def execUlElimOverrun (stream : Fin 4096) (t : Nat) (s : State) : Res := .next (elimOverrun stream.val (s.at t))

end Sys2Proof.Machine
end

