-- ==== Sys2Proof/Machine/Egress.lean ====
section
/-! DEFINITION. Packets leave the traffic manager: to a port engine's encapsulator, or on an uplink with its one-step
rewrite (R95, R214, R217, R245, R246, R262 to R265, R317, R356, R392). -/

namespace Sys2Proof.Machine

/-! ### One-step rewriting (R246) -/

/-- Where a PTP message starts in a packet: after its ethertype, or in UDP with the offset of the UDP header. -/
def ptpAt (d : List Byte) : Option (Nat × Option Nat) :=
  let p := parse d
  if p.etype = 0x88F7 then some (p.l3, none)
  else if (p.ip4 ∨ p.ip6) ∧ ipProto d p = 17 then (l4At d p).map (fun o => (o + 8, some o))
  else none

/-- Replace an even number of bytes at an even offset of a UDP datagram, and update its checksum word by word; a checksum
of 0 over IPv4 stays 0. -/
def udpFix (ip4 : Bool) (u o : Nat) (new : List Byte) (d : List Byte) : List Byte :=
  let c := beNat ((d.drop (u + 6)).take 2)
  let d1 := patch d o new
  if ip4 && c == 0 then d1
  else
    let words := List.range (new.length / 2)
    let c' := words.foldl (fun c i =>
      cksumUpdate c (beNat ((d.drop (o + 2 * i)).take 2)) (beNat ((new.drop (2 * i)).take 2))) c
    patch d1 (u + 6) (beBytes 2 (if c' = 0 then 0xFFFF else c'))

/-- A timestamp in 1/64 ns. -/
def Stamp.units (x : Stamp) : Nat := (x.sec * 1000000000 + x.ns) * 64 + x.frac

/-- The rewritten packet, none where it is skipped. `op` 1 is ORIGIN, 2 CORR. -/
def oneStep (op : Nat) (egress : Stamp) (ingress : Option Stamp) (d : List Byte) : Option (List Byte) :=
  match ptpAt d with
  | none => none
  | some (m, udp) =>
    let ty := beNat ((d.drop m).take 1) % 16
    let put (o : Nat) (new : List Byte) : List Byte :=
      let b := d.take (d.length - 4)
      let b1 := match udp with
        | none => patch b o new
        | some u => udpFix (parse d).ip4 u o new b
      b1 ++ fcs b1
    if op = 1 then
      (if ty = 0 then some (put (m + 34) (beBytes 6 egress.sec ++ beBytes 4 egress.ns)) else some d)
    else
      match ingress with
      | none => some d
      | some i =>
        if i.epoch ≠ egress.epoch then none
        else if 4 ≤ ty then some d
        else
          let old := toSigned 64 (beNat ((d.drop (m + 8)).take 8))
          let diff : Int := ((egress.units : Int) - (i.units : Int)) * 1024
          some (put (m + 8) (beBytes 8 (ofSigned 64 (old + diff))))

/-- Lane-group statistics (R392): word `w` wraps. -/
def ulStat (g w : Nat) (sat : Bool) (k : Nat) (s : State) : State :=
  let e := s.ent pgUL 1 g
  s.setEnt pgUL 1 g (ewPut e w (if sat then min (ew e w + k) (2 ^ 32 - 1) else ew e w + k))

def ulStat2 (g w k : Nat) (s : State) : State :=
  let e := s.ent pgUL 1 g
  s.setEnt pgUL 1 g (ew2Put e w (ew2 e w + k))

/-- From the dequeue to the end of the start-frame delimiter at the ball, in parts of a nanosecond (R245): the lane's latency and the 64
bits of the preamble. -/
def State.ulEgress (s : State) (g : Nat) : Int :=
  ulnTxLatency (s.get (pgLN (96 + g)) F.LN_CFG_RATE) * tbUnit / 10 + ((64 * tbUnit / max 1 (s.groupRate g) : Nat) : Int)

/-- The packet behind a handle leaves on lane group `g`. -/
def ulSend (g h : Nat) (s : State) : State :=
  let req := 48 + g
  if s.pktPoisoned h then dropRef h req s
  else
    let p := s.pktAt h
    let lat := s.ulEgress g
    let out : List Byte × State := match p.oneStep with
      | none => (p.bytes, s)
      | some (op, tb) =>
        match oneStep op (s.stampAt tb lat) p.ingress[tb]? p.bytes with
        | some d => (d, s)
        | none => (p.bytes, s.incSat pgTE F.TE_1STEP_SKIP_COUNT)
    let s1 := out.2.emit (.uplink g out.1)
    let s2 := ulStat2 g 4 out.1.length (ulStat g 3 false 1 s1)
    let x := s2.stampAt (eget (ringEnt s2 242) RF.TB) lat
    sentRef h req (injMark h (fun i => { i with uplinks := i.uplinks + 1, stamp := x }) s2)

/-! ### Gates (R262 to R264) -/

/-- Queues of a tree. -/
def State.treeQueues (s : State) (tree : Nat) : List Nat :=
  let tid := if tree < 48 then 0 else 4
  let root := if tree < 48 then tree else tree - 48
  ((s.rows pTM tid).filter (fun p => eget p.2 nVALID == 1 && s.rootOf tid p.1 == root)).map (fun p => p.1)

/-- Is a head packet longer than MAXWIN of its class (R264)? -/
def State.isOversize (s : State) (tree tid q : Nat) (p : QPkt) : Bool :=
  s.glOn tree && s.bit (pgGL tree) F.GT_STATUS_OPER &&
    let w := s.get (pgGL tree) (F.GT_MAXWIN_NS.ix (s.nget tid q nTCLS))
    w != 0xFFFFFFFF && decide (w * tbUnit < (s.txSpan tree p.len p.charged).2)

/-- The head packet of a queue meets its gate: held packets count once, and an oversize one is noted. -/
def gateHead (tree tid q : Nat) (s : State) : State :=
  let x := s.tmq tid q
  match x.pkts with
  | [] => s
  | p :: r =>
    let excess := s.isOversize tree tid q p
    let shut := !s.classOpenAt tree (s.nget tid q nTCLS) (s.txSpan tree p.len p.charged)
    let o := if !excess then none else match p.oversize with | some v => some v | none => some (s.glStarts tree)
    let s1 := s.setTmq tid q { x with pkts := { p with held := p.held || shut, oversize := o } :: r }
    if shut && !p.held then s1.bump (pgGL tree) C.GT_HELD else s1

/-- An oversize head packet has been held for HOLD_LIMIT cycle starts. -/
def gtOversize (tree q : Nat) (s0 : State) : State :=
  let tid := if tree < 48 then 0 else 4
  let root := if tree < 48 then tree else tree - 48
  let s := if s0.nodeValid tid q && s0.rootOf tid q == root then gateHead tree tid q s0 else s0
  if !(s.nodeValid tid q && s.rootOf tid q == root && s.glExists tree) then s
  else
    match (s.tmq tid q).pkts with
    | [] => s
    | p :: _ =>
      match p.oversize with
      | none => s
      | some a =>
        if s.get (pgGL tree) F.GT_CFG_HOLD_LIMIT + a ≤ s.glStarts tree then
          dropRef p.handle 64 ((popQueue tid q s).bump (pgGL tree) C.GT_OVERSIZE)
        else s

/-! ### TM_DEQUEUE (R214) -/

/-- Hand a packet over to its egress engine (R317, R356); copies were shared at enqueue. -/
def handOver (h eng : Nat) (s : State) : State :=
  if hbits (s.hdr h) 53 47 = 64 then (if (s.injOf h).isSome then share h 2 65 64 s else share h 1 eng 64 s) else s

/-- A packet reaches the encapsulator of port `n`, or is discarded (R95). -/
def toEncap (n h xgem len : Nat) (s : State) : State :=
  if s.get (pe0 n) F.PE_DS_CFG_MAX_PKT < len then dropRef h n (s.bump (pgPE n 1) C.DS_OVERSIZE)
  else if s.pktPoisoned h then dropRef h n (s.bump (pgPE n 1) C.DS_POISON)
  else s.modPe n (fun p => { p with enc := p.enc ++ [{ handle := some h, xgem := xgem, len := len }] })

/-- The XGEM port of a queue carries its packets now (R217). -/
def State.xgemOpen (s : State) (n id : Nat) : Bool :=
  match s.findXgem n id with
  | none => false
  | some (_, e) => eget e xDS == 1 && (eget e xBCAST == 1 || s.permits n (eget e xONU) (eget e xOMCC == 1))

/-- The tree is served (R210): its port engine runs, or its lane group exists and is up. -/
def State.treeServed (s : State) (tree : Nat) : Bool :=
  s.en pTM && (if tree < 48 then s.peUp tree && !s.quiescing (pe0 tree) else s.en pgUL && !s.quiescing pgUL && s.groupExists (tree - 48) && s.bit pgUL (F.UL_GRP_UP.ix (tree - 48)))

/-- One request of the engine behind a tree. -/
def tmDequeue (tree : Nat) (s0 : State) : State :=
  if !s0.treeServed tree then s0
  else
    let down := decide (tree < 48)
    let rt := if down then 3 else 7
    let ri := if down then tree else tree - 48
    let s := (s0.treeQueues tree).foldl (fun s q => gateHead tree (rt - 3) q s) s0
    if !backlogged s tree 3 rt ri then s
    else
      let r := selectPath tree 3 rt ri s
      match r.1 with
      | none => r.2
      | some path =>
        match path.getLast? with
        | none => r.2
        | some (tid, q, _) =>
          match (r.2.tmq tid q).pkts with
          | [] => r.2
          | p :: _ =>
            let cls := r.2.nget tid q nTCLS
            let span := r.2.txSpan tree p.len p.charged
            let stop := ((r.2.glT tree : Int) + span.1).toNat + span.2
            let s1 := ((rt, ri, 2) :: path).foldl (fun s x => chargeNode p.charged x s) r.2
            let s2 := popQueue tid q s1
            let s3 := (s2.setGlist tree { s2.glist tree with flight := some (cls, stop) }).bump pTM (if down then C.TM_DS_DEQ else C.TM_US_DEQ)
            if down then
              let id := s3.nget tid q nXGEM
              if !s3.xgemOpen tree id then dropRef p.handle 64 (s3.bump pTM C.TM_DROP_NOXGEM)
              else
                let s4 := match p.sample with | none => s3 | some x => latSample tid q x s3
                toEncap tree p.handle id p.len (handOver p.handle tree s4)
            else
              let s4 := match p.sample with | none => s3 | some x => latSample tid q x s3
              ulSend ri p.handle (handOver p.handle (48 + ri) s4)

/-- The tree that a port engine or the uplink MAC of a lane group asks: trees 0 to 47 are the ports', 48 to 63 the lane groups'. -/
def treeOf (uplink : Bool) (n : Nat) : Nat := if uplink then 48 + n else n

/-! ### Meanings -/

def execTmDequeue (uplink : Bool) (n : Fin 48) (t : Nat) (s : State) : Res :=
  .next (dfcSettle (tmDequeue (treeOf uplink n.val) (s.at t)))
def execGtOversize (list : Fin 64) (queue : Nat) (t : Nat) (s : State) : Res := .next (gtOversize list.val queue (s.at t))

end Sys2Proof.Machine
end

