-- ==== Sys2Proof/Machine/HostPort.lean ====
section
/-! DEFINITION. Chapter 15, the host port: doorbells, injection, resets of a function, link and levels (R349 to R361). -/

namespace Sys2Proof.Machine

def pHX : Nat := pgHX 0

/-! ### Doorbells (R352) -/

/-- A doorbell write of function `fn` at BAR2 offset `off` for ring `r`. -/
def doorbell (fn r off : Nat) (act : State → State) (s : State) : State :=
  if ringFn s r ≠ fn then s.violation 4 fn true off else act s

/-- The host's new producer index, with the slots it wrote in host memory. -/
def ringProduce (r v : Nat) (slots : List (List Byte)) (s : State) : State :=
  let e := ringEnt s r
  if ringToHost r then s
  else if eget e RF.SIZE ≤ v then ringDrop r s
  else
    let write (m : SMap Byte) (p : List Byte × Nat) : SMap Byte :=
      memWrite m (ringBase e + (eget e RF.PIDX + p.2) % max 1 (eget e RF.SIZE) * eget e RF.SLOT) (p.1.take (eget e RF.SLOT))
    let s1 : State := if eget e RF.LOC = 0 then { s with hostMem := slots.zipIdx.foldl write s.hostMem } else s
    s1.ringPut r RF.PIDX v

/-- The host's new consumer index. -/
def ringConsume (r v : Nat) (s : State) : State :=
  if !ringToHost r then s
  else if eget (ringEnt s r) RF.SIZE ≤ v then ringDrop r s
  else s.ringPut r RF.CIDX v

/-! ### Injection (R355) -/

/-- The queues of an INJECT destination word: none for a bad one. -/
def State.injectDests (s : State) (w : Nat) : Option (List (Nat × Nat)) :=
  let p := destPair w
  if p.1 = 3 then
    if 4095 < p.2 then none
    else
      let q := ((List.range 16).map (fun i => destPair (ew (s.ent pLK 5 p.2) i))).filterMap (queueOf 0)
      if q.isEmpty then none else some q
  else if p.1 = 1 ∧ 65535 < p.2 then none
  else (queueOf 0 p).map (fun q => [q])

/-- The timestamp that header words 4 to 7 spell. -/
def stampOfWords (w : List Nat) : Stamp :=
  let g (i : Nat) : Nat := w.getD i 0
  { sec := g 0 + g 1 % 2 ^ 16 * 2 ^ 32, epoch := g 1 / 2 ^ 16, ns := g 2, frac := g 3 / 2 ^ 26 }

/-- The next INJECT slot. -/
def inject (s0 : State) : State :=
  let x := ringPeek 241 s0
  match x.1 with
  | none => x.2
  | some none => ringStop 241 x.2
  | some (some d) =>
    let room := eget (ringEnt x.2 241) RF.SLOT - 32
    let s := ringTake 241 x.2
    let w0 := slotWord d 0
    let w2 := slotWord d 2
    let os := fld w2 30 29
    let cookie : Word := BitVec.ofNat 32 (slotWord d 3)
    let ok := decide (w0 / 2 ^ 28 = 6 ∧ 60 ≤ slotLen d ∧ slotLen d ≤ room ∧ os ≠ 3 ∧ fld w2 1 0 ≠ 3)
    match ok, s.injectDests (slotWord d 1) with
    | true, some q =>
      let b := slotData d
      let ts := stampOfWords [slotWord d 4, slotWord d 5, slotWord d 6, slotWord d 7]
      let p : Pkt := { bytes := b ++ fcs b, charge := 65, colour := fld w2 1 0,
                       oneStep := if os = 0 then none else some (os, fld w2 28 26), ingress := List.replicate 8 ts }
      let o : Offer := { pkt := p, dests := q, inj := some (cookie, fld w2 31 31 == 1) }
      if s.en pTM && !s.quiescing pTM then tmEnqueue o s else tmRefuse o s
    | _, _ => injCpl s.hx.injGen 4 0 cookie {} s

/-! ### Function reset, power state and link (R349, R358, R359) -/

/-- EN of a ring goes to 0: what was not consumed is abandoned (R357). -/
def ringOff (r : Nat) (s : State) : State :=
  let s1 := if eget (ringEnt s r) RF.EN = 1 then s.ringPut r RF.EN 0 else s
  if r = 241 then { s1 with hx := { s1.hx with injGen := s1.hx.injGen + 1 } } else s1

def flr (fn : Nat) (s : State) : State :=
  let s1 := ((List.range 244).filter (fun r => ringFn s r == fn)).foldl (fun s r => ringOff r s) s
  forN 512 (fun v s => s.setVec fn v { s.vec fn v with masked := true, pba := false }) s1

def hxLinkDown (s : State) : State := (s.putBit pHX F.HX_LINK_UP false).levelTo pHX 0 true

def hxLinkUp (cxl : Bool) (width speed : Nat) (s : State) : State :=
  ((((s.putBit pHX F.HX_LINK_UP true).putBit pHX F.HX_LINK_CXL cxl).put pHX F.HX_LINK_WIDTH width).put pHX
    F.HX_LINK_SPEED speed).levelTo pHX 0 false

/-- DMA of ring `r` ended in error. -/
def ringDmaError (r : Nat) (s : State) : State :=
  if eget (ringEnt s r) RF.EN = 1 then ringStop r s else s

/-! ### Levels (R360, R241) -/

/-- HX_LEVEL.CUR follows DRV. -/
def levelAct (s : State) : State :=
  let drv := s.get pHX F.HX_LEVEL_DRV
  let cur := min drv (s.get pHX F.HX_LEVEL_MAX)
  if drv = 0 ∨ cur = s.level then s
  else (forN 8 tbStat (State.settle s (s.put pHX F.HX_LEVEL_CUR cur))).raise pHX 1

/-! ### The MSI-X table (R64, R350) -/

/-- A write of a vector's mask bit. -/
def msixMask (fn v : Nat) (m : Bool) (s : State) : State :=
  let x := s.vec fn v
  if m then s.setVec fn v { x with masked := true }
  else
    let s1 := s.setVec fn v { x with masked := false, pba := false }
    if x.pba then s1.message (fn, v) else s1

/-- The gap of a vector has passed: a message held back is sent if the vector is still asserted. -/
def gapExpiry (fn v : Nat) (s : State) : State :=
  let x := s.vec fn v
  let s1 := s.setVec fn v { x with gapRunning := false, held := false }
  if x.gapRunning && x.held && s.assertedVecs.contains (fn, v) then s1.message (fn, v) else s1

/-! ### Meanings -/

/-- A read of the device's own index at BAR2 offset 16 × r + 8: 0 and a world violation from the other world (R352). -/
def indexRead (fn r : Nat) (s : State) : State :=
  let e := ringEnt s r
  if ringFn s r ≠ fn then (s.violation 4 fn false (16 * r + 8)).emit (.readData fn (16 * r + 8) 0)
  else s.emit (.readData fn (16 * r + 8) (BitVec.ofNat 32 (eget e (if ringToHost r then RF.PIDX else RF.CIDX))))

/-- A write of PIDX, with the slots the host wrote before it; without a word, a read of the device's index of the ring. -/
def execRingDoorbell (fn : Fn) (ring : Fin 244) (w : Option Word) (slots : List (List Byte)) (s : State) : Res :=
  .next (match w with
    | some v => doorbell fn.val ring.val (16 * ring.val) (ringProduce ring.val v.toNat slots) s
    | none => indexRead fn.val ring.val s)

def execRingCidxWrite (fn : Fn) (ring : Fin 244) (w : Word) (s : State) : Res :=
  .next (doorbell fn.val ring.val (16 * ring.val + 4) (ringConsume ring.val w.toNat) s)

def execInject (t : Nat) (s : State) : Res := .next (inject (s.at t))

def execFlr (fn : Fn) (s : State) : Res := .next (flr fn.val s)

def execD3hot (fn : Fn) (d3 : Bool) (s : State) : Res :=
  let bit := 2 ^ fn.val
  .next { s with hx := { s.hx with d3 := if d3 then s.hx.d3 ||| bit else s.hx.d3 &&& (3 - bit) } }

def execHxLinkDown (s : State) : Res := .next (hxLinkDown s)

def execHxLinkUp (cxl : Bool) (width : BitVec 4) (speed : BitVec 4) (s : State) : Res :=
  .next (hxLinkUp cxl width.toNat speed.toNat s)

def execRingDmaError (ring : Fin 244) (s : State) : Res := .next (ringDmaError ring.val s)

/-- HX_LEVEL is written; a DRV of 0 changes nothing (R360, log entry 118). -/
def execHxLevelSet (fn : Fn) (w : Word) (s : State) : Res :=
  .next (if fld w.toNat 3 0 = 0 then s.access fn.val (pHX + 0x0C4) (fun _ _ s => s)
    else s.hostWrite fn.val (pHX + 0x0C4) w (fun s ok => s.when ok levelAct))

def execMsixMask (fn : Fn) (vec : Fin 512) (masked : Bool) (s : State) : Res := .next (msixMask fn.val vec.val masked s)

def execMsixGapExpiry (fn : Fn) (vec : Fin 512) (s : State) : Res := .next (gapExpiry fn.val vec.val s)

end Sys2Proof.Machine
end

