-- ==== Sys2Proof/Machine/MemPort.lean ====
section
/-! DEFINITION. Chapter 15, the CXL memory port: bring-up, aperture, IDE and DOE (R362 to R370, R374). -/

namespace Sys2Proof.Machine

def pMX : Nat := pgMX 0
def pMX1 : Nat := pgMX 1

/-- The bring-up starts (R363): the link is not up yet. -/
def mxStart (s : State) : State :=
  ({ s with mx := { s.mx with training := true } } : State).levelTo pMX 0 true

/-- The bring-up or a retraining ends: with the device's capacity in GiB, or without a device. -/
def mxLinkUp (dev : Option (Nat × Bool × Nat)) (s : State) : State :=
  if !s.mx.training || !s.en pMX then s
  else
    let s1 : State := { s with mx := { s.mx with training := false } }
    match dev with
    | none => (s1.putBit pMX F.ST_FAULT true).levelTo pMX 0 true
    | some (gib, sw, width) =>
      let s2 := ((s1.put pMX F.MX_WIN_SIZE (min gib (s.get pMX F.MX_WIN_LIMIT))).putBit pMX F.MX_LINK_SWITCH sw).put pMX F.MX_LINK_WIDTH width
      let s3 := ((s2.putBit pMX F.MX_LINK_UP true).putBit pMX F.ST_FAULT false).putBit pMX F.ST_READY true
      (s3.putBit pMX1 F.MX_IDE_STAT_SECURE (s3.bit pMX1 F.MX_IDE_CTRL_EN && !s3.mx.stopped)).levelTo pMX 0 false

def mxLinkDown (s : State) : State :=
  if s.bit pMX F.MX_LINK_UP then
    ((s.putBit pMX F.MX_LINK_UP false).putBit pMX1 F.MX_IDE_STAT_SECURE false).levelTo pMX 0 true
  else s

/-- 100 ms have passed with the link down. -/
def mxRetrain (s : State) : State :=
  if s.en pMX && s.raw pMX 0 then { s with mx := { s.mx with training := true } } else s

/-- Software has run the IDE_KM exchange and loaded the key (R368, R478). DESIGN CHOICE (log entry 154): the key is drawn, for the spec
gives no register that it goes through. -/
def ideKey (s : State) : State :=
  let d := s.draw
  { d.2 with sc := { d.2.sc with ide := d.1 + 1 } }

/-- MX_IDE_CTRL.EN takes effect (R368); an EN without a key held is set after an exchange. -/
def ideAct (s : State) : State :=
  let s1 := s.when (s.bit pMX1 F.MX_IDE_CTRL_EN && s.sc.ide == 0) ideKey
  s1.putBit pMX1 F.MX_IDE_STAT_SECURE (s1.bit pMX1 F.MX_IDE_CTRL_EN && s1.bit pMX F.MX_LINK_UP && !s1.mx.stopped)

/-- An integrity failure. -/
def ideFail (s : State) : State :=
  if s.bit pMX1 F.MX_IDE_STAT_SECURE then
    let s1 : State := { s with mx := { s.mx with stopped := true } }
    ((s1.putBit pMX1 F.MX_IDE_STAT_FAILED true).putBit pMX1 F.MX_IDE_STAT_SECURE false).raise pMX 1
  else s

/-- RESUME, which recovers after a complete re-key. -/
def ideResume (rekeyed : Bool) (s : State) : State :=
  if s.mx.stopped && rekeyed then
    ideAct (((ideKey { s with mx := { s.mx with stopped := false } }).putBit pMX1 F.MX_IDE_STAT_FAILED false).recovered pMX 1)
  else s

/-! ### The aperture (R370) -/

def apEn (fn : Nat) : Nat × Fld := if fn = 0 then (pgHX 0, F.HX_APER0_EN) else (pgHX 2, F.HX_APER1_EN)
def apBase (fn : Nat) : Nat × Fld := if fn = 0 then (pgHX 0, F.HX_APER0_BASE) else (pgHX 2, F.HX_APER1_BASE)

/-- A codeword of the CXL window read in error (R42): corrected and counted, or uncorrectable from here on. -/
def mxFinding (a n : Nat) (s : State) (f : EccFinding) : State :=
  if f.place ≠ 3 ∨ f.idx.toNat < a / 16 ∨ (a + n + 15) / 16 ≤ f.idx.toNat ∨ s.mx.bad.contains f.idx.toNat then s
  else
    match eccVerdict f with
    | none => s
    | some false => eccCorrected 8 s
    | some true => { s with mx := { s.mx with bad := f.idx.toNat :: s.mx.bad } }

/-- One access at BAR4 offset `x`: data written, or `n` bytes read, in which `found` are in error and which the device returns poisoned
where `poison` says so (R369). An uncorrectable codeword reads as all ones; what an access with EN = 0 reads is open. -/
def aperture (fn x : Nat) (wr : Option (List Byte)) (n : Nat) (found : List EccFinding) (poison : Bool) (s : State) : State :=
  let a := s.get (apBase fn).1 (apBase fn).2 * 2 ^ 28 + x
  let sec := decide (fn = 0)
  let ones : List Byte := List.replicate n 0xFF
  if !s.bit (apEn fn).1 (apEn fn).2 then
    match wr with
    | some _ => s
    | none =>
      let d := s.draw
      d.2.emit (.aperture fn x (some ((List.range n).map (fun i => BitVec.ofNat 8 (d.1 / 256 ^ i)))))
  else
    match wr with
    | some d => mxWrite sec true a d s
    | none =>
      let ok := s.mxUp && s.mxCheck sec true false a n == 0
      let s1 := if ok then found.foldl (mxFinding a n) s else s
      let hurt := !(s1.mxBad a n).isEmpty
      let r := mxRead sec true a n s1
      if !s.mxUp || (ok && hurt) then r.2.emit (.aperture fn x (some ones))
      else if ok && poison then ((eccUncorrectable 8 3 (a / 16) r.2).bump pMX C.MX_POISON_RX).emit (.aperture fn x (some ones))
      else r.2.emit (.aperture fn x r.1)

/-! ### The DOE mailbox (R374) -/

/-- GO: the message written is sent, unless an exchange runs or the port takes no new work (R49). -/
def doeGo (s : State) : State :=
  if s.bit pMX1 F.MX_DOE_CTRL_BUSY || s.quiescing pMX then s
  else
    let s1 : State := { s with mx := { s.mx with doeReq := [], doeReply := [] } }
    ((s1.putBit pMX1 F.MX_DOE_CTRL_BUSY true).put pMX1 F.MX_DOE_CTRL_RLEN 0).emit (.doe s.mx.doeReq)

/-- The reply, or none where the device reported an error or 1 s passed. -/
def doeReply (r : Option (List Word)) (s : State) : State :=
  if !s.bit pMX1 F.MX_DOE_CTRL_BUSY then s
  else
    let s1 := s.putBit pMX1 F.MX_DOE_CTRL_BUSY false
    match r with
    | none => s1.putBit pMX1 F.MX_DOE_CTRL_ERR true
    | some w =>
      ({ s1 with mx := { s1.mx with doeReply := w } } : State).put pMX1 F.MX_DOE_CTRL_RLEN w.length

/-- A read of MX_DOE_RD has returned the next reply word. -/
def doeTake (s : State) : State := { s with mx := { s.mx with doeReply := s.mx.doeReply.tail } }

/-! ### Meanings -/

def execMxLinkUp (found : Bool) (gib : BitVec 11) (switch : Bool) (width : BitVec 5) (s : State) : Res :=
  .next (mxLinkUp (if found then some (gib.toNat, switch, width.toNat) else none) s)

def execMxLinkDown (s : State) : Res := .next (mxLinkDown s)

def execMxRetrain (s : State) : Res := .next (mxRetrain s)

def execApertureAccess (fn : Fn) (off : BitVec 28) (write : Option (List Byte)) (n : Nat) (found : List EccFinding) (poison : Bool) (s : State) : Res :=
  .next (aperture fn.val off.toNat write n found poison s)

def execMxIdeFail (s : State) : Res := .next (ideFail s)

def execResume (fn : Fn) (w : Word) (rekeyed : Bool) (s : State) : Res :=
  .next (s.hostWrite fn.val (pMX1 + 0x0C0) (w ||| maskBit 30) (fun s ok => ideResume rekeyed (s.when ok ideAct)))

def execDoeGo (fn : Fn) (w : Word) (s : State) : Res :=
  .next (s.hostWrite fn.val (pMX1 + 0x0C8) (w ||| maskBit 31) (fun s _ => doeGo s))

def execDoeReply (reply : Option (List Word)) (s : State) : Res := .next (doeReply reply s)

end Sys2Proof.Machine
end

