-- ==== Sys2Proof/Machine/Uplink.lean ====
section
/-! DEFINITION. Chapter 16, the uplink lane groups (R375 to R378, R392, R396). -/

namespace Sys2Proof.Machine

/-- A received packet, frame check sequence included. -/
def ulReceive (g : Nat) (d : List Byte) (s : State) : State :=
  if !(s.en pgUL && !s.bit pgUL F.PAGE_QUIESCE && s.groupExists g && s.bit pgUL (F.UL_GRP_UP.ix g)) then s
  else if d.drop (d.length - 4) ≠ fcs (d.take (d.length - 4)) then ulStat g 6 true 1 s
  else if fieldZ d 12 2 = 0x8808 then ulStat g 8 true 1 s
  else if d.length < 64 ∨ s.get pgUL (F.UL_GRP_MAX_PKT.ix g) < d.length then ulStat g 7 true 1 s
  else
    match s.ceMatch d with
    | some c => if s.bit pgCE F.PAGE_QUIESCE then s else { s with ce := { s.ce with inq := s.ce.inq ++ [(c, d)] } }
    | none =>
      let s1 := ulStat2 g 1 d.length (ulStat g 0 false 1 s)
      let lat := ulnRxLatency (s.get (pgLN (96 + g)) F.LN_CFG_RATE)
      lkArrive { src := 48 + g, bytes := d, stamps := (List.range 8).map (fun k => s1.stamp k lat) } s1

/-- FEC codewords of a group since its last packet. -/
def ulFec (g corr bad : Nat) (s : State) : State := ulStat g 10 true bad (ulStat g 9 false corr s)

/-- Every lane of the group is LOCKED (R377). -/
def State.groupLocked (s : State) (g : Nat) : Bool :=
  (List.range (2 ^ s.get pgUL (F.UL_GRP_WIDTH.ix g))).all (fun k => s.get (pgLN (96 + g + k)) F.LN_STATUS_STATE == 2)

/-! ### Meanings -/

def execUlRxPacket (group : Fin 16) (bytes : List Byte) (fecCorr fecBad : Nat) (t : Nat) (s : State) : Res :=
  .next (ulReceive group.val bytes (ulFec group.val fecCorr fecBad (s.at t)))

def execUlLinkDown (group : Fin 16) (s : State) : Res := .next (ulLink group.val false s)

def execUlLinkUp (group : Fin 16) (s : State) : Res :=
  .next (if s.groupExists group.val && s.groupLocked group.val then ulLink group.val true s else s)

end Sys2Proof.Machine
end

