-- ==== Sys2Proof/Machine/Banks.lean ====
section
/-! DEFINITION. Chapter 20, the retention banks: what each holds, saving and restoring (R463 to R465, R343, R477, R483). -/

namespace Sys2Proof.Machine

/-- The bank that keeps a register word and the bits it keeps (R463, R488): (8, 0) for a word no bank keeps. -/
def bankOf (k : PKind) (off : Nat) : Nat × Nat :=
  let all := 0xFFFFFFFF
  if off = 0x020 then (if (fixedOf k).isNone then (5, 1) else (8, 0))
  else
    match k with
    | .dv => if off = 0x140 then (0, 0xFFF) else if off = 0x148 then (0, 0x0FFFFFF0)
             else if off = 0x14C ∨ off = 0x180 then (0, all) else (8, 0)
    | .hx 0 => if off = 0x0C4 then (0, 0xF) else if 0x0D0 ≤ off ∧ off < 0x0F0 then (0, all) else (8, 0)
    | .ln => if off = 0x008 then (1, 1) else if off = 0x040 ∨ off = 0x044 ∨ off = 0x048 ∨ off = 0x050 ∨ off = 0x054 then (1, all)
             else (8, 0)
    | .dm 0 => if off = 0x0C4 ∨ off = 0x0C8 ∨ (0x0D0 ≤ off ∧ off < 0x100) ∨ off = 0x108 ∨ off = 0x118 ∨ off = 0x120 then (2, all)
               else (8, 0)
    | .dm p => if 2 ≤ p ∧ 0x040 ≤ off ∧ off < 0x04C then (p, all) else (8, 0)
    | .tb => if off = 0x06C ∨ off = 0x070 ∨ off = 0x074 ∨ off = 0x080 then (4, all) else (8, 0)
    | .te => if off = 0x0C8 ∨ off = 0x0CC then (4, 0xC0000000) else if off = 0x0D0 ∨ (0x0D8 ≤ off ∧ off < 0x0F4) then (4, all)
             else (8, 0)
    | .sc => if off = 0x0C8 ∨ off = 0x0CC ∨ off = 0x0D0 then (5, all) else (8, 0)
    | .px => if off = 0x040 ∨ off = 0x044 ∨ off = 0x048 ∨ off = 0x04C ∨ (0x06C ≤ off ∧ off < 0x078) ∨ off = 0x07C ∨ 0x100 ≤ off
             then (6, all) else if off = 0x050 then (6, 0xFF) else (8, 0)
    | .mx 0 => if off = 0x008 then (6, 1) else if off = 0x0C4 then (6, 0x07FF0000) else (8, 0)
    | .ps => if off = 0x040 then (7, all) else (8, 0)
    | .pm => if off = 0x0C0 ∨ off = 0x0CC ∨ off = 0x0D4 ∨ off = 0x0D8 then (7, all) else (8, 0)
    | .pmg => if 0x200 ≤ off ∧ (off % 64 = 0x18 ∨ off % 64 = 0x1C ∨ off % 64 = 0x2C) then (7, all) else (8, 0)
    | _ => (8, 0)

/-- The bank of a register address, with the bits it keeps. -/
def bankAt (a : Nat) : Nat × Nat :=
  match pageOf a with
  | none => (8, 0)
  | some (k, _) => bankOf k (a % 4096)

/-- The bank of a table entry: DRAM regions in bank 5, MX regions in bank 6. -/
def bankTab (key : Nat) : Nat :=
  if key / 2 ^ 24 = pgSC / 4096 * 16 then 5 else if key / 2 ^ 24 = pgMX 1 / 4096 * 16 then 6 else 8

/-- What a bank keeps beside registers and entries: trained values and finished steps of a point, RATE and epoch of the
time bases, the pair key and the IDE key. -/
def State.bankNums (s : State) (b : Nat) : SMap Nat :=
  if b = 2 ∨ b = 3 then
    let p := b - 2
    let l := skeep (fun k => decide (k / 8 = p)) s.dm.trained
    sset 0 l 100 (s.dm.done / 2 ^ (8 * p) % 256)
  else if b = 4 then
    (List.range 8).foldl (fun m n => sset 0 (sset 0 m (2 * n) (ofSigned 48 (s.tb n).rate)) (2 * n + 1) (s.tb n).epoch) []
  else if b = 5 then sset 0 (sset 0 [] 0 s.sc.pair) 1 s.sc.ide
  else []

/-- Write bank `b` with its signature. -/
def saveBank (b : Nat) (s : State) : State :=
  let x : Bank :=
    { seq := s.get pgPW F.PW_RET_SEQ_SEQ,
      regs := (s.regs.filter (fun p => (bankAt p.1).1 == b)).map (fun p => (p.1, BitVec.ofNat 32 (p.2.toNat &&& (bankAt p.1).2))),
      tabs := s.tabs.filter (fun p => bankTab p.1 == b),
      nums := s.bankNums b }
  { s with pw := { s.pw with banks := sset none s.pw.banks b (some x) } }

/-- The restored word: the bits the bank keeps, the rest as it is. -/
def State.bankReg (s : State) (a : Nat) (w : Word) : State :=
  s.setReg a (BitVec.ofNat 32 (candidate (bankAt a).2 (s.reg a).toNat w.toNat))

/-- The table entry at a key of the entry map. -/
def State.putKey (s : State) (k : Nat) (e : Entry) : State := { s with tabs := sset (entReset k) s.tabs k e }

/-- The trained values of point `p` and the steps completed there (R463). -/
def bankDm (p : Nat) (x : Bank) (s : State) : State :=
  let done := sget 0 x.nums 100
  ({ s with dm := { s.dm with trained := (x.nums.filter (fun q => decide (q.1 < 100))).foldl (fun m q => sset 0 m q.1 q.2) s.dm.trained,
                              done := s.dm.done ||| done * 2 ^ (8 * p) } } : State).putBit (pgDM 0)
    (if p = 0 then F.DM_TRAIN_STAT_VALID0 else F.DM_TRAIN_STAT_VALID1) (done / 2 % 16 == 15)

/-- The pair key, and what follows from it (R463, R480). -/
def bankPair (k : Nat) (s : State) : State :=
  let s1 : State := { s with sc := { s.sc with pair := k } }
  if k = 0 then s1
  else (s1.putBit pgSC F.SC_PAIR_STAT_VALID true).put pgSC F.SC_PAIR_KCV_KCV (Config.aesKcv (BitVec.ofNat 256 (k - 1))).toNat

/-- Restore the values of a bank that passed. -/
def loadBank (b : Nat) (x : Bank) (s : State) : State :=
  let s1 := x.regs.foldl (fun s p => s.bankReg p.1 p.2) s
  let s2 := x.tabs.foldl (fun s p => s.putKey p.1 p.2) s1
  if b = 2 ∨ b = 3 then bankDm (b - 2) x s2
  else if b = 4 then
    forN 8 (fun n s => s.setTb n { s.tb n with rate := toSigned 48 (sget 0 x.nums (2 * n)), epoch := sget 0 x.nums (2 * n + 1) }) s2
  else if b = 5 then bankPair (sget 0 x.nums 0) { s2 with sc := { s2.sc with ide := sget 0 x.nums 1 } }
  else s2

/-- Every page address. -/
def allPages : List Nat := (List.range 0xE00).filter (fun p => (pageNo p).isSome)

/-- Does page `pg` hold a register of bank `b`? -/
def pageInBank (b pg : Nat) : Bool :=
  match pageOf pg with
  | none => false
  | some (k, _) =>
    (b == 5 && decide (pg = pgSC)) || (b == 6 && decide (pg = pgMX 1)) ||
      (List.range 0x140).any (fun i => (bankOf k (4 * i)).1 == b)

/-- NOT_RESTORED on the pages of a bank. -/
def notRestored (b : Nat) (v : Bool) (s : State) : State :=
  ((allPages.map (fun p => 4096 * p)).filter (pageInBank b)).foldl (fun s pg => s.putBit pg F.ST_NOT_RESTORED v) s

/-- Check and restore bank `b`, whose codewords hold `ue` an uncorrectable one. The result says whether it failed. -/
def restoreBank (b : Nat) (ue : Bool) (s : State) : State × Bool :=
  match sget none s.pw.banks b with
  | none => (notRestored b true s, true)
  | some x =>
    if ue || x.seq != s.get pgPW F.PW_RET_SEQ_SEQ then (notRestored b true s, true) else (loadBank b x s, false)

/-- Wake step 6 for all banks: `ue` names those with an uncorrectable codeword, `ce` counts corrected ones; a failure
raises PW_RET_FAIL (R464, R465). -/
def restoreBanks (ue ce : Nat) (s : State) : State :=
  let s0 := s.incSat pgPW F.PW_RET_CE_COUNT ce
  let step (x : State × Nat) (b : Nat) : State × Nat :=
    let r := restoreBank b (ue.testBit b) x.1
    (r.1, if r.2 then x.2 + 2 ^ b else x.2)
  let r := (List.range 8).foldl step (s0, 0)
  let s1 := (r.1.put pgPW F.PW_WAKE_STATUS_RET_FAIL r.2).put pgPW F.PW_WAKE_STATUS_RET_DONE (255 - r.2)
  if r.2 = 0 then s1 else s1.raise pgPW 1

/-- RET_FAIL bits written 1 (R465): the bits and NOT_RESTORED clear. -/
def retFailClear (w : Nat) (s : State) : State :=
  let m := fld w 15 8 &&& s.get pgPW F.PW_WAKE_STATUS_RET_FAIL
  let still := s.get pgPW F.PW_WAKE_STATUS_RET_FAIL - m
  let s1 := forN 8 (fun b s => if m.testBit b then notRestored b false s else s) (s.put pgPW F.PW_WAKE_STATUS_RET_FAIL still)
  forN 8 (fun b s => if still.testBit b then notRestored b true s else s) s1

/-- The keys kept in bank 5 are overwritten (R483). -/
def wipeBank5 (s : State) : State :=
  match sget none s.pw.banks 5 with
  | none => s
  | some x => { s with pw := { s.pw with banks := sset none s.pw.banks 5 (some { x with nums := [] }) } }

end Sys2Proof.Machine
end

