-- ==== Sys2Proof/Machine/Dram.lean ====
section
/-! DEFINITION. Chapter 14: the in-package DRAM controller (R326 to R348). -/

namespace Sys2Proof.Machine

def pDM : Nat := pgDM 0
def pDM1 : Nat := pgDM 1

def dpREQS : TF := ⟨0, 31, 0⟩
def dpLATE : TF := ⟨1, 31, 0⟩
def dpDISCARD : TF := ⟨2, 31, 0⟩
def dpMAXLAT : TF := ⟨3, 31, 0⟩
def dpQDEPTH : TF := ⟨4, 9, 0⟩

/-! ### The address map (R326, R327) -/

/-- The pseudo-channel of a data address. -/
def pcOf (a : Nat) : Nat := (a / 2 ^ 8 % 64) ^^^ (a / 2 ^ 14 % 64) ^^^ (a / 2 ^ 20 % 64)

/-- The local address in the pseudo-channel. -/
def localOf (a : Nat) : Nat := a / 2 ^ 14 * 256 + a % 256

/-- The data address of local address `l` in pseudo-channel `pc`: the inverse of the map. -/
def addrOf (pc l : Nat) : Nat := l / 256 * 2 ^ 14 + (pc ^^^ (l / 256 % 64) ^^^ (l / 2 ^ 14 % 64)) * 256 + l % 256

/-- Where a pseudo-channel lies (R326): its stack, its channel, and which of the channel's two it is. -/
def pcStack (pc : Nat) : Nat := pc / 32
def pcChannel (pc : Nat) : Nat := pc % 32 / 2
def pcHalf (pc : Nat) : Nat := pc % 2

/-- Where a data address lies in its pseudo-channel (R327). -/
def columnOf (a : Nat) : Nat := localOf a % 2 ^ 10
def bankIn (a : Nat) : Nat := localOf a / 2 ^ 10 % 4
def bankGroup (a : Nat) : Nat := localOf a / 2 ^ 12 % 4
def rowIn (a : Nat) : Nat := localOf a / 2 ^ 14

/-- The bank of a data address among the 1,024 of the device: 16 in each pseudo-channel. -/
def bankKey (a : Nat) : Nat := 16 * pcOf a + 4 * bankGroup a + bankIn a

/-- 32 to 256 bytes, aligned to 32 bytes, within one granule. -/
def reqFormed (a n : Nat) : Bool :=
  decide (a < 2 ^ 34) && decide (a % 32 = 0) && decide (n % 32 = 0) && decide (32 ≤ n) && decide (a % 256 + n ≤ 256)

/-! ### Worlds (R476) -/

def drBASE : TF := ⟨0, 13, 0⟩
def drLAST : TF := ⟨1, 13, 0⟩
def drEN : TF := ⟨2, 31, 31⟩
def drSEC : TF := ⟨2, 30, 30⟩

/-- The world of a DRAM address: its region's, or DEF_SEC. -/
def State.dramSecure (s : State) (a : Nat) : Bool :=
  match ((s.rows pgSC 0).filter (fun e =>
      eget e.2 drEN == 1 && decide (eget e.2 drBASE ≤ a / 2 ^ 20) && decide (a / 2 ^ 20 ≤ eget e.2 drLAST))).head? with
  | some e => eget e.2 drSEC == 1
  | none => s.bit pgSC F.SC_DRAM_CFG_DEF_SEC

/-! ### The stacks' bytes (R311, R312) -/

/-- The DRAM buffer of an enabled pool that holds a data address. -/
def State.bufAt (s : State) (a : Nat) : Option Nat :=
  if (s.poolOf (dramBase + a / 2048)).isSome then some (dramBase + a / 2048) else none

/-- Which byte of packet `x` stands at data address `a`, in one of its buffers (R312). -/
def State.pktByteAt (s : State) (x a : Nat) : Nat :=
  (s.chain x).idxOf (dramBase + a / 2048) * 2040 + (a % 2048 - 8)

/-- One byte of the stacks: a buffer's first 8 bytes are its header, low byte first (PRESUMED, log entry 152), and the bytes after it
those of the packet in it. -/
def State.dramByte (s : State) (a : Nat) : Byte :=
  match s.bufAt a with
  | none => sget 0 s.dm.mem a
  | some h =>
    if a % 2048 < 8 then BitVec.ofNat 8 (s.hdr h / 256 ^ (a % 2048))
    else
      match s.headOf h with
      | none => sget 0 s.dm.mem a
      | some x => ((s.pktAt x).bytes[s.pktByteAt x a]?).getD (sget 0 s.dm.mem a)

/-- Store one byte. -/
def dramPut (a : Nat) (b : Byte) (s : State) : State :=
  let plain : State := { s with dm := { s.dm with mem := sset 0 s.dm.mem a b } }
  match s.bufAt a with
  | none => plain
  | some h =>
    if a % 2048 < 8 then s.setHbits h (8 * (a % 2048) + 7) (8 * (a % 2048)) b.toNat
    else
      match s.headOf h with
      | none => plain
      | some x =>
        let i := s.pktByteAt x a
        let edit (p : Nat × Pkt) : Nat × Pkt := if p.1 = x then (x, { p.2 with bytes := p.2.bytes.set i b }) else p
        if i < (s.pktAt x).bytes.length then { s with tm := { s.tm with pkts := s.tm.pkts.map edit } } else plain

def dramRead (a n : Nat) (s : State) : List Byte := (List.range n).map (fun i => s.dramByte (a + i))

def dramWrite (a : Nat) (d : List Byte) (s : State) : State := d.zipIdx.foldl (fun s e => dramPut (a + e.2) e.1 s) s

/-! ### Queues (R328, R329, R331) -/

def State.dmQ (s : State) (p : Nat) : List DReq := sget [] s.dm.queues p

/-- Store a port's queue; QDEPTH shows its length. -/
def State.setDmQ (s : State) (p : Nat) (q : List DReq) : State :=
  ({ s with dm := { s.dm with queues := sset [] s.dm.queues p q } } : State).putE pDM1 0 p dpQDEPTH q.length

def dmIncSat (p : Nat) (f : TF) (s : State) : State := s.putE pDM1 0 p f (min (s.getE pDM1 0 p f + 1) (2 ^ 32 - 1))

/-- The packet with head `x` is marked poisoned (R42). -/
def markPkt (x : Nat) (s : State) : State := if isHeadHdr (s.hdr x) then s.setHbits x 31 31 1 else s

/-- A packet write that does not reach the DRAM poisons its packet (R331, R476). -/
def dmPoisonPkt (p : Nat) (h : Option Nat) (s : State) : State :=
  match h with
  | some x => if p = 0 ∨ p = 2 then markPkt x s else s
  | none => s

/-- Data of a request is poisoned: the packet it belongs to, by its handle or by the buffer at its address, is marked (R42, R43). -/
def dmHurt (r : DReq) (s : State) : State :=
  match r.handle with
  | some x => markPkt x s
  | none =>
    match s.bufAt r.addr with
    | none => s
    | some h => match s.headOf h with | none => s | some x => markPkt x s

/-- A write is discarded (R331, R342): counted, and a packet write poisons its packet. -/
def dmDiscard (p : Nat) (h : Option Nat) (s : State) : State := dmPoisonPkt p h (dmIncSat p dpDISCARD s)

/-- The requests are for one pseudo-channel each; does any port hold one for `pc`? -/
def State.pcBusy (s : State) (pc : Nat) : Bool := s.dm.queues.any (fun q => q.2.any (fun r => pcOf r.addr == pc))

/-- A non-secure access to a secure region (R476). -/
def dmViolates (sec : Bool) (a : Nat) (s : State) : Bool := !sec && s.dramSecure a

/-- A request enters its port's queue: its age runs from now (R329). -/
def dmAccept (p : Nat) (r : DReq) (s : State) : State :=
  ({ s with dm := { s.dm with seq := s.dm.seq + 1 } } : State).setDmQ p (s.dmQ p ++ [{ r with since := s.now, seq := s.dm.seq }])

/-- The port takes another request: its queue is not full, and the controller takes new work (R49). -/
def State.dmTakes (s : State) (p : Nat) : Bool := decide ((s.dmQ p).length < 512) && !s.quiescing pDM

/-- A request enters its port's queue, or waits for room; a packet write does not wait, but is discarded (R331). -/
def dmOffer (p : Nat) (r : DReq) (s : State) : State :=
  if s.dmTakes p && (sget [] s.dm.waiting p).isEmpty then dmAccept p r s
  else if (p = 0 ∨ p = 2) ∧ r.data.isSome then dmDiscard p r.handle s
  else { s with dm := { s.dm with waiting := sset [] s.dm.waiting p (sget [] s.dm.waiting p ++ [r]) } }

/-- The first request that waits at a port enters when the port takes it. -/
def dmAdmit (p : Nat) (s : State) : State :=
  match sget [] s.dm.waiting p with
  | [] => s
  | r :: l => if s.dmTakes p then dmAccept p r { s with dm := { s.dm with waiting := sset [] s.dm.waiting p l } } else s

/-- A request reaches its port (R331, R342). -/
def dramRequest (p : Nat) (r : DReq) (s0 : State) : State :=
  let s := dmAdmit p s0
  if dmViolates r.sec r.addr s then
    let s1 := s.violation 2 1 r.data.isSome r.addr
    if r.data.isSome then dmPoisonPkt p r.handle s1 else (dmHurt r s1).emit (.dram p r.addr none)
  else if s.bit pDM F.ST_FAULT && r.data.isSome then dmDiscard p r.handle s
  else dmOffer p r s

/-- The age of a request in nanoseconds. -/
def State.age (s : State) (r : DReq) : Nat := (s.now - r.since) * 3125 / 3888

/-- The urgency of an age for a target in ns (R329). -/
def urgency (age target : Nat) : Nat :=
  if target ≤ age then 3 else if target * 75 ≤ age * 100 then 2 else if target * 50 ≤ age * 100 then 1 else 0

/-- TARGET of a port in ns. -/
def State.dpTarget (s : State) (p : Nat) : Nat := s.get pDM (F.DM_DP_CFG_TARGET.ix p) * 10

/-- The urgency a request of port `p` has reached. -/
def State.urgNow (s : State) (p : Nat) (r : DReq) : Nat := max r.urg (urgency (s.age r) (s.dpTarget p))

def urgencyRaise (p k : Nat) (s : State) : State :=
  match (s.dmQ p)[k]? with
  | none => s
  | some r => s.setDmQ p ((s.dmQ p).set k { r with urg := s.urgNow p r })

/-- A frequency change stops the service (R340). -/
def State.dmStopped (s : State) : Bool := s.bit pDM F.DM_FREQ_STAT_BUSY

/-! ### The order of service (R332 to R334) -/

/-- Two requests share a byte. -/
def DReq.overlaps (x y : DReq) : Bool := decide (x.addr < y.addr + y.len) && decide (y.addr < x.addr + x.len)

/-- A request with its port and its place in the port's queue. -/
abbrev PReq := Nat × Nat × DReq

/-- Put a request into a list that is oldest first. -/
def insertSeq (x : PReq) : List PReq → List PReq
  | [] => [x]
  | y :: r => if x.2.2.seq < y.2.2.seq then x :: y :: r else y :: insertSeq x r

/-- Every request in the queues, oldest first. -/
def State.dmAll (s : State) : List PReq :=
  (s.dm.queues.flatMap (fun q => q.2.zipIdx.map (fun e => (q.1, e.2, e.1)))).foldl (fun l x => insertSeq x l) []

/-- A request that must wait for an older one with which it shares a byte (R333): a write for any, a read for a read. A read takes the
data of an older write from the write queue. -/
def State.dmHeld (s : State) (r : DReq) : Bool :=
  s.dmAll.any (fun x => decide (x.2.2.seq < r.seq) && x.2.2.overlaps r && (r.data.isSome || x.2.2.data.isNone))

/-- The row a request needs is open in its bank. -/
def State.rowOpen (s : State) (r : DReq) : Bool := sget 0 s.dm.rows (bankKey r.addr) == rowIn r.addr + 1

/-- CLASS of a port (R328). -/
def State.dpClass (s : State) (p : Nat) : Nat := s.get pDM (F.DM_DP_CFG_CLASS.ix p)

/-- Source 4 of R332 among requests given oldest first: the lowest class, oldest first, but up to HIT_MAX commands in a row to open
rows go ahead of an older request that needs an activate. The answer tells whether it is such a command. -/
def State.dmNormal (s : State) (pc : Nat) (l : List PReq) : Option (PReq × Bool) :=
  let c := l.foldl (fun m x => min m (s.dpClass x.1)) 3
  match l.filter (fun x => s.dpClass x.1 == c) with
  | [] => none
  | o :: r =>
    if s.rowOpen o.2.2 then some (o, false)
    else
      match r.find? (fun x => s.rowOpen x.2.2) with
      | none => some (o, false)
      | some h => if sget 0 s.dm.hits pc < s.get pDM F.DM_SCHED_HIT_MAX then some (h, true) else some (o, false)

/-- Writes that wait for pseudo-channel `pc`. -/
def State.pcWrites (s : State) (pc : Nat) : Nat :=
  (s.dmAll.filter (fun x => x.2.2.data.isSome && pcOf x.2.2.addr == pc)).length

/-- The pseudo-channel issues writes only (R334): from WM_HIGH writes on, until it holds WM_LOW. Its write queue has 64 entries. -/
def State.draining (s : State) (pc : Nat) : Bool :=
  let n := min 64 (s.pcWrites pc)
  decide (s.get pDM F.DM_WM_WM_HIGH ≤ n) || (sget 0 s.dm.drain pc == 1 && decide (s.get pDM F.DM_WM_WM_LOW < n))

/-- Source 4 by the read-first rule of R334. -/
def State.dmReadFirst (s : State) (pc : Nat) (l : List PReq) : Option (PReq × Bool) :=
  if s.draining pc then ((l.filter (fun x => x.2.2.data.isSome)).head?).map (fun x => (x, false))
  else s.dmNormal pc (l.filter (fun x => x.2.2.data.isNone))

/-- What pseudo-channel `pc` serves next (R332): none while it refreshes or nothing is ready. `unready` are the requests (port, place in
its queue) for which no command is ready in the slot. -/
def State.dmPick (s : State) (pc : Nat) (unready : List (Nat × Nat)) : Option (PReq × Bool) :=
  let w := sget (0, 0) s.dm.refr pc
  if s.dmStopped || (decide (w.1 ≤ s.now) && decide (s.now < w.2)) then none
  else
    let l := s.dmAll.filter (fun x => pcOf x.2.2.addr == pc && !unready.contains (x.1, x.2.1) && !s.dmHeld x.2.2)
    match l.find? (fun x => s.urgNow x.1 x.2.2 == 3) with
    | some x => some (x, false)
    | none =>
      match l.find? (fun x => decide (s.get pDM F.DM_SCHED_AGE_MAX < s.age x.2.2)) with
      | some x => some (x, false)
      | none => if s.get pDM F.DM_MODE_MODE = 0 then s.dmNormal pc l else s.dmReadFirst pc l

/-! ### Codewords (R39 to R43, R344) -/

/-- The codewords of a request, as address / 16. -/
def DReq.words (r : DReq) : List Nat := (List.range (r.len / 16)).map (fun i => r.addr / 16 + i)

/-- Codewords become poisoned (R41). -/
def dmPoison (l : List Nat) (s : State) : State :=
  { s with dm := { s.dm with bad := l.foldl (fun m w => insertNat w m) s.dm.bad } }

/-- A write reaches the stacks: its bytes, or poison where it failed (R345). A rewrite repairs a codeword and changes no data. -/
def dmStore (r : DReq) (s : State) : State :=
  match r.data with
  | none => s
  | some d =>
    if r.rewrite then s
    else if r.failed then
      let s1 := dmHurt r (dmPoison r.words s)
      r.words.foldl (fun s w => poisonBuffer (dramBase + w / 128) (w % 128) s) s1
    else
      let keep (w : Nat) : Bool := !r.words.contains w
      dramWrite r.addr (d.take r.len) { s with dm := { s.dm with bad := s.dm.bad.filter keep, ue := s.dm.ue.filter keep } }

/-- The stacks as a read finds them: with the older writes that still wait (R333). -/
def dmAhead (r : DReq) (s : State) : State :=
  (s.dmAll.filter (fun x => decide (x.2.2.seq < r.seq) && x.2.2.data.isSome && x.2.2.overlaps r)).foldl (fun s x => dmStore x.2.2 s) s

/-- A codeword corrected on a read is queued for its rewrite through DP11 (R344): 32 bytes that hold it. -/
def dmRewrite (w : Nat) (s : State) : State :=
  dmOffer 11 { sec := true, addr := w / 2 * 32, len := 32, data := some [], handle := none, since := 0, rewrite := true } s

/-- A codeword of the stacks read in error (R42, R344). Poison is told from an error (R41). -/
def dmFinding (f : EccFinding) (s : State) : State :=
  if s.dm.bad.contains f.idx.toNat then s
  else
    let s1 := patrolFinding s { f with sect := 8, place := 2 }
    match eccVerdict f with
    | none => s1
    | some false => dmRewrite f.idx.toNat s1
    | some true => { s1 with dm := { s1.dm with ue := insertNat f.idx.toNat s1.dm.ue } }

/-- The memory effect of a completed request: a write stores or poisons its codewords, a read delivers or is poisoned. `hurt` tells
that its transfer was poisoned on an internal bus. -/
def dmDo (p : Nat) (hurt : Bool) (r : DReq) (s : State) : State :=
  match r.data with
  | some _ =>
    if s.bit pDM F.ST_FAULT then dmDiscard p r.handle s
    else dmStore { r with failed := r.failed || hurt } s
  | none =>
    let v := dmAhead r s
    if s.bit pDM F.ST_FAULT || r.failed || hurt || r.words.any (fun w => v.dm.bad.contains w || v.dm.ue.contains w) then
      (dmHurt r s).emit (.dram p r.addr none)
    else s.emit (.dram p r.addr (some (dramRead r.addr r.len v)))

/-! ### Refresh debt (R336) -/

/-- Cycles in `n` nanoseconds. -/
def nsCycles (n : Nat) : Nat := (n * 3888 + 3124) / 3125

/-- Pseudo-channel `pc` issues `n` refreshes back to back from `start` on: it serves nothing meanwhile, and every row is closed. -/
def refreshIssue (pc n start : Nat) (s : State) : State :=
  if n = 0 then s
  else
    let a := max start (sget (0, 0) s.dm.refr pc).2
    let e := a + nsCycles (n * s.get (pgDM (2 + s.get pDM F.DM_FREQ_STAT_CUR)) F.DM_TS_REF_TRFC)
    { s with dm := { s.dm with refr := sset (0, 0) s.dm.refr pc (a, e), rows := skeep (fun b => b / 16 != pc) s.dm.rows } }

/-- DEBT of a stack. -/
def debtShow (s : State) : State :=
  forN 2 (fun k s => s.put pDM (F.DM_REF_STAT_DEBT.ix k)
    ((List.range 32).foldl (fun m i => max m (sget 0 s.dm.debts (32 * k + i))) 0)) s

/-- A pseudo-channel's debt. -/
def setDebt (pc d : Nat) (s : State) : State :=
  debtShow { s with dm := { s.dm with debts := sset 0 s.dm.debts pc d } }

/-- Owed refreshes, `more` with them, are issued at once. -/
def debtPay (pc more : Nat) (s : State) : State :=
  setDebt pc 0 (refreshIssue pc (sget 0 s.dm.debts pc + more) s.now s)

/-- Owed refreshes of an idle pseudo-channel are issued at once (R336). -/
def debtIdle (pc : Nat) (s : State) : State := if s.pcBusy pc then s else debtPay pc 0 s

/-! ### Completion (R329) -/

/-- A read's finding: of a codeword of the stacks in the request, or of its transfer on an internal bus (R42). -/
def dmRead (r : DReq) (s : State) (f : EccFinding) : State :=
  if f.place = 4 then patrolFinding s f
  else if r.data.isNone && r.words.contains f.idx.toNat then dmFinding f s
  else s

/-- Request `r` of port `p`, at place `k` of its queue, completes: its effect, REQS, MAXLAT and LATE. -/
def dmFinish (p k : Nat) (r : DReq) (found : List EccFinding) (s : State) : State :=
  let age := s.age r
  let hurt := found.any (fun f => f.place == 4 && eccVerdict f == some true)
  let s1 := dmDo p hurt r (found.foldl (dmRead r) s)
  let s2 := dmAdmit p (s1.setDmQ p ((s1.dmQ p).eraseIdx k))
  let s3 := s2.putE pDM1 0 p dpREQS (s2.getE pDM1 0 p dpREQS + 1)
  let s4 := s3.putE pDM1 0 p dpMAXLAT (max (s3.getE pDM1 0 p dpMAXLAT) (min age (2 ^ 32 - 1)))
  if s.urgNow p r = 3 then dmIncSat p dpLATE s4 else s4

/-- Pseudo-channel `pc` serves the request that R332 picks, which completes. -/
def dramComplete (pc : Nat) (unready : List (Nat × Nat)) (found : List EccFinding) (s : State) : State :=
  match s.dmPick pc unready with
  | none => s
  | some (x, ahead) =>
    let s1 : State := { s with dm := { s.dm with
      rows := sset 0 s.dm.rows (bankKey x.2.2.addr) (rowIn x.2.2.addr + 1),
      hits := sset 0 s.dm.hits pc (if ahead then sget 0 s.dm.hits pc + 1 else 0),
      drain := sset 0 s.dm.drain pc (if s.draining pc then 1 else 0) } }
    debtIdle pc (dmFinish x.1 x.2.1 x.2.2 found s1)

/-- Before a self-refresh entry every accepted write is issued, and with it the older reads it must not overtake (R333). -/
def dmFlush (s : State) : State :=
  let l := s.dmAll
  let due (x : PReq) : Bool := x.2.2.data.isSome ||
    l.any (fun y => decide (x.2.2.seq < y.2.2.seq) && y.2.2.data.isSome && y.2.2.overlaps x.2.2)
  (l.filter due).foldl (fun s x => dmFinish x.1 ((s.dmQ x.1).findIdx (fun r => r.seq == x.2.2.seq)) x.2.2 [] s) s

/-- A parity error of request `k`: each retry is counted; three failed ones end it poisoned (R345). -/
def parRetry (p k tries : Nat) (failed : Bool) (s : State) : State :=
  match (s.dmQ p)[k]? with
  | none => s
  | some r =>
    let n := min tries 3
    let s1 := s.bump pDM C.DM_PAR_RETRY n
    if failed ∧ n = 3 then s1.setDmQ p ((s1.dmQ p).set k { r with failed := true }) else s1

/-! ### Refresh and temperature (R335 to R338) -/

/-- A refresh interval of a pseudo-channel (R336, R338): the refresh is issued at once where nothing waits or the stack is throttled;
else it is postponed, unless 8 are owed: then it is issued before any other command. -/
def refreshInterval (pc : Nat) (s : State) : State :=
  if s.dmStopped then s
  else if s.pcBusy pc && !s.bit pDM (F.DM_REF_STAT_THROT.ix (pcStack pc)) then
    if sget 0 s.dm.debts pc < 8 then setDebt pc (sget 0 s.dm.debts pc + 1) s else refreshIssue pc 1 s.now s
  else debtPay pc 1 s

/-- DM_REFRESH_CATCHUP: the stack went to 2× and its debts double; what exceeds 8 is issued back to back (R337). -/
def refreshCatchup (k : Nat) (s : State) : State :=
  let most := (List.range 32).foldl (fun m i => max m (2 * sget 0 s.dm.debts (32 * k + i) - 8)) 0
  let s1 := forN 32 (fun i s =>
    let d := 2 * sget 0 s.dm.debts (32 * k + i)
    setDebt (32 * k + i) (min 8 d) (refreshIssue (32 * k + i) (d - 8) (s.now + nsCycles (40 * i)) s)) s
  if most = 0 then s1
  else
    ((s1.bump pDM C.DM_CATCHUPS).put pDM (F.DM_REF_STAT_CATCHUP_MAX.ix k)
      (max (s1.get pDM (F.DM_REF_STAT_CATCHUP_MAX.ix k)) most)).raise pDM 0

/-- THROTTLE_US follows the time spent throttled, and DM_THERMAL_THROTTLE the throttle (R338). -/
def thermalThrottle (s : State) : State :=
  let on := s.bit pDM (F.DM_REF_STAT_THROT.ix 0) || s.bit pDM (F.DM_REF_STAT_THROT.ix 1)
  let acc := s.dm.thrAcc + (match s.dm.thrAt with | none => 0 | some t => (s.now - t) * 100)
  let s1 := s.bump pDM C.DM_THROTTLE_US (acc / 124416)
  let s2 : State := { s1 with dm := { s1.dm with thrAcc := acc % 124416, thrAt := if on then some s1.now else none } }
  s2.levelTo pDM 2 on

/-- A stack's sensor is read (R335). -/
def tempSense (k : Nat) (temp : Int) (s : State) : State :=
  let x2 := s.bit pDM (F.DM_REF_STAT_X2.ix k)
  let thr := s.bit pDM (F.DM_REF_STAT_THROT.ix k)
  let s1 := s.putI pDM (F.DM_REF_STAT_TEMP.ix k) temp
  let s2 :=
    if !x2 && decide (85 ≤ temp) then refreshCatchup k (s1.putBit pDM (F.DM_REF_STAT_X2.ix k) true)
    else if x2 && decide (temp < 83) then
      forN 32 (fun i s => setDebt (32 * k + i) ((sget 0 s.dm.debts (32 * k + i) + 1) / 2) s)
        (s1.putBit pDM (F.DM_REF_STAT_X2.ix k) false)
    else s1
  thermalThrottle (s2.putBit pDM (F.DM_REF_STAT_THROT.ix k) (if thr then decide (93 ≤ temp) else decide (95 ≤ temp)))

/-! ### Training (R342, R343) -/

def State.dmCur (s : State) : Nat := s.get pDM F.DM_FREQ_STAT_CUR

def validOf (p : Nat) : Fld := if p = 0 then F.DM_TRAIN_STAT_VALID0 else F.DM_TRAIN_STAT_VALID1

/-- BUSY and STEP show the first step of the list. -/
def trainShow (s : State) : State :=
  match s.dm.steps with
  | [] => s.putBit pDM F.DM_TRAIN_STAT_BUSY false
  | k :: _ => (s.putBit pDM F.DM_TRAIN_STAT_BUSY true).put pDM F.DM_TRAIN_STAT_STEP k

def setSteps (l : List Nat) (s : State) : State := trainShow { s with dm := { s.dm with steps := l } }

/-- A deferred change starts; what is left of the training ends (R341). -/
def dmDeferred (s : State) : State :=
  if s.bit pDM F.DM_FREQ_STAT_DEFER then
    (dmFlush ((setSteps [] s).putBit pDM F.DM_FREQ_STAT_DEFER false)).putBit pDM F.DM_FREQ_STAT_BUSY true
  else s

/-- Step `k` at point `p` saves its values, and VALID is 1 once steps 1 to 4 have completed. -/
def saveStep (p k : Nat) (s : State) : State :=
  let d := s.draw
  let s1 := { d.2 with dm := { d.2.dm with trained := sset 0 d.2.dm.trained (8 * p + k) (d.1 + 1), done := d.2.dm.done ||| 2 ^ (8 * p + k) } }
  let all := (s1.dm.done / 2 ^ (8 * p + 1)) % 16 == 15
  let s2 := if all then s1.putBit pDM (validOf p) true else s1
  let s3 := saveBank (2 + p) (if all && s2.dmCur == p then s2.putBit pDM F.ST_FAULT false else s2)
  if s3.dm.abandoned = k then
    ({ s3 with dm := { s3.dm with abandoned := 0 } } : State).putBit pDM F.DM_TRAIN_STAT_ABANDONED false
  else s3

/-- The step that runs completes. -/
def trainStepDone (s : State) : State :=
  match s.dm.steps with
  | [] => s
  | k :: rest => if s.dmStopped then s else dmDeferred (setSteps rest (saveStep s.dmCur k s))

/-- A point's training failed: VALID 0, FAULT for the point in use, DM_TRAIN_FAIL. -/
def trainFail (p step pc : Nat) (s : State) : State :=
  let keep := s.dm.done &&& (0xFFFF - 0x1E * 2 ^ (8 * p))
  let s1 := ({ s with dm := { s.dm with done := keep } } : State).putBit pDM (validOf p) false
  let s2 := ((s1.put pDM F.DM_TRAIN_STAT_STEP step).put pDM F.DM_TRAIN_STAT_PC pc).putBit pDM F.DM_TRAIN_STAT_FAILED true
  (s2.when (s2.dmCur == p) (fun s => s.putBit pDM F.ST_FAULT true)).raise pDM 3

/-- The running step fails: step 5 runs steps 3 and 4, another one has used its tries. -/
def dmTrainFail (pc : Nat) (s : State) : State :=
  match s.dm.steps with
  | [] => s
  | k :: _ =>
    if s.dmStopped then s
    else if k = 5 then setSteps [3, 4] s
    else dmDeferred (trainFail s.dmCur k pc (setSteps [] s))

/-- DM_TRAIN_CTRL.START: without effect while BUSY. -/
def trainStart (s : State) : State :=
  if s.bit pDM F.DM_TRAIN_STAT_BUSY then s
  else setSteps (((List.range 5).filter (fun i => (s.get pDM F.DM_TRAIN_CTRL_STEPS).testBit i)).map (fun i => i + 1)) s

/-- Periodic tracking: step 5. -/
def trainTrack (s : State) : State :=
  if s.dmStopped || s.bit pDM F.DM_TRAIN_STAT_BUSY || s.get pDM F.DM_TRAIN_CFG_PERIOD == 0 then s
  else setSteps [5] s

/-! ### Frequency changes (R340, R341, R343) -/

/-- An accepted change starts, or is deferred behind a training step. -/
def changeStart (target : Nat) (init1 : Bool) (s : State) : State :=
  let s1 : State := { s with dm := { s.dm with change := some (target, init1), deferAt := s.now } }
  if s1.bit pDM F.DM_TRAIN_STAT_BUSY then (s1.putBit pDM F.DM_FREQ_STAT_DEFER true).raise pDM 1
  else (dmFlush s1).putBit pDM F.DM_FREQ_STAT_BUSY true

/-- What refuses GO and INIT1 alike. -/
def State.changeBlocked (s : State) : Bool :=
  s.bit pDM F.DM_FREQ_STAT_BUSY || s.bit pDM F.DM_FREQ_STAT_DEFER ||
    (s.get pDM F.DM_MODE_MODE == 0 && !s.bit pDM F.DM_FREQ_CTRL_FORCE)

def freqGo (s : State) : State :=
  let t := s.get pDM F.DM_FREQ_CTRL_TARGET
  if s.changeBlocked || t == s.dmCur || !s.bit pDM (validOf t) then s.cfgRej pDM else changeStart t false s

def freqInit1 (s : State) : State :=
  if s.changeBlocked || s.dmCur == 1 then s.cfgRej pDM else changeStart 1 true s

/-- A write of DM_FREQ_CTRL with word `w`. -/
def freqCtrl (w : Nat) (s : State) : State :=
  (s.when (w.testBit 31) freqGo).when (w.testBit 29) freqInit1

/-- 2 ms after the request the training step is abandoned. -/
def freqAbandon (s : State) : State :=
  if s.bit pDM F.DM_FREQ_STAT_DEFER && decide (s.dm.deferAt + 2488320 ≤ s.now) then
    let k := s.dm.steps.head?.getD 0
    let s1 : State := { s with dm := { s.dm with abandoned := k } }
    dmDeferred ((s1.putBit pDM F.DM_FREQ_STAT_ABANDON true).putBit pDM F.DM_TRAIN_STAT_ABANDONED true)
  else s

/-- An engine reset of the controller, or EN written 0 (R492, R494): queued requests and a deferred change are abandoned. A
sequence of R340 that runs ends first. -/
def dmErst (s : State) : State :=
  if s.dmStopped then { s with dm := { s.dm with erst := true } }
  else
    let s1 := s.dm.queues.foldl (fun s q => q.2.foldl (fun s r =>
      match r.data with
      | some _ => dmDiscard q.1 r.handle s
      | none => s.emit (.dram q.1 r.addr none)) s) s
    let s2 : State := { s1 with dm := { s1.dm with queues := [], change := none, erst := false, rows := [], hits := [], drain := [], refr := [] } }
    let s3 := forN 12 (fun p s => s.putE pDM1 0 p dpQDEPTH 0) s2
    (s3.putBit pDM F.DM_FREQ_STAT_DEFER false).putBit pDM F.ST_READY false

/-- The change ends with step `fail` of R340 failing, 0 none, on pseudo-channel `pc`, after `dur` units of 10 ns. -/
def freqEnd (fail pc dur : Nat) (s : State) : State :=
  match s.dm.change with
  | none => s
  | some (target, init1) =>
    if !s.dmStopped then s
    else
      let s0 : State := { s with dm := { s.dm with change := none, debts := if fail = 1 then s.dm.debts else [] } }
      let s1 := debtShow ((s0.putBit pDM F.DM_FREQ_STAT_BUSY false).put pDM F.DM_FREQ_STAT_LAST dur)
      let done (n : Nat) (s : State) : State := (s.bump pDM C.DM_FREQ_CHANGES n).raise pDM 4
      if fail = 0 then
        if init1 then done 2 ([1, 2, 3, 4].foldl (fun s k => saveStep 1 k s) s1)
        else done 1 (s1.put pDM F.DM_FREQ_STAT_CUR target)
      else if fail ≤ 4 then s1.putBit pDM F.DM_FREQ_STAT_FAIL true
      else if fail = 5 then (trainFail target 0 pc s1).putBit pDM F.ST_FAULT true
      else
        let s2 := (trainFail target 0 pc s1).putBit pDM F.DM_FREQ_STAT_FAIL true
        if init1 then done 2 s2 else s2

/-- The change ends; an engine reset that waited for it acts. -/
def freqDone (fail pc dur : Nat) (s : State) : State :=
  let s1 := freqEnd fail pc dur s
  if s1.dm.erst && !s1.dmStopped then dmErst s1 else s1

/-! ### Patrol (R344) -/

/-- The patrol reads `n` granules from POS on, each a request of DP11. -/
def dramScrub (n : Nat) (found : List EccFinding) (s : State) : State :=
  if s.get pDM F.DM_MODE_MODE == 2 || s.get pDM F.DM_SCRUB_PERIOD_H == 0 || s.dmStopped then s
  else
    let p := s.get pDM F.DM_SCRUB_POS_POS
    let here (f : EccFinding) : Bool :=
      decide (p * 16 ≤ f.idx.toNat) && decide (f.idx.toNat < (p + n) * 16) && decide (f.idx.toNat < 2 ^ 30)
    let s0 := s.putE pDM1 0 11 dpREQS (s.getE pDM1 0 11 dpREQS + n)
    let s1 := (found.filter here).foldl (fun s f => dmFinding f s) s0
    let s2 := s1.put pDM F.DM_SCRUB_POS_POS (p + n)
    if 2 ^ 26 ≤ p + n then (s2.put pDM F.DM_SCRUB_POS_POS 0).bump pDM C.DM_SCRUB_PASSES else s2

/-! ### Meanings -/

/-- The world a port's request carries (R366, R475): the assignment of its engine's section, secure for the bellows, table spill and the
patrol, and for host DMA the world of the ring, which comes with the command. -/
def State.portSec (s : State) (p : Nat) (sec : Bool) : Bool :=
  if p = 7 then sec
  else if p = 5 ∨ p = 6 ∨ p = 11 then true
  else (s.get pgSC F.SC_SECT_CFG_SEC).testBit (if p = 4 ∨ p = 9 then 9 else if p = 8 then 10 else 7)

def execDramRequest (port : Fin 12) (sec : Bool) (addr : BitVec 34) (len : Nat) (data : Option (List Byte))
    (packet : Option Nat) (t : Nat) (s : State) : Res :=
  if reqFormed addr.toNat len then
    .next (dramRequest port.val { sec := s.portSec port.val sec, addr := addr.toNat, len := len, data := data, handle := packet, since := 0 } (s.at t))
  else .fault .dramAddress

def execDramComplete (pc : Fin 64) (unready : List (Fin 12 × Fin 512)) (found : List EccFinding) (t : Nat) (s : State) : Res :=
  .next (dramComplete pc.val (unready.map (fun x => (x.1.val, x.2.val))) found (s.at t))

def execUrgencyRaise (port : Fin 12) (k : Fin 512) (t : Nat) (s : State) : Res := .next (urgencyRaise port.val k.val (s.at t))

def execRefreshInterval (tick : RefreshTick) (s : State) : Res := .next (refreshInterval tick.pc.val (s.at tick.t))

def execTempSense (stack : Fin 2) (temp : Byte) (t : Nat) (s : State) : Res :=
  .next (tempSense stack.val (toSigned 8 temp.toNat) (s.at t))

def execGo (fn : Fn) (w : Word) (t : Nat) (s : State) : Res :=
  .next ((s.at t).hostWrite fn.val (pDM + 0x10C) (w ||| maskBit 31) (fun s _ => freqCtrl (w ||| maskBit 31).toNat s))

def execFreqAbandon (t : Nat) (s : State) : Res := .next (freqAbandon (s.at t))

def execDmFreqDone (fail : Fin 7) (pc : Fin 64) (dur : BitVec 16) (s : State) : Res :=
  .next (freqDone fail.val pc.val dur.toNat s)

def execInit1 (fn : Fn) (w : Word) (t : Nat) (s : State) : Res :=
  .next ((s.at t).hostWrite fn.val (pDM + 0x10C) (w ||| maskBit 29) (fun s _ => freqCtrl (w ||| maskBit 29).toNat s))

def execTrainStart (fn : Fn) (w : Word) (s : State) : Res :=
  .next (s.hostWrite fn.val (pDM + 0x114) (w ||| maskBit 31) (fun s _ => trainStart s))

def execTrainStepDone (s : State) : Res := .next (trainStepDone s)

def execDmTrainFail (pc : Fin 64) (s : State) : Res := .next (dmTrainFail pc.val s)

def execTrainTrack (s : State) : Res := .next (trainTrack s)

def execDramScrub (n : Nat) (found : List EccFinding) (s : State) : Res := .next (dramScrub n found s)

def execParRetry (port : Fin 12) (k : Fin 512) (tries : Nat) (failed : Bool) (s : State) : Res :=
  .next (parRetry port.val k.val tries failed s)

end Sys2Proof.Machine
end

