-- ==== Sys2Proof/Machine/Security.lean ====
section
/-! DEFINITION. Chapter 21: the pair key, the random source, the lifecycle, erasure and debug access (R478 to R487). -/

namespace Sys2Proof.Machine

def scReject (s : State) : State := s.putBit pgSC F.SC_DBG_STAT_REJ true

/-- The words written to `n` write-only registers from `off`, word 0 least significant. -/
def State.scWords (s : State) (off n : Nat) : Nat :=
  (List.range n).foldl (fun v i => v + ((sget none s.staged (pgSC + off + 4 * i)).getD 0).toNat * 2 ^ (32 * i)) 0

/-- Those registers are zeroed. -/
def scZero (off n : Nat) (s : State) : State :=
  { s with staged := skeep (fun a => !(decide (pgSC + off ≤ a) && decide (a < pgSC + off + 4 * n))) s.staged }

/-! ### The pair key (R480) -/

def pairLoad (s : State) : State :=
  if s.bit pgPX F.PX_CFG_EN then s.cfgRej pgSC
  else
    let k := s.scWords 0x130 8
    let s1 : State := scZero 0x130 8 { s with sc := { s.sc with pair := k + 1 } }
    (s1.putBit pgSC F.SC_PAIR_STAT_VALID true).put pgSC F.SC_PAIR_KCV_KCV (Config.aesKcv (BitVec.ofNat 256 k)).toNat

/-- The pair key is erased. -/
def pairErase (s : State) : State :=
  ({ s with sc := { s.sc with pair := 0 } } : State).putBit pgSC F.SC_PAIR_STAT_VALID false

def pairClear (s : State) : State := if s.bit pgPX F.PX_CFG_EN then s.cfgRej pgSC else pairErase s

/-! ### The random source (R481) -/

/-- Read SC_RNG: fresh bits, or 0 while the health test fails. -/
def rngRead (fn : Nat) (s : State) : State :=
  let a := pgSC + 0x15C
  let s1 := s.readBack fn a (fun s => if s.sc.rngBad then s.setReg a 0 else let d := s.draw; d.2.setReg a (BitVec.ofNat 32 d.1))
  s1.setReg a 0

/-! ### Erasure (R483) -/

/-- The key tables of a port engine. -/
def isKeyTable (key : Nat) : Bool :=
  let page := key / 2 ^ 28
  decide (0x100 ≤ page ∧ page < 0x400) && page % 16 == 3

def eraseKeys (s : State) : State :=
  let s1 : State := { s with keys := [], tabs := skeep (fun k => !isKeyTable k) s.tabs, mx := { s.mx with stopped := true } }
  let s2 := wipeBank5 (pairErase { s1 with sc := { s1.sc with ide := 0 } })
  (((s2.putBit pMX1 F.MX_IDE_CTRL_EN false).putBit pMX1 F.MX_IDE_STAT_SECURE false)).raise pgSC 4

/-! ### Lifecycle (R482) and debug (R484 to R486) -/

def State.lc (s : State) : Nat := s.get pgSC F.SC_LC_STATE

/-- SC_DEBUG_OPEN: open in any state but Manufacturing. -/
def debugLevel (s : State) : State := s.levelTo pgSC 3 (s.bit pgSC F.SC_DBG_STAT_OPEN && s.lc != 0)

def openDebug (method : Nat) (s : State) : State :=
  debugLevel ((s.putBit pgSC F.SC_DBG_STAT_OPEN true).put pgSC F.SC_DBG_STAT_METHOD method)

/-- Debug closes; in Manufacturing it is always open. -/
def closeDebug (s : State) : State :=
  if s.lc = 0 then s
  else debugLevel ((s.putBit pgSC F.SC_DBG_STAT_OPEN false).put pgSC F.SC_DBG_STAT_METHOD 0)

/-- Enter lifecycle state `n`: debug closes first; Returned erases every key. -/
def lcEnter (n : Nat) (s : State) : State :=
  let s1 := closeDebug ((closeDebug s).put pgSC F.SC_LC_STATE n)
  if n = 3 then eraseKeys s1 else s1

/-- SC_LC_CMD. -/
def lcCommand (w : Nat) (s : State) : State :=
  let op := fld w 31 28
  let byCr := s.bit pgSC F.SC_DBG_STAT_OPEN && s.get pgSC F.SC_DBG_STAT_METHOD == 2
  if op = 0 then s
  else if fld w 15 0 ≠ 0x4C43 then scReject s
  else if s.lc = 0 ∧ op = 1 then lcEnter 1 s
  else if s.lc = 1 ∧ op = 2 then lcEnter 2 s
  else if s.lc = 1 ∧ op = 3 then lcEnter 3 s
  else if s.lc = 2 ∧ op = 3 ∧ byCr then lcEnter 3 s
  else scReject s

def setPw (s : State) : State :=
  if s.lc = 0 ∧ s.bit pgSC F.SC_DBG_STAT_PW_SET = false then
    ({ s with sc := { s.sc with digest := some (Config.pwDigest (BitVec.ofNat 128 (s.scWords 0x0F0 4))) } } : State).putBit pgSC
      F.SC_DBG_STAT_PW_SET true
  else scReject s

/-- The sixteenth failure that was not restored locks passwords. -/
def pwFailed (s : State) : State :=
  let n := s.get pgSC F.SC_DBG_STAT_PW_FAILS + 1
  let s1 : State := { s with sc := { s.sc with failAt := some s.now } }
  let s2 := (s1.put pgSC F.SC_DBG_STAT_PW_FAILS n).raise pgSC 1
  if n = 16 then (s2.putBit pgSC F.SC_DBG_STAT_PW_LOCKED true).raise pgSC 2 else s2

def unlockPw (s : State) : State :=
  if s.lc = 1 ∧ s.bit pgSC F.SC_DBG_STAT_PW_SET = true ∧ s.bit pgSC F.SC_DBG_STAT_PW_LOCKED = false ∧ s.secSince s.sc.failAt = true then
    if s.sc.digest = some (Config.pwDigest (BitVec.ofNat 128 (s.scWords 0x0F0 4))) then openDebug 1 s else pwFailed s
  else scReject s

def challenge (s : State) : State :=
  if s.sc.rngBad || !s.secSince s.sc.nonceAt then scReject s
  else
    let s1 := forN 4 (fun i s => let d := s.draw; d.2.put pgSC (F.SC_DBG_NONCE_NONCE.ix i) d.1) s
    ({ s1 with sc := { s1.sc with nonceAt := some s1.now } } : State).putBit pgSC F.SC_DBG_STAT_NONCE_VALID true

/-- The nonce is valid now: drawn less than 60 s ago and not used. -/
def State.nonceLive (s : State) : Bool :=
  s.bit pgSC F.SC_DBG_STAT_NONCE_VALID &&
    (match s.sc.nonceAt with | none => false | some t => decide (s.now < t + 60 * cyclesPerSec))

def State.nonce (s : State) : Nat :=
  (List.range 4).foldl (fun v i => v + s.get pgSC (F.SC_DBG_NONCE_NONCE.ix i) * 2 ^ (32 * i)) 0

def unlockCr (s : State) : State :=
  let s1 := s.putBit pgSC F.SC_DBG_STAT_NONCE_VALID false
  if !s.nonceLive then scReject s1
  else
    let mac := Config.debugMac Config.deviceKey (BitVec.ofNat 128 s.nonce) (s.reg (pgSC + 0x0DC)) (s.reg (pgSC + 0x0E0))
    if mac = BitVec.ofNat 256 (s.scWords 0x110 8) then
      (openDebug 2 (s1.when (s1.lc == 2) eraseKeys)).recovered pgSC 2
    else (s1.incSat pgSC F.SC_DBG_STAT_CR_FAILS).raise pgSC 1

/-- SC_DBG_CMD; the password registers are zeroed after every command. -/
def dbgCommand (w : Nat) (s : State) : State :=
  let op := fld w 31 28
  scZero 0x0F0 4 (
    if op = 1 then setPw s else if op = 2 then unlockPw s else if op = 3 then challenge s else if op = 4 then unlockCr s
    else if op = 5 then closeDebug s else if op = 0 then s else scReject s)

/-- 60 s after it was drawn a nonce lapses. -/
def nonceExpiry (s : State) : State := if s.nonceLive then s else s.putBit pgSC F.SC_DBG_STAT_NONCE_VALID false

/-- SC_PAIR_CMD. -/
def pairCommand (w : Nat) (s : State) : State :=
  let op := fld w 31 28
  if op = 0 then s else if op = 1 then pairLoad s else if op = 2 then pairClear s else scReject s

/-- What every reset of the controller and every wake keeps of its page: the fuses (R482, R485, R487). -/
def State.fuses (s : State) : SMap Word :=
  let lc := s.lc
  let st := (s.reg (pgSC + 0x0E8)).toNat
  let w := (if lc = 0 then 2 ^ 31 else 0) + (st / 2 ^ 27 % 4) * 2 ^ 27 + (st / 2 ^ 16 % 32) * 2 ^ 16
  sset (resetWord (pgSC + 0x0E8)) (sset 0 [] (pgSC + 0x0D4) (BitVec.ofNat 32 lc)) (pgSC + 0x0E8) (BitVec.ofNat 32 w)

/-! ### Meanings -/

/-- A command register of the SC page written with operation `op`. -/
def scWrite (fn off op : Nat) (w : Word) (act : Nat → State → State) (s : State) : State :=
  let v := op * 2 ^ 28 + w.toNat % 2 ^ 28
  s.access fn (pgSC + off) (fun _ _ s => act v s)

def execLoad (fn : Fn) (w : Word) (s : State) : Res := .next (scWrite fn.val 0x150 1 w pairCommand s)

def execClearPairKey (fn : Fn) (w : Word) (s : State) : Res := .next (scWrite fn.val 0x150 2 w pairCommand s)

def execScRng (fn : Fn) (s : State) : Res := .next (rngRead fn.val s)

def execProvision (fn : Fn) (w : Word) (s : State) : Res := .next (scWrite fn.val 0x0D8 1 w lcCommand s)

def execLock (fn : Fn) (w : Word) (s : State) : Res := .next (scWrite fn.val 0x0D8 2 w lcCommand s)

def execReturnLc (fn : Fn) (w : Word) (s : State) : Res := .next (scWrite fn.val 0x0D8 3 w lcCommand s)

def execSetPw (fn : Fn) (w : Word) (s : State) : Res := .next (scWrite fn.val 0x0E4 1 w dbgCommand s)

def execUnlockPw (fn : Fn) (w : Word) (t : Nat) (s : State) : Res := .next (scWrite fn.val 0x0E4 2 w dbgCommand (s.at t))

def execChallenge (fn : Fn) (w : Word) (t : Nat) (s : State) : Res := .next (scWrite fn.val 0x0E4 3 w dbgCommand (s.at t))

def execUnlockCr (fn : Fn) (w : Word) (t : Nat) (s : State) : Res := .next (scWrite fn.val 0x0E4 4 w dbgCommand (s.at t))

def execNonceExpiry (t : Nat) (s : State) : Res := .next (nonceExpiry (s.at t))

def execClose (fn : Fn) (w : Word) (s : State) : Res := .next (scWrite fn.val 0x0E4 5 w dbgCommand s)

/-- The health test recovers or fails; a reseed that waited starts. -/
def rngHealth (ok : Bool) (s : State) : State :=
  let s1 : State := { s with sc := { s.sc with rngBad := !ok } }
  match s1.lk.waiting with
  | some (t, auto) =>
    if !ok then s1
    else
      let s2 : State := { s1 with lk := { s1.lk with waiting := none } }
      if !auto || s2.bit pLK (F.LK_HP_STAT_PRESS.ix t) then reseedStart t auto s2 else s2
  | none => s1

def execRngHealth (ok : Bool) (s : State) : Res := .next (rngHealth ok s)

end Sys2Proof.Machine
end

