-- ==== Sys2Proof/Machine/PxBase.lean ====
section
/-! DEFINITION. Chapter 18, what the page of protection shows: state, heartbeat and ligature levels, version, witness
(R406 to R415). -/

namespace Sys2Proof.Machine

/-- 100 µs in cycles. -/
def cycles100us : Nat := 124416

/-- ROLE: 0 primary, 1 secondary (R405). -/
def State.pxRole (s : State) : Nat := s.get pgPX F.PX_CFG_ROLE

def State.pxEn (s : State) : Bool := s.bit pgPX F.PX_CFG_EN

/-- The device rests. -/
def State.resting (s : State) : Bool := s.get pgPW F.PW_STATE_STATE == 2

/-- The device is in Run or Trim. -/
def State.inRun (s : State) : Bool := decide (s.get pgPW F.PW_STATE_STATE ≤ 1)

/-- The peer's STATE is one of those that R406 puts in Run. -/
def State.peerRuns (s : State) : Bool := [2, 3, 4, 5, 7].contains (s.get pgPX F.PX_STATE_PEER)

/-- The ligature is up: four lanes aligned, carrying the four logical lanes (R408). -/
def State.ligUp (s : State) : Bool := [1, 2, 3, 4].all (fun l => (List.range 4).any (fun i => sget 0 s.px.lanes i == l))

/-- A PX event: those that arise in Rest are raised at the next wake (R406). -/
def pxRaise (bit : Nat) (s : State) : State :=
  if s.resting then { s with px := { s.px with late := insertNat bit s.px.late } } else s.raise pgPX bit

/-- Version 1 may be used (R411). -/
def State.v1Ok (s : State) : Bool :=
  s.bit pgPX F.PX_CFG_V1_OK && s.pxPorts.all (fun n => s.isLegacy n && s.get (pgPE n 0) F.PE_DS_CFG_PROFILE == 1)

/-- The version in use, 0 for none. -/
def State.pxVersion (s : State) : Nat :=
  if s.px.peerVer = 0 then 0 else if 2 ≤ s.px.peerVer then 2 else if s.v1Ok then 1 else 0

/-- PX_VERSION_MISMATCH (R411): no take-over, switch or revert. -/
def State.pxMismatch (s : State) : Bool := s.pxEn && s.px.peerVer == 1 && !s.v1Ok

/-- What PX_STATE and the level sources show. -/
def pxShow (s : State) : State :=
  let up := s.ligUp
  let s1 := (s.put pgPX F.PX_STATE_VER s.pxVersion).putBit pgPX F.PX_STATE_LIG_UP up
  if s1.resting then s1
  else
    let both := s1.pxEn && s1.inRun && s1.peerRuns
    let s2 := (s1.levelTo pgPX 0 (both && !s1.bit pgPX F.PX_STATE_A_OK)).levelTo pgPX 1 (s1.pxEn && !s1.bit pgPX F.PX_STATE_B_OK)
    ((s2.levelTo pgPX 3 (both && !up)).levelTo pgPX 6 (s1.pxEn && s1.get pgPX F.PX_STATE_PEER == 6)).levelTo pgPX 7 s1.pxMismatch

/-- STATE changes; entering or leaving ACTIVE or PROVISIONAL is a change of role (R406, R417). -/
def setPx (n : Nat) (s : State) : State :=
  let old := s.pxState
  if old = n then s
  else
    let s1 := s.put pgPX F.PX_STATE_STATE n
    let x := { s1.px with listening := false, light := false, armed := none }
    let s2 : State := { s1 with px := if n = 5 then { x with provAt := s1.now, ok := [] } else x }
    if old = 4 ∨ old = 5 ∨ n = 4 ∨ n = 5 then pxRaise 5 s2 else s2

/-- BUSY, K and the frames left to it (R431, R436). -/
def switchShow (left : Nat) (s : State) : State :=
  let s1 := s.putBit pgPX F.PX_CMD_STAT_BUSY (s.px.measuring || s.px.k.isSome)
  (s1.put2 pgPX F.PX_SW_SFC_LO_SFC F.PX_SW_SFC_HI_SFC (s.px.k.getD 0)).put pgPX F.PX_CMD_STAT_LEFT (min left 255)

/-- HB_MISS in cycles. -/
def State.hbMiss (s : State) : Nat := s.get pgPX F.PX_TMO_HB_MISS * cycles100us

/-- The witness in Run: a burst within the last WIT_WIN (R415). -/
def State.witRun (s : State) : Bool :=
  match s.px.heard with
  | none => false
  | some t => decide (s.now ≤ t + s.get pgPX F.PX_TMO_WIT_WIN * cycles100us)

/-- The witness now: in Rest from the loss-of-signal inputs `wlos` that showed signal within WIT_WIN. -/
def State.witness (s : State) (wlos : Nat) : Bool :=
  if s.resting then (wlos &&& s.get pgPX F.PX_WIT_EN) != 0 else s.witRun

/-- WIT and NOW. -/
def witShow (wlos : Nat) (s : State) : State :=
  (s.putBit pgPX F.PX_STATE_WIT (s.witness wlos)).put pgPX F.PX_WIT_NOW wlos

end Sys2Proof.Machine
end

