-- ==== Sys2Proof/Machine/Refs.lean ====
section
/-! DEFINITION. Corrections of the time bases with what follows them, the time inputs, and lost references (R238 to R250,
R469, R502, R503). -/

namespace Sys2Proof.Machine

/-- The notice of a re-step: port engines, gate lists and circuits act on it (R239). -/
def restepNote (tb : Nat) (d : Int) (s : State) : State := ceRestep tb d (glRestep tb d (peRestep tb d s))

/-- A write of TE_TB_CMD with operation `op`. -/
def tbCmdWrite (fn tb op : Nat) (w : Word) (s : State) : State :=
  s.access fn (pgTB tb + 0x040) (fun _ _ s => tbCommand tb op (fld w.toNat 25 24) restepNote s)

/-! ### References (R248, R469, R503) -/

/-- REF_FB and PW_REF_FALLBACK. -/
def setRefFb (r : Nat) (v : Bool) (s : State) : State :=
  let b := s.get pgPW F.PW_WAKE_STATUS_REF_FB
  let b' := b - (b / 2 ^ r % 2) * 2 ^ r + (if v then 2 ^ r else 0)
  (s.put pgPW F.PW_WAKE_STATUS_REF_FB b').levelTo pgPW 3 (b' != 0)

/-- The lanes an island feeds: PTX and PRX from PON, ULN and LGL from ETH. -/
def islandLanes (r : Nat) : List Nat :=
  if r = 0 then List.range 96 else if r = 1 then (List.range 20).map (fun i => 96 + i) else []

/-- Every enabled lane of an island starts again at step 1 of R70, or waits there. -/
def restartLanes (r : Nat) (s : State) : State :=
  ((islandLanes r).filter (fun i => s.en (pgLN i))).foldl (fun s i => laneStart i s) s

/-- A reference's presence. -/
def setRefOk (r : Nat) (v : Bool) (s : State) : State :=
  let f := if r = 0 then F.TE_REF_STAT_PON_OK else if r = 1 then F.TE_REF_STAT_ETH_OK else F.TE_REF_STAT_PCIE_OK
  (s.putBit pgTE f v).levelTo pgTE (4 + r) (!v)

def State.refOk (s : State) (r : Nat) : Bool :=
  s.bit pgTE (if r = 0 then F.TE_REF_STAT_PON_OK else if r = 1 then F.TE_REF_STAT_ETH_OK else F.TE_REF_STAT_PCIE_OK)

/-- A port engine stops sending: maps are not sent and no windows open. -/
def peDark (n : Nat) (s : State) : State :=
  s.modPe n (fun p => { p with running := false, waiting := false, wins := [], hdr := none, sel := [], snWin := none, quiet := [] })

/-- ETH lanes wait for their reference. -/
def setAbsent (r : Nat) (v : Bool) (s : State) : State :=
  let b := s.refAbsent
  { s with refAbsent := b - (b / 2 ^ r % 2) * 2 ^ r + (if v then 2 ^ r else 0) }

/-- Both PCIe links are down and retrain. -/
def pcieRetrain (s : State) : State :=
  let s1 := hxLinkDown s
  let s2 := mxLinkDown s1
  if s2.en pMX then { s2 with mx := { s2.mx with training := true } } else s2

def refLoss (r : Nat) (s : State) : State :=
  if !s.refOk r then s
  else
    let s1 := setRefOk r false s
    if r = 0 then
      let s2 := restartLanes 0 (setRefFb 0 true (s1.putBit pgTE F.TE_REF_STAT_INT true))
      forN 48 (fun n s => if s.en (pgPE n 0) then peDark n s else s) s2
    else if r = 1 then
      let s2 := restartLanes 1 (setAbsent 1 true s1)
      let s3 : State := { s2 with px := { s2.px with lanes := [] } }
      pxShow (forN 16 (fun g s => ulLink g false s) s3)
    else pcieRetrain (setRefFb 2 true s1)

/-- The PON island returns to REFCLK_PON: lanes and enabled engines start again. -/
def ponReturn (s : State) : State :=
  if s.refOk 0 then
    let was := (s.get pgPW F.PW_WAKE_STATUS_REF_FB).testBit 0
    let s1 := setRefFb 0 false (s.putBit pgTE F.TE_REF_STAT_INT false)
    if was then forN 48 (fun n s => if s.en (pgPE n 0) then peStart n s else s) (restartLanes 0 s1) else s1
  else s

/-- The ETH lanes start. -/
def ethReturn (s : State) : State := if s.refOk 1 then restartLanes 1 (setAbsent 1 false (setRefFb 1 false s)) else s

def refReturn (r : Nat) (s : State) : State :=
  let s1 := setRefOk r true s
  if r = 1 && !(s1.get pgPW F.PW_WAKE_STATUS_REF_FB).testBit 1 then ethReturn s1 else s1

/-- PW_REF_CTRL: islands whose reference is present move to it (R469). -/
def refSwitch (w : Nat) (s : State) : State :=
  let s1 := s.when (w.testBit 0) ponReturn
  let s2 := s1.when (w.testBit 1) ethReturn
  s2.when (w.testBit 2 && s2.refOk 2) (fun s => pcieRetrain (setRefFb 2 false s))

/-! ### Meanings -/

def execStepAbs (fn : Fn) (tb : Fin 8) (w : Word) (t : Nat) (s : State) : Res := .next (tbCmdWrite fn.val tb.val 1 w (s.at t))

def execStepRel (fn : Fn) (tb : Fin 8) (w : Word) (t : Nat) (s : State) : Res := .next (tbCmdWrite fn.val tb.val 2 w (s.at t))

def execRestepAbs (fn : Fn) (tb : Fin 8) (w : Word) (t : Nat) (s : State) : Res := .next (tbCmdWrite fn.val tb.val 3 w (s.at t))

def execRestepRel (fn : Fn) (tb : Fin 8) (w : Word) (t : Nat) (s : State) : Res := .next (tbCmdWrite fn.val tb.val 4 w (s.at t))

def execPpsEdge (k : Fin 2) (longHigh : Bool) (t : Nat) (s : State) : Res := .next (ppsEdge k.val longHigh restepNote (s.at t))

def execFsyncEdge (t : Nat) (s : State) : Res := .next (fsyncEdge (fun s => forN 48 peEdge s) (s.at t))

/-- 1.5 expected periods without a qualified edge (R250): the engines that follow FSYNC_IN hold (R114). -/
def fsyncLoss (s : State) : State :=
  if s.get pgTE F.TE_FSYNC_CFG_MODE = 0 then s
  else
    let due := match s.fsyncLast with
      | none => true
      | some l => decide (2 * l + 3 * s.fsyncPeriod ≤ 2 * s.now)
    if due then
      let s1 := (({ s with fsyncLast := none } : State).putBit pgTE F.TE_FSYNC_STAT_PRESENT false).levelTo pgTE 3 true
      forN 48 (fun n s => if s.en (pgPE n 0) && s.fbSrc n == 1 then setNofsync n true s else s) s1
    else s

def execFsyncLoss (t : Nat) (s : State) : Res := .next (fsyncLoss (s.at t))

def execRefclkLoss (ref : Fin 3) (s : State) : Res := .next (refLoss ref.val s)

def execRefclkReturn (ref : Fin 3) (s : State) : Res := .next (refReturn ref.val s)

def execRet (fn : Fn) (_w : Word) (s : State) : Res := .next (s.access fn.val (pgTE + 0x0C0) (fun _ _ s => ponReturn s))

def execPwRefSwitch (fn : Fn) (w : Word) (s : State) : Res :=
  .next (s.access fn.val (pgPW + 0x070) (fun _ _ s => refSwitch w.toNat s))

end Sys2Proof.Machine
end

