-- ==== Sys2Proof/Machine/Power.lean ====
section
/-! DEFINITION. Chapter 20: Rest entry, wake sources, the wake sequence, the serial interface and the junction trip (R453 to
R471, R515, R520). -/

namespace Sys2Proof.Machine

/-! ### What is lost (R454, R493) -/

/-- What protection's part of the island keeps while the core is off: heartbeat, witness, the declaration, a lockout, and the
slots in shared memory. -/
def Px.island (x : Px) : Px :=
  { hbSent := x.hbSent, bAt := x.bAt, peerVer := x.peerVer, failed := x.failed, peerSfc := x.peerSfc,
    droneUntil := x.droneUntil, takeover := x.takeover, req := if x.req = 6 then 6 else 0, slots := x.slots, late := x.late }

/-- The core is off or reset: what is left is the registers that `keep` holds and the fuses, the island, the memories outside the
chip, and the record of what was sent. The seeds of the lookup engine are drawn afresh (R496). -/
def coreOff (keep : Nat → Bool) (s : State) : State :=
  let s1 : State :=
    { regs := skeep keep s.regs, pw := s.pw, px := s.px.island, hostMem := s.hostMem, cxl := s.cxl, now := s.now,
      free := s.free, out := s.out, pending := s.pending,
      sc := { digest := s.sc.digest, nonceAt := s.sc.nonceAt, failAt := s.sc.failAt, rngBad := s.sc.rngBad } }
  drawSeeds (s.fuses.foldl (fun x p => x.setReg p.1 p.2) s1)

/-- The PX registers of which the island has its own copy (R458). -/
def islandReg (a : Nat) : Bool :=
  a / 4096 == pgPX / 4096 && (decide (0x040 ≤ a % 4096 ∧ a % 4096 ≤ 0x054) || a % 4096 == 0x060)

def keepRest (a : Nat) : Bool := a / 4096 == pgPW / 4096 || islandReg a

/-- STATE of the PW page. -/
def setPower (n : Nat) (s : State) : State := s.put pgPW F.PW_STATE_STATE n

def rails (on : Bool) (l : List Nat) (s : State) : State := l.foldl (fun s i => s.emit (.rail i on)) s

/-! ### Rest entry (R460, R461) -/

/-- The Rest entry sequence; `save` is false for an entry through UNABLE. -/
def restEntry (save : Bool) (s : State) : State :=
  let s0 := closeDebug s
  let s1 := if save then forN 8 saveBank (s0.incWrap pgPW F.PW_RET_SEQ_SEQ) else s0
  let s2 := rails false [2, 1, 0] (coreOff keepRest s1)
  let s3 : State := { s2 with pw := { s2.pw with step := 0, since := s2.now } }
  let s4 := setPower 2 (s3.put pgPX F.PX_STATE_STATE (s1.pxState))
  let s5 := ((((s4.putBit pgPX F.PX_STATE_A_OK false).putBit pgPX F.PX_STATE_LIG_UP false).putBit pgPX F.PX_STATE_ALIGNED false).put
    pgPX F.PX_STATE_WTR_LEFT 0)
  if s5.pxEn && s5.pxState != 6 then setPx 1 s5 else s5

/-- A write of PW_CTRL: bit 0 clears REJ (R13), then OP acts (R460). -/
def pwCommand (w : Nat) (s0 : State) : State :=
  let s := s0.when (w.testBit 0) (fun s => s.putBit pgPW F.PW_CTRL_REJ false)
  let op := fld w 31 28
  if op = 0 then s
  else if op ≠ 1 || !s.inRun || (s.pxEn && (s.pxState == 4 || s.pxState == 5)) then s.putBit pgPW F.PW_CTRL_REJ true
  else restEntry true s

/-- Protection ends in UNABLE: the device returns to Rest and the banks keep their previous save. -/
def pxUnable (s : State) : State := restEntry false (setPx 6 s)

/-! ### Wake (R462, R467 to R470) -/

/-- A wake source in Rest. -/
def wakeStart (src : Nat) (s : State) : State :=
  if s.resting && (s.get pgPW F.PW_WAKE_EN_EN).testBit (src - 1) then
    let ms := (s.now - s.pw.since) / cyclesMs
    let s1 := ((s.put pgPW F.PW_LAST_WAKE_SRC src).incWrap pgPW F.PW_LAST_WAKE_COUNT).put pgPW F.PW_LAST_WAKE_T_MS (min ms (2 ^ 32 - 1))
    let s2 := (s1.put pgPW F.PW_WAKE_STATUS_ATTEMPT 1).put pgPW F.PW_WAKE_STATUS_STEP 0
    let s3 := (s2.putBit pgPW F.PW_WAKE_STATUS_HX_LATE false).putBit pgPW F.PW_WAKE_STATUS_MX_LATE false
    let s4 : State := { s3 with pw := { s3.pw with step := 1, attempt := 1 }, px := { s3.px with takeover := src == 1 } }
    let s5 := setPower 3 s4
    rails true [0] (if s5.pxEn then setPx 2 s5 else s5)
  else s

/-- Step 4: the references that are present (R469). -/
def wakeRefs (refs : Nat) (s : State) : State :=
  forN 3 (fun r s =>
    let ok := refs.testBit r
    let s1 := setRefFb r (!ok) (setRefOk r ok s)
    let s2 := if r = 0 then s1.putBit pgTE F.TE_REF_STAT_INT (!ok) else s1
    if r = 1 then setAbsent 1 (!ok) s2 else s2) s

/-- Step 5: the PLLs are locked and the time bases count from 0. -/
def wakeTime (s : State) : State := tbWake { s with tbRun := true }

/-- The registers of protection at the restore: reset values but for the role, the state and a lockout. -/
def pxRegsReset (s : State) : State :=
  let role := s.pxRole
  let keep (a : Nat) : Bool := !(a / 4096 == pgPX / 4096) || a == pgPX + 0x054 || a == pgPX + 0x060
  let s1 := ({ s with regs := skeep keep s.regs } : State).put pgPX F.PX_CFG_ROLE role
  let w := if s.px.req = 6 then 6 * 16 + 6 * 2 + role else 0
  (s1.put pgPX F.PX_SWQ_TX_A w).put pgPX F.PX_SWQ_TX_B w

/-- Step 6: the banks, the lanes restored with EN = 1, the memory port, and PX events held in Rest. -/
def wakeRestore (restore : Bool) (ue ce : Nat) (s : State) : State :=
  let s0 := pxRegsReset s
  let s1 := if restore then restoreBanks ue ce s0
            else (s0.put pgPW F.PW_WAKE_STATUS_RET_FAIL 0).put pgPW F.PW_WAKE_STATUS_RET_DONE 0
  let s2 := ((List.range 140).filter (fun i => s1.en (pgLN i))).foldl (fun s i => laneStart i s) s1
  let s3 := if s2.en pMX then mxStart s2 else s2
  let s4 := s3.px.late.foldl (fun s b => s.raise pgPX b) { s3 with px := { s3.px with late := [] } }
  let s5 := s4.put pgPX F.PX_STATE_STATE (if s4.pxEn then 2 else if s4.px.takeover then 2 else 0)
  { s5 with pw := { s5.pw with step := 7 } }

/-- Steps 4 to 6: `stall` 1 leaves the PLLs unlocked, 2 the restore unfinished. -/
def wakeCore (restore : Bool) (refs ue ce stall : Nat) (s : State) : State :=
  let s1 := wakeRefs refs s
  if stall = 1 then { s1 with pw := { s1.pw with step := 5 } }
  else
    let s2 := wakeTime s1
    if stall = 2 then { s2 with pw := { s2.pw with step := 6 } } else wakeRestore restore ue ce s2

/-- PWR_GOOD of a rail rises. -/
def pwrGoodRise (rail refs ue ce stall : Nat) (s : State) : State :=
  if s.get pgPW F.PW_STATE_STATE = 3 ∧ s.pw.step = rail + 1 ∧ s.pw.unwinding = false then
    let s0 := if s.get pgPW F.PW_WAKE_STATUS_ATTEMPT = 0 then s.put pgPW F.PW_WAKE_STATUS_ATTEMPT 1 else s
    if rail < 2 then rails true [rail + 1] { s0 with pw := { s0.pw with step := rail + 2 } }
    else wakeCore (s0.get pgPW F.PW_LAST_WAKE_SRC != 0) refs ue ce stall s0
  else s

/-- An attempt unwinds at `step`. -/
def unwind (step : Nat) (s : State) : State :=
  let s1 := rails false [2, 1, 0] (coreOff keepRest (s.put pgPW F.PW_WAKE_STATUS_STEP step))
  { s1 with pw := { s1.pw with unwinding := true, step := 0, since := s1.now } }

def wakeStepTimeout (step : Nat) (s : State) : State :=
  if s.get pgPW F.PW_STATE_STATE = 3 ∧ s.pw.unwinding = false ∧ s.pw.step = step ∧ 1 ≤ step then unwind step s else s

/-- 100 ms after a failure: the next attempt, or the end of the series. -/
def wakeRetry (s : State) : State :=
  if s.pw.unwinding && decide (s.pw.since + 100 * cyclesMs ≤ s.now) then
    let s1 : State := { s with pw := { s.pw with unwinding := false } }
    if s.pw.attempt ≤ s.get pgPW F.PW_WAKE_CFG_WAKE_RETRY then
      let n := s.pw.attempt + 1
      rails true [0] (({ s1 with pw := { s1.pw with step := 1, attempt := n } } : State).put pgPW F.PW_WAKE_STATUS_ATTEMPT n)
    else
      let s2 := (setPower 2 (s1.putBit pgPW F.PW_WAKE_STATUS_FAILED true)).raise pgPW 2
      if s2.pxEn then setPx 6 s2 else s2
  else s

/-- Step 7: the restored values are verified, or full training runs. -/
def wakeDram (verified : Bool) (s : State) : State :=
  if verified && s.bit pDM F.DM_TRAIN_STAT_VALID0 then s
  else [1, 2, 3, 4].foldl (fun s k => saveStep 0 k s) s

/-- Steps 7 and 8 end: the links that are up, and PW_WAKE_DONE. -/
def wakeEnd (verified : Bool) (hx : Option (Bool × Nat × Nat)) (mx : Option (Nat × Bool × Nat)) (s : State) : State :=
  let s1 := wakeDram verified s
  let s2 := match hx with
    | some (cxl, w, sp) => hxLinkUp cxl w sp s1
    | none => s1.putBit pgPW F.PW_WAKE_STATUS_HX_LATE true
  let s3 :=
    if s2.en pMX then
      match mx with
      | some d => mxLinkUp (some d) s2
      | none => s2.putBit pgPW F.PW_WAKE_STATUS_MX_LATE true
    else s2
  let s4 := setPower 0 (((s3.putBit pgPW F.PW_WAKE_STATUS_FAILED false).recovered pgPW 2).put pgDV F.DV_RST_STAT_BUSY 0)
  pxShow (({ s4 with pw := { s4.pw with step := 0 } } : State).raise pgPW 0)

/-- The wake is complete (R467); a wake for a take-over without banks 5 and 6 or without the memory link ends UNABLE (R465,
R424). -/
def wakeDone (verified : Bool) (hx : Option (Bool × Nat × Nat)) (mx : Option (Nat × Bool × Nat)) (s : State) : State :=
  if s.get pgPW F.PW_STATE_STATE = 3 ∧ s.pw.step = 7 then
    let s1 := wakeEnd verified hx mx s
    let lost := (s1.get pgPW F.PW_WAKE_STATUS_RET_FAIL &&& 0x60) != 0
    if s1.px.takeover && (lost || !s1.bit pMX F.MX_LINK_UP) then pxUnable s1 else s1
  else s

/-! ### Supply and junction (R515, R520) -/

def thermtrip (s : State) : State := if s.resting then s else { s with pw := { s.pw with trip := true } }

/-- PWR_GOOD of an enabled rail falls. -/
def pwrGoodFall (rail : Nat) (s : State) : State :=
  if s.inRun then { s with pw := { s.pw with trip := true } }
  else if s.get pgPW F.PW_STATE_STATE = 3 ∧ s.pw.unwinding = false ∧ rail < s.pw.step then unwind (rail + 1) s
  else s

/-- The bytes of the PW page that SMS READ returns (R459). -/
def smsBytes (off n : Nat) (s : State) : List Byte :=
  (List.range n).map (fun i =>
    let a := off + i
    if 0x040 ≤ a ∧ a < 0x080 then BitVec.ofNat 8 ((s.reg (pgPW + a / 4 * 4)).toNat / 2 ^ (8 * (a % 4))) else 0)

/-! ### Meanings -/

def execSmsWake (t : Nat) (s : State) : Res := .next (wakeStart 3 (s.at t))

def execSmsRead (off : Byte) (n : Nat) (s : State) : Res := .next (s.emit (.sms (smsBytes off.toNat n s)))

/-- REST; a WAKE_N that is low at the end of the entry wakes the device at once (R462). -/
def execRest (fn : Fn) (w : Word) (entry : RestEntry) (s : State) : Res :=
  .next (((s.at entry.t).access fn.val (pgPW + 0x044) (fun _ _ s => pwCommand (2 ^ 28 + w.toNat % 2 ^ 28) s)).when
    (entry.wakeN && !s.resting) (wakeStart 2))

def execWakeN (t : Nat) (s : State) : Res := .next (wakeStart 2 (s.at t))

/-- PW_ALARM.TIME in Rest. -/
def wakeAlarm (s : State) : State :=
  if s.bit pgPW F.PW_ALARM_EN && decide (s.pw.since + s.get pgPW F.PW_ALARM_TIME * 100 * cyclesMs ≤ s.now) then wakeStart 4 s else s

def execWakeAlarm (t : Nat) (s : State) : Res := .next (wakeAlarm (s.at t))

def execPwrGoodRise (rail : Fin 3) (refs : BitVec 3) (ue : Byte) (ce : Nat) (stall : Fin 3) (s : State) : Res :=
  .next (pwrGoodRise rail.val refs.toNat ue.toNat ce stall.val s)

def execWakeStepTimeout (step : Fin 9) (t : Nat) (s : State) : Res := .next (wakeStepTimeout step.val (s.at t))

def execWakeRetry (t : Nat) (s : State) : Res := .next (wakeRetry (s.at t))

def execPwWakeDone (verified : Bool) (hx : Option (Bool × BitVec 4 × BitVec 4)) (mx : Option (BitVec 11 × Bool × BitVec 5))
    (t : Nat) (s : State) : Res :=
  .next (wakeDone verified (hx.map (fun x => (x.1, x.2.1.toNat, x.2.2.toNat))) (mx.map (fun x => (x.1.toNat, x.2.1, x.2.2.toNat)))
    (s.at t))

def execRetFailClear (fn : Fn) (w : Word) (s : State) : Res :=
  .next (s.access fn.val (pgPW + 0x054) (fun _ _ s => retFailClear w.toNat s))

def execPwrGoodFall (rail : Fin 3) (t : Nat) (s : State) : Res := .next (pwrGoodFall rail.val (s.at t))

def execThermtrip (s : State) : Res := .next (thermtrip s)

end Sys2Proof.Machine
end

