-- ==== Sys2Proof/Machine/Resets.lean ====
section
/-! DEFINITION. Chapters 20, 22 and 23: hush and gating, reset levels, shorted pins (R455, R456, R489 to R497, R499 to R501). -/

namespace Sys2Proof.Machine

/-- A host write whose effect compares the registers before and after it. -/
def State.hostChange (s : State) (fn a : Nat) (w : Word) (act : State → State → State) : State :=
  s.access fn a (fun k i s1 => act s1 (s1.storeFields k i fn a w.toNat).1)

/-! ### Section resets (R489, R491, R493) -/

/-- The section of an address; the always-on island has its own number. -/
def sectOfAddr (a : Nat) : Nat :=
  match pageOf a with
  | none => 11
  | some (k, i) => sectOf k i

/-- Registers, counters, tables and pending events of a section return to their reset values. -/
def clearPages (sect : Nat) (s : State) : State :=
  let keepA (a : Nat) : Bool := sectOfAddr a != sect
  let keepT (k : Nat) : Bool := sectOfAddr (k / 2 ^ 28 * 4096) != sect
  { s with regs := skeep keepA s.regs, staged := skeep keepA s.staged, live := skeep keepA s.live, tabs := skeep keepT s.tabs,
           bad := s.bad.filter keepT, sticky := skeep keepA s.sticky }

/-- The lanes of a section. -/
def sectLanes (sect : Nat) : List Nat := (List.range 140).filter (fun i => sectOf .ln i == sect)

/-- The port of a key: encryption keys first, PLOAM integrity keys from 2^20. -/
def portOfKey (k : Nat) : Nat := if k < 2 ^ 20 then k / 2048 else (k - 2 ^ 20) / 512

/-- Work in hand, keys and lanes of a port section. -/
def clearPorts (sect : Nat) (s : State) : State :=
  let mine (n : Nat) : Bool := n / 8 == sect
  let s1 := ((List.range 48).filter mine).foldl (fun s n =>
    (s.pe n).enc.foldl (fun s i => match i.handle with | none => s | some h => dropRef h n s) s) s
  { s1 with pes := skeep (fun n => !mine n) s1.pes, gps := skeep (fun n => !mine n) s1.gps,
            keys := skeep (fun k => !mine (portOfKey k)) s1.keys }

/-- The pools go, and DRAM keeps what they held (R493): the bytes of packets, and the headers of buffers. -/
def leavePools (s : State) : State :=
  let s1 := s.tm.pkts.foldl (fun x p => leaveBytes p.1 (s.chain p.1) x) s
  let put (m : SMap Byte) (p : Nat × Nat) : SMap Byte :=
    if p.1 < dramBase then m else memWrite m (dramAddr p.1) (leBytes 8 (p.2 - 1))
  { s1 with dm := { s1.dm with mem := s.bp.hdrs.foldl put s1.dm.mem } }

/-- A section reset acts. Its pending events go, and with them what they asserted (R64, R493). -/
def sectionReset (sect : Nat) (s : State) : State :=
  let s0 := if sect < 6 then clearPorts sect s else if sect = 7 then leavePools s else s
  let l := sectLanes sect
  let s1 := clearPages sect { s0 with lanes := skeep (fun i => !l.contains i) s0.lanes }
  let s2 :=
    if sect = 6 then drawSeeds { s1 with lookups := [], lk := {} }
    else if sect = 7 then { s1 with tm := {}, bp := {}, gl := [], poison := [] }
    else if sect = 9 then pxShow { s1 with ul := {}, ce := {}, px := { s1.px with lanes := [] } }
    else s1
  State.settle s (s2.put pgDV F.DV_RST_STAT_BUSY (s2.get pgDV F.DV_RST_STAT_BUSY ||| 2 ^ sect))

/-- An engine of PS0 to PS5, FS or US is enabled (R491). -/
def State.qsHeld (s : State) : Bool :=
  allPages.any (fun p =>
    match pageNo p with
    | none => false
    | some (k, i) => isCtrl k && decide (sectOf k i < 7 ∨ sectOf k i = 9) && s.en (4096 * p))

def rstReject (s : State) : State := s.putBit pgDV F.DV_RST_STAT_REJ true

/-- Run or Trim by what is hushed and gated (R453). -/
def trimState (s : State) : State :=
  if s.inRun then setPower (if (List.range 6).any (fun k => (s.reg (pgPS k + 0x044)).toNat % 256 != 0 || s.bit (pgPS k) F.PS_PWR_GATE)
    then 1 else 0) s
  else s

/-- DV_RST.SRST. -/
def srst (sect : Nat) (s : State) : State :=
  if 9 < sect ∨ sect = 8 ∨ s.inRun = false ∨ (s.get pgDV F.DV_RST_STAT_BUSY).testBit sect ∨ (sect = 7 ∧ s.qsHeld) then rstReject s
  else if decide (sect < 6) && s.bit (pgPS sect) F.PS_PWR_GATED then { s with dev := { s.dev with gatedRst := s.dev.gatedRst ||| 2 ^ sect } }
  else sectionReset sect s |> trimState

def sectionDone (sect : Nat) (s : State) : State :=
  let b := s.get pgDV F.DV_RST_STAT_BUSY
  if b.testBit sect && s.inRun then s.put pgDV F.DV_RST_STAT_BUSY (b - 2 ^ sect) else s

/-! ### Device and cold reset (R489, R490, R493, R495) -/

def keepDevice (a : Nat) : Bool := a / 4096 == pgPW / 4096 || a == pgDV + 0x284

/-- A device reset: wake steps 4 to 8 without rail cycling. -/
def deviceReset (last refs ue ce stall : Nat) (s : State) : State :=
  let role := s.pxRole
  let s1 := (coreOff keepDevice (closeDebug s)).put pgPX F.PX_CFG_ROLE role
  let s2 := (s1.put pgDV F.DV_RST_STAT_LAST last).put pgDV F.DV_RST_STAT_BUSY 0x7FF
  let s3 : State := { s2 with px := { s2.px with takeover := false, req := 0 }, pw := { s2.pw with step := 4, attempt := 1 } }
  wakeCore true refs ue ce stall (setPower 3 s3)

/-- DV_RST: the widest level governs. -/
def dvRst (w refs ue ce stall : Nat) (s : State) : State :=
  if w.testBit 31 then (if s.inRun then deviceReset 2 refs ue ce stall s else rstReject s)
  else if w.testBit 30 then srst (fld w 3 0) s
  else s

def sysrst (refs ue ce stall : Nat) (s : State) : State := if s.inRun then deviceReset 1 refs ue ce stall s else s

/-- A cold reset; the power-on wake begins. -/
def coldReset (role : Nat) (s : State) : State :=
  let s1 : State :=
    { hostMem := s.hostMem, cxl := s.cxl, now := s.now, free := s.free, out := s.out, pending := s.pending,
      px := { slots := s.px.slots }, pw := { since := s.now }, sc := { digest := s.sc.digest, nonceAt := s.sc.nonceAt, failAt := s.sc.failAt, rngBad := s.sc.rngBad } }
  let s2 := drawSeeds (s.fuses.foldl (fun x p => x.setReg p.1 p.2) s1)
  rails true [0] (s2.put pgPX F.PX_CFG_ROLE role)

/-! ### Hush and gating (R455, R456) -/

/-- A port is hushed: both lanes enter electrical idle. -/
def hush (n : Nat) (s : State) : State :=
  let tx := (s.lane n).tx
  let s1 := if tx = .off ∨ tx = .idle then s
            else (s.lst n F.LN_STATUS_TX_IDLE true).modLane n (fun l =>
              { l with tx := .idle, idlePend := false, detectDue := false, exitDue := false })
  let s2 := if (s1.lane (48 + n)).rx = .off then s1
            else lnFrozen (48 + n) ((s1.modLane (48 + n) (fun l => { l with rx := .idle })).lnState (48 + n) 3)
  lnLos (48 + n) false s2

/-- A port leaves hush: the PTX lane with a breath. -/
def unhush (n : Nat) (s : State) : State :=
  let s1 := if (s.lane (48 + n)).rx = .idle then
              lnFrozen (48 + n) ((s.modLane (48 + n) (fun l => { l with rx := .burst })).lnState (48 + n) 4)
            else s
  let s2 := txLeave n s1
  if s2.en (pgPE n 0) then peStart n s2 else s2

/-- PS_PWR changed from `old`. -/
def psPwrAct (sect old : Nat) (s : State) : State :=
  let w := (s.reg (pgPS sect + 0x044)).toNat
  let s1 := forN 8 (fun k s =>
    if w.testBit k && !old.testBit k then hush (8 * sect + k) s
    else if old.testBit k && !w.testBit k then unhush (8 * sect + k) s else s) s
  let s2 :=
    if w.testBit 31 && !old.testBit 31 then avsLimit ((s1.putBit (pgPS sect) F.PS_PWR_GATED true).raise (pgPS sect) 0)
    else if old.testBit 31 && !w.testBit 31 then
      let s3 := avsLimit (pitchStart sect ((s1.putBit (pgPS sect) F.PS_PWR_GATED false).raise (pgPS sect) 1))
      if s3.dev.gatedRst.testBit sect then
        sectionReset sect { s3 with dev := { s3.dev with gatedRst := s3.dev.gatedRst - 2 ^ sect } }
      else s3
    else s1
  trimState s2

/-- A write of PS_PWR. -/
def psPwrWrite (fn sect : Nat) (w : Word) (s : State) : State :=
  s.hostChange fn (pgPS sect + 0x044) w (fun old s => psPwrAct sect (old.reg (pgPS sect + 0x044)).toNat s)

/-- A write of PS_PWR that sets or clears bit `b` alone. -/
def psPwrBit (fn sect b : Nat) (v : Bool) (s : State) : State :=
  let w := (s.reg (pgPS sect + 0x044)).toNat
  let w0 := w - (w / 2 ^ b % 2) * 2 ^ b
  psPwrWrite fn sect (BitVec.ofNat 32 (w0 + if v then 2 ^ b else 0)) s

/-! ### Shorted pins (R499 to R501) -/

def pwPinLevel (s : State) : State := s.levelTo pgPW 4 ((s.reg (pgPW + 0x074)).toNat % 16 != 0)

/-- PWR_ENi is driven high: in Run and Trim, and in a wake once its step has begun (R460, R467). -/
def State.railOn (s : State) (i : Nat) : Bool := s.inRun || (s.get pgPW F.PW_STATE_STATE == 3 && decide (i + 1 ≤ s.pw.step))

/-- The level that is driven where a command can tell it: pulses of the other port pins go both ways. -/
def State.pinDriven (s : State) (p : Pin) : Option Bool :=
  match p with
  | .port n k => if k.val = 0 then some (s.txdis n.val) else none
  | .faultN => some (!s.faultAsserted)
  | .pwrEn i => some (s.railOn i.val)

/-- A pin reads `high` at 3 comparisons in a row: a short where that is not the level driven (R499). -/
def pinFault (p : Pin) (high : Bool) (s : State) : State :=
  if s.pinDriven p = some high then s else
  match p with
  | .port n k =>
    let w := (s.reg (pe0 n.val + 0x078)).toNat
    if s.pinShort n.val k.val then s
    else
      let s1 := (s.setReg (pe0 n.val + 0x078) (BitVec.ofNat 32 (w ||| 2 ^ (2 * k.val + if high then 1 else 0)))).incSat (pe0 n.val)
        F.PE_PIN_STAT_FAULTS
      pinLevel n.val (if k.val = 3 then trcAbort n.val s1 else s1)
  | .faultN => pwPinLevel (s.putBit pgPW F.PW_PIN_STAT_FAULT_N true)
  | .pwrEn i => pwPinLevel (s.put pgPW F.PW_PIN_STAT_PWR_EN (s.get pgPW F.PW_PIN_STAT_PWR_EN ||| 2 ^ i.val))

/-- The retry of a shorted pin: its readback matches or not. -/
def pinRetry (p : Pin) (good : Bool) (s : State) : State :=
  if !good then s
  else
    match p with
    | .port n k =>
      let w := (s.reg (pe0 n.val + 0x078)).toNat
      pinLevel n.val (s.setReg (pe0 n.val + 0x078) (BitVec.ofNat 32 (w - (w / 4 ^ k.val % 4) * 4 ^ k.val)))
    | .faultN => pwPinLevel (s.putBit pgPW F.PW_PIN_STAT_FAULT_N false)
    | .pwrEn i =>
      let b := s.get pgPW F.PW_PIN_STAT_PWR_EN
      pwPinLevel (s.put pgPW F.PW_PIN_STAT_PWR_EN (b - (b / 2 ^ i.val % 2) * 2 ^ i.val))

/-! ### Meanings -/

def execPorst (role : Bool) (t : Nat) (s : State) : Res := .next (coldReset (if role then 1 else 0) (s.at t))

def execSysrst (refs : BitVec 3) (ue : Byte) (ce : Nat) (stall : Fin 3) (t : Nat) (s : State) : Res :=
  .next (sysrst refs.toNat ue.toNat ce stall.val (s.at t))

def execDrst (fn : Fn) (w : Word) (refs : BitVec 3) (ue : Byte) (ce : Nat) (stall : Fin 3) (t : Nat) (s : State) : Res :=
  .next ((s.at t).access fn.val (pgDV + 0x280)
    (fun _ _ s => dvRst (2 ^ 31 + w.toNat % 2 ^ 31) refs.toNat ue.toNat ce stall.val s))

def execSrst (fn : Fn) (sect : BitVec 4) (s : State) : Res :=
  .next (s.access fn.val (pgDV + 0x280) (fun _ _ s => dvRst (2 ^ 30 + sect.toNat) 0 0 0 0 s))

def execSectionResetDone (sect : Fin 11) (s : State) : Res := .next (sectionDone sect.val s)

def execHush (fn : Fn) (port : Fin 48) (s : State) : Res := .next (psPwrBit fn.val (port.val / 8) (port.val % 8) true s)

def execUnhush (fn : Fn) (port : Fin 48) (s : State) : Res := .next (psPwrBit fn.val (port.val / 8) (port.val % 8) false s)

def execSectGated (fn : Fn) (sect : Fin 6) (s : State) : Res := .next (psPwrBit fn.val sect.val 31 true s)

def execSectUngated (fn : Fn) (sect : Fin 6) (s : State) : Res := .next (psPwrBit fn.val sect.val 31 false s)

def execPinShort (pin : Pin) (high : Bool) (s : State) : Res := .next (pinFault pin high s)

def execPinRetry (pin : Pin) (good : Bool) (s : State) : Res := .next (pinRetry pin good s)

end Sys2Proof.Machine
end

