-- ==== Sys2Proof/Machine/Checkpoint.lean ====
section
/-! DEFINITION. Chapter 18, the bellows: what an image holds, deltas, and applying them (R419 to R423, R427). -/

namespace Sys2Proof.Machine

/-! ### What the image holds (R421) -/

/-- The configuration bits that the image keeps of a register of PE and GS pages of protected ports and of their PS pages. -/
def State.ckRegMask (s : State) (a : Nat) : Nat :=
  let off := a % 4096
  match pageOf a with
  | none => 0
  | some (k, i) =>
    let mine :=
      match k with
      | .pe _ => s.protected_ i
      | .gs p => if 1 ≤ p ∧ p ≤ 8 then s.protected_ (8 * i + p - 1) else s.pxPorts.any (fun n => n / 8 == i)
      | .ps => s.pxPorts.any (fun n => n / 8 == i)
      | _ => false
    if !mine then 0
    else if off = 0x008 then (if isCtrl k then 1 else 0)
    else if off < 0x040 then 0
    else cfgMask (specsAt k off) 0 false &&& applyMask k i off

/-- The low `n` words of an entry. -/
def lowWords (n : Nat) : Nat := 2 ^ (32 * n) - 1

/-- The mark of an existing entry of a keyed table. -/
def usedBit : Nat := 2 ^ 511

def wholeEntry : Nat := 2 ^ 512 - 1

/-- The bits that the image keeps of a table entry, by table key. -/
def State.ckTabMask (s : State) (key : Nat) (e : Entry) : Nat :=
  let tid := key / 2 ^ 24 % 16
  match pageNo (key / 2 ^ 28) with
  | none => 0
  | some (k, i) =>
    match k with
    | .pe p =>
      if !s.protected_ i then 0
      else if p = 7 then (if tid = 0 then wholeEntry else if tid = 1 then lowWords 5 else 0)
      else if p = 3 ∧ tid = 0 then lowWords 7 - lowWords 4
      else if p = 8 ∧ tid = 0 then 0x9FF
      else if p = 2 ∧ tid = 0 then lowWords 2 + usedBit
      else if p = 4 ∧ tid = 0 then wholeEntry
      else 0
    | .gs p =>
      if 1 ≤ p ∧ p ≤ 8 then (if tid = 0 ∧ s.protected_ (8 * i + p - 1) then lowWords 6 + usedBit else 0)
      else if p = 9 ∧ s.pxPorts.any (fun n => n / 8 == i) then wholeEntry else 0
    | .tm p => if p = 0 ∧ tid ≤ 8 then (lowWords 6) else if p = 1 ∧ tid = 0 then lowWords 5 else 0
    | .lk _ =>
      if tid = 0 then wholeEntry - (lowWords 11 - lowWords 10)
      else if tid = 1 then (if eget e lSTATIC = 1 then wholeEntry - 2 ^ 125 else 0)
      else if tid = 3 then wholeEntry - (2 ^ 20 - 1) * 2 ^ 128
      else if tid = 2 ∨ (4 ≤ tid ∧ tid ≤ 7) then wholeEntry else 0
    | .ce => if tid = 0 then lowWords 4 else 0
    | .ul => if tid = 0 then lowWords 3 else 0
    | .gt p => if 2 ≤ p ∧ tid = 0 then wholeEntry else 0
    | _ => 0

def maskEntry (m : Nat) (e : Entry) : Entry := e &&& BitVec.ofNat 512 m

/-- The time bases that are acquired, as offsets from the reference port's. -/
def State.ckTimes (s : State) : List (Nat × Int × Nat) :=
  let r := s.fbTb s.refPort
  ((List.range 8).filter (fun n => s.bit (pgTB n) F.TE_TB_STAT_ACQ)).map (fun n =>
    (n, ((s.tNs n : Nat) : Int) - ((s.tNs r : Nat) : Int), (s.tb n).epoch))

/-- A snapshot. -/
def State.ckData (s : State) : CkData :=
  { regs := (s.regs.map (fun p => (p.1, BitVec.ofNat 32 (p.2.toNat &&& s.ckRegMask p.1)))).filter
              (fun p => s.ckRegMask p.1 != 0 && p.2.toNat != (resetWord p.1).toNat &&& s.ckRegMask p.1),
    tabs := (s.tabs.map (fun p => (p.1, maskEntry (s.ckTabMask p.1 p.2) p.2))).filter
              (fun p => p.2 != maskEntry (s.ckTabMask p.1 (sget (entReset p.1) s.tabs p.1)) (entReset p.1)),
    keys := s.keys.filter (fun p => s.protected_ (p.1 / 2048)),
    times := s.ckTimes, terms := s.get pgPX F.PX_STATE_TERMS }

/-- The items of `new` that differ from `old`; what `new` lists no more has its reset value. -/
def ckDiff (old new : CkData) : CkData :=
  { regs := new.regs.filter (fun p => !old.regs.contains p) ++
      (old.regs.filter (fun p => !new.regs.any (fun q => q.1 == p.1))).map (fun p => (p.1, resetWord p.1)),
    tabs := new.tabs.filter (fun p => !old.tabs.contains p) ++
      (old.tabs.filter (fun p => !new.tabs.any (fun q => q.1 == p.1))).map (fun p => (p.1, entReset p.1)),
    keys := new.keys.filter (fun p => !old.keys.contains p) ++
      (old.keys.filter (fun p => !new.keys.any (fun q => q.1 == p.1))).map (fun p => (p.1, 0)),
    times := new.times, terms := new.terms }

/-! ### Applying items (R423, R427) -/

/-- A table entry of an image or delta: the kept bits. A static layer-2 entry is judged by what is written. -/
def ckPutTab (s : State) (p : Nat × Entry) : State :=
  let old := sget (entReset p.1) s.tabs p.1
  let m := s.ckTabMask p.1 p.2 ||| s.ckTabMask p.1 old
  let e := maskEntry (wholeEntry - m) old ||| maskEntry m p.2
  s.putKey p.1 e

def ckPutReg (s : State) (p : Nat × Word) : State :=
  s.setReg p.1 (BitVec.ofNat 32 (candidate (s.ckRegMask p.1) (s.reg p.1).toNat p.2.toNat))

/-- What follows from the tables: children of tree nodes, the commitment of protected ports, the length filter. -/
def ckDerive (s : State) : State :=
  let s1 := [1, 2, 3, 5, 6, 7].foldl (fun s t =>
    (s.rows pTM t).foldl (fun s p => s.setNode t p.1 (eput (s.node t p.1) nCHILDREN (s.kids t p.1).length)) s) s
  let s2 := (s1.used pLK 2).foldl (fun s p => filtSet p.2 s) s1
  s2.pxPorts.foldl (fun s n => setCommit n s) s2

/-- Restored contexts that were still being activated become FREE (R427). -/
def ckFree (n : Nat) (s : State) : State :=
  ((s.liveCtx n).filter (fun c => decide (s.st n c ≤ 3))).foldl (fun s c =>
    (marginFree n c (dropKeys n c s)).setEnt (pgPE n 7) 1 c 0) s

/-- LOST runs from the restore; from which state the context was lost is not in the image. -/
def ckLost (n : Nat) (s : State) : State :=
  ((s.liveCtx n).filter (fun c => s.st n c == 4)).foldl (fun s c =>
    let d := s.draw
    d.2.modCx n c (fun x => { x with lostFrom := 5 + d.1 % 2, since := s.now })) s

/-- Apply the items of an image or a delta. -/
def ckApply (d : CkData) (s : State) : State :=
  let old := s
  let s1 := d.regs.foldl ckPutReg s
  let s2 := d.tabs.foldl ckPutTab s1
  let s3 : State := { s2 with keys := d.keys.foldl (fun m p => sset 0 m p.1 p.2) s2.keys,
                              px := { s2.px with times := d.times } }
  let s4 := ckDerive (s3.put pgPX F.PX_STATE_TERMS d.terms)
  forN 6 (fun k s => let o := (old.reg (pgPS k + 0x044)).toNat
                     if (s.reg (pgPS k + 0x044)).toNat = o then s else psPwrAct k o s) s4

/-- Before an image is applied, everything it could hold is at its reset value. -/
def ckClear (s : State) : State :=
  let s1 : State := s.regs.foldl (fun x p => ckPutReg x (p.1, resetWord p.1)) s
  { s1 with tabs := s1.tabs.filter (fun p => s1.ckTabMask p.1 p.2 == 0),
            keys := s1.keys.filter (fun p => !s1.protected_ (p.1 / 2048)) }

/-! ### The slots (R420) -/

def State.slot (s : State) (k : Nat) : Option CkSlot := sget none s.px.slots k
def setSlot (k : Nat) (x : CkSlot) (s : State) : State := { s with px := { s.px with slots := sset none s.px.slots k (some x) } }

/-- The committed slot of the highest GEN among `a` (slot A) and `b`. -/
def newestOf (a b : Option CkSlot) : Option (Nat × CkSlot) :=
  let ok (x : Option CkSlot) : Option CkSlot := x.filter (fun x => x.record.val == 1)
  match ok a, ok b with
  | some x, some y => if x.gen < y.gen then some (1, y) else some (0, x)
  | some x, none => some (0, x)
  | none, some y => some (1, y)
  | none, none => none

def State.newest (s : State) : Option (Nat × CkSlot) := newestOf (s.slot 0) (s.slot 1)

/-- One step of CRC-32C over a bit. -/
def crc32cBit (c : Nat) (b : Bool) : Nat :=
  let x := c ^^^ (if b then 1 else 0)
  if x % 2 = 1 then (x / 2) ^^^ 0x82F63B78 else x / 2

def crc32c (d : List Byte) : Nat := 0xFFFFFFFF - d.foldl (fun c b => (bitsLsb b).foldl crc32cBit c) 0xFFFFFFFF

/-- A commit record is valid (R420): its MAGIC and its CRC-32C are right. -/
def recordGood (d : List Byte) : Bool :=
  d.length == 64 && leNat (d.take 4) == 0xBE110500 && leNat (d.drop 60) == crc32c (d.take 60)

/-- A slot read back; a record of zeros is none, for nothing has been committed there. -/
def readSlot (x : CkRead) : CkSlot :=
  { record := if recordGood x.record then 1 else if x.record.all (fun b => b == 0) then 0 else 2, gen := leNat ((x.record.drop 8).take 8),
    crcGood := x.crcGood, poison := x.poison, unwraps := x.unwraps, data := x.data, deltas := x.deltas }

/-- The highest GEN in either slot. -/
def State.topGen (s : State) : Nat :=
  max (match s.slot 0 with | some x => x.gen | none => 0) (match s.slot 1 with | some x => x.gen | none => 0)

/-- The bellows works: this device is active, and a pair key is held (R421, R480). -/
def State.bellows (s : State) : Bool := s.pxEn && (s.pxState == 4 || s.pxState == 5) && s.bit pgSC F.SC_PAIR_STAT_VALID && !s.quiescing pgPX

/-- A snapshot for the slot that does not hold the newest commit; the image that was there is overwritten. -/
def ckImage (s : State) : State :=
  let slot := match s.newest with | some (k, _) => 1 - k | none => 0
  let s1 := match s.slot slot with
    | none => s
    | some x => setSlot slot { x with crcGood := false } s
  { s1 with px := { s1.px with image := some (slot, (s.pe s.refPort).sfc, s.ckData) } }

/-- `n` bytes that the spec leaves open. -/
def drawBytes : Nat → State → List Byte × State
  | 0, s => ([], s)
  | n + 1, s =>
    let d := s.draw
    let r := drawBytes n d.2
    (BitVec.ofNat 8 d.1 :: r.1, r.2)

/-- The commit record (R420). -/
def commitRecord (gen sfc : Nat) (terms : Nat) (s : State) : List Byte × State :=
  let v := drawBytes 1 s
  let gap := drawBytes 2 v.2
  let len := drawBytes 8 gap.2
  let rest := drawBytes 28 len.2
  let d := leBytes 4 0xBE110500 ++ v.1 ++ leBytes 1 (s.pxRole + 2 * terms) ++ gap.1 ++ leBytes 8 gen ++ leBytes 8 sfc ++
    len.1 ++ rest.1
  (d ++ leBytes 4 (crc32c d), rest.2)

/-- Where a slot starts. -/
def State.slotAddr (s : State) (k : Nat) : Nat :=
  s.get2 pgPX F.PX_CKPT_BASE_LO_ADDR F.PX_CKPT_BASE_HI_ADDR + k * s.get pgPX F.PX_CKPT_CFG_SLOT_MIB * 2 ^ 20

/-- SLOT, GEN and DSEQ of PX_CKPT_STAT. -/
def ckShow (slot gen dseq : Nat) (s : State) : State :=
  ((s.put pgPX F.PX_CKPT_STAT_SLOT slot).put pgPX F.PX_CKPT_STAT_GEN gen).put pgPX F.PX_CKPT_STAT_DSEQ dseq

/-- The writes of an image have completed: its commit record follows. -/
def ckCommit (s : State) : State :=
  match s.px.image with
  | none => s
  | some (slot, sfc, d) =>
    let s0 : State := { s with px := { s.px with image := none } }
    let gen := s.topGen + 1
    let r := commitRecord gen sfc d.terms s0
    if !r.2.mxUp || r.2.mxCheck true false true (s.slotAddr slot) 64 != 0 then mxWrite true false (s.slotAddr slot) r.1 r.2
    else
      let s1 := (mxWrite true false (s.slotAddr slot) r.1 r.2).bump pgPX C.PX_IMAGES
      let s2 := ckShow slot gen 0 (setSlot slot { record := 1, gen := gen, data := d } s1)
      { s2 with px := { s2.px with base := d } }

/-- The header of a delta (R420): DSEQ, GEN, length and a CRC over header and body. The bytes of the body, and with them the CRC, are
left open. -/
def deltaHead (dseq gen len : Nat) (s : State) : List Byte × State :=
  let crc := drawBytes 4 s
  let rest := drawBytes 12 crc.2
  (leBytes 4 dseq ++ leBytes 8 gen ++ leBytes 4 len ++ crc.1 ++ rest.1, rest.2)

/-- A delta for the newest slot, appended to its log through the memory port; one that overflows, or a full log, starts a full image instead. -/
def ckDelta (excess : Bool) (s : State) : State :=
  match s.newest with
  | none => s
  | some (k, x) =>
    if excess || decide (127 ≤ x.deltas.length) then (if s.px.image.isSome then s else ckImage s)
    else
      let now := s.ckData
      let n := x.deltas.length + 1
      let v := s.draw
      let len := v.1 % (65536 - 31)
      let h := deltaHead n x.gen len v.2
      let a := s.slotAddr k + 64 + (x.deltas.map (fun d => 32 + d.len)).foldl (· + ·) 0
      let s0 := mxWrite true false a h.1 h.2
      if !s.mxUp || s.mxCheck true false true a 32 != 0 then s0
      else
        let dl : CkDelta := { dseq := n, gen := x.gen, good := true, len := len, data := ckDiff s.px.base now }
        let s1 := setSlot k { x with deltas := x.deltas ++ [dl] } s0
        ckShow k x.gen n (({ s1 with px := { s1.px with base := now } } : State).bump pgPX C.PX_DELTAS)

/-! ### Restore (R423) -/

/-- Why a slot with a valid record cannot be restored: 0 nothing, 2 image CRC, 3 poison, 4 unwrap. -/
def slotCause (key : Bool) (x : CkSlot) : Nat :=
  if x.poison then 3 else if !x.crcGood then 2 else if !x.unwraps || !key then 4 else 0

/-- A slot's deltas in order, up to the first that does not follow; answers the state and the last DSEQ. -/
def applyDeltas (gen : Nat) : Nat → List CkDelta → State → Nat × State
  | k, [], s => (k, s)
  | k, d :: r, s => if d.good && d.gen == gen && d.dseq == k + 1 then applyDeltas gen (k + 1) r (ckApply d.data s) else (k, s)

/-- Both buckets of an allocation context are full, in a build under way too (R169). -/
def fillAlloc (n i : Nat) (s : State) : State :=
  let e := s.aent n i
  let full (c : GCore) : GCore := { c with ta := sset 0 c.ta i ((8 * eget e gAB : Nat) : Int), tp := sset 0 c.tp i (8 * eget e gPB),
                                           dc := sset 0 c.dc i 0, dbruAt := sset 0 c.dbruAt i 0 }
  s.modGp n (fun g => { g with core := full g.core, built := g.built.map (fun b => { b with core := full b.core }) })

/-- Buckets of restored nodes and allocation contexts start full (R169, R212). -/
def fillBuckets (s : State) : State :=
  let s1 := (List.range 8).foldl (fun s t =>
    ((s.rows pTM t).filter (fun p => eget p.2 nVALID == 1)).foldl (fun s p => fillNode t p.1 s) s) s
  s1.pxPorts.foldl (fun s n => (s.used (pgGP n) 0).foldl (fun s p => fillAlloc n p.1 s) s) s1

/-- Load a slot's image with its deltas. -/
def loadSlot (k : Nat) (x : CkSlot) (s : State) : State :=
  let r := applyDeltas x.gen 0 x.deltas (ckApply x.data (ckClear s))
  let s1 := fillBuckets (ckShow k x.gen r.1 r.2)
  let s2 := s1.pxPorts.foldl (fun s n => ckLost n (ckFree n s)) s1
  match s2.px.peerSfc with
  | none => s2
  | some p => s2.pxPorts.foldl (fun s n => keySwitch n p.1 s) s2

/-- CKPT_SLOT_FAIL with its cause. -/
def slotFail (cause : Nat) (s : State) : State :=
  let s1 := s.put pgPX F.PX_CKPT_STAT_CAUSE cause
  if cause = 0 then s1 else ({ s1 with px := { s1.px with slotFail := true } } : State).raise pgPX 8

/-- The restore: whether it succeeded, and the state. -/
def ckRestore (a b : CkSlot) (s : State) : Bool × State :=
  let s0 : State := { s with px := { s.px with slotFail := false } }
  let key := s.sc.pair != 0
  let bad := a.record.val == 2 || b.record.val == 2
  match newestOf (some a) (some b) with
  | none => (false, slotFail 6 s0)
  | some (k, x) =>
    let c := slotCause key x
    if c = 0 then (true, loadSlot k x (slotFail (if bad then 1 else 0) s0))
    else
      let y := if k = 0 then b else a
      if y.record.val = 1 ∧ slotCause key y = 0 then (true, loadSlot (1 - k) y (slotFail c s0)) else (false, slotFail 6 s0)

end Sys2Proof.Machine
end

