-- ==== Sys2Proof/Machine/Protection.lean ====
section
/-! DEFINITION. Chapter 18: the ligature, heartbeats, the decision, take-over, SHADOW, switches and MEASURE (R405 to R434). -/

namespace Sys2Proof.Machine

/-- The plant monitor at a change of STATE: traces of protected ports end with STATE 4 (R437), and on a take-over their laser machines
start anew. -/
def pxPlant (old n : Nat) (s : State) : State :=
  let full (x : Nat) : Bool := x == 4 || x == 5
  let s1 := if old = 4 ∧ n ≠ 4 then s.pxPorts.foldl (fun s i => trcAbort i s) s else s
  if full n && !full old then s1.pxPorts.foldl (fun s i => alsTakeover i s) s1 else s1

/-- STATE changes; ALIGNED and a running measurement belong to SHADOW (R429, R433). -/
def goPx (n : Nat) (s : State) : State :=
  let s0 := setPx n s
  let s1 := pxPlant s.pxState n { s0 with px := { s0.px with lastK := none } }
  if s.pxState = 3 ∧ n ≠ 3 then
    ({ s1 with px := { s1.px with measuring := false, aligned := [] } } : State).putBit pgPX F.PX_STATE_ALIGNED false |> switchShow 0
  else s1

/-- Enable the engines of the protected ports that are not running (R117). -/
def startPorts (s : State) : State :=
  s.pxPorts.foldl (fun s n =>
    if s.en (pe0 n) && !((s.pe n).running || (s.pe n).waiting) then
      peStart n (((s.putBit (pe0 n) F.ST_READY true).putBit (gsPg n) F.ST_READY (s.en (gsPg n))))
    else s) s

/-- SHADOW; with version 1 it is not entered, and the device waits with its transmitters off (R411). -/
def enterShadow (s : State) : State :=
  if s.pxVersion = 1 then goPx 2 s
  else startPorts (goPx 3 { s with px := { s.px with aligned := [], parts := [], maps := [], restored := false } })

/-- Return to standby (R416). -/
def standby (s : State) : State := if s.bit pgPX F.PX_CFG_COLD then restEntry true s else enterShadow s

/-! ### Requests (R410, R430, R431) -/

/-- A request byte: REQ, PRI (its rank) and the role of the requester. -/
def reqByte (req role : Nat) : Nat := req * 16 + req * 2 + role

def byteReq (b : Nat) : Nat := b / 16

/-- The winner among the own and the peer's accepted request, as a byte. -/
def State.winner (s : State) : Nat :=
  let own := reqByte s.px.req s.pxRole
  let peer := s.get pgPX F.PX_SWQ_RX_A
  if byteReq own < byteReq peer then peer
  else if byteReq peer < byteReq own then own
  else if s.pxRole = 0 then own else peer

/-- K: the first superframe boundary at least SW_LEAD frames ahead. -/
def State.switchFrame (s : State) : Nat := boundaryAfter (s.pe s.refPort).sfc (s.get pgPX F.PX_CFG_SW_LEAD)

def setK (k : Option Nat) (s : State) : State :=
  let s1 : State := { s with px := { s.px with k := k } }
  switchShow (match k with | none => 0 | some f => sfcDiff f (s.pe s.refPort).sfc) s1

/-- Take the winner: what is sent, a lockout, and at the active device a switch that wins. -/
def arbitrate (s : State) : State :=
  let w := s.winner
  let req := byteReq w
  let s1 := (s.put pgPX F.PX_SWQ_TX_A (reqByte s.px.req s.pxRole)).put pgPX F.PX_SWQ_TX_B w
  let s2 := s1.putBit pgPX F.PX_CMD_STAT_LO (req == 6)
  if req = 6 then setK none s2
  else if (s2.pxState = 4 ∨ s2.pxState = 5) ∧ (req = 2 ∨ req = 3 ∨ req = 5) ∧ w % 2 ≠ s2.pxRole ∧ s2.px.k.isNone ∧
      s2.pxMismatch = false then setK (some s2.switchFrame) s2
  else s2

/-- Withdraw the own request. -/
def setReq (r : Nat) (s : State) : State := arbitrate { s with px := { s.px with req := r } }

/-! ### Hearing the peer (R412 to R414, R418) -/

/-- The peer is in STATE 4 or 5, as the ligature or path B last told. -/
def State.peerActive (s : State) : Bool :=
  let p := s.get pgPX F.PX_STATE_PEER
  (s.bit pgPX F.PX_STATE_B_OK && (p == 4 || p == 5)) || (s.bit pgPX F.PX_STATE_A_OK && (s.px.ligState == 4 || s.px.ligState == 5))

/-- The peer was heard on a path. -/
def heardPeer (s : State) : State :=
  let s1 : State := { s with px := { s.px with failed := false, armed := none } }
  let s2 := if s.px.failed then s1.recovered pgPX 2 else s1
  if s2.resting || s2.pxMismatch then s2
  else if s2.pxState = 2 ∧ s2.px.takeover ∧ s2.peerActive ∧ s2.inRun then
    standby (({ s2 with px := { s2.px with takeover := false } } : State).bump pgPX C.PX_ABORTS)
  else if (s2.pxState = 4 ∨ s2.pxState = 5) ∧ s2.peerActive ∧ s2.pxRole = 1 then standby (goPx 7 s2)
  else s2

/-! ### MAP messages (R409, R428, R429) -/

/-- An allocation of a received map. -/
def alcOf (n : Nat) (a : MapAlloc) (s : State) : Alc :=
  let e := (s.used (pgGP n) 0).find? (fun p => eget p.2 gID == a.id.toNat)
  { entry := e.map (fun p => p.1), bytes := a.bytes.toNat, dbru := a.dbru, ploam := a.ploam,
    phase := match e with | some p => if eget p.2 gTYPE = 0 then 1 else 4 | none => 1 }

/-- A burst of a received map; none for an ONU-ID no context holds. -/
def burstOf (n : Nat) (b : MapBurst) (s : State) : Option Burst :=
  match (s.liveCtx n).find? (fun c => s.onuId n c == b.onu.toNat) with
  | none => none
  | some c =>
    let l := b.allocs.map (fun a => alcOf n a s)
    some { onu := c, prof := b.prof.val, start := b.start, size := b.size, allocs := l, ovh := s.ovh n (s.prof n b.prof.val),
           fixed := !l.isEmpty && l.all (fun a => match a.entry with | some i => eget (s.aent n i) gTYPE == 0 | none => false) }

/-- The PSBd timestamp that a map carries, in parts of a nanosecond. -/
def mapStamp (m : MapMsg) : Int := (((m.sec.toNat * 1000000000 + m.ns.toNat) * tbUnit + m.frac.toNat * tbUnit / 64 : Nat) : Int)

/-- The counter and timestamp of a map against the own frame (R429). -/
def mapAlign (n : Nat) (m : MapMsg) (s : State) : State :=
  let p := s.pe n
  let good := (m.sfc == p.sfc || m.sfc == p.next) &&
    decide ((mapStamp m - s.psbdAt n m.sfc).natAbs ≤ s.get pgPX F.PX_CFG_ALIGN_TOL * tbUnit)
  let run := if good then min 64 (sget 0 s.px.aligned n + 1) else 0
  let s1 : State := { s with px := { s.px with aligned := sset 0 s.px.aligned n run } }
  s1.putBit pgPX F.PX_STATE_ALIGNED (s1.pxPorts.all (fun n => sget 0 s1.px.aligned n == 64))

/-- A whole map: its windows open with its frame, or at once where that frame has begun. -/
def mapWhole (n : Nat) (m : GMap) (s : State) : State :=
  if m.sfc = (s.pe n).sfc then openWindows n m s
  else { s with px := { s.px with maps := sset [] s.px.maps n (sget [] s.px.maps n ++ [m]) } }

/-- One MAP message: a map is used once every part of it is held. -/
def mapRx (m : MapMsg) (s : State) : State :=
  let n := m.port.toNat
  if !(s.pxShadow n) || s.pxVersion != 2 then s
  else
    let part := m.part.val
    let held := sget (0, 0, []) s.px.parts n
    let before := if part = 0 then some [] else if held.1 = m.sfc + 1 ∧ held.2.1 = part then some held.2.2 else none
    let s0 := if part = 0 then mapAlign n m s else s
    match before with
    | none => { s0 with px := { s0.px with parts := sset (0, 0, []) s0.px.parts n (0, 0, []) } }
    | some l =>
      let all := l ++ m.bursts
      if m.last then
        let s1 : State := { s0 with px := { s0.px with parts := sset (0, 0, []) s0.px.parts n (0, 0, []) } }
        mapWhole n { sfc := m.sfc, bursts := all.filterMap (fun b => burstOf n b s1) } s1
      else { s0 with px := { s0.px with parts := sset (0, 0, []) s0.px.parts n (m.sfc + 1, part + 1, all) } }

/-! ### Ligature frames (R407 to R412) -/

/-- One step of the CRC of R407, x^16 + x^12 + x^5 + 1. -/
def crc16Bit (c : Nat) (b : Bool) : Nat :=
  let x := (c * 2) % 65536
  if xor (c.testBit 15) b then x ^^^ 0x1021 else x

/-- That CRC over bytes. DEDUCED (log entry 119): from 0, the most significant bit of a byte first. -/
def crc16 (d : List Byte) : Nat := d.foldl (fun c b => (bitsLsb b).reverse.foldl crc16Bit c) 0

/-- The header CRC checks and every codeword decodes. -/
def ligGood (f : LigFrame) : Bool := f.hdr.length == 8 && f.head.length == 32 && crc16 (f.hdr.take 6) == beNat (f.hdr.drop 6) && f.rs

/-- Fields of the frame header and of the payload header (R407, R409). -/
def ligLogical (f : LigFrame) : Nat := (f.hdr.getD 0 0).toNat / 64
def ligFcnt (f : LigFrame) : Nat := beNat ((f.hdr.drop 1).take 4)
def ligVerMax (f : LigFrame) : Nat := (f.hdr.getD 5 0).toNat
def ligSwqA (f : LigFrame) : Nat := (f.head.getD 0 0).toNat
def ligSwqB (f : LigFrame) : Nat := (f.head.getD 1 0).toNat
def ligHbCnt (f : LigFrame) : Nat := beNat ((f.head.drop 2).take 2)
def ligStateOf (f : LigFrame) : Nat := (f.head.getD 4 0).toNat % 16
def ligSwitch (f : LigFrame) : Nat := beNat ((f.head.drop 8).take 8) % sfcSpan

/-- The payload header that every frame sent carries (R409): both request bytes, HB_CNT, ROLE and STATE, the version in use, and K of
a pending switch at the active device. -/
def ligHeader (s : State) : List Byte :=
  let k := if s.pxState = 4 ∨ s.pxState = 5 then s.px.k.getD 0 else 0
  beBytes 1 (s.get pgPX F.PX_SWQ_TX_A) ++ beBytes 1 (s.get pgPX F.PX_SWQ_TX_B) ++ beBytes 2 s.px.hbSent ++
    beBytes 1 (s.pxRole * 16 + s.pxState) ++ beBytes 1 s.pxVersion ++ [0, 0] ++ beBytes 8 k ++ List.replicate 16 0

/-- Frames from counter `c` to `f`, modulo 2^32. -/
def fcntDist (c f : Nat) : Nat := (f + 2 ^ 32 - c % 2 ^ 32) % 2 ^ 32

/-- A frame takes its place among those that wait, in the order of their distance from `c`. -/
def aheadInsert (c : Nat) (x : Nat × LigFrame) : List (Nat × LigFrame) → List (Nat × LigFrame)
  | [] => [x]
  | y :: r => if fcntDist c x.1 < fcntDist c y.1 then x :: y :: r else y :: aheadInsert c x r

/-- The frames that can be taken in the order of FCNT, of those that wait with distances from `c` (R408): `next` is the distance
expected, `last` that of the newest frame, and a frame missing for more than 8 is not waited for. Answers what is taken and what still
waits. -/
def aheadTake (c last : Nat) : Nat → List (Nat × LigFrame) → List (Nat × LigFrame) × List (Nat × LigFrame)
  | _, [] => ([], [])
  | next, y :: r =>
    let d := fcntDist c y.1
    if d ≤ next ∨ d + 7 < last then
      let t := aheadTake c last (d + 1) r
      (y :: t.1, t.2)
    else ([], y :: r)

/-- A received request byte: accepted after 3 equal frames. -/
def candidateStep (cur v : Nat) (c : Nat × Nat) : (Nat × Nat) × Bool :=
  if v = cur then ((0, 0), false)
  else
    let run := if c.1 = v then c.2 + 1 else 1
    if 3 ≤ run then ((0, 0), true) else ((v, run), false)

def swqRx (a b : Nat) (s : State) : State :=
  let x := candidateStep (s.get pgPX F.PX_SWQ_RX_A) a s.px.candA
  let y := candidateStep (s.get pgPX F.PX_SWQ_RX_B) b s.px.candB
  let s1 : State := { s with px := { s.px with candA := x.1, candB := y.1 } }
  let s2 := if y.2 then s1.put pgPX F.PX_SWQ_RX_B b else s1
  if x.2 then arbitrate ((s2.put pgPX F.PX_SWQ_RX_A a).raise pgPX 4) else s2

/-- SWITCH_SFC as the device in SHADOW takes it from the active one. -/
def switchRx (k : Nat) (s : State) : State :=
  if s.pxState = 3 then setK (if k = 0 then none else some k) s else s

/-- A good frame in its turn: version, heartbeat, requests, SWITCH_SFC and MAP messages. -/
def ligAccept (f : LigFrame) (s : State) : State :=
  let fresh := s.px.hbRx != some (ligHbCnt f)
  let x := { s.px with peerVer := ligVerMax f, ligState := ligStateOf f, hbRx := some (ligHbCnt f),
                       aAt := if fresh then some s.now else s.px.aAt }
  let s1 : State := { s with px := x }
  let s2 := if fresh then s1.putBit pgPX F.PX_STATE_A_OK true else s1
  let s3 := switchRx (ligSwitch f) (swqRx (ligSwqA f) (ligSwqB f) (pxShow s2))
  let s4 := f.maps.foldl (fun s m => mapRx m s) s3
  if fresh then heardPeer s4 else s4

/-- A ligature frame on an aligned lane: a bad one is discarded and counted, a good one is taken in the order of FCNT. -/
def ligFrame (lane : Nat) (f : LigFrame) (s : State) : State :=
  if !s.pxEn || s.resting || sget 0 s.px.lanes lane == 0 then s
  else if !ligGood f then s.bump pgPX C.PX_LIG_BAD
  else
    let s1 : State := { s with px := { s.px with lanes := sset 0 s.px.lanes lane (ligLogical f + 1) } }
    let c := s.px.fcnt.getD (ligFcnt f)
    if 2 ^ 31 ≤ fcntDist c (ligFcnt f) then pxShow s1
    else
      let l := aheadInsert c (ligFcnt f, f) s.px.ahead
      let last := match l.getLast? with | some y => fcntDist c y.1 | none => 0
      let t := aheadTake c last 0 l
      let next := match t.1.getLast? with | some y => (y.1 + 1) % 2 ^ 32 | none => c
      t.1.foldl (fun s y => ligAccept y.2 s) (pxShow { s1 with px := { s1.px with fcnt := some next, ahead := t.2 } })

/-- A restored standby enters SHADOW once the ligature is up (R428), but not with versions that do not match (R411). -/
def shadowDue (s : State) : State :=
  if s.px.restored && s.pxState == 2 && s.ligUp && s.inRun && !s.pxMismatch then enterShadow s else s

/-- The alignment pattern (R407). -/
def ligPattern : Nat := 0x7E29B45CD10FA36B

/-- Differing bits between a received word and the pattern. -/
def ligDiffer (w : BitVec 64) : Nat := (List.range 64).countP (fun i => w.toNat.testBit i != ligPattern.testBit i)

/-- A candidate, which the word 32,768 bits later confirms (R408). -/
def ligAlign (lane : Nat) (word confirm : BitVec 64) (logical : Nat) (s : State) : State :=
  if ligDiffer word = 0 ∧ ligDiffer confirm ≤ 3 then
    shadowDue (pxShow { s with px := { s.px with lanes := sset 0 s.px.lanes lane (logical + 1) } })
  else s

/-- Four alignment words in a row (R408); the order of frames starts anew with the next one. -/
def ligAlignLoss (lane : Nat) (ws : List (BitVec 64)) (s : State) : State :=
  if ws.all (fun w => decide (3 < ligDiffer w)) then
    pxShow { s with px := { s.px with lanes := sset 0 s.px.lanes lane 0, fcnt := none, ahead := [] } }
  else s

/-! ### Revertive switching (R434) -/

/-- The conditions under which WTR counts. -/
def State.wtrHolds (s : State) : Bool :=
  !s.regs.any (fun p => p.1 % 4096 == 0x00C && p.2.toNat.testBit 2) && !s.px.slotFail && s.bit pgPX F.PX_STATE_ALIGNED &&
    s.pxPorts.all (fun n => !(s.liveCtx n).any (fun c => s.ranged n c) || decide ((s.pe n).sfc / 8 ≤ sget 0 s.px.okSuper n))

/-- WTR in cycles. -/
def State.wtrTime (s : State) : Nat := s.get pgPX F.PX_TMO_WTR * cyclesPerSec

def wtrTick (s : State) : State :=
  if s.pxEn && s.bit pgPX F.PX_CFG_REVERT && s.pxRole == 0 && s.pxState == 3 then
    let since := if s.wtrHolds then some (s.px.wtrAt.getD s.now) else none
    let s1 : State := { s with px := { s.px with wtrAt := since } }
    let left := match since with
      | none => s.get pgPX F.PX_TMO_WTR
      | some t => (t + s.wtrTime - s.now + cyclesPerSec - 1) / cyclesPerSec
    let s2 := s1.put pgPX F.PX_STATE_WTR_LEFT left
    if s2.px.req = 0 then setReq 1 s2 else s2
  else
    let s1 := ({ s with px := { s.px with wtrAt := none } } : State).put pgPX F.PX_STATE_WTR_LEFT 0
    if s1.px.req = 1 ∨ s1.px.req = 2 then setReq 0 s1 else s1

/-- HB_CNT counts, and the frames from here on carry it. -/
def hbTick (s : State) : State :=
  if s.pxEn && s.inRun then
    let s1 := wtrTick { s with px := { s.px with hbSent := (s.px.hbSent + 1) % 65536 } }
    s1.emit (.ligHeader (ligHeader s1))
  else s

def wtrExpiry (s : State) : State :=
  match s.px.wtrAt with
  | none => s
  | some t =>
    if s.pxState = 3 ∧ s.px.req = 1 ∧ s.wtrHolds ∧ t + s.wtrTime ≤ s.now ∧ s.pxMismatch = false then setReq 2 s else s

/-! ### Path B (R413) -/

/-- The path-B word (R413): SYNC, VER_MAX 2, ROLE, STATE, the superframe counter and the CRC over bits 16 to 74. -/
def hbBits (role state sfc : Nat) : Nat :=
  let w := 2 + role * 2 ^ 4 + state * 2 ^ 5 + sfc % 2 ^ 51 * 2 ^ 8
  0xF0B4 + w * 2 ^ 16 + ((List.range 59).map w.testBit).foldl crc16Bit 0 * 2 ^ 75

def hbWordTx (s : State) : State :=
  if s.pxEn then s.emit (.hbWord (hbBits s.pxRole s.pxState (if s.resting then 0 else (s.pe s.refPort).sfc))) else s

/-- The length of a word, 125 µs, in cycles. -/
def wordCycles : Nat := 155520

/-- A received word as it stands after the pair is put right: whether SYNC was reversed, and the word; none without a SYNC. -/
def hbSync (w : Nat) : Option (Bool × Nat) :=
  if w % 2 ^ 16 = 0xF0B4 then some (false, w) else if w % 2 ^ 16 = 0x0F4B then some (true, 2 ^ 125 - 1 - w) else none

/-- The CRC of a word checks. -/
def hbGood (w : Nat) : Bool := ((List.range 59).map (w / 2 ^ 16).testBit).foldl crc16Bit 0 == w / 2 ^ 75 % 2 ^ 16

/-- Fields of a word. -/
def hbVerMax (w : Nat) : Nat := w / 2 ^ 16 % 2 ^ 4
def hbState (w : Nat) : Nat := w / 2 ^ 21 % 2 ^ 3
def hbSfc (w : Nat) : Nat := w / 2 ^ 24 % 2 ^ 51

/-- A word on path B (R413). -/
def hbWordRx (bits : Nat) (s : State) : State :=
  if !s.pxEn then s
  else
    match hbSync bits with
    | none => s
    | some (rev, w) =>
      let s1 := if rev = s.bit pgPX F.PX_STATE_B_INV then s else pxRaise 9 (s.putBit pgPX F.PX_STATE_B_INV rev)
      if !hbGood w then s1
      else
        let st := hbState w
        let x := { s1.px with bAt := some s1.now, peerVer := hbVerMax w,
                              peerSfc := if st = 4 ∨ st = 5 then some (hbSfc w, s1.now - wordCycles) else s1.px.peerSfc }
        let s2 := (({ s1 with px := x } : State).putBit pgPX F.PX_STATE_B_OK true).put pgPX F.PX_STATE_PEER st
        heardPeer (pxShow s2)

/-- HB_MISS has passed since `last`. -/
def State.silent (s : State) (last : Option Nat) : Bool := decide (last.getD 0 + s.hbMiss ≤ s.now)

/-- Path A is silent. -/
def dropA (s : State) : State := s.putBit pgPX F.PX_STATE_A_OK false

/-- Path B is silent. -/
def dropB (s : State) : State := (s.putBit pgPX F.PX_STATE_B_OK false).put pgPX F.PX_STATE_PEER 15

def hbALoss (s : State) : State := if s.pxEn && (s.resting || s.silent s.px.aAt) then pxShow (dropA s) else s

def hbBLoss (s : State) : State := if s.pxEn && s.silent s.px.bAt then pxShow (dropB s) else s

/-! ### The decision (R414 to R417) -/

/-- The instant 3 × HB_MISS after the last word heard. -/
def State.deadline (s : State) : Nat := s.px.bAt.getD 0 + 3 * s.hbMiss

/-- What the device does at a declaration and every WIT_WIN after it. -/
def witnessAct (wlos : Nat) (s0 : State) : State :=
  let s := witShow wlos s0
  let hears := s.witness wlos
  let lo := s.bit pgPX F.PX_CMD_STAT_LO
  let sec := s.pxRole == 1
  if s.pxMismatch then s
  else if s.pxState = 1 then
    if hears || lo then s else wakeStart 1 { s with px := { s.px with droneUntil := if sec then s.deadline else 0 } }
  else if s.pxState = 3 then
    { s with px := { s.px with armed := if hears || lo then none else some (if sec then s.deadline else 0) } }
  else if s.pxState = 4 then (if sec && !hears then goPx 7 s else s)
  else if s.pxState = 7 then (if hears then standby s else s)
  else s

/-- PEER_FAIL: both paths silent for HB_MISS. -/
def peerFail (wlos : Nat) (s : State) : State :=
  if s.pxEn && !s.px.failed && (s.resting || s.silent s.px.aAt) && s.silent s.px.bAt then
    let s1 := pxShow (dropB (dropA { s with px := { s.px with failed := true } }))
    witnessAct wlos (pxRaise 2 s1)
  else s

def witnessEval (wlos : Nat) (s : State) : State := if s.pxEn && s.px.failed then witnessAct wlos s else s

def holdExpiry (s : State) : State :=
  if s.pxEn && s.pxState == 7 && s.px.failed && !s.pxMismatch && !s.bit pgPX F.PX_CMD_STAT_LO && !s.witRun && decide (s.deadline ≤ s.now) then goPx 5 s else s

/-- The last 200 ms of every second from entry (R417). -/
def listenPeriod (s : State) : State :=
  if s.pxEn && s.pxState == 5 then
    if s.px.light && !s.pxMismatch then standby s
    else
      let phase := (s.now - s.px.provAt) % cyclesPerSec
      { s with px := { s.px with listening := decide (cyclesPerSec * 4 / 5 ≤ phase) } }
  else s

def provisionalPromote (s : State) : State :=
  if s.pxEn && s.pxState == 5 && !s.pxMismatch && s.pxPorts.any (fun n => decide (8 ≤ (sget (0, 0) s.px.ok n).2)) then goPx 4 s else s

/-! ### Take-over (R424 to R426) -/

/-- Step 4: every time base from the counter of the failed peer and the recorded offsets. -/
def takeoverTime (sfc start : Nat) (s : State) : State :=
  let r := s.fbTb s.refPort
  let e := (s.now - start) * 3125 * (tbUnit / 3888)
  let base : Int := (((s.ofsReg s.refPort + sfc * 125000) * tbUnit + e : Nat) : Int)
  let s1 := tbApply r 1 base restepNote s
  s.px.times.foldl (fun s p =>
    let s1 := if p.1 = r then s else tbApply p.1 1 (base + p.2.1 * tbUnit) restepNote s
    s1.setTb p.1 { s1.tb p.1 with epoch := p.2.2 }) s1

/-- Re-range every ranged context of a port. -/
def rerangeAll (n : Nat) (s : State) : State := ((s.liveCtx n).filter (fun c => s.ranged n c)).foldl (fun s c => rerange n c s) s

/-- Step 6 on a port: the equalisation offset, or RERANGE. -/
def takeoverOfs (n : Nat) (s : State) : State :=
  if s.get pgPX F.PX_STATE_TERMS = s.pxRole then s
  else if s.bit pgPX (F.PX_OFS_VALID.ix n) then
    let d := s.getI pgPX (F.PX_OFS_OFS.ix n)
    let s1 := (s.putI (pgPE n 7) F.PE_RNG_ADJ_ADJ (if s.pxRole = 1 then -d else d)).putBit (pgPE n 7) F.PE_ACT_CMD_STAT_REJ false
    let s2 := bcastAdj n s1
    if s2.bit (pgPE n 7) F.PE_ACT_CMD_STAT_REJ then rerangeAll n s2 else s2
  else rerangeAll n s

/-- Steps 4 to 6 of a cold take-over. -/
def takeover (s : State) : State :=
  match s.px.peerSfc with
  | none => pxUnable s
  | some p =>
    let s1 := startPorts (takeoverTime p.1 p.2 s)
    let s2 := s1.pxPorts.foldl (fun s n => takeoverOfs n s) (s1.bump pgPX C.PX_TAKEOVERS)
    let s3 := s2.put pgPX F.PX_STATE_TERMS s2.pxRole
    goPx (if s3.pxRole = 1 then 5 else 4) { s3 with px := { s3.px with takeover := false } }

/-- The restore ends (R423, R424, R428). -/
def restored (shared : Option (CkRead × CkRead)) (s : State) : State :=
  if s.pxEn && s.pxState == 2 && s.inRun && s.mxUp && !s.px.restored then
    let blank : CkSlot := { record := 0, gen := 0, data := {} }
    let x := match shared with
      | some r => (readSlot r.1, readSlot r.2)
      | none => ((s.slot 0).getD blank, (s.slot 1).getD blank)
    let s0 := setSlot 1 x.2 (setSlot 0 x.1 s)
    let r := ckRestore x.1 x.2 s0
    if !r.1 then pxUnable r.2
    else if r.2.px.takeover && !r.2.pxMismatch then takeover r.2
    else shadowDue { r.2 with px := { r.2.px with restored := true } }
  else s

/-- The active device's delta, applied in SHADOW. -/
def shadowDelta (d : CkDelta) (s : State) : State :=
  if s.pxEn && s.pxState == 3 && d.good then
    (ckApply d.data s).put pgPX F.PX_CKPT_STAT_DSEQ d.dseq |>.put pgPX F.PX_CKPT_STAT_GEN d.gen
  else s

/-! ### What a frame boundary of the reference port brings -/

/-- An armed take-over from SHADOW, light in a listen period, and the frames left to K. -/
def pxBoundary (n : Nat) (s : State) : State :=
  if !s.pxEn || n != s.refPort then s
  else
    let s1 := if s.pxState = 5 ∧ s.px.light ∧ s.pxMismatch = false then standby s else s
    let s2 := match s1.px.armed with
      | none => s1
      | some d => if s1.pxState = 3 ∧ d ≤ s1.now ∧ s1.pxMismatch = false ∧ s1.bit pgPX F.PX_CMD_STAT_LO = false then goPx (if s1.pxRole = 1 then 5 else 4) s1 else s1
    match s2.px.k with
    | none => s2
    | some k => switchShow (sfcDiff k (s2.pe n).sfc) s2

/-- Frame K (R431). -/
def switchK (s : State) : State :=
  match s.px.k with
  | none => s
  | some k =>
    let p := s.pe s.refPort
    if !passed p.next k || s.pxMismatch then s
    else
      let done (s : State) : State :=
        let s1 := setK none ({ s with px := { s.px with lastK := some k } } |>.bump pgPX C.PX_SWITCHES)
        if s1.px.req = 2 ∨ s1.px.req = 3 ∨ s1.px.req = 5 then setReq 0 s1 else s1
      if s.pxState = 3 then done (goPx 4 s)
      else if s.pxState = 4 ∨ s.pxState = 5 then
        let mine := ((s.rows pTM 0).filter (fun q => eget q.2 nVALID == 1 && s.protected_ (s.rootOf 0 q.1))).map (fun q => q.1)
        let s1 := mine.foldl (fun s q => flushQueue 0 q s) s
        let s2 := enterShadow { s1 with px := { s1.px with image := none } }
        done { s2 with px := { s2.px with switchAt := some s2.now } }
      else s

def switchRest (s : State) : State :=
  match s.px.switchAt with
  | none => s
  | some t =>
    if s.pxState = 3 ∧ s.bit pgPX F.PX_CFG_COLD ∧ t + cyclesPerSec ≤ s.now then
      restEntry true { s with px := { s.px with switchAt := none } }
    else s

/-! ### PX_CMD (R430, R433) -/

def pxReject (s : State) : State := s.putBit pgPX F.PX_CMD_STAT_REJ true

def pxCommand (op : Nat) (s : State) : State :=
  let shadow := s.pxState == 3 && !s.pxMismatch && s.px.req != 6
  if op = 0 then s
  else if !s.pxEn then pxReject s
  else if op = 1 then (if shadow && s.bit pgPX F.PX_STATE_ALIGNED then setReq 3 s else pxReject s)
  else if op = 2 then (if shadow then setReq 5 s else pxReject s)
  else if op = 3 then setReq 6 s
  else if op = 4 then setReq 0 s
  else if op = 5 then
    if s.pxState = 3 ∧ s.get pgPX F.PX_STATE_TERMS ≠ s.pxRole then
      switchShow (s.get pgPX F.PX_CMD_STAT_LEFT) { s with px := { s.px with measuring := true, meas := [] } }
    else pxReject s
  else if op = 6 then (if s.pxState = 3 ∧ s.pxMismatch = false then restEntry true s else pxReject s)
  else pxReject s

/-- Ports whose bursts are all counted take their result; the measurement ends with the last of them. -/
def measureDone (s : State) : State :=
  if !s.px.measuring then s
  else
    let want := s.get pgPX F.PX_MEAS_BURSTS
    let full (n : Nat) : Bool := decide (want ≤ (sget (0, 0) s.px.meas n).1)
    let s1 := (s.pxPorts.filter full).foldl (fun s n =>
      let m := sget (0, 0) s.px.meas n
      let d := roundDiv m.2 (max 1 m.1)
      (s.putI pgPX (F.PX_OFS_OFS.ix n) (if s.pxRole = 1 then d else -d)).putBit pgPX (F.PX_OFS_VALID.ix n) true) s
    if s1.pxPorts.all full then switchShow (s1.get pgPX F.PX_CMD_STAT_LEFT) { s1 with px := { s1.px with measuring := false } }
    else s1

/-- PX_CFG.EN changed. -/
def pxCfgAct (was : Bool) (s : State) : State :=
  let en := s.pxEn
  if en = was then pxShow s
  else if en then
    let s1 := pxShow s
    if s1.pxRole = 0 ∧ s1.peerActive = false then arbitrate (goPx 4 s1) else arbitrate (enterShadow s1)
  else
    let s1 := goPx 0 s
    let s2 : State := { s1 with px := { s1.px with failed := false, req := 0, k := none, armed := none, image := none, takeover := false,
                                                   restored := false, wtrAt := none, switchAt := none } }
    pxShow (switchShow 0 ((s2.recovered pgPX 2).putBit pgPX F.PX_CMD_STAT_LO false))

/-! ### Meanings -/

def execLigFrameRx (lane : Fin 4) (f : LigFrame) (t : Nat) (s : State) : Res := .next (ligFrame lane.val f (s.at t))

def execLigAlign (lane : Fin 4) (words : AlignWords) (s : State) : Res :=
  .next (ligAlign lane.val words.word words.confirm words.logical.val s)

def execLigAlignLoss (words : LaneWords) (s : State) : Res :=
  .next (ligAlignLoss words.lane.val [words.w0, words.w1, words.w2, words.w3] s)

def execHbTick (t : Nat) (s : State) : Res := .next (hbTick (s.at t))

def execHbWordTx (s : State) : Res := .next (hbWordTx s)

def execHbWordRx (bits : BitVec 125) (t : Nat) (s : State) : Res := .next (hbWordRx bits.toNat (s.at t))

def execHbALoss (t : Nat) (s : State) : Res := .next (hbALoss (s.at t))

def execHbBLoss (t : Nat) (s : State) : Res := .next (hbBLoss (s.at t))

def execPeerFail (wlos : Byte) (t : Nat) (s : State) : Res := .next (peerFail wlos.toNat (s.at t))

def execWitnessEval (wlos : Byte) (t : Nat) (s : State) : Res := .next (witnessEval wlos.toNat (s.at t))

def execHoldExpiry (t : Nat) (s : State) : Res := .next (holdExpiry (s.at t))

def execListenPeriod (t : Nat) (s : State) : Res := .next (listenPeriod (s.at t))

def execProvisionalPromote (s : State) : Res := .next (provisionalPromote s)

def execCkptImage (s : State) : Res := .next (if s.bellows then ckImage s else s)

def execCkptCommit (s : State) : Res := .next (if s.bellows then ckCommit s else s)

def execCkptDelta (excess : Bool) (s : State) : Res := .next (if s.bellows then ckDelta excess s else s)

def execCkptRestore (shared : Option (CkRead × CkRead)) (t : Nat) (s : State) : Res := .next (restored shared (s.at t))

def execShadowDelta (d : CkDelta) (s : State) : Res := .next (shadowDelta d s)

/-- A write of PX_CMD with operation `op`. -/
def pxCmdWrite (fn op : Nat) (s : State) : State := s.access fn (pgPX + 0x05C) (fun _ _ s => pxCommand op s)

def execMs (fn : Fn) (s : State) : Res := .next (pxCmdWrite fn.val 1 s)

def execFs (fn : Fn) (s : State) : Res := .next (pxCmdWrite fn.val 2 s)

def execLo (fn : Fn) (s : State) : Res := .next (pxCmdWrite fn.val 3 s)

def execClear (fn : Fn) (s : State) : Res := .next (pxCmdWrite fn.val 4 s)

def execMeasure (fn : Fn) (s : State) : Res := .next (pxCmdWrite fn.val 5 s)

def execPxRest (fn : Fn) (t : Nat) (s : State) : Res := .next (pxCmdWrite fn.val 6 (s.at t))

def execMeasureDone (s : State) : Res := .next (measureDone s)

def execSwitchK (t : Nat) (s : State) : Res := .next (switchK (s.at t))

def execWtrExpiry (t : Nat) (s : State) : Res := .next (wtrExpiry (s.at t))

def execSwitchRest (t : Nat) (s : State) : Res := .next (switchRest (s.at t))

end Sys2Proof.Machine
end

