-- ==== Sys2Proof/Machine/Tables.lean ====
section
/-! DEFINITION. The table windows (R55 to R59) and the commands of every table, as its chapter gives them. -/

namespace Sys2Proof.Machine

/-! ### The tables -/

/-- A table behind a window: entries, words shown, the commands defined (bit OP), the bits that are its key (0 for an indexed
array), the bits a WRITE can set, whether it is a configuration table (R52), and its first valid index. -/
structure Tab where
  size : Nat
  words : Nat
  ops : List Nat
  key : Nat := 0
  mask : List Nat
  config : Bool := true
  first : Nat := 0
  deriving DecidableEq, Repr

def allOps : List Nat := [1, 2, 3, 4, 5, 6, 7]
def w32 : Nat := 0xFFFFFFFF

/-- The result words of a classification entry (R281). -/
def resultMask : List Nat := [0xFFFE0FFF, 0x3FFF0FFF, 0x8001FFFF, 0xC001FFFF, 0xC001FFFF]

def tabPe (p tid : Nat) : Option Tab :=
  match p, tid with
  | 2, 0 => some { size := 8192, words := 6, ops := allOps, key := 0xFFFF, mask := [0xFDFFFFFF, 0x80000000] }
  | 3, 0 => some { size := 513, words := 7, ops := [1, 2, 4], mask := [w32, w32, w32, w32, 0xC0000000, w32, 0x7FFFF], config := false }
  | 3, 1 => some { size := 512, words := 5, ops := [1, 2, 4], mask := [w32, w32, w32, w32], config := false }
  | 4, 0 => some { size := 8, words := 6, ops := [1, 2], mask := [0x871107FF, 0xFFF, w32, w32, w32, w32] }
  | 6, 0 => some { size := 512, words := 9, ops := [1], mask := [], config := false }
  | 7, 0 => some { size := 512, words := 4, ops := allOps, key := 2 ^ 64 - 1, mask := [w32, w32, 0x01FF03FF, 0xB7000000] }
  | 7, 1 => some { size := 512, words := 5, ops := [1], mask := [], config := false }
  | 8, 0 => some { size := 512, words := 8, ops := [1, 2], mask := [0x800001C0, 0, 0, 0, 0, 0, 0x8FFFF], config := false }
  | _, _ => none

def tabGs (p tid : Nat) : Option Tab :=
  if tid ≠ 0 then none
  else if 1 ≤ p ∧ p ≤ 8 then
    some { size := 2048, words := 11, ops := allOps, key := 0x3FFF,
           mask := [0xFDFF3FFF, 0xFF003FFF, 0xFFFFFF, 0xFFFFF, 0xFFFFFF, 0xFFFFF, 0, 0, 0x80000000] }
  else if p = 9 then some { size := 8192, words := 3, ops := allOps, key := w32, mask := [w32, 0x000707FF] }
  else none

/-- Word 5 of a tree node: queues, port and lane-group nodes, other nodes (R230). -/
def nodeWord5 (tid : Nat) : Nat := if tid = 0 then w32 else if tid = 4 then 0xFFFF0000 else if isRoot tid then 0xFF else 0

def tabTm (p tid : Nat) : Option Tab :=
  if p = 0 ∧ tid ≤ 7 then
    some { size := tmSize tid, words := 16, ops := [1, 2, 4, 5, 6], mask := [w32, 0x0FFFFFFF, 0xFFFFFF, 0x0FFFFFFF, 0xFFFFFF, nodeWord5 tid] }
  else if p = 0 ∧ tid = 8 then
    some { size := 256, words := 10, ops := [1, 2, 6],
           mask := [0x8000000F, 0xFFFFFF, w32, 0xFFFFFF, 0xFFFFFF, w32, 0xFFFFFF, 0xFFFFFF, w32, 0xFFFFFF] }
  else if p = 1 ∧ tid = 0 then
    some { size := 131072, words := 13, ops := [1, 2, 6], mask := [0xF0000001, 0x0FFFFFFF, 0xFFFFFF, 0x0FFFFFFF, 0xFFFFFF] }
  else if p = 2 ∧ tid ≤ 1 then
    some { size := if tid = 0 then 65536 else 4096, words := 6, ops := [1, 2], mask := [0, 0, 0, 0, 0, 0x80000000], config := false }
  else none

def tabLk (tid : Nat) : Option Tab :=
  match tid with
  | 0 => some { size := lkSize 0, words := 11, ops := allOps, key := (lkMask 0).toNat, mask := [w32, w32, w32, w32, 0xF0000000] ++ resultMask }
  | 1 => some { size := lkSize 1, words := 4, ops := allOps, key := (lkMask 1).toNat, mask := [w32, 0x3FFFFFFF, 0xC001FFFF, 0x4000003F],
                config := false }
  | 2 => some { size := lkSize 2, words := 6, ops := allOps, key := (lkMask 2).toNat, mask := [w32, w32, w32, w32, 0x80FF0FFF, 0xFFFF] }
  | 3 => some { size := 16384, words := 7, ops := [1, 2, 6], mask := [0xF0000FFF, 0xC001FFFF, 0xC001FFFF, 0xFFFFF, 0, w32, 0xFFFF] }
  | 4 => some { size := 65536, words := 2, ops := [1, 2, 6], mask := [w32, w32] }
  | 5 => some { size := 4096, words := 16, ops := [1, 2], mask := List.replicate 16 0xC001FFFF }
  | 6 => some { size := 16, words := 10, ops := [1, 2], mask := [0x7FFF, 0, 0, 0, 0] ++ resultMask }
  | 7 => some { size := 64, words := 1, ops := [1, 2], mask := [0xC000000F] }
  | _ => none

/-- The table a window reaches as TID `tid`. -/
def tabOf (k : PKind) (tid : Nat) : Option Tab :=
  match k with
  | .pe p => tabPe p tid
  | .gs p => tabGs p tid
  | .tm p => tabTm p tid
  | .lk _ => tabLk tid
  | .gt _ =>
    if tid = 0 then some { size := 1024, words := 2, ops := [1, 2, 6], mask := [0xFF, 0x3FFFFFFF], config := false }
    else if tid = 1 then some { size := 1024, words := 2, ops := [1], mask := [], config := false } else none
  | .bp => if tid = 0 then some { size := 2048, words := 5, ops := [1, 2], mask := [0xFFFFFF, 0xFFFFFF, 0, 0, 0x80000000] } else none
  | .dm _ => if tid = 0 then some { size := 12, words := 5, ops := [1, 2], mask := [0, 0, 0, 0, 0x80000000], config := false } else none
  | .hx _ => if tid = 0 then some { size := 244, words := 6, ops := [1, 2], mask := [0xFFFFFFE0, w32, 0xE001FFFF, 0x71FF7FFF] } else none
  | .mx _ => if tid = 0 then some { size := 64, words := 3, ops := [1, 2], mask := [0xFFFFF, 0xFFFFF, 0xF8000000] } else none
  | .sc => if tid = 0 then some { size := 64, words := 3, ops := [1, 2], mask := [0x3FFF, 0x3FFF, 0xC0000000] } else none
  | .ul =>
    if tid = 0 then some { size := 4096, words := 10, ops := [1, 2, 6], mask := [0xFC3FFFFF, 0x0FFF0FFF, 0x07FFFFFF, 0x80000000], first := 1 }
    else if tid = 1 then
      some { size := 16, words := 12, ops := [1, 2], mask := [0, 0, 0, 0, 0, 0, 0, 0, 0, 0, 0, 0x80000000], config := false }
    else none
  | .ce =>
    if tid = 0 then some { size := 1088, words := 11, ops := [1, 2, 6], mask := [0xFE3FFFFF, w32, w32, 0x8FFFFFFF, 0x80000000] } else none
  | .te => if tid = 0 then some { size := 48, words := 6, ops := [1], mask := [], config := false } else none
  | _ => none

/-- The page under which the entries of a window's tables are held: both LK windows, and both pages of rings, share theirs. -/
def tabPage (k : PKind) (pg : Nat) : Nat :=
  match k with
  | .lk _ => pgLK 0
  | .hx _ => pgHX 1
  | _ => pg

/-- An entry cut to the bits that can be written. -/
def maskWords (l : List Nat) (e : Entry) : Entry :=
  l.zipIdx.foldl (fun x p => ewPut x p.2 (ew e p.2 &&& p.1)) 0

/-- The words a window shows of an entry. -/
def tabShow (k : PKind) (pg tid idx : Nat) (t : Tab) (s : State) : Entry :=
  let e := eLow (s.ent (tabPage k pg) tid idx) t.words
  match k with
  | .hx p =>
    let sec := ringSecure s idx
    if sec = decide (p = 1) then eput e ⟨2, 28, 28⟩ (if sec then 1 else 0) else 0
  | _ => e

/-! ### Changing commands, by table: code and state -/

/-- A WRITE of an indexed entry: the bits it can set, the hardware's bits kept. -/
def plainWrite (pg tid idx : Nat) (l : List Nat) (d : Entry) (s : State) : Nat × State :=
  let m := (maskWords l (BitVec.allOnes 512)).toNat
  (0, s.setEnt pg tid idx (maskEntry (wholeEntry - m) (s.ent pg tid idx) ||| maskWords l d))

/-! XGEM ports (R143) -/

def xgemBad (n : Nat) (d : Entry) (s : State) : Bool :=
  eget d xID == 0xFFFF || (eget d xUS == 1 && eget d xBCAST == 1) ||
    (eget d xOMCC == 1 && (s.used (pgPE n 2) 0).any (fun p =>
      eget p.2 xID != eget d xID && eget p.2 xOMCC == 1 && eget p.2 xONU == eget d xONU))

/-- Entries of a table on every port. -/
def totalUsed (pgs : List Nat) (s : State) : Nat := (pgs.map (fun pg => (s.used pg 0).length)).foldl (· + ·) 0

def xgemWrite (n i : Nat) (d : Entry) (s : State) : Nat × State :=
  if xgemBad n d s then (7, s)
  else
    let old := s.ent (pgPE n 2) 0 i
    let e := ewPut (ewPut old 0 (ew d 0)) 1 (ew old 1 % 2)
    (0, s.setEnt (pgPE n 2) 0 i (if ew d 1 / 2 ^ 31 = 1 then (List.range 4).foldl (fun e k => ewPut e (2 + k) 0) e else e))

def xgemDelete (n i : Nat) (s : State) : Nat × State :=
  let id := eget (s.ent (pgPE n 2) 0 i) xID
  let s1 := dropPart n id s
  (0, (s1.setEnt (pgPE n 2) 0 i 0).modPe n (fun p => { p with ords := sset (0, 0) p.ords id (0, 0) }))

/-! Burst profiles (R127, R186) -/

def profBad (n i : Nat) (d : Entry) (s : State) : Bool :=
  let old := s.prof n i
  let rate := eget d bRATE
  let legacy := s.isLegacy n
  let pre := eget d bPRE
  let off := eput d bEN 0
  decide (pre < 160) || decide (2040 < pre) || decide ((if eget d bDLEN = 1 then 8 else 4) < eget d bDERR) || decide (eget d bGUARD < 8) ||
    decide (3 < rate) || (rate == 3) != legacy || (eget d bFEC == 0 && decide (rate ≤ 1)) || (eget d bDLEN == 0 && ew d 5 != 0) ||
    decide (eget d bGUARD < s.get (pgPE n 4) F.PE_US_RST_LEAD + s.usWin n) ||
    (eget old bEN == 1 && off != eput old bEN 0) ||
    (eget old bEN == 1 && eget d bEN == 0 && (s.liveCtx n).any (fun c => s.ranged n c && s.burstProf n c == i))

def profWrite (n i : Nat) (d : Entry) (s : State) : Nat × State :=
  if profBad n i d s then (7, s)
  else
    let s1 := setCommit n (s.setEnt (pgPE n 4) 0 i d)
    if s.commitOk n (s.get (pgGP n) F.GS_PORT_QRES_QRES) && !s1.commitOk n (s.get (pgGP n) F.GS_PORT_QRES_QRES) then (7, s)
    else (0, profilesChanged n s1)

/-! PLOAM integrity keys (R479) -/

def ploamKeyWrite (n c : Nat) (d : Entry) (s : State) : Nat × State :=
  (0, { s.setEnt (pgPE n 3) 1 c (ewPut 0 4 0x80000000) with keys := sset 0 s.keys (ploamSlot n c) (d.toNat % 2 ^ 128 + 1) })

/-! The approved list (R156) -/

def apprBad (n : Nat) (d : Entry) (s : State) : Bool :=
  decide (1022 < eget d aONU) || eget d aLMAX == 0 || !s.profOn n (eget d aPROF)

def apprInsertBad (n : Nat) (d : Entry) (s : State) : Bool :=
  apprBad n d s || (s.snPort (ew2 d 0)).isSome ||
    (s.used (pgPE n 7) 0).any (fun p => eget p.2 aCTX == eget d aCTX || eget p.2 aONU == eget d aONU)

/-- A DISABLED context returns to FREE. -/
def apprFree (n c : Nat) (s : State) : State := lzEval n (s.setEnt (pgPE n 7) 1 c 0)

/-- What a changed DIS starts (R152): disabling the terminal, or freeing it. -/
def apprApply (n c sn : Nat) (was now : Nat) (s : State) : State :=
  if now = 1 ∧ was = 0 ∧ s.st n c ≠ 0 ∧ s.st n c ≠ 7 then disableCtx n c sn s
  else if now = 0 ∧ s.st n c = 7 then apprFree n c (sendSeq n (.disable sn true) 1 s)
  else s

def apprWrite (n i : Nat) (d : Entry) (s : State) : Nat × State :=
  let old := s.ent (pgPE n 7) 0 i
  let e := ewPut old 3 (ew d 3)
  if apprBad n e s then (7, s)
  else (0, apprApply n (eget old aCTX) (ew2 old 0) (eget old aDIS) (eget e aDIS) (s.setEnt (pgPE n 7) 0 i e))

def apprDelete (n i : Nat) (s : State) : Nat × State :=
  let c := eget (s.ent (pgPE n 7) 0 i) aCTX
  let st := s.st n c
  if st ≠ 0 ∧ st ≠ 7 then (7, s)
  else
    let s1 := s.setEnt (pgPE n 7) 0 i 0
    (0, if st = 7 then apprFree n c s1 else s1)

/-! Allocation contexts (R167, R186) -/

/-- A hint-directory entry of the port's slice names the context. -/
def State.hinted (s : State) (n i : Nat) : Bool :=
  (s.used (pgGS (n / 8) 9) 0).any (fun p => ew p.2 1 / 2 ^ 16 % 8 == n % 8 && ew p.2 1 % 2048 == i)

def allocBad (n : Nat) (d : Entry) (s : State) : Bool :=
  let ty := eget d gTYPE
  let id := eget d gID
  decide (id < 1024) || decide (4 < ty) ||
    (eget d gWT == 0 && (ty == 2 || (ty == 1 && decide (eget d gAR < eget d gPR)))) ||
    ((ty == 1 || ty == 4) && decide (eget d gPR < eget d gAR)) || decide (6220800 < eget d gPR) ||
    (eget d gOMCC == 1 && (s.used (pgGP n) 0).any (fun p =>
      eget p.2 gID != id && eget p.2 gOMCC == 1 && eget p.2 gONU == eget d gONU))

/-- Store an allocation entry if the commitment allows it. -/
def allocStore (n i : Nat) (e : Entry) (s : State) : Nat × State :=
  let s1 := setCommit n (s.setEnt (pgGP n) 0 i e)
  if s1.commitOk n (s.get (pgGP n) F.GS_PORT_QRES_QRES) then (0, s1) else (7, s)

def allocWrite (n i : Nat) (d : Entry) (s : State) : Nat × State :=
  let old := s.aent n i
  if allocBad n d s || (eget d gTYPE != eget old gTYPE && s.hinted n i) then (7, s)
  else
    let e := eput ((List.range 6).foldl (fun e k => ewPut e k (ew d k)) old) eUSED 1
    allocStore n i (if eget d gCLR = 1 then (List.range 4).foldl (fun e k => ewPut e (7 + k) 0) e else e) s

/-- What the slice keeps of an index goes with its entry. -/
def allocForget (n i : Nat) (s : State) : State :=
  s.modGp n (fun g => { g with hints := g.hints.filter (fun h => h.ctx != i), hist := g.hist.filter (fun h => h.2.1 != i) })

def allocInsert (n i : Nat) (d : Entry) (s : State) : Nat × State :=
  let r := allocStore n i (eput (eLow d 6) eUSED 1) (allocForget n i s)
  if r.1 = 0 then (0, fillAlloc n i r.2) else (7, s)

def allocDelete (n i : Nat) (s : State) : Nat × State :=
  if s.hinted n i then (7, s) else (0, setCommit n (allocForget n i (s.setEnt (pgGP n) 0 i 0)))

/-! The hint directory (R191) -/

def hintBad (sl : Nat) (d : Entry) (s : State) : Bool :=
  let n := 8 * sl + ew d 1 / 2 ^ 16 % 8
  let e := s.aent n (ew d 1 % 2048)
  eget e eUSED == 0 || eget e gTYPE != 4 ||
    (List.range 6).any (fun k => k != sl && (s.used (pgGS k 9) 0).any (fun p => ew p.2 0 == ew d 0))

/-! Layer 2, prefixes and the rest of LK (R277 to R299) -/

/-- A destination index beyond its range (R285). -/
def destBad (w : Nat) : Bool :=
  let p := destPair w
  (p.1 == 1 && decide (65535 < p.2)) || ((p.1 == 2 || p.1 == 3) && decide (4095 < p.2))

/-- The result words of a classification entry or a profile (R281). -/
def resultBad (d : Entry) : Bool :=
  decide (4 < eget d rFMODE) || eget d rCOLOUR == 3 || eget d rOS == 3 || (decide (eget d rFMODE ≤ 1) && eget d rBD == 0) ||
    destBad (ew d 8) || destBad (ew d 9) || (destPair (ew d 9)).1 == 3

/-- The IPv6 lengths listed (R295). -/
def State.v6Lens (s : State) : List Nat :=
  (List.range 64).map (fun i => fld (s.reg (pLK + 0x0F0 + 4 * (i / 4))).toNat (8 * (i % 4) + 7) (8 * (i % 4)))

def prefBad (d : Entry) (s : State) : Bool :=
  let fam := eget d ⟨4, 31, 31⟩
  let l := eget d ⟨4, 23, 16⟩
  let addr := if fam = 0 then d.toNat % 2 ^ 32 else d.toNat % 2 ^ 128
  let permitted := if fam = 0 then decide (l ≤ 32) else decide (l ≤ 128) && s.v6Lens.contains l
  !permitted || masked fam l addr != addr || d.toNat % 2 ^ 128 != addr

def lkBad (tid : Nat) (d : Entry) (s : State) : Bool :=
  match tid with
  | 0 => resultBad d
  | 1 => destBad (ew d 2) || (destPair (ew d 2)).1 == 3
  | 2 => prefBad d s
  | _ => false

/-- WRITE of an entry of a hashed table: everything but the key and the hardware's bits. -/
def lkWrite (tid i : Nat) (d : Entry) (s : State) : Nat × State :=
  if lkBad tid d s then (7, s)
  else
    let old := s.ent pLK tid i
    if tid = 0 then (0, s.setEnt pLK 0 i ([5, 6, 7, 8, 9].foldl (fun e k => ewPut e k (ew d k)) old))
    else if tid = 1 then
      let e := eput (eput (ewPut old 2 (ew d 2)) ⟨3, 5, 0⟩ (ew d 3 % 64)) lSTATIC (eget d lSTATIC)
      let bd := eget old ⟨1, 29, 16⟩
      let s1 := s.setEnt pLK 1 i e
      (0, if eget d lSTATIC = eget old lSTATIC then s1 else bdCount bd (eget d lSTATIC == 0) s1)
    else (0, s.setEnt pLK 2 i (eput old ⟨5, 15, 0⟩ (ew d 5 % 65536)))

/-- WRITE of an indexed table of LK. -/
def lkIndexed (tid i : Nat) (l : List Nat) (d : Entry) (s : State) : Nat × State :=
  let bad :=
    if tid = 4 then fld (ew d 1) 31 30 == 3 || (fld (ew d 1) 31 30 == 0 && fld (ew d 1) 29 16 == 0)
    else if tid = 3 then destBad (ew d 1) || destBad (ew d 2)
    else if tid = 5 then (List.range 16).any (fun k => destBad (ew d k) || (destPair (ew d k)).1 == 3)
    else if tid = 6 then decide (128 < keyBits (ew d 0)) || resultBad d
    else if tid = 7 then decide (i < 48) && (ew d 0).testBit 30
    else false
  if bad then (7, s) else plainWrite pLK tid i l d s

/-! Quotas (R319, R325), port statistics (R347) and lane-group statistics (R392) -/

def quotaWrite (i : Nat) (d : Entry) (s : State) : Nat × State :=
  let p := i / 128
  if eget d qQUOTA < eget d qRESERVE ∨ s.get pgBP (F.BP_POOL_CFG_COUNT.ix p) < s.reserved p (i % 128) + eget d qRESERVE then (7, s)
  else
    let e := eput (eput (s.ent pgBP 0 i) qQUOTA (eget d qQUOTA)) qRESERVE (eget d qRESERVE)
    (0, s.setEnt pgBP 0 i (if ew d 4 / 2 ^ 31 = 1 then eput (eput e qNOBUF 0) qPEAK 0 else e))

/-- A table whose WRITE only zeroes words `0` to `n - 1`, when the CLR bit of word `c` is 1. -/
def clrWrite (pg tid i c n : Nat) (d : Entry) (s : State) : Nat × State :=
  (0, if ew d c / 2 ^ 31 = 1 then s.setEnt pg tid i ((List.range n).foldl (fun e k => ewPut e k 0) (s.ent pg tid i)) else s)

/-! Rings (R351, R357) -/

/-- The smallest and the largest SLOT of a ring. -/
def slotRange (r : Nat) : Nat × Nat :=
  if r < 96 ∨ r = 241 then (96, 16384) else if r < 192 then (2080, 16384) else if r < 240 then (32, 32)
  else if r = 240 then (128, 16384) else if r = 242 then (32, 16384) else (96, 96)

def ringTblWrite (p r : Nat) (d : Entry) (s : State) : Nat × State :=
  let old := ringEnt s r
  let sz := eget d RF.SIZE
  let sl := eget d RF.SLOT
  let moved := ew2 d 0 != ew2 old 0 || eget d RF.LOC != eget old RF.LOC || eget d RF.WB != eget old RF.WB || sz != eget old RF.SIZE ||
    sl != eget old RF.SLOT
  if ringSecure s r != decide (p = 1) || (eget old RF.EN == 1 && moved) || decide (sz < 2) || decide (65536 < sz) ||
      decide (sl < (slotRange r).1) || decide ((slotRange r).2 < sl) || sl % 32 != 0 then (7, s)
  else
    let e := (List.range 4).foldl (fun e k => ewPut e k (ew d k)) old
    let starts := eget old RF.EN == 0 && eget d RF.EN == 1
    let stops := eget old RF.EN == 1 && eget d RF.EN == 0
    let s1 := s.setRing r (if starts then ewPut e 4 0 else if stops then ewPut e 4 (ew e 4 % 65536 * 65537) else e)
    let s2 : State := if stops && r == 241 then { s1 with hx := { s1.hx with injGen := s1.hx.injGen + 1 } } else s1
    (0, State.settle s s2)

/-! Regions of the CXL window and of the stacks (R365, R488) -/

/-- Region words: an enabled region that overlaps another, or LAST below BASE. -/
def regionWrite (pg i : Nat) (l : List Nat) (d : Entry) (s : State) : Nat × State :=
  let b := ew d 0
  let t := ew d 1
  let on (e : Entry) : Bool := ew e 2 / 2 ^ 31 == 1
  let hit := on d && (s.rows pg 0).any (fun p => p.1 != i && on p.2 && decide (b ≤ ew p.2 1) && decide (ew p.2 0 ≤ t))
  if decide (t < b) || hit then (7, s) else plainWrite pg 0 i l d s

/-! ### One WRITE, INSERT or DELETE -/

/-- WRITE of entry `i` of a window's table: the code and the state. A denied change sets nothing here. -/
def tabWrite (k : PKind) (n pg tid i : Nat) (t : Tab) (d : Entry) (s : State) : Nat × State :=
  match k with
  | .pe p =>
    if p = 2 then xgemWrite n i d s
    else if p = 3 then (if tid = 0 then keyWrite n i d s else ploamKeyWrite n i d s)
    else if p = 4 then profWrite n i d s
    else if p = 7 then apprWrite n i d s
    else msWrite n i d s
  | .gs p =>
    if p = 9 then
      (if hintBad n d s then (7, s) else (0, s.setEnt pg 0 i (ewPut (s.ent pg 0 i) 1 (ew d 1))))
    else allocWrite (8 * n + p - 1) i d s
  | .tm p =>
    if p = 0 then (if tid = 8 then dropProfileWrite i d s else tmNodeWrite tid i d s)
    else if p = 1 then policerWrite i d s
    else latWrite tid i d s
  | .lk _ => if tid < 3 then lkWrite tid i d s else lkIndexed tid i t.mask d s
  | .gt p =>
    if s.bit (pgGT p) F.GT_STATUS_PEND || s.bit (pgGT p) F.GT_STATUS_COPY then (7, s) else plainWrite pg tid i t.mask d s
  | .bp => quotaWrite i d s
  | .dm _ => clrWrite pg 0 i 4 4 d s
  | .hx p => ringTblWrite p i d s
  | .mx _ | .sc => regionWrite pg i t.mask d s
  | .ul => if tid = 0 then strmWrite i d s else clrWrite pg 1 i 11 11 d s
  | .ce => ceTblWrite i d s
  | _ => (7, s)

/-- The lowest free index of a keyed table. -/
def State.freeIndex (s : State) (pg tid size : Nat) : Option Nat :=
  (List.range size).find? (fun i => s.getE pg tid i eUSED == 0)

/-- An INSERT's answer with the index it took, 0 where it failed. -/
def withIndex (i : Nat) (r : Nat × State) : Nat × Nat × State := (r.1, if r.1 = 0 then i else 0, r.2)

/-- INSERT of a key that is not in the table: code, index and state. -/
def tabInsert (k : PKind) (n pg tid : Nat) (t : Tab) (d : Entry) (s : State) : Nat × Nat × State :=
  match k with
  | .lk _ =>
    if lkBad tid d s then (7, 0, s)
    else lkInsert tid (if tid = 0 then ewPut d 10 0 else d) s
  | .pe 2 =>
    if xgemBad n d s then (7, 0, s)
    else
      match s.freeIndex pg tid t.size with
      | none => (3, 0, s)
      | some i =>
        if 131072 ≤ totalUsed ((List.range 48).map (fun n => pgPE n 2)) s then (3, 0, s)
        else (0, i, s.setEnt pg 0 i (eput (ewPut 0 0 (ew d 0)) eUSED 1))
  | .pe _ =>
    if apprInsertBad n d s then (7, 0, s)
    else match s.freeIndex pg tid t.size with
      | none => (3, 0, s)
      | some i => (0, i, s.setEnt pg 0 i (eput d eUSED 1))
  | .gs p =>
    if p = 9 then
      if hintBad n d s then (7, 0, s)
      else match s.freeIndex pg tid t.size with
        | none => (3, 0, s)
        | some i =>
          if 32768 ≤ totalUsed ((List.range 6).map (fun n => pgGS n 9)) s then (3, 0, s)
          else (0, i, s.setEnt pg 0 i (eput (ewPut (ewPut 0 0 (ew d 0)) 1 (ew d 1)) eUSED 1))
    else if allocBad (8 * n + p - 1) d s then (7, 0, s)
    else match s.freeIndex pg tid t.size with
      | none => (3, 0, s)
      | some i =>
        if 32768 ≤ totalUsed ((List.range 48).map pgGP) s then (3, 0, s)
        else withIndex i (allocInsert (8 * n + p - 1) i d s)
  | _ => (7, 0, s)

/-- DELETE of entry `i`. -/
def tabDelete (k : PKind) (n pg tid i : Nat) (s : State) : Nat × State :=
  match k with
  | .pe p =>
    if p = 2 then xgemDelete n i s
    else if p = 3 then (0, if tid = 0 then keyDelete n i s else ploamKeyDelete n i s)
    else apprDelete n i s
  | .gs p => if p = 9 then (0, s.setEnt pg 0 i 0) else allocDelete (8 * n + p - 1) i s
  | .tm _ => tmNodeDelete tid i s
  | .lk _ => (0, lkRemove tid i s)
  | _ => (7, s)

/-- Entry `i` exists: in a keyed table, or as a tree node; other arrays have no empty entries. -/
def tabExists (k : PKind) (pg tid i : Nat) (t : Tab) (s : State) : Bool :=
  if t.key ≠ 0 then s.getE (tabPage k pg) tid i eUSED == 1
  else match k with
    | .tm 0 => if tid ≤ 7 then s.nodeValid tid i else true
    | _ => true

/-! ### The window (R55 to R59) -/

def State.winData (s : State) (pg : Nat) : Entry :=
  (List.range 16).foldl (fun e i => ewPut e i (s.get pg (F.TBL_DATA_DATA.ix i))) 0

def setWin (pg : Nat) (e : Entry) (s : State) : State :=
  forN 16 (fun i s => s.put pg (F.TBL_DATA_DATA.ix i) (ew e i)) s

/-- A command ends. -/
def tblEnd (pg code idx : Nat) (s : State) : State :=
  (((s.putBit pg F.TBL_STAT_OVR false).putBit pg F.TBL_STAT_BUSY false).put pg F.TBL_STAT_CODE code).put pg F.TBL_STAT_INDEX idx

/-- A changing command has run: its code; on a configuration table a commit, or a refusal (R53, R54). -/
def tblChanged (pg idx : Nat) (t : Tab) (byKey : Bool) (r : Nat × State) : State :=
  let s := if t.config then (if r.1 = 0 then r.2.commit pg else if r.1 = 7 then r.2.cfgRej pg else r.2) else r.2
  tblEnd pg r.1 (if byKey && r.1 != 0 && r.1 != 7 then 0 else idx) s

/-- The entry of the key in TBL_DATA, one marked invalid among them. -/
def tabFind (k : PKind) (pg tid : Nat) (t : Tab) (d : Entry) (s : State) : Option Nat :=
  ((s.rows (tabPage k pg) tid).find? (fun p => eget p.2 eUSED == 1 && maskEntry t.key p.2 == maskEntry t.key d)).map (fun p => p.1)

/-- The entry at an index is marked invalid by R42. -/
def State.tabPoison (s : State) (k : PKind) (pg tid i : Nat) : Bool := s.bad.contains (tkey (tabPage k pg) tid i)

/-- WRITE clears the mark. -/
def clearPoison (k : PKind) (pg tid i : Nat) (s : State) : State :=
  { s with bad := s.bad.filter (fun x => x != tkey (tabPage k pg) tid i) }

/-- READ or FIND of entry `i`: POISONED with zeros, or the entry; READ of the layer-2 table can clear HIT (R289). -/
def tblShow (k : PKind) (pg tid i : Nat) (t : Tab) (hit : Bool) (s : State) : State :=
  if s.tabPoison k pg tid i then tblEnd pg 6 i (setWin pg 0 s)
  else
    let s1 := tblEnd pg 0 i (setWin pg (tabShow k pg tid i t s) s)
    if hit then s1.putE pLK 1 i lHIT 0 else s1

/-- The compare of CDEL and CAS. -/
def State.tblMatch (s : State) (k : PKind) (pg tid i : Nat) (t : Tab) (cw : Nat) : Bool :=
  let m := s.get pg F.TBL_CMPMASK_MASK
  (ew (tabShow k pg tid i t s) cw &&& m) == (s.get pg F.TBL_CMP_CMP &&& m)

/-- A changing command of a locked page's configuration table is denied (R52). -/
def State.tblDenied (s : State) (pg : Nat) (t : Tab) : Bool := t.config && s.locked pg

/-- WRITE, with the key check of a keyed table. -/
def tblWrite (k : PKind) (n pg tid i : Nat) (t : Tab) (s : State) : State :=
  let d := maskWords t.mask (s.winData pg)
  if t.key ≠ 0 && (!tabExists k pg tid i t s || maskEntry t.key (s.ent (tabPage k pg) tid i) != maskEntry t.key d) then tblEnd pg 1 i s
  else if s.tblDenied pg t then tblEnd pg 7 i s
  else
    let r := tabWrite k n (tabPage k pg) tid i t d s
    tblChanged pg i t false (r.1, if r.1 = 0 then clearPoison k pg tid i r.2 else r.2)

/-- DELETE, or a CDEL whose compare matched. DESIGN CHOICE (log entry 123): like WRITE, it clears the mark of R42, as the entry it
leaves is a new one. -/
def tblRemove (k : PKind) (n pg tid i : Nat) (t : Tab) (s : State) : State :=
  if s.tblDenied pg t then tblEnd pg 7 i s
  else
    let r := tabDelete k n (tabPage k pg) tid i s
    tblChanged pg i t false (r.1, if r.1 = 0 then clearPoison k pg tid i r.2 else r.2)

/-- CDEL and CAS of a located entry. DESIGN CHOICE (log entry 123): an entry marked invalid has no word to compare, so both end
with POISONED, as a READ does; and a CAS on a keyed table writes under the rule of WRITE (R56), so one whose TBL_DATA holds another
key ends with NOT_FOUND. -/
def tblCompare (k : PKind) (n pg tid i cw : Nat) (t : Tab) (cas : Bool) (s : State) : State :=
  if s.tabPoison k pg tid i then tblEnd pg 6 i (setWin pg 0 s)
  else if s.tblMatch k pg tid i t cw then (if cas then tblWrite k n pg tid i t s else tblRemove k n pg tid i t s)
  else tblEnd pg 4 i (setWin pg (tabShow k pg tid i t s) s)

/-- A table command `op` in the window of page `pg`, with the fields of TBL_CMD. -/
def tblRun (k : PKind) (n pg op cw : Nat) (byKey : Bool) (s : State) : State :=
  let tid := s.get pg F.TBL_ADDR_TID
  let i := s.get pg F.TBL_ADDR_INDEX
  let shown := if op = 1 ∨ op = 2 ∨ op = 6 ∨ ((op = 4 ∨ op = 5) ∧ byKey = false) then i else 0
  if 8 ≤ op then tblEnd pg 8 0 s
  else
    match tabOf k tid with
    | none => tblEnd pg 5 shown s
    | some t =>
      let d := maskWords t.mask (s.winData pg)
      if !t.ops.contains op || (byKey && (op == 4 || op == 5) && t.key == 0) then tblEnd pg 8 shown s
      else if op = 3 then
        match tabFind k pg tid t d s with
        | some j => tblEnd pg 2 j s
        | none =>
          if s.tblDenied pg t then tblEnd pg 7 0 s
          else
            let r := tabInsert k n (tabPage k pg) tid t d s
            tblChanged pg r.2.1 t true (r.1, if r.1 = 0 then clearPoison k pg tid r.2.1 r.2.2 else r.2.2)
      else if op = 7 then
        match tabFind k pg tid t d s with
        | some j => tblShow k pg tid j t false s
        | none => tblEnd pg 1 0 s
      else if (op = 4 ∨ op = 5) ∧ byKey then
        match tabFind k pg tid t d s with
        | none => tblEnd pg 1 0 s
        | some j => if op = 4 then tblRemove k n pg tid j t s else tblCompare k n pg tid j cw t false s
      else if t.size ≤ i ∨ i < t.first then tblEnd pg 5 i s
      else if op = 1 then
        tblShow k pg tid i t (tabPage k pg == pLK && tid == 1 && cw == 3 && (s.get pg F.TBL_CMPMASK_MASK).testBit 29) s
      else if op = 2 then tblWrite k n pg tid i t s
      else if !tabExists k pg tid i t s then tblEnd pg 1 i s
      else if tabPage k pg == pLK && (tid == 1 || tid == 2) && op != 6 && lkKey tid (s.ent pLK tid i) != lkKey tid d then
        (if op = 4 then tblEnd pg 1 i s else tblEnd pg 4 i (setWin pg (tabShow k pg tid i t s) s))
      else if op = 4 then tblRemove k n pg tid i t s
      else tblCompare k n pg tid i cw t (op == 6) s

/-- A write of TBL_CMD. -/
def tblCommand (k : PKind) (n pg w : Nat) (s : State) : State :=
  let s1 := ((s.put pg F.TBL_CMD_CWORD (fld w 23 20)).put pg F.TBL_CMD_BYKEY (fld w 16 16)).put pg F.TBL_CMD_OP (fld w 3 0)
  if fld w 3 0 = 0 then s1 else tblRun k n pg (fld w 3 0) (fld w 23 20) (fld w 16 16 == 1) s1

/-- A page's base address as an operand. -/
def pageBase (p : BitVec 12) : Nat := p.toNat * 4096

/-- A write of TBL_CMD of page `p` by function `fn` with operation `op`; pages without a window have no such register. -/
def tblOp (fn : Nat) (p : BitVec 12) (op : Nat) (w : Word) (s : State) : State :=
  s.access fn (pageBase p + 0x044) (fun k n s =>
    if hasTbl k then tblCommand k n (pageBase p) (w.toNat / 16 * 16 + op) s else s)

/-- The command that `w` spells is not defined for the table the window names. -/
def State.badOp (s : State) (k : PKind) (pg : Nat) (w : Nat) : Bool :=
  let op := fld w 3 0
  decide (8 ≤ op) || (match tabOf k (s.get pg F.TBL_ADDR_TID) with
    | none => false
    | some t => decide (1 ≤ op) && (!t.ops.contains op || ((w.testBit 16) && (op == 4 || op == 5) && t.key == 0)))

def badOp (fn : Nat) (p : BitVec 12) (w : Word) (s : State) : State :=
  s.access fn (pageBase p + 0x044) (fun k n s =>
    if hasTbl k && s.badOp k (pageBase p) w.toNat then tblCommand k n (pageBase p) w.toNat s else s)

/-- A write to a window whose command still runs. -/
def tblOvr (fn : Nat) (p : BitVec 12) (s : State) : State :=
  s.access fn (pageBase p + 0x044) (fun k _ s => if hasTbl k then s.putBit (pageBase p) F.TBL_STAT_OVR true else s)

/-! ### Keys through the window of PE page 3 (R98) -/

/-- WRITE of the key table at the window's index, with LOAD or SCHED in word 4. -/
def keyCmd (fn n bit : Nat) (w : Word) (s : State) : State :=
  s.access fn (pgPE n 3 + 0x044) (fun k i s =>
    let pg := pgPE n 3
    let s1 := s.put pg F.TBL_ADDR_TID 0
    let d := s1.get pg (F.TBL_DATA_DATA.ix 4)
    tblCommand k i pg (w.toNat / 16 * 16 + 2) (s1.put pg (F.TBL_DATA_DATA.ix 4) (if d.testBit bit then d else d + 2 ^ bit)))

/-! ### Meanings -/

def execTblRead (fn : Fn) (page : BitVec 12) (w : Word) (s : State) : Res := .next (tblOp fn.val page 1 w s)

def execTblWrite (fn : Fn) (page : BitVec 12) (w : Word) (s : State) : Res := .next (tblOp fn.val page 2 w s)

def execTblInsert (fn : Fn) (page : BitVec 12) (w : Word) (s : State) : Res := .next (tblOp fn.val page 3 w s)

def execTblDelete (fn : Fn) (page : BitVec 12) (w : Word) (s : State) : Res := .next (tblOp fn.val page 4 w s)

def execTblCdel (fn : Fn) (page : BitVec 12) (w : Word) (s : State) : Res := .next (tblOp fn.val page 5 w s)

def execTblCas (fn : Fn) (page : BitVec 12) (w : Word) (s : State) : Res := .next (tblOp fn.val page 6 w s)

def execTblFind (fn : Fn) (page : BitVec 12) (w : Word) (s : State) : Res := .next (tblOp fn.val page 7 w s)

def execBadOp (fn : Fn) (page : BitVec 12) (w : Word) (s : State) : Res := .next (badOp fn.val page w s)

def execTblOvr (fn : Fn) (page : BitVec 12) (s : State) : Res := .next (tblOvr fn.val page s)

def execKeyLoad (fn : Fn) (port : Fin 48) (w : Word) (s : State) : Res := .next (keyCmd fn.val port.val 31 w s)

def execKeySched (fn : Fn) (port : Fin 48) (w : Word) (s : State) : Res := .next (keyCmd fn.val port.val 30 w s)

def execKeyDelete (fn : Fn) (port : Fin 48) (w : Word) (s : State) : Res :=
  .next (s.access fn.val (pgPE port.val 3 + 0x044) (fun k i s =>
    tblCommand k i (pgPE port.val 3) (w.toNat / 16 * 16 + 4) (s.put (pgPE port.val 3) F.TBL_ADDR_TID 0)))

end Sys2Proof.Machine
end

