-- ==== Sys2Proof/Machine/Boundary.lean ====
section
/-! DEFINITION. The frame boundary of a port with all it brings to the blocks that count its frames (R100, R110 to R113, R117,
R142, R149, R197, R206, R253, R396, R437). -/

namespace Sys2Proof.Machine

/-- What the frame that has just begun on the lane brings beyond the frame engine: margin steering at a superframe boundary,
window requests, circuit ticks unless the frame is a shortened one, the plant monitor, the RSSI selection, the lean zone and
protection. -/
def frameWork (n : Nat) (s : State) : State :=
  let f := (s.pe n).sfc
  let s1 := snClose n (s.when (f % 8 == 0) (superframe n))
  let s2 := windowRequests n s1
  let s3 := if (s2.pe n).short then s2.modPe n (fun p => { p with ce := [], ceLen := 0 }) else circuitTicks n f s2
  pxBoundary n (lzEval n (rssiFrame n (plantTick n (alsEval n s3))))

/-- The next frame boundary of a port whose engine sends frames. -/
def boundary (n : Nat) (s : State) : State :=
  if s.en (pe0 n) && (s.pe n).running then frameWork n (frameBoundary n s) else s

/-- PE_FIRST_FRAME: the first frame after the engine was enabled or restarted (R117). -/
def firstBoundary (n : Nat) (s : State) : State :=
  let s1 := firstFrame n s
  if (s1.pe n).running && !(s.pe n).running then
    let f := (s1.pe n).sfc
    frameWork n (todCapture n f (keySwitch n f s1))
  else s1

/-! ### Meanings -/

def execFrameBoundary (port : Fin 48) (t : Nat) (s : State) : Res := .next (boundary port.val (s.at t))

def execPeFirstFrame (port : Fin 48) (t : Nat) (s : State) : Res := .next (firstBoundary port.val (s.at t))

end Sys2Proof.Machine
end

