-- ==== Sys2Proof/Machine/Engine.lean ====
section
/-! DEFINITION. PAGE_CTRL of every engine: enable, disable, quiesce and engine reset, with what each engine discards and how it
starts again (R49, R50, R70, R117, R307, R363, R489, R492 to R494, R524). -/

namespace Sys2Proof.Machine

/-! ### Port engines -/

/-- Discard the work in hand of port engine `n`: packets in the encapsulator, bursts and partial packets, windows, the frame
being filled, a notice or close of the lean zone, a realignment, a running trace. -/
def peDiscard (n : Nat) (s : State) : State :=
  let p := s.pe n
  let hs := (p.enc ++ (match p.cont with | none => [] | some c => [c.1])).filterMap (fun i => i.handle)
  let s1 := trcAbort n (hs.foldl (fun s h => dropRef h n s) (dropAllParts n (lzStop n s)))
  let s2 := s1.modPe n (fun p =>
    { p with waiting := false, running := false, selDone := false, realign := none, short := false, sel := [], hdr := none, enc := [],
             ce := [], prog := 0, pos := 0, ceLen := 0, cont := none, wins := [], rx := [], lastWin := none, rssiWait := none,
             rssiDone := false, snWin := none, quiet := [], plant := 0,
             ctxs := smapv {} (fun x => { x with open_ := false }) p.ctxs })
  let s3 := ((s2.putBit (pe0 n) F.PE_FB_STATUS_REALIGN_PEND false).put (pe0 n) F.PE_FB_STATUS_LEFT 0).putBit (pe0 n)
    F.PE_FB_STATUS_RAMP false
  (setNofsync n false (s3.putBit (pe0 n) F.PE_FB_STATUS_FAR false)).putBit (pgPE n 4) F.PE_RSSI_STAT_BUSY false

/-- What the grant slice held for port `n` goes: maps, requests, planned windows, silences and hints. Buckets stay. -/
def gpDrop (n : Nat) (s : State) : State :=
  let g := s.gp n
  let s1 := (g.reqs ++ g.plans.map (fun p => p.2.2)).foldl (fun s q => returnReq n q s) s
  s1.modGp n (fun g => { g with built := none, sealed_ := none, reqs := [], silences := [], plans := [], hints := [], staleRun := 0,
                                inbox := [] })

/-- EN of port engine `n` written 0 (R50, R524): messages of the sequencer wait for the next start. -/
def peStop (n : Nat) (s : State) : State :=
  modEval n false ((gpDrop n (peDiscard n s)).modGp n (fun g => { g with prev := {}, hist := [] }))

/-- EN of port engine `n` written 1 (R117). -/
def peEnable (n : Nat) (s : State) : State := modEval n false (peStart n s)

/-- Contexts whose activation an engine reset ends go to FREE, with Deactivate_ONU-ID to each (R494). -/
def peEndActs (n : Nat) (s : State) : State :=
  let l := (s.liveCtx n).filter (fun c => decide (1 ≤ s.st n c ∧ s.st n c ≤ 3))
  let s1 := s.modPe n (fun p => { p with seq := l.map (fun c => { msg := .deactivate (s.onuId n c), copies := 1 }) })
  actReset n (l.foldl (fun s c => dropAct n c s) s1)

/-- An engine reset of port engine `n` (R494): the superframe counter goes on from the first target at least 10 µs ahead, and
the slice takes a frame missed meanwhile as a stale map. -/
def peErst (n : Nat) (s : State) : State :=
  let j := (s.pe n).next
  let was := (s.pe n).running
  let s1 := peEndActs n (peDiscard n s)
  let s2 := s1.modPe n (fun p => { p with ctxs := smapv {} (fun x => { x with lob := 0 }) p.ctxs })
  if s2.en (pe0 n) then
    let s3 := peStart n s2
    if was && s3.gsUp n && (s3.pe n).next != j then staleWith n j { sfc := j } s3 else s3
  else s2

/-! ### The other engines -/

/-- Grant slice `i` loses its work in hand. -/
def gsDiscard (i : Nat) (s : State) : State :=
  let s1 := forN 8 (fun k s => gpDrop (8 * i + k) s) s
  (s1.put (pgGS i 0) F.GS_STATUS_STALE 0).put (pgGS i 0) F.GS_STATUS_FROZEN 0

/-- The traffic manager flushes every queue, and packets offered are refused; a FLUSH in progress completes (R494). -/
def tmDiscard (s : State) : State :=
  let s1 := s.tm.qs.foldl (fun s q => flushQueue (q.1 / 2 ^ 24 % 16) (q.1 % 2 ^ 24) s) s
  let s2 := s1.tm.offers.foldl (fun s o => tmRefuse o s) s1
  ({ s2 with tm := { s2.tm with offers := [], rr := [] } } : State).putBit pTM F.TM_CMD_STAT_BUSY false

/-- The lookup engine drops the packets in its pipes, counted, with the learn requests (R307). -/
def lkDiscard (s : State) : State :=
  let s1 := s.bump pLK C.LK_DROP s.lookups.length
  { s1 with lookups := [], lk := { s1.lk with learns := [] } }

/-- An engine reset of LK also ends a REBUILD of the length filter; journal, seeds and tables are kept (R307). -/
def lkErst (s : State) : State :=
  let s1 := lkDiscard s
  ({ s1 with lk := { s1.lk with shadow := [] } } : State).putBit pLK F.LK_PFX_CTRL_BUSY false

/-- The circuit engine loses both slip buffers of every circuit and its alignment. -/
def ceDiscard (s : State) : State :=
  let s1 : State := { s with ce := { s.ce with inq := [], ckts := [] } }
  s.ce.ckts.foldl (fun s c => cput c.1 ceALIGNED 0 (cput c.1 ceUSFILL 0 (cput c.1 ceDSFILL 0 s))) s1

/-- Recovery restarts and the lane groups align again after an engine reset of UL. -/
def ulErst (s : State) : State := forN 16 (fun g s => ulLink g false s) { s with ul := { s.ul with rcv := [] } }

/-- The mailbox exchange of the memory port is given up. -/
def doeDiscard (s : State) : State :=
  (({ s with mx := { s.mx with doeReq := [], doeReply := [] } } : State).putBit pMX1 F.MX_DOE_CTRL_BUSY false).put pMX1 F.MX_DOE_CTRL_RLEN 0

/-- EN of the memory port written 0. -/
def mxStop (s0 : State) : State :=
  let s := doeDiscard s0
  (({ mxLinkDown s with mx := { (mxLinkDown s).mx with training := false } } : State).levelTo pMX 0 false).putBit pMX1
    F.MX_IDE_STAT_SECURE false

/-- Every gate list follows EN of the gate engine. -/
def gtShow (s : State) : State := forN 64 glStat s

/-- An engine reset of GT (R492): lists that wait, are copied or are in effect end, as the status bits return to 0; the tables stay. -/
def gtErst (s : State) : State :=
  gtShow (forN 64 (fun n s =>
    setMaxWin n ((((glCancel n s).putBit (pgGL n) F.GT_STATUS_OPER false).putBit (pgGL n) F.GT_STATUS_COPY false).setGlist n {})) s)

/-- Protection discards the image being written and MAP parts, and ends MEASURE; STATE is kept. -/
def pxErst (s : State) : State :=
  let x := { s.px with image := none, parts := [], maps := [], fcnt := none, ahead := [], candA := (0, 0), candB := (0, 0), measuring := false, meas := [] }
  switchShow (s.get pgPX F.PX_CMD_STAT_LEFT) { s with px := x }

/-- The pool manager stops: a REBUILD is given up, and a threading waits for EN = 1. -/
def bpStop (s : State) : State :=
  ({ s with bp := { s.bp with rebuild := none } } : State).putBit pgBP F.BP_CMD_STAT_BUSY false

/-- The host port loses its work in hand: what it owed of injected packets is dropped and counted, and no completion of them
follows. -/
def hxDiscard (s : State) : State :=
  let s1 := s.hx.inj.foldl (fun s _ => ringDrop 242 s) s
  { s1 with hx := { s1.hx with inj := [], injGen := s1.hx.injGen + 1 } }

/-- The status bits of an engine's pages that tell of a refusal or a failure return to 0 at its reset (R492). -/
def statusReset (k : PKind) (i : Nat) (s : State) : State :=
  match k with
  | .pe _ => (s.putBit (pgPE i 7) F.PE_ACT_CMD_STAT_REJ false).putBit (pgPE i 8) F.PE_MS_CMD_STAT_REJ false
  | .tm _ => s.putBit pTM F.TM_CMD_STAT_REJ false
  | .te => forN 8 (fun n s => s.putBit (pgTB n) F.TE_TB_STAT_REJ false) s
  | .lk _ => s.putBit pLK F.LK_RSD_CTRL_REJ false
  | .bp => s.putBit pgBP F.BP_CMD_STAT_REJ false
  | .px => s.putBit pgPX F.PX_CMD_STAT_REJ false
  | .pm => forN 48 (fun n s => s.putBit (pgPMG (n / 8)) (F.PM_ALS_STAT_REJ.ix (n % 8)) false) s
  | .mx _ => s.putBit pMX1 F.MX_DOE_CTRL_ERR false
  | .gt _ => forN 64 (fun n s => s.putBit (pgGL n) F.GT_STATUS_REJ false) s
  | _ => s

/-- What stops when EN goes from 1 to 0. -/
def engStop (k : PKind) (i : Nat) (s : State) : State :=
  match k with
  | .ln => laneStop i s
  | .pe _ => peStop i s
  | .gs _ => gsDiscard i s
  | .tm _ => tmDiscard s
  | .lk _ => lkDiscard s
  | .ce => ceDiscard s
  | .ul => ulErst s
  | .mx _ => mxStop s
  | .gt _ => gtShow s
  | .pm => forN 48 trcAbort s
  | .px => pxErst s
  | .dm _ => dmErst s
  | .bp => bpStop s
  | .hx _ => hxDiscard s
  | .te => teErst s
  | _ => s

/-- What starts when EN goes from 0 to 1. -/
def engStart (k : PKind) (i : Nat) (s : State) : State :=
  match k with
  | .ln => laneStart i s
  | .pe _ => peEnable i s
  | .mx _ => mxStart s
  | .gt _ => gtShow s
  | _ => s

/-- What an engine reset does beyond the bits of the page: work in hand goes, and the engine restarts when EN = 1. -/
def engReset (k : PKind) (i : Nat) (s : State) : State :=
  match k with
  | .ln => laneErst i s
  | .pe _ => peErst i s
  | .gs _ => gsDiscard i s
  | .tm _ => tmDiscard s
  | .lk _ => lkErst s
  | .ce => ceDiscard s
  | .ul => ulErst s
  | .mx _ => let s1 := mxLinkDown (doeDiscard s); if s1.en pMX then mxStart s1 else s1
  | .hx _ => hxDiscard s
  | .gt _ => gtErst s
  | .pm => forN 48 trcAbort s
  | .px => pxErst s
  | .bp => bpErst s
  | .te => teErst s
  | .dm _ => dmErst s
  | _ => s

/-- No work is in hand. -/
def State.engIdle (s : State) (k : PKind) (i : Nat) : Bool :=
  match k with
  | .pe _ => let p := s.pe i; p.enc.isEmpty && p.cont.isNone && p.rx.isEmpty && p.parts.isEmpty
  | .gs _ => (List.range 8).all (fun j => (s.gp (8 * i + j)).built.isNone)
  | .tm _ => s.tm.offers.isEmpty && s.tm.qs.all (fun q => q.2.pkts.isEmpty)
  | .lk _ => s.lookups.isEmpty
  | .ce => s.ce.inq.isEmpty
  | .px => s.px.image.isNone
  | .dm _ => s.dm.queues.isEmpty
  | .pm => (List.range 48).all (fun n => !s.trcRuns n)
  | .bp => s.bp.rebuild.isNone && (List.range 16).all (fun p => !s.bit pgBP (F.BP_POOL_STAT_INIT.ix p))
  | .hx _ => s.hx.inj.isEmpty
  | .mx _ => !s.bit pMX1 F.MX_DOE_CTRL_BUSY && !s.mx.training
  | .gt _ => (List.range 64).all (fun n => !s.bit (pgGL n) F.GT_STATUS_PEND && !s.bit (pgGL n) F.GT_STATUS_COPY)
  | .te => (List.range 8).all (fun n => (s.tb n).held.isNone && decide ((s.tb n).rem = 0))
  | _ => true

/-- QUIESCED is 1 while QUIESCE is 1 and no work is in hand (R49). -/
def quiescedShow (k : PKind) (i pg : Nat) (s : State) : State :=
  s.putBit pg F.ST_QUIESCED (s.quiescing pg && s.engIdle k i)

/-- Pages whose READY comes with an event of its own: lanes lock a PLL (R70), the memory port brings up its link (R363). -/
def ownReady : PKind → Bool
  | .ln | .mx _ => true
  | _ => false

/-- ERST of the engine of page `pg`; none while a section or device reset that covers it runs (R489). -/
def engErst (k : PKind) (i pg : Nat) (s : State) : State :=
  if (s.get pgDV F.DV_RST_STAT_BUSY).testBit (sectOf k i) then s
  else
    let s1 := ((s.putBit pg F.PAGE_QUIESCE false).putBit pg F.ST_QUIESCED false).putBit pg F.ST_FAULT false
    statusReset k i (engReset k i (s1.putBit pg F.ST_READY false))

/-- A write of PAGE_CTRL with word `w` on the first page of an engine: EN and QUIESCE as written, then ERST. -/
def ctrlAct (k : PKind) (i pg w : Nat) (s : State) : State :=
  if isCtrl k then
    let was := s.en pg
    let s1 := (s.putBit pg F.PAGE_EN (w.testBit 0)).putBit pg F.PAGE_QUIESCE (w.testBit 1)
    let s2 :=
      if w.testBit 0 && !was then engStart k i (s1.when (!ownReady k) (fun s => s.putBit pg F.ST_READY false))
      else if !w.testBit 0 && was then engStop k i (s1.putBit pg F.ST_READY false)
      else s1
    let s3 := quiescedShow k i pg s2
    if w.testBit 2 then engErst k i pg s3 else s3
  else s

/-- A write of PAGE_CTRL of page `pg` by function `fn`. -/
def ctrlWrite (fn pg : Nat) (w : Word) (s : State) : State :=
  s.access fn (pg + 0x008) (fun k i s => ctrlAct k i pg w.toNat s)

/-- Initialisation of the engine of page `pg` completes after enable or engine reset (R492). -/
def engineReady (pg : Nat) (s : State) : State :=
  match pageOf pg with
  | none => s
  | some (k, i) =>
    if isCtrl k && !ownReady k && s.en pg && !(s.get pgDV F.DV_RST_STAT_BUSY).testBit (sectOf k i) then s.putBit pg F.ST_READY true else s

/-- A quiescing engine has finished its work in hand (R49). -/
def quiesced (pg : Nat) (s : State) : State :=
  match pageOf pg with
  | none => s
  | some (k, i) => if isCtrl k && s.quiescing pg then quiescedShow k i pg s else s

/-! ### Meanings -/

def execEngineEnable (fn : Fn) (page : BitVec 12) (w : Word) (s : State) : Res :=
  .next (ctrlWrite fn.val (pageBase page) (w ||| maskBit 0) s)

def execEngineDisable (fn : Fn) (page : BitVec 12) (w : Word) (s : State) : Res :=
  .next (ctrlWrite fn.val (pageBase page) (w &&& ~~~ maskBit 0) s)

def execQuiesce (fn : Fn) (page : BitVec 12) (w : Word) (s : State) : Res :=
  .next (ctrlWrite fn.val (pageBase page) (w ||| maskBit 1) s)

def execErst (fn : Fn) (page : BitVec 12) (w : Word) (s : State) : Res :=
  .next (ctrlWrite fn.val (pageBase page) (w ||| maskBit 2) s)

def execQuiesced (page : BitVec 12) (s : State) : Res := .next (quiesced (pageBase page) s)

def execEngineReady (page : BitVec 12) (s : State) : Res := .next (engineReady (pageBase page) s)

def execMxEnable (fn : Fn) (w : Word) (s : State) : Res := .next (ctrlWrite fn.val pMX (w ||| maskBit 0) s)

def execLaneEnable (fn : Fn) (lane : Fin 140) (w : Word) (s : State) : Res :=
  .next (ctrlWrite fn.val (pgLN lane.val) (w ||| maskBit 0) s)

end Sys2Proof.Machine
end

