-- ==== Sys2Proof/Machine/Register.lean ====
section
/-! DEFINITION. A write of any register word, with what it starts (R47 to R65, R474, R522), the page header's own registers,
counters (R121), the source map, and the value a read returns. -/

namespace Sys2Proof.Machine

/-! ### The page header (R49, R51, R52, R60 to R64, R474) -/

/-- How many source numbers the event index gives a page (R65). -/
def srcWidth (k : PKind) : Nat :=
  match k with
  | .sc | .pw | .te | .pm | .pe _ | .gs _ => 16
  | .tb | .ps => 8
  | .ln => 3
  | _ => 32

/-- The page that the event index places a source on (R65); numbers from 2,036 have none. -/
def srcPage (x : Nat) : Option Nat :=
  (allPages.find? (fun p =>
    match pageNo p with
    | none => false
    | some (k, i) =>
      match srcBase k i with
      | none => false
      | some b => decide (b ≤ x) && decide (x < b + srcWidth k))).map (fun p => 4096 * p)

/-- A write of EVT_PEND (R60, R61, R64): pending sources clear, but for a sticky one whose recovery is due; a vector that a
cleared source is mapped to and that is still asserted sends its message again; one no longer asserted has none pending. -/
def pendClear (k : PKind) (i pg w : Nat) (s : State) : State :=
  let old := (s.reg (pg + 0x014)).toNat
  let clr := w &&& old &&& (0xFFFFFFFF - (sget (0 : Word) s.sticky pg).toNat)
  let s1 := s.setReg (pg + 0x014) (BitVec.ofNat 32 (old - clr))
  match srcBase k i with
  | none => s1
  | some b =>
    let fn := if s.pageSecure pg then 0 else 1
    let vs := dedup ((bitsOf clr).map (fun j => (fn, s.vecOf (b + j))))
    let on := s1.assertedVecs
    (vs.filter (fun v => on.contains v)).foldl State.message (s1.vecFalls s.assertedVecs)

/-- EVT_FORCE (R61): PEND is set as by an occurrence; RAW, counters and recovery are untouched. -/
def evtForce (k : PKind) (pg w : Nat) (s : State) : State :=
  State.settle s (s.setReg (pg + 0x014) (BitVec.ofNat 32 ((s.reg (pg + 0x014)).toNat ||| (w &&& (evMasks k).1))))

/-- EVT_EN: critical bits stay 1, and bits of no source are not stored. -/
def evtEn (k : PKind) (pg w : Nat) (s : State) : State :=
  State.settle s (s.setReg (pg + 0x018) (BitVec.ofNat 32 ((w &&& (evMasks k).1) ||| (evMasks k).2.1)))

/-- PAGE_WORLD.SEC (R51, R64, R474): the page and its event delivery move to the other world. -/
def worldWrite (k : PKind) (fn pg w : Nat) (s : State) : State :=
  if (fixedOf k).isSome || fn != 0 || s.pageSecure pg == decide (w % 2 = 1) then s
  else State.settle s ((s.setReg (pg + 0x020) (BitVec.ofNat 32 (w % 2))).commit pg)

/-- PAGE_LOCK (R52). -/
def lockWrite (pg w : Nat) (s : State) : State := s.when (w.testBit 0) (fun s => s.putBit pg F.LOCK_LOCK true)

/-- PAGE_STATUS: the two write-one-to-clear bits. -/
def statusWrite (pg w : Nat) (s : State) : State :=
  (s.when (w.testBit 8) (fun s => s.putBit pg F.ST_CFG_REJ false)).when (w.testBit 9) (fun s => s.putBit pg F.ST_LOCK_VIOL false)

/-- A write in the page header. -/
def headerWrite (k : PKind) (i fn pg off w : Nat) (s : State) : State :=
  if off = 0x008 then ctrlAct k i pg w s
  else if off = 0x00C then statusWrite pg w s
  else if off = 0x014 then pendClear k i pg w s
  else if off = 0x018 then evtEn k pg w s
  else if off = 0x01C then evtForce k pg w s
  else if off = 0x020 then worldWrite k fn pg w s
  else if off = 0x024 then lockWrite pg w s
  else s

/-! ### Table windows, the source map, counters -/

/-- A write in a table window (R55): only TBL_CMD does more than hold its value. -/
def windowWrite (k : PKind) (i pg off : Nat) (w : Word) (s : State) : State :=
  if off = 0x044 then tblCommand k i pg w.toNat s
  else if off = 0x040 then s.setReg (pg + off) (w &&& 0xF0FFFFFF)
  else if off = 0x04C ∨ off = 0x050 ∨ 0x080 ≤ off then s.setReg (pg + off) w
  else s

/-- EV_MAP and EV_VEC_CFG (R63, R64). The entry of a source on a secure page is written only from the secure world. -/
def evWrite (p fn pg off : Nat) (w : Word) (s : State) : State :=
  if 2 ≤ p ∧ p < 10 ∧ 0x040 ≤ off ∧ off < 0x440 then
    let x := (p - 2) * 256 + (off - 0x040) / 4
    let sec := match srcPage x with | none => false | some q => s.pageSecure q
    if fn = 1 ∧ sec = true then s.violation 5 fn true (pg + off)
    else State.settle s ((s.setReg (pg + off) (BitVec.ofNat 32 (w.toNat % 512))).commit pg)
  else if (p = 11 ∨ p = 12) ∧ 0x040 ≤ off ∧ off < 0x840 then
    (s.setReg (pg + off) (BitVec.ofNat 32 (w.toNat % 1024))).commit pg
  else s

/-- The burst records of a port (R146) become 0. -/
def clrOnu (n : Nat) (s : State) : State := forN 512 (fun c s => s.setEnt (pgPE n 6) 0 c 0) s

/-- A write of a page's SNAP and CLR register (R121), with what CLR also clears on its page. -/
def cntWrite (k : PKind) (i pg w : Nat) (s : State) : State :=
  let s1 := s.snapClr pg (ctrsOf k).1 (w.testBit 0) (w.testBit 1)
  match k with
  | .pe 5 => s1.when (w.testBit 2) (clrOnu i)
  | .gs _ => s1.when (w.testBit 1) (fun s => s.put pg F.GS_PORT_SEAL_MIN 0xFFFF)
  | .dm 0 => s1.when (w.testBit 1) (forN 2 (fun k s => s.put pDM (F.DM_REF_STAT_CATCHUP_MAX.ix k) 0))
  | _ => s1

/-! ### Registers that are not plain fields -/

/-- Keep the word of a register that is committed with another one, or never read back. -/
def stageWord (a : Nat) (w : Word) (s : State) : State := { s with staged := sset none s.staged a (some w) }

/-- Write-only words of the SC page: password, response, pair key. -/
def scStaged (off : Nat) : Bool :=
  decide (0x0F0 ≤ off ∧ off < 0x100) || decide (0x110 ≤ off ∧ off < 0x150)

/-- A write of DV_RST whose later steps are not given: what those steps find is free (log entry 2). -/
def dvRstFree (w : Nat) (s : State) : State :=
  if w.testBit 31 then
    let a := s.draw
    let b := a.2.draw
    let c := b.2.draw
    let d := c.2.draw
    dvRst w (a.1 % 8) (b.1 % 256) c.1 (d.1 % 3) d.2
  else dvRst w 0 0 0 0 s

/-- Registers whose write is a command, or is staged or committed by its own rule: none for a register of plain fields. -/
def directWrite (k : PKind) (i fn off : Nat) (w : Word) : Option (State → State) :=
  match k with
  | .tb =>
    if off = 0x040 then some (tbCommand i (fld w.toNat 31 28) (fld w.toNat 25 24) restepNote)
    else if off = 0x06C then some (stageWord (pgTB i + 0x06C) w)
    else if off = 0x070 then some (rateWrite i w) else none
  | .pe p =>
    if p = 0 then
      (if off = 0x048 then some (stageWord (pe0 i + 0x048) w) else if off = 0x04C then some (ofsWrite i w)
       else if off = 0x050 then some (fun s => s.when (w.getLsbD 0) (realign i))
       else if off = 0x064 then some (fun s => if s.isLegacy i then s else lzEval i (s.storeFields k i fn (pe0 i + off) w.toNat).1)
       else if off = 0x068 then some (lzStartWrite i w) else none)
    else if p = 3 ∧ off = 0x0C0 then some (authWrite i w.toNat)
    else if p = 7 ∧ off = 0x0E4 then some (actCommand i w.toNat)
    else none
  | .px => if off = 0x05C then some (pxCommand (fld w.toNat 31 28)) else none
  | .hx p => if p = 0 ∧ off = 0x0C4 ∧ fld w.toNat 3 0 = 0 then some id else none
  | .pmg =>
    let n := 8 * i + (off - 0x200) / 64
    if 0x200 ≤ off ∧ off < 0x400 ∧ off % 64 = 0 then some (trcCommand n (fld w.toNat 31 28))
    else if 0x200 ≤ off ∧ off < 0x400 ∧ off % 64 = 0x20 then some (alsCommand fn n (fld w.toNat 31 28))
    else none
  | .dv => if off = 0x280 then some (dvRstFree w.toNat) else none
  | .pw =>
    if off = 0x044 then some (pwCommand w.toNat)
    else if off = 0x054 then some (retFailClear w.toNat)
    else if off = 0x070 then some (refSwitch w.toNat) else none
  | .sc =>
    if off = 0x0D8 then some (lcCommand w.toNat) else if off = 0x0E4 then some (dbgCommand w.toNat)
    else if off = 0x150 then some (pairCommand w.toNat)
    else if scStaged off then some (stageWord (pgSC + off) w) else none
  | _ => none

/-- MX_DOE_WR: one more word of the request (R374). -/
def doeWord (w : Word) (s : State) : State := { s with mx := { s.mx with doeReq := s.mx.doeReq ++ [w] } }

/-- TE_TB_REF_CFG: monitoring that starts, or moves to another input, has no baseline yet (R242). -/
def refCfgAct (n : Nat) (old s : State) : State :=
  if (s.bit (pgTB n) F.TE_TB_REF_CFG_EN && !old.bit (pgTB n) F.TE_TB_REF_CFG_EN) ||
      s.get (pgTB n) F.TE_TB_REF_CFG_SRC != old.get (pgTB n) F.TE_TB_REF_CFG_SRC then
    s.setTb n { s.tb n with baseline := none }
  else s

/-- RESUME of a plain write: whether both ends have keyed again is free. -/
def ideWrite (w : Word) (ok : Bool) (s : State) : State :=
  let s1 := s.when ok ideAct
  if w.getLsbD 30 then let d := s1.draw; ideResume (d.1 % 2 = 1) d.2 else s1

/-- What a write of a register of plain fields starts, from the state `old` before it, once its fields are stored; `ok` says
that its configuration fields committed. -/
def fieldAct (k : PKind) (i off : Nat) (w : Word) (old : State) (ok : Bool) (s : State) : State :=
  match k with
  | .dv =>
    if off = 0x140 then avsLimit (s.when (w.getLsbD 31) clearWorst)
    else if off = 0x144 ∨ off = 0x14C then avsLimit s
    else if off = 0x148 then avsCtrlAct (old.bit pgDV F.DV_AVS_CTRL_EN) s
    else if off = 0x240 then s.when (w.getLsbD 30) clearEccCounts else s
  | .ln =>
    if off = 0x040 then s.when ok (lnCfgAct i) else if off = 0x044 ∨ off = 0x048 then s.when ok (lnTxAct i)
    else if off = 0x050 then s.when ok (idleAct i) else if off = 0x058 then adaptAct i w s
    else if off = 0x060 then prbsCtrlAct i w ok s else s
  | .pe p => if p = 8 ∧ off = 0x0D0 then s.when ok (rederive i) else if p = 8 ∧ off = 0x0E4 then msCommand i w.toNat s else s
  | .ps => if off = 0x040 then pxShow (forN 8 (fun k s => setCommit (8 * i + k) s) s) else if off = 0x044 then psPwrAct i (old.reg (pgPS i + 0x044)).toNat s else s
  | .gs p => if p = 0 ∧ off = 0x040 then s.when (w.getLsbD 31) (hintCntClr i) else s
  | .tm p =>
    if p = 0 ∧ off = 0x0C4 then tmCommand w.toNat s
    else if p = 2 ∧ off = 0x0C0 then
      s.when (w.getLsbD 30) (fun s => (s.put pLAT F.EPOCH_SKIP_COUNT 0).put pLAT F.HIST_CARRY_COUNT 0)
    else s
  | .te =>
    if off = 0x0C0 then s.when (w.getLsbD 0) ponReturn
    else if off = 0x0D0 then
      s.when (s.get pgTE F.TE_FSYNC_CFG_MODE != old.get pgTE F.TE_FSYNC_CFG_MODE ||
        s.get pgTE F.TE_FSYNC_CFG_DIV != old.get pgTE F.TE_FSYNC_CFG_DIV) fsyncCfgAct
    else if off = 0x0D8 ∨ off = 0x0DC then
      ppsCfgAct ((off - 0x0D8) / 4) (old.bit pgTE (F.TE_PPSO_CFG_EN.ix ((off - 0x0D8) / 4))) s
    else if off = 0x0F0 then s.when (w.getLsbD 31) (fun s => s.put pgTE F.TE_1STEP_SKIP_COUNT 0) else s
  | .tb =>
    if off = 0x080 then refCfgAct i old s
    else if off = 0x09C ∨ off = 0x0A4 ∨ off = 0x0B4 then
      s.when (w.getLsbD 31) (armAct i (if off = 0x09C then 0 else if off = 0x0A4 then 1 else 2))
    else disarmAct i off s
  | .gt p =>
    if 2 ≤ p ∧ off = 0x0C0 then glCtrlAct (p - 2) (old.bit (pgGT p) F.GT_CTRL_EN) (old.get (pgGT p) F.GT_CTRL_TB) w.toNat s
    else if 2 ≤ p ∧ 0x0C4 ≤ off ∧ off < 0x0D8 then
      s.when (old.bit (pgGT p) F.GT_STATUS_PEND || old.bit (pgGT p) F.GT_STATUS_COPY) (fun s => s.putBit (pgGT p) F.GT_STATUS_REJ true)
    else s
  | .lk _ =>
    if off = 0x0C8 then forN 3 hpEval s
    else if off = 0x0D8 then s.when (w.getLsbD 31) (reseedCmd w.toNat)
    else if off = 0x0E0 then s.when (w.getLsbD 31) filtRebuild else s
  | .bp =>
    if off = 0x1C0 then s.when (fld w.toNat 31 28 != 0) (bpCommand w.toNat)
    else if 0x0C0 ≤ off ∧ off < 0x1C0 ∧ off % 16 = 0 then
      poolCfgAct ((off - 0x0C0) / 16) (old.bit pgBP (F.BP_POOL_CFG_EN.ix ((off - 0x0C0) / 16))) s
    else s
  | .dm p =>
    if p = 0 ∧ off = 0x10C then freqCtrl w.toNat s
    else if p = 0 ∧ off = 0x114 then s.when (w.getLsbD 31) trainStart else s
  | .hx p =>
    if p = 0 ∧ off = 0x0C4 then s.when ok levelAct
    else if p = 0 ∧ 0x0D0 ≤ off ∧ off < 0x0F0 then State.settle old s else s
  | .mx p =>
    if p = 1 ∧ off = 0x0C0 then ideWrite w ok s
    else if p = 1 ∧ off = 0x0C8 then s.when (w.getLsbD 31) doeGo
    else if p = 1 ∧ off = 0x0CC then doeWord w s else s
  | .ul => if 0x0C0 ≤ off ∧ off < 0x100 then ulLink ((off - 0x0C0) / 4) (s.bit pgUL (F.UL_GRP_UP.ix ((off - 0x0C0) / 4))) s else s
  | .px => if off = 0x040 then pxCfgAct (old.bit pgPX F.PX_CFG_EN) s else pxShow s
  | .pmg =>
    let n := 8 * i + (off - 0x200) / 64
    if 0x200 ≤ off ∧ off < 0x400 ∧ off % 64 = 0x18 then alsCfgAct n s
    else if 0x200 ≤ off ∧ off < 0x400 ∧ off % 64 = 0x2C then modEval n false s else s
  | _ => s

/-- A register write has reached its page in its world. -/
def regAct (k : PKind) (i fn a : Nat) (w : Word) (s : State) : State :=
  let off := a % 4096
  let pg := a - off
  if off < 0x040 then headerWrite k i fn pg off w.toNat s
  else if hasTbl k && decide (off < 0x0C0) then windowWrite k i pg off w s
  else
    match k with
    | .ev p => evWrite p fn pg off w s
    | _ =>
      if !(ctrsOf k).1.isEmpty && off == (ctrsOf k).2 then cntWrite k i pg w.toNat s
      else
        match directWrite k i fn off w with
        | some f => f s
        | none => let r := s.storeFields k i fn a w.toNat; fieldAct k i off w s r.2 r.1

/-- A write of word `w` at BAR0 address `a` by function `fn`. -/
def regWrite (fn a : Nat) (w : Word) (s : State) : State := s.access fn a (fun k i s => regAct k i fn a w s)

/-! ### Reads -/

/-- The pages with an active source in a world. -/
def State.activePages (s : State) (fn : Nat) : List (Nat × Nat) := s.activeSrcs.filter (fun p => p.1 == fn)

/-- EV_SUM of a world: the sections with an active source; DV counts in VS (R62). -/
def State.evSum (s : State) (fn : Nat) : Nat :=
  (s.activePages fn).foldl (fun m p => match srcPage p.2 with
    | none => m
    | some q => m ||| 2 ^ sectOfAddr q) 0

/-- EV_WORDh of a world (R62). -/
def State.evWord (s : State) (fn h : Nat) : Nat :=
  (s.activePages fn).foldl (fun m p => if p.2 / 1024 = h then m ||| 2 ^ (p.2 / 32 % 32) else m) 0

/-- EV_SRC_PENDw as function `fn` sees it (R62): a non-secure read shows only sources on non-secure pages. -/
def State.evMirror (s : State) (fn w : Nat) : Nat :=
  (s.activeSrcs.filter (fun p => fn == 0 || p.1 == 1)).foldl (fun m p => if p.2 / 32 = w then m ||| 2 ^ (p.2 % 32) else m) 0

/-- What the register at `a` of page kind `k` shows to function `fn`: the word in effect, with the fields that are computed at
the read. -/
def State.shown (s : State) (k : PKind) (i fn a : Nat) : Nat :=
  let off := a % 4096
  let pg := a - off
  let w := (s.reg a).toNat
  if off = 0x00C then
    w ||| (if s.locked pg then 2 ^ 5 else 0) ||| (if isCtrl k && s.en pg && !s.engIdle k i then 2 else 0)
  else if off = 0x01C then 0
  else if off < 0x040 then w
  else
    match k with
    | .ev p =>
      if p < 2 then (if off = 0x040 then s.evSum p else if off = 0x044 then s.evWord p 0 else if off = 0x048 then s.evWord p 1 else 0)
      else if p = 10 ∧ off < 0x140 then s.evMirror fn ((off - 0x040) / 4)
      else if 2 ≤ p ∧ p < 10 ∧ fn = 1 then
        (match srcPage ((p - 2) * 256 + (off - 0x040) / 4) with | none => w | some q => if s.pageSecure q then 0 else w)
      else w
    | .pe p =>
      if p = 0 ∧ s.isLegacy i = true ∧ off = 0x040 then w - w % 4 + 1
      else if p = 0 ∧ s.isLegacy i = true ∧ 0x064 ≤ off ∧ off < 0x070 then 0
      else if p = 0 ∧ off = F.PE_SFC_HI_SFC.off then (s.pe i).sfcHi
      else if p = 7 ∧ off = 0x0D0 then ceilNs (s.snQw i) % 2 ^ 20
      else if p = 7 ∧ off = 0x0D4 then ceilNs (s.rqw i) % 2 ^ 20
      else w
    | .gs p =>
      if 1 ≤ p ∧ p ≤ 8 ∧ off = 0x0C8 then
        w % 2 ^ 16 + (s.frameTu (8 * i + p - 1) - s.get pg F.GS_PORT_QRES_QRES - s.get pg F.GS_PORT_COMMIT_C) % 2 ^ 16 * 2 ^ 16
      else w
    | .mx p => if p = 1 ∧ off = 0x0D0 then (s.mx.doeReply.headD 0).toNat else w
    | .tb => ((tbStat i s).reg a).toNat
    | .te => if (off = 0x0E8 ∨ off = 0x0EC) ∧ s.rclkSquelched ((off - 0x0E8) / 4) then w ||| 2 ^ 30 else w
    | _ => w

/-- The value that a read of `a` by function `fn` returns (R47, R51, R473). -/
def State.busRead (s : State) (fn a : Nat) : Nat :=
  match pageOf a with
  | none => 0
  | some (k, i) =>
    if a % 4 ≠ 0 || s.unreachable k i (a % 4096) || s.violates k fn a then 0 else s.shown k i fn a

/-! ### Accesses that are errors (R47) -/

/-- No page at the address, a size that is neither 4 nor 8 bytes, or a misaligned access. -/
def isAccessError (a size : Nat) : Bool := (pageOf a).isNone || (size != 4 && size != 8) || a % size != 0

/-- What a read of a register copies first: PE_SFC_LO snapshots PE_SFC_HI (R120), LN_PRBS_BITS_LO its three counters (R83),
TE_TB_SEC_LO the time base (R236). -/
def readSnap (k : PKind) (i off : Nat) (s : State) : State :=
  match k with
  | .pe p =>
    s.when (decide (p = 0) && decide (off = F.PE_SFC_LO_SFC.off)) (fun s =>
      s.modPe i (fun x => { x with sfcHi := s.get (pe0 i) F.PE_SFC_HI_SFC }))
  | .ln => s.when (decide (lnFamily i < 4) && decide (off = F.LN_PRBS_BITS_LO_COUNT.off)) (prbsSnap i)
  | .tb => s.when (decide (off = F.TE_TB_SEC_LO_SEC.off)) (tbSnap i)
  | _ => s

/-- An aligned 32-bit read by function `fn`: the value it returns, with what the register does at a read. One from the wrong
world reads 0 and is a violation (R473). -/
def readWord (fn a : Nat) (s : State) : State :=
  match pageOf a with
  | none => s
  | some (k, i) =>
    if a = pgSC + 0x15C then rngRead fn s
    else if s.unreachable k i (a % 4096) then s.emit (.readData fn a 0)
    else if s.violates k fn a then (s.violation 1 fn false a).emit (.readData fn a 0)
    else
      let s1 := readSnap k i (a % 4096) s
      let s2 := s1.emit (.readData fn a (BitVec.ofNat 32 (s1.shown k i fn a)))
      s2.when (decide (a = pMX1 + F.MX_DOE_RD_DATA.off)) doeTake

/-- An access that R47 calls an error; a read returns 0. A read that is none answers the register; an aligned 64-bit read is two
32-bit reads, lower address first. A write that is no error is REGISTER_WRITE's. -/
def accessErr (fn a size : Nat) (wr : Bool) (s : State) : State :=
  if isAccessError a size then
    let s1 := s.accessError fn wr a
    if wr then s1 else s1.emit (.readData fn a 0)
  else if wr then s
  else if size = 8 then readWord fn (a + 4) (readWord fn a s)
  else readWord fn a s

/-! ### Meanings -/

def execRegisterWrite (fn : Fn) (addr : BitVec 28) (w : Word) (t : Nat) (s : State) : Res :=
  .next (regWrite fn.val addr.toNat w (s.at t))

def execAccessError (fn : Fn) (addr : BitVec 28) (size : Nat) (wr : Bool) (s : State) : Res :=
  .next (accessErr fn.val addr.toNat size wr s)

def execPageLock (fn : Fn) (page : BitVec 12) (s : State) : Res := .next (regWrite fn.val (pageBase page + 0x024) 1 s)

def execWorldChange (fn : Fn) (page : BitVec 12) (sec : Bool) (s : State) : Res :=
  .next (regWrite fn.val (pageBase page + 0x020) (if sec then 1 else 0) s)

def execEvtPendClear (fn : Fn) (page : BitVec 12) (w : Word) (s : State) : Res :=
  .next (regWrite fn.val (pageBase page + 0x014) w s)

def execEvtForce (fn : Fn) (page : BitVec 12) (w : Word) (s : State) : Res :=
  .next (regWrite fn.val (pageBase page + 0x01C) w s)

/-- A write of the counter register of a page, with bit `b` of `w` set. -/
def cntCommand (fn : Nat) (page : BitVec 12) (b : Nat) (w : Word) (s : State) : State :=
  match pageOf (pageBase page) with
  | none => s.accessError fn true (pageBase page)
  | some (k, _) => if (ctrsOf k).1.isEmpty then s else regWrite fn (pageBase page + (ctrsOf k).2) (w ||| maskBit b) s

def execCntSnap (fn : Fn) (page : BitVec 12) (w : Word) (s : State) : Res := .next (cntCommand fn.val page 0 w s)

def execCntClr (fn : Fn) (page : BitVec 12) (w : Word) (s : State) : Res := .next (cntCommand fn.val page 1 w s)

end Sys2Proof.Machine
end

