-- ==== Sys2Proof/Machine/Dispatch.lean ====
section
/-! DEFINITION. One arm per command, each a direct call of its meaning. -/

namespace Sys2Proof.Machine

def exec (i : Instr) (s : State) : Host.Outcome State Fault Refusal :=
  match i with
  | .registerWrite fn addr w t => Sys2Proof.Machine.execRegisterWrite fn addr w t s
  | .accessError fn addr size wr => Sys2Proof.Machine.execAccessError fn addr size wr s
  | .pageLock fn page => Sys2Proof.Machine.execPageLock fn page s
  | .worldChange fn page sec => Sys2Proof.Machine.execWorldChange fn page sec s
  | .engineEnable fn page w => Sys2Proof.Machine.execEngineEnable fn page w s
  | .engineDisable fn page w => Sys2Proof.Machine.execEngineDisable fn page w s
  | .quiesce fn page w => Sys2Proof.Machine.execQuiesce fn page w s
  | .quiesced page => Sys2Proof.Machine.execQuiesced page s
  | .erst fn page w => Sys2Proof.Machine.execErst fn page w s
  | .evtPendClear fn page w => Sys2Proof.Machine.execEvtPendClear fn page w s
  | .evtForce fn page w => Sys2Proof.Machine.execEvtForce fn page w s
  | .msixGapExpiry fn vec => Sys2Proof.Machine.execMsixGapExpiry fn vec s
  | .tblRead fn page w => Sys2Proof.Machine.execTblRead fn page w s
  | .tblWrite fn page w => Sys2Proof.Machine.execTblWrite fn page w s
  | .tblInsert fn page w => Sys2Proof.Machine.execTblInsert fn page w s
  | .tblDelete fn page w => Sys2Proof.Machine.execTblDelete fn page w s
  | .tblCdel fn page w => Sys2Proof.Machine.execTblCdel fn page w s
  | .tblCas fn page w => Sys2Proof.Machine.execTblCas fn page w s
  | .tblFind fn page w => Sys2Proof.Machine.execTblFind fn page w s
  | .badOp fn page w => Sys2Proof.Machine.execBadOp fn page w s
  | .tblOvr fn page => Sys2Proof.Machine.execTblOvr fn page s
  | .cntSnap fn page w => Sys2Proof.Machine.execCntSnap fn page w s
  | .cntClr fn page w => Sys2Proof.Machine.execCntClr fn page w s
  | .pitchMeasure sect ps stretched => Sys2Proof.Machine.execPitchMeasure sect ps stretched s
  | .pitchSlow sect => Sys2Proof.Machine.execPitchSlow sect s
  | .clrWorst fn w => Sys2Proof.Machine.execClrWorst fn w s
  | .avsEnable fn w => Sys2Proof.Machine.execAvsEnable fn w s
  | .avsLoop => Sys2Proof.Machine.execAvsLoop s
  | .avsTransactionEnd acked mv => Sys2Proof.Machine.execAvsTransactionEnd acked mv s
  | .didtEpisode sects dur => Sys2Proof.Machine.execDidtEpisode sects dur s
  | .didtLimit t => Sys2Proof.Machine.execDidtLimit t s
  | .sramPatrol found => Sys2Proof.Machine.execSramPatrol found s
  | .eccCeRate => Sys2Proof.Machine.execEccCeRate s
  | .clrCnt fn w => Sys2Proof.Machine.execClrCnt fn w s
  | .laneEnable fn lane w => Sys2Proof.Machine.execLaneEnable fn lane w s
  | .pllLock lane => Sys2Proof.Machine.execPllLock lane s
  | .pllLockTimeout lane => Sys2Proof.Machine.execPllLockTimeout lane s
  | .terminationDetect lane found => Sys2Proof.Machine.execTerminationDetect lane found s
  | .terminationRetry lane => Sys2Proof.Machine.execTerminationRetry lane s
  | .sigdet lane => Sys2Proof.Machine.execSigdet lane s
  | .adaptSettled lane => Sys2Proof.Machine.execAdaptSettled lane s
  | .adaptTimeout lane => Sys2Proof.Machine.execAdaptTimeout lane s
  | .pcsLock lane inverted position => Sys2Proof.Machine.execPcsLock lane inverted position s
  | .pcsLockTimeout lane => Sys2Proof.Machine.execPcsLockTimeout lane s
  | .lockLoss lane => Sys2Proof.Machine.execLockLoss lane s
  | .adaptRestart fn lane w => Sys2Proof.Machine.execAdaptRestart fn lane w s
  | .clrAdapt fn lane w => Sys2Proof.Machine.execClrAdapt fn lane w s
  | .idleRequest fn lane w => Sys2Proof.Machine.execIdleRequest fn lane w s
  | .idleEntry lane => Sys2Proof.Machine.execIdleEntry lane s
  | .idleExit fn lane w => Sys2Proof.Machine.execIdleExit fn lane w s
  | .breathRx lane => Sys2Proof.Machine.execBreathRx lane s
  | .fastPathFail lane => Sys2Proof.Machine.execFastPathFail lane s
  | .signalLoss lane => Sys2Proof.Machine.execSignalLoss lane s
  | .idleStale lane => Sys2Proof.Machine.execIdleStale lane s
  | .prbsModeTest fn lane w => Sys2Proof.Machine.execPrbsModeTest fn lane w s
  | .testEntry lane => Sys2Proof.Machine.execTestEntry lane s
  | .prbsModeService fn lane w => Sys2Proof.Machine.execPrbsModeService fn lane w s
  | .prbsModeOff fn lane w => Sys2Proof.Machine.execPrbsModeOff fn lane w s
  | .prbsSync lane rx => Sys2Proof.Machine.execPrbsSync lane rx s
  | .prbsSyncLoss lane bits berr serr => Sys2Proof.Machine.execPrbsSyncLoss lane bits berr serr s
  | .prbsSat lane bits berr serr => Sys2Proof.Machine.execPrbsSat lane bits berr serr s
  | .prbsSnapshot fn lane bits berr serr => Sys2Proof.Machine.execPrbsSnapshot fn lane bits berr serr s
  | .prbsClr fn lane w => Sys2Proof.Machine.execPrbsClr fn lane w s
  | .prbsInj fn lane w => Sys2Proof.Machine.execPrbsInj fn lane w s
  | .prxPolarityFix port => Sys2Proof.Machine.execPrxPolarityFix port s
  | .frameBoundary port t => Sys2Proof.Machine.execFrameBoundary port t s
  | .ploamSelect port => Sys2Proof.Machine.execPloamSelect port s
  | .headerAssemble port => Sys2Proof.Machine.execHeaderAssemble port s
  | .codewordFill port cw present => Sys2Proof.Machine.execCodewordFill port cw present s
  | .keyLoad fn port w => Sys2Proof.Machine.execKeyLoad fn port w s
  | .keySched fn port w => Sys2Proof.Machine.execKeySched fn port w s
  | .keyDelete fn port w => Sys2Proof.Machine.execKeyDelete fn port w s
  | .lzStartWrite fn port w => Sys2Proof.Machine.execLzStartWrite fn port w s
  | .lzOpened port => Sys2Proof.Machine.execLzOpened port s
  | .lzClosed port => Sys2Proof.Machine.execLzClosed port s
  | .realign fn port => Sys2Proof.Machine.execRealign fn port s
  | .realignApply port => Sys2Proof.Machine.execRealignApply port s
  | .sfcOfsWrite fn port w => Sys2Proof.Machine.execSfcOfsWrite fn port w s
  | .peFirstFrame port t => Sys2Proof.Machine.execPeFirstFrame port t s
  | .brstRstPulse port => Sys2Proof.Machine.execBrstRstPulse port s
  | .burstWindowEnd port signal found complement t => Sys2Proof.Machine.execBurstWindowEnd port signal found complement t s
  | .burstDecode port stats intervals ploam => Sys2Proof.Machine.execBurstDecode port stats intervals ploam s
  | .reasmTimeout port id => Sys2Proof.Machine.execReasmTimeout port id s
  | .burstScore port bip t => Sys2Proof.Machine.execBurstScore port bip t s
  | .guardLight port => Sys2Proof.Machine.execGuardLight port s
  | .rssiTrig port => Sys2Proof.Machine.execRssiTrig port s
  | .rssiSkip port => Sys2Proof.Machine.execRssiSkip port s
  | .rssiFetch port reading late => Sys2Proof.Machine.execRssiFetch port reading late s
  | .snWindow port => Sys2Proof.Machine.execSnWindow port s
  | .snResponse port sn x msg t => Sys2Proof.Machine.execSnResponse port sn x msg t s
  | .rangingResponse port ctx rtd msg => Sys2Proof.Machine.execRangingResponse port ctx rtd msg s
  | .rngFail port ctx => Sys2Proof.Machine.execRngFail port ctx s
  | .levelQueryTimeout port ctx => Sys2Proof.Machine.execLevelQueryTimeout port ctx s
  | .levelReply port ctx level ext => Sys2Proof.Machine.execLevelReply port ctx level ext s
  | .levelLimit port ctx => Sys2Proof.Machine.execLevelLimit port ctx s
  | .actDone port ctx t => Sys2Proof.Machine.execActDone port ctx t s
  | .authPass fn port ctx => Sys2Proof.Machine.execAuthPass fn port ctx s
  | .authFail fn port ctx => Sys2Proof.Machine.execAuthFail fn port ctx s
  | .authTimeout port ctx t => Sys2Proof.Machine.execAuthTimeout port ctx t s
  | .onuLost port ctx t => Sys2Proof.Machine.execOnuLost port ctx t s
  | .probeGrant port ctx => Sys2Proof.Machine.execProbeGrant port ctx s
  | .lostExpired port ctx t => Sys2Proof.Machine.execLostExpired port ctx t s
  | .deact fn port ctx => Sys2Proof.Machine.execDeact fn port ctx s
  | .rerange fn port ctx => Sys2Proof.Machine.execRerange fn port ctx s
  | .bcastAdj fn port => Sys2Proof.Machine.execBcastAdj fn port s
  | .mapBuild slice => Sys2Proof.Machine.execMapBuild slice s
  | .mapSeal port margin => Sys2Proof.Machine.execMapSeal port margin s
  | .mapStale port => Sys2Proof.Machine.execMapStale port s
  | .hintRx port t => Sys2Proof.Machine.execHintRx port t s
  | .hintCntClr fn slice w => Sys2Proof.Machine.execHintCntClr fn slice w s
  | .robustMove port ctx => Sys2Proof.Machine.execRobustMove port ctx s
  | .fastMove port ctx => Sys2Proof.Machine.execFastMove port ctx s
  | .probationEnd port ctx => Sys2Proof.Machine.execProbationEnd port ctx s
  | .flapBucket port => Sys2Proof.Machine.execFlapBucket port s
  | .pinExpiry port ctx t => Sys2Proof.Machine.execPinExpiry port ctx t s
  | .setRung fn port w => Sys2Proof.Machine.execSetRung fn port w s
  | .unpin fn port w => Sys2Proof.Machine.execUnpin fn port w s
  | .clrFlap fn port w => Sys2Proof.Machine.execClrFlap fn port w s
  | .lzEligSet port => Sys2Proof.Machine.execLzEligSet port s
  | .bucketUpdate => Sys2Proof.Machine.execBucketUpdate s
  | .tmEnqueue t => Sys2Proof.Machine.execTmEnqueue t s
  | .tmDequeue uplink n t => Sys2Proof.Machine.execTmDequeue uplink n t s
  | .tmDropRate => Sys2Proof.Machine.execTmDropRate s
  | .flushDq fn queue => Sys2Proof.Machine.execFlushDq fn queue s
  | .flushUq fn queue => Sys2Proof.Machine.execFlushUq fn queue s
  | .flushDone => Sys2Proof.Machine.execFlushDone s
  | .rateWrite fn tb w t => Sys2Proof.Machine.execRateWrite fn tb w t s
  | .tbSnapshot fn tb t => Sys2Proof.Machine.execTbSnapshot fn tb t s
  | .stepAbs fn tb w t => Sys2Proof.Machine.execStepAbs fn tb w t s
  | .stepRel fn tb w t => Sys2Proof.Machine.execStepRel fn tb w t s
  | .restepAbs fn tb w t => Sys2Proof.Machine.execRestepAbs fn tb w t s
  | .restepRel fn tb w t => Sys2Proof.Machine.execRestepRel fn tb w t s
  | .cancel fn tb w => Sys2Proof.Machine.execCancel fn tb w s
  | .heldCorrectionTimeout tb t => Sys2Proof.Machine.execHeldCorrectionTimeout tb t s
  | .slewDone tb t => Sys2Proof.Machine.execSlewDone tb t s
  | .trigArm fn tb k w t => Sys2Proof.Machine.execTrigArm fn tb k w t s
  | .triggerFire tb k t => Sys2Proof.Machine.execTriggerFire tb k t s
  | .alarmFire tb t => Sys2Proof.Machine.execAlarmFire tb t s
  | .ppsEdge k longHigh t => Sys2Proof.Machine.execPpsEdge k longHigh t s
  | .ppsInLoss k t => Sys2Proof.Machine.execPpsInLoss k t s
  | .fsyncEdge t => Sys2Proof.Machine.execFsyncEdge t s
  | .fsyncLoss t => Sys2Proof.Machine.execFsyncLoss t s
  | .refclkLoss ref => Sys2Proof.Machine.execRefclkLoss ref s
  | .refclkReturn ref => Sys2Proof.Machine.execRefclkReturn ref s
  | .ret fn w => Sys2Proof.Machine.execRet fn w s
  | .ppsOut m t => Sys2Proof.Machine.execPpsOut m t s
  | .clr1step fn w => Sys2Proof.Machine.execClr1step fn w s
  | .configChange fn list w t => Sys2Proof.Machine.execConfigChange fn list w t s
  | .gtCancel fn list w t => Sys2Proof.Machine.execGtCancel fn list w t s
  | .gtListStart list t => Sys2Proof.Machine.execGtListStart list t s
  | .gtCopyDone list => Sys2Proof.Machine.execGtCopyDone list s
  | .gtDisable fn list w t => Sys2Proof.Machine.execGtDisable fn list w t s
  | .gtEntryChange list t => Sys2Proof.Machine.execGtEntryChange list t s
  | .gtOversize list queue t => Sys2Proof.Machine.execGtOversize list queue t s
  | .histClose t => Sys2Proof.Machine.execHistClose t s
  | .latClr fn w => Sys2Proof.Machine.execLatClr fn w s
  | .lookupPass cti t => Sys2Proof.Machine.execLookupPass cti t s
  | .learn t => Sys2Proof.Machine.execLearn t s
  | .macMoveStorm t => Sys2Proof.Machine.execMacMoveStorm t s
  | .freezeExpiry src t => Sys2Proof.Machine.execFreezeExpiry src t s
  | .hashPressure tbl t => Sys2Proof.Machine.execHashPressure tbl t s
  | .reseedStart fn w t => Sys2Proof.Machine.execReseedStart fn w t s
  | .reseedAuto tbl t => Sys2Proof.Machine.execReseedAuto tbl t s
  | .reseedDone t => Sys2Proof.Machine.execReseedDone t s
  | .rebuild fn w => Sys2Proof.Machine.execRebuild fn w s
  | .rebuildDone => Sys2Proof.Machine.execRebuildDone s
  | .alloc pool k charge issuer t => Sys2Proof.Machine.execAlloc pool k charge issuer t s
  | .share h n f issuer => Sys2Proof.Machine.execShare h n f issuer s
  | .release h issuer => Sys2Proof.Machine.execRelease h issuer s
  | .free h issuer => Sys2Proof.Machine.execFree h issuer s
  | .cacheRefill pool => Sys2Proof.Machine.execCacheRefill pool s
  | .bpRebuild fn pool => Sys2Proof.Machine.execBpRebuild fn pool s
  | .bpRebuildDone => Sys2Proof.Machine.execBpRebuildDone s
  | .clrMin fn pool => Sys2Proof.Machine.execClrMin fn pool s
  | .poolEnable fn pool w => Sys2Proof.Machine.execPoolEnable fn pool w s
  | .poolInitDone pool => Sys2Proof.Machine.execPoolInitDone pool s
  | .dramRequest port sec addr len data packet t => Sys2Proof.Machine.execDramRequest port sec addr len data packet t s
  | .dramComplete pc unready found t => Sys2Proof.Machine.execDramComplete pc unready found t s
  | .urgencyRaise port k t => Sys2Proof.Machine.execUrgencyRaise port k t s
  | .refreshInterval tick => Sys2Proof.Machine.execRefreshInterval tick s
  | .tempSense stack temp t => Sys2Proof.Machine.execTempSense stack temp t s
  | .go fn w t => Sys2Proof.Machine.execGo fn w t s
  | .freqAbandon t => Sys2Proof.Machine.execFreqAbandon t s
  | .dmFreqDone fail pc dur => Sys2Proof.Machine.execDmFreqDone fail pc dur s
  | .init1 fn w t => Sys2Proof.Machine.execInit1 fn w t s
  | .trainStart fn w => Sys2Proof.Machine.execTrainStart fn w s
  | .trainStepDone => Sys2Proof.Machine.execTrainStepDone s
  | .dmTrainFail pc => Sys2Proof.Machine.execDmTrainFail pc s
  | .trainTrack => Sys2Proof.Machine.execTrainTrack s
  | .dramScrub n found => Sys2Proof.Machine.execDramScrub n found s
  | .parRetry port k tries failed => Sys2Proof.Machine.execParRetry port k tries failed s
  | .ringDoorbell fn ring w slots => Sys2Proof.Machine.execRingDoorbell fn ring w slots s
  | .ringCidxWrite fn ring w => Sys2Proof.Machine.execRingCidxWrite fn ring w s
  | .inject t => Sys2Proof.Machine.execInject t s
  | .flr fn => Sys2Proof.Machine.execFlr fn s
  | .hxLinkDown => Sys2Proof.Machine.execHxLinkDown s
  | .hxLinkUp cxl width speed => Sys2Proof.Machine.execHxLinkUp cxl width speed s
  | .ringDmaError ring => Sys2Proof.Machine.execRingDmaError ring s
  | .hxLevelSet fn w => Sys2Proof.Machine.execHxLevelSet fn w s
  | .mxEnable fn w => Sys2Proof.Machine.execMxEnable fn w s
  | .mxLinkUp found gib switch width => Sys2Proof.Machine.execMxLinkUp found gib switch width s
  | .mxLinkDown => Sys2Proof.Machine.execMxLinkDown s
  | .mxRetrain => Sys2Proof.Machine.execMxRetrain s
  | .apertureAccess fn off write n found poison => Sys2Proof.Machine.execApertureAccess fn off write n found poison s
  | .mxIdeFail => Sys2Proof.Machine.execMxIdeFail s
  | .resume fn w rekeyed => Sys2Proof.Machine.execResume fn w rekeyed s
  | .doeGo fn w => Sys2Proof.Machine.execDoeGo fn w s
  | .doeReply reply => Sys2Proof.Machine.execDoeReply reply s
  | .ulRxPacket group bytes fecCorr fecBad t => Sys2Proof.Machine.execUlRxPacket group bytes fecCorr fecBad t s
  | .ulLinkDown group => Sys2Proof.Machine.execUlLinkDown group s
  | .ulLinkUp group => Sys2Proof.Machine.execUlLinkUp group s
  | .elimReset stream t => Sys2Proof.Machine.execElimReset stream t s
  | .ulElimOverrun stream t => Sys2Proof.Machine.execUlElimOverrun stream t s
  | .ceDsPacket t => Sys2Proof.Machine.execCeDsPacket t s
  | .ceUsTick circuit t => Sys2Proof.Machine.execCeUsTick circuit t s
  | .ceLof circuit => Sys2Proof.Machine.execCeLof circuit s
  | .ligFrameRx lane f t => Sys2Proof.Machine.execLigFrameRx lane f t s
  | .ligAlign lane words => Sys2Proof.Machine.execLigAlign lane words s
  | .ligAlignLoss words => Sys2Proof.Machine.execLigAlignLoss words s
  | .hbTick t => Sys2Proof.Machine.execHbTick t s
  | .hbWordTx => Sys2Proof.Machine.execHbWordTx s
  | .hbWordRx bits t => Sys2Proof.Machine.execHbWordRx bits t s
  | .hbALoss t => Sys2Proof.Machine.execHbALoss t s
  | .hbBLoss t => Sys2Proof.Machine.execHbBLoss t s
  | .peerFail wlos t => Sys2Proof.Machine.execPeerFail wlos t s
  | .witnessEval wlos t => Sys2Proof.Machine.execWitnessEval wlos t s
  | .holdExpiry t => Sys2Proof.Machine.execHoldExpiry t s
  | .listenPeriod t => Sys2Proof.Machine.execListenPeriod t s
  | .provisionalPromote => Sys2Proof.Machine.execProvisionalPromote s
  | .ckptImage => Sys2Proof.Machine.execCkptImage s
  | .ckptCommit => Sys2Proof.Machine.execCkptCommit s
  | .ckptDelta excess => Sys2Proof.Machine.execCkptDelta excess s
  | .ckptRestore shared t => Sys2Proof.Machine.execCkptRestore shared t s
  | .shadowDelta d => Sys2Proof.Machine.execShadowDelta d s
  | .ms fn => Sys2Proof.Machine.execMs fn s
  | .fs fn => Sys2Proof.Machine.execFs fn s
  | .lo fn => Sys2Proof.Machine.execLo fn s
  | .clear fn => Sys2Proof.Machine.execClear fn s
  | .measure fn => Sys2Proof.Machine.execMeasure fn s
  | .measureDone => Sys2Proof.Machine.execMeasureDone s
  | .pxRest fn t => Sys2Proof.Machine.execPxRest fn t s
  | .switchK t => Sys2Proof.Machine.execSwitchK t s
  | .wtrExpiry t => Sys2Proof.Machine.execWtrExpiry t s
  | .traceStart fn port => Sys2Proof.Machine.execTraceStart fn port s
  | .traceAbort fn port => Sys2Proof.Machine.execTraceAbort fn port s
  | .baseline fn port => Sys2Proof.Machine.execBaseline fn port s
  | .plantSilence port power => Sys2Proof.Machine.execPlantSilence port power s
  | .traceDone port bins noise found t => Sys2Proof.Machine.execTraceDone port bins noise found t s
  | .moduleInsert port ident => Sys2Proof.Machine.execModuleInsert port ident s
  | .modulePoll port data => Sys2Proof.Machine.execModulePoll port data s
  | .modbusStuck bus => Sys2Proof.Machine.execModbusStuck bus s
  | .modbusRecovery bus released => Sys2Proof.Machine.execModbusRecovery bus released s
  | .alsHold port t => Sys2Proof.Machine.execAlsHold port t s
  | .alsPulse port t => Sys2Proof.Machine.execAlsPulse port t s
  | .alsPulseEnd port t => Sys2Proof.Machine.execAlsPulseEnd port t s
  | .alsAccount port t => Sys2Proof.Machine.execAlsAccount port t s
  | .restart fn port t => Sys2Proof.Machine.execRestart fn port t s
  | .releaseOverblow fn port t => Sys2Proof.Machine.execReleaseOverblow fn port t s
  | .forceOn fn port t => Sys2Proof.Machine.execForceOn fn port t s
  | .forceOff fn port t => Sys2Proof.Machine.execForceOff fn port t s
  | .hush fn port => Sys2Proof.Machine.execHush fn port s
  | .unhush fn port => Sys2Proof.Machine.execUnhush fn port s
  | .sectGated fn sect => Sys2Proof.Machine.execSectGated fn sect s
  | .sectUngated fn sect => Sys2Proof.Machine.execSectUngated fn sect s
  | .smsWake t => Sys2Proof.Machine.execSmsWake t s
  | .smsRead off n => Sys2Proof.Machine.execSmsRead off n s
  | .rest fn w entry => Sys2Proof.Machine.execRest fn w entry s
  | .wakeN t => Sys2Proof.Machine.execWakeN t s
  | .wakeAlarm t => Sys2Proof.Machine.execWakeAlarm t s
  | .pwrGoodRise rail refs ue ce stall => Sys2Proof.Machine.execPwrGoodRise rail refs ue ce stall s
  | .wakeStepTimeout step t => Sys2Proof.Machine.execWakeStepTimeout step t s
  | .wakeRetry t => Sys2Proof.Machine.execWakeRetry t s
  | .pwWakeDone verified hx mx t => Sys2Proof.Machine.execPwWakeDone verified hx mx t s
  | .retFailClear fn w => Sys2Proof.Machine.execRetFailClear fn w s
  | .pwRefSwitch fn w => Sys2Proof.Machine.execPwRefSwitch fn w s
  | .load fn w => Sys2Proof.Machine.execLoad fn w s
  | .clearPairKey fn w => Sys2Proof.Machine.execClearPairKey fn w s
  | .scRng fn => Sys2Proof.Machine.execScRng fn s
  | .provision fn w => Sys2Proof.Machine.execProvision fn w s
  | .lock fn w => Sys2Proof.Machine.execLock fn w s
  | .returnLc fn w => Sys2Proof.Machine.execReturnLc fn w s
  | .setPw fn w => Sys2Proof.Machine.execSetPw fn w s
  | .unlockPw fn w t => Sys2Proof.Machine.execUnlockPw fn w t s
  | .challenge fn w t => Sys2Proof.Machine.execChallenge fn w t s
  | .unlockCr fn w t => Sys2Proof.Machine.execUnlockCr fn w t s
  | .nonceExpiry t => Sys2Proof.Machine.execNonceExpiry t s
  | .close fn w => Sys2Proof.Machine.execClose fn w s
  | .porst role t => Sys2Proof.Machine.execPorst role t s
  | .sysrst refs ue ce stall t => Sys2Proof.Machine.execSysrst refs ue ce stall t s
  | .drst fn w refs ue ce stall t => Sys2Proof.Machine.execDrst fn w refs ue ce stall t s
  | .srst fn sect => Sys2Proof.Machine.execSrst fn sect s
  | .pinShort pin high => Sys2Proof.Machine.execPinShort pin high s
  | .pinRetry pin good => Sys2Proof.Machine.execPinRetry pin good s
  | .pwrGoodFall rail t => Sys2Proof.Machine.execPwrGoodFall rail t s
  | .thermtrip => Sys2Proof.Machine.execThermtrip s
  | .moduleRemoval port => Sys2Proof.Machine.execModuleRemoval port s
  | .switchRest t => Sys2Proof.Machine.execSwitchRest t s
  | .engineReady page => Sys2Proof.Machine.execEngineReady page s
  | .sectionResetDone sect => Sys2Proof.Machine.execSectionResetDone sect s
  | .msixMask fn vec masked => Sys2Proof.Machine.execMsixMask fn vec masked s
  | .d3hot fn d3 => Sys2Proof.Machine.execD3hot fn d3 s
  | .rngHealth ok => Sys2Proof.Machine.execRngHealth ok s

end Sys2Proof.Machine
end

