-- ==== Sys2Proof/Safety.lean ====
section
/-! DEFINITION. What a safe run is, in the terms the statements use: the canonical form of everything that is held sparsely,
what every command leaves in place, and an answer that stops nothing. -/

namespace Sys2Proof.Machine

/-- The canonical form: the register words, the table entries and the three memories list rising keys, and nothing that equals
what an unlisted key reads as. -/
abbrev State.Canon (s : State) : Prop :=
  swf resetWord s.regs = true ∧ swf entReset s.tabs = true ∧
    Memory.wf s.hostMem = true ∧ Memory.wf s.cxl = true ∧ Memory.wf s.dm.mem = true

/-- What holds between a state and any state a command leads to: the canonical form is kept, the queue is untouched, time does
not run back, free values are not drawn twice, and nothing the block has sent is taken back. -/
def Keeps (s t : State) : Prop :=
  (s.Canon → t.Canon) ∧ t.pending = s.pending ∧ s.now ≤ t.now ∧ s.free ≤ t.free ∧ ∃ l, t.out = l ++ s.out

/-- An access of function `fn` at BAR0 address `a` reaches page `i` of kind `k`: the address is mapped and aligned, the page is
not out of reach, and its world admits the function (R46, R47, R456, R472). -/
abbrev Reaches (s : State) (fn a : Nat) (k : PKind) (i : Nat) : Prop :=
  pageOf a = some (k, i) ∧ a % 4 = 0 ∧ s.unreachable k i (a % 4096) = false ∧ s.violates k fn a = false

/-- A frame: from `s` to `t` no register word changes but those at the addresses `as`, and no table entry, no byte of memory
and nothing in the queue changes. -/
def OnlyRegs (as : List Nat) (s t : State) : Prop :=
  (∀ a, a ∉ as → t.reg a = s.reg a) ∧ t.tabs = s.tabs ∧ t.hostMem = s.hostMem ∧ t.cxl = s.cxl ∧ t.dm.mem = s.dm.mem ∧
    t.pending = s.pending

/-- A wider frame: from `s` to `t` only register words of the pages `pgs` change, and nothing of what `OnlyRegs` holds fixed. -/
def OnlyPages (pgs : List Nat) (s t : State) : Prop :=
  (∀ a, a / 4096 * 4096 ∉ pgs → t.reg a = s.reg a) ∧ t.tabs = s.tabs ∧ t.hostMem = s.hostMem ∧ t.cxl = s.cxl ∧
    t.dm.mem = s.dm.mem ∧ t.pending = s.pending

/-- The words EVT_RAW and EVT_PEND of a page, and the words a configuration change of it touches: PAGE_STATUS and PAGE_GEN. -/
def evtWords (pg : Nat) : List Nat := [pg + 0x010, pg + 0x014]
def cfgWords (pg : Nat) : List Nat := [pg + 0x00C, pg + 0x028]

/-- The words of a table window that a command changes: PAGE_STATUS, PAGE_GEN, TBL_CMD, TBL_STAT and TBL_DATA. -/
def winWords (pg : Nat) : List Nat :=
  [pg + 0x00C, pg + 0x028, pg + 0x044, pg + 0x048] ++ (List.range 16).map (fun i => pg + 0x080 + 4 * i)

/-- The status and the index that a table command has left in TBL_STAT of page `pg`. -/
abbrev State.tblEnds (s : State) (pg code idx : Nat) : Prop := s.get pg F.TBL_STAT_CODE = code ∧ s.get pg F.TBL_STAT_INDEX = idx

/-- Bit `b` of a page's EVT_PEND. -/
def State.pends (s : State) (pg b : Nat) : Bool := (s.reg (pg + 0x014)).toNat.testBit b

/-- The state at instant `u` with the offers `r` left waiting at the traffic manager. -/
abbrev State.offered (s : State) (u : Nat) (r : List Offer) : State := { s.at u with tm := { (s.at u).tm with offers := r } }

/-- The root table of the traffic manager's tree `n` and the root's index in it (R209): port `n`, or lane group `n` - 48. -/
def rootTab (n : Nat) : Nat := if n < 48 then 3 else 7
def rootIdx (n : Nat) : Nat := if n < 48 then n else n - 48

/-- The heads of the queues of tree `n` meet their gates (R262 to R264). -/
def State.gated (s : State) (n : Nat) : State :=
  (s.treeQueues n).foldl (fun s q => gateHead n (rootTab n - 3) q s) s

/-- The messages that frame `f` takes over from a shortened frame: all but REALIGN_NOTICE (R101, R104). -/
def PMsg.isRealign : PMsg → Bool
  | .realign _ _ => true
  | _ => false

def State.keptSel (s : State) (n : Nat) : List PMsg := (s.pe n).sel.filter (fun m => !m.isRealign)

/-- A context has gone to FREE (R148): its record and its keys are gone, and Deactivate_ONU-ID for the ONU-ID it held waits. -/
abbrev Freed (s t : State) (n c : Nat) : Prop :=
  t.crec n c = 0 ∧ t.keyEnt n c = 0 ∧ t.hasKey n c 0 = false ∧ t.hasKey n c 1 = false ∧
    { msg := .deactivate (s.onuId n c), copies := 1 } ∈ (t.pe n).seq

/-- A command is safe in a state when it stops with neither a fault nor a refusal. -/
def Safe (c : Instr) (s : State) : Prop := ∃ t, exec c s = .next t

end Sys2Proof.Machine
end

