-- ==== Sys2Proof/WellFormed.lean ====
section
/-! DEFINITION. Well-formed commands: the operands that the rules allow a command to carry beyond what their types say. The
meanings are total on ill-formed commands too. -/

namespace Sys2Proof

open Sys2Proof.Machine

/-- Errors are among the bits compared (R83). -/
def wfPrbs (bits berr serr : Nat) : Bool := decide (berr ≤ bits) && decide (serr ≤ bits)

/-- The lane has a transmitter of its own: PTX, ULN or LGL (R66). -/
def wfTx (i : Nat) : Bool := lnFamily i == 0 || lnFamily i == 2 || lnFamily i == 3

/-- The lane is a duplex lane with a blind receiver: ULN or LGL (R66). -/
def wfDuplex (i : Nat) : Bool := lnFamily i == 2 || lnFamily i == 3

/-- There are 48 port trees and 16 lane-group trees (R209). -/
def wfTree (uplink : Bool) (n : Fin 48) : Bool := !uplink || decide (n.val < 16)

/-- A buffer handle has 24 bits (R310). -/
def wfHandle (h : Nat) : Bool := decide (h < 2 ^ 24)

/-- A PLOAM message has 48 bytes (R101). -/
def wfPloam (m : List Byte) : Bool := m.length == 48

/-- Corrected and uncorrectable codewords are among the codewords, corrected symbols among the symbols (R135). -/
def wfStats (d : DecodeStats) : Bool := decide (d.corrCw + d.uncorr ≤ d.cw) && decide (d.corr ≤ d.sym)

/-- An XGEM frame carries a payload of at most 16,383 bytes (R137). -/
def wfItem : UsItem → Bool
  | .frame _ _ _ d _ => decide (d.length < 2 ^ 14)
  | _ => true

/-- An aperture access of at least one byte inside the 256 MiB of BAR4 (R370). -/
def wfAperture (off : Nat) (write : Option (List Byte)) (n : Nat) : Bool :=
  match write with
  | some d => decide (1 ≤ d.length) && decide (off + d.length ≤ 2 ^ 28)
  | none => decide (1 ≤ n) && decide (off + n ≤ 2 ^ 28)

/-- A DRAM request: 32 to 256 bytes, aligned to 32 bytes, within one granule, data of the length given (R326, R327). -/
def wfDram (a n : Nat) (data : Option (List Byte)) : Bool :=
  a % 32 == 0 && n % 32 == 0 && decide (32 ≤ n) && decide (a % 256 + n ≤ 256) &&
    (match data with | some d => d.length == n | none => true)

/-- An access that R47 calls an error. -/
def wfAccessError (a size : Nat) : Bool := (pageOf a).isNone || (size != 4 && size != 8) || a % size != 0

/-- BAR0 holds the page (R46). -/
def wfPage (p : Nat) : Bool := (pageNo p).isSome

/-- The page is the first page of an engine (R50). -/
def wfEngine (p : Nat) : Bool := match pageNo p with | none => false | some (k, _) => isCtrl k

/-- The page has snapshot counters (R121). -/
def wfCounters (p : Nat) : Bool := match pageNo p with | none => false | some (k, _) => !(ctrsOf k).1.isEmpty

/-- The page has a table window (R55). -/
def wfWindow (p : Nat) : Bool := match pageNo p with | none => false | some (k, _) => hasTbl k

/-- The command is well-formed. -/
def Instr.wf : Instr → Bool
  | .registerWrite _ addr _ _ => decide (addr.toNat % 4 = 0)
  | .accessError _ addr size _ => wfAccessError addr.toNat size
  | .pageLock _ page => wfPage page.toNat
  | .worldChange _ page _ => wfPage page.toNat
  | .engineEnable _ page _ => wfEngine page.toNat
  | .engineDisable _ page _ => wfEngine page.toNat
  | .quiesce _ page _ => wfEngine page.toNat
  | .quiesced page => wfEngine page.toNat
  | .erst _ page _ => wfEngine page.toNat
  | .evtPendClear _ page _ => wfPage page.toNat
  | .evtForce _ page _ => wfPage page.toNat
  | .msixGapExpiry .. => true
  | .tblRead _ page _ => wfWindow page.toNat
  | .tblWrite _ page _ => wfWindow page.toNat
  | .tblInsert _ page _ => wfWindow page.toNat
  | .tblDelete _ page _ => wfWindow page.toNat
  | .tblCdel _ page _ => wfWindow page.toNat
  | .tblCas _ page _ => wfWindow page.toNat
  | .tblFind _ page _ => wfWindow page.toNat
  | .badOp _ page _ => wfWindow page.toNat
  | .tblOvr _ page => wfWindow page.toNat
  | .cntSnap _ page _ => wfCounters page.toNat
  | .cntClr _ page _ => wfCounters page.toNat
  | .pitchMeasure .. => true
  | .pitchSlow .. => true
  | .clrWorst .. => true
  | .avsEnable .. => true
  | .avsLoop => true
  | .avsTransactionEnd .. => true
  | .didtEpisode .. => true
  | .didtLimit .. => true
  | .sramPatrol .. => true
  | .eccCeRate => true
  | .clrCnt .. => true
  | .laneEnable .. => true
  | .pllLock .. => true
  | .pllLockTimeout .. => true
  | .terminationDetect lane _ => wfTx lane.val
  | .terminationRetry lane => wfTx lane.val
  | .sigdet .. => true
  | .adaptSettled .. => true
  | .adaptTimeout .. => true
  | .pcsLock .. => true
  | .pcsLockTimeout lane => wfDuplex lane.val
  | .lockLoss .. => true
  | .adaptRestart .. => true
  | .clrAdapt .. => true
  | .idleRequest .. => true
  | .idleEntry lane => wfTx lane.val
  | .idleExit .. => true
  | .breathRx lane => wfDuplex lane.val
  | .fastPathFail lane => wfDuplex lane.val
  | .signalLoss .. => true
  | .idleStale lane => wfDuplex lane.val
  | .prbsModeTest .. => true
  | .testEntry .. => true
  | .prbsModeService .. => true
  | .prbsModeOff .. => true
  | .prbsSync .. => true
  | .prbsSyncLoss _ bits berr serr => wfPrbs bits berr serr
  | .prbsSat _ bits berr serr => wfPrbs bits berr serr
  | .prbsSnapshot _ _ bits berr serr => wfPrbs bits berr serr
  | .prbsClr .. => true
  | .prbsInj .. => true
  | .prxPolarityFix .. => true
  | .frameBoundary .. => true
  | .ploamSelect .. => true
  | .headerAssemble .. => true
  | .codewordFill .. => true
  | .keyLoad .. => true
  | .keySched .. => true
  | .keyDelete .. => true
  | .lzStartWrite .. => true
  | .lzOpened .. => true
  | .lzClosed .. => true
  | .realign .. => true
  | .realignApply .. => true
  | .sfcOfsWrite .. => true
  | .peFirstFrame .. => true
  | .brstRstPulse .. => true
  | .burstWindowEnd .. => true
  | .burstDecode _ stats intervals ploam => wfStats stats && intervals.all (fun v => v.items.all wfItem) && (match ploam with | none => true | some m => wfPloam m.msg)
  | .reasmTimeout .. => true
  | .burstScore .. => true
  | .guardLight .. => true
  | .rssiTrig .. => true
  | .rssiSkip .. => true
  | .rssiFetch .. => true
  | .snWindow .. => true
  | .snResponse _ _ _ msg _ => wfPloam msg
  | .rangingResponse _ _ _ msg => wfPloam msg
  | .rngFail .. => true
  | .levelQueryTimeout .. => true
  | .levelReply .. => true
  | .levelLimit .. => true
  | .actDone .. => true
  | .authPass .. => true
  | .authFail .. => true
  | .authTimeout .. => true
  | .onuLost .. => true
  | .probeGrant .. => true
  | .lostExpired .. => true
  | .deact .. => true
  | .rerange .. => true
  | .bcastAdj .. => true
  | .mapBuild .. => true
  | .mapSeal _ margin => decide (margin < 2 ^ 16)
  | .mapStale .. => true
  | .hintRx .. => true
  | .hintCntClr .. => true
  | .robustMove .. => true
  | .fastMove .. => true
  | .probationEnd .. => true
  | .flapBucket .. => true
  | .pinExpiry .. => true
  | .setRung .. => true
  | .unpin .. => true
  | .clrFlap .. => true
  | .lzEligSet .. => true
  | .bucketUpdate => true
  | .tmEnqueue .. => true
  | .tmDequeue uplink n _ => wfTree uplink n
  | .tmDropRate => true
  | .flushDq .. => true
  | .flushUq .. => true
  | .flushDone => true
  | .rateWrite .. => true
  | .tbSnapshot .. => true
  | .stepAbs .. => true
  | .stepRel .. => true
  | .restepAbs .. => true
  | .restepRel .. => true
  | .cancel .. => true
  | .heldCorrectionTimeout .. => true
  | .slewDone .. => true
  | .trigArm .. => true
  | .triggerFire .. => true
  | .alarmFire .. => true
  | .ppsEdge .. => true
  | .ppsInLoss .. => true
  | .fsyncEdge .. => true
  | .fsyncLoss .. => true
  | .refclkLoss .. => true
  | .refclkReturn .. => true
  | .ret .. => true
  | .ppsOut .. => true
  | .clr1step .. => true
  | .configChange .. => true
  | .gtCancel .. => true
  | .gtListStart .. => true
  | .gtCopyDone .. => true
  | .gtDisable .. => true
  | .gtEntryChange .. => true
  | .gtOversize .. => true
  | .histClose .. => true
  | .latClr .. => true
  | .lookupPass .. => true
  | .learn .. => true
  | .macMoveStorm .. => true
  | .freezeExpiry .. => true
  | .hashPressure .. => true
  | .reseedStart .. => true
  | .reseedAuto .. => true
  | .reseedDone .. => true
  | .rebuild .. => true
  | .rebuildDone => true
  | .alloc _ k charge issuer _ => decide (1 ≤ k ∧ k ≤ 127 ∧ charge.val ≤ 67 ∧ issuer.val ≤ 67)
  | .share h n f _ => wfHandle h && decide (1 ≤ n) && (decide (f.val ≤ 67) || f.val == 127)
  | .release h _ => wfHandle h
  | .free h _ => wfHandle h
  | .cacheRefill .. => true
  | .bpRebuild .. => true
  | .bpRebuildDone => true
  | .clrMin .. => true
  | .poolEnable .. => true
  | .poolInitDone .. => true
  | .dramRequest _ _ addr len data _ _ => wfDram addr.toNat len data
  | .dramComplete .. => true
  | .urgencyRaise .. => true
  | .refreshInterval .. => true
  | .tempSense .. => true
  | .go .. => true
  | .freqAbandon .. => true
  | .dmFreqDone .. => true
  | .init1 .. => true
  | .trainStart .. => true
  | .trainStepDone => true
  | .dmTrainFail .. => true
  | .trainTrack => true
  | .dramScrub n _ => decide (n ≤ 2 ^ 26)
  | .parRetry .. => true
  | .ringDoorbell _ _ _ slots => slots.all (fun d => decide (d.length ≤ 16384))
  | .ringCidxWrite .. => true
  | .inject .. => true
  | .flr .. => true
  | .hxLinkDown => true
  | .hxLinkUp .. => true
  | .ringDmaError .. => true
  | .hxLevelSet .. => true
  | .mxEnable .. => true
  | .mxLinkUp .. => true
  | .mxLinkDown => true
  | .mxRetrain => true
  | .apertureAccess _ off write n _ _ => wfAperture off.toNat write n
  | .mxIdeFail => true
  | .resume .. => true
  | .doeGo .. => true
  | .doeReply reply => (match reply with | none => true | some l => decide (l.length < 2048))
  | .ulRxPacket _ bytes _ _ _ => decide (4 ≤ bytes.length)
  | .ulLinkDown .. => true
  | .ulLinkUp .. => true
  | .elimReset .. => true
  | .ulElimOverrun .. => true
  | .ceDsPacket .. => true
  | .ceUsTick .. => true
  | .ceLof .. => true
  | .ligFrameRx .. => true
  | .ligAlign .. => true
  | .ligAlignLoss .. => true
  | .hbTick .. => true
  | .hbWordTx => true
  | .hbWordRx .. => true
  | .hbALoss .. => true
  | .hbBLoss .. => true
  | .peerFail .. => true
  | .witnessEval .. => true
  | .holdExpiry .. => true
  | .listenPeriod .. => true
  | .provisionalPromote => true
  | .ckptImage => true
  | .ckptCommit => true
  | .ckptDelta .. => true
  | .ckptRestore .. => true
  | .shadowDelta .. => true
  | .ms .. => true
  | .fs .. => true
  | .lo .. => true
  | .clear .. => true
  | .measure .. => true
  | .measureDone => true
  | .pxRest .. => true
  | .switchK .. => true
  | .wtrExpiry .. => true
  | .traceStart .. => true
  | .traceAbort .. => true
  | .baseline .. => true
  | .plantSilence .. => true
  | .traceDone _ bins _ _ _ => decide (bins.length ≤ 65536)
  | .moduleInsert .. => true
  | .modulePoll .. => true
  | .modbusStuck .. => true
  | .modbusRecovery .. => true
  | .alsHold .. => true
  | .alsPulse .. => true
  | .alsPulseEnd .. => true
  | .alsAccount .. => true
  | .restart .. => true
  | .releaseOverblow .. => true
  | .forceOn .. => true
  | .forceOff .. => true
  | .hush .. => true
  | .unhush .. => true
  | .sectGated .. => true
  | .sectUngated .. => true
  | .smsWake .. => true
  | .smsRead off n => decide (off.toNat + n ≤ 256)
  | .rest .. => true
  | .wakeN .. => true
  | .wakeAlarm .. => true
  | .pwrGoodRise .. => true
  | .wakeStepTimeout .. => true
  | .wakeRetry .. => true
  | .pwWakeDone .. => true
  | .retFailClear .. => true
  | .pwRefSwitch .. => true
  | .load .. => true
  | .clearPairKey .. => true
  | .scRng .. => true
  | .provision .. => true
  | .lock .. => true
  | .returnLc .. => true
  | .setPw .. => true
  | .unlockPw .. => true
  | .challenge .. => true
  | .unlockCr .. => true
  | .nonceExpiry .. => true
  | .close .. => true
  | .porst .. => true
  | .sysrst .. => true
  | .drst .. => true
  | .srst .. => true
  | .pinShort .. => true
  | .pinRetry .. => true
  | .pwrGoodFall .. => true
  | .thermtrip => true
  | .moduleRemoval .. => true
  | .switchRest .. => true
  | .engineReady page => wfEngine page.toNat
  | .sectionResetDone .. => true
  | .msixMask .. => true
  | .d3hot .. => true
  | .rngHealth .. => true

end Sys2Proof
end

