-- ==== Sys2Proof/Certificates/Slice0/Obligations.lean ====
section
/-! DEFINITION. What is stated of the block, for the provers: first the queue, the canonical form and the machine as a whole, then the
commands family by family in the order of the chapters. A clause without hypotheses on the operands holds for every one of them. -/

open Sys2Proof Sys2Proof.Machine

/-- The front of the queue: a step carries out the command at the front on the state with the rest of the queue; with no command waiting
the block idles, but for the cursor of a reseed's migration that runs, which visits one index (the model's choice, log entry 3). -/
def Obligations.StepRunsFrontCommand : Prop :=
  (∀ (s : State) (c : Instr) (rest : List Instr), s.pending = c :: rest → step s = exec c { s with pending := rest }) ∧
  (∀ (s : State), s.pending = [] → s.bit pLK F.LK_RSD_JRNL_ACTIVE = false → step s = .next s) ∧
  (∀ (s : State), s.pending = [] → s.bit pLK F.LK_RSD_JRNL_ACTIVE = true → s.en pLK = true → s.bit pLK F.ST_READY = true →
    s.get pLK F.LK_RSD_JRNL_CURSOR < lkSize (s.get pLK F.LK_RSD_JRNL_TID) →
    ∃ t, step s = .next t ∧ t.pending = [] ∧
      t.get pLK F.LK_RSD_JRNL_CURSOR = s.get pLK F.LK_RSD_JRNL_CURSOR + 1)

/-- Every step from a state in canonical form leads to one in canonical form: the register words, the table entries, the DRAM, the main
memory and the host memory list rising keys and nothing that equals what an unlisted key reads as. That form is the model's. -/
def Obligations.StepKeepsCanon : Prop :=
  ∀ s t : State, s.Canon → step s = .next t → t.Canon

/-- The state after reset is in canonical form and has nothing waiting. -/
def Obligations.ResetHasCanon : Prop :=
  State.reset.Canon ∧ State.reset.pending = []

/-- Every step takes one command from the queue and adds none; the island's time does not run back, no free value is drawn twice, and
nothing the block has sent is taken back (log entries 2, 5 and 12). -/
def Obligations.NothingTakenBack : Prop :=
  ∀ s t : State, step s = .next t →
    t.pending = s.pending.tail ∧ s.now ≤ t.now ∧ s.free ≤ t.free ∧ ∃ l, t.out = l ++ s.out

/-- R326, R327, R329: a well-formed command completes in every state, no command is refused, and a fault says that a DRAM request is not
one the manual describes. -/
def Obligations.OnlyMalformedRequestsStop : Prop :=
  (∀ (s : State) (c : Instr), c.wf = true → ∃ t, exec c s = .next t) ∧
  (∀ (s : State) (c : Instr) (r : Refusal), exec c s ≠ .refused r) ∧
  (∀ (s : State) (c : Instr) (f : Fault), exec c s = .fault f →
    ∃ p sec a n d h u, c = .dramRequest p sec a n d h u ∧ (n = 0 ∨ n % 32 ≠ 0 ∨ a.toNat % 32 ≠ 0 ∨ 256 < a.toNat % 256 + n))

/-- The bytes of a write: each of them is read back where it was written, and every other byte is as it was. -/
def Obligations.MemoryWrites : Prop :=
  ∀ (m : SMap Byte) (a k : Nat) (d : List Byte),
    sget 0 (memWrite m a d) k = if a ≤ k ∧ k < a + d.length then d.getD (k - a) 0 else sget 0 m k

/-- R14, R29, R45, R79, R92, R328, R335, R351, R414, R415, R431, R445, R482, R495: what a cold reset leaves where the manual gives the
value: one register of every chapter that gives a value other than 0, the lifecycle, protection off, and nothing written, counted, sent or waiting. -/
def Obligations.ResetValues : Prop :=
  State.reset.get pgDV F.DV_PITCH_CFG_TARGET = 360 ∧ State.reset.get pgDV F.DV_ECC_CFG_CE_RATE = 1000 ∧
    State.reset.get pgDV F.DV_ECC_CFG_SCRUB_H = 24 ∧ State.reset.get pgPM F.PM_DIDT_CFG_MAX = 20 ∧
    State.reset.get pDM F.DM_MODE_MODE = 1 ∧ State.reset.get pgPX F.PX_TMO_HB_MISS = 30 ∧ State.reset.get pgPX F.PX_TMO_WIT_WIN = 10 ∧
    State.reset.get pgPX F.PX_CFG_SW_LEAD = 64 ∧ State.reset.bit pgPX F.PX_CFG_EN = false ∧ State.reset.get pgPX F.PX_STATE_STATE = 0 ∧
    State.reset.get pgSC F.SC_LC_STATE = 0 ∧ State.reset.bit pgSC F.SC_DBG_STAT_OPEN = true ∧
    State.reset.get pDM (F.DM_DP_CFG_TARGET.ix 5) = 2000 ∧
    (∀ n : Fin 48, State.reset.get (pgLN (48 + n.val)) F.LN_PRX_CFG_LOS_FR = 8 ∧ State.reset.get (pe0 n.val) F.PE_DS_CFG_PLOAM_MAX = 4 ∧
      State.reset.pmget n.val F.PM_ALS_CFG_ALS_HOLD = 50 ∧ State.reset.alsState n.val = 0 ∧ State.reset.en (pe0 n.val) = false) ∧
    State.reset.tabs = [] ∧ State.reset.keys = [] ∧ State.reset.live = [] ∧ State.reset.out = [] ∧ State.reset.pending = []

/-- R26, R25, R30, R449, R450: a pitch measurement shows in DV_PITCHn of its section and nowhere else, PITCH_SLOW is raised once in
an excursion with its section, what the AVS controller requests, and what an episode of the di/dt governor records and raises. -/
def Obligations.PitchAndVoltage : Prop :=
  (∀ (s : State) (n : Fin 11) (ps : BitVec 12) (st : Bool), s.sectRuns n.val = true →
    ∃ t, exec (.pitchMeasure n ps st) s = .next t ∧
      t.get pgDV (F.DV_PITCH_CUR.ix n.val) = ps.toNat ∧
      t.get pgDV (F.DV_PITCH_WORST.ix n.val) = max (s.get pgDV (F.DV_PITCH_WORST.ix n.val)) ps.toNat ∧
      t.bit pgDV (F.DV_PITCH_SLOW.ix n.val) = (decide (400 < ps.toNat) && !st) ∧
      OnlyRegs ([pgDV + 0x100 + 4 * n.val, pgDV + 0x150] ++ evtWords pgDV) s t) ∧
  (∀ (s : State) (n : Fin 11), s.bit pgDV (F.DV_PITCH_SLOW.ix n.val) = true → s.dev.slowRaised.toNat.testBit n.val = false →
    ∃ t, exec (.pitchSlow n) s = .next t ∧ t.get pgDV F.DV_PITCH_SLOW_SRC_SECT = n.val ∧ t.pends pgDV 12 = true ∧
      t.dev.slowRaised.toNat.testBit n.val = true ∧ OnlyRegs [pgDV + 0x144, pgDV + 0x014] s t) ∧
  (∀ (s : State) (fn : Fn) (w : Word), Reaches s fn.val (pgDV + 0x140) .dv 0 →
    ∃ t, exec (.clrWorst fn w) s = .next t ∧ ∀ n, n < 11 → t.get pgDV (F.DV_PITCH_WORST.ix n) = 0) ∧
  (∀ (s : State) (fn : Fn) (w : Word), Reaches s fn.val (pgDV + 0x148) .dv 0 → s.bit pgDV F.DV_AVS_CTRL_EN = false →
    (s.storeFields .dv 0 fn.val (pgDV + 0x148) (w ||| 1).toNat).1.bit pgDV F.DV_AVS_CTRL_EN = true →
    ∃ t, exec (.avsEnable fn w) s = .next t ∧ t.dev.avsReading = true ∧ t.dev.avsFlight = some 0) ∧
  (∀ s : State, s.bit pgDV F.DV_AVS_CTRL_EN = true → s.bit pgDV F.DV_AVS_STATUS_BUSERR = false →
    s.dev.avsReading = false → s.get pgDV F.DV_PITCH_CFG_TARGET < s.maxPitch →
    ∃ t, exec .avsLoop s = .next t ∧
      t.dev.avsV = min (s.dev.avsV + s.get pgDV F.DV_AVS_CFG_STEP) (s.get pgDV F.DV_AVS_CTRL_VMAX) ∧ t.dev.avsLow = 0 ∧
      (s.dev.avsFlight = none → t.dev.avsFlight = (if t.dev.avsV = s.get pgDV F.DV_AVS_STATUS_VREQ then none else some t.dev.avsV)) ∧
      OnlyRegs (evtWords pgDV ++ [pgDV + 0x150]) s t) ∧
  (∀ s : State, s.bit pgDV F.DV_AVS_CTRL_EN = true → s.bit pgDV F.DV_AVS_STATUS_BUSERR = false →
    s.dev.avsReading = false → s.maxPitch + 20 < s.get pgDV F.DV_PITCH_CFG_TARGET → s.dev.avsLow = 7 →
    ∃ t, exec .avsLoop s = .next t ∧ t.dev.avsLow = 0 ∧ OnlyRegs (evtWords pgDV ++ [pgDV + 0x150]) s t ∧
      t.dev.avsV = max (s.dev.avsV - s.get pgDV F.DV_AVS_CFG_STEP) (s.get pgDV F.DV_AVS_CTRL_VMIN)) ∧
  (∀ (s : State) (sects : BitVec 11) (dur : BitVec 16),
    ∃ t, exec (.didtEpisode sects dur) s = .next t ∧ t.get pgPM F.PM_DIDT_STAT_LAST = dur.toNat ∧
      t.get pgPM F.PM_DIDT_STAT_SECT = sects.toNat ∧
      t.get pgPM F.PM_DIDT_CNT_COUNT = (s.get pgPM F.PM_DIDT_CNT_COUNT + 1) % 2 ^ 32 ∧
      OnlyRegs [pgPM + F.PM_DIDT_STAT_LAST.off, pgPM + F.PM_DIDT_CNT_COUNT.off] s t) ∧
  (∀ (s : State) (u : Nat), s.get pgPM F.PM_DIDT_CFG_REPORT * 100 < s.get pgPM F.PM_DIDT_STAT_LAST →
    (s.at u).secSince s.dev.didtAt = true →
    ∃ t, exec (.didtLimit u) s = .next t ∧ t.pends pgPM 0 = true ∧ t.dev.didtAt = some (max s.now u) ∧
      OnlyRegs [pgPM + 0x014] s t)

/-- R28: the limit, the reading and the requests acknowledged or not, and the bus fault after the third that is not. That v
then returns to the voltage last acknowledged is the model's reading of "holds" (log entry 120). -/
def Obligations.AvsTransactions : Prop :=
  (∀ s : State, s.bit pgDV F.DV_AVS_CTRL_EN = true → s.bit pgDV F.DV_AVS_STATUS_BUSERR = false → s.dev.avsFlight = none →
    s.dev.avsReading = false →
    ∃ t, exec .avsLoop s = .next t ∧ t.dev.avsV = (avsNext s).1 ∧
      t.raw pgDV 13 = (decide (t.dev.avsV = s.get pgDV F.DV_AVS_CTRL_VMAX) && decide (s.get pgDV F.DV_PITCH_CFG_TARGET < s.maxPitch)) ∧
      (t.raw pgDV 13 = true → s.raw pgDV 13 = false → t.pends pgDV 13 = true) ∧
      (t.dev.avsV = s.get pgDV F.DV_AVS_STATUS_VREQ → t.dev.avsFlight = none) ∧
      (t.dev.avsV ≠ s.get pgDV F.DV_AVS_STATUS_VREQ → t.dev.avsFlight = some t.dev.avsV ∧ .avs t.dev.avsV ∈ t.out) ∧
      OnlyRegs (evtWords pgDV ++ [pgDV + 0x150]) s t) ∧
  (∀ (s : State) (mv : BitVec 12) (v : Nat), s.dev.avsFlight = some v → s.dev.avsReading = true →
    ∃ t, exec (.avsTransactionEnd true mv) s = .next t ∧ t.get pgDV F.DV_AVS_STATUS_VREQ = mv.toNat ∧ t.dev.avsV = mv.toNat ∧
      t.dev.avsReading = false ∧ t.dev.avsUnacked = 0 ∧ t.dev.avsFlight = none ∧ OnlyRegs (evtWords pgDV ++ [pgDV + 0x150]) s t) ∧
  (∀ (s : State) (mv : BitVec 12) (v : Nat), s.dev.avsFlight = some v → s.dev.avsReading = false → v < 4096 →
    ∃ t, exec (.avsTransactionEnd true mv) s = .next t ∧ t.get pgDV F.DV_AVS_STATUS_VREQ = v ∧ t.dev.avsV = s.dev.avsV ∧
      t.dev.avsUnacked = 0 ∧ t.dev.avsFlight = none ∧ OnlyRegs (evtWords pgDV ++ [pgDV + 0x150]) s t) ∧
  (∀ (s : State) (mv : BitVec 12) (v : Nat), s.dev.avsFlight = some v → s.dev.avsUnacked < 2 →
    ∃ t, exec (.avsTransactionEnd false mv) s = .next t ∧ t.dev.avsUnacked = s.dev.avsUnacked + 1 ∧ t.dev.avsFlight = none ∧
      t.dev.avsReading = s.dev.avsReading ∧ t.dev.avsV = s.dev.avsV ∧ t.out = s.out ∧ OnlyRegs [] s t) ∧
  (∀ (s : State), s.bit pgDV F.DV_AVS_CTRL_EN = true → s.bit pgDV F.DV_AVS_STATUS_BUSERR = false → s.dev.avsFlight = none →
    s.dev.avsReading = true →
    ∃ t, exec .avsLoop s = .next t ∧ t.out = .avsRead :: s.out ∧ t.dev.avsFlight = some 0 ∧ t.dev.avsReading = true ∧ OnlyRegs [] s t) ∧
  (∀ (s : State) (mv : BitVec 12) (v : Nat), s.dev.avsFlight = some v → s.dev.avsUnacked = 2 →
    ∃ t, exec (.avsTransactionEnd false mv) s = .next t ∧ t.bit pgDV F.DV_AVS_STATUS_BUSERR = true ∧ t.pends pgDV 14 = true ∧
      t.get pgDV F.DV_AVS_STATUS_VREQ = s.get pgDV F.DV_AVS_STATUS_VREQ ∧ t.dev.avsFlight = none ∧
      (s.dev.avsReading = false → t.dev.avsV = s.get pgDV F.DV_AVS_STATUS_VREQ) ∧
      OnlyRegs (evtWords pgDV ++ [pgDV + 0x150]) s t) ∧
  (∀ (s : State), s.bit pgDV F.DV_AVS_STATUS_BUSERR = true →
    ∃ t, exec .avsLoop s = .next t ∧ t.dev = s.dev ∧ t.get pgDV F.DV_AVS_STATUS_VREQ = s.get pgDV F.DV_AVS_STATUS_VREQ ∧
      (∀ o ∈ t.out, o ∉ s.out → (match o with | .msix _ _ => true | _ => false) = true) ∧ OnlyRegs (evtWords pgDV ++ [pgDV + 0x150]) s t) ∧
  (∀ (s : State) (fn : Fn) (w : Word), Reaches s fn.val (pgDV + 0x148) .dv 0 → s.bit pgDV F.DV_AVS_CTRL_EN = true →
    ∃ t, exec (.registerWrite fn (BitVec.ofNat 28 (pgDV + 0x148)) w 0) s = .next t ∧
      (t.bit pgDV F.DV_AVS_CTRL_EN = false → t.bit pgDV F.DV_AVS_STATUS_BUSERR = false ∧ t.dev.avsFlight = none ∧ t.dev.avsUnacked = 0))

/-- R42, R44, R45: what a patrol counts, latches and raises; the check at the end of a second; and the clearing of the counts. -/
def Obligations.ErrorCounts : Prop :=
  (∀ (s : State) (f : EccFinding), s.get pgDV F.DV_ECC_CFG_SCRUB_H ≠ 0 → f.place.val ≤ 1 → wrongSymbols f.err = 2 →
    (eccEntry f && s.bad.contains (tkey f.page f.tid f.entry)) = false →
    s.bit pgDV F.DV_ECC_LAST_UE_VALID = false →
    ∃ t, exec (.sramPatrol [f]) s = .next t ∧
      t.get pgDV (F.DV_ECC_UE_COUNT.ix f.sect.val) = min (s.get pgDV (F.DV_ECC_UE_COUNT.ix f.sect.val) + 1) (2 ^ 32 - 1) ∧
      t.bit pgDV F.DV_ECC_LAST_UE_VALID = true ∧ t.get pgDV F.DV_ECC_LAST_UE_SECT = f.sect.val ∧
      t.get pgDV F.DV_ECC_LAST_UE_PLACE = f.place.val ∧ t.pends pgDV 11 = true) ∧
  (∀ (s : State) (f : EccFinding), s.get pgDV F.DV_ECC_CFG_SCRUB_H ≠ 0 → f.place.val ≤ 1 → wrongSymbols f.err = 1 →
    (eccEntry f && s.bad.contains (tkey f.page f.tid f.entry)) = false →
    ∃ t, exec (.sramPatrol [f]) s = .next t ∧
      t.get pgDV (F.DV_ECC_CE_COUNT.ix f.sect.val) = min (s.get pgDV (F.DV_ECC_CE_COUNT.ix f.sect.val) + 1) (2 ^ 32 - 1) ∧
      OnlyRegs [pgDV + 0x1C0 + 4 * f.sect.val] s t) ∧
  (∀ (s : State) (n : Fin 11), s.get pgDV F.DV_ECC_CFG_CE_RATE < sget 0 s.dev.ceSec n.val →
    ∃ t, exec .eccCeRate s = .next t ∧ t.pends pgDV n.val = true ∧ t.dev.ceSec = [] ∧ OnlyRegs [pgDV + 0x014] s t) ∧
  (∀ (s : State) (fn : Fn) (w : Word), Reaches s fn.val (pgDV + 0x240) .dv 0 →
    ∃ t, exec (.clrCnt fn w) s = .next t ∧
      ∀ n, n < 11 → t.get pgDV (F.DV_ECC_CE_COUNT.ix n) = 0 ∧ t.get pgDV (F.DV_ECC_UE_COUNT.ix n) = 0)

/-- R47, R52, R51, R53: an access error is latched and raised, a lock shuts the page's RWL fields, and software writes the plain
registers of the window and of the vectors. -/
def Obligations.RegisterAccess : Prop :=
  (∀ (s : State) (fn : Fn) (a : BitVec 28) (n : Nat) (wr : Bool), isAccessError a.toNat n = true →
    ∃ t, exec (.accessError fn a n wr) s = .next t ∧ t.pends pgDV 15 = true ∧
      (s.bit pgDV F.DV_ACC_ERR_VALID = false → t.bit pgDV F.DV_ACC_ERR_VALID = true ∧
        t.get pgDV F.DV_ACC_ERR_OFFSET = a.toNat ∧ t.get pgDV F.DV_ACC_ERR_FN = fn.val ∧ t.bit pgDV F.DV_ACC_ERR_WR = wr) ∧
      (s.bit pgDV F.DV_ACC_ERR_VALID = true → t.reg (pgDV + 0x260) = s.reg (pgDV + 0x260)) ∧
      (wr = false → .readData fn.val a.toNat 0 ∈ t.out) ∧
      OnlyRegs [pgDV + 0x260, pgDV + 0x014] s t) ∧
  (∀ (s : State) (fn : Fn) (p : BitVec 12) (k : PKind) (i : Nat), Reaches s fn.val (pageBase p + 0x024) k i →
    ∃ t, exec (.pageLock fn p) s = .next t ∧ t.locked (pageBase p) = true ∧ OnlyRegs [pageBase p + 0x024] s t) ∧
  (∀ (s : State) (k : PKind) (i fn a w : Nat), s.locked (a / 4096 * 4096) = true → a % 4096 ≠ 0x00C →
    (∀ f ∈ specsAt k (a % 4096), f.ty = .rwl) →
    (s.storeFields k i fn a w).1.reg a = s.reg a ∧
    (s.storeFields k i fn a w).1.bit (a / 4096 * 4096) F.ST_LOCK_VIOL =
      (s.bit (a / 4096 * 4096) F.ST_LOCK_VIOL || ((s.reg a).toNat ^^^ w) &&& tyMask (specsAt k (a % 4096)) .rwl != 0)) ∧
  (∀ (s : State) (p : BitVec 12) (sec : Bool) (k : PKind) (i : Nat), Reaches s 0 (pageBase p + 0x020) k i → fixedOf k = none →
    ∃ t, exec (.worldChange 0 p sec) s = .next t ∧ t.pageSecure (pageBase p) = sec ∧
      t.get (pageBase p) F.GEN_COUNT = (s.get (pageBase p) F.GEN_COUNT + if s.pageSecure (pageBase p) = sec then 0 else 1) % 2 ^ 32 ∧
      OnlyRegs [pageBase p + 0x020, pageBase p + 0x028] s t) ∧
  (∀ (s : State) (fn : Fn) (p : BitVec 12) (sec : Bool) (k : PKind) (i : Nat), Reaches s fn.val (pageBase p + 0x020) k i →
    fn.val = 1 ∨ fixedOf k ≠ none →
    exec (.worldChange fn p sec) s = .next s) ∧
  (∀ (s : State) (fn : Fn) (a : BitVec 28) (w : Word) (u : Nat) (k : PKind) (i : Nat), Reaches s fn.val a.toNat k i →
    hasTbl k = true → 0x080 ≤ a.toNat % 4096 → a.toNat % 4096 < 0x0C0 →
    ∃ t, exec (.registerWrite fn a w u) s = .next t ∧ t.reg a.toNat = w ∧ t.now = max s.now u ∧ OnlyRegs [a.toNat] s t) ∧
  (∀ (s : State) (fn : Fn) (a : BitVec 28) (w : Word) (u : Nat) (p i : Nat), Reaches s fn.val a.toNat (.ev p) i → p = 11 ∨ p = 12 →
    0x040 ≤ a.toNat % 4096 → a.toNat % 4096 < 0x840 →
    ∃ t, exec (.registerWrite fn a w u) s = .next t ∧ (t.reg a.toNat).toNat = w.toNat % 1024 ∧
      t.get (a.toNat / 4096 * 4096) F.GEN_COUNT = (s.get (a.toNat / 4096 * 4096) F.GEN_COUNT + 1) % 2 ^ 32 ∧
      OnlyRegs [a.toNat, a.toNat / 4096 * 4096 + 0x028] s t)

/-- R60, R61, R64, R121: clearing and forcing events, the messages of a vector, and the snapshot and the clearing of a page's
counters. -/
def Obligations.EventsAndCounters : Prop :=
  (∀ (s : State) (fn : Fn) (p : BitVec 12) (w : Word) (k : PKind) (i : Nat), Reaches s fn.val (pageBase p + 0x014) k i →
    ∃ t, exec (.evtPendClear fn p w) s = .next t ∧
      (∀ b, b < 32 → t.pends (pageBase p) b =
        (s.pends (pageBase p) b && !(w.toNat.testBit b && !(sget (0 : Word) s.sticky (pageBase p)).toNat.testBit b))) ∧
      OnlyRegs [pageBase p + 0x014] s t) ∧
  (∀ (s : State) (fn : Fn) (p : BitVec 12) (w : Word) (k : PKind) (i : Nat), Reaches s fn.val (pageBase p + 0x01C) k i →
    ∃ t, exec (.evtForce fn p w) s = .next t ∧
      (∀ b, b < 32 → t.pends (pageBase p) b = (s.pends (pageBase p) b || (w.toNat.testBit b && (evMasks k).1.testBit b))) ∧
      t.sticky = s.sticky ∧ t.live = s.live ∧ OnlyRegs [pageBase p + 0x014] s t) ∧
  (∀ (s : State) (fn : Fn) (v : Fin 512), (s.vec fn.val v.val).pba = true → (s.vec fn.val v.val).gapRunning = false →
    ∃ t, exec (.msixMask fn v false) s = .next t ∧ t.out = .msix fn.val v.val :: s.out ∧ (t.vec fn.val v.val).pba = false ∧
      (t.vec fn.val v.val).masked = false ∧ (t.vec fn.val v.val).gapRunning = (s.gapOf fn.val v.val != 0) ∧ OnlyRegs [] s t) ∧
  (∀ (s : State) (fn : Fn) (v : Fin 512),
    ∃ t, exec (.msixMask fn v true) s = .next t ∧ t.out = s.out ∧ (t.vec fn.val v.val).masked = true ∧ OnlyRegs [] s t) ∧
  (∀ (s : State) (fn : Fn) (v : Fin 512), (s.vec fn.val v.val).gapRunning = true → (s.vec fn.val v.val).masked = false →
    ∃ t, exec (.msixGapExpiry fn v) s = .next t ∧ (t.vec fn.val v.val).held = false ∧
      (if (s.vec fn.val v.val).held = true ∧ (fn.val, v.val) ∈ s.assertedVecs
        then t.out = .msix fn.val v.val :: s.out else t.out = s.out ∧ (t.vec fn.val v.val).gapRunning = false) ∧
      OnlyRegs [] s t) ∧
  (∀ (s : State) (fn : Fn) (p : BitVec 12) (w : Word) (k : PKind) (i : Nat) (c : Ctr), c ∈ (ctrsOf k).1 →
    Reaches s fn.val (pageBase p + (ctrsOf k).2) k i →
    ∃ t, exec (.cntSnap fn p w) s = .next t ∧ t.reg (pageBase p + c.off) = BitVec.ofNat 32 (s.count (pageBase p) c) ∧
      t.count (pageBase p) c = (if w.toNat.testBit 1 then 0 else s.count (pageBase p) c)) ∧
  (∀ (s : State) (fn : Fn) (p : BitVec 12) (w : Word) (k : PKind) (i : Nat) (c : Ctr), c ∈ (ctrsOf k).1 →
    Reaches s fn.val (pageBase p + (ctrsOf k).2) k i →
    ∃ t, exec (.cntClr fn p w) s = .next t ∧ t.count (pageBase p) c = 0)

/-- R55 to R59, R52: what each table command does when it succeeds and when it does not. The table pages taken for the changing
commands are those whose own rules ask least: gate lists, the hint directory and the XGEM ports. -/
def Obligations.TableCommands : Prop :=
  (∀ (s : State) (fn : Fn) (p : BitVec 12) (w : Word) (k : PKind) (n : Nat) (tb : Tab),
    Reaches s fn.val (pageBase p + 0x044) k n → hasTbl k = true → tabOf k (s.get (pageBase p) F.TBL_ADDR_TID) = some tb →
    1 ∈ tb.ops → tb.first ≤ s.get (pageBase p) F.TBL_ADDR_INDEX → s.get (pageBase p) F.TBL_ADDR_INDEX < tb.size →
    ∃ t, exec (.tblRead fn p w) s = .next t ∧
      (if s.tabPoison k (pageBase p) (s.get (pageBase p) F.TBL_ADDR_TID) (s.get (pageBase p) F.TBL_ADDR_INDEX) = true
        then t.tblEnds (pageBase p) 6 (s.get (pageBase p) F.TBL_ADDR_INDEX) ∧ ∀ j, j < 16 → t.get (pageBase p) (F.TBL_DATA_DATA.ix j) = 0
        else t.tblEnds (pageBase p) 0 (s.get (pageBase p) F.TBL_ADDR_INDEX) ∧ ∀ j, j < 16 → t.get (pageBase p) (F.TBL_DATA_DATA.ix j) =
          ew (tabShow k (pageBase p) (s.get (pageBase p) F.TBL_ADDR_TID) (s.get (pageBase p) F.TBL_ADDR_INDEX) tb s) j) ∧
      (tabPage k (pageBase p) ≠ pLK → OnlyRegs (winWords (pageBase p)) s t)) ∧
  (∀ (s : State) (fn : Fn) (p : BitVec 12) (w : Word) (k : PKind) (n : Nat) (tb : Tab),
    Reaches s fn.val (pageBase p + 0x044) k n → hasTbl k = true → tabOf k (s.get (pageBase p) F.TBL_ADDR_TID) = some tb →
    7 ∈ tb.ops →
    tabFind k (pageBase p) (s.get (pageBase p) F.TBL_ADDR_TID) tb (maskWords tb.mask (s.winData (pageBase p))) s = none →
    ∃ t, exec (.tblFind fn p w) s = .next t ∧ t.tblEnds (pageBase p) 1 0 ∧ OnlyRegs (winWords (pageBase p)) s t) ∧
  (∀ (s : State) (fn : Fn) (p : BitVec 12) (w : Word) (k : PKind) (n i : Nat) (tb : Tab),
    Reaches s fn.val (pageBase p + 0x044) k n → hasTbl k = true → tabOf k (s.get (pageBase p) F.TBL_ADDR_TID) = some tb →
    7 ∈ tb.ops →
    tabFind k (pageBase p) (s.get (pageBase p) F.TBL_ADDR_TID) tb (maskWords tb.mask (s.winData (pageBase p))) s = some i →
    s.tabPoison k (pageBase p) (s.get (pageBase p) F.TBL_ADDR_TID) i = false → i < 2 ^ 24 →
    ∃ t, exec (.tblFind fn p w) s = .next t ∧ t.tblEnds (pageBase p) 0 i ∧
      (∀ j, j < 16 → t.get (pageBase p) (F.TBL_DATA_DATA.ix j) =
        ew (tabShow k (pageBase p) (s.get (pageBase p) F.TBL_ADDR_TID) i tb s) j) ∧ OnlyRegs (winWords (pageBase p)) s t) ∧
  (∀ (s : State) (fn : Fn) (p : BitVec 12) (w : Word) (k : PKind) (n : Nat), Reaches s fn.val (pageBase p + 0x044) k n →
    hasTbl k = true → s.badOp k (pageBase p) w.toNat = true →
    ∃ t, exec (.badOp fn p w) s = .next t ∧ t.get (pageBase p) F.TBL_STAT_CODE = 8 ∧ OnlyRegs (winWords (pageBase p)) s t) ∧
  (∀ (s : State) (fn : Fn) (p : BitVec 12) (k : PKind) (n : Nat), Reaches s fn.val (pageBase p + 0x044) k n → hasTbl k = true →
    ∃ t, exec (.tblOvr fn p) s = .next t ∧ t.bit (pageBase p) F.TBL_STAT_OVR = true ∧ OnlyRegs [pageBase p + 0x048] s t) ∧
  (∀ (s : State) (fn : Fn) (p : BitVec 12) (w : Word) (q n : Nat), Reaches s fn.val (pageBase p + 0x044) (.gt q) n → 2 ≤ q →
    s.get (pageBase p) F.TBL_ADDR_TID = 0 → s.get (pageBase p) F.TBL_ADDR_INDEX < 1024 →
    s.bit (pgGT q) F.GT_STATUS_PEND = false → s.bit (pgGT q) F.GT_STATUS_COPY = false →
    ∃ t, exec (.tblWrite fn p w) s = .next t ∧ t.tblEnds (pageBase p) 0 (s.get (pageBase p) F.TBL_ADDR_INDEX) ∧
      ew (t.ent (pageBase p) 0 (s.get (pageBase p) F.TBL_ADDR_INDEX)) 0 % 2 ^ 8 = s.get (pageBase p) (F.TBL_DATA_DATA.ix 0) % 2 ^ 8 ∧
      ew (t.ent (pageBase p) 0 (s.get (pageBase p) F.TBL_ADDR_INDEX)) 1 % 2 ^ 30 = s.get (pageBase p) (F.TBL_DATA_DATA.ix 1) % 2 ^ 30 ∧
      (∀ pg u j, tkey pg u j ≠ tkey (pageBase p) 0 (s.get (pageBase p) F.TBL_ADDR_INDEX) → t.ent pg u j = s.ent pg u j) ∧
      (∀ a, a ∉ winWords (pageBase p) → t.reg a = s.reg a)) ∧
  (∀ (s : State) (fn : Fn) (p : BitVec 12) (w : Word) (k : PKind) (n : Nat) (tb : Tab),
    Reaches s fn.val (pageBase p + 0x044) k n → hasTbl k = true → tabOf k (s.get (pageBase p) F.TBL_ADDR_TID) = some tb →
    2 ∈ tb.ops → tb.key = 0 → tb.first ≤ s.get (pageBase p) F.TBL_ADDR_INDEX → s.get (pageBase p) F.TBL_ADDR_INDEX < tb.size →
    tb.config = true → s.locked (pageBase p) = true →
    ∃ t, exec (.tblWrite fn p w) s = .next t ∧ t.tblEnds (pageBase p) 7 (s.get (pageBase p) F.TBL_ADDR_INDEX) ∧
      OnlyRegs (winWords (pageBase p)) s t) ∧
  (∀ (s : State) (fn : Fn) (p : BitVec 12) (w : Word) (q n : Nat) (tb : Tab), Reaches s fn.val (pageBase p + 0x044) (.gt q) n → 2 ≤ q →
    s.get (pageBase p) F.TBL_ADDR_TID = 0 → s.get (pageBase p) F.TBL_ADDR_INDEX < 1024 → tabOf (.gt q) 0 = some tb →
    s.bit (pgGT q) F.GT_STATUS_PEND = false → s.bit (pgGT q) F.GT_STATUS_COPY = false →
    ∃ t, exec (.tblCas fn p w) s = .next t ∧ (∀ a, a ∉ winWords (pageBase p) → t.reg a = s.reg a) ∧
      (if s.tblMatch (.gt q) (pageBase p) 0 (s.get (pageBase p) F.TBL_ADDR_INDEX) tb (fld w.toNat 23 20) = true
        then t.tblEnds (pageBase p) 0 (s.get (pageBase p) F.TBL_ADDR_INDEX) ∧
          ew (t.ent (pageBase p) 0 (s.get (pageBase p) F.TBL_ADDR_INDEX)) 1 % 2 ^ 30 =
            s.get (pageBase p) (F.TBL_DATA_DATA.ix 1) % 2 ^ 30
        else t.tblEnds (pageBase p) 4 (s.get (pageBase p) F.TBL_ADDR_INDEX) ∧ t.tabs = s.tabs ∧
          t.get (pageBase p) (F.TBL_DATA_DATA.ix 0) = ew (s.ent (pageBase p) 0 (s.get (pageBase p) F.TBL_ADDR_INDEX)) 0)) ∧
  (∀ (s : State) (fn : Fn) (p : BitVec 12) (w : Word) (n : Nat), Reaches s fn.val (pageBase p + 0x044) (.gs 9) n →
    s.get (pageBase p) F.TBL_ADDR_TID = 0 → s.get (pageBase p) F.TBL_ADDR_INDEX < 8192 → s.locked (pageBase p) = false →
    w.toNat.testBit 16 = false →
    ∃ t, exec (.tblDelete fn p w) s = .next t ∧ (∀ a, a ∉ winWords (pageBase p) → t.reg a = s.reg a) ∧
      (if s.getE (pageBase p) 0 (s.get (pageBase p) F.TBL_ADDR_INDEX) eUSED = 1
        then t.tblEnds (pageBase p) 0 (s.get (pageBase p) F.TBL_ADDR_INDEX) ∧
          t.ent (pageBase p) 0 (s.get (pageBase p) F.TBL_ADDR_INDEX) = 0 ∧
          t.get (pageBase p) F.GEN_COUNT = (s.get (pageBase p) F.GEN_COUNT + 1) % 2 ^ 32
        else t.tblEnds (pageBase p) 1 (s.get (pageBase p) F.TBL_ADDR_INDEX) ∧ t.tabs = s.tabs)) ∧
  (∀ (s : State) (fn : Fn) (p : BitVec 12) (w : Word) (n : Nat) (tb : Tab), Reaches s fn.val (pageBase p + 0x044) (.gs 9) n →
    s.get (pageBase p) F.TBL_ADDR_TID = 0 → s.get (pageBase p) F.TBL_ADDR_INDEX < 8192 → s.locked (pageBase p) = false →
    w.toNat.testBit 16 = false → tabOf (.gs 9) 0 = some tb →
    s.getE (pageBase p) 0 (s.get (pageBase p) F.TBL_ADDR_INDEX) eUSED = 1 →
    ∃ t, exec (.tblCdel fn p w) s = .next t ∧ (∀ a, a ∉ winWords (pageBase p) → t.reg a = s.reg a) ∧
      (if s.tblMatch (.gs 9) (pageBase p) 0 (s.get (pageBase p) F.TBL_ADDR_INDEX) tb (fld w.toNat 23 20) = true
        then t.tblEnds (pageBase p) 0 (s.get (pageBase p) F.TBL_ADDR_INDEX) ∧
          t.ent (pageBase p) 0 (s.get (pageBase p) F.TBL_ADDR_INDEX) = 0
        else t.tblEnds (pageBase p) 4 (s.get (pageBase p) F.TBL_ADDR_INDEX) ∧ t.tabs = s.tabs)) ∧
  (∀ (s : State) (fn : Fn) (p : BitVec 12) (w : Word) (k : PKind) (n i : Nat) (tb : Tab),
    Reaches s fn.val (pageBase p + 0x044) k n → hasTbl k = true → tabOf k (s.get (pageBase p) F.TBL_ADDR_TID) = some tb →
    3 ∈ tb.ops → tabFind k (pageBase p) (s.get (pageBase p) F.TBL_ADDR_TID) tb (maskWords tb.mask (s.winData (pageBase p))) s = some i →
    i < 2 ^ 24 →
    ∃ t, exec (.tblInsert fn p w) s = .next t ∧ t.tblEnds (pageBase p) 2 i ∧ OnlyRegs (winWords (pageBase p)) s t) ∧
  (∀ (s : State) (fn : Fn) (p : BitVec 12) (w : Word) (n i : Nat) (tb : Tab), Reaches s fn.val (pageBase p + 0x044) (.pe 2) n →
    s.get (pageBase p) F.TBL_ADDR_TID = 0 → s.locked (pageBase p) = false → tabOf (.pe 2) 0 = some tb →
    tabFind (.pe 2) (pageBase p) 0 tb (maskWords tb.mask (s.winData (pageBase p))) s = none →
    xgemBad n (maskWords tb.mask (s.winData (pageBase p))) s = false → s.freeIndex (pageBase p) 0 8192 = some i →
    totalUsed ((List.range 48).map (fun n => pgPE n 2)) s < 131072 →
    ∃ t, exec (.tblInsert fn p w) s = .next t ∧ t.tblEnds (pageBase p) 0 i ∧ t.getE (pageBase p) 0 i eUSED = 1 ∧
      t.getE (pageBase p) 0 i xID = s.get (pageBase p) (F.TBL_DATA_DATA.ix 0) % 2 ^ 16 ∧
      t.get (pageBase p) F.GEN_COUNT = (s.get (pageBase p) F.GEN_COUNT + 1) % 2 ^ 32 ∧
      (∀ pg u j, tkey pg u j ≠ tkey (pageBase p) 0 i → t.ent pg u j = s.ent pg u j) ∧
      (∀ a, a ∉ winWords (pageBase p) → t.reg a = s.reg a))

/-- R49, R50, R489, R492: EN, QUIESCE and ERST of an engine, and how READY and QUIESCED follow. -/
def Obligations.EngineControl : Prop :=
  (∀ (s : State) (fn : Fn) (p : BitVec 12) (w : Word) (k : PKind) (i : Nat), Reaches s fn.val (pageBase p + 0x008) k i →
    isCtrl k = true → w.toNat.testBit 2 = false →
    ∃ t, exec (.engineEnable fn p w) s = .next t ∧ t.en (pageBase p) = true ∧ t.quiescing (pageBase p) = w.toNat.testBit 1 ∧
      (s.en (pageBase p) = false → ownReady k = false → t.bit (pageBase p) F.ST_READY = false)) ∧
  (∀ (s : State) (fn : Fn) (p : BitVec 12) (w : Word) (k : PKind) (i : Nat), Reaches s fn.val (pageBase p + 0x008) k i →
    isCtrl k = true → w.toNat.testBit 2 = false → s.en (pageBase p) = true →
    ∃ t, exec (.engineDisable fn p w) s = .next t ∧ t.en (pageBase p) = false ∧ t.bit (pageBase p) F.ST_READY = false) ∧
  (∀ (s : State) (fn : Fn) (p : BitVec 12) (w : Word) (k : PKind) (i : Nat), Reaches s fn.val (pageBase p + 0x008) k i →
    isCtrl k = true → w.toNat.testBit 2 = false → w.toNat.testBit 0 = s.en (pageBase p) →
    ∃ t, exec (.quiesce fn p w) s = .next t ∧ t.quiescing (pageBase p) = true ∧ t.en (pageBase p) = s.en (pageBase p) ∧
      t.bit (pageBase p) F.ST_QUIESCED = s.engIdle k i ∧ OnlyRegs [pageBase p + 0x008, pageBase p + 0x00C] s t) ∧
  (∀ (s : State) (p : BitVec 12) (k : PKind) (i : Nat), pageOf (pageBase p) = some (k, i) → isCtrl k = true →
    s.quiescing (pageBase p) = true →
    ∃ t, exec (.quiesced p) s = .next t ∧ t.bit (pageBase p) F.ST_QUIESCED = s.engIdle k i ∧ OnlyRegs [pageBase p + 0x00C] s t) ∧
  (∀ (s : State) (p : BitVec 12) (k : PKind) (i : Nat), pageOf (pageBase p) = some (k, i) → isCtrl k = true → ownReady k = false →
    s.en (pageBase p) = true → (s.get pgDV F.DV_RST_STAT_BUSY).testBit (sectOf k i) = false →
    ∃ t, exec (.engineReady p) s = .next t ∧ t.bit (pageBase p) F.ST_READY = true ∧ OnlyRegs [pageBase p + 0x00C] s t) ∧
  (∀ (s : State) (fn : Fn) (p : BitVec 12) (w : Word) (k : PKind) (i : Nat), Reaches s fn.val (pageBase p + 0x008) k i →
    isCtrl k = true → w.toNat.testBit 0 = s.en (pageBase p) → (s.get pgDV F.DV_RST_STAT_BUSY).testBit (sectOf k i) = false →
    ∃ t, exec (.erst fn p w) s = .next t ∧ t.quiescing (pageBase p) = false ∧ t.en (pageBase p) = s.en (pageBase p) ∧
      (ownReady k = false → t.bit (pageBase p) F.ST_READY = false)) ∧
  (∀ (s : State) (fn : Fn) (p : BitVec 12) (w : Word) (k : PKind) (i : Nat), Reaches s fn.val (pageBase p + 0x008) k i →
    isCtrl k = false → exec (.engineEnable fn p w) s = .next s ∧ exec (.erst fn p w) s = .next s)

/-- R70, R71, R86 to R88: the bring-up of a lane, step by step, with what each outcome leaves in its page and where the
receiver and the transmitter stand. -/
def Obligations.LaneBringUp : Prop :=
  (∀ (s : State) (fn : Fn) (l : Fin 140) (w : Word), Reaches s fn.val (pgLN l.val + 0x008) .ln l.val → isPcie l.val = false →
    s.en (pgLN l.val) = false → w.toNat.testBit 2 = false →
    ∃ t, exec (.laneEnable fn l w) s = .next t ∧ t.en (pgLN l.val) = true ∧ t.bit (pgLN l.val) F.ST_READY = false ∧
      t.get (pgLN l.val) F.LN_STATUS_STATE = 0 ∧ (t.lane l.val).pllWait = !s.refHeld l.val ∧ (t.lane l.val).rx = .off ∧
      (t.lane l.val).src = .defaults ∧ OnlyPages [pgLN l.val] s t) ∧
  (∀ (s : State) (l : Fin 140), isPcie l.val = true →
    ∃ t, exec (.pllLock l) s = .next t ∧ t.bit (pgLN l.val) F.LN_STATUS_PLL_LOCK = true ∧
      OnlyRegs [pgLN l.val + F.LN_STATUS_STATE.off] s t) ∧
  (∀ (s : State) (l : Fin 140), isPcie l.val = false → (s.lane l.val).pllWait = true →
    ∃ t, exec (.pllLock l) s = .next t ∧ t.bit (pgLN l.val) F.LN_STATUS_PLL_LOCK = true ∧ t.bit (pgLN l.val) F.ST_READY = true ∧
      (t.lane l.val).pllWait = false ∧
      (lnFamily l.val = 1 → t.get (pgLN l.val) F.LN_STATUS_STATE = 4 ∧ (t.lane l.val).rx = .burst) ∧
      (lnFamily l.val = 0 → (t.lane l.val).tx = .detect) ∧
      (isDuplex l.val = true → t.get (pgLN l.val) F.LN_STATUS_STATE = 1 ∧
        (t.lane l.val).rx = (if s.bit (pgLN l.val) F.LN_STATUS_SIGDET then .adapt else .waitSig) ∧ (t.lane l.val).tx = .detect ∧ t.raw (pgLN l.val) 0 = true) ∧ OnlyPages [pgLN l.val] s t) ∧
  (∀ (s : State) (l : Fin 140), (s.lane l.val).pllWait = true →
    ∃ t, exec (.pllLockTimeout l) s = .next t ∧ t.bit (pgLN l.val) F.ST_FAULT = true ∧ (t.lane l.val).pllWait = false ∧
      OnlyRegs [pgLN l.val + 0x00C] s t) ∧
  (∀ (s : State) (l : Fin 140) (found : Bool), isPcie l.val = false → hasTx l.val = true →
    (s.lane l.val).tx = .detect →
    ∃ t, exec (.terminationDetect l found) s = .next t ∧ t.bit (pgLN l.val) F.LN_STATUS_OPEN = !found ∧
      t.raw (pgLN l.val) 1 = !found ∧ t.bit (pgLN l.val) F.LN_STATUS_TX_IDLE = (!found || s.txHeld l.val) ∧
      (t.lane l.val).tx = (if found then (if s.txHeld l.val then .idle else .sending) else .open) ∧ OnlyPages [pgLN l.val] s t) ∧
  (∀ (s : State) (l : Fin 140), (s.lane l.val).tx = .open →
    ∃ t, exec (.terminationRetry l) s = .next t ∧ (t.lane l.val).tx = .detect ∧ OnlyRegs [] s t) ∧
  (∀ (s : State) (l : Fin 140), isPcie l.val = false → (s.lane l.val).rx = .waitSig →
    ∃ t, exec (.sigdet l) s = .next t ∧ t.bit (pgLN l.val) F.LN_STATUS_SIGDET = true ∧ t.get (pgLN l.val) F.LN_STATUS_STATE = 1 ∧
      (t.lane l.val).rx = .adapt ∧ (t.lane l.val).src = (s.lane l.val).src ∧ OnlyPages [pgLN l.val] s t) ∧
  (∀ (s : State) (l : Fin 140), (s.lane l.val).rx = .adapt →
    ∃ t, exec (.adaptSettled l) s = .next t ∧ t.bit (pgLN l.val) F.LN_STATUS_CDR_LOCK = true ∧ (t.lane l.val).rx = .pcs ∧
      OnlyRegs [pgLN l.val + F.LN_STATUS_STATE.off] s t) ∧
  (∀ (s : State) (l : Fin 140), (s.lane l.val).rx = .adapt →
    ∃ t, exec (.adaptTimeout l) s = .next t ∧ (t.lane l.val).rx = .adapt ∧ (t.lane l.val).src = .defaults ∧
      t.get (pgLN l.val) F.LN_ADAPT_RESTARTS = min (s.get (pgLN l.val) F.LN_ADAPT_RESTARTS + 1) (2 ^ 8 - 1) ∧
      t.get (pgLN l.val) F.LN_STATUS_STATE = 1 ∧ OnlyPages [pgLN l.val] s t) ∧
  (∀ (s : State) (l : Fin 140) (inv : Bool) (pos : Fin 16), isDuplex l.val = true → (s.lane l.val).rx = .pcs →
    s.bit (pgLN l.val) F.LN_CFG_POL_AUTO = true ∨ inv = s.bit (pgLN l.val) F.LN_CFG_RX_INV →
    ∃ t, exec (.pcsLock l inv pos) s = .next t ∧ t.get (pgLN l.val) F.LN_STATUS_STATE = 2 ∧
      t.bit (pgLN l.val) F.LN_STATUS_PCS_LOCK = true ∧ t.bit (pgLN l.val) F.LN_STATUS_POL_FIX = (inv && s.bit (pgLN l.val) F.LN_CFG_POL_AUTO) ∧ (t.lane l.val).inverted = inv ∧
      t.get (pgLN l.val) F.LN_STATUS_WIRE_LANE = pos.val ∧
      t.bit (pgLN l.val) F.LN_STATUS_ORDER_FIX = decide (pos.val ≠ s.ownPosition l.val) ∧ t.raw (pgLN l.val) 0 = false ∧
      (t.lane l.val).rx = .locked ∧ (t.bit (pgLN l.val) F.LN_STATUS_POL_FIX = true → t.pends (pgLN l.val) 2 = true) ∧ OnlyPages [pgLN l.val] s t) ∧
  (∀ (s : State) (l : Fin 140), (s.lane l.val).rx = .pcs →
    ∃ t, exec (.pcsLockTimeout l) s = .next t ∧ t.get (pgLN l.val) F.LN_STATUS_STATE = 1 ∧ (t.lane l.val).rx = .adapt ∧
      (t.lane l.val).src = .defaults ∧ OnlyPages [pgLN l.val] s t) ∧
  (∀ (s : State) (l : Fin 140), isDuplex l.val = true → (s.lane l.val).rx = .locked →
    ∃ t, exec (.lockLoss l) s = .next t ∧ t.get (pgLN l.val) F.LN_STATUS_STATE = 1 ∧ (t.lane l.val).rx = .adapt ∧
      (t.lane l.val).src = .last ∧ t.raw (pgLN l.val) 0 = true ∧ OnlyPages [pgLN l.val] s t) ∧
  (∀ (s : State) (fn : Fn) (l : Fin 140) (w : Word), Reaches s fn.val (pgLN l.val + 0x058) .ln l.val → hasRx l.val = true →
    (s.lane l.val).rx ≠ .off → (s.lane l.val).rx ≠ .burst → (s.lane l.val).rx ≠ .test →
    ∃ t, exec (.adaptRestart fn l w) s = .next t ∧ t.get (pgLN l.val) F.LN_STATUS_STATE = 1 ∧ (t.lane l.val).rx = .adapt ∧
      (t.lane l.val).src = .defaults ∧ OnlyPages [pgLN l.val] s t) ∧
  (∀ (s : State) (fn : Fn) (l : Fin 140) (w : Word), Reaches s fn.val (pgLN l.val + 0x058) .ln l.val → hasRx l.val = true →
    ∃ t, exec (.clrAdapt fn l w) s = .next t ∧ t.get (pgLN l.val) F.LN_ADAPT_RESTARTS = 0 ∧
      t.get (pgLN l.val) F.LN_ADAPT_FAST_FAIL = 0 ∧ OnlyPages [pgLN l.val] s t)

/-- R73 to R76, R79: electrical idle and breath on either side of a lane, and the loss of its signal. A transmitter whose termination
is known to be absent is detected before its breath (log entry 124). -/
def Obligations.LaneIdle : Prop :=
  (∀ (s : State) (fn : Fn) (l : Fin 140) (w : Word), Reaches s fn.val (pgLN l.val + 0x050) .ln l.val → (s.lane l.val).tx = .sending →
    (s.storeFields .ln l.val fn.val (pgLN l.val + 0x050) (w ||| maskBit 31).toNat).2 = true →
    (s.storeFields .ln l.val fn.val (pgLN l.val + 0x050) (w ||| maskBit 31).toNat).1.bit (pgLN l.val) F.LN_IDLE_REQ = true →
    ∃ t, exec (.idleRequest fn l w) s = .next t ∧ (t.lane l.val).idlePend = true ∧ (t.lane l.val).tx = .sending ∧
      OnlyPages [pgLN l.val] s t) ∧
  (∀ (s : State) (l : Fin 140), (s.lane l.val).idlePend = true → (s.lane l.val).tx = .sending →
    ∃ t, exec (.idleEntry l) s = .next t ∧ (t.lane l.val).idlePend = false ∧
      t.bit (pgLN l.val) F.LN_STATUS_TX_IDLE = (s.txHeld l.val || s.bit (pgLN l.val) F.LN_STATUS_OPEN) ∧
      (s.txHeld l.val = true → (t.lane l.val).tx = .idle ∧ t.out = s.out) ∧
      (s.txHeld l.val = false → s.bit (pgLN l.val) F.LN_STATUS_OPEN = false → (t.lane l.val).tx = .sending) ∧
      OnlyRegs [pgLN l.val + F.LN_STATUS_STATE.off] s t) ∧
  (∀ (s : State) (fn : Fn) (l : Fin 140) (w : Word), Reaches s fn.val (pgLN l.val + 0x050) .ln l.val → (s.lane l.val).tx = .idle →
    (s.storeFields .ln l.val fn.val (pgLN l.val + 0x050) (w &&& ~~~ maskBit 31).toNat).2 = true →
    (s.storeFields .ln l.val fn.val (pgLN l.val + 0x050) (w &&& ~~~ maskBit 31).toNat).1.txHeld l.val = false →
    ∃ t, exec (.idleExit fn l w) s = .next t ∧ OnlyPages [pgLN l.val] s t ∧
      (s.bit (pgLN l.val) F.LN_STATUS_OPEN = false → t.bit (pgLN l.val) F.LN_STATUS_TX_IDLE = false ∧
        (t.lane l.val).tx = .sending ∧ (t.lane l.val).detectDue = true ∧
        t.out = .breath l.val (if t.pam4 l.val then 3 else 1) breathBits (t.get (pgLN l.val) F.LN_IDLE_POST) :: s.out) ∧
      (s.bit (pgLN l.val) F.LN_STATUS_OPEN = true → (t.lane l.val).tx = .detect ∧ t.out = s.out)) ∧
  (∀ (s : State) (l : Fin 140), isDuplex l.val = true → (s.lane l.val).rx = .idle → (s.lane l.val).frozen = true →
    ∃ t, exec (.breathRx l) s = .next t ∧ (t.lane l.val).rx = .fast ∧ t.bit (pgLN l.val) F.LN_STATUS_SIGDET = true ∧
      OnlyRegs [pgLN l.val + F.LN_STATUS_STATE.off] s t) ∧
  (∀ (s : State) (l : Fin 140), isDuplex l.val = true → (s.lane l.val).frozen = true → (s.lane l.val).rx = .fast →
    ∃ t, exec (.fastPathFail l) s = .next t ∧ (t.lane l.val).rx = .adapt ∧ (t.lane l.val).src = .frozen ∧
      t.get (pgLN l.val) F.LN_ADAPT_FAST_FAIL = min (s.get (pgLN l.val) F.LN_ADAPT_FAST_FAIL + 1) (2 ^ 8 - 1) ∧
      t.get (pgLN l.val) F.LN_STATUS_STATE = 1 ∧ t.raw (pgLN l.val) 0 = true ∧ OnlyPages [pgLN l.val] s t) ∧
  (∀ (s : State) (l : Fin 140), isDuplex l.val = true → (s.lane l.val).rx = .locked →
    ∃ t, exec (.signalLoss l) s = .next t ∧ t.bit (pgLN l.val) F.LN_STATUS_SIGDET = false ∧
      t.bit (pgLN l.val) F.LN_STATUS_CDR_LOCK = false ∧ t.bit (pgLN l.val) F.LN_STATUS_PCS_LOCK = false ∧
      (if s.bit (pgLN l.val) F.LN_CFG_IDLE_OK = true
        then t.get (pgLN l.val) F.LN_STATUS_STATE = 3 ∧ (t.lane l.val).rx = .idle ∧ (t.lane l.val).frozen = true ∧
          t.raw (pgLN l.val) 0 = false
        else t.get (pgLN l.val) F.LN_STATUS_STATE = 1 ∧ (t.lane l.val).rx = .waitSig ∧ t.raw (pgLN l.val) 0 = true) ∧
      OnlyPages [pgLN l.val] s t) ∧
  (∀ (s : State) (l : Fin 140), isDuplex l.val = true → (s.lane l.val).rx = .idle →
    ∃ t, exec (.idleStale l) s = .next t ∧ t.get (pgLN l.val) F.LN_STATUS_STATE = 1 ∧ (t.lane l.val).rx = .waitSig ∧
      (t.lane l.val).src = .defaults ∧ t.raw (pgLN l.val) 0 = true ∧ OnlyPages [pgLN l.val] s t)

/-- R80 to R86: pattern test mode, the checker's counts and their snapshot, and the polarity of a blind port receiver. -/
def Obligations.LanePatterns : Prop :=
  (∀ (s : State) (fn : Fn) (l : Fin 140) (w : Word), Reaches s fn.val (pgLN l.val + 0x060) .ln l.val → (s.lane l.val).test = false →
    (s.lane l.val).testEnd = false →
    (s.storeFields .ln l.val fn.val (pgLN l.val + 0x060) (withMode w 1).toNat).2 = true →
    (s.storeFields .ln l.val fn.val (pgLN l.val + 0x060) (withMode w 1).toNat).1.get (pgLN l.val) F.LN_PRBS_CTRL_MODE = 1 →
    ∃ t, exec (.prbsModeTest fn l w) s = .next t ∧ (t.lane l.val).testPend = true ∧
      t.bit (pgLN l.val) F.LN_PRBS_STAT_SYNC = false ∧ OnlyPages [pgLN l.val] s t) ∧
  (∀ (s : State) (l : Fin 140), isDuplex l.val = true → (s.lane l.val).testPend = true → (s.lane l.val).rx = .locked →
    ∃ t, exec (.testEntry l) s = .next t ∧ t.get (pgLN l.val) F.LN_STATUS_STATE = 5 ∧ (t.lane l.val).rx = .test ∧
      (t.lane l.val).test = true ∧ (t.lane l.val).testPend = false ∧ OnlyPages [pgLN l.val, pgUL] s t) ∧
  (∀ (s : State) (fn : Fn) (l : Fin 140) (w : Word), Reaches s fn.val (pgLN l.val + 0x060) .ln l.val →
    (s.storeFields .ln l.val fn.val (pgLN l.val + 0x060) (withMode w 2).toNat).2 = true →
    (s.storeFields .ln l.val fn.val (pgLN l.val + 0x060) (withMode w 2).toNat).1.get (pgLN l.val) F.LN_PRBS_CTRL_MODE = 2 →
    ∃ t, exec (.prbsModeService fn l w) s = .next t ∧ t.bit (pgLN l.val) F.LN_PRBS_STAT_SYNC = true ∧
      (t.lane l.val).test = false ∧ OnlyPages [pgLN l.val] s t) ∧
  (∀ (s : State) (fn : Fn) (l : Fin 140) (w : Word), Reaches s fn.val (pgLN l.val + 0x060) .ln l.val → isDuplex l.val = true →
    (s.lane l.val).test = true → (s.storeFields .ln l.val fn.val (pgLN l.val + 0x060) (withMode w 0).toNat).2 = true →
    (s.storeFields .ln l.val fn.val (pgLN l.val + 0x060) (withMode w 0).toNat).1.get (pgLN l.val) F.LN_PRBS_CTRL_MODE = 0 →
    ∃ t, exec (.prbsModeOff fn l w) s = .next t ∧ t.get (pgLN l.val) F.LN_STATUS_STATE = 1 ∧ (t.lane l.val).rx = .pcs ∧
      (t.lane l.val).test = false ∧ t.bit (pgLN l.val) F.LN_STATUS_PCS_LOCK = false ∧
      t.bit (pgLN l.val) F.LN_PRBS_STAT_SYNC = false ∧ t.raw (pgLN l.val) 0 = true ∧ OnlyPages [pgLN l.val] s t) ∧
  (∀ (s : State) (l : Fin 140) (rx : List Bool), s.checking l.val = true →
    (prbsFits (s.get (pgLN l.val) F.LN_PRBS_CTRL_RXPAT) rx ||
      prbsFits (s.get (pgLN l.val) F.LN_PRBS_CTRL_RXPAT) (rx.map (fun b => !b))) = true →
    ∃ t, exec (.prbsSync l rx) s = .next t ∧ t.bit (pgLN l.val) F.LN_PRBS_STAT_SYNC = true ∧
      (s.bit (pgLN l.val) F.LN_CFG_POL_AUTO = true → t.bit (pgLN l.val) F.LN_STATUS_POL_FIX = (t.lane l.val).inverted ∧
        (t.lane l.val).inverted = prbsFits (s.get (pgLN l.val) F.LN_PRBS_CTRL_RXPAT) (rx.map (fun b => !b))) ∧
      (s.bit (pgLN l.val) F.LN_CFG_POL_AUTO = false → OnlyRegs [pgLN l.val + F.LN_PRBS_STAT_SYNC.off] s t) ∧
      OnlyPages [pgLN l.val] s t) ∧
  (∀ (s : State) (l : Fin 140) (n b e : Nat), s.checking l.val = true → s.bit (pgLN l.val) F.LN_PRBS_STAT_SYNC = true →
    ∃ t, exec (.prbsSyncLoss l n b e) s = .next t ∧ t.bit (pgLN l.val) F.LN_PRBS_STAT_SYNC = false ∧
      t.get (pgLN l.val) F.LN_PRBS_STAT_LOSS = min (s.get (pgLN l.val) F.LN_PRBS_STAT_LOSS + 1) (2 ^ 16 - 1) ∧
      OnlyRegs [pgLN l.val + F.LN_PRBS_STAT_SYNC.off] s t) ∧
  (∀ (s : State) (l : Fin 140) (n b e : Nat), s.bit (pgLN l.val) F.LN_PRBS_STAT_SYNC = true →
    s.bit (pgLN l.val) F.LN_PRBS_STAT_SAT = false →
    ∃ t, exec (.prbsSat l n b e) s = .next t ∧ (t.lane l.val).bits = min ((s.lane l.val).bits + n) (2 ^ 48 - 1) ∧
      (t.lane l.val).berr = min ((s.lane l.val).berr + b) (2 ^ 48 - 1) ∧
      (t.lane l.val).serr = min ((s.lane l.val).serr + e) (2 ^ 48 - 1) ∧
      (t.bit (pgLN l.val) F.LN_PRBS_STAT_SAT = true ↔ (t.lane l.val).bits = 2 ^ 48 - 1 ∨ (t.lane l.val).berr = 2 ^ 48 - 1 ∨
        (t.lane l.val).serr = 2 ^ 48 - 1) ∧ OnlyRegs [pgLN l.val + F.LN_PRBS_STAT_SYNC.off] s t) ∧
  (∀ (s : State) (fn : Fn) (l : Fin 140), Reaches s fn.val (pgLN l.val + 0x068) .ln l.val →
    ∃ t, exec (.prbsSnapshot fn l 0 0 0) s = .next t ∧
      t.get (pgLN l.val) F.LN_PRBS_BITS_LO_COUNT = (t.lane l.val).bits % 2 ^ 32 ∧
      t.get (pgLN l.val) F.LN_PRBS_BITS_HI_COUNT = (t.lane l.val).bits / 2 ^ 32 % 2 ^ 16 ∧
      t.get (pgLN l.val) F.LN_PRBS_BERR_LO_COUNT = (t.lane l.val).berr % 2 ^ 32 ∧
      t.get (pgLN l.val) F.LN_PRBS_SERR_LO_COUNT = (t.lane l.val).serr % 2 ^ 32 ∧
      t.out = .readData fn.val (pgLN l.val + 0x068) (t.reg (pgLN l.val + 0x068)) :: s.out ∧ OnlyPages [pgLN l.val] s t) ∧
  (∀ (s : State) (fn : Fn) (l : Fin 140) (w : Word), Reaches s fn.val (pgLN l.val + 0x060) .ln l.val →
    ∃ t, exec (.prbsClr fn l w) s = .next t ∧ (t.lane l.val).bits = 0 ∧ (t.lane l.val).berr = 0 ∧ (t.lane l.val).serr = 0 ∧
      t.get (pgLN l.val) F.LN_PRBS_STAT_LOSS = 0 ∧ t.bit (pgLN l.val) F.LN_PRBS_STAT_SAT = false ∧ OnlyPages [pgLN l.val] s t) ∧
  (∀ (s : State) (fn : Fn) (l : Fin 140) (w : Word), Reaches s fn.val (pgLN l.val + 0x060) .ln l.val → hasTx l.val = true →
    (s.lane l.val).test = true →
    (s.storeFields .ln l.val fn.val (pgLN l.val + 0x060) (w ||| maskBit 30).toNat).1.get (pgLN l.val) F.LN_PRBS_CTRL_MODE = 1 →
    (s.storeFields .ln l.val fn.val (pgLN l.val + 0x060) (w ||| maskBit 30).toNat).1.get (pgLN l.val) F.LN_PRBS_CTRL_TXPAT ≠ 0 →
    ∃ t, exec (.prbsInj fn l w) s = .next t ∧ t.out.head? = some (.inject l.val) ∧ OnlyPages [pgLN l.val] s t) ∧
  (∀ (s : State) (n : Fin 48), s.bit (pgLN (48 + n.val)) F.LN_CFG_POL_AUTO = true → 4 ≤ (s.lane (48 + n.val)).compRun →
    ∃ t, exec (.prxPolarityFix n) s = .next t ∧
      t.bit (pgLN (48 + n.val)) F.LN_STATUS_POL_FIX = !(s.lane (48 + n.val)).inverted ∧
      (t.lane (48 + n.val)).inverted = !(s.lane (48 + n.val)).inverted ∧ (t.lane (48 + n.val)).compRun = 0 ∧
      t.pends (pgLN (48 + n.val)) 2 = true ∧ OnlyPages [pgLN (48 + n.val)] s t)

/-- R110, R111, R113, R115 to R117, R109: at a boundary the frame's counter follows the nearest target and the error is measured, and
the frame that begins is corrected by it; the first frame starts with no error; a realignment is commanded, refused and applied, and K
is the first superframe boundary at least 16 frames after F; OFS moves the grid. The error is held to whole nanoseconds where it is shown and corrected (log entry 44). -/
def Obligations.FrameBoundaries : Prop :=
  (∀ (s : State) (n : Fin 48) (u : Nat) (o : Int), s.en (pe0 n.val) = true → (s.pe n.val).running = true →
    s.bit (pe0 n.val) F.PE_FB_STATUS_NOFSYNC = false → (s.at u).fbOrigin n.val = some o →
    ∃ t, exec (.frameBoundary n u) s = .next t ∧
      (t.pe n.val).sfc = sfcOf (nearestTarget o ((s.at u).fbT n.val)) (s.pe (s.fbPort n.val)).ofs ∧
      t.get2 (pe0 n.val) F.PE_SFC_LO_SFC F.PE_SFC_HI_SFC = (t.pe n.val).sfc ∧
      (t.pe n.val).e = (s.at u).fbT n.val - nearestTarget o ((s.at u).fbT n.val) ∧
      t.get (pe0 n.val) F.PE_FB_ERR_ERR = ofSigned 18 (roundDiv (t.pe n.val).e tbUnit) ∧
      t.bit (pe0 n.val) F.PE_FB_STATUS_FAR = decide (2000 * tbUnit < (t.pe n.val).e.natAbs) ∧
      (2000 * tbUnit < (t.pe n.val).e.natAbs → s.bit (pe0 n.val) F.PE_FB_STATUS_FAR = false → t.pends (pe0 n.val) 0 = true) ∧
      t.count (pgPE n.val 1) C.DS_FRAMES = (s.count (pgPE n.val 1) C.DS_FRAMES + 1) % 2 ^ 64 ∧
      (t.pe n.val).corr.natAbs = (if s.realignAt n.val = none then min (roundDiv (t.pe n.val).e tbUnit).natAbs
        (s.get (pe0 (s.fbPort n.val)) F.PE_FB_CFG_FS_STEP) else 0) ∧
      (0 < (t.pe n.val).e → (t.pe n.val).corr ≤ 0) ∧ ((t.pe n.val).e ≤ 0 → 0 ≤ (t.pe n.val).corr) ∧
      t.bit (pe0 n.val) F.PE_FB_STATUS_RAMP = decide ((t.pe n.val).corr ≠ 0) ∧
      (t.pe n.val).short = (decide (s.realignAt n.val = some (((t.pe n.val).sfc + 1) % 2 ^ 51)) && decide (0 < (t.pe n.val).e)) ∧
      ((s.lane n.val).tx = .sending → (s.lane n.val).test = false →
        .frame n.val (t.pe n.val).sfc (if (t.pe n.val).short then -(roundDiv (t.pe n.val).e tbUnit) else (t.pe n.val).corr) ∈ t.out)) ∧
  (∀ (s : State) (n : Fin 48) (u : Nat) (o : Int), s.en (pe0 n.val) = true → (s.pe n.val).running = true →
    s.bit (pe0 n.val) F.PE_FB_STATUS_NOFSYNC = true → (s.at u).fbOrigin n.val = some o →
    ∃ t, exec (.frameBoundary n u) s = .next t ∧ (t.pe n.val).e = (s.pe n.val).e ∧ (t.pe n.val).corr = 0 ∧
      (t.pe n.val).sfc = sfcOf (nearestTarget o ((s.at u).fbT n.val)) (s.pe (s.fbPort n.val)).ofs ∧
      t.bit (pe0 n.val) F.PE_FB_STATUS_RAMP = false) ∧
  (∀ (s : State) (n : Fin 48) (u : Nat), s.en (pe0 n.val) = false ∨ (s.pe n.val).running = false →
    exec (.frameBoundary n u) s = .next (s.at u)) ∧
  (∀ (s : State) (n : Fin 48) (u : Nat), s.en (pe0 n.val) = true → (s.pe n.val).waiting = true → (s.pe n.val).running = false →
    (s.pe n.val).needEdge = false → (s.protected_ n.val && decide ((s.at u).now < s.px.droneUntil)) = false →
    ∃ t, exec (.peFirstFrame n u) s = .next t ∧ (t.pe n.val).running = true ∧ (t.pe n.val).waiting = false ∧
      (t.pe n.val).sfc = ((s.pe n.val).sfc + 1) % 2 ^ 51 ∧ (t.pe n.val).e = 0 ∧ (t.pe n.val).corr = 0 ∧ t.get (pe0 n.val) F.PE_FB_ERR_ERR = 0 ∧
      t.get2 (pe0 n.val) F.PE_SFC_LO_SFC F.PE_SFC_HI_SFC = (t.pe n.val).sfc ∧
      ((s.lane n.val).tx = .sending → (s.lane n.val).test = false → .frame n.val (t.pe n.val).sfc 0 ∈ t.out)) ∧
  (∀ (s : State) (fn : Fn) (n : Fin 48), Reaches s fn.val (pe0 n.val + 0x050) (.pe 0) n.val → s.isLegacy n.val = false →
    2000 * tbUnit < (s.pe n.val).e.natAbs → s.bit (pe0 n.val) F.PE_FB_STATUS_NOFSYNC = false → (s.pe n.val).realign = none →
    ∃ t, exec (.realign fn n) s = .next t ∧ (t.pe n.val).realign = some (((s.pe n.val).unsel + 23) / 8 * 8 % 2 ^ 51) ∧
      (t.pe n.val).shorten = roundDiv (s.pe n.val).e tbUnit ∧
      t.bit (pe0 n.val) F.PE_FB_STATUS_REALIGN_PEND = true ∧ t.bit (pe0 n.val) F.PE_FB_STATUS_RAMP = false ∧
      OnlyRegs [pe0 n.val + F.PE_FB_STATUS_RAMP.off] s t) ∧
  (∀ (s : State) (fn : Fn) (n : Fin 48), Reaches s fn.val (pe0 n.val + 0x050) (.pe 0) n.val → s.isLegacy n.val = false →
    (s.pe n.val).e.natAbs ≤ 2000 * tbUnit ∨ s.bit (pe0 n.val) F.PE_FB_STATUS_NOFSYNC = true ∨ (s.pe n.val).realign ≠ none →
    ∃ t, exec (.realign fn n) s = .next t ∧ t.bit (pe0 n.val) F.ST_CFG_REJ = true ∧ t.pes = s.pes ∧
      OnlyRegs [pe0 n.val + 0x00C] s t) ∧
  (∀ (s : State) (fn : Fn) (n : Fin 48), Reaches s fn.val (pe0 n.val + 0x050) (.pe 0) n.val → s.isLegacy n.val = true →
    ∃ t, exec (.realign fn n) s = .next t ∧ t.pes = s.pes ∧ OnlyRegs [] s t) ∧
  (∀ (s : State) (n : Fin 48), (s.pe n.val).realign = some (((s.pe n.val).sfc + 1) % 2 ^ 51) →
    ∃ t, exec (.realignApply n) s = .next t ∧ (t.pe n.val).realign = none ∧ t.bit (pe0 n.val) F.PE_FB_STATUS_REALIGN_PEND = false ∧
      t.count (pgPE n.val 1) C.DS_REALIGNS = min (s.count (pgPE n.val 1) C.DS_REALIGNS + 1) (2 ^ 32 - 1) ∧
      (t.pe n.val).sfc = (s.pe n.val).sfc ∧
      ((s.pe n.val).e < 0 → s.carries n.val = true → .gap n.val (roundDiv (s.pe n.val).e tbUnit).natAbs ∈ t.out) ∧
      OnlyRegs [pe0 n.val + F.PE_FB_STATUS_RAMP.off, pgPE n.val 1 + C.DS_REALIGNS.off] s t) ∧
  (∀ (s : State) (fn : Fn) (n : Fin 48) (w : Word), Reaches s fn.val (pe0 n.val + 0x04C) (.pe 0) n.val →
    ∃ t, exec (.sfcOfsWrite fn n w) s = .next t ∧
      t.get2 (pe0 n.val) F.PE_SFC_OFS_LO_OFS F.PE_SFC_OFS_HI_OFS =
        ((sget none s.staged (pe0 n.val + 0x048)).getD (s.reg (pe0 n.val + 0x048))).toNat + w.toNat * 2 ^ 32 ∧
      (t.pe n.val).ofs = ((t.get2 (pe0 n.val) F.PE_SFC_OFS_LO_OFS F.PE_SFC_OFS_HI_OFS * tbUnit : Nat) : Int) ∧
      t.get (pe0 n.val) F.GEN_COUNT = (s.get (pe0 n.val) F.GEN_COUNT + 1) % 2 ^ 32 ∧
      OnlyRegs ([pe0 n.val + 0x048, pe0 n.val + 0x04C] ++ cfgWords (pe0 n.val)) s t)

/-- R92, R94, R96, R101: the messages of a frame are selected in their order and within PLOAM_MAX; its header takes the map that
was sealed for it; a codeword takes a whole packet, a first fragment, or nothing but drone. -/
def Obligations.FrameContent : Prop :=
  (∀ (s : State) (n : Fin 48), s.peUp n.val = true → (s.pe n.val).selDone = false →
    ∃ t, exec (.ploamSelect n) s = .next t ∧ (t.pe n.val).selDone = true ∧
      (t.pe n.val).sel.length ≤ max (s.get (pe0 n.val) F.PE_DS_CFG_PLOAM_MAX) (s.keptSel n.val).length ∧
      (s.keptSel n.val ++ (s.vendorDue n.val (s.pe n.val).next).take (s.get (pe0 n.val) F.PE_DS_CFG_PLOAM_MAX -
        (s.keptSel n.val).length)).isPrefixOf (t.pe n.val).sel = true) ∧
  (∀ (s : State) (n : Fin 48) (m : GMap), s.peUp n.val = true → (s.gp n.val).sealed_ = some m → m.sfc = (s.pe n.val).next →
    ∃ t, exec (.headerAssemble n) s = .next t ∧ (t.pe n.val).hdr = some (m, (s.pe n.val).sel) ∧ OnlyRegs [] s t) ∧
  (∀ (s : State) (n : Fin 48), s.peUp n.val = true →
    (s.gp n.val).sealed_.all (fun m => decide (m.sfc ≠ (s.pe n.val).next)) = true →
    ∃ t, exec (.headerAssemble n) s = .next t ∧ (t.pe n.val).hdr = some ({ sfc := (s.pe n.val).next }, (s.pe n.val).sel) ∧
      OnlyRegs [] s t) ∧
  (∀ (s : State) (n : Fin 48) (c : Fin 627) (k h : Nat) (i : EncItem) (r : List EncItem), s.en (pe0 n.val) = true →
    (s.pe n.val).running = true → (s.pe n.val).short = false → c.val < s.cwCount n.val → (s.pe n.val).prog = 0 →
    (s.pe n.val).cont = none → (s.pe n.val).ce = [] → nextOmci n.val 64 s = (none, s) → (s.pe n.val).enc = i :: r →
    i.handle = some h → s.pktPoisoned h = false → s.pxShadow n.val = false → 1 ≤ s.readIn n.val → k = 1 → s.cwCap n.val c.val ≤ xgemBytes i.len →
    xgemBytes i.len ≤ s.cwCap n.val c.val + s.capAfter n.val c.val →
    ∃ t, exec (.codewordFill n c k) s = .next t ∧ (t.pe n.val).enc = r ∧
      (s.carries n.val = true → s.xgemFrame n.val i.xgem i.len 1 (s.frameCap n.val - (s.cwCap n.val c.val + s.capAfter n.val c.val))
        (s.itemBytes i) ∈ t.out) ∧
      (t.pe n.val).prog = xgemBytes i.len - s.cwCap n.val c.val ∧
      t.count (pgPE n.val 1) C.DS_PKTS = (s.count (pgPE n.val 1) C.DS_PKTS + 1) % 2 ^ 32 ∧
      t.count (pgPE n.val 1) C.DS_BYTES = (s.count (pgPE n.val 1) C.DS_BYTES + i.len) % 2 ^ 64) ∧
  (∀ (s : State) (n : Fin 48) (c : Fin 627) (k h : Nat) (i : EncItem) (r : List EncItem), s.en (pe0 n.val) = true →
    (s.pe n.val).running = true → (s.pe n.val).short = false → c.val < s.cwCount n.val → (s.pe n.val).prog = 0 →
    (s.pe n.val).cont = none → (s.pe n.val).ce = [] → nextOmci n.val 64 s = (none, s) → (s.pe n.val).enc = i :: r →
    i.handle = some h → s.pktPoisoned h = false → s.pxShadow n.val = false → 1 ≤ s.readIn n.val → 1 ≤ k →
    s.cwCap n.val c.val + s.capAfter n.val c.val < xgemBytes i.len → 16 ≤ s.cwCap n.val c.val →
    ∃ t, exec (.codewordFill n c k) s = .next t ∧ (t.pe n.val).enc = r ∧
      (t.pe n.val).cont = some (i, s.cwCap n.val c.val + s.capAfter n.val c.val - 8) ∧
      (s.carries n.val = true → s.xgemFrame n.val i.xgem (s.cwCap n.val c.val + s.capAfter n.val c.val - 8) 0
        (s.frameCap n.val - (s.cwCap n.val c.val + s.capAfter n.val c.val))
        ((s.itemBytes i).take (s.cwCap n.val c.val + s.capAfter n.val c.val - 8)) ∈ t.out) ∧
      t.count (pgPE n.val 1) C.DS_FRAGS = (s.count (pgPE n.val 1) C.DS_FRAGS + 1) % 2 ^ 32 ∧
      t.count (pgPE n.val 1) C.DS_PKTS = s.count (pgPE n.val 1) C.DS_PKTS) ∧
  (∀ (s : State) (n : Fin 48) (c : Fin 627) (k : Nat), s.en (pe0 n.val) = true → (s.pe n.val).running = true →
    (s.pe n.val).short = false → c.val < s.cwCount n.val → (s.pe n.val).prog = 0 → (s.pe n.val).cont = none →
    (s.pe n.val).ce = [] → nextOmci n.val 64 s = (none, s) → (s.pe n.val).enc = [] →
    ∃ t, exec (.codewordFill n c k) s = .next t ∧ t.out = s.out ∧
      t.count (pgPE n.val 1) C.DS_CW_IDLE = (s.count (pgPE n.val 1) C.DS_CW_IDLE + 1) % 2 ^ 32 ∧
      t.count (pgPE n.val 1) C.DS_CW_STD = (s.count (pgPE n.val 1) C.DS_CW_STD +
        if s.isLegacy n.val = false ∧ 1824 < s.cwCap n.val c.val then 0 else 1) % 2 ^ 32 ∧
      OnlyPages [pgPE n.val 1] s t)

/-- R98, R99, R107, R108: keys are loaded, scheduled, deleted and refused; a start of the lean zone commits, waits or is refused; the
zone opens and closes at its targets. -/
def Obligations.KeysAndLeanZone : Prop :=
  (∀ (s : State) (fn : Fn) (n : Fin 48) (w : Word) (c : Nat), Reaches s fn.val (pgPE n.val 3 + 0x044) (.pe 3) n.val →
    s.get (pgPE n.val 3) F.TBL_ADDR_INDEX = c → c ≤ 512 → s.locked (pgPE n.val 3) = false → w.toNat.testBit 16 = false →
    eget (s.keyEnt n.val c) kPEND = 0 → (s.get (pgPE n.val 3) (F.TBL_DATA_DATA.ix 4)).testBit 30 = false →
    ∃ t, exec (.keyLoad fn n w) s = .next t ∧ t.tblEnds (pgPE n.val 3) 0 c ∧
      sget 0 t.keys (keySlot n.val c (1 - eget (s.keyEnt n.val c) kACTIVE)) = (s.winData (pgPE n.val 3)).toNat % 2 ^ 128 + 1 ∧
      eget (t.keyEnt n.val c) kNEXT = 1 ∧ eget (t.keyEnt n.val c) kACTIVE = eget (s.keyEnt n.val c) kACTIVE ∧
      sget 0 t.keys (keySlot n.val c (eget (s.keyEnt n.val c) kACTIVE)) = sget 0 s.keys (keySlot n.val c (eget (s.keyEnt n.val c) kACTIVE)) ∧
      (∀ a, a ∉ winWords (pgPE n.val 3) ++ [pgPE n.val 3 + 0x040] → t.reg a = s.reg a)) ∧
  (∀ (s : State) (fn : Fn) (n : Fin 48) (w : Word) (c : Nat), Reaches s fn.val (pgPE n.val 3 + 0x044) (.pe 3) n.val →
    s.get (pgPE n.val 3) F.TBL_ADDR_INDEX = c → c ≤ 512 → s.locked (pgPE n.val 3) = false → w.toNat.testBit 16 = false →
    eget (s.keyEnt n.val c) kPEND = 1 →
    ∃ t, exec (.keyLoad fn n w) s = .next t ∧ t.tblEnds (pgPE n.val 3) 7 c ∧ t.keys = s.keys ∧
      t.bit (pgPE n.val 3) F.ST_CFG_REJ = true ∧ OnlyRegs (winWords (pgPE n.val 3) ++ [pgPE n.val 3 + 0x040]) s t) ∧
  (∀ (s : State) (fn : Fn) (n : Fin 48) (w : Word) (c : Nat), Reaches s fn.val (pgPE n.val 3 + 0x044) (.pe 3) n.val →
    s.get (pgPE n.val 3) F.TBL_ADDR_INDEX = c → c ≤ 512 → s.locked (pgPE n.val 3) = false → w.toNat.testBit 16 = false →
    (s.get (pgPE n.val 3) (F.TBL_DATA_DATA.ix 4)).testBit 31 = false → eget (s.keyEnt n.val c) kNEXT = 1 →
    swSfc (s.winData (pgPE n.val 3)) % 8 = 0 → 2 ≤ sfcDiff (swSfc (s.winData (pgPE n.val 3))) (s.pe n.val).unsel →
    sfcDiff (swSfc (s.winData (pgPE n.val 3))) (s.pe n.val).unsel ≤ 2 ^ 31 →
    ∃ t, exec (.keySched fn n w) s = .next t ∧ t.tblEnds (pgPE n.val 3) 0 c ∧ eget (t.keyEnt n.val c) kPEND = 1 ∧
      swSfc (t.keyEnt n.val c) = swSfc (s.winData (pgPE n.val 3)) ∧
      eget (t.keyEnt n.val c) kACTIVE = eget (s.keyEnt n.val c) kACTIVE ∧ t.keys = s.keys ∧
      (∀ a, a ∉ winWords (pgPE n.val 3) ++ [pgPE n.val 3 + 0x040] → t.reg a = s.reg a)) ∧
  (∀ (s : State) (fn : Fn) (n : Fin 48) (w : Word) (c : Nat), Reaches s fn.val (pgPE n.val 3 + 0x044) (.pe 3) n.val →
    s.get (pgPE n.val 3) F.TBL_ADDR_INDEX = c → c ≤ 512 → s.locked (pgPE n.val 3) = false → w.toNat.testBit 16 = false →
    ∃ t, exec (.keyDelete fn n w) s = .next t ∧ t.tblEnds (pgPE n.val 3) 0 c ∧ t.keyEnt n.val c = 0 ∧
      t.hasKey n.val c 0 = false ∧ t.hasKey n.val c 1 = false ∧
      (∀ a, a ∉ winWords (pgPE n.val 3) ++ [pgPE n.val 3 + 0x040] → t.reg a = s.reg a)) ∧
  (∀ (s : State) (fn : Fn) (n : Fin 48) (w : Word), Reaches s fn.val (lzAddr n.val) (.pe 0) n.val → s.isLegacy n.val = false →
    3 ≤ w.toNat % 512 → w.toNat % 512 ≤ 359 → (s.pe n.val).notice = none → (s.pe n.val).close = none →
    ∃ t, exec (.lzStartWrite fn n w) s = .next t ∧
      (s.bit (pe0 n.val) F.PE_LZ_STATUS_OPEN = false → (t.reg (lzAddr n.val)).toNat = w.toNat % 512 ∧
        t.get (pe0 n.val) F.PE_LZ_STATUS_CUR = w.toNat % 512 ∧ (t.pe n.val).notice = none) ∧
      (s.bit (pe0 n.val) F.PE_LZ_STATUS_OPEN = true → t.reg (lzAddr n.val) = s.reg (lzAddr n.val) ∧
        t.stagedStart n.val = some (BitVec.ofNat 32 (w.toNat % 512)) ∧
        (t.pe n.val).notice = some (((s.pe n.val).unsel + 23) / 8 * 8 % 2 ^ 51)) ∧
      OnlyRegs ([lzAddr n.val, pe0 n.val + F.PE_LZ_STATUS_CUR.off] ++ cfgWords (pe0 n.val)) s t) ∧
  (∀ (s : State) (fn : Fn) (n : Fin 48) (w : Word), Reaches s fn.val (lzAddr n.val) (.pe 0) n.val → s.isLegacy n.val = false →
    w.toNat % 512 < 3 ∨ 359 < w.toNat % 512 ∨ (s.pe n.val).notice ≠ none →
    ∃ t, exec (.lzStartWrite fn n w) s = .next t ∧ t.bit (pe0 n.val) F.ST_CFG_REJ = true ∧ OnlyRegs [pe0 n.val + 0x00C] s t) ∧
  (∀ (s : State) (n : Fin 48) (k : Nat), (s.pe n.val).notice = some k → passed (s.pe n.val).sfc k = true →
    ∃ t, exec (.lzOpened n) s = .next t ∧ (t.pe n.val).notice = none ∧ t.bit (pe0 n.val) F.PE_LZ_STATUS_OPEN = true ∧
      t.stagedStart n.val = none ∧
      (s.bit (pe0 n.val) F.PE_LZ_STATUS_OPEN = false → t.pends (pe0 n.val) 4 = true) ∧
      (s.bit (pe0 n.val) F.PE_LZ_STATUS_OPEN = true → t.pends (pe0 n.val) 4 = s.pends (pe0 n.val) 4) ∧ OnlyPages [pe0 n.val] s t) ∧
  (∀ (s : State) (n : Fin 48) (k : Nat), (s.pe n.val).close = some k → passed (s.pe n.val).sfc k = true →
    ∃ t, exec (.lzClosed n) s = .next t ∧ (t.pe n.val).close = none ∧ t.bit (pe0 n.val) F.PE_LZ_STATUS_OPEN = false ∧
      (t.pe n.val).holdFrom = some k ∧ t.pends (pe0 n.val) 3 = true ∧ t.stagedStart n.val = none ∧
      t.count (pgPE n.val 1) C.DS_LZ_CLOSES = min (s.count (pgPE n.val 1) C.DS_LZ_CLOSES + 1) (2 ^ 32 - 1) ∧
      OnlyPages [pe0 n.val, pgPE n.val 1] s t)

/-- R99: what refuses a WRITE on the key table, by its own row and by TBL_WRITE, and what a refusal leaves. -/
def Obligations.KeyWriteRefused : Prop :=
  (∀ (s : State) (fn : Fn) (p : BitVec 12) (w : Word) (n c : Nat), Reaches s fn.val (pageBase p + 0x044) (.pe 3) n →
    s.get (pageBase p) F.TBL_ADDR_TID = 0 → s.get (pageBase p) F.TBL_ADDR_INDEX = c → c ≤ 512 → s.locked (pageBase p) = false →
    (eget (s.winData (pageBase p)) kLOAD = 1 ∧ eget (s.keyEnt n c) kPEND = 1) ∨
      (eget (s.winData (pageBase p)) kSCHED = 1 ∧ swSfc (s.winData (pageBase p)) % 8 ≠ 0) ∨
      (eget (s.winData (pageBase p)) kSCHED = 1 ∧ (sfcDiff (swSfc (s.winData (pageBase p))) (s.pe n).unsel < 2 ∨
        2 ^ 31 < sfcDiff (swSfc (s.winData (pageBase p))) (s.pe n).unsel)) ∨
      (eget (s.winData (pageBase p)) kSCHED = 1 ∧ eget (s.keyEnt n c) kNEXT = 0 ∧ eget (s.winData (pageBase p)) kLOAD = 0) →
    ∃ t, exec (.tblWrite fn p w) s = .next t ∧ t.tblEnds (pageBase p) 7 c ∧ t.bit (pageBase p) F.ST_CFG_REJ = true ∧ t.keys = s.keys ∧
      OnlyRegs [pageBase p + 0x00C, pageBase p + 0x044, pageBase p + 0x048] s t) ∧
  (∀ (s : State) (fn : Fn) (n : Fin 48) (w : Word) (c : Nat), Reaches s fn.val (pgPE n.val 3 + 0x044) (.pe 3) n.val →
    s.get (pgPE n.val 3) F.TBL_ADDR_INDEX = c → c ≤ 512 → s.locked (pgPE n.val 3) = false → w.toNat.testBit 16 = false →
    eget (s.winData (pgPE n.val 3)) kLOAD = 0 →
    swSfc (s.winData (pgPE n.val 3)) % 8 ≠ 0 ∨ sfcDiff (swSfc (s.winData (pgPE n.val 3))) (s.pe n.val).unsel < 2 ∨
      2 ^ 31 < sfcDiff (swSfc (s.winData (pgPE n.val 3))) (s.pe n.val).unsel ∨ eget (s.keyEnt n.val c) kNEXT = 0 →
    ∃ t, exec (.keySched fn n w) s = .next t ∧ t.tblEnds (pgPE n.val 3) 7 c ∧ t.bit (pgPE n.val 3) F.ST_CFG_REJ = true ∧ t.keys = s.keys ∧
      t.tabs = s.tabs ∧ (∀ a, a ∉ winWords (pgPE n.val 3) ++ [pgPE n.val 3 + 0x040] → t.reg a = s.reg a))

/-- R125, R128 to R134: reset pulses, and how a burst window ends: missing, without a delimiter, for another terminal, or received;
a receiver in TEST finds nothing; light in a guard is counted. The offset d is the nearest 1/64 ns (log entry 139). -/
def Obligations.BurstWindows : Prop :=
  (∀ (s : State) (n : Fin 48) (a x : Int), s.nextPulse n.val = some (a, x, none) →
    ∃ t, exec (.brstRstPulse n) s = .next t ∧
      (t.pe n.val).wins = replaceFirst (fun w => !w.pulsed) (fun w => { w with pulsed := true }) (s.pe n.val).wins ∧
      (t.pe n.val).quiet = (s.pe n.val).quiet ∧
      t.out = (if s.pinShort n.val 1 then s.out else .pulse n.val x (s.get (pgPE n.val 4) F.PE_US_RST_W) :: s.out) ∧ OnlyRegs [] s t) ∧
  (∀ (s : State) (n : Fin 48) (a x : Int) (q : QGrant × Int), s.nextPulse n.val = some (a, x, some q) →
    ∃ t, exec (.brstRstPulse n) s = .next t ∧ (t.pe n.val).quiet = (s.pe n.val).quiet.erase q ∧ (t.pe n.val).wins = (s.pe n.val).wins ∧
      t.out = (if s.pinShort n.val 1 then s.out else .pulse n.val x (s.get (pgPE n.val 4) F.PE_US_RST_W) :: s.out) ∧ OnlyRegs [] s t) ∧
  (∀ (s : State) (n : Fin 48), s.nextPulse n.val = none → exec (.brstRstPulse n) s = .next s) ∧
  (∀ (s : State) (n : Fin 48) (sig cp : Bool) (found : List DelimMatch) (u : Nat) (w : Win) (r : List Win), (s.pe n.val).wins = w :: r →
    s.measuring n.val = false → (s.lane (48 + n.val)).rx ≠ .test → found.any (fun m => s.isMatch n.val w.burst m && m.hec) = false →
    ∃ t, exec (.burstWindowEnd n sig found cp u) s = .next t ∧ (t.pe n.val).wins = r ∧ (t.pe n.val).rx = (s.pe n.val).rx ∧
      (sig = false → t.count (pgPE n.val 5) C.US_MISSING = min (s.count (pgPE n.val 5) C.US_MISSING + 1) (2 ^ 32 - 1) ∧
        t.count (pgPE n.val 5) C.US_NO_DELIM = s.count (pgPE n.val 5) C.US_NO_DELIM) ∧
      (sig = true → t.count (pgPE n.val 5) C.US_NO_DELIM = min (s.count (pgPE n.val 5) C.US_NO_DELIM + 1) (2 ^ 32 - 1) ∧
        t.count (pgPE n.val 5) C.US_MISSING = s.count (pgPE n.val 5) C.US_MISSING) ∧
      t.count (pgPE n.val 5) C.US_FALSE_DELIM = min (s.count (pgPE n.val 5) C.US_FALSE_DELIM +
        (found.filter (fun m => s.isMatch n.val w.burst m)).length) (2 ^ 32 - 1)) ∧
  (∀ (s : State) (n : Fin 48) (sig cp : Bool) (found : List DelimMatch) (u : Nat) (w : Win) (r : List Win) (m : DelimMatch),
    (s.pe n.val).wins = w :: r → s.measuring n.val = false → (s.lane (48 + n.val)).rx ≠ .test →
    found.find? (fun m => s.isMatch n.val w.burst m && m.hec) = some m → m.onu ≠ s.onuId n.val w.burst.onu →
    ∃ t, exec (.burstWindowEnd n sig found cp u) s = .next t ∧ (t.pe n.val).wins = r ∧ (t.pe n.val).rx = (s.pe n.val).rx ∧
      t.count (pgPE n.val 5) C.US_ID_MISMATCH = min (s.count (pgPE n.val 5) C.US_ID_MISMATCH + 1) (2 ^ 32 - 1)) ∧
  (∀ (s : State) (n : Fin 48) (sig cp : Bool) (found : List DelimMatch) (u : Nat) (w : Win) (r : List Win) (m : DelimMatch),
    (s.pe n.val).wins = w :: r → s.measuring n.val = false → (s.lane (48 + n.val)).rx ≠ .test →
    found.find? (fun m => s.isMatch n.val w.burst m && m.hec) = some m → m.onu = s.onuId n.val w.burst.onu →
    ∃ t, exec (.burstWindowEnd n sig found cp u) s = .next t ∧ (t.pe n.val).wins = r ∧
      (t.pe n.val).rx.map (fun b => (b.win, b.d, b.q, b.decoded)) =
        (s.pe n.val).rx.map (fun b => (b.win, b.d, b.q, b.decoded)) ++ [(w, s.dOf n.val w.burst m, m.errs, false)] ∧
      t.count (pgPE n.val 5) C.US_DRIFT = min (s.count (pgPE n.val 5) C.US_DRIFT +
        if s.get (pgPE n.val 4) F.PE_US_CFG_DRIFT * qUnit < (s.after n.val w.burst m).natAbs then 1 else 0) (2 ^ 32 - 1) ∧
      t.count (pgPE n.val 5) C.US_MISSING = s.count (pgPE n.val 5) C.US_MISSING ∧
      t.count (pgPE n.val 5) C.US_NO_DELIM = s.count (pgPE n.val 5) C.US_NO_DELIM) ∧
  (∀ (s : State) (n : Fin 48) (sig cp : Bool) (found : List DelimMatch) (u : Nat) (w : Win) (r : List Win),
    (s.pe n.val).wins = w :: r → (s.lane (48 + n.val)).rx = .test →
    ∃ t, exec (.burstWindowEnd n sig found cp u) s = .next t ∧ (t.pe n.val).wins = r ∧ (t.pe n.val).rx = (s.pe n.val).rx ∧
      t.count (pgPE n.val 5) C.US_MISSING = min (s.count (pgPE n.val 5) C.US_MISSING + 1) (2 ^ 32 - 1)) ∧
  (∀ (s : State) (n : Fin 48) (sig cp : Bool) (found : List DelimMatch) (u : Nat), (s.pe n.val).wins = [] →
    exec (.burstWindowEnd n sig found cp u) s = .next (s.at u)) ∧
  (∀ (s : State) (n : Fin 48) (w : Win) (r : List Win), (s.pe n.val).wins = w :: r → w.gap = true →
    ∃ t, exec (.guardLight n) s = .next t ∧ (t.pe n.val).wins = { w with gap := false } :: r ∧
      t.get (pgPE n.val 4) F.PE_US_STATUS_GL_ONU = w.burst.onu % 512 ∧
      t.count (pgPE n.val 5) C.US_GUARD_LIGHT = min (s.count (pgPE n.val 5) C.US_GUARD_LIGHT + 1) (2 ^ 32 - 1) ∧
      OnlyRegs [pgPE n.val 5 + C.US_GUARD_LIGHT.off, pgPE n.val 4 + F.PE_US_STATUS_GL_ONU.off] s t) ∧
  (∀ (s : State) (n : Fin 48), (s.pe n.val).wins.head?.all (fun w => !w.gap) = true → exec (.guardLight n) s = .next s)

/-- R135, R138 to R142: a received burst is decoded and its packets pass on, a partial packet times out, a burst is scored, and its
power is sampled. -/
def Obligations.BurstData : Prop :=
  (∀ (s : State) (n : Fin 48) (d : DecodeStats) (iv : List UsInterval) (pl : Option UsPloam) (b : RxBurst),
    (s.pe n.val).rx.find? (fun b => !b.decoded) = some b →
    ∃ t, exec (.burstDecode n d iv pl) s = .next t ∧
      (t.pe n.val).rx.map (fun b => b.win) = (s.pe n.val).rx.map (fun b => b.win) ∧
      ((t.pe n.val).rx.filter (fun b => !b.decoded)).length + 1 = ((s.pe n.val).rx.filter (fun b => !b.decoded)).length ∧
      t.count (pgPE n.val 5) C.US_CW = (s.count (pgPE n.val 5) C.US_CW + d.cw) % 2 ^ 32 ∧
      t.count (pgPE n.val 5) C.US_CW_CORR = (s.count (pgPE n.val 5) C.US_CW_CORR + d.corrCw) % 2 ^ 32 ∧
      t.count (pgPE n.val 5) C.US_SYM_CORR = (s.count (pgPE n.val 5) C.US_SYM_CORR + d.corr) % 2 ^ 64 ∧
      t.count (pgPE n.val 5) C.US_CW_UNCORR = min (s.count (pgPE n.val 5) C.US_CW_UNCORR + d.uncorr) (2 ^ 32 - 1)) ∧
  (∀ (s : State) (n : Fin 48) (d : DecodeStats) (id : BitVec 16) (data : List Byte) (k : Nat) (b : RxBurst) (a : Alc) (i : Nat) (e : Entry),
    (s.pe n.val).rx.find? (fun b => !b.decoded) = some b → b.win.burst.allocs = [a] → a.dbru = false → b.win.burst.fixed = false →
    s.findXgem n.val id.toNat = some (i, e) → eget e xUS = 1 → eget e xONU = b.win.burst.onu → eget e xOMCC = 0 → eget e xENCREQ = 0 →
    s.permits n.val b.win.burst.onu false = true → s.cktOfXgem n.val id.toNat = none → sget none (s.pe n.val).parts id.toNat = none →
    data.length ≤ s.get (pgPE n.val 4) F.PE_US_CFG_MAX_PKT → s.bit (pgLK 0) F.PAGE_QUIESCE = false → s.en (pgLK 0) = true →
    s.bit (pgLK 0) F.ST_READY = true →
    ∃ t, exec (.burstDecode n d [{ dbru := none, items := [.frame id 0 true data k] }] none) s = .next t ∧
      (t.lookups.map (fun x => (x.src, x.xgem, x.bytes, x.sfc))) =
        (s.lookups.map (fun x => (x.src, x.xgem, x.bytes, x.sfc))) ++ [(n.val, id.toNat, data, b.win.sfc)] ∧
      t.count (pgPE n.val 5) C.US_PKTS = (s.count (pgPE n.val 5) C.US_PKTS + 1) % 2 ^ 32 ∧
      t.count (pgPE n.val 5) C.US_BYTES = (s.count (pgPE n.val 5) C.US_BYTES + data.length) % 2 ^ 64) ∧
  (∀ (s : State) (n : Fin 48) (d : DecodeStats) (id : BitVec 16) (data : List Byte) (k : Nat) (b : RxBurst) (a : Alc),
    (s.pe n.val).rx.find? (fun b => !b.decoded) = some b → b.win.burst.allocs = [a] → a.dbru = false → b.win.burst.fixed = false →
    s.findXgem n.val id.toNat = none →
    ∃ t, exec (.burstDecode n d [{ dbru := none, items := [.frame id 0 true data k] }] none) s = .next t ∧ t.lookups = s.lookups ∧
      t.count (pgPE n.val 5) C.US_XGEM_UNKNOWN = min (s.count (pgPE n.val 5) C.US_XGEM_UNKNOWN + 1) (2 ^ 32 - 1)) ∧
  (∀ (s : State) (n : Fin 48) (id : BitVec 16) (x : Part), sget none (s.pe n.val).parts id.toNat = some x →
    s.get (pgPE n.val 4) F.PE_US_REASM_FR ≤ sfcDiff (s.pe n.val).sfc x.sfc →
    ∃ t, exec (.reasmTimeout n id) s = .next t ∧ sget none (t.pe n.val).parts id.toNat = none ∧
      t.count (pgPE n.val 5) C.US_REASM_DROP = min (s.count (pgPE n.val 5) C.US_REASM_DROP + 1) (2 ^ 32 - 1) ∧
      (∀ a, a ∉ [pgPE n.val 5 + C.US_REASM_DROP.off] → t.reg a = s.reg a)) ∧
  (∀ (s : State) (n : Fin 48) (bip u c : Nat) (b : RxBurst), (s.pe n.val).rx.find? (fun b => b.decoded) = some b →
    b.win.burst.onu = c → c < 512 →
    ∃ t, exec (.burstScore n bip u) s = .next t ∧ (t.pe n.val).rx = (s.pe n.val).rx.eraseP (fun b => b.decoded) ∧
      t.getE (pgPE n.val 6) 0 c ⟨6, 15, 8⟩ = (if 0 < b.uncorr then 4 else 0) ∧ t.getE (pgPE n.val 6) 0 c ⟨6, 31, 16⟩ = ofSigned 16 b.d ∧
      t.getE (pgPE n.val 6) 0 c ⟨6, 7, 0⟩ = b.q % 256 ∧ (t.cx n.val c).lob = 0 ∧
      t.count (pgPE n.val 5) C.US_RECEIVED = (s.count (pgPE n.val 5) C.US_RECEIVED + 1) % 2 ^ 32 ∧
      t.count (pgPE n.val 5) C.US_BIP_ERR = min (s.count (pgPE n.val 5) C.US_BIP_ERR + bip) (2 ^ 32 - 1)) ∧
  (∀ (s : State) (n : Fin 48) (c : Nat) (w : Win) (ok : Bool), s.rssiChosen n.val = some c → (s.pe n.val).lastWin = some (w, ok) →
    s.usWin n.val ≤ 4 * s.get (pgPE n.val 4) F.PE_RSSI_CFG_DLY → w.burst.onu = c → s.rssiFits n.val w.burst = true →
    (s.pe n.val).rssiDone = false → (s.pe n.val).rssiWait = none →
    ∃ t, exec (.rssiTrig n) s = .next t ∧ t.get (pgPE n.val 4) F.PE_RSSI_STAT_ONU = c % 512 ∧
      t.bit (pgPE n.val 4) F.PE_RSSI_STAT_BUSY = true ∧ (t.pe n.val).rssiWait = some (c, some ok) ∧
      t.get (pgPE n.val 4) F.PE_RSSI_STAT_COUNT = (s.get (pgPE n.val 4) F.PE_RSSI_STAT_COUNT + 1) % 2 ^ 16 ∧
      t.out = (if s.pinShort n.val 2 then s.out else .rssi n.val (s.hdrAt n.val w.burst +
        ((4 * s.get (pgPE n.val 4) F.PE_RSSI_CFG_DLY * qUnit : Nat) : Int)) (4 * s.get (pgPE n.val 4) F.PE_RSSI_CFG_W) :: s.out) ∧
      OnlyRegs [pgPE n.val 4 + F.PE_RSSI_STAT_ONU.off] s t) ∧
  (∀ (s : State) (n : Fin 48) (c : Nat) (w : Win) (r : List Win), s.rssiChosen n.val = some c → (s.pe n.val).wins = w :: r →
    4 * s.get (pgPE n.val 4) F.PE_RSSI_CFG_DLY < s.usWin n.val → w.burst.onu = c → s.rssiFits n.val w.burst = true →
    (s.pe n.val).rssiDone = false → (s.pe n.val).rssiWait = none →
    ∃ t, exec (.rssiTrig n) s = .next t ∧ t.get (pgPE n.val 4) F.PE_RSSI_STAT_ONU = c % 512 ∧
      t.bit (pgPE n.val 4) F.PE_RSSI_STAT_BUSY = true ∧ (t.pe n.val).rssiWait = some (c, none) ∧
      OnlyRegs [pgPE n.val 4 + F.PE_RSSI_STAT_ONU.off] s t) ∧
  (∀ (s : State) (n : Fin 48), s.rssiChosen n.val = none ∨ (s.pe n.val).rssiDone = true ∨ (s.pe n.val).rssiWait ≠ none →
    exec (.rssiTrig n) s = .next s ∧ exec (.rssiSkip n) s = .next s) ∧
  (∀ (s : State) (n : Fin 48) (c : Nat), s.rssiChosen n.val = some c → (s.pe n.val).rssiDone = false → (s.pe n.val).rssiWait = none →
    s.get (pgPE n.val 4) F.PE_RSSI_CFG_PER ≤ (s.pe n.val).rssiFrames →
    ∃ t, exec (.rssiSkip n) s = .next t ∧ (t.pe n.val).rssiNext = c + 1 ∧ (t.pe n.val).rssiFrames = 0 ∧
      t.count (pgPE n.val 5) C.US_RSSI_SKIP = min (s.count (pgPE n.val 5) C.US_RSSI_SKIP + 1) (2 ^ 32 - 1) ∧
      OnlyRegs [pgPE n.val 5 + C.US_RSSI_SKIP.off] s t) ∧
  (∀ (s : State) (n : Fin 48) (c : Nat) (v : BitVec 16), (s.pe n.val).rssiWait = some (c, some true) → s.cageSkipped n.val = false →
    s.pinShort n.val 2 = false →
    ∃ t, exec (.rssiFetch n v false) s = .next t ∧ (t.pe n.val).rssiWait = none ∧ t.bit (pgPE n.val 4) F.PE_RSSI_STAT_BUSY = false ∧
      t.getE (pgPE n.val 6) 0 c ⟨7, 15, 0⟩ = v.toNat ∧ t.getE (pgPE n.val 6) 0 c ⟨7, 16, 16⟩ = 1 ∧
      (∀ a, a ∉ [pgPE n.val 4 + F.PE_RSSI_STAT_BUSY.off] → t.reg a = s.reg a)) ∧
  (∀ (s : State) (n : Fin 48) (c : Nat) (g : Option Bool) (v : BitVec 16) (late : Bool), (s.pe n.val).rssiWait = some (c, g) →
    g ≠ some true ∨ late = true ∨ s.cageSkipped n.val = true ∨ s.pinShort n.val 2 = true →
    ∃ t, exec (.rssiFetch n v late) s = .next t ∧ (t.pe n.val).rssiWait = none ∧ t.bit (pgPE n.val 4) F.PE_RSSI_STAT_BUSY = false ∧
      t.count (pgPE n.val 5) C.US_RSSI_SKIP = min (s.count (pgPE n.val 5) C.US_RSSI_SKIP + 1) (2 ^ 32 - 1) ∧ t.tabs = s.tabs)

/-- R152, R154: what a serial-number response leads to. -/
def Obligations.SerialNumbers : Prop :=
  (∀ (s : State) (n : Fin 48) (sn : BitVec 64) (x u i : Nat) (msg : List Byte) (w : SnWin) (e : Entry),
    s.snOpen n.val x = some w → sn.toNat ∉ w.seen → s.findSn n.val sn.toNat = some (i, e) → eget e aDIS = 0 →
    s.st n.val (eget e aCTX) = 0 →
    ∃ t, exec (.snResponse n sn x msg u) s = .next t ∧ t.st n.val (eget e aCTX) = 1 ∧ t.onuId n.val (eget e aCTX) = eget e aONU ∧
      { msg := .assign (eget e aCTX) (eget e aONU) sn.toNat, copies := 3 } ∈ (t.pe n.val).seq ∧
      (t.cx n.val (eget e aCTX)).x = x ∧ (t.pe n.val).snWin = some { w with seen := sn.toNat :: w.seen } ∧
      t.count (pgPE n.val 7) C.ACT_SN_RX = (s.count (pgPE n.val 7) C.ACT_SN_RX + 1) % 2 ^ 32) ∧
  (∀ (s : State) (n : Fin 48) (sn : BitVec 64) (x u : Nat) (msg : List Byte) (w : SnWin), s.snOpen n.val x = some w →
    sn.toNat ∈ w.seen →
    ∃ t, exec (.snResponse n sn x msg u) s = .next t ∧ (t.pe n.val).seq = (s.pe n.val).seq ∧ t.pends (pe0 n.val) 8 = true ∧
      t.count (pgPE n.val 7) C.ACT_SN_DUP = min (s.count (pgPE n.val 7) C.ACT_SN_DUP + 1) (2 ^ 32 - 1)) ∧
  (∀ (s : State) (n : Fin 48) (sn : BitVec 64) (x u i : Nat) (msg : List Byte) (w : SnWin) (e : Entry),
    s.snOpen n.val x = some w → sn.toNat ∉ w.seen → s.findSn n.val sn.toNat = some (i, e) → eget e aDIS = 1 →
    ∃ t, exec (.snResponse n sn x msg u) s = .next t ∧ t.st n.val (eget e aCTX) = 7 ∧
      { msg := .disable sn.toNat false, copies := 1 } ∈ (t.pe n.val).seq ∧
      t.count (pgPE n.val 7) C.ACT_SN_RX = (s.count (pgPE n.val 7) C.ACT_SN_RX + 1) % 2 ^ 32) ∧
  (∀ (s : State) (n : Fin 48) (sn : BitVec 64) (x u i : Nat) (msg : List Byte) (w : SnWin) (e : Entry),
    s.snOpen n.val x = some w → sn.toNat ∉ w.seen → s.findSn n.val sn.toNat = some (i, e) → eget e aDIS = 0 →
    s.st n.val (eget e aCTX) = 4 →
    ∃ t, exec (.snResponse n sn x msg u) s = .next t ∧ t.st n.val (eget e aCTX) = 4 ∧ (t.cx n.val (eget e aCTX)).snLost = true ∧
      { msg := .assign (eget e aCTX) (s.onuId n.val (eget e aCTX)) sn.toNat, copies := 3 } ∈ (t.pe n.val).seq ∧
      t.keys = s.keys ∧ t.count (pgPE n.val 7) C.ACT_SN_RX = (s.count (pgPE n.val 7) C.ACT_SN_RX + 1) % 2 ^ 32) ∧
  (∀ (s : State) (n : Fin 48) (sn : BitVec 64) (x u q : Nat) (msg : List Byte) (w : SnWin), s.snOpen n.val x = some w →
    sn.toNat ∉ w.seen → s.findSn n.val sn.toNat = none → s.snPort sn.toNat = some q →
    (s.pe n.val).wrong.find? (fun p => p.1 == sn.toNat) = none →
    ∃ t, exec (.snResponse n sn x msg u) s = .next t ∧ t.pends (pe0 n.val) 1 = true ∧ t.get (pgPE n.val 7) F.PE_ACT_WRONG_PORT = q % 64 ∧
      t.get2 (pgPE n.val 7) F.PE_ACT_WRONG_SN_LO_SN F.PE_ACT_WRONG_SN_HI_SN = sn.toNat ∧ (t.pe n.val).seq = (s.pe n.val).seq ∧
      t.count (pgPE n.val 7) C.ACT_WRONG_PORT = min (s.count (pgPE n.val 7) C.ACT_WRONG_PORT + 1) (2 ^ 32 - 1)) ∧
  (∀ (s : State) (n : Fin 48) (sn : BitVec 64) (x u : Nat) (msg : List Byte) (w : SnWin), s.snOpen n.val x = some w →
    sn.toNat ∉ w.seen → s.findSn n.val sn.toNat = none → s.snPort sn.toNat = none →
    ∃ t, exec (.snResponse n sn x msg u) s = .next t ∧ (t.pe n.val).seq = (s.pe n.val).seq ∧
      t.pends (pe0 n.val) 8 = (s.pends (pe0 n.val) 8 || s.bit (pgPE n.val 7) F.PE_ACT_CFG_DISC) ∧
      t.count (pgPE n.val 7) C.ACT_SN_UNKNOWN = min (s.count (pgPE n.val 7) C.ACT_SN_UNKNOWN + 1) (2 ^ 32 - 1)) ∧
  (∀ (s : State) (n : Fin 48) (sn : BitVec 64) (x u : Nat) (msg : List Byte), s.snOpen n.val x = none →
    exec (.snResponse n sn x msg u) s = .next (s.at u))

/-- R148 to R155: a serial-number window is asked for; a Registration response gives the delay and starts the level exchange, or
ends the activation; the exchange ends with the smaller level; ACT_DONE. The nearest unit of
Ranging_Time, which Config.rangingUnit leaves open, is held to the nearest 1/64 ns (log entry 13). -/
def Obligations.Activation : Prop :=
  (∀ (s : State) (n : Fin 48), s.peUp n.val = true → s.pxShadow n.val = false → s.bit (pgPE n.val 7) F.PE_ACT_CFG_SN_EN = true →
    s.profOn n.val (s.actProf n.val) = true → (s.gp n.val).reqs.any (fun r => r.kind == 0) = false →
    ∃ t, exec (.snWindow n) s = .next t ∧ (t.gp n.val).reqs = (s.gp n.val).reqs ++
      [{ kind := 0, prof := s.actProf n.val, ofs := s.snA n.val, len := s.snQw n.val }] ∧ OnlyRegs [] s t) ∧
  (∀ (s : State) (n : Fin 48) (c : Fin 512) (rtd : Nat) (msg : List Byte) (d : Int), (s.cx n.val c.val).open_ = true →
    s.st n.val c.val = 2 → d = ((s.get (pgPE n.val 4) F.PE_US_TEQD_TEQD * 64 : Nat) : Int) - ((rtd : Int) - s.pxShift n.val) → 0 ≤ d →
    rtd < 2 ^ 32 →
    ∃ t, exec (.rangingResponse n c rtd msg) s = .next t ∧ t.st n.val c.val = 3 ∧ ew (t.crec n.val c.val) 2 = rtd ∧
      ew (t.crec n.val c.val) 1 = ofSigned 32 (s.rangingRound n.val d) ∧ (t.cx n.val c.val).open_ = false ∧
      { msg := .rangingTime (s.onuId n.val c.val) (s.rangingRound n.val d) false (s.nextNo n.val (s.onuId n.val c.val)), copies := 2 } ∈ (t.pe n.val).seq ∧
      (s.isLegacy n.val = false → { msg := .levelQuery c.val (s.onuId n.val c.val), copies := 1 } ∈ (t.pe n.val).seq) ∧
      (s.isLegacy n.val = true → t.level3 n.val c.val = 1) ∧ t.pends (pe0 n.val) 8 = true) ∧
  (∀ (s : State) (n : Fin 48) (c : Fin 512) (rtd : Nat) (msg : List Byte), (s.cx n.val c.val).open_ = true →
    s.st n.val c.val = 2 ∨ s.st n.val c.val = 4 →
    ((s.get (pgPE n.val 4) F.PE_US_TEQD_TEQD * 64 : Nat) : Int) - ((rtd : Int) - s.pxShift n.val) < 0 →
    ∃ t, exec (.rangingResponse n c rtd msg) s = .next t ∧ Freed s t n.val c.val ∧
      t.count (pgPE n.val 7) C.ACT_RNG_RANGE = min (s.count (pgPE n.val 7) C.ACT_RNG_RANGE + 1) (2 ^ 32 - 1)) ∧
  (∀ (s : State) (n : Fin 48) (c : Fin 512) (rtd : Nat) (msg : List Byte) (d : Int), (s.cx n.val c.val).open_ = true →
    s.st n.val c.val = 4 → (s.cx n.val c.val).reranging = false → (s.cx n.val c.val).lostFrom = 5 ∨ (s.cx n.val c.val).lostFrom = 6 →
    d = ((s.get (pgPE n.val 4) F.PE_US_TEQD_TEQD * 64 : Nat) : Int) - ((rtd : Int) - s.pxShift n.val) → 0 ≤ d →
    ∃ t, exec (.rangingResponse n c rtd msg) s = .next t ∧ t.st n.val c.val = (s.cx n.val c.val).lostFrom ∧
      ew (t.crec n.val c.val) 1 = ofSigned 32 (s.rangingRound n.val d) ∧ t.level3 n.val c.val = s.level3 n.val c.val ∧
      t.keyEnt n.val c.val = s.keyEnt n.val c.val) ∧
  (∀ (s : State) (n : Fin 48) (c : Fin 512), s.rngTries n.val ≤ (s.cx n.val c.val).tries → s.st n.val c.val = 2 →
    ∃ t, exec (.rngFail n c) s = .next t ∧ Freed s t n.val c.val ∧
      t.count (pgPE n.val 7) C.ACT_RNG_FAIL = min (s.count (pgPE n.val 7) C.ACT_RNG_FAIL + 1) (2 ^ 32 - 1)) ∧
  (∀ (s : State) (n : Fin 48) (c : Fin 512) (l : Byte) (x : Bool), s.levelOpen n.val c.val = true →
    ∃ t, exec (.levelReply n c l x) s = .next t ∧ (t.cx n.val c.val).ext = x ∧
      (t.cx n.val c.val).decided =
        some (min (max 1 (min l.toNat 3)) (eget (s.ctxEntry n.val c.val) aLMAX)) ∧
      { msg := .levelSet c.val (s.onuId n.val c.val) (min (max 1 (min l.toNat 3)) (eget (s.ctxEntry n.val c.val) aLMAX)), copies := 3 } ∈
        (t.pe n.val).seq ∧ OnlyRegs [] s t) ∧
  (∀ (s : State) (n : Fin 48) (c : Fin 512) (f : Nat), s.levelOpen n.val c.val = true → (s.cx n.val c.val).querySfc = some f →
    8 ≤ sfcDiff (s.pe n.val).sfc f →
    ∃ t, exec (.levelQueryTimeout n c) s = .next t ∧
      ((s.cx n.val c.val).queries < 3 → { msg := .levelQuery c.val (s.onuId n.val c.val), copies := 1 } ∈ (t.pe n.val).seq ∧
        (t.cx n.val c.val).decided = none) ∧
      (3 ≤ (s.cx n.val c.val).queries → (t.cx n.val c.val).decided = some 1 ∧
        { msg := .levelSet c.val (s.onuId n.val c.val) 1, copies := 3 } ∈ (t.pe n.val).seq) ∧ OnlyRegs [] s t) ∧
  (∀ (s : State) (n : Fin 48) (c : Fin 512), s.st n.val c.val = 3 → (s.cx n.val c.val).ended = false →
    32 ≤ sfcDiff (s.pe n.val).sfc (s.cx n.val c.val).levelSfc →
    ∃ t, exec (.levelLimit n c) s = .next t ∧ (t.cx n.val c.val).decided = some 1 ∧
      ((s.cx n.val c.val).decided = none → { msg := .levelSet c.val (s.onuId n.val c.val) 1, copies := 3 } ∈ (t.pe n.val).seq) ∧
      OnlyRegs [] s t) ∧
  (∀ (s : State) (n : Fin 48) (c : Fin 512) (u : Nat), s.st n.val c.val = 3 → (s.cx n.val c.val).ended = true →
    s.level3 n.val c.val = 3 ∨ s.bit (pe0 n.val) F.PE_LZ_STATUS_OPEN = false →
    ∃ t, exec (.actDone n c u) s = .next t ∧ t.st n.val c.val = 5 ∧ t.get (pgPE n.val 7) F.PE_ACT_LAST_CTX = c.val ∧
      t.pends (pe0 n.val) 5 = true ∧ (t.cx n.val c.val).since = max s.now u ∧
      t.mget n.val c.val mPROFILE = eget (s.ctxEntry n.val c.val) aPROF ∧
      (∀ a, a / 4096 * 4096 ∉ [pe0 n.val, pgPE n.val 7] → t.reg a = s.reg a))

/-- R148, R159, R160: authentication, the loss and the return of a terminal, and the commands of PE_ACT_CMD. -/
def Obligations.TerminalService : Prop :=
  (∀ (s : State) (fn : Fn) (n : Fin 48) (c : Fin 512), Reaches s fn.val (pgPE n.val 3 + 0x0C0) (.pe 3) n.val → s.st n.val c.val = 5 →
    ∃ t, exec (.authPass fn n c) s = .next t ∧ t.st n.val c.val = 6 ∧ t.crec n.val c.val = eput (s.crec n.val c.val) cST 6 ∧
      (∀ a, a / 4096 * 4096 ∉ [pe0 n.val] → t.reg a = s.reg a)) ∧
  (∀ (s : State) (fn : Fn) (n : Fin 48) (c : Fin 512), Reaches s fn.val (pgPE n.val 3 + 0x0C0) (.pe 3) n.val → s.st n.val c.val ≠ 5 →
    exec (.authPass fn n c) s = .next s ∧ exec (.authFail fn n c) s = .next s) ∧
  (∀ (s : State) (fn : Fn) (n : Fin 48) (c : Fin 512), Reaches s fn.val (pgPE n.val 3 + 0x0C0) (.pe 3) n.val → s.st n.val c.val = 5 →
    ∃ t, exec (.authFail fn n c) s = .next t ∧ Freed s t n.val c.val ∧
      t.count (pgPE n.val 7) C.ACT_AUTH_FAIL = min (s.count (pgPE n.val 7) C.ACT_AUTH_FAIL + 1) (2 ^ 32 - 1)) ∧
  (∀ (s : State) (n : Fin 48) (c : Fin 512) (u : Nat), s.st n.val c.val = 5 →
    (s.cx n.val c.val).since + s.get (pgPE n.val 7) F.PE_ACT_TMO_AUTH_TMO * cyclesPerSec ≤ u →
    ∃ t, exec (.authTimeout n c u) s = .next t ∧ Freed s t n.val c.val ∧
      t.count (pgPE n.val 7) C.ACT_AUTH_FAIL = min (s.count (pgPE n.val 7) C.ACT_AUTH_FAIL + 1) (2 ^ 32 - 1)) ∧
  (∀ (s : State) (n : Fin 48) (c : Fin 512) (u : Nat), s.inService n.val c.val = true →
    s.get (pgPE n.val 7) F.PE_ACT_CFG_LOB_N ≤ (s.cx n.val c.val).lob →
    ∃ t, exec (.onuLost n c u) s = .next t ∧ t.crec n.val c.val = eput (s.crec n.val c.val) cST 4 ∧
      (t.cx n.val c.val).lostFrom = s.st n.val c.val ∧ t.get (pgPE n.val 7) F.PE_ACT_LAST_LOST_CTX = c.val ∧
      t.pends (pe0 n.val) 6 = true ∧ t.keyEnt n.val c.val = s.keyEnt n.val c.val ∧ t.keys = s.keys ∧
      t.mget n.val c.val mUP = 0 ∧ t.mget n.val c.val mDOWN = 0 ∧ t.mget n.val c.val mPROB = 0 ∧
      t.mget n.val c.val mRUNG = (robustMove n.val c.val (s.at u)).mget n.val c.val mRUNG) ∧
  (∀ (s : State) (n : Fin 48) (c : Fin 512), s.st n.val c.val = 4 → (s.cx n.val c.val).asked = false →
    (s.cx n.val c.val).snLost = false →
    ∃ t, exec (.probeGrant n c) s = .next t ∧ (t.gp n.val).reqs = (s.gp n.val).reqs ++
      [{ kind := 2, ctx := c.val, prof := s.actProf n.val,
         ofs := ((ew (s.crec n.val c.val) 2 * 972 : Nat) : Int) - ((s.rqw n.val / 2 : Nat) : Int), len := s.rqw n.val }] ∧
      (t.cx n.val c.val).asked = true ∧ OnlyRegs [] s t) ∧
  (∀ (s : State) (n : Fin 48) (c : Fin 512) (u : Nat), s.st n.val c.val = 4 →
    (s.cx n.val c.val).since + s.get (pgPE n.val 7) F.PE_ACT_TMO_LOST_HOLD * cyclesPerSec ≤ u →
    ∃ t, exec (.lostExpired n c u) s = .next t ∧ Freed s t n.val c.val ∧
      t.count (pgPE n.val 7) C.ACT_LOST_EXPIRED = min (s.count (pgPE n.val 7) C.ACT_LOST_EXPIRED + 1) (2 ^ 32 - 1)) ∧
  (∀ (s : State) (fn : Fn) (n : Fin 48) (c : Fin 512), Reaches s fn.val (pgPE n.val 7 + 0x0E4) (.pe 7) n.val →
    1 ≤ s.st n.val c.val → s.st n.val c.val ≤ 6 →
    ∃ t, exec (.deact fn n c) s = .next t ∧ Freed s t n.val c.val ∧
      (∀ a, a / 4096 * 4096 ∉ [pe0 n.val] → t.reg a = s.reg a)) ∧
  (∀ (s : State) (fn : Fn) (n : Fin 48) (c : Fin 512), Reaches s fn.val (pgPE n.val 7 + 0x0E4) (.pe 7) n.val →
    s.st n.val c.val = 0 ∨ s.st n.val c.val = 7 →
    ∃ t, exec (.deact fn n c) s = .next t ∧ t.bit (pgPE n.val 7) F.PE_ACT_CMD_STAT_REJ = true ∧
      OnlyRegs [pgPE n.val 7 + F.PE_ACT_CMD_STAT_REJ.off] s t) ∧
  (∀ (s : State) (fn : Fn) (n : Fin 48) (c : Fin 512), Reaches s fn.val (pgPE n.val 7 + 0x0E4) (.pe 7) n.val →
    4 ≤ s.st n.val c.val → s.st n.val c.val ≤ 6 →
    ∃ t, exec (.rerange fn n c) s = .next t ∧ t.st n.val c.val = s.st n.val c.val ∧ (t.cx n.val c.val).reranging = true ∧
      { kind := 1, ctx := c.val, prof := s.actProf n.val,
        ofs := ((ew (s.crec n.val c.val) 2 * 972 : Nat) : Int) - ((s.rqw n.val / 2 : Nat) : Int), len := s.rqw n.val } ∈ (t.gp n.val).reqs ∧
      OnlyRegs [] s t) ∧
  (∀ (s : State) (fn : Fn) (n : Fin 48) (r : Int), Reaches s fn.val (pgPE n.val 7 + 0x0E4) (.pe 7) n.val →
    r = s.rangingRound n.val (s.getI (pgPE n.val 7) F.PE_RNG_ADJ_ADJ) → s.Canon →
    (s.liveCtx n.val).all (fun c => !s.ranged n.val c || decide (0 ≤ s.eqd n.val c + r)) = true →
    ∃ t, exec (.bcastAdj fn n) s = .next t ∧
      (∀ c, c < 512 → ew (t.crec n.val c) 1 = (if s.ranged n.val c = true then ofSigned 32 (s.eqd n.val c + r) else ew (s.crec n.val c) 1)) ∧
      { msg := .rangingTime 1023 r true (s.nextNo n.val 1023), copies := 2 } ∈ (t.pe n.val).seq ∧ (∀ a, a ∉ [] → t.reg a = s.reg a))

/-- R163, R165, R181, R183, R185, R189: the maps of a slice's ports are built, sealed in time, or replaced by the reduced map when they
are late; a delivered hint is discarded, counted or kept, and the slice's hint counts are cleared. -/
def Obligations.GrantMapsAndHints : Prop :=
  (∀ (s : State) (g : Fin 6) (k j : Nat), k < 8 → s.gsUp (g.val * 8 + k) = true → s.quiescing (pgGS g.val 0) = false →
    s.buildFrame (g.val * 8 + k) = some j →
    ∃ t, exec (.mapBuild g) s = .next t ∧ (t.gp (g.val * 8 + k)).built = some (buildMap s (g.val * 8 + k) j) ∧
      (buildMap s (g.val * 8 + k) j).map.sfc = j ∧ (t.gp (g.val * 8 + k)).core = (s.gp (g.val * 8 + k)).core ∧ OnlyRegs [] s t) ∧
  (∀ (s : State) (g : Fin 6) (k : Nat), k < 8 → s.gsUp (g.val * 8 + k) = false →
    ∃ t, exec (.mapBuild g) s = .next t ∧ t.gp (g.val * 8 + k) = s.gp (g.val * 8 + k)) ∧
  (∀ (s : State) (n : Fin 48) (m : Nat) (b : Build), (s.gp n.val).built = some b →
    ∃ t, exec (.mapSeal n m) s = .next t ∧ (t.gp n.val).sealed_ = some { b.map with words := s.structsOf n.val b.map } ∧ (t.gp n.val).built = none ∧
      (t.gp n.val).core = b.core ∧ (t.gp n.val).staleRun = 0 ∧
      t.count (pgGP n.val) C.GS_MAPS = (s.count (pgGP n.val) C.GS_MAPS + 1) % 2 ^ 32 ∧
      t.count (pgGP n.val) C.GS_IDLE = (s.count (pgGP n.val) C.GS_IDLE + b.idle) % 2 ^ 64 ∧
      t.get (pgGP n.val) F.GS_PORT_SEAL_LAST = min m 0xFFFF ∧
      t.get (pgGP n.val) F.GS_PORT_SEAL_MIN = min (min m 0xFFFF) (s.get (pgGP n.val) F.GS_PORT_SEAL_MIN) ∧
      (t.get (gsPg n.val) F.GS_STATUS_STALE).testBit (gsBit n.val) = false ∧ t.frozen n.val = false ∧
      (∀ a, a / 4096 * 4096 ∉ [pgGP n.val, gsPg n.val] → t.reg a = s.reg a)) ∧
  (∀ (s : State) (n : Fin 48) (m : Nat), (s.gp n.val).built = none → exec (.mapSeal n m) s = .next s) ∧
  (∀ (s : State) (n : Fin 48), s.gsUp n.val = true → (s.gp n.val).sealed_.all (fun m => m.sfc != (s.pe n.val).next) = true →
    s.lateRealign n.val = none →
    ∃ t, exec (.mapStale n) s = .next t ∧ (t.gp n.val).sealed_ = some { reducedMap s n.val (s.pe n.val).next with
        words := s.structsOf n.val (reducedMap s n.val (s.pe n.val).next) } ∧
      (t.gp n.val).built = none ∧ (t.gp n.val).staleRun = (s.gp n.val).staleRun + 1 ∧
      (t.get (gsPg n.val) F.GS_STATUS_STALE).testBit (gsBit n.val) = true ∧ t.pends (gsPg n.val) (gsBit n.val) = true ∧
      t.count (pgGP n.val) C.GS_STALE = min (s.count (pgGP n.val) C.GS_STALE + 1) (2 ^ 32 - 1) ∧
      ((s.gp n.val).staleRun = 1 → t.frozen n.val = true ∧ t.pends (gsPg n.val) (8 + gsBit n.val) = true) ∧
      ((s.gp n.val).staleRun = 0 → t.frozen n.val = s.frozen n.val)) ∧
  (∀ (s : State) (n j : Nat) (b : Burst), b ∈ (reducedMap s n j).bursts →
    (reducedMap s n j).grants = [] ∧ b.allocs ≠ [] ∧ b.prof = s.burstProf n b.onu ∧
      b.allocs.all (fun a => a.phase == 1 || a.phase == 4) = true ∧ b.pre = false ∧
      (s.gp n).silences.all (fun x => x.sfc != j || !meets b.start (b.start + b.size) x.start (x.start + x.len)) = true) ∧
  (∀ (s : State) (n : Fin 48), s.gsUp n.val = false ∨ (s.gp n.val).sealed_.any (fun m => m.sfc == (s.pe n.val).next) = true →
    exec (.mapStale n) s = .next s) ∧
  (∀ (s : State) (n : Fin 48) (u i h b : Nat) (r : List (Nat × Nat × Nat)), (s.gp n.val).inbox = (i, h, b) :: r →
    s.bit (gsPg n.val) F.GS_HINT_CFG_EN = false →
    ∃ t, exec (.hintRx n u) s = .next t ∧ (t.gp n.val).inbox = r ∧ (t.gp n.val).hints = (s.gp n.val).hints ∧ OnlyRegs [] s t) ∧
  (∀ (s : State) (n : Fin 48) (u i h b : Nat) (r : List (Nat × Nat × Nat)), (s.gp n.val).inbox = (i, h, b) :: r →
    s.bit (gsPg n.val) F.GS_HINT_CFG_EN = true → ((s.get (gsPg n.val) F.GS_HINT_CFG_AHEAD * 100000 * tbUnit : Nat) : Int) <
      ((h * tbUnit : Nat) : Int) - (((s.at u).tb (s.get (gsPg n.val) F.GS_HINT_CFG_TB)).t : Int) →
    ∃ t, exec (.hintRx n u) s = .next t ∧ (t.gp n.val).inbox = r ∧ (t.gp n.val).hints = (s.gp n.val).hints ∧
      t.count (pgGP n.val) C.GS_HINT_EARLY = min (s.count (pgGP n.val) C.GS_HINT_EARLY + 1) (2 ^ 32 - 1) ∧
      OnlyRegs [pgGP n.val + C.GS_HINT_EARLY.off] s t) ∧
  (∀ (s : State) (n : Fin 48) (u i h b : Nat) (r : List (Nat × Nat × Nat)), (s.gp n.val).inbox = (i, h, b) :: r →
    s.bit (gsPg n.val) F.GS_HINT_CFG_EN = true → ((h * tbUnit : Nat) : Int) -
      (((s.at u).tb (s.get (gsPg n.val) F.GS_HINT_CFG_TB)).t : Int) ≤ ((s.get (gsPg n.val) F.GS_HINT_CFG_AHEAD * 100000 * tbUnit : Nat) : Int) →
    eget (s.aent n.val i) gTYPE ≠ 4 ∨ s.level3 n.val (eget (s.aent n.val i) gONU) < 2 →
    ∃ t, exec (.hintRx n u) s = .next t ∧ (t.gp n.val).hints = (s.gp n.val).hints ∧
      t.count (pgGP n.val) C.GS_HINT_LATE = min (s.count (pgGP n.val) C.GS_HINT_LATE + 1) (2 ^ 32 - 1) ∧
      OnlyRegs [pgGP n.val + C.GS_HINT_LATE.off] s t) ∧
  (∀ (s : State) (n : Fin 48) (u i h b : Nat) (r : List (Nat × Nat × Nat)), (s.gp n.val).inbox = (i, h, b) :: r →
    s.bit (gsPg n.val) F.GS_HINT_CFG_EN = true → ((h * tbUnit : Nat) : Int) -
      (((s.at u).tb (s.get (gsPg n.val) F.GS_HINT_CFG_TB)).t : Int) ≤ ((s.get (gsPg n.val) F.GS_HINT_CFG_AHEAD * 100000 * tbUnit : Nat) : Int) →
    eget (s.aent n.val i) gTYPE = 4 → 2 ≤ s.level3 n.val (eget (s.aent n.val i) gONU) →
    ∃ t, exec (.hintRx n u) s = .next t ∧ (t.gp n.val).inbox = r ∧
      (s.frozen n.val = true → (t.gp n.val).hints = (s.gp n.val).hints ∧
        t.count (pgGP n.val) C.GS_HINT_FROZEN = min (s.count (pgGP n.val) C.GS_HINT_FROZEN + 1) (2 ^ 32 - 1)) ∧
      (s.frozen n.val = false → 4 ≤ ((s.gp n.val).hints.filter (fun x => x.ctx == i)).length →
        (t.gp n.val).hints = (s.gp n.val).hints ∧
        t.count (pgGP n.val) C.GS_HINT_OVF = min (s.count (pgGP n.val) C.GS_HINT_OVF + 1) (2 ^ 32 - 1)) ∧
      (s.frozen n.val = false → ((s.gp n.val).hints.filter (fun x => x.ctx == i)).length < 4 →
        (t.gp n.val).hints.map (fun x => (x.ctx, x.bytes)) = (s.gp n.val).hints.map (fun x => (x.ctx, x.bytes)) ++ [(i, b)] ∧
        (t.gp n.val).hints.getLast?.all (fun x => passed x.target (s.openMap n.val)) = true)) ∧
  (∀ (s : State) (fn : Fn) (g : Fin 6) (w : Word), Reaches s fn.val (pgGS g.val 0 + 0x040) (.gs 0) g.val →
    ∃ t, exec (.hintCntClr fn g w) s = .next t ∧ t.get (pgGS g.val 0) F.GS_HINT_NOKEY_COUNT = 0 ∧
      t.get (pgGS g.val 0) F.GS_HINT_BAD_COUNT = 0 ∧
      OnlyRegs (cfgWords (pgGS g.val 0) ++ [pgGS g.val 0 + 0x040, pgGS g.val 0 + F.GS_HINT_NOKEY_COUNT.off,
        pgGS g.val 0 + F.GS_HINT_BAD_COUNT.off]) s t)

/-- R195 to R198, R201: in Auto mode a context moves one rung down or up, and its counts and accumulator restart; at rung 0 it stays;
the change that fills the flap window pins it; probation ends. -/
def Obligations.MarginMoves : Prop :=
  (∀ (s : State) (n : Fin 48) (c : Fin 512) (p : Nat), s.inService n.val c.val = true → s.msMode n.val = 2 →
    s.get (pgMS n.val) F.PE_MS_CFG_DOWN_N ≤ s.mget n.val c.val mDOWN → s.mget n.val c.val mNOLAD = 0 → 0 < s.mget n.val c.val mRUNG →
    s.rung n.val (s.mget n.val c.val mRUNG - 1) = some p → s.mget n.val c.val mPIN = 1 ∨
      flapCount (s.cx n.val c.val) + 1 < s.get (pgMS n.val) F.PE_MS_PROB_FLAP_MAX →
    ∃ t, exec (.robustMove n c) s = .next t ∧ t.mget n.val c.val mRUNG = s.mget n.val c.val mRUNG - 1 ∧
      t.mget n.val c.val mPROFILE = p ∧ t.mget n.val c.val mUP = 0 ∧ t.mget n.val c.val mDOWN = 0 ∧
      accSym (t.mrec n.val c.val) = 0 ∧ t.mget n.val c.val mCORR = 0 ∧
      flapCount (t.cx n.val c.val) = flapCount (s.cx n.val c.val) + 1 ∧ t.mget n.val c.val mPIN = s.mget n.val c.val mPIN ∧
      t.mget n.val c.val mMAX = s.mget n.val c.val mMAX ∧
      (s.mget n.val c.val mPROB = 0 → t.mget n.val c.val mPROB = 0 ∧
        t.count (pgMS n.val) C.MS_ROBUST = (s.count (pgMS n.val) C.MS_ROBUST + 1) % 2 ^ 32) ∧
      (s.mget n.val c.val mPROB = 1 → t.mget n.val c.val mPROB = 0 ∧
        t.count (pgMS n.val) C.MS_REVERT = min (s.count (pgMS n.val) C.MS_REVERT + 1) (2 ^ 32 - 1))) ∧
  (∀ (s : State) (n : Fin 48) (c : Fin 512) (p : Nat), s.inService n.val c.val = true → s.msMode n.val = 2 →
    s.get (pgMS n.val) F.PE_MS_CFG_DOWN_N ≤ s.mget n.val c.val mDOWN → s.mget n.val c.val mNOLAD = 0 → 0 < s.mget n.val c.val mRUNG →
    s.rung n.val (s.mget n.val c.val mRUNG - 1) = some p → s.mget n.val c.val mPIN = 0 →
    s.get (pgMS n.val) F.PE_MS_PROB_FLAP_MAX ≤ flapCount (s.cx n.val c.val) + 1 →
    ∃ t, exec (.robustMove n c) s = .next t ∧ t.mget n.val c.val mPIN = 1 ∧ t.pends (pe0 n.val) 2 = true ∧
      t.get (pgMS n.val) F.PE_MS_LAST_PIN_CTX = c.val ∧
      t.mget n.val c.val mRUNG = ((s.cx n.val c.val).rungs.map (fun x => x.1)).foldl min (s.mget n.val c.val mRUNG - 1) ∧
      flapCount (t.cx n.val c.val) = flapCount (s.cx n.val c.val) + 1 ∧
      t.count (pgMS n.val) C.MS_PINS = min (s.count (pgMS n.val) C.MS_PINS + 1) (2 ^ 32 - 1)) ∧
  (∀ (s : State) (n : Fin 48) (c : Fin 512), s.inService n.val c.val = true →
    s.get (pgMS n.val) F.PE_MS_CFG_DOWN_N ≤ s.mget n.val c.val mDOWN → s.mget n.val c.val mNOLAD = 0 → s.mget n.val c.val mRUNG = 0 →
    ∃ t, exec (.robustMove n c) s = .next t ∧ t.mrec n.val c.val = eput (s.mrec n.val c.val) mDOWN 0 ∧
      (∀ a, a ∉ [] → t.reg a = s.reg a)) ∧
  (∀ (s : State) (n : Fin 48) (c : Fin 512) (p : Nat), s.inService n.val c.val = true → s.msMode n.val = 2 →
    s.get (pgMS n.val) F.PE_MS_CFG_UP_K ≤ s.mget n.val c.val mUP → s.mget n.val c.val mNOLAD = 0 →
    s.mget n.val c.val mRUNG < s.mget n.val c.val mMAX → s.rung n.val (s.mget n.val c.val mRUNG + 1) = some p →
    s.mget n.val c.val mPROB = 0 → s.mget n.val c.val mPIN = 0 →
    flapCount (s.cx n.val c.val) + 1 < s.get (pgMS n.val) F.PE_MS_PROB_FLAP_MAX →
    ∃ t, exec (.fastMove n c) s = .next t ∧ t.mget n.val c.val mRUNG = s.mget n.val c.val mRUNG + 1 ∧
      t.mget n.val c.val mPROFILE = p ∧ t.mget n.val c.val mUP = 0 ∧ t.mget n.val c.val mDOWN = 0 ∧
      accSym (t.mrec n.val c.val) = 0 ∧ t.mget n.val c.val mCORR = 0 ∧ t.mget n.val c.val mPROB = 1 ∧
      t.mget n.val c.val mPROBLEFT = s.get (pgMS n.val) F.PE_MS_PROB_PROB ∧
      t.count (pgMS n.val) C.MS_FAST = (s.count (pgMS n.val) C.MS_FAST + 1) % 2 ^ 32) ∧
  (∀ (s : State) (n : Fin 48) (c : Fin 512),
    s.mget n.val c.val mPROB = 1 ∨ s.mget n.val c.val mPIN = 1 ∨ s.inService n.val c.val = false ∨ s.mget n.val c.val mNOLAD = 1 ∨
      s.msMode n.val = 0 →
    exec (.fastMove n c) s = .next s) ∧
  (∀ (s : State) (n : Fin 48) (c : Fin 512), s.mget n.val c.val mPROB = 1 → s.mget n.val c.val mPROBLEFT = 0 →
    ∃ t, exec (.probationEnd n c) s = .next t ∧ t.mrec n.val c.val = eput (s.mrec n.val c.val) mPROB 0 ∧
      (∀ a, a ∉ [] → t.reg a = s.reg a))

/-- R201, R202, R206: the flap window moves on, a pin expires, software sets a rung, unpins and clears the window, and the zone
becomes eligible. -/
def Obligations.MarginUpkeep : Prop :=
  (∀ (s : State) (n : Fin 48) (c : Nat), c ∈ s.liveCtx n.val →
    ∃ t, exec (.flapBucket n) s = .next t ∧ (t.pe n.val).bucket = (s.pe n.val).bucket + 1 ∧
      flapCount (t.cx n.val c) = ((s.cx n.val c).flap.take 5).foldl (· + ·) 0 ∧
      t.mget n.val c mFLAP = flapCount (t.cx n.val c) % 256 ∧ (∀ a, a ∉ [] → t.reg a = s.reg a)) ∧
  (∀ (s : State) (n : Fin 48) (c : Fin 512) (u : Nat), s.mget n.val c.val mPIN = 1 → s.get (pgMS n.val) F.PE_MS_PROB_PIN_HOLD ≠ 0 →
    (s.cx n.val c.val).pinAt + s.get (pgMS n.val) F.PE_MS_PROB_PIN_HOLD * 3600 * cyclesPerSec ≤ u →
    ∃ t, exec (.pinExpiry n c u) s = .next t ∧ t.mget n.val c.val mPIN = 0 ∧ t.mget n.val c.val mUP = 0 ∧
      flapCount (t.cx n.val c.val) = 0 ∧ t.mget n.val c.val mRUNG = s.mget n.val c.val mRUNG) ∧
  (∀ (s : State) (n : Fin 48) (c : Fin 512) (u : Nat), s.get (pgMS n.val) F.PE_MS_PROB_PIN_HOLD = 0 →
    exec (.pinExpiry n c u) s = .next (s.at u)) ∧
  (∀ (s : State) (fn : Fn) (n : Fin 48) (w : Word) (p : Nat), Reaches s fn.val (pgMS n.val + 0x0E4) (.pe 8) n.val →
    s.inService n.val (fld w.toNat 8 0) = true → s.rung n.val (fld w.toNat 18 16) = some p →
    fld w.toNat 18 16 ≤ s.mget n.val (fld w.toNat 8 0) mMAX →
    ∃ t, exec (.setRung fn n w) s = .next t ∧ t.mget n.val (fld w.toNat 8 0) mRUNG = fld w.toNat 18 16 ∧
      t.mget n.val (fld w.toNat 8 0) mPROFILE = p ∧ t.mget n.val (fld w.toNat 8 0) mNOLAD = 0 ∧
      t.mget n.val (fld w.toNat 8 0) mPIN = 0 ∧ t.mget n.val (fld w.toNat 8 0) mPROB = 0 ∧
      t.mget n.val (fld w.toNat 8 0) mUP = 0 ∧ t.mget n.val (fld w.toNat 8 0) mDOWN = 0 ∧
      accSym (t.mrec n.val (fld w.toNat 8 0)) = 0 ∧ t.mget n.val (fld w.toNat 8 0) mCORR = 0 ∧
      t.mget n.val (fld w.toNat 8 0) mCHANGES = s.mget n.val (fld w.toNat 8 0) mCHANGES ∧
      (∀ pg u j, tkey pg u j ≠ tkey (pgMS n.val) 0 (fld w.toNat 8 0) → t.ent pg u j = s.ent pg u j) ∧
      (∀ a, a ∉ [pgMS n.val + 0x0E4] → t.reg a = s.reg a)) ∧
  (∀ (s : State) (fn : Fn) (n : Fin 48) (w : Word), Reaches s fn.val (pgMS n.val + 0x0E4) (.pe 8) n.val →
    s.inService n.val (fld w.toNat 8 0) = false ∨ s.rung n.val (fld w.toNat 18 16) = none ∨
      s.mget n.val (fld w.toNat 8 0) mMAX < fld w.toNat 18 16 →
    ∃ t, exec (.setRung fn n w) s = .next t ∧ t.bit (pgMS n.val) F.PE_MS_CMD_STAT_REJ = true ∧
      OnlyRegs [pgMS n.val + 0x0E4, pgMS n.val + F.PE_MS_CMD_STAT_REJ.off] s t) ∧
  (∀ (s : State) (fn : Fn) (n : Fin 48) (w : Word), Reaches s fn.val (pgMS n.val + 0x0E4) (.pe 8) n.val →
    s.inService n.val (fld w.toNat 8 0) = true → s.mget n.val (fld w.toNat 8 0) mPIN = 1 →
    ∃ t, exec (.unpin fn n w) s = .next t ∧ t.mget n.val (fld w.toNat 8 0) mPIN = 0 ∧ t.mget n.val (fld w.toNat 8 0) mUP = 0 ∧
      flapCount (t.cx n.val (fld w.toNat 8 0)) = 0 ∧
      t.mget n.val (fld w.toNat 8 0) mRUNG = s.mget n.val (fld w.toNat 8 0) mRUNG) ∧
  (∀ (s : State) (fn : Fn) (n : Fin 48) (w : Word), Reaches s fn.val (pgMS n.val + 0x0E4) (.pe 8) n.val →
    s.inService n.val (fld w.toNat 8 0) = true →
    ∃ t, exec (.clrFlap fn n w) s = .next t ∧ flapCount (t.cx n.val (fld w.toNat 8 0)) = 0 ∧
      t.mrec n.val (fld w.toNat 8 0) = eput (s.mrec n.val (fld w.toNat 8 0)) mFLAP 0 ∧
      (∀ a, a ∉ [pgMS n.val + 0x0E4] → t.reg a = s.reg a)) ∧
  (∀ (s : State) (n : Fin 48), s.isLegacy n.val = false → s.get (pgMS n.val) F.PE_MS_LZ2_LZ_K ≤ (s.pe n.val).onCount →
    ∃ t, exec (.lzEligSet n) s = .next t ∧ t.bit (pe0 n.val) F.PE_LZ_STATUS_ELIG = true ∧
      (s.bit (pe0 n.val) F.PE_LZ_STATUS_ELIG = true → t = s)) ∧
  (∀ (s : State) (n : Fin 48), s.isLegacy n.val = true ∨ (s.pe n.val).onCount < s.get (pgMS n.val) F.PE_MS_LZ2_LZ_K →
    exec (.lzEligSet n) s = .next s)

/-- R223, R211: a packet offered to one queue is checked in order: the first check that fails drops it and counts it, and a packet
that passes them all stands at the tail with its charged length. A traffic manager that is off takes nothing. -/
def Obligations.Enqueue : Prop :=
  (∀ (s : State) (u : Nat) (o : Offer) (r : List Offer), s.tm.offers = o :: r → s.en pTM = false ∨ s.quiescing pTM = true →
    ∃ t, exec (.tmEnqueue u) s = .next t ∧ t.tm.offers = r ∧ t.tm.qs = s.tm.qs ∧
      t.count pTM C.TM_DROP_DIS = min (s.count pTM C.TM_DROP_DIS + o.dests.length) (2 ^ 32 - 1)) ∧
  (∀ (s : State) (u tid q : Nat) (o : Offer) (r : List Offer), s.tm.offers = o :: r → s.en pTM = true → s.quiescing pTM = false →
    o.dests = [(tid, q)] → s.nodeValid tid q = false ∨ s.nget tid q nEN = 0 →
    ∃ t, exec (.tmEnqueue u) s = .next t ∧ t.tm.offers = r ∧ t.tm.qs = s.tm.qs ∧
      t.count pTM C.TM_DROP_DIS = min (s.count pTM C.TM_DROP_DIS + 1) (2 ^ 32 - 1)) ∧
  (∀ (s : State) (u tid q : Nat) (o : Offer) (r : List Offer), s.tm.offers = o :: r → s.en pTM = true → s.quiescing pTM = false →
    o.dests = [(tid, q)] → s.nodeValid tid q = true → s.nget tid q nEN ≠ 0 →
    eget (s.ent pTM 8 (s.nget tid q nDPROF)) (dpTAIL o.pkt.colour) * 64 < s.nget tid q nDEPTH + s.charged tid q o.pkt.bytes.length →
    ∃ t, exec (.tmEnqueue u) s = .next t ∧ t.tm.offers = r ∧ (t.tmq tid q).pkts = (s.tmq tid q).pkts ∧
      ew (t.node tid q) 13 = min (ew (s.node tid q) 13 + 1) (2 ^ 32 - 1) ∧ t.tm.pkts = s.tm.pkts ∧
      (o.inj = none → (∀ a, a ∉ [] → t.reg a = s.reg a))) ∧
  (∀ (s : State) (u tid q h : Nat) (o : Offer) (r : List Offer), s.tm.offers = o :: r → s.en pTM = true → s.quiescing pTM = false →
    o.dests = [(tid, q)] → (tmChecks tid q o.pkt.colour o.pkt.bytes.length (dfcSettle (s.offered u r))).1 = 0 →
    (alloc (s.nget tid q nPOOL) ((o.pkt.orig.getD o.pkt.bytes.length + s.poolData (s.nget tid q nPOOL) - 1) /
      s.poolData (s.nget tid q nPOOL)) o.pkt.charge 64 (tmChecks tid q o.pkt.colour o.pkt.bytes.length (dfcSettle (s.offered u r))).2).1.toOption = some h →
    ∃ t, exec (.tmEnqueue u) s = .next t ∧ t.tm.offers = r ∧ t.pktAt h = o.pkt ∧
      (t.tmq tid q).pkts.map (fun p => (p.handle, p.len, p.charged)) =
        (s.tmq tid q).pkts.map (fun p => (p.handle, p.len, p.charged)) ++ [(h, o.pkt.bytes.length, s.charged tid q o.pkt.bytes.length)] ∧
      (∀ a, a / 4096 * 4096 ∉ [pgBP] → t.reg a = s.reg a))

/-- R210, R214, R217: one request of the engine behind a tree takes the head packet off the queue that the selection reaches; the
queues' order is kept, and a tree that is not served gives nothing. -/
def Obligations.Dequeue : Prop :=
  (∀ (s : State) (up : Bool) (m : Fin 48) (n u tid q k : Nat) (path : List (Nat × Nat × Nat)) (p : QPkt) (l : List QPkt),
    treeOf up m.val = n → s.treeServed n = true → backlogged ((s.at u).gated n) n 3 (rootTab n) (rootIdx n) = true →
    (selectPath n 3 (rootTab n) (rootIdx n) ((s.at u).gated n)).1 = some path →
    path.getLast? = some (tid, q, k) → (s.tmq tid q).pkts.map (fun x => (x.handle, x.len, x.charged)) =
      (p :: l).map (fun x => (x.handle, x.len, x.charged)) →
    ∃ t, exec (.tmDequeue up m u) s = .next t ∧
      (t.tmq tid q).pkts.map (fun x => (x.handle, x.len, x.charged)) = l.map (fun x => (x.handle, x.len, x.charged)) ∧
      (n < 48 → t.count pTM C.TM_DS_DEQ = (s.count pTM C.TM_DS_DEQ + 1) % 2 ^ 64 ∧
        t.count pTM C.TM_US_DEQ = s.count pTM C.TM_US_DEQ) ∧
      (48 ≤ n → t.count pTM C.TM_US_DEQ = (s.count pTM C.TM_US_DEQ + 1) % 2 ^ 64 ∧
        t.count pTM C.TM_DS_DEQ = s.count pTM C.TM_DS_DEQ) ∧
      (n < 48 → s.xgemOpen n (s.nget tid q nXGEM) = false →
        t.count pTM C.TM_DROP_NOXGEM = min (s.count pTM C.TM_DROP_NOXGEM + 1) (2 ^ 32 - 1))) ∧
  (∀ (s : State) (up : Bool) (m : Fin 48) (u : Nat), s.treeServed (treeOf up m.val) = false →
    exec (.tmDequeue up m u) s = .next (dfcSettle (s.at u))) ∧
  (∀ (s : State) (n lv tid i : Nat) (c k : Nat) , (selectChild n lv tid i s).1 = some (c, k) →
    (c ∈ s.kids tid i) ∧ backlogged s n lv (tid - 1) c = true ∧ (k = 0 → s.nodeState (tid - 1) c = 0) ∧
    (∀ d ∈ s.kids tid i, backlogged s n lv (tid - 1) d = true → (s.nodeState (tid - 1) d = 0 → k = 0) ∧
      ((k = 0 → s.nodeState (tid - 1) d = 0) → s.nget (tid - 1) c nPRIO ≤ s.nget (tid - 1) d nPRIO)))

/-- R212, R225, R228: the buckets fill, a second of many drops raises its event, and a flush empties one queue. -/
def Obligations.TrafficUpkeep : Prop :=
  (∀ (s : State) (tid i : Nat), s.Canon → tid < 8 → s.nodeValid tid i = true →
    ∃ t, exec .bucketUpdate s = .next t ∧
      t.tc tid i = min (s.tc tid i + s.nget tid i nCIR) ((s.nget tid i nCBS * 1000 : Nat) : Int) ∧
      t.tp tid i = (if s.nget tid i nPIR = 0 then s.tp tid i
        else min (s.tp tid i + s.nget tid i nPIR) ((s.nget tid i nPBS * 1000 : Nat) : Int)) ∧
      (∀ a, a ∉ [] → t.reg a = s.reg a)) ∧
  (∀ (s : State) (n k : Nat), s.tm.drops = [(n, k)] → n < 64 → s.get pTM F.TM_DROP_CFG_THR < k →
    ∃ t, exec .tmDropRate s = .next t ∧ t.pends pTM 0 = true ∧ t.get pTM F.TM_DROP_SRC_TREE = (if 48 ≤ n then n - 48 else n) ∧
      t.bit pTM F.TM_DROP_SRC_UP = decide (48 ≤ n) ∧ t.tm.drops = [] ∧ OnlyRegs ([pTM + F.TM_DROP_SRC_TREE.off] ++ evtWords pTM) s t) ∧
  (∀ (s : State), s.tm.drops.all (fun p => decide (p.2 ≤ s.get pTM F.TM_DROP_CFG_THR)) = true →
    ∃ t, exec .tmDropRate s = .next t ∧ t.tm.drops = [] ∧ OnlyRegs [] s t) ∧
  (∀ (s : State) (fn : Fn) (q : BitVec 16), Reaches s fn.val (pTM + 0x0C4) (.tm 0) 0 → s.bit pTM F.TM_CMD_STAT_BUSY = false →
    s.nodeValid 0 q.toNat = true →
    ∃ t, exec (.flushDq fn q) s = .next t ∧ (t.tmq 0 q.toNat).pkts = [] ∧ t.nget 0 q.toNat nDEPTH = 0 ∧ t.nget 0 q.toNat nAVG = 0 ∧
      t.dfc (tkey pTM 0 q.toNat) = (0, 0) ∧ t.bit pTM F.TM_CMD_STAT_BUSY = true ∧
      t.count pTM C.TM_FLUSHED = min (s.count pTM C.TM_FLUSHED + (s.tmq 0 q.toNat).pkts.length) (2 ^ 32 - 1)) ∧
  (∀ (s : State) (fn : Fn) (q : BitVec 16), Reaches s fn.val (pTM + 0x0C4) (.tm 0) 0 → s.bit pTM F.TM_CMD_STAT_BUSY = false →
    s.nodeValid 4 q.toNat = true →
    ∃ t, exec (.flushUq fn q) s = .next t ∧ (t.tmq 4 q.toNat).pkts = [] ∧ t.nget 4 q.toNat nDEPTH = 0 ∧ t.nget 4 q.toNat nAVG = 0 ∧
      t.dfc (tkey pTM 4 q.toNat) = (0, 0) ∧ t.bit pTM F.TM_CMD_STAT_BUSY = true ∧
      t.count pTM C.TM_FLUSHED = min (s.count pTM C.TM_FLUSHED + (s.tmq 4 q.toNat).pkts.length) (2 ^ 32 - 1)) ∧
  (∀ (s : State) (fn : Fn) (q : BitVec 16), Reaches s fn.val (pTM + 0x0C4) (.tm 0) 0 →
    s.bit pTM F.TM_CMD_STAT_BUSY = true ∨ s.nodeValid 0 q.toNat = false →
    ∃ t, exec (.flushDq fn q) s = .next t ∧ t.bit pTM F.TM_CMD_STAT_REJ = true ∧ t.tm = s.tm ∧
      OnlyRegs [pTM + 0x0C4, pTM + F.TM_CMD_STAT_REJ.off] s t) ∧
  (∀ (s : State), ∃ t, exec .flushDone s = .next t ∧ t.bit pTM F.TM_CMD_STAT_BUSY = false ∧
    OnlyRegs [pTM + F.TM_CMD_STAT_BUSY.off] s t)

/-- R235, R236, R238 to R241: the rate, the snapshot, the corrections in either mode, and how a held correction or a slew
ends. -/
def Obligations.TimeCorrections : Prop :=
  (∀ (s : State) (fn : Fn) (n : Fin 8) (w : Word) (u : Nat), Reaches s fn.val (pgTB n.val + 0x070) .tb n.val →
    ∃ t, exec (.rateWrite fn n w u) s = .next t ∧
      (if -rateMax ≤ toSigned 48 (((sget none s.staged (pgTB n.val + 0x06C)).getD (s.reg (pgTB n.val + 0x06C))).toNat + w.toNat % 2 ^ 16 * 2 ^ 32) ∧
          toSigned 48 (((sget none s.staged (pgTB n.val + 0x06C)).getD (s.reg (pgTB n.val + 0x06C))).toNat + w.toNat % 2 ^ 16 * 2 ^ 32) ≤ rateMax
        then (t.tb n.val).rate =
            toSigned 48 (((sget none s.staged (pgTB n.val + 0x06C)).getD (s.reg (pgTB n.val + 0x06C))).toNat + w.toNat % 2 ^ 16 * 2 ^ 32) ∧
          t.get (pgTB n.val) F.TE_TB_RATE_HI_RATE = w.toNat % 2 ^ 16
        else (t.tb n.val).rate = ((s.at u).tb n.val).rate ∧ t.bit (pgTB n.val) F.TE_TB_STAT_REJ = true ∧
          t.reg (pgTB n.val + 0x06C) = s.reg (pgTB n.val + 0x06C) ∧ t.reg (pgTB n.val + 0x070) = s.reg (pgTB n.val + 0x070)) ∧
      OnlyRegs [pgTB n.val + 0x06C, pgTB n.val + 0x070, pgTB n.val + 0x044] s t) ∧
  (∀ (s : State) (fn : Fn) (n : Fin 8) (u : Nat), Reaches s fn.val (pgTB n.val + 0x048) .tb n.val →
    ∃ t, exec (.tbSnapshot fn n u) s = .next t ∧
      t.get2 (pgTB n.val) F.TE_TB_SEC_LO_SEC F.TE_TB_SEC_HI_SEC = ((s.at u).tb n.val).t / (1000000000 * tbUnit) % 2 ^ 48 ∧
      t.get (pgTB n.val) F.TE_TB_NS_NS = ((s.at u).tb n.val).t / tbUnit % 1000000000 ∧
      t.get (pgTB n.val) F.TE_TB_FRAC_FRAC = ((s.at u).tb n.val).t % tbUnit * 2 ^ 32 / tbUnit ∧
      t.get (pgTB n.val) F.TE_TB_STAT_EPOCH = ((s.at u).tb n.val).epoch % 2 ^ 16 ∧ t.tbs = (s.at u).tbs ∧
      t.out = .readData fn.val (pgTB n.val + 0x048) (t.reg (pgTB n.val + 0x048)) :: s.out ∧ OnlyPages [pgTB n.val] s t) ∧
  (∀ (s : State) (fn : Fn) (n : Fin 8) (w : Word) (u : Nat), Reaches s fn.val (pgTB n.val + 0x040) .tb n.val →
    ((s.at u).tb n.val).held = none → fld w.toNat 25 24 = 0 → s.bit (pgTB n.val) F.TE_TB_STAT_ACQ = false →
    ∃ t, exec (.stepAbs fn n w u) s = .next t ∧ t.bit (pgTB n.val) F.TE_TB_STAT_ACQ = true ∧
      (t.tb n.val).t = (s.get2 (pgTB n.val) F.TE_TB_SET_SEC_LO_SEC F.TE_TB_SET_SEC_HI_SEC * 1000000000 +
        s.get (pgTB n.val) F.TE_TB_SET_NS_NS) * tbUnit % tbSpan ∧
      (t.tb n.val).epoch = ((s.at u).tb n.val).epoch ∧ OnlyPages [pgTB n.val] s t) ∧
  (∀ (s : State) (fn : Fn) (n : Fin 8) (w : Word) (u : Nat), Reaches s fn.val (pgTB n.val + 0x040) .tb n.val →
    ((s.at u).tb n.val).held = none → fld w.toNat 25 24 = 0 → s.bit (pgTB n.val) F.TE_TB_STAT_ACQ = true → s.level ≠ 1 →
    ∃ t, exec (.stepAbs fn n w u) s = .next t ∧ t.bit (pgTB n.val) F.TE_TB_STAT_REJ = true ∧ t.pends (pgTB n.val) 0 = true ∧
      t.tbs = (s.at u).tbs ∧ OnlyPages [pgTB n.val] s t) ∧
  (∀ (s : State) (fn : Fn) (n : Fin 8) (w : Word) (u : Nat), Reaches s fn.val (pgTB n.val + 0x040) .tb n.val →
    ((s.at u).tb n.val).held = none → fld w.toNat 25 24 = 0 → s.bit (pgTB n.val) F.TE_TB_STAT_ACQ = true → s.level = 1 →
    ∃ t, exec (.stepRel fn n w u) s = .next t ∧
      (t.tb n.val).rem = ((s.at u).tb n.val).rem + toSigned 64 (s.get2 (pgTB n.val) F.TE_TB_OFS_LO_OFS F.TE_TB_OFS_HI_OFS) * tbUnit ∧
      t.bit (pgTB n.val) F.TE_TB_STAT_SLEWING = decide ((t.tb n.val).rem ≠ 0) ∧
      (t.tb n.val).t = ((s.at u).tb n.val).t ∧ (t.tb n.val).epoch = ((s.at u).tb n.val).epoch ∧ OnlyPages [pgTB n.val] s t) ∧
  (∀ (s : State) (fn : Fn) (n : Fin 8) (w : Word) (u : Nat), Reaches s fn.val (pgTB n.val + 0x040) .tb n.val →
    ((s.at u).tb n.val).held = none → fld w.toNat 25 24 = 0 → s.bit (pgTB n.val) F.TE_TB_STAT_ACQ = true → s.level ≠ 1 →
    ∃ t, exec (.restepAbs fn n w u) s = .next t ∧ (t.tb n.val).epoch = (((s.at u).tb n.val).epoch + 1) % 2 ^ 16 ∧
      (t.tb n.val).t = (s.get2 (pgTB n.val) F.TE_TB_SET_SEC_LO_SEC F.TE_TB_SET_SEC_HI_SEC * 1000000000 +
        s.get (pgTB n.val) F.TE_TB_SET_NS_NS) * tbUnit % tbSpan ∧ t.pends (pgTB n.val) 2 = true) ∧
  (∀ (s : State) (fn : Fn) (n : Fin 8) (w : Word) (u : Nat), Reaches s fn.val (pgTB n.val + 0x040) .tb n.val →
    ((s.at u).tb n.val).held = none → fld w.toNat 25 24 = 0 → s.bit (pgTB n.val) F.TE_TB_STAT_ACQ = true → s.level ≠ 1 →
    ∃ t, exec (.restepRel fn n w u) s = .next t ∧ (t.tb n.val).epoch = (((s.at u).tb n.val).epoch + 1) % 2 ^ 16 ∧
      ((t.tb n.val).t : Int) = (((s.at u).tb n.val).t +
        toSigned 64 (s.get2 (pgTB n.val) F.TE_TB_OFS_LO_OFS F.TE_TB_OFS_HI_OFS) * tbUnit) % tbSpan ∧
      t.get2 (pgTB n.val) F.TE_TB_LAST_DELTA_LO_DELTA F.TE_TB_LAST_DELTA_HI_DELTA =
        s.get2 (pgTB n.val) F.TE_TB_OFS_LO_OFS F.TE_TB_OFS_HI_OFS ∧
      (∀ k, k < 2 → t.bit (pgTB n.val) (F.TE_TB_TRIG_CTL_ARM.ix k) = false) ∧ t.pends (pgTB n.val) 2 = true) ∧
  (∀ (s : State) (fn : Fn) (n : Fin 8) (w : Word) (u : Nat), Reaches s fn.val (pgTB n.val + 0x040) .tb n.val →
    ((s.at u).tb n.val).held = none → fld w.toNat 25 24 = 1 →
    ∃ t, exec (.restepRel fn n w u) s = .next t ∧ t.bit (pgTB n.val) F.TE_TB_STAT_PEND = true ∧
      ((t.tb n.val).held.map (fun h => (h.op, h.input, h.value))) =
        some (4, 1, toSigned 64 (s.get2 (pgTB n.val) F.TE_TB_OFS_LO_OFS F.TE_TB_OFS_HI_OFS)) ∧ OnlyPages [pgTB n.val] s t) ∧
  (∀ (s : State) (fn : Fn) (n : Fin 8) (w : Word), Reaches s fn.val (pgTB n.val + 0x040) .tb n.val → fld w.toNat 25 24 ≠ 3 →
    ∃ t, exec (.cancel fn n w) s = .next t ∧ t.bit (pgTB n.val) F.TE_TB_STAT_PEND = false ∧ (t.tb n.val).held = none ∧
      (t.tb n.val).t = (s.tb n.val).t ∧ OnlyPages [pgTB n.val] s t) ∧
  (∀ (s : State) (fn : Fn) (n : Fin 8) (w : Word), Reaches s fn.val (pgTB n.val + 0x040) .tb n.val → fld w.toNat 25 24 = 3 →
    ∃ t, exec (.cancel fn n w) s = .next t ∧ t.bit (pgTB n.val) F.TE_TB_STAT_REJ = true ∧ t.tbs = s.tbs ∧
      t.bit (pgTB n.val) F.TE_TB_STAT_PEND = s.bit (pgTB n.val) F.TE_TB_STAT_PEND ∧ OnlyPages [pgTB n.val] s t) ∧
  (∀ (s : State) (n : Fin 8) (h : Held) (u : Nat), ((s.at u).tb n.val).held = some h → h.since + 2 * cyclesPerSec ≤ max s.now u →
    ∃ t, exec (.heldCorrectionTimeout n u) s = .next t ∧ t.bit (pgTB n.val) F.TE_TB_STAT_PEND = false ∧
      t.bit (pgTB n.val) F.TE_TB_STAT_REJ = true ∧ (t.tb n.val).held = none ∧ OnlyPages [pgTB n.val] s t) ∧
  (∀ (s : State) (n : Fin 8) (d : Nat), s.tbRun = true → (s.tb n.val).rem = 0 → 0 < d →
    ∃ t, exec (.slewDone n (s.now + d)) s = .next t ∧ t.bit (pgTB n.val) F.TE_TB_STAT_SLEWING = false ∧
      (t.tb n.val).t = (((s.tb n.val).t : Int) + tbCycle (s.tb n.val).rate * d).toNat % tbSpan ∧ OnlyPages [pgTB n.val] s t)

/-- R242 to R244, R249 to R251: triggers and alarms, the inputs that give edges, and the outputs. -/
def Obligations.TimeEvents : Prop :=
  (∀ (s : State) (fn : Fn) (n : Fin 8) (k : Fin 3) (w : Word) (u : Nat), k.val < 2 → Reaches s fn.val (pgTB n.val + 0x09C + 8 * k.val) .tb n.val →
    ∃ t, exec (.trigArm fn n k w u) s = .next t ∧
      (if (s.at u).trigReached n.val k.val = true
        then t.bit (pgTB n.val) (F.TE_TB_TRIG_CTL_ARM.ix k.val) = false ∧ t.bit (pgTB n.val) (F.TE_TB_TRIG_CTL_FIRED.ix k.val) = true ∧
          t.bit (pgTB n.val) (F.TE_TB_TRIG_CTL_LATE.ix k.val) = true ∧ t.pends (pgTB n.val) 3 = true
        else t.bit (pgTB n.val) (F.TE_TB_TRIG_CTL_ARM.ix k.val) = true) ∧ OnlyPages [pgTB n.val] s t) ∧
  (∀ (s : State) (n : Fin 8) (k : Fin 2) (u : Nat), s.bit (pgTB n.val) (F.TE_TB_TRIG_CTL_ARM.ix k.val) = true →
    (s.at u).trigReached n.val k.val = true →
    ∃ t, exec (.triggerFire n k u) s = .next t ∧ t.bit (pgTB n.val) (F.TE_TB_TRIG_CTL_ARM.ix k.val) = false ∧
      t.bit (pgTB n.val) (F.TE_TB_TRIG_CTL_FIRED.ix k.val) = true ∧ t.pends (pgTB n.val) 3 = true ∧
      OnlyRegs [pgTB n.val + 0x09C + 8 * k.val, pgTB n.val + 0x014] s t) ∧
  (∀ (s : State) (n : Fin 8) (u : Nat), s.bit (pgTB n.val) F.TE_TB_ALM_CTL_ARM = true → s.alarmNs n.val ≤ (s.at u).tNs n.val →
    ∃ t, exec (.alarmFire n u) s = .next t ∧ t.bit (pgTB n.val) F.TE_TB_ALM_CTL_ARM = false ∧
      t.bit (pgTB n.val) F.TE_TB_ALM_CTL_FIRED = true ∧ t.pends (pgTB n.val) 3 = true ∧
      OnlyRegs [pgTB n.val + 0x0B4, pgTB n.val + 0x014] s t) ∧
  (∀ (s : State) (k : Fin 2) (b : Bool) (u : Nat), (sget {} s.pps k.val).last = none →
    b = false ∨ s.bit pgTE (F.TE_PPSI_CFG_POL_AUTO.ix k.val) = false ∨ (sget {} s.pps k.val).run + 1 < 3 →
    (∀ n, n < 8 → ((s.at u).tb n).held = none ∧ s.bit (pgTB n) F.TE_TB_REF_CFG_EN = false) →
    ∃ t, exec (.ppsEdge k b u) s = .next t ∧ t.bit pgTE (F.TE_PPSI_CFG_PRESENT.ix k.val) = true ∧
      t.get pgTE (F.TE_PPSI_CFG_EDGES.ix k.val) = (s.get pgTE (F.TE_PPSI_CFG_EDGES.ix k.val) + 1) % 2 ^ 16 ∧
      t.raw pgTE k.val = false ∧ (sget {} t.pps k.val).last = some (max s.now u) ∧
      OnlyRegs (evtWords pgTE ++ [pgTE + 0x0C8 + 4 * k.val]) s t) ∧
  (∀ (s : State) (k : Fin 2) (u : Nat), s.bit pgTE (F.TE_PPSI_CFG_POL_AUTO.ix k.val) = true →
    s.bit pgTE (F.TE_PPSI_CFG_INV.ix k.val) = false → 2 ≤ (sget {} s.pps k.val).run →
    ∃ t, exec (.ppsEdge k true u) s = .next t ∧ t.bit pgTE (F.TE_PPSI_CFG_INV.ix k.val) = true ∧
      t.bit pgTE (F.TE_PPSI_CFG_POL_FIX.ix k.val) = true ∧ t.pends pgTE 2 = true) ∧
  (∀ (s : State) (k : Fin 2) (u l : Nat), (sget {} s.pps k.val).last = some l →
    max s.now u < l + 999 * cyclesMs ∨ l + 1001 * cyclesMs < max s.now u →
    ∃ t, exec (.ppsEdge k false u) s = .next t ∧ (sget {} t.pps k.val).last = some l ∧
      t.get pgTE (F.TE_PPSI_CFG_GLITCH.ix k.val) = min (s.get pgTE (F.TE_PPSI_CFG_GLITCH.ix k.val) + 1) (2 ^ 12 - 1) ∧
      OnlyRegs [pgTE + 0x0C8 + 4 * k.val] s t) ∧
  (∀ (s : State) (k : Fin 2) (u l : Nat), (sget {} s.pps k.val).last = some l → l + 1500 * cyclesMs ≤ max s.now u →
    ∃ t, exec (.ppsInLoss k u) s = .next t ∧ t.bit pgTE (F.TE_PPSI_CFG_PRESENT.ix k.val) = false ∧ t.raw pgTE k.val = true ∧
      (sget {} t.pps k.val).last = none ∧ OnlyRegs (evtWords pgTE ++ [pgTE + 0x0C8 + 4 * k.val]) s t) ∧
  (∀ (s : State) (u : Nat), s.get pgTE F.TE_FSYNC_CFG_MODE ≠ 0 → s.fsyncLast = none →
    ∃ t, exec (.fsyncEdge u) s = .next t ∧ t.fsyncLast = some (max s.now u) ∧ t.bit pgTE F.TE_FSYNC_STAT_PRESENT = true ∧
      t.raw pgTE 3 = false) ∧
  (∀ (s : State) (u l : Nat), s.get pgTE F.TE_FSYNC_CFG_MODE ≠ 0 → s.fsyncLast = some l →
    max s.now u + 2488 < l + s.fsyncPeriod ∨ l + s.fsyncPeriod + 2488 < max s.now u →
    ∃ t, exec (.fsyncEdge u) s = .next t ∧ t.fsyncLast = some l ∧
      t.get pgTE F.TE_FSYNC_STAT_GLITCH = min (s.get pgTE F.TE_FSYNC_STAT_GLITCH + 1) (2 ^ 16 - 1) ∧ OnlyRegs [pgTE + 0x0D4] s t) ∧
  (∀ (s : State) (u l : Nat), s.get pgTE F.TE_FSYNC_CFG_MODE ≠ 0 → s.fsyncLast = some l → 2 * l + 3 * s.fsyncPeriod ≤ 2 * max s.now u →
    ∃ t, exec (.fsyncLoss u) s = .next t ∧ t.fsyncLast = none ∧ t.bit pgTE F.TE_FSYNC_STAT_PRESENT = false ∧ t.raw pgTE 3 = true) ∧
  (∀ (s : State) (m : Fin 2) (u : Nat), s.bit pgTE (F.TE_PPSO_CFG_EN.ix m.val) = true →
    ((s.at u).tb (s.get pgTE (F.TE_PPSO_CFG_TB.ix m.val))).rem = 0 →
    ((((s.at u).tb (s.get pgTE (F.TE_PPSO_CFG_TB.ix m.val))).t : Int) + ppsLat -
        s.getI pgTE (F.TE_PPSO_OFS_OFS.ix m.val) * tbUnit) % (1000000000 * tbUnit : Nat) <
      tbCycle ((s.at u).tb (s.get pgTE (F.TE_PPSO_CFG_TB.ix m.val))).rate →
    ((s.at u).tb (s.get pgTE (F.TE_PPSO_CFG_TB.ix m.val))).t + tbCycle ((s.at u).tb (s.get pgTE (F.TE_PPSO_CFG_TB.ix m.val))).rate < tbSpan →
    ∃ t, exec (.ppsOut m u) s = .next t ∧ t.out = .ppsOut m.val (s.get pgTE (F.TE_PPSO_CFG_WIDTH.ix m.val)) :: s.out ∧
      t.ppsHigh m.val = decide (s.get pgTE (F.TE_PPSO_CFG_WIDTH.ix m.val) ≠ 0) ∧ OnlyRegs [] s t) ∧
  (∀ (s : State) (fn : Fn) (w : Word), Reaches s fn.val (pgTE + 0x0F0) .te 0 →
    ∃ t, exec (.clr1step fn w) s = .next t ∧ t.get pgTE F.TE_1STEP_SKIP_COUNT = 0 ∧
      OnlyRegs (cfgWords pgTE ++ [pgTE + 0x0F0, pgTE + 0x0F4]) s t)

/-- R248, R469, R503: the loss and the return of a reference clock, and the move back to it. -/
def Obligations.References : Prop :=
  (∀ (s : State), s.refOk 0 = true →
    ∃ t, exec (.refclkLoss 0) s = .next t ∧ t.refOk 0 = false ∧ t.raw pgTE 4 = true ∧ t.bit pgTE F.TE_REF_STAT_INT = true ∧
      (t.get pgPW F.PW_WAKE_STATUS_REF_FB).testBit 0 = true ∧ ∀ n, n < 48 → s.en (pgPE n 0) = true → (t.pe n).running = false) ∧
  (∀ (s : State), s.refOk 1 = true →
    ∃ t, exec (.refclkLoss 1) s = .next t ∧ t.refOk 1 = false ∧ t.raw pgTE 5 = true ∧ t.refAbsent.testBit 1 = true) ∧
  (∀ (s : State), s.refOk 2 = true →
    ∃ t, exec (.refclkLoss 2) s = .next t ∧ t.refOk 2 = false ∧ t.raw pgTE 6 = true ∧
      (t.get pgPW F.PW_WAKE_STATUS_REF_FB).testBit 2 = true) ∧
  (∀ (s : State) (r : Fin 3), r ≠ 1 →
    ∃ t, exec (.refclkReturn r) s = .next t ∧ t.refOk r.val = true ∧ t.raw pgTE (4 + r.val) = false ∧
      OnlyRegs (evtWords pgTE ++ [pgTE + 0x0C4]) s t) ∧
  (∀ (s : State), (s.get pgPW F.PW_WAKE_STATUS_REF_FB).testBit 1 = false →
    ∃ t, exec (.refclkReturn 1) s = .next t ∧ t.refOk 1 = true ∧ t.raw pgTE 5 = false ∧ t.refAbsent.testBit 1 = false) ∧
  (∀ (s : State) (fn : Fn) (w : Word), Reaches s fn.val (pgTE + 0x0C0) .te 0 → s.refOk 0 = true →
    ∃ t, exec (.ret fn w) s = .next t ∧ t.bit pgTE F.TE_REF_STAT_INT = false ∧
      (t.get pgPW F.PW_WAKE_STATUS_REF_FB).testBit 0 = false) ∧
  (∀ (s : State) (fn : Fn) (w : Word), Reaches s fn.val (pgTE + 0x0C0) .te 0 → s.refOk 0 = false →
    exec (.ret fn w) s = .next s) ∧
  (∀ (s : State) (fn : Fn) (w : Word), Reaches s fn.val (pgPW + 0x070) .pw 0 → w.toNat.testBit 0 = true → s.refOk 0 = true →
    ∃ t, exec (.pwRefSwitch fn w) s = .next t ∧ t.bit pgTE F.TE_REF_STAT_INT = false ∧
      (t.get pgPW F.PW_WAKE_STATUS_REF_FB).testBit 0 = false)

/-- R256 to R266, R269 to R271: a gate list is submitted, cancelled, disabled and started, its tables are exchanged and copied, its state
shows, and a packet too long for its gate goes; the histograms close together, and the skip counts are cleared. -/
def Obligations.GatesAndLatency : Prop :=
  (∀ (s : State) (fn : Fn) (n : Fin 64) (w : Word) (u : Nat), Reaches s fn.val (pgGL n.val + 0x0C0) (.gt (n.val + 2)) 0 →
    w.toNat.testBit 29 = false → w.toNat.testBit 31 = true →
    ((s.at u).storeFields (.gt (n.val + 2)) 0 fn.val (pgGL n.val + 0x0C0) (w ||| maskBit 30).toNat).1.submitBad n.val = false → s.quiescing (pgGT 0) = false →
    ∃ t, exec (.configChange fn n w u) s = .next t ∧ t.bit (pgGL n.val) F.GT_STATUS_PEND = true ∧
      (t.glist n.val).pend ≠ none ∧ (∀ st ∈ (t.glist n.val).pend, s.adminBase n.val ≤ st ∧
        (st - s.adminBase n.val) % s.get (pgGL n.val) F.GT_ADMIN_CYCLE_CYCLE = 0 ∧
        t.glT n.val + s.get (pgGL n.val) F.GT_CFG_SETUP * 1000 * tbUnit ≤ st * tbUnit)) ∧
  (∀ (s : State) (fn : Fn) (n : Fin 64) (w : Word) (u : Nat), Reaches s fn.val (pgGL n.val + 0x0C0) (.gt (n.val + 2)) 0 →
    w.toNat.testBit 29 = false → w.toNat.testBit 31 = true →
    ((s.at u).storeFields (.gt (n.val + 2)) 0 fn.val (pgGL n.val + 0x0C0) (w ||| maskBit 30).toNat).1.submitBad n.val = true ∨ s.quiescing (pgGT 0) = true →
    ∃ t, exec (.configChange fn n w u) s = .next t ∧ t.bit (pgGL n.val) F.GT_STATUS_REJ = true ∧ t.gl = s.gl ∧
      OnlyPages [pgGL n.val] s t) ∧
  (∀ (s : State) (fn : Fn) (n : Fin 64) (w : Word) (u : Nat), Reaches s fn.val (pgGL n.val + 0x0C0) (.gt (n.val + 2)) 0 →
    ∃ t, exec (.gtCancel fn n w u) s = .next t ∧ t.bit (pgGL n.val) F.GT_STATUS_PEND = false ∧ (t.glist n.val).pend = none ∧
      OnlyPages [pgGL n.val] s t) ∧
  (∀ (s : State) (fn : Fn) (n : Fin 64) (w : Word) (u : Nat), Reaches s fn.val (pgGL n.val + 0x0C0) (.gt (n.val + 2)) 0 →
    s.bit (pgGL n.val) F.GT_CTRL_EN = true →
    ((s.at u).storeFields (.gt (n.val + 2)) 0 fn.val (pgGL n.val + 0x0C0) (w &&& 0x3FFFFFFF).toNat).1.bit (pgGL n.val) F.GT_CTRL_EN = false →
    ∃ t, exec (.gtDisable fn n w u) s = .next t ∧ t.bit (pgGL n.val) F.GT_CTRL_EN = false ∧
      t.bit (pgGL n.val) F.GT_STATUS_PEND = false ∧ t.bit (pgGL n.val) F.GT_STATUS_OPER = false ∧
      t.get (pgGL n.val) F.GT_STATUS_GATES = 0xFF ∧ (t.glist n.val).pend = none ∧ OnlyPages [pgGL n.val] s t) ∧
  (∀ (s : State) (n : Fin 64) (u st : Nat), (s.glist n.val).pend = some st → s.bit (pgGL n.val) F.GT_STATUS_PEND = true →
    st * tbUnit ≤ (s.at u).glT n.val →
    ∃ t, exec (.gtListStart n u) s = .next t ∧ t.bit (pgGL n.val) F.GT_STATUS_OPER = true ∧
      t.bit (pgGL n.val) F.GT_STATUS_COPY = true ∧ t.bit (pgGL n.val) F.GT_STATUS_PEND = false ∧ (t.glist n.val).pend = none ∧
      t.get (pgGL n.val) F.GT_OPER_CYCLE_CYCLE = s.get (pgGL n.val) F.GT_ADMIN_CYCLE_CYCLE ∧
      t.get (pgGL n.val) F.GT_OPER_BASE_NS_NS = st % 1000000000 ∧
      (∀ i, i < 1024 → t.ent (pgGL n.val) 1 i = s.ent (pgGL n.val) 0 i ∧ t.ent (pgGL n.val) 0 i = s.ent (pgGL n.val) 1 i) ∧
      t.get (pgGL n.val) F.GEN_COUNT = (s.get (pgGL n.val) F.GEN_COUNT + 1) % 2 ^ 32 ∧
      (∀ a, a / 4096 * 4096 ∉ [pgGL n.val] → t.reg a = s.reg a)) ∧
  (∀ (s : State) (n : Fin 64), s.bit (pgGL n.val) F.GT_STATUS_COPY = true →
    ∃ t, exec (.gtCopyDone n) s = .next t ∧ t.bit (pgGL n.val) F.GT_STATUS_COPY = false ∧
      (∀ i, i < 1024 → t.ent (pgGL n.val) 0 i = s.ent (pgGL n.val) 1 i) ∧
      (∀ a, a ∉ [pgGL n.val + F.GT_STATUS_COPY.off] → t.reg a = s.reg a)) ∧
  (∀ (s : State) (n : Fin 64) (u : Nat),
    ∃ t, exec (.gtEntryChange n u) s = .next t ∧ t.get (pgGL n.val) F.GT_STATUS_GATES = ((s.at u).gates n.val).1 % 2 ^ 8 ∧
      OnlyRegs [pgGL n.val + F.GT_STATUS_GATES.off] s t) ∧
  (∀ (s : State) (n : Fin 64) (q u a : Nat) (p : QPkt) (r : List QPkt), s.nodeValid (if n.val < 48 then 0 else 4) q = true →
    s.rootOf (if n.val < 48 then 0 else 4) q = (if n.val < 48 then n.val else n.val - 48) →
    (s.tmq (if n.val < 48 then 0 else 4) q).pkts = p :: r → p.oversize = some a →
    (s.at u).isOversize n.val (if n.val < 48 then 0 else 4) q p = true →
    s.get (pgGL n.val) F.GT_CFG_HOLD_LIMIT + a ≤ (s.at u).glStarts n.val →
    ∃ t, exec (.gtOversize n q u) s = .next t ∧ (t.tmq (if n.val < 48 then 0 else 4) q).pkts = r ∧
      t.count (pgGL n.val) C.GT_OVERSIZE = min (s.count (pgGL n.val) C.GT_OVERSIZE + 1) (2 ^ 32 - 1)) ∧
  (∀ (s : State) (u : Nat), ∃ t, exec (.histClose u) s = .next t ∧
    t.get pLAT F.TM_LAT_SEQ_SEQ = (s.get pLAT F.TM_LAT_SEQ_SEQ + 1) % 2 ^ 16 ∧ t.pends pTM 1 = true ∧
    t.tm.histStart = ((s.at u).tb (s.get pLAT F.TM_LAT_CFG_TB)).t / tbUnit % 2 ^ 64) ∧
  (∀ (s : State) (fn : Fn) (w : Word), Reaches s fn.val (pLAT + 0x0C0) (.tm 2) 0 →
    ∃ t, exec (.latClr fn w) s = .next t ∧ t.get pLAT F.EPOCH_SKIP_COUNT = 0 ∧ t.get pLAT F.HIST_CARRY_COUNT = 0 ∧
      OnlyRegs (cfgWords pLAT ++ [pLAT + 0x0C0, pLAT + F.EPOCH_SKIP_COUNT.off, pLAT + F.HIST_CARRY_COUNT.off]) s t)

/-- R297, R304 to R306: pressure on a hashed table, reseeding by command and by itself, the end of a reseed, and the rebuilding
of the length filter, with what each leaves unchanged. That a command that arrives before its condition holds changes nothing
but the instant is the model's choice (log entry 6). -/
def Obligations.HashedTables : Prop :=
  (∀ (s : State) (i : Fin 3) (u : Nat), 1 ≤ sget 0 s.lk.cond i.val →
    sget 0 s.lk.cond i.val - 1 + s.get pLK F.LK_HP_CFG_HOLD * cyclesPerSec ≤ (s.at u).now →
    ∃ t, exec (.hashPressure i u) s = .next t ∧ t.bit pLK (F.LK_HP_STAT_PRESS.ix i.val) = true ∧ t.raw pLK 1 = true ∧ t.lk = s.lk ∧
      OnlyRegs (evtWords pLK ++ [pLK + (F.LK_HP_STAT_PRESS.ix i.val).off]) s t) ∧
  (∀ (s : State) (i : Fin 3) (u : Nat), sget 0 s.lk.cond i.val = 0 ∨
    (s.at u).now < sget 0 s.lk.cond i.val - 1 + s.get pLK F.LK_HP_CFG_HOLD * cyclesPerSec →
    exec (.hashPressure i u) s = .next (s.at u)) ∧
  (∀ (s : State) (fn : Fn) (w : Word) (u i : Nat), Reaches s fn.val (pLK + 0x0D8) (.lk 0) 0 → i = fld w.toNat 29 28 → i < 3 →
    (s.at u).reseedOk i = true → s.sc.rngBad = false →
    ∃ t, exec (.reseedStart fn w u) s = .next t ∧ t.bit pLK F.LK_RSD_JRNL_ACTIVE = true ∧ t.get pLK F.LK_RSD_JRNL_TID = i ∧
      t.get pLK F.LK_RSD_JRNL_GEN = (1 - sget 0 s.lk.gens i) % 2 ∧ t.get pLK F.LK_RSD_JRNL_CURSOR = 0 ∧
      t.count pLK C.LK_RESEEDS = (s.count pLK C.LK_RESEEDS + 1) % 2 ^ 32 ∧ t.lk.gens = s.lk.gens ∧ OnlyPages [pLK] s t) ∧
  (∀ (s : State) (fn : Fn) (w : Word) (u i : Nat), Reaches s fn.val (pLK + 0x0D8) (.lk 0) 0 → i = fld w.toNat 29 28 → i < 3 →
    (s.at u).reseedOk i = true → s.sc.rngBad = true →
    ∃ t, exec (.reseedStart fn w u) s = .next t ∧ t.lk.waiting = some (i, false) ∧
      t.bit pLK F.LK_RSD_JRNL_ACTIVE = s.bit pLK F.LK_RSD_JRNL_ACTIVE ∧
      t.count pLK C.LK_RESEEDS = s.count pLK C.LK_RESEEDS ∧ OnlyPages [pLK] s t) ∧
  (∀ (s : State) (fn : Fn) (w : Word) (u : Nat), Reaches s fn.val (pLK + 0x0D8) (.lk 0) 0 →
    fld w.toNat 29 28 = 3 ∨ (s.at u).reseedOk (fld w.toNat 29 28) = false →
    ∃ t, exec (.reseedStart fn w u) s = .next t ∧ t.bit pLK F.LK_RSD_CTRL_REJ = true ∧ t.lk = s.lk ∧
      t.count pLK C.LK_RESEEDS = s.count pLK C.LK_RESEEDS ∧ OnlyRegs (cfgWords pLK ++ [pLK + 0x0D8]) s t) ∧
  (∀ (s : State) (i : Fin 3) (u : Nat), s.bit pLK (F.LK_HP_STAT_PRESS.ix i.val) = true → s.bit pLK F.LK_HP_CFG_AUTO = true →
    (s.at u).reseedOk i.val = true → s.sc.rngBad = false →
    ∃ t, exec (.reseedAuto i u) s = .next t ∧ t.bit pLK F.LK_RSD_JRNL_ACTIVE = true ∧ t.get pLK F.LK_RSD_JRNL_TID = i.val ∧
      t.get pLK F.LK_RSD_JRNL_GEN = (1 - sget 0 s.lk.gens i.val) % 2 ∧ t.get pLK F.LK_RSD_JRNL_CURSOR = 0 ∧
      t.count pLK C.LK_RESEEDS = (s.count pLK C.LK_RESEEDS + 1) % 2 ^ 32 ∧
      OnlyRegs [pLK + F.LK_RSD_JRNL_ACTIVE.off] s t) ∧
  (∀ (s : State) (i : Fin 3) (u : Nat), s.bit pLK (F.LK_HP_STAT_PRESS.ix i.val) = false ∨ s.bit pLK F.LK_HP_CFG_AUTO = false ∨
    (s.at u).reseedOk i.val = false → exec (.reseedAuto i u) s = .next (s.at u)) ∧
  (∀ (s : State) (u i g : Nat), i < 3 → s.bit pLK F.LK_RSD_JRNL_ACTIVE = true → i = s.get pLK F.LK_RSD_JRNL_TID → g = s.get pLK F.LK_RSD_JRNL_GEN →
    ∃ t, exec (.reseedDone u) s = .next t ∧ t.bit pLK F.LK_RSD_JRNL_ACTIVE = false ∧ sget 0 t.lk.gens i = g ∧
      t.get pLK F.LK_RSD_JRNL_CURSOR = lkSize i ∧ sget 0 t.lk.gap i = (s.at u).now + 1 ∧ t.pends pLK 2 = true ∧
      (∀ a, a / 4096 * 4096 ∉ [pLK] → t.reg a = s.reg a)) ∧
  (∀ (s : State) (u : Nat), s.bit pLK F.LK_RSD_JRNL_ACTIVE = false → exec (.reseedDone u) s = .next (s.at u)) ∧
  (∀ (s : State) (fn : Fn) (w : Word), Reaches s fn.val (pLK + 0x0E0) (.lk 0) 0 → s.bit pLK F.LK_PFX_CTRL_BUSY = false →
    ∃ t, exec (.rebuild fn w) s = .next t ∧ t.bit pLK F.LK_PFX_CTRL_BUSY = true ∧ t.lk.filt = s.lk.filt ∧
      (∀ p ∈ s.used pLK 2, 16 < eget p.2 ⟨4, 23, 16⟩ →
        (sget 0 t.lk.shadow (filtKey (eget p.2 ⟨4, 31, 31⟩) (p.2.toNat % 2 ^ 128))).testBit (eget p.2 ⟨4, 23, 16⟩) = true) ∧
      OnlyRegs [pLK + 0x0E0] s t) ∧
  (∀ (s : State) (fn : Fn) (w : Word), Reaches s fn.val (pLK + 0x0E0) (.lk 0) 0 → s.bit pLK F.LK_PFX_CTRL_BUSY = true →
    exec (.rebuild fn w) s = .next s) ∧
  (∀ (s : State), s.bit pLK F.LK_PFX_CTRL_BUSY = true →
    ∃ t, exec .rebuildDone s = .next t ∧ t.bit pLK F.LK_PFX_CTRL_BUSY = false ∧ t.lk.filt = s.lk.shadow ∧
      t.get pLK F.LK_PFX_CTRL_REBUILDS = (s.get pLK F.LK_PFX_CTRL_REBUILDS + 1) % 2 ^ 16 ∧ OnlyRegs [pLK + 0x0E0] s t) ∧
  (∀ (s : State), s.bit pLK F.LK_PFX_CTRL_BUSY = false → exec .rebuildDone s = .next s)

/-- R36, R275, R280, R282, R285, R290 to R293, R298: whose packet passes next, where the lookup
pass sends it, what it learns of the source address, what
LEARN inserts, and the end of a second of moves with the freeze of a source. -/
def Obligations.Forwarding : Prop :=
  (∀ (s : State) (m : CtiMsg) (u : Nat), (∃ y ∈ s.lookups, y.src < 64) →
    ∃ t, exec (.lookupPass m u) s = .next t ∧ t.lookups.length + 1 = s.lookups.length ∧ t.lk.turn = s.lkTurn.1 ∧
      ((∃ y ∈ s.lookups, y.src = s.lk.turn) → 0 < s.lk.credit → t.lk.turn = s.lk.turn) ∧
      (t.lk.credit = s.lkTurn.2 - 2 ∨ t.lk.credit = s.lkTurn.2 - 3)) ∧
  (∀ (s : State) (m : CtiMsg) (u : Nat) (x : LkIn) (l r : List LkIn), s.lookups = l ++ x :: r → (∀ y ∈ l, y.src ≠ x.src) →
    s.lkTurn.1 = x.src → s.en pLK = false ∨ s.bit pLK F.ST_READY = false →
    ∃ t, exec (.lookupPass m u) s = .next t ∧ t.lookups = l ++ r ∧ t.count pLK C.LK_DROP = min (s.count pLK C.LK_DROP + 1) (2 ^ 32 - 1) ∧
      t.tm = s.tm ∧ OnlyRegs [] s t) ∧
  (∀ (s : State) (u : Nat) (x : LkIn) (l r : List LkIn), s.lookups = l ++ x :: r → (∀ y ∈ l, y.src ≠ x.src) →
    s.lkTurn.1 = x.src → s.en pLK = true → s.bit pLK F.ST_READY = true →
    s.isCti x.src x.bytes = true →
    ∃ t, exec (.lookupPass (.report [none]) u) s = .next t ∧ t.lookups = l ++ r ∧
      t.count pLK C.LK_CTI_RX = (s.count pLK C.LK_CTI_RX + 1) % 2 ^ 32 ∧ t.tm = s.tm ∧
      (∀ k, k < 6 → t.get (pgGS k 0) F.GS_HINT_BAD_COUNT = min (s.get (pgGS k 0) F.GS_HINT_BAD_COUNT + 1) 0xFFFFFFFF) ∧
      OnlyPages ((List.range 6).map (fun k => pgGS k 0)) s t) ∧
  (∀ (s : State) (m : CtiMsg) (u n i : Nat) (x : LkIn) (l r : List LkIn) (e : Entry), s.lookups = l ++ x :: r → (∀ y ∈ l, y.src ≠ x.src) →
    s.lkTurn.1 = x.src → s.en pLK = true →
    s.bit pLK F.ST_READY = true → s.isCti x.src x.bytes = false → n = s.getE pLK 7 x.src ⟨0, 3, 0⟩ →
    s.lkFind 0 (clsKey n (packKey (s.getE pLK 6 n ⟨0, 14, 0⟩) 0 (keyFields x.src x.xgem x.bytes))) = some (i, e) →
    eget e rFMODE = 4 → eget e rSTREAM = 0 →
    ∃ t, exec (.lookupPass m u) s = .next t ∧ t.lookups = l ++ r ∧ t.ent pLK 0 i = ewPut e 10 (ew e 10 + 1) ∧
      t.count pLK C.LK_DROP = min (s.count pLK C.LK_DROP + 1) (2 ^ 32 - 1) ∧ t.tm = s.tm ∧
      (∀ a, a ∉ [] → t.reg a = s.reg a) ∧ (∀ pg u j, tkey pg u j ≠ tkey pLK 0 i → t.ent pg u j = s.ent pg u j)) ∧
  (∀ (s : State) (m : CtiMsg) (u n q : Nat) (x : LkIn) (l r : List LkIn), s.lookups = l ++ x :: r → (∀ y ∈ l, y.src ≠ x.src) →
    s.lkTurn.1 = x.src → s.en pLK = true →
    s.bit pLK F.ST_READY = true → s.isCti x.src x.bytes = false → n = s.getE pLK 7 x.src ⟨0, 3, 0⟩ →
    s.lkFind 0 (clsKey n (packKey (s.getE pLK 6 n ⟨0, 14, 0⟩) 0 (keyFields x.src x.xgem x.bytes))) = none →
    eget (s.ent pLK 6 n) rFMODE = 2 → eget (s.ent pLK 6 n) rSTREAM = 0 → eget (s.ent pLK 6 n) rPOLEN = 0 →
    eget (s.ent pLK 6 n) rOS = 0 → eget (s.ent pLK 6 n) rTAGACT = 0 → s.get pgPX F.PX_STATE_STATE ≠ 3 → s.mayLearn x.src (eget (s.ent pLK 6 n) rBD) = false →
    s.lkFind 1 (l2Key (eget (s.ent pLK 6 n) rBD) (fieldZ x.bytes 6 6)) = none →
    destPair (ew (s.ent pLK 6 n) 8) = (1, q) →
    ∃ t, exec (.lookupPass m u) s = .next t ∧ t.lookups = l ++ r ∧ t.count pLK C.LK_CLS_MISS = (s.count pLK C.LK_CLS_MISS + 1) % 2 ^ 32 ∧
      t.tm.offers = s.tm.offers ++ [{ pkt := { bytes := x.bytes, charge := x.src, ingress := x.stamps }, dests := [(0, q)] }] ∧ OnlyRegs [] s t) ∧
  (∀ (s : State) (m : CtiMsg) (u n q : Nat) (x : LkIn) (l r : List LkIn) (b : Nat), s.lookups = l ++ x :: r → (∀ y ∈ l, y.src ≠ x.src) →
    s.lkTurn.1 = x.src → s.en pLK = true →
    s.bit pLK F.ST_READY = true → s.isCti x.src x.bytes = false → n = s.getE pLK 7 x.src ⟨0, 3, 0⟩ →
    s.lkFind 0 (clsKey n (packKey (s.getE pLK 6 n ⟨0, 14, 0⟩) 0 (keyFields x.src x.xgem x.bytes))) = none →
    eget (s.ent pLK 6 n) rFMODE = 0 → eget (s.ent pLK 6 n) rSTREAM = 0 → eget (s.ent pLK 6 n) rPOLEN = 0 →
    eget (s.ent pLK 6 n) rOS = 0 → eget (s.ent pLK 6 n) rTAGACT = 0 → s.get pgPX F.PX_STATE_STATE ≠ 3 → s.mayLearn x.src (eget (s.ent pLK 6 n) rBD) = false →
    b = eget (s.ent pLK 6 n) rBD → s.lkFind 1 (l2Key b (fieldZ x.bytes 6 6)) = none →
    s.lkFind 1 (l2Key b (fieldZ x.bytes 0 6)) = none → (fieldZ x.bytes 0 6 / 2 ^ 40).testBit 0 = false →
    destPair (ew (s.bd b) 1) = (2, q) → q + eget (s.ent pLK 6 n) rQOFS ≤ 4095 → (2, q) ≠ rLDEST (s.ent pLK 6 n) →
    ∃ t, exec (.lookupPass m u) s = .next t ∧ t.lookups = l ++ r ∧ t.count pLK C.LK_DA_MISS = (s.count pLK C.LK_DA_MISS + 1) % 2 ^ 32 ∧
      (t.tm.offers.getLast?.map (fun o => o.dests)) = some [(4, q + eget (s.ent pLK 6 n) rQOFS)] ∧ OnlyRegs [] s t) ∧
  (∀ (s : State) (res : Entry) (d : List Byte), (parse d).ip4 = true → fieldZ d ((parse d).l3 + 8) 1 ≤ 1 →
    (routePkt res d s).1 = .punt 2 ∧ (routePkt res d s).2 = s.bump pLK C.LK_TTL_PUNT) ∧
  (∀ (s : State) (res : Entry) (d : List Byte), (parse d).ip4 = true → 2 ≤ fieldZ d ((parse d).l3 + 8) 1 →
    s.lpm (eget (s.bd (eget res rBD)) bVRF) 0 (fieldZ d ((parse d).l3 + 16) 4) = none →
    (routePkt res d s).1 = .drop ∧ (routePkt res d s).2.count pLK C.LK_PFX_MISS = (s.count pLK C.LK_PFX_MISS + 1) % 2 ^ 32) ∧
  (∀ (s : State) (res x : Entry) (d : List Byte) (nh i q : Nat), (parse d).ip4 = true → 2 ≤ fieldZ d ((parse d).l3 + 8) 1 →
    s.lpm (eget (s.bd (eget res rBD)) bVRF) 0 (fieldZ d ((parse d).l3 + 16) 4) = some nh → eget (s.ent pLK 4 nh) ⟨1, 31, 30⟩ = 0 →
    s.lkFind 1 (l2Key (eget (s.ent pLK 4 nh) ⟨1, 29, 16⟩) (ew (s.ent pLK 4 nh) 0 + eget (s.ent pLK 4 nh) ⟨1, 15, 0⟩ * 2 ^ 32)) =
      some (i, x) → destPair (ew x 2) = (1, q) →
    (routePkt res d s).1 = .to [(0, q)] (some (ew (s.ent pLK 4 nh) 0 + eget (s.ent pLK 4 nh) ⟨1, 15, 0⟩ * 2 ^ 32,
      rmac (s.bd (eget (s.ent pLK 4 nh) ⟨1, 29, 16⟩)))) ∧
      (routePkt res d s).2.getE pLK 1 i lHIT = 1) ∧
  (∀ (s : State) (src a : Nat) (res : Entry), s.lkFind 1 (l2Key (eget res rBD) a) = none → s.mayLearn src (eget res rBD) = true →
    s.frozenSrc src = false → eget (s.bd (eget res rBD)) bLIMIT = 0 ∨ eget (s.bd (eget res rBD)) bCOUNT < eget (s.bd (eget res rBD)) bLIMIT →
    s.lk.learns.any (fun p => p.1 == (l2Key (eget res rBD) a).toNat) = false → s.lk.learns.length < 4096 →
    (learnStage src res a s).1 = false ∧
      (learnStage src res a s).2.lk.learns = s.lk.learns ++ [((l2Key (eget res rBD) a).toNat, destNat (rLDEST res), src)]) ∧
  (∀ (s : State) (src a i : Nat) (res e : Entry), s.lkFind 1 (l2Key (eget res rBD) a) = some (i, e) → s.mayLearn src (eget res rBD) = true →
    s.frozenSrc src = false → eget e lSTATIC = 0 → destPair (ew e 2) ≠ rLDEST res →
    (learnStage src res a s).1 = false ∧ destPair (ew ((learnStage src res a s).2.ent pLK 1 i) 2) = rLDEST res ∧
      eget ((learnStage src res a s).2.ent pLK 1 i) lLSRC = src % 64 ∧
      (learnStage src res a s).2.count pLK C.LK_MOVES = (s.count pLK C.LK_MOVES + 1) % 2 ^ 32) ∧
  (∀ (s : State) (src a i : Nat) (res e : Entry), s.lkFind 1 (l2Key (eget res rBD) a) = some (i, e) → eget e lSTATIC = 1 →
    destPair (ew e 2) ≠ rLDEST res →
    ((learnStage src res a s).1 = true ↔ eget (s.bd (eget res rBD)) bSSDROP = 1) ∧
      (learnStage src res a s).2.count pLK C.LK_SA_STATIC = min (s.count pLK C.LK_SA_STATIC + 1) (2 ^ 32 - 1) ∧
      destPair (ew ((learnStage src res a s).2.ent pLK 1 i) 2) = destPair (ew e 2)) ∧
  (∀ (s : State) (u b : Nat) (k : Entry) (d src key : Nat) (r : List (Nat × Nat × Nat)), s.lk.learns = (key, d, src) :: r → k = BitVec.ofNat 512 key →
    b = eget k ⟨1, 29, 16⟩ → s.lkFind 1 k = none → 1 ≤ eget (s.bd b) bLIMIT → eget (s.bd b) bLIMIT ≤ eget (s.bd b) bCOUNT →
    ∃ t, exec (.learn u) s = .next t ∧ t.lk.learns = r ∧ t.count pLK C.LK_LIMIT_DROP = min (s.count pLK C.LK_LIMIT_DROP + 1) (2 ^ 32 - 1) ∧
      OnlyRegs [] s t) ∧
  (∀ (s : State) (u b i : Nat) (k : Entry) (d src key : Nat) (r : List (Nat × Nat × Nat)), s.lk.learns = (key, d, src) :: r → k = BitVec.ofNat 512 key →
    b = eget k ⟨1, 29, 16⟩ → s.lkFind 1 k = none → eget (s.bd b) bLIMIT = 0 → i = (s.lkGen 1) →
    s.lkFree 1 (s.candidates 1 i (eput (ewPut k 2 d) lLSRC src)) ≠ none → eget k lSTATIC = 0 →
    ∃ t, exec (.learn u) s = .next t ∧ t.lk.learns = r ∧ t.count pLK C.LK_LEARNS = (s.count pLK C.LK_LEARNS + 1) % 2 ^ 32 ∧
      eget (t.bd b) bCOUNT = (eget (s.bd b) bCOUNT + 1) % 2 ^ 20 ∧ t.lk.ident = s.lk.ident + 1) ∧
  (∀ (s : State) (u n src : Nat), s.lk.moves = [(src, n)] → s.get pLK F.LK_LEARN_CFG_MOVE_THR < n → src < 64 →
    ∃ t, exec (.macMoveStorm u) s = .next t ∧ t.pends pLK 0 = true ∧ t.get pLK F.LK_MOVE_SRC_SRC = src ∧
      t.get pLK F.LK_MOVE_SRC_COUNT = min n 65535 ∧ t.lk.moves = [] ∧
      (s.get pLK F.LK_LEARN_CFG_FREEZE ≠ 0 → t.frozenSrc src = true) ∧ OnlyPages [pLK] s t) ∧
  (∀ (s : State) (u : Nat), (∀ p ∈ s.lk.moves, p.2 ≤ s.get pLK F.LK_LEARN_CFG_MOVE_THR) →
    ∃ t, exec (.macMoveStorm u) s = .next t ∧ t.pends pLK 0 = s.pends pLK 0 ∧ t.lk.frozen = s.lk.frozen ∧
      t.get pLK F.LK_MOVE_SRC_SRC = s.get pLK F.LK_MOVE_SRC_SRC ∧ t.lk.moves = [] ∧ OnlyPages [pLK] s t) ∧
  (∀ (s : State) (src : Fin 64) (u : Nat), s.frozenSrc src.val = true →
    sget 0 s.lk.frozen src.val - 1 + s.get pLK F.LK_LEARN_CFG_FREEZE * cyclesPerSec ≤ (s.at u).now →
    ∃ t, exec (.freezeExpiry src u) s = .next t ∧ t.frozenSrc src.val = false ∧ OnlyRegs [] s t) ∧
  (∀ (s : State) (src : Fin 64) (u : Nat), s.frozenSrc src.val = false ∨
    (s.at u).now < sget 0 s.lk.frozen src.val - 1 + s.get pLK F.LK_LEARN_CFG_FREEZE * cyclesPerSec →
    exec (.freezeExpiry src u) s = .next (s.at u))

/-- R311 to R318, R320, R322, R323, R325: the four operations on buffers, with what each leaves in the header, in the free count and in the
quota of the requester, and what it answers; the cache of a pool, its threading, REBUILD and CLR_MIN. That an operation with a reserved
ID does nothing is the model's choice (log entry 51). -/
def Obligations.BufferPools : Prop :=
  (∀ (s : State) (p : Fin 16) (k : Nat) (r q : Fin 128) (u h : Nat) (rest : List Nat), 1 ≤ k → k ≤ 127 → r.val ≤ 67 → q.val ≤ 67 →
    s.allocCause p.val k r.val = 0 → s.stackTop p.val k = h :: rest → rest.length + 1 = k →
    (∀ x ∈ s.stackTop p.val k, s.buffOk p.val x = true) →
    ∃ t, exec (.alloc p k r q u) s = .next t ∧ t.out = .allocated p.val h :: s.out ∧
      t.hdr h = headHdr 1 q.val r.val p.val 0 k (match rest with | [] => nilH | x :: _ => x) ∧
      t.poolFree p.val = s.poolFree p.val - k ∧
      t.getE pgBP 0 (p.val * 128 + r.val) qINUSE = s.getE pgBP 0 (p.val * 128 + r.val) qINUSE + k ∧
      t.getE pgBP 0 (p.val * 128 + r.val) qPEAK = max (s.getE pgBP 0 (p.val * 128 + r.val) qPEAK)
        (s.getE pgBP 0 (p.val * 128 + r.val) qINUSE + k) ∧
      t.count pgBP C.BP_ALLOCS = (s.count pgBP C.BP_ALLOCS + 1) % 2 ^ 32 ∧
      (∀ a, a ∉ [pgBP + (F.BP_POOL_STAT_FREE.ix p.val).off, pgBP + (F.BP_POOL_MIN_MIN.ix p.val).off] → t.reg a = s.reg a)) ∧
  (∀ (s : State) (p : Fin 16) (k : Nat) (r q : Fin 128) (u : Nat), 1 ≤ k → k ≤ 127 → r.val ≤ 67 → q.val ≤ 67 →
    s.allocCause p.val k r.val ≠ 0 →
    ∃ t, exec (.alloc p k r q u) s = .next t ∧ t.out = .noBuf p.val (s.allocCause p.val k r.val) :: s.out ∧ t.poolFree p.val = s.poolFree p.val ∧
      t.getE pgBP 0 (p.val * 128 + r.val) qNOBUF = min (s.getE pgBP 0 (p.val * 128 + r.val) qNOBUF + 1) (2 ^ 32 - 1) ∧
      ((s.at u).secSince s.bp.nobufAt = true → t.get pgBP F.BP_NOBUF_SRC_CAUSE = s.allocCause p.val k r.val ∧ t.pends pgBP 1 = true)) ∧
  (∀ (s : State) (p : Fin 16) (k : Nat) (r q : Fin 128) (u : Nat), k = 0 ∨ 127 < k ∨ 67 < r.val ∨ 67 < q.val →
    exec (.alloc p k r q u) s = .next (s.at u)) ∧
  (∀ (s : State) (h n : Nat) (f q : Fin 128), s.notHead h = none → hbits (s.hdr h) 53 47 = q.val → hbits (s.hdr h) 61 54 ≤ 1 →
    1 ≤ n → n ≤ 255 → requesterOk f.val = true →
    ∃ t, exec (.share h n f q) s = .next t ∧ hbits (t.hdr h) 61 54 = n ∧ hbits (t.hdr h) 53 47 = f.val ∧ OnlyRegs [] s t) ∧
  (∀ (s : State) (h n : Nat) (f q : Fin 128), s.notHead h = none → hbits (s.hdr h) 53 47 ≠ q.val →
    requesterOk f.val = true → s.bit pgBP F.BP_BAD_LAST_VALID = false →
    ∃ t, exec (.share h n f q) s = .next t ∧ t.bit pgBP F.BP_BAD_LAST_VALID = true ∧ t.get pgBP F.BP_BAD_LAST_REASON = 1 ∧
      t.get pgBP F.BP_BAD_LAST_REQ = q.val ∧ t.count pgBP C.BP_BAD_FREE = min (s.count pgBP C.BP_BAD_FREE + 1) (2 ^ 32 - 1) ∧
      t.pends pgBP 0 = true ∧ t.bp = s.bp) ∧
  (∀ (s : State) (h n : Nat) (f q : Fin 128), requesterOk f.val = false → exec (.share h n f q) s = .next s) ∧
  (∀ (s : State) (h : Nat) (q : Fin 128), s.notHead h = none → hbits (s.hdr h) 53 47 ≠ q.val → 2 < hbits (s.hdr h) 61 54 →
    ∃ t, exec (.release h q) s = .next t ∧ hbits (t.hdr h) 61 54 = hbits (s.hdr h) 61 54 - 1 ∧ OnlyRegs [] s t) ∧
  (∀ (s : State) (h : Nat) (q : Fin 128), s.notHead h = none → hbits (s.hdr h) 53 47 ≠ q.val → hbits (s.hdr h) 53 47 ≠ 127 →
    hbits (s.hdr h) 53 47 ≠ 65 → hbits (s.hdr h) 61 54 = 2 →
    ∃ t, exec (.release h q) s = .next t ∧ hbits (t.hdr h) 61 54 = 1 ∧
      t.out = .lastNotice (hbits (s.hdr h) 53 47) h :: s.out ∧ OnlyRegs [] s t) ∧
  (∀ (s : State) (h p : Nat) (q : Fin 128), s.notHead h = none → s.poolOf h = some p → hbits (s.hdr h) 53 47 = 127 → q.val ≠ 127 →
    hbits (s.hdr h) 61 54 = 2 →
    ∃ t, exec (.release h q) s = .next t ∧
      t.count pgBP C.BP_FREES = (s.count pgBP C.BP_FREES + 1) % 2 ^ 32 ∧
      t.poolFree p = (s.poolFree p + hbits (s.hdr h) 30 24) % 2 ^ 24) ∧
  (∀ (s : State) (h p : Nat) (q : Fin 128), s.notHead h = none → s.poolOf h = some p → hbits (s.hdr h) 53 47 = q.val →
    hbits (s.hdr h) 61 54 ≤ 1 →
    ∃ t, exec (.free h q) s = .next t ∧ t.poolFree p = (s.poolFree p + hbits (s.hdr h) 30 24) % 2 ^ 24 ∧
      t.count pgBP C.BP_FREES = (s.count pgBP C.BP_FREES + 1) % 2 ^ 32 ∧
      t.getE pgBP 0 (p * 128 + hbits (s.hdr h) 46 40) qINUSE =
        s.getE pgBP 0 (p * 128 + hbits (s.hdr h) 46 40) qINUSE - hbits (s.hdr h) 30 24) ∧
  (∀ (s : State) (p : Fin 16), s.bp.rebuild ≠ some p.val → (s.pool p.val).cache.length < 32 → (s.pool p.val).top ≠ nilH →
    (s.pool p.val).cache.length < s.poolFree p.val →
    ∃ t, exec (.cacheRefill p) s = .next t ∧
      (t.pool p.val).cache = (s.pool p.val).cache ++ listFrom p.val s (min (64 - (s.pool p.val).cache.length)
        (s.poolFree p.val - (s.pool p.val).cache.length)) (s.pool p.val).top ∧ OnlyRegs [] s t) ∧
  (∀ (s : State) (fn : Fn) (p : Fin 16), Reaches s fn.val (pgBP + 0x1C0) .bp 0 → s.bit pgBP F.BP_CMD_STAT_BUSY = false →
    ∃ t, exec (.bpRebuild fn p) s = .next t ∧ t.bit pgBP F.BP_CMD_STAT_BUSY = true ∧ t.bp.rebuild = some p.val ∧
      OnlyRegs (cfgWords pgBP ++ [pgBP + 0x1C0, pgBP + F.BP_CMD_STAT_BUSY.off]) s t) ∧
  (∀ (s : State) (p : Nat), s.bp.rebuild = some p → p < 16 →
    ∃ t, exec .bpRebuildDone s = .next t ∧ t.bit pgBP F.BP_CMD_STAT_BUSY = false ∧ t.bp.rebuild = none ∧
      t.bit pgBP (F.BP_POOL_STAT_BROKEN.ix p) = false ∧ OnlyPages [pgBP] s t) ∧
  (∀ (s : State) (fn : Fn) (p : Fin 16), Reaches s fn.val (pgBP + 0x1C0) .bp 0 → s.bit pgBP F.BP_CMD_STAT_BUSY = false →
    ∃ t, exec (.clrMin fn p) s = .next t ∧ t.get pgBP (F.BP_POOL_MIN_MIN.ix p.val) = s.poolFree p.val ∧ OnlyPages [pgBP] s t) ∧
  (∀ (s : State) (fn : Fn) (p : Fin 16) (w : Word), Reaches s fn.val (pgBP + 0x0C0 + 16 * p.val) .bp 0 →
    s.bit pgBP (F.BP_POOL_CFG_EN.ix p.val) = false →
    (s.storeFields .bp 0 fn.val (pgBP + 0x0C0 + 16 * p.val) (w ||| maskBit 31).toNat).1.bit pgBP (F.BP_POOL_CFG_EN.ix p.val) = true →
    ∃ t, exec (.poolEnable fn p w) s = .next t ∧ t.bit pgBP (F.BP_POOL_STAT_INIT.ix p.val) = true ∧ t.poolFree p.val = 0 ∧
      t.pool p.val = {} ∧ OnlyPages [pgBP] s t) ∧
  (∀ (s : State) (p : Fin 16), s.en pgBP = true → s.bit pgBP (F.BP_POOL_STAT_INIT.ix p.val) = true →
    ∃ t, exec (.poolInitDone p) s = .next t ∧ t.bit pgBP (F.BP_POOL_STAT_INIT.ix p.val) = false ∧
      t.poolFree p.val = s.get pgBP (F.BP_POOL_CFG_COUNT.ix p.val) ∧ OnlyPages [pgBP] s t)

/-- R326, R329, R331 to R333, R335 to R338, R344, R345, R476: a request's acceptance, the order of service, completion and ageing,
refresh and temperature, the patrol and parity retries, with the bytes of DRAM that change. That a write's bytes are stored at its completion, which
the order of R333 makes unobservable, is the model's choice (log entry 61). -/
def Obligations.DramService : Prop :=
  (∀ (s : State) (p : Fin 12) (sec : Bool) (a : BitVec 34) (n : Nat) (d : Option (List Byte)) (h : Option Nat) (u : Nat),
    reqFormed a.toNat n = false → exec (.dramRequest p sec a n d h u) s = .fault .dramAddress) ∧
  (∀ (s : State) (p : Fin 12) (sec : Bool) (a : BitVec 34) (n : Nat) (d : Option (List Byte)) (h : Option Nat) (u : Nat),
    reqFormed a.toNat n = true → dmViolates (s.portSec p.val sec) a.toNat s = false → s.bit pDM F.ST_FAULT = false ∨ d = none →
    s.dmTakes p.val = true → sget [] s.dm.waiting p.val = [] →
    ∃ t, exec (.dramRequest p sec a n d h u) s = .next t ∧
      t.dmQ p.val = s.dmQ p.val ++ [{ sec := s.portSec p.val sec, addr := a.toNat, len := n, data := d, handle := h, since := (s.at u).now, seq := s.dm.seq }] ∧
      t.getE pDM1 0 p.val dpQDEPTH = (s.dmQ p.val).length + 1 ∧ t.dm.mem = s.dm.mem ∧ t.out = s.out ∧
      (∀ a, a ∉ [] → t.reg a = s.reg a) ∧ (∀ pg x j, tkey pg x j ≠ tkey pDM1 0 p.val → t.ent pg x j = s.ent pg x j)) ∧
  (∀ (s : State) (p : Fin 12) (sec : Bool) (a : BitVec 34) (n : Nat) (d : Option (List Byte)) (h : Option Nat) (u : Nat),
    reqFormed a.toNat n = true → dmViolates (s.portSec p.val sec) a.toNat s = false → s.bit pDM F.ST_FAULT = false ∨ d = none →
    s.dmTakes p.val = false → (p ≠ 0 ∧ p ≠ 2) ∨ d = none →
    ∃ t, exec (.dramRequest p sec a n d h u) s = .next t ∧ t.dmQ p.val = s.dmQ p.val ∧
      (sget [] t.dm.waiting p.val).length = (sget [] s.dm.waiting p.val).length + 1 ∧ OnlyRegs [] s t) ∧
  (∀ (s : State) (p : Fin 12) (sec : Bool) (a : BitVec 34) (n : Nat) (h : Option Nat) (u : Nat),
    reqFormed a.toNat n = true → dmViolates (s.portSec p.val sec) a.toNat s = true → sget [] s.dm.waiting p.val = [] →
    ∃ t, exec (.dramRequest p sec a n none h u) s = .next t ∧ t.pends pgSC 0 = true ∧ t.out.head? = some (.dram p.val a.toNat none) ∧
      t.dmQ p.val = s.dmQ p.val ∧ OnlyRegs (evtWords pgSC ++ [pgSC + 0x0C0, pgSC + 0x0C4]) s t) ∧
  (∀ (s : State) (p : Fin 12) (sec : Bool) (a : BitVec 34) (n : Nat) (d : List Byte) (h u : Nat), reqFormed a.toNat n = true →
    dmViolates (s.portSec p.val sec) a.toNat s = false → (p = 0 ∨ p = 2) → s.dmTakes p.val = false → isHeadHdr (s.hdr h) = true →
    ∃ t, exec (.dramRequest p sec a n (some d) (some h) u) s = .next t ∧ t.dmQ p.val = s.dmQ p.val ∧ hbits (t.hdr h) 31 31 = 1 ∧
      t.getE pDM1 0 p.val dpDISCARD = min (s.getE pDM1 0 p.val dpDISCARD + 1) (2 ^ 32 - 1) ∧ t.dm.mem = s.dm.mem ∧
      (∀ a, a ∉ [] → t.reg a = s.reg a) ∧ (∀ pg x j, tkey pg x j ≠ tkey pDM1 0 p.val → t.ent pg x j = s.ent pg x j)) ∧
  (∀ (s : State) (c : Nat) (n : List (Nat × Nat)) (x y : PReq) (b : Bool), s.dmPick c n = some (x, b) → y ∈ s.dmAll →
    pcOf y.2.2.addr = c → (y.1, y.2.1) ∉ n → s.dmHeld y.2.2 = false →
    (s.urgNow y.1 y.2.2 = 3 → s.urgNow x.1 x.2.2 = 3 ∧ x.2.2.seq ≤ y.2.2.seq) ∧
      (s.get pDM F.DM_SCHED_AGE_MAX < s.age y.2.2 →
        s.urgNow x.1 x.2.2 = 3 ∨ (s.get pDM F.DM_SCHED_AGE_MAX < s.age x.2.2 ∧ x.2.2.seq ≤ y.2.2.seq)) ∧
      (s.get pDM F.DM_MODE_MODE = 0 → s.urgNow x.1 x.2.2 ≠ 3 → s.age x.2.2 ≤ s.get pDM F.DM_SCHED_AGE_MAX →
        s.dpClass x.1 ≤ s.dpClass y.1)) ∧
  (∀ (s : State) (c : Fin 64) (n : List (Fin 12 × Fin 512)) (p k : Nat) (r : DReq) (b : Bool) (d : List Byte) (u : Nat),
    (s.at u).dmPick c.val (n.map (fun x => (x.1.val, x.2.val))) = some ((p, k, r), b) → sget [] s.dm.waiting p = [] →
    r.data = some d → r.rewrite = false → r.failed = false → s.bit pDM F.ST_FAULT = false →
    (∀ i ∈ List.range r.len, s.bufAt (r.addr + i) = none) →
    ∃ t, exec (.dramComplete c n [] u) s = .next t ∧ t.dm.mem = memWrite s.dm.mem r.addr (d.take r.len) ∧
      t.dmQ p = (s.dmQ p).eraseIdx k ∧ t.getE pDM1 0 p dpREQS = (s.getE pDM1 0 p dpREQS + 1) % 2 ^ 32 ∧
      t.getE pDM1 0 p dpMAXLAT = max (s.getE pDM1 0 p dpMAXLAT) (min ((s.at u).age r) (2 ^ 32 - 1)) ∧
      t.getE pDM1 0 p dpLATE = (if (s.at u).urgNow p r = 3 then min (s.getE pDM1 0 p dpLATE + 1) (2 ^ 32 - 1)
        else s.getE pDM1 0 p dpLATE) ∧
      t.hostMem = s.hostMem ∧ t.cxl = s.cxl ∧ (∀ a, a ∉ [pDM + 0x100, pDM + 0x104] → t.reg a = s.reg a) ∧
      (∀ pg x j, tkey pg x j ≠ tkey pDM1 0 p → t.ent pg x j = s.ent pg x j)) ∧
  (∀ (s : State) (c : Fin 64) (n : List (Fin 12 × Fin 512)) (p k : Nat) (r : DReq) (b : Bool) (u : Nat),
    (s.at u).dmPick c.val (n.map (fun x => (x.1.val, x.2.val))) = some ((p, k, r), b) → sget [] s.dm.waiting p = [] →
    r.data = none → r.failed = false → s.bit pDM F.ST_FAULT = false →
    r.words.any (fun w => (dmAhead r s).dm.bad.contains w || (dmAhead r s).dm.ue.contains w) = false →
    ∃ t, exec (.dramComplete c n [] u) s = .next t ∧ t.out = .dram p r.addr (some (dramRead r.addr r.len (dmAhead r s))) :: s.out ∧
      t.dm.mem = s.dm.mem ∧ t.dmQ p = (s.dmQ p).eraseIdx k ∧ t.getE pDM1 0 p dpREQS = (s.getE pDM1 0 p dpREQS + 1) % 2 ^ 32 ∧
      (∀ a, a ∉ [pDM + 0x100, pDM + 0x104] → t.reg a = s.reg a)) ∧
  (∀ (s : State) (c : Fin 64) (n : List (Fin 12 × Fin 512)) (p k : Nat) (r : DReq) (b : Bool) (u : Nat),
    (s.at u).dmPick c.val (n.map (fun x => (x.1.val, x.2.val))) = some ((p, k, r), b) →
    r.data = none → r.words.any (fun w => s.dm.bad.contains w) = true → s.dmAll.length = 1 →
    ∃ t, exec (.dramComplete c n [] u) s = .next t ∧ t.out = .dram p r.addr none :: s.out ∧ t.dm.mem = s.dm.mem) ∧
  (∀ (s : State) (c : Fin 64) (n : List (Fin 12 × Fin 512)) (u : Nat),
    (s.at u).dmPick c.val (n.map (fun x => (x.1.val, x.2.val))) = none → exec (.dramComplete c n [] u) s = .next (s.at u)) ∧
  (∀ (s : State) (p : Fin 12) (k : Fin 512) (r : DReq) (u : Nat), (s.dmQ p.val)[k.val]? = some r →
    ∃ t, exec (.urgencyRaise p k u) s = .next t ∧
      (t.dmQ p.val)[k.val]? = some { r with urg := max r.urg (urgency ((s.at u).age r) (s.dpTarget p.val)) } ∧
      (∀ j, j < 512 → j ≠ k.val → (t.dmQ p.val)[j]? = (s.dmQ p.val)[j]?) ∧ t.dm.mem = s.dm.mem ∧ (∀ a, a ∉ [] → t.reg a = s.reg a)) ∧
  (∀ (s : State) (c : Fin 64) (u : Nat), s.dmStopped = false → s.pcBusy c.val = true →
    s.bit pDM (F.DM_REF_STAT_THROT.ix (c.val / 32)) = false → sget 0 s.dm.debts c.val < 8 →
    ∃ t, exec (.refreshInterval ⟨c, u⟩) s = .next t ∧ sget 0 t.dm.debts c.val = sget 0 s.dm.debts c.val + 1 ∧
      t.dm.refr = s.dm.refr ∧ OnlyRegs [pDM + 0x100, pDM + 0x104] s t) ∧
  (∀ (s : State) (c : Fin 64) (u : Nat), s.dmStopped = false → s.pcBusy c.val = true →
    s.bit pDM (F.DM_REF_STAT_THROT.ix (c.val / 32)) = false → sget 0 s.dm.debts c.val = 8 →
    ∃ t, exec (.refreshInterval ⟨c, u⟩) s = .next t ∧ sget 0 t.dm.debts c.val = 8 ∧
      (sget (0, 0) t.dm.refr c.val).2 = max (s.at u).now (sget (0, 0) s.dm.refr c.val).2 +
        nsCycles (s.get (pgDM (2 + s.dmCur)) F.DM_TS_REF_TRFC) ∧ OnlyRegs [] s t) ∧
  (∀ (s : State) (c : Fin 64) (u : Nat), s.dmStopped = false → s.pcBusy c.val = false ∨ s.bit pDM (F.DM_REF_STAT_THROT.ix (c.val / 32)) = true →
    ∃ t, exec (.refreshInterval ⟨c, u⟩) s = .next t ∧ sget 0 t.dm.debts c.val = 0 ∧ OnlyRegs [pDM + 0x100, pDM + 0x104] s t) ∧
  (∀ (s : State) (k : Fin 2) (x : Byte) (u : Nat), s.bit pDM (F.DM_REF_STAT_X2.ix k.val) = false → 85 ≤ toSigned 8 x.toNat →
    ∃ t, exec (.tempSense k x u) s = .next t ∧ t.bit pDM (F.DM_REF_STAT_X2.ix k.val) = true ∧
      t.getI pDM (F.DM_REF_STAT_TEMP.ix k.val) = toSigned 8 x.toNat ∧
      (∀ i, i < 32 → sget 0 t.dm.debts (32 * k.val + i) = min 8 (2 * sget 0 s.dm.debts (32 * k.val + i))) ∧
      (sget 0 s.dm.debts (32 * k.val + 8) = 6 → t.pends pDM 0 = true ∧
        t.count pDM C.DM_CATCHUPS = min (s.count pDM C.DM_CATCHUPS + 1) (2 ^ 32 - 1)) ∧
      (s.bit pDM (F.DM_REF_STAT_THROT.ix k.val) = false → t.bit pDM (F.DM_REF_STAT_THROT.ix k.val) = decide (95 ≤ toSigned 8 x.toNat)) ∧
      OnlyRegs (evtWords pDM ++ [pDM + 0x100, pDM + 0x104]) s t) ∧
  (∀ (s : State) (k : Fin 2) (x : Byte) (u : Nat), s.bit pDM (F.DM_REF_STAT_X2.ix k.val) = true → toSigned 8 x.toNat < 83 →
    ∃ t, exec (.tempSense k x u) s = .next t ∧ t.bit pDM (F.DM_REF_STAT_X2.ix k.val) = false ∧
      t.bit pDM (F.DM_REF_STAT_THROT.ix k.val) = false ∧
      (∀ i, i < 32 → sget 0 t.dm.debts (32 * k.val + i) = (sget 0 s.dm.debts (32 * k.val + i) + 1) / 2) ∧
      OnlyRegs (evtWords pDM ++ [pDM + 0x100, pDM + 0x104]) s t) ∧
  (∀ (s : State) (n : Nat), s.get pDM F.DM_MODE_MODE ≠ 2 → s.get pDM F.DM_SCRUB_PERIOD_H ≠ 0 → s.dmStopped = false →
    s.get pDM F.DM_SCRUB_POS_POS + n < 2 ^ 26 →
    ∃ t, exec (.dramScrub n []) s = .next t ∧ t.get pDM F.DM_SCRUB_POS_POS = s.get pDM F.DM_SCRUB_POS_POS + n ∧
      t.count pDM C.DM_SCRUB_PASSES = s.count pDM C.DM_SCRUB_PASSES ∧ t.getE pDM1 0 11 dpREQS = (s.getE pDM1 0 11 dpREQS + n) % 2 ^ 32 ∧
      t.dm = s.dm ∧ (∀ a, a ∉ [pDM + 0x124] → t.reg a = s.reg a)) ∧
  (∀ (s : State) (n : Nat), s.get pDM F.DM_MODE_MODE ≠ 2 → s.get pDM F.DM_SCRUB_PERIOD_H ≠ 0 → s.dmStopped = false →
    2 ^ 26 ≤ s.get pDM F.DM_SCRUB_POS_POS + n →
    ∃ t, exec (.dramScrub n []) s = .next t ∧ t.get pDM F.DM_SCRUB_POS_POS = 0 ∧
      t.count pDM C.DM_SCRUB_PASSES = (s.count pDM C.DM_SCRUB_PASSES + 1) % 2 ^ 32 ∧ t.dm = s.dm ∧
      (∀ a, a ∉ [pDM + 0x124] → t.reg a = s.reg a)) ∧
  (∀ (s : State) (n : Nat) (f : List EccFinding), s.get pDM F.DM_MODE_MODE = 2 ∨ s.get pDM F.DM_SCRUB_PERIOD_H = 0 ∨ s.dmStopped = true →
    exec (.dramScrub n f) s = .next s) ∧
  (∀ (s : State) (p : Fin 12) (k : Fin 512) (r : DReq) (n : Nat) (f : Bool), (s.dmQ p.val)[k.val]? = some r →
    ∃ t, exec (.parRetry p k n f) s = .next t ∧
      t.count pDM C.DM_PAR_RETRY = min (s.count pDM C.DM_PAR_RETRY + min n 3) (2 ^ 32 - 1) ∧
      (t.dmQ p.val)[k.val]? = some (if f = true ∧ 3 ≤ n then { r with failed := true } else r) ∧ t.dm.mem = s.dm.mem ∧
      (∀ a, a ∉ [] → t.reg a = s.reg a))

/-- R340 to R343: requesting, deferring, abandoning and ending a frequency change, the bring-up of F1, and the training steps. -/
def Obligations.DramPoints : Prop :=
  (∀ (s : State) (fn : Fn) (w : Word) (u x : Nat), Reaches s fn.val (pDM + 0x10C) (.dm 0) 0 → x = w.toNat % 2 → x ≠ s.dmCur →
    s.bit pDM (validOf x) = true → s.bit pDM F.DM_FREQ_STAT_BUSY = false → s.bit pDM F.DM_FREQ_STAT_DEFER = false →
    s.get pDM F.DM_MODE_MODE ≠ 0 → s.bit pDM F.DM_TRAIN_STAT_BUSY = false → w.toNat.testBit 29 = false →
    ∃ t, exec (.go fn w u) s = .next t ∧ t.bit pDM F.DM_FREQ_STAT_BUSY = true ∧ t.dm.change = some (x, false) ∧ t.dmCur = s.dmCur ∧
      (∀ a, a ∉ cfgWords pDM ++ [pDM + 0x10C, pDM + 0x110] → t.reg a = s.reg a)) ∧
  (∀ (s : State) (fn : Fn) (w : Word) (u x : Nat), Reaches s fn.val (pDM + 0x10C) (.dm 0) 0 → x = w.toNat % 2 → x ≠ s.dmCur →
    s.bit pDM (validOf x) = true → s.bit pDM F.DM_FREQ_STAT_BUSY = false → s.bit pDM F.DM_FREQ_STAT_DEFER = false →
    s.get pDM F.DM_MODE_MODE ≠ 0 → s.bit pDM F.DM_TRAIN_STAT_BUSY = true → w.toNat.testBit 29 = false →
    ∃ t, exec (.go fn w u) s = .next t ∧ t.bit pDM F.DM_FREQ_STAT_DEFER = true ∧ t.bit pDM F.DM_FREQ_STAT_BUSY = false ∧
      t.pends pDM 1 = true ∧ t.dm.deferAt = (s.at u).now ∧ OnlyRegs (cfgWords pDM ++ evtWords pDM ++ [pDM + 0x10C, pDM + 0x110]) s t) ∧
  (∀ (s : State) (fn : Fn) (w : Word) (u x : Nat), Reaches s fn.val (pDM + 0x10C) (.dm 0) 0 → x = w.toNat % 2 → w.toNat.testBit 29 = false →
    x = s.dmCur ∨ s.bit pDM (validOf x) = false ∨ s.bit pDM F.DM_FREQ_STAT_BUSY = true ∨ s.bit pDM F.DM_FREQ_STAT_DEFER = true ∨
      (s.get pDM F.DM_MODE_MODE = 0 ∧ w.toNat.testBit 30 = false) →
    ∃ t, exec (.go fn w u) s = .next t ∧ t.bit pDM F.ST_CFG_REJ = true ∧ t.dm = s.dm ∧ t.dmCur = s.dmCur ∧
      OnlyRegs (cfgWords pDM ++ [pDM + 0x10C]) s t) ∧
  (∀ (s : State) (fn : Fn) (w : Word) (u : Nat), Reaches s fn.val (pDM + 0x10C) (.dm 0) 0 → s.dmCur = 0 →
    s.bit pDM F.DM_FREQ_STAT_BUSY = false → s.bit pDM F.DM_FREQ_STAT_DEFER = false → s.get pDM F.DM_MODE_MODE ≠ 0 →
    s.bit pDM F.DM_TRAIN_STAT_BUSY = false → w.toNat.testBit 31 = false →
    ∃ t, exec (.init1 fn w u) s = .next t ∧ t.bit pDM F.DM_FREQ_STAT_BUSY = true ∧ t.dm.change = some (1, true) ∧
      (∀ a, a ∉ cfgWords pDM ++ [pDM + 0x10C, pDM + 0x110] → t.reg a = s.reg a)) ∧
  (∀ (s : State) (fn : Fn) (w : Word) (u : Nat), Reaches s fn.val (pDM + 0x10C) (.dm 0) 0 → s.dmCur = 1 → w.toNat.testBit 31 = false →
    ∃ t, exec (.init1 fn w u) s = .next t ∧ t.bit pDM F.ST_CFG_REJ = true ∧ t.dm = s.dm ∧ OnlyRegs (cfgWords pDM ++ [pDM + 0x10C]) s t) ∧
  (∀ (s : State) (u k : Nat) (l : List Nat), s.bit pDM F.DM_FREQ_STAT_DEFER = true → s.dm.deferAt + 2488320 ≤ (s.at u).now → s.dm.steps = k :: l →
    ∃ t, exec (.freqAbandon u) s = .next t ∧ t.bit pDM F.DM_FREQ_STAT_ABANDON = true ∧ t.bit pDM F.DM_TRAIN_STAT_ABANDONED = true ∧
      t.bit pDM F.DM_TRAIN_STAT_BUSY = false ∧ t.bit pDM F.DM_FREQ_STAT_DEFER = false ∧ t.bit pDM F.DM_FREQ_STAT_BUSY = true ∧
      t.dm.trained = s.dm.trained ∧ (∀ a, a ∉ [pDM + 0x110, pDM + 0x11C] → t.reg a = s.reg a)) ∧
  (∀ (s : State) (u : Nat), s.bit pDM F.DM_FREQ_STAT_DEFER = false ∨ (s.at u).now < s.dm.deferAt + 2488320 →
    exec (.freqAbandon u) s = .next (s.at u)) ∧
  (∀ (s : State) (c : Fin 64) (d : BitVec 16) (x : Nat), s.dm.change = some (x, false) → x < 2 → s.dmStopped = true → s.dm.erst = false →
    ∃ t, exec (.dmFreqDone 0 c d) s = .next t ∧ t.dmCur = x ∧ t.bit pDM F.DM_FREQ_STAT_BUSY = false ∧ t.get pDM F.DM_FREQ_STAT_LAST = d.toNat ∧
      t.pends pDM 4 = true ∧ t.count pDM C.DM_FREQ_CHANGES = (s.count pDM C.DM_FREQ_CHANGES + 1) % 2 ^ 32 ∧ t.dm.change = none ∧
      OnlyRegs (evtWords pDM ++ [pDM + 0x100, pDM + 0x104, pDM + 0x110]) s t) ∧
  (∀ (s : State) (f : Fin 7) (c : Fin 64) (d : BitVec 16) (x : Nat × Bool), 1 ≤ f.val → f.val ≤ 4 → s.dm.change = some x → s.dmStopped = true →
    s.dm.erst = false →
    ∃ t, exec (.dmFreqDone f c d) s = .next t ∧ t.dmCur = s.dmCur ∧ t.bit pDM F.DM_FREQ_STAT_FAIL = true ∧ t.bit pDM F.DM_FREQ_STAT_BUSY = false ∧
      t.pends pDM 4 = s.pends pDM 4 ∧ OnlyRegs [pDM + 0x100, pDM + 0x104, pDM + 0x110] s t) ∧
  (∀ (s : State) (c : Fin 64) (d : BitVec 16) (x : Nat), s.dm.change = some (x, false) → x < 2 → x ≠ s.dmCur → s.dmStopped = true → s.dm.erst = false →
    ∃ t, exec (.dmFreqDone 6 c d) s = .next t ∧ t.bit pDM (validOf x) = false ∧ t.pends pDM 3 = true ∧ t.bit pDM F.DM_FREQ_STAT_FAIL = true ∧
      t.dmCur = s.dmCur ∧ t.get pDM F.DM_TRAIN_STAT_PC = c.val ∧
      OnlyRegs (evtWords pDM ++ [pDM + 0x100, pDM + 0x104, pDM + 0x110, pDM + 0x11C]) s t) ∧
  (∀ (s : State) (c : Fin 64) (d : BitVec 16), s.dm.change = some (1, true) → s.dmStopped = true → s.dm.erst = false → s.dmCur = 0 →
    ∃ t, exec (.dmFreqDone 0 c d) s = .next t ∧ t.bit pDM F.DM_TRAIN_STAT_VALID1 = true ∧ t.dmCur = 0 ∧ t.pends pDM 4 = true ∧
      t.count pDM C.DM_FREQ_CHANGES = (s.count pDM C.DM_FREQ_CHANGES + 2) % 2 ^ 32) ∧
  (∀ (s : State) (fn : Fn) (w : Word), Reaches s fn.val (pDM + 0x114) (.dm 0) 0 → s.bit pDM F.DM_TRAIN_STAT_BUSY = false →
    ∃ t, exec (.trainStart fn w) s = .next t ∧
      t.dm.steps = ((List.range 5).filter (fun i => w.toNat.testBit i)).map (fun i => i + 1) ∧
      t.bit pDM F.DM_TRAIN_STAT_BUSY = decide (w.toNat % 32 ≠ 0) ∧ OnlyRegs (cfgWords pDM ++ [pDM + 0x114, pDM + 0x11C]) s t) ∧
  (∀ (s : State) (fn : Fn) (w : Word), Reaches s fn.val (pDM + 0x114) (.dm 0) 0 → s.bit pDM F.DM_TRAIN_STAT_BUSY = true →
    ∃ t, exec (.trainStart fn w) s = .next t ∧ t.dm = s.dm ∧ OnlyRegs (cfgWords pDM ++ [pDM + 0x114]) s t) ∧
  (∀ (s : State) (k : Nat) (l : List Nat), s.dm.steps = k :: l → s.dmStopped = false → s.bit pDM F.DM_FREQ_STAT_DEFER = false → k < 8 →
    ∃ t, exec .trainStepDone s = .next t ∧ t.dm.steps = l ∧ t.bit pDM F.DM_TRAIN_STAT_BUSY = decide (l ≠ []) ∧
      t.dm.done.testBit (8 * s.dmCur + k) = true ∧ sget 0 t.dm.trained (8 * s.dmCur + k) ≠ 0 ∧ (sget none t.pw.banks (2 + s.dmCur)).isSome = true ∧
      OnlyRegs [pDM + 0x00C, pDM + 0x11C] s t) ∧
  (∀ (s : State) (k : Nat) (l : List Nat), s.dm.steps = k :: l → s.dmStopped = false → s.bit pDM F.DM_FREQ_STAT_DEFER = true →
    ∃ t, exec .trainStepDone s = .next t ∧ t.bit pDM F.DM_FREQ_STAT_BUSY = true ∧ t.bit pDM F.DM_FREQ_STAT_DEFER = false ∧
      t.bit pDM F.DM_TRAIN_STAT_BUSY = false) ∧
  (∀ (s : State) (c : Fin 64) (k : Nat) (l : List Nat), s.dm.steps = k :: l → s.dmStopped = false → k ≠ 5 → k < 8 → s.bit pDM F.DM_FREQ_STAT_DEFER = false →
    ∃ t, exec (.dmTrainFail c) s = .next t ∧ t.bit pDM (validOf s.dmCur) = false ∧ t.bit pDM F.ST_FAULT = true ∧ t.pends pDM 3 = true ∧
      t.bit pDM F.DM_TRAIN_STAT_FAILED = true ∧ t.get pDM F.DM_TRAIN_STAT_STEP = k ∧ t.get pDM F.DM_TRAIN_STAT_PC = c.val ∧
      OnlyRegs (evtWords pDM ++ [pDM + 0x00C, pDM + 0x11C]) s t) ∧
  (∀ (s : State) (c : Fin 64) (l : List Nat), s.dm.steps = 5 :: l → s.dmStopped = false →
    ∃ t, exec (.dmTrainFail c) s = .next t ∧ t.dm.steps = [3, 4] ∧ t.get pDM F.DM_TRAIN_STAT_STEP = 3 ∧ OnlyRegs [pDM + 0x11C] s t) ∧
  (∀ (s : State), s.dmStopped = false → s.bit pDM F.DM_TRAIN_STAT_BUSY = false → s.get pDM F.DM_TRAIN_CFG_PERIOD ≠ 0 →
    ∃ t, exec .trainTrack s = .next t ∧ t.dm.steps = [5] ∧ t.get pDM F.DM_TRAIN_STAT_STEP = 5 ∧ t.bit pDM F.DM_TRAIN_STAT_BUSY = true ∧
      OnlyRegs [pDM + 0x11C] s t) ∧
  (∀ (s : State), s.dmStopped = true ∨ s.bit pDM F.DM_TRAIN_STAT_BUSY = true ∨ s.get pDM F.DM_TRAIN_CFG_PERIOD = 0 →
    exec .trainTrack s = .next s)

/-- R351 to R356, R358 to R360, R64: doorbells, index writes and reads, injection, a function's reset and power state, the link, a DMA
error, the level, and the mask and gap of a vector. That a doorbell write carries the slots written before it is the model's
choice (log entry 49). -/
def Obligations.HostRings : Prop :=
  (∀ (s : State) (fn : Fn) (r : Fin 244) (w : Word) (d : List Byte) (e : Entry), e = ringEnt s r.val → ringFn s r.val = fn.val →
    ringToHost r.val = false → w.toNat < eget e RF.SIZE → w.toNat < 65536 → eget e RF.PIDX < eget e RF.SIZE →
    ∃ t, exec (.ringDoorbell fn r (some w) [d]) s = .next t ∧ ringEnt t r.val = eput e RF.PIDX w.toNat ∧
      t.hostMem = (if eget e RF.LOC = 0 then
        memWrite s.hostMem (ringBase e + eget e RF.PIDX * eget e RF.SLOT) (d.take (eget e RF.SLOT)) else s.hostMem) ∧
      (∀ a, a ∉ [] → t.reg a = s.reg a) ∧ t.cxl = s.cxl ∧
      (∀ pg u j, tkey pg u j ≠ tkey (pgHX 1) 0 r.val → t.ent pg u j = s.ent pg u j)) ∧
  (∀ (s : State) (fn : Fn) (r : Fin 244) (w : Word) (l : List (List Byte)), ringFn s r.val = fn.val → ringToHost r.val = false →
    eget (ringEnt s r.val) RF.SIZE ≤ w.toNat →
    ∃ t, exec (.ringDoorbell fn r (some w) l) s = .next t ∧ ringEnt t r.val =
        eput (ringEnt s r.val) RF.DROPS (min (eget (ringEnt s r.val) RF.DROPS + 1) (2 ^ 32 - 1)) ∧ t.hostMem = s.hostMem ∧
      (∀ a, a ∉ [] → t.reg a = s.reg a) ∧ (∀ pg u j, tkey pg u j ≠ tkey (pgHX 1) 0 r.val → t.ent pg u j = s.ent pg u j)) ∧
  (∀ (s : State) (fn : Fn) (r : Fin 244) (w : Word) (l : List (List Byte)), ringFn s r.val = fn.val → ringToHost r.val = true →
    exec (.ringDoorbell fn r (some w) l) s = .next s) ∧
  (∀ (s : State) (fn : Fn) (r : Fin 244) (l : List (List Byte)), ringFn s r.val = fn.val →
    ∃ t, exec (.ringDoorbell fn r none l) s = .next t ∧
      t.out = .readData fn.val (16 * r.val + 8) (BitVec.ofNat 32
        (eget (ringEnt s r.val) (if ringToHost r.val = true then RF.PIDX else RF.CIDX))) :: s.out ∧ OnlyRegs [] s t) ∧
  (∀ (s : State) (fn : Fn) (r : Fin 244) (w : Option Word) (l : List (List Byte)), ringFn s r.val ≠ fn.val →
    ∃ t, exec (.ringDoorbell fn r w l) s = .next t ∧ t.pends pgSC 0 = true ∧
      OnlyRegs (evtWords pgSC ++ [pgSC + 0x0C0, pgSC + 0x0C4]) s t) ∧
  (∀ (s : State) (fn : Fn) (r : Fin 244) (w : Word), ringFn s r.val = fn.val → ringToHost r.val = true →
    w.toNat < eget (ringEnt s r.val) RF.SIZE → w.toNat < 65536 →
    ∃ t, exec (.ringCidxWrite fn r w) s = .next t ∧ ringEnt t r.val = eput (ringEnt s r.val) RF.CIDX w.toNat ∧ t.hostMem = s.hostMem ∧
      (∀ a, a ∉ [] → t.reg a = s.reg a) ∧ (∀ pg u j, tkey pg u j ≠ tkey (pgHX 1) 0 r.val → t.ent pg u j = s.ent pg u j)) ∧
  (∀ (s : State) (fn : Fn) (r : Fin 244) (w : Word), ringFn s r.val = fn.val → ringToHost r.val = true →
    eget (ringEnt s r.val) RF.SIZE ≤ w.toNat →
    ∃ t, exec (.ringCidxWrite fn r w) s = .next t ∧ ringEnt t r.val =
        eput (ringEnt s r.val) RF.DROPS (min (eget (ringEnt s r.val) RF.DROPS + 1) (2 ^ 32 - 1)) ∧
      (∀ a, a ∉ [] → t.reg a = s.reg a)) ∧
  (∀ (s : State) (fn : Fn) (r : Fin 244) (w : Word), ringFn s r.val = fn.val → ringToHost r.val = false →
    exec (.ringCidxWrite fn r w) s = .next s) ∧
  (∀ (s : State) (u : Nat), eget (ringEnt s 241) RF.EN = 0 ∨ eget (ringEnt s 241) RF.PIDX = eget (ringEnt s 241) RF.CIDX ∨
    s.dmaUp (ringFn s 241) = false ∨ s.quiescing pHX = true → exec (.inject u) s = .next (s.at u)) ∧
  (∀ (s : State) (u q : Nat) (e : Entry) (d : List Byte), e = ringEnt s 241 → eget e RF.EN = 1 → eget e RF.LOC = 0 → eget e RF.PIDX ≠ eget e RF.CIDX →
    s.dmaUp (ringFn s 241) = true → s.quiescing pHX = false → d = memRead s.hostMem (ringBase e + eget e RF.CIDX * eget e RF.SLOT) (eget e RF.SLOT) →
    slotWord d 0 / 2 ^ 28 = 6 → 60 ≤ slotLen d → slotLen d ≤ eget e RF.SLOT - 32 → fld (slotWord d 2) 30 29 = 0 → fld (slotWord d 2) 1 0 ≠ 3 →
    destPair (slotWord d 1) = (1, q) → q < 65536 → eget e RF.SIZE ≠ 0 → eget e RF.CIDX < eget e RF.SIZE →
    ∃ t, exec (.inject u) s = .next t ∧
      t = (if s.en pTM && !s.quiescing pTM then tmEnqueue else tmRefuse)
        { pkt :=
            { bytes := slotData d ++ fcs (slotData d), charge := 65, colour := fld (slotWord d 2) 1 0,
              ingress := List.replicate 8 (stampOfWords [slotWord d 4, slotWord d 5, slotWord d 6, slotWord d 7]) },
          dests := [(0, q)], inj := some (BitVec.ofNat 32 (slotWord d 3), fld (slotWord d 2) 31 31 == 1) } (ringTake 241 (s.at u)) ∧
      eget (ringEnt t 241) RF.CIDX = (eget e RF.CIDX + 1) % eget e RF.SIZE) ∧
  (∀ (s : State) (fn : Fn) (r : Fin 244) (v : Fin 512), ringFn s r.val = fn.val →
    ∃ t, exec (.flr fn) s = .next t ∧ eget (ringEnt t r.val) RF.EN = 0 ∧ (t.vec fn.val v.val).masked = true ∧
      (t.vec fn.val v.val).pba = false ∧ t.hostMem = s.hostMem ∧ t.cxl = s.cxl ∧ (∀ a, a ∉ [] → t.reg a = s.reg a)) ∧
  (∀ (s : State) (fn : Fn) (r : Fin 244), ringFn s r.val ≠ fn.val →
    ∃ t, exec (.flr fn) s = .next t ∧ ringEnt t r.val = ringEnt s r.val ∧ t.tm = s.tm) ∧
  (∀ (s : State) (fn : Fn) (d3 : Bool),
    ∃ t, exec (.d3hot fn d3) s = .next t ∧ t.hx.d3.testBit fn.val = d3 ∧ t.hx.d3.testBit (1 - fn.val) = s.hx.d3.testBit (1 - fn.val) ∧
      OnlyRegs [] s t) ∧
  (∀ (s : State), ∃ t, exec .hxLinkDown s = .next t ∧ t.bit pHX F.HX_LINK_UP = false ∧ t.raw pHX 0 = true ∧
      OnlyRegs (evtWords pHX ++ [pHX + 0x0C0]) s t) ∧
  (∀ (s : State) (cxl : Bool) (wd sp : BitVec 4),
    ∃ t, exec (.hxLinkUp cxl wd sp) s = .next t ∧ t.bit pHX F.HX_LINK_UP = true ∧ t.raw pHX 0 = false ∧ t.bit pHX F.HX_LINK_CXL = cxl ∧
      t.get pHX F.HX_LINK_WIDTH = wd.toNat ∧ t.get pHX F.HX_LINK_SPEED = sp.toNat ∧ OnlyRegs (evtWords pHX ++ [pHX + 0x0C0]) s t) ∧
  (∀ (s : State) (r : Fin 244), eget (ringEnt s r.val) RF.EN = 1 →
    ∃ t, exec (.ringDmaError r) s = .next t ∧ ringEnt t r.val = eput (ringEnt s r.val) RF.EN 0 ∧ t.pends pHX 2 = true ∧
      t.get pHX F.HX_RING_OVF_SRC_RING = r.val ∧ t.get pHX F.HX_RING_OVF_SRC_CAUSE = 1 ∧
      (∀ a, a ∉ evtWords pHX ++ [pHX + 0x0C8] → t.reg a = s.reg a)) ∧
  (∀ (s : State) (r : Fin 244), eget (ringEnt s r.val) RF.EN = 0 → exec (.ringDmaError r) s = .next s) ∧
  (∀ (s : State) (fn : Fn) (w : Word), Reaches s fn.val (pHX + 0x0C4) (.hx 0) 0 → 1 ≤ fld w.toNat 3 0 →
    (s.storeFields (.hx 0) 0 fn.val (pHX + 0x0C4) w.toNat).2 = true → min (fld w.toNat 3 0) (s.get pHX F.HX_LEVEL_MAX) ≠ s.level →
    ∃ t, exec (.hxLevelSet fn w) s = .next t ∧ t.level = min (fld w.toNat 3 0) (s.get pHX F.HX_LEVEL_MAX) ∧ t.pends pHX 1 = true ∧
      (∀ n, n < 8 → t.bit (pgTB n) F.TE_TB_STAT_COMPAT = decide (t.level = 1))) ∧
  (∀ (s : State) (fn : Fn) (w : Word), Reaches s fn.val (pHX + 0x0C4) (.hx 0) 0 → fld w.toNat 3 0 = 0 ∨
      min (fld w.toNat 3 0) (s.get pHX F.HX_LEVEL_MAX) = s.level →
    ∃ t, exec (.hxLevelSet fn w) s = .next t ∧ t.level = s.level ∧ t.pends pHX 1 = s.pends pHX 1 ∧
      OnlyRegs (cfgWords pHX ++ [pHX + 0x0C4]) s t) ∧
  (∀ (s : State) (fn : Fn) (v : Fin 512),
    ∃ t, exec (.msixMask fn v true) s = .next t ∧ (t.vec fn.val v.val).masked = true ∧ t.out = s.out ∧ OnlyRegs [] s t) ∧
  (∀ (s : State) (fn : Fn) (v : Fin 512), (s.vec fn.val v.val).pba = true → (s.vec fn.val v.val).gapRunning = false →
    ∃ t, exec (.msixMask fn v false) s = .next t ∧ (t.vec fn.val v.val).masked = false ∧ (t.vec fn.val v.val).pba = false ∧
      t.out = .msix fn.val v.val :: s.out ∧ OnlyRegs [] s t) ∧
  (∀ (s : State) (fn : Fn) (v : Fin 512), (s.vec fn.val v.val).pba = false →
    ∃ t, exec (.msixMask fn v false) s = .next t ∧ (t.vec fn.val v.val).masked = false ∧ t.out = s.out ∧ OnlyRegs [] s t) ∧
  (∀ (s : State) (fn : Fn) (v : Fin 512), (s.vec fn.val v.val).gapRunning = true → (s.vec fn.val v.val).held = true →
    (s.vec fn.val v.val).masked = false → s.assertedVecs.contains (fn.val, v.val) = true →
    ∃ t, exec (.msixGapExpiry fn v) s = .next t ∧ t.out = .msix fn.val v.val :: s.out ∧ (t.vec fn.val v.val).held = false ∧ OnlyRegs [] s t) ∧
  (∀ (s : State) (fn : Fn) (v : Fin 512), (s.vec fn.val v.val).held = false ∨ s.assertedVecs.contains (fn.val, v.val) = false →
    ∃ t, exec (.msixGapExpiry fn v) s = .next t ∧ t.out = s.out ∧ (t.vec fn.val v.val).gapRunning = false ∧ OnlyRegs [] s t)

/-- R363, R364, R366, R368 to R370, R374: the memory port's bring-up and loss, the aperture's reads and writes with the checks of
the regions, an IDE failure and its recovery, and the DOE mailbox. -/
def Obligations.MemoryPort : Prop :=
  (∀ (s : State) (fn : Fn) (w : Word), Reaches s fn.val (pMX + 0x008) (.mx 0) 0 → s.en pMX = false → w.toNat.testBit 1 = false → w.toNat.testBit 2 = false →
    ∃ t, exec (.mxEnable fn w) s = .next t ∧ t.en pMX = true ∧ t.mx.training = true ∧ t.raw pMX 0 = true ∧ t.cxl = s.cxl ∧
      t.tabs = s.tabs ∧ (∀ a, a / 4096 * 4096 ∉ [pMX] → t.reg a = s.reg a)) ∧
  (∀ (s : State) (gib : BitVec 11) (sw : Bool) (wd : BitVec 5), s.mx.training = true → s.en pMX = true →
    ∃ t, exec (.mxLinkUp true gib sw wd) s = .next t ∧ t.get pMX F.MX_WIN_SIZE = min gib.toNat (s.get pMX F.MX_WIN_LIMIT) ∧
      t.bit pMX F.MX_LINK_UP = true ∧ t.bit pMX F.MX_LINK_SWITCH = sw ∧ t.get pMX F.MX_LINK_WIDTH = wd.toNat ∧ t.raw pMX 0 = false ∧
      t.bit pMX F.ST_FAULT = false ∧ OnlyPages [pMX, pMX1] s t) ∧
  (∀ (s : State) (gib : BitVec 11) (sw : Bool) (wd : BitVec 5), s.mx.training = true → s.en pMX = true →
    ∃ t, exec (.mxLinkUp false gib sw wd) s = .next t ∧ t.bit pMX F.ST_FAULT = true ∧ t.raw pMX 0 = true ∧
      t.bit pMX F.MX_LINK_UP = s.bit pMX F.MX_LINK_UP ∧ OnlyRegs (evtWords pMX ++ [pMX + 0x00C]) s t) ∧
  (∀ (s : State) (f : Bool) (gib : BitVec 11) (sw : Bool) (wd : BitVec 5), s.mx.training = false ∨ s.en pMX = false →
    exec (.mxLinkUp f gib sw wd) s = .next s) ∧
  (∀ (s : State), s.bit pMX F.MX_LINK_UP = true →
    ∃ t, exec .mxLinkDown s = .next t ∧ t.bit pMX F.MX_LINK_UP = false ∧ t.bit pMX1 F.MX_IDE_STAT_SECURE = false ∧ t.raw pMX 0 = true ∧
      OnlyRegs (evtWords pMX ++ [pMX + 0x0C0, pMX1 + 0x0C4]) s t) ∧
  (∀ (s : State), s.bit pMX F.MX_LINK_UP = false → exec .mxLinkDown s = .next s) ∧
  (∀ (s : State), s.en pMX = true → s.raw pMX 0 = true → ∃ t, exec .mxRetrain s = .next t ∧ t.mx.training = true ∧ OnlyRegs [] s t) ∧
  (∀ (s : State), s.en pMX = false ∨ s.raw pMX 0 = false → exec .mxRetrain s = .next s) ∧
  (∀ (s : State) (fn : Fn) (x : BitVec 28) (d : List Byte) (n : Nat) (k : List EccFinding) (b : Bool) (a : Nat), s.bit (apEn fn.val).1 (apEn fn.val).2 = true →
    a = s.get (apBase fn.val).1 (apBase fn.val).2 * 2 ^ 28 + x.toNat → s.mxUp = true → s.mxCheck (decide (fn.val = 0)) true true a d.length = 0 →
    ∃ t, exec (.apertureAccess fn x (some d) n k b) s = .next t ∧ t.cxl = memWrite s.cxl a d ∧ t.out = s.out ∧ t.tabs = s.tabs ∧
      t.count pMX C.MX_WR_REQ = (s.count pMX C.MX_WR_REQ + 1) % 2 ^ 32 ∧ (∀ a, a ∉ [] → t.reg a = s.reg a)) ∧
  (∀ (s : State) (fn : Fn) (x : BitVec 28) (d : List Byte) (n : Nat) (k : List EccFinding) (b : Bool), s.bit (apEn fn.val).1 (apEn fn.val).2 = true → s.mxUp = false →
    ∃ t, exec (.apertureAccess fn x (some d) n k b) s = .next t ∧
      t.count pMX C.MX_WR_DISCARD = min (s.count pMX C.MX_WR_DISCARD + 1) (2 ^ 32 - 1) ∧ t.out = s.out ∧ OnlyRegs [] s t) ∧
  (∀ (s : State) (fn : Fn) (x : BitVec 28) (d : List Byte) (n : Nat) (k : List EccFinding) (b : Bool) (a c : Nat), s.bit (apEn fn.val).1 (apEn fn.val).2 = true →
    a = s.get (apBase fn.val).1 (apBase fn.val).2 * 2 ^ 28 + x.toNat → s.mxUp = true → c = s.mxCheck (decide (fn.val = 0)) true true a d.length →
    1 ≤ c → c ≤ 4 → s.bit pMX F.MX_FAULT_ADDR_HI_VALID = false →
    ∃ t, exec (.apertureAccess fn x (some d) n k b) s = .next t ∧ t.get pMX F.MX_FAULT_ADDR_HI_CAUSE = c ∧
      t.get pMX F.MX_FAULT_ADDR_LO_ADDR = a % 2 ^ 32 ∧ t.get pMX F.MX_FAULT_ADDR_HI_ADDR = a / 2 ^ 32 % 2 ^ 8 ∧
      t.bit pMX F.MX_FAULT_ADDR_HI_VALID = true ∧ t.pends pMX 2 = true ∧ OnlyRegs (evtWords pMX ++ [pMX + 0x0C8, pMX + 0x0CC]) s t) ∧
  (∀ (s : State) (x : BitVec 28) (d : List Byte) (n : Nat) (k : List EccFinding) (b : Bool) (a : Nat), s.bit (apEn 1).1 (apEn 1).2 = true →
    a = s.get (apBase 1).1 (apBase 1).2 * 2 ^ 28 + x.toNat → s.mxUp = true → s.mxCheck false true true a d.length = 8 →
    ∃ t, exec (.apertureAccess 1 x (some d) n k b) s = .next t ∧ t.pends pgSC 0 = true ∧
      OnlyRegs (evtWords pgSC ++ [pgSC + 0x0C0, pgSC + 0x0C4]) s t) ∧
  (∀ (s : State) (fn : Fn) (x : BitVec 28) (n : Nat) (a : Nat), s.bit (apEn fn.val).1 (apEn fn.val).2 = true →
    a = s.get (apBase fn.val).1 (apBase fn.val).2 * 2 ^ 28 + x.toNat → s.mxUp = true → s.mxCheck (decide (fn.val = 0)) true false a n = 0 →
    s.mxBad a n = [] →
    ∃ t, exec (.apertureAccess fn x none n [] false) s = .next t ∧ t.out = .aperture fn.val x.toNat (some (memRead s.cxl a n)) :: s.out ∧
      t.count pMX C.MX_RD_REQ = (s.count pMX C.MX_RD_REQ + 1) % 2 ^ 32 ∧ OnlyRegs [] s t) ∧
  (∀ (s : State) (fn : Fn) (x : BitVec 28) (n : Nat) (a : Nat), s.bit (apEn fn.val).1 (apEn fn.val).2 = true →
    a = s.get (apBase fn.val).1 (apBase fn.val).2 * 2 ^ 28 + x.toNat → s.mxUp = true → s.mxCheck (decide (fn.val = 0)) true false a n = 0 →
    s.mxBad a n = [] →
    ∃ t, exec (.apertureAccess fn x none n [] true) s = .next t ∧ t.out.contains (.aperture fn.val x.toNat (some (List.replicate n 0xFF))) = true ∧
      t.count pMX C.MX_POISON_RX = min (s.count pMX C.MX_POISON_RX + 1) (2 ^ 32 - 1) ∧ t.pends pgDV 11 = true ∧ OnlyPages [pgDV] s t) ∧
  (∀ (s : State) (fn : Fn) (x : BitVec 28) (n : Nat) (p : Bool) (a : Nat), s.bit (apEn fn.val).1 (apEn fn.val).2 = true →
    a = s.get (apBase fn.val).1 (apBase fn.val).2 * 2 ^ 28 + x.toNat → s.mxUp = true → s.mxCheck (decide (fn.val = 0)) true false a n = 0 →
    s.mxBad a n ≠ [] →
    ∃ t, exec (.apertureAccess fn x none n [] p) s = .next t ∧ t.out.contains (.aperture fn.val x.toNat (some (List.replicate n 0xFF))) = true ∧
      t.pends pgDV 11 = true ∧ t.cxl = s.cxl) ∧
  (∀ (s : State) (fn : Fn) (x : BitVec 28) (n : Nat), s.bit (apEn fn.val).1 (apEn fn.val).2 = true → s.mxUp = false →
    ∃ t, exec (.apertureAccess fn x none n [] false) s = .next t ∧ t.out = .aperture fn.val x.toNat (some (List.replicate n 0xFF)) :: s.out ∧
      OnlyRegs [] s t) ∧
  (∀ (s : State) (fn : Fn) (x : BitVec 28) (d : List Byte) (n : Nat) (k : List EccFinding) (b : Bool), s.bit (apEn fn.val).1 (apEn fn.val).2 = false →
    exec (.apertureAccess fn x (some d) n k b) s = .next s) ∧
  (∀ (s : State) (fn : Fn) (x : BitVec 28) (n : Nat) (k : List EccFinding) (b : Bool), s.bit (apEn fn.val).1 (apEn fn.val).2 = false →
    ∃ t, exec (.apertureAccess fn x none n k b) s = .next t ∧
      t.out = .aperture fn.val x.toNat (some ((List.range n).map (fun i => BitVec.ofNat 8 (s.draw.1 / 256 ^ i)))) :: s.out ∧ OnlyRegs [] s t) ∧
  (∀ (s : State), s.bit pMX1 F.MX_IDE_STAT_SECURE = true →
    ∃ t, exec .mxIdeFail s = .next t ∧ t.mx.stopped = true ∧ t.bit pMX1 F.MX_IDE_STAT_FAILED = true ∧ t.bit pMX1 F.MX_IDE_STAT_SECURE = false ∧
      t.pends pMX 1 = true ∧ t.mxUp = false ∧ OnlyRegs (evtWords pMX ++ [pMX1 + 0x0C4]) s t) ∧
  (∀ (s : State), s.bit pMX1 F.MX_IDE_STAT_SECURE = false → exec .mxIdeFail s = .next s) ∧
  (∀ (s : State) (fn : Fn) (w : Word), Reaches s fn.val (pMX1 + 0x0C0) (.mx 1) 0 → s.mx.stopped = true →
    ∃ t, exec (.resume fn w true) s = .next t ∧ t.mx.stopped = false ∧ t.bit pMX1 F.MX_IDE_STAT_FAILED = false ∧
      (sget 0 t.sticky pMX).toNat.testBit 1 = false ∧ OnlyRegs (cfgWords pMX1 ++ [pMX1 + 0x0C0, pMX1 + 0x0C4]) s t) ∧
  (∀ (s : State) (fn : Fn) (w : Word), Reaches s fn.val (pMX1 + 0x0C0) (.mx 1) 0 →
    ∃ t, exec (.resume fn w false) s = .next t ∧ t.mx.stopped = s.mx.stopped ∧ t.bit pMX1 F.MX_IDE_STAT_FAILED = s.bit pMX1 F.MX_IDE_STAT_FAILED ∧
      OnlyRegs (cfgWords pMX1 ++ [pMX1 + 0x0C0, pMX1 + 0x0C4]) s t) ∧
  (∀ (s : State) (fn : Fn) (w : Word), Reaches s fn.val (pMX1 + 0x0C8) (.mx 1) 0 → s.bit pMX1 F.MX_DOE_CTRL_BUSY = false → s.quiescing pMX = false →
    ∃ t, exec (.doeGo fn w) s = .next t ∧ t.bit pMX1 F.MX_DOE_CTRL_BUSY = true ∧ t.get pMX1 F.MX_DOE_CTRL_RLEN = 0 ∧
      t.out = .doe s.mx.doeReq :: s.out ∧ t.mx.doeReq = [] ∧ OnlyRegs [pMX1 + 0x0C8] s t) ∧
  (∀ (s : State) (l : List Word), s.bit pMX1 F.MX_DOE_CTRL_BUSY = true →
    ∃ t, exec (.doeReply (some l)) s = .next t ∧ t.bit pMX1 F.MX_DOE_CTRL_BUSY = false ∧ t.mx.doeReply = l ∧
      t.get pMX1 F.MX_DOE_CTRL_RLEN = l.length % 2 ^ 11 ∧ t.bit pMX1 F.MX_DOE_CTRL_ERR = s.bit pMX1 F.MX_DOE_CTRL_ERR ∧
      OnlyRegs [pMX1 + 0x0C8] s t) ∧
  (∀ (s : State), s.bit pMX1 F.MX_DOE_CTRL_BUSY = true →
    ∃ t, exec (.doeReply none) s = .next t ∧ t.bit pMX1 F.MX_DOE_CTRL_BUSY = false ∧ t.bit pMX1 F.MX_DOE_CTRL_ERR = true ∧
      OnlyRegs [pMX1 + 0x0C8] s t)

/-- R376 to R378, R382, R386, R387: what a lane group does with a received packet, its link, the numbers of a replicated stream,
and the judgement of an eliminating stream with its resets. -/
def Obligations.Uplinks : Prop :=
  (∀ (s : State) (g : Fin 16) (d : List Byte) (c b u : Nat), s.en pgUL = true → s.bit pgUL F.PAGE_QUIESCE = false → s.groupExists g.val = true →
    s.bit pgUL (F.UL_GRP_UP.ix g.val) = true → d.drop (d.length - 4) = fcs (d.take (d.length - 4)) → fieldZ d 12 2 ≠ 0x8808 →
    64 ≤ d.length → d.length ≤ s.get pgUL (F.UL_GRP_MAX_PKT.ix g.val) → s.ceMatch d = none → s.bit pLK F.PAGE_QUIESCE = false → s.en pLK = true → s.bit pLK F.ST_READY = true →
    ∃ t, exec (.ulRxPacket g d c b u) s = .next t ∧
      t.lookups = s.lookups ++ [
        { src := 48 + g.val, bytes := d,
          stamps := (List.range 8).map (fun k => (s.at u).stamp k (ulnRxLatency (s.get (pgLN (96 + g.val)) F.LN_CFG_RATE))) }] ∧
      ew (t.ent pgUL 1 g.val) 0 = (ew (s.ent pgUL 1 g.val) 0 + 1) % 2 ^ 32 ∧
      ew2 (t.ent pgUL 1 g.val) 1 = (ew2 (s.ent pgUL 1 g.val) 1 + d.length) % 2 ^ 64 ∧
      ew (t.ent pgUL 1 g.val) 9 = (ew (s.ent pgUL 1 g.val) 9 + c) % 2 ^ 32 ∧
      ew (t.ent pgUL 1 g.val) 10 = min (ew (s.ent pgUL 1 g.val) 10 + b) (2 ^ 32 - 1) ∧ t.ce = s.ce ∧ t.tm = s.tm ∧
      (∀ a, a ∉ [] → t.reg a = s.reg a) ∧ (∀ pg x j, tkey pg x j ≠ tkey pgUL 1 g.val → t.ent pg x j = s.ent pg x j)) ∧
  (∀ (s : State) (g : Fin 16) (d : List Byte) (u : Nat), s.en pgUL = true → s.bit pgUL F.PAGE_QUIESCE = false → s.groupExists g.val = true →
    s.bit pgUL (F.UL_GRP_UP.ix g.val) = true → d.drop (d.length - 4) ≠ fcs (d.take (d.length - 4)) →
    ∃ t, exec (.ulRxPacket g d 0 0 u) s = .next t ∧ t.lookups = s.lookups ∧ t.ce = s.ce ∧
      t.ent pgUL 1 g.val = ewPut (s.ent pgUL 1 g.val) 6 (min (ew (s.ent pgUL 1 g.val) 6 + 1) (2 ^ 32 - 1)) ∧
      (∀ a, a ∉ [] → t.reg a = s.reg a) ∧ (∀ pg x j, tkey pg x j ≠ tkey pgUL 1 g.val → t.ent pg x j = s.ent pg x j)) ∧
  (∀ (s : State) (g : Fin 16) (d : List Byte) (u : Nat), s.en pgUL = true → s.bit pgUL F.PAGE_QUIESCE = false → s.groupExists g.val = true →
    s.bit pgUL (F.UL_GRP_UP.ix g.val) = true → d.drop (d.length - 4) = fcs (d.take (d.length - 4)) → fieldZ d 12 2 = 0x8808 →
    ∃ t, exec (.ulRxPacket g d 0 0 u) s = .next t ∧ t.lookups = s.lookups ∧ t.ce = s.ce ∧
      t.ent pgUL 1 g.val = ewPut (s.ent pgUL 1 g.val) 8 (min (ew (s.ent pgUL 1 g.val) 8 + 1) (2 ^ 32 - 1)) ∧
      (∀ a, a ∉ [] → t.reg a = s.reg a)) ∧
  (∀ (s : State) (g : Fin 16) (d : List Byte) (u : Nat), s.en pgUL = true → s.bit pgUL F.PAGE_QUIESCE = false → s.groupExists g.val = true →
    s.bit pgUL (F.UL_GRP_UP.ix g.val) = true → d.drop (d.length - 4) = fcs (d.take (d.length - 4)) → fieldZ d 12 2 ≠ 0x8808 →
    d.length < 64 ∨ s.get pgUL (F.UL_GRP_MAX_PKT.ix g.val) < d.length →
    ∃ t, exec (.ulRxPacket g d 0 0 u) s = .next t ∧ t.lookups = s.lookups ∧ t.ce = s.ce ∧
      t.ent pgUL 1 g.val = ewPut (s.ent pgUL 1 g.val) 7 (min (ew (s.ent pgUL 1 g.val) 7 + 1) (2 ^ 32 - 1)) ∧
      (∀ a, a ∉ [] → t.reg a = s.reg a)) ∧
  (∀ (s : State) (g : Fin 16) (d : List Byte) (u : Nat), s.en pgUL = false ∨ s.bit pgUL F.PAGE_QUIESCE = true ∨ s.groupExists g.val = false ∨
      s.bit pgUL (F.UL_GRP_UP.ix g.val) = false →
    ∃ t, exec (.ulRxPacket g d 0 0 u) s = .next t ∧ t.lookups = s.lookups ∧ t.ce = s.ce ∧ t.tm = s.tm ∧ (∀ a, a ∉ [] → t.reg a = s.reg a)) ∧
  (∀ (s : State) (g : Fin 16), s.groupExists g.val = true →
    ∃ t, exec (.ulLinkDown g) s = .next t ∧ t.bit pgUL (F.UL_GRP_UP.ix g.val) = false ∧ t.raw pgUL g.val = true ∧
      OnlyRegs (evtWords pgUL ++ [pgUL + 0x0C0 + 4 * g.val]) s t) ∧
  (∀ (s : State) (g : Fin 16), s.groupExists g.val = false →
    ∃ t, exec (.ulLinkDown g) s = .next t ∧ t.bit pgUL (F.UL_GRP_UP.ix g.val) = false ∧ t.raw pgUL g.val = false ∧
      OnlyRegs ([pgUL + 0x010] ++ [pgUL + 0x0C0 + 4 * g.val]) s t) ∧
  (∀ (s : State) (g : Fin 16), s.groupExists g.val = true → s.groupLocked g.val = true →
    ∃ t, exec (.ulLinkUp g) s = .next t ∧ t.bit pgUL (F.UL_GRP_UP.ix g.val) = true ∧ t.raw pgUL g.val = false ∧
      OnlyRegs ([pgUL + 0x010] ++ [pgUL + 0x0C0 + 4 * g.val]) s t) ∧
  (∀ (s : State) (g : Fin 16), s.groupExists g.val = false ∨ s.groupLocked g.val = false → exec (.ulLinkUp g) s = .next s) ∧
  (∀ (s : State) (i : Fin 4096) (u : Nat), eget (s.strm i.val) sEN = 1 → eget (s.strm i.val) sDIR = 1 → (s.rcv i.val).any = false →
    (s.rcv i.val).at_ + eget (s.strm i.val) sRESETMS * (cyclesPerSec / 1000) ≤ (s.at u).now →
    ∃ t, exec (.elimReset i u) s = .next t ∧ t.rcv i.val = {} ∧
      t.strm i.val = eput (s.strm i.val) sRESETS (min (eget (s.strm i.val) sRESETS + 1) 65535) ∧
      (∀ a, a ∉ [] → t.reg a = s.reg a) ∧ (∀ pg x j, tkey pg x j ≠ tkey pgUL 0 i.val → t.ent pg x j = s.ent pg x j)) ∧
  (∀ (s : State) (i : Fin 4096) (u : Nat), eget (s.strm i.val) sEN = 0 ∨ (s.rcv i.val).any = true ∨
    (s.at u).now < (s.rcv i.val).at_ + eget (s.strm i.val) sRESETMS * (cyclesPerSec / 1000) → exec (.elimReset i u) s = .next (s.at u)) ∧
  (∀ (s : State) (i : Fin 4096) (u : Nat), 64 ≤ (s.rcv i.val).rogue → (s.at u).secSince s.ul.elimAt = true →
    ∃ t, exec (.ulElimOverrun i u) s = .next t ∧ t.rcv i.val = {} ∧ t.pends pgUL 17 = true ∧ t.get pgUL F.UL_ELIM_SRC_STREAM = i.val ∧
      t.strm i.val = eput (s.strm i.val) sRESETS (min (eget (s.strm i.val) sRESETS + 1) 65535) ∧
      (∀ a, a ∉ evtWords pgUL ++ [pgUL + 0x104] → t.reg a = s.reg a) ∧
      (∀ pg x j, tkey pg x j ≠ tkey pgUL 0 i.val → t.ent pg x j = s.ent pg x j)) ∧
  (∀ (s : State) (i : Fin 4096) (u : Nat), 64 ≤ (s.rcv i.val).rogue → (s.at u).secSince s.ul.elimAt = false →
    ∃ t, exec (.ulElimOverrun i u) s = .next t ∧ t.rcv i.val = {} ∧ (∀ a, a ∉ [] → t.reg a = s.reg a)) ∧
  (∀ (s : State) (i : Fin 4096) (u : Nat), (s.rcv i.val).rogue < 64 → exec (.ulElimOverrun i u) s = .next (s.at u)) ∧
  (∀ (s : State) (i : Nat) (x : LkIn), eget (s.strm i) sSEQM = 0 → x.ord < 1024 → eget (s.strm i) sUNSURE = 0 ∨ x.unsure = false →
    s.rootOf 4 (eget (s.strm i) sQA) ≠ s.rootOf 4 (eget (s.strm i) sQB) →
    (replicate i x s).1 = some ((x.sfc * 1024 + x.ord) % 65536, [(4, eget (s.strm i) sQA), (4, eget (s.strm i) sQB)]) ∧
      ew ((replicate i x s).2.strm i) 4 = (ew (s.strm i) 4 + 1) % 2 ^ 32) ∧
  (∀ (s : State) (i : Nat) (x : LkIn), eget (s.strm i) sSEQM = 0 → 1024 ≤ x.ord →
    (replicate i x s).1 = none ∧ ew ((replicate i x s).2.strm i) 5 = min (ew (s.strm i) 5 + 1) (2 ^ 32 - 1) ∧
      (s.secSince s.ul.seqAt = true → (replicate i x s).2.pends pgUL 16 = true)) ∧
  (∀ (s : State) (i o : Nat) (d : List Byte), (parse d).rtag = some o → (s.rcv i).any = true →
    (eliminate i d s).1 = true ∧ eget ((eliminate i d s).2.strm i) sSEQ = fieldZ d (o + 4) 2 % 65536 ∧
      ((eliminate i d s).2.rcv i).any = false ∧ ((eliminate i d s).2.rcv i).hist = 1) ∧
  (∀ (s : State) (i o : Nat) (d : List Byte), (parse d).rtag = some o → (s.rcv i).any = false → (s.rcv i).rogue < 64 →
    s.now < (s.rcv i).at_ + eget (s.strm i) sRESETMS * (cyclesPerSec / 1000) → 2 ≤ eget (s.strm i) sHIST →
    fieldZ d (o + 4) 2 = eget (s.strm i) sSEQ → (s.rcv i).hist.testBit 0 = true →
    (eliminate i d s).1 = false ∧ ew ((eliminate i d s).2.strm i) 5 = (ew (s.strm i) 5 + 1) % 2 ^ 32 ∧
      ((eliminate i d s).2.rcv i).hist = (s.rcv i).hist)

/-- R395 to R402: circuit packets fill the downstream buffer in sequence and strays are counted; each upstream tick sends one packet,
repeating the last circuit-frame where none is held; three bad alignment words lose the alignment. -/
def Obligations.Circuits : Prop :=
  (∀ (s : State) (c q : Nat) (d p : List Byte) (u : Nat) (r : List (Nat × List Byte)), s.ce.inq = (c, d) :: r → s.cktOn c = true →
    s.ceHeader d = some p → (p.drop 8).length = frameBytes (s.cktType c) + 4 ∨ (d.length ≤ 64 ∧ frameBytes (s.cktType c) + 4 ≤ (p.drop 8).length) → q = beNat ((p.drop 4).take 4) % 65536 →
    (s.ckt c).dsSeq.all (fun x => (q + 65536 - x) % 65536 == 1) = true → c < 2048 →
    ∃ t, exec (.ceDsPacket u) s = .next t ∧ t.ce.inq = r ∧ (t.ckt c).dsSeq = some q ∧
      (t.ckt c).ds = (if 2 ≤ (s.ckt c).ds.length then (s.ckt c).ds.drop 1 else (s.ckt c).ds) ++
        [{ bytes := (p.drop 8).take (frameBytes (s.cktType c)), l := (beNat ((p.drop 4).take 4)).testBit 27 }] ∧
      t.cget c ceDSDROP = min (s.cget c ceDSDROP + if 2 ≤ (s.ckt c).ds.length then 1 else 0) 0xFFFF ∧
      t.cget c ceDSLOST = s.cget c ceDSLOST ∧ t.cget c ceDSSTRAY = s.cget c ceDSSTRAY ∧
      (2 ≤ (s.ckt c).ds.length → t.get pgCE F.CE_LAST_SLIP = c) ∧ ((s.ckt c).ds.length < 2 → (∀ a, a ∉ [] → t.reg a = s.reg a))) ∧
  (∀ (s : State) (c q x : Nat) (d p : List Byte) (u : Nat) (r : List (Nat × List Byte)), s.ce.inq = (c, d) :: r → s.cktOn c = true →
    s.ceHeader d = some p → (p.drop 8).length = frameBytes (s.cktType c) + 4 ∨ (d.length ≤ 64 ∧ frameBytes (s.cktType c) + 4 ≤ (p.drop 8).length) → q = beNat ((p.drop 4).take 4) % 65536 →
    (s.ckt c).dsSeq = some x → (q + 65536 - x) % 65536 = 0 ∨ 32767 < (q + 65536 - x) % 65536 →
    ∃ t, exec (.ceDsPacket u) s = .next t ∧ t.ce.inq = r ∧ t.ckt c = s.ckt c ∧
      t.cget c ceDSSTRAY = min (s.cget c ceDSSTRAY + 1) 0xFFFF ∧ (∀ a, a ∉ [] → t.reg a = s.reg a)) ∧
  (∀ (s : State) (c q x : Nat) (d p : List Byte) (u : Nat) (r : List (Nat × List Byte)), s.ce.inq = (c, d) :: r → s.cktOn c = true →
    s.ceHeader d = some p → (p.drop 8).length = frameBytes (s.cktType c) + 4 ∨ (d.length ≤ 64 ∧ frameBytes (s.cktType c) + 4 ≤ (p.drop 8).length) → q = beNat ((p.drop 4).take 4) % 65536 →
    (s.ckt c).dsSeq = some x → 2 ≤ (q + 65536 - x) % 65536 → (q + 65536 - x) % 65536 ≤ 32767 → (s.ckt c).ds = [] →
    ∃ t, exec (.ceDsPacket u) s = .next t ∧ (t.ckt c).dsSeq = some q ∧
      t.cget c ceDSLOST = min (s.cget c ceDSLOST + ((q + 65536 - x) % 65536 - 1)) 0xFFFF ∧
      (t.ckt c).ds = [s.filler c, { bytes := (p.drop 8).take (frameBytes (s.cktType c)), l := (beNat ((p.drop 4).take 4)).testBit 27 }]) ∧
  (∀ (s : State) (u : Nat) (c : Fin 1088), s.cktOn c.val = true →
    ∃ t, exec (.ceUsTick c u) s = .next t ∧
      (t.tm.offers.getLast?.map (fun o => (o.dests, o.pkt.charge, o.pkt.bytes))) = some ([(4, s.cget c.val ceUQ)], 66,
        s.cePacket c.val ((s.ckt c.val).us.headD ((s.ckt c.val).usLast.getD (s.filler c.val)))) ∧
      t.tm.offers.length = s.tm.offers.length + 1 ∧ (t.ckt c.val).us = (s.ckt c.val).us.drop 1 ∧
      (t.ckt c.val).usSeq = ((s.ckt c.val).usSeq + 1) % 65536 ∧ t.cget c.val ceTX = (s.cget c.val ceTX + 1) % 2 ^ 32 ∧
      t.cget c.val ceUSREP = min (s.cget c.val ceUSREP + if (s.ckt c.val).us = [] ∧ (s.ckt c.val).usLast ≠ none then 1 else 0) 0xFFFF) ∧
  (∀ (s : State) (u : Nat) (c : Fin 1088), s.cktOn c.val = false → exec (.ceUsTick c u) s = .next (s.at u)) ∧
  (∀ (s : State) (c : Fin 1088), s.cget c.val ceALIGNED = 1 → 3 ≤ (s.ckt c.val).bad →
    ∃ t, exec (.ceLof c) s = .next t ∧ t.cget c.val ceALIGNED = 0 ∧ (t.ckt c.val).lof = true ∧ (t.ckt c.val).acc = [] ∧
      t.cget c.val ceLOF = min (s.cget c.val ceLOF + 1) 0xFFFF ∧ t.get pgCE F.CE_LAST_LOF = c.val ∧ t.pends pgCE 1 = true ∧
      (∀ a, a ∉ evtWords pgCE ++ [pgCE + F.CE_LAST_LOF.off] → t.reg a = s.reg a)) ∧
  (∀ (s : State) (c : Fin 1088), s.cget c.val ceALIGNED = 0 ∨ (s.ckt c.val).bad < 3 → exec (.ceLof c) s = .next s)

/-- R407 to R413: accepted and discarded ligature frames, alignment, the heartbeats sent and heard on both paths, and their loss. -/
def Obligations.LigatureAndHeartbeats : Prop :=
  (∀ (s : State) (l : Fin 4) (f : LigFrame) (u : Nat), s.pxEn = true → s.resting = false → sget 0 s.px.lanes l.val ≠ 0 → ligGood f = false →
    ∃ t, exec (.ligFrameRx l f u) s = .next t ∧ t.count pgPX C.PX_LIG_BAD = min (s.count pgPX C.PX_LIG_BAD + 1) (2 ^ 32 - 1) ∧ t.px = s.px ∧
      OnlyRegs [] s t) ∧
  (∀ (s : State) (l : Fin 4) (f : LigFrame) (u : Nat), s.pxEn = false ∨ s.resting = true ∨ sget 0 s.px.lanes l.val = 0 →
    exec (.ligFrameRx l f u) s = .next (s.at u)) ∧
  (∀ (s : State) (l : Fin 4) (f : LigFrame) (u : Nat), s.pxEn = true → s.resting = false → sget 0 s.px.lanes l.val ≠ 0 → ligGood f = true →
    s.px.fcnt.getD (ligFcnt f) = ligFcnt f → s.px.ahead = [] → f.maps = [] → s.px.hbRx ≠ some (ligHbCnt f) → s.pxState = 4 → s.pxRole = 0 → ligSwqA f = s.get pgPX F.PX_SWQ_RX_A →
    ligSwqB f = s.get pgPX F.PX_SWQ_RX_B →
    ∃ t, exec (.ligFrameRx l f u) s = .next t ∧ t.bit pgPX F.PX_STATE_A_OK = true ∧ t.px.aAt = some (s.at u).now ∧
      t.px.hbRx = some (ligHbCnt f) ∧ t.px.peerVer = ligVerMax f ∧ sget 0 t.px.lanes l.val = ligLogical f + 1 ∧
      t.px.fcnt = some ((ligFcnt f + 1) % 2 ^ 32) ∧ t.px.ahead = [] ∧ t.raw pgPX 0 = false ∧ t.pxState = 4 ∧ t.px.failed = false ∧
      OnlyRegs (evtWords pgPX ++ [pgPX + 0x054]) s t) ∧
  (∀ (s : State) (l : Fin 4) (f : LigFrame) (u : Nat), s.pxEn = true → s.resting = false → sget 0 s.px.lanes l.val ≠ 0 → ligGood f = true →
    s.px.fcnt.getD (ligFcnt f) = ligFcnt f → s.px.ahead = [] → f.maps = [] → s.px.hbRx = some (ligHbCnt f) → s.pxState = 3 → ligSwitch f = 0 → s.px.candA = (ligSwqA f, 2) →
    ligSwqA f ≠ s.get pgPX F.PX_SWQ_RX_A → ligSwqB f = s.get pgPX F.PX_SWQ_RX_B →
    ∃ t, exec (.ligFrameRx l f u) s = .next t ∧ t.get pgPX F.PX_SWQ_RX_A = ligSwqA f ∧ t.pends pgPX 4 = true ∧ OnlyPages [pgPX] s t) ∧
  (∀ (s : State) (l : Fin 4) (f : LigFrame) (u : Nat), s.pxEn = true → s.resting = false → sget 0 s.px.lanes l.val ≠ 0 → ligGood f = true →
    s.px.fcnt.getD (ligFcnt f) = ligFcnt f → s.px.ahead = [] → f.maps = [] → s.px.hbRx = some (ligHbCnt f) → s.pxState = 3 → ligSwitch f = 0 → s.px.candA.2 < 2 →
    ∃ t, exec (.ligFrameRx l f u) s = .next t ∧ t.get pgPX F.PX_SWQ_RX_A = s.get pgPX F.PX_SWQ_RX_A ∧ t.pends pgPX 4 = s.pends pgPX 4) ∧
  (∀ (s : State) (l : Fin 4) (f : LigFrame) (u c : Nat), s.pxEn = true → s.resting = false → sget 0 s.px.lanes l.val ≠ 0 → ligGood f = true →
    s.px.fcnt = some c → s.px.ahead = [] → fcntDist c (ligFcnt f) ≠ 0 →
    ∃ t, exec (.ligFrameRx l f u) s = .next t ∧ t.px.hbRx = s.px.hbRx ∧ t.px.fcnt = some c ∧
      t.px.ahead = (if fcntDist c (ligFcnt f) < 2 ^ 31 then [(ligFcnt f, f)] else []) ∧ t.count pgPX C.PX_LIG_BAD = s.count pgPX C.PX_LIG_BAD ∧
      OnlyRegs (evtWords pgPX ++ [pgPX + 0x054]) s t) ∧
  (∀ (s : State) (l x : Fin 4) (w v : BitVec 64), s.px.restored = false → s.resting = false → ligDiffer w = 0 → ligDiffer v ≤ 3 →
    ∃ t, exec (.ligAlign l ⟨w, v, x⟩) s = .next t ∧ sget 0 t.px.lanes l.val = x.val + 1 ∧ t.bit pgPX F.PX_STATE_LIG_UP = t.ligUp ∧
      (t.ligUp = true → t.raw pgPX 3 = false) ∧ OnlyRegs (evtWords pgPX ++ [pgPX + 0x054]) s t) ∧
  (∀ (s : State) (l x : Fin 4) (w v : BitVec 64), ligDiffer w ≠ 0 ∨ 3 < ligDiffer v → exec (.ligAlign l ⟨w, v, x⟩) s = .next s) ∧
  (∀ (s : State) (l : Fin 4) (w x y v : BitVec 64), s.resting = false → 3 < ligDiffer w → 3 < ligDiffer x → 3 < ligDiffer y → 3 < ligDiffer v →
    ∃ t, exec (.ligAlignLoss ⟨l, w, x, y, v⟩) s = .next t ∧ sget 0 t.px.lanes l.val = 0 ∧ t.px.fcnt = none ∧ t.bit pgPX F.PX_STATE_LIG_UP = false ∧
      (s.pxEn = true → s.inRun = true → s.peerRuns = true → t.raw pgPX 3 = true) ∧ OnlyRegs (evtWords pgPX ++ [pgPX + 0x054]) s t) ∧
  (∀ (s : State) (l : Fin 4) (w x y v : BitVec 64), ligDiffer w ≤ 3 ∨ ligDiffer x ≤ 3 ∨ ligDiffer y ≤ 3 ∨ ligDiffer v ≤ 3 →
    exec (.ligAlignLoss ⟨l, w, x, y, v⟩) s = .next s) ∧
  (∀ (s : State) (u : Nat), s.pxEn = true → s.inRun = true → s.bit pgPX F.PX_CFG_REVERT = false → s.px.req = 0 →
    ∃ t, exec (.hbTick u) s = .next t ∧ t.px.hbSent = (s.px.hbSent + 1) % 65536 ∧ t.get pgPX F.PX_STATE_WTR_LEFT = 0 ∧
      t.out = .ligHeader (ligHeader t) :: s.out ∧
      OnlyRegs [pgPX + 0x054] s t) ∧
  (∀ (s : State) (u : Nat), s.pxEn = false ∨ s.inRun = false → exec (.hbTick u) s = .next (s.at u)) ∧
  (∀ (s : State), s.pxEn = true → s.resting = false → s.pxState < 8 →
    ∃ t, exec .hbWordTx s = .next t ∧ t.out = .hbWord (hbBits s.pxRole s.pxState (s.pe s.refPort).sfc) :: s.out ∧
      hbBits s.pxRole s.pxState (s.pe s.refPort).sfc % 2 ^ 20 = 0x2F0B4 ∧
      hbBits s.pxRole s.pxState (s.pe s.refPort).sfc / 2 ^ 20 % 2 ^ 4 = s.pxRole + 2 * s.pxState ∧
      hbBits s.pxRole s.pxState (s.pe s.refPort).sfc / 2 ^ 24 % 2 ^ 51 = (s.pe s.refPort).sfc % 2 ^ 51 ∧
      hbGood (hbBits s.pxRole s.pxState (s.pe s.refPort).sfc) = true ∧ OnlyRegs [] s t) ∧
  (∀ (s : State), s.pxEn = true → s.resting = true →
    ∃ t, exec .hbWordTx s = .next t ∧ t.out = .hbWord (hbBits s.pxRole s.pxState 0) :: s.out ∧ OnlyRegs [] s t) ∧
  (∀ (s : State), s.pxEn = false → exec .hbWordTx s = .next s) ∧
  (∀ (s : State) (w : BitVec 125) (u v : Nat), s.pxEn = true → hbSync w.toNat = some (s.bit pgPX F.PX_STATE_B_INV, v) → hbGood v = true →
    s.pxState = 4 → s.pxRole = 0 →
    s.resting = false →
    ∃ t, exec (.hbWordRx w u) s = .next t ∧ t.bit pgPX F.PX_STATE_B_OK = true ∧ t.get pgPX F.PX_STATE_PEER = hbState v ∧
      t.px.bAt = some (s.at u).now ∧ t.px.peerVer = hbVerMax v ∧ t.raw pgPX 6 = decide (hbState v = 6) ∧ t.raw pgPX 1 = false ∧ t.px.failed = false ∧
      OnlyRegs (evtWords pgPX ++ [pgPX + 0x054]) s t) ∧
  (∀ (s : State) (w : BitVec 125) (u v : Nat) (r : Bool), s.pxEn = true → hbSync w.toNat = some (r, v) → hbGood v = false →
    r ≠ s.bit pgPX F.PX_STATE_B_INV → s.resting = false →
    ∃ t, exec (.hbWordRx w u) s = .next t ∧ t.bit pgPX F.PX_STATE_B_INV = r ∧ t.pends pgPX 9 = true ∧ t.px = s.px ∧
      OnlyRegs (evtWords pgPX ++ [pgPX + 0x054]) s t) ∧
  (∀ (s : State) (w : BitVec 125) (u : Nat), s.pxEn = false ∨ hbSync w.toNat = none → exec (.hbWordRx w u) s = .next (s.at u)) ∧
  (∀ (s : State) (u : Nat), s.pxEn = true → s.resting = false → s.inRun = true → (s.at u).silent s.px.aAt = true →
    ∃ t, exec (.hbALoss u) s = .next t ∧ t.bit pgPX F.PX_STATE_A_OK = false ∧ t.raw pgPX 0 = s.peerRuns ∧
      OnlyRegs (evtWords pgPX ++ [pgPX + 0x054]) s t) ∧
  (∀ (s : State) (u : Nat), s.pxEn = false ∨ (s.resting = false ∧ (s.at u).silent s.px.aAt = false) → exec (.hbALoss u) s = .next (s.at u)) ∧
  (∀ (s : State) (u : Nat), s.pxEn = true → s.resting = false → (s.at u).silent s.px.bAt = true →
    ∃ t, exec (.hbBLoss u) s = .next t ∧ t.bit pgPX F.PX_STATE_B_OK = false ∧ t.get pgPX F.PX_STATE_PEER = 15 ∧ t.raw pgPX 1 = true ∧
      OnlyRegs (evtWords pgPX ++ [pgPX + 0x054]) s t) ∧
  (∀ (s : State) (u : Nat), s.pxEn = false ∨ (s.at u).silent s.px.bAt = false → exec (.hbBLoss u) s = .next (s.at u))

/-- R414 to R417: the declaration of a failed peer, what the witness then decides in each state, the wait in HOLD, the listen
periods and the promotion of a PROVISIONAL device. -/
def Obligations.DecidingWhichIsActive : Prop :=
  (∀ (s : State) (w : Byte) (u : Nat), s.pxEn = true → s.px.failed = false → s.resting = false → (s.at u).silent s.px.aAt = true →
    (s.at u).silent s.px.bAt = true → s.pxState = 4 → s.pxRole = 0 → s.px.peerVer ≠ 1 →
    ∃ t, exec (.peerFail w u) s = .next t ∧ t.px.failed = true ∧ t.pends pgPX 2 = true ∧ (sget 0 t.sticky pgPX).toNat.testBit 2 = true ∧
      t.bit pgPX F.PX_STATE_A_OK = false ∧ t.bit pgPX F.PX_STATE_B_OK = false ∧ t.pxState = 4 ∧ OnlyPages [pgPX] s t) ∧
  (∀ (s : State) (w : Byte) (u : Nat), s.pxEn = true → s.px.failed = false → s.resting = false → (s.at u).silent s.px.aAt = true →
    (s.at u).silent s.px.bAt = true → s.pxState = 4 → s.pxRole = 1 → (s.at u).witRun = false → s.px.peerVer ≠ 1 →
    ∃ t, exec (.peerFail w u) s = .next t ∧ t.pxState = 7 ∧ t.pends pgPX 5 = true ∧ t.bit pgPX F.PX_STATE_WIT = false ∧ OnlyPages [pgPX] s t) ∧
  (∀ (s : State) (w : Byte) (u : Nat), s.pxEn = true → s.px.failed = false → s.resting = false → (s.at u).silent s.px.aAt = true →
    (s.at u).silent s.px.bAt = true → s.pxState = 3 → (s.at u).witRun = false → s.bit pgPX F.PX_CMD_STAT_LO = false → s.px.peerVer ≠ 1 →
    ∃ t, exec (.peerFail w u) s = .next t ∧ t.pxState = 3 ∧ t.px.armed = some (if s.pxRole = 1 then s.deadline else 0) ∧ OnlyPages [pgPX] s t) ∧
  (∀ (s : State) (w : Byte) (u : Nat), s.pxEn = true → s.px.failed = false → s.resting = true → (s.at u).silent s.px.bAt = true → s.pxState = 1 →
    (w.toNat &&& s.get pgPX F.PX_WIT_EN) = 0 → s.bit pgPX F.PX_CMD_STAT_LO = false → s.px.peerVer ≠ 1 →
    (s.get pgPW F.PW_WAKE_EN_EN).testBit 0 = true →
    ∃ t, exec (.peerFail w u) s = .next t ∧ t.get pgPW F.PW_STATE_STATE = 3 ∧ t.get pgPW F.PW_LAST_WAKE_SRC = 1 ∧ t.px.takeover = true ∧
      t.pxState = 2 ∧ t.px.late.contains 2 = true ∧ OnlyPages [pgPX, pgPW] s t) ∧
  (∀ (s : State) (w : Byte) (u : Nat), s.pxEn = false ∨ s.px.failed = true ∨ (s.at u).silent s.px.bAt = false ∨
    (s.resting = false ∧ (s.at u).silent s.px.aAt = false) → exec (.peerFail w u) s = .next (s.at u)) ∧
  (∀ (s : State) (w : Byte) (u : Nat), s.pxEn = true → s.px.failed = true → s.resting = false → s.pxState = 7 → (s.at u).witRun = true →
    s.bit pgPX F.PX_CFG_COLD = false → s.px.peerVer ≠ 1 → s.get2 pgPX F.PX_PORTS_LO_PORTS F.PX_PORTS_HI_PORTS = 0 →
    ∃ t, exec (.witnessEval w u) s = .next t ∧ t.pxState = 3 ∧ t.bit pgPX F.PX_STATE_WIT = true ∧ OnlyPages [pgPX] s t) ∧
  (∀ (s : State) (w : Byte) (u : Nat), s.pxEn = true → s.px.failed = true → s.resting = true → s.pxState = 6 →
    ∃ t, exec (.witnessEval w u) s = .next t ∧ t.pxState = 6 ∧ t.get pgPW F.PW_STATE_STATE = 2 ∧ OnlyPages [pgPX] s t) ∧
  (∀ (s : State) (w : Byte) (u : Nat), s.pxEn = false ∨ s.px.failed = false → exec (.witnessEval w u) s = .next (s.at u)) ∧
  (∀ (s : State) (u : Nat), s.pxEn = true → s.pxState = 7 → s.px.failed = true → s.pxMismatch = false → s.bit pgPX F.PX_CMD_STAT_LO = false →
    (s.at u).witRun = false → s.deadline ≤ (s.at u).now → s.resting = false →
    ∃ t, exec (.holdExpiry u) s = .next t ∧ t.pxState = 5 ∧ t.px.provAt = (s.at u).now ∧ t.pends pgPX 5 = true ∧
      (s.get2 pgPX F.PX_PORTS_LO_PORTS F.PX_PORTS_HI_PORTS = 0 → OnlyRegs (evtWords pgPX ++ [pgPX + 0x054]) s t)) ∧
  (∀ (s : State) (u : Nat), s.pxEn = false ∨ s.pxState ≠ 7 ∨ s.px.failed = false ∨ s.bit pgPX F.PX_CMD_STAT_LO = true ∨ (s.at u).witRun = true ∨ (s.at u).now < s.deadline →
    exec (.holdExpiry u) s = .next (s.at u)) ∧
  (∀ (s : State) (u : Nat), s.pxEn = true → s.pxState = 5 → s.px.light = false →
    ∃ t, exec (.listenPeriod u) s = .next t ∧ t.pxState = 5 ∧
      t.px.listening = decide (cyclesPerSec * 4 / 5 ≤ ((s.at u).now - s.px.provAt) % cyclesPerSec) ∧ OnlyRegs [] s t) ∧
  (∀ (s : State) (u : Nat), s.pxEn = true → s.pxState = 5 → s.px.light = true → s.bit pgPX F.PX_CFG_COLD = false → s.pxVersion ≠ 1 →
    s.get2 pgPX F.PX_PORTS_LO_PORTS F.PX_PORTS_HI_PORTS = 0 →
    ∃ t, exec (.listenPeriod u) s = .next t ∧ t.pxState = 3 ∧ OnlyPages [pgPX] s t) ∧
  (∀ (s : State) (u : Nat), s.pxEn = false ∨ s.pxState ≠ 5 → exec (.listenPeriod u) s = .next (s.at u)) ∧
  (∀ (s : State) (n : Fin 48), s.pxEn = true → s.pxState = 5 → s.protected_ n.val = true → 8 ≤ (sget (0, 0) s.px.ok n.val).2 →
    s.pxMismatch = false → s.resting = false →
    ∃ t, exec .provisionalPromote s = .next t ∧ t.pxState = 4 ∧ t.pends pgPX 5 = true ∧ OnlyRegs (evtWords pgPX ++ [pgPX + 0x054]) s t) ∧
  (∀ (s : State), s.pxEn = false ∨ s.pxState ≠ 5 ∨ s.get2 pgPX F.PX_PORTS_LO_PORTS F.PX_PORTS_HI_PORTS = 0 →
    exec .provisionalPromote s = .next s)

/-- R419 to R423, R428, R480: the snapshot of an image, its commit record in main memory, deltas, the restore, and the deltas
applied in SHADOW. The bytes of the record that the manual leaves open are drawn (log entry 2), and those of the image are not written
out byte by byte (log entry 90). -/
def Obligations.Bellows : Prop :=
  (∀ (s : State), s.bellows = true →
    ∃ t, exec .ckptImage s = .next t ∧ t.px.image = some (match s.newest with | some (k, _) => 1 - k | none => 0, (s.pe s.refPort).sfc, s.ckData) ∧
      t.newest = s.newest ∧ OnlyRegs [] s t) ∧
  (∀ (s : State), s.bellows = false → exec .ckptImage s = .next s ∧ exec .ckptCommit s = .next s ∧ exec (.ckptDelta false) s = .next s) ∧
  (∀ (s : State) (k f : Nat) (d : CkData), s.bellows = true → s.px.image = some (k, f, d) → k < 2 → s.mxUp = true →
    s.mxCheck true false true (s.slotAddr k) 64 = 0 →
    ∃ t, exec .ckptCommit s = .next t ∧ t.px.image = none ∧ t.slot k = some { record := 1, gen := s.topGen + 1, data := d } ∧
      t.slot (1 - k) = s.slot (1 - k) ∧ t.get pgPX F.PX_CKPT_STAT_SLOT = k ∧ t.get pgPX F.PX_CKPT_STAT_GEN = (s.topGen + 1) % 2 ^ 16 ∧
      t.get pgPX F.PX_CKPT_STAT_DSEQ = 0 ∧ t.count pgPX C.PX_IMAGES = (s.count pgPX C.PX_IMAGES + 1) % 2 ^ 32 ∧
      t.cxl = memWrite s.cxl (s.slotAddr k) (commitRecord (s.topGen + 1) f d.terms s).1 ∧ t.hostMem = s.hostMem ∧ t.tabs = s.tabs ∧
      (∀ a, a ∉ [pgPX + 0x078] → t.reg a = s.reg a)) ∧
  (∀ (s : State), s.px.image = none → exec .ckptCommit s = .next s) ∧
  (∀ (s : State) (k : Nat) (x : CkSlot), s.bellows = true → s.newest = some (k, x) → k < 2 → x.deltas.length < 127 → s.mxUp = true →
    s.mxCheck true false true (s.slotAddr k + 64 + (x.deltas.map (fun d => 32 + d.len)).foldl (· + ·) 0) 32 = 0 →
    ∃ t, exec (.ckptDelta false) s = .next t ∧
      (t.slot k).map (fun y => { y with deltas := y.deltas.dropLast }) = some x ∧
      ((t.slot k).bind (fun y => y.deltas.getLast?)).map (fun d => (d.dseq, d.gen, d.good, d.data)) =
        some (x.deltas.length + 1, x.gen, true, ckDiff s.px.base s.ckData) ∧
      memRead t.cxl (s.slotAddr k + 64 + (x.deltas.map (fun d => 32 + d.len)).foldl (· + ·) 0) 12 =
        leBytes 4 (x.deltas.length + 1) ++ leBytes 8 x.gen ∧
      t.px.base = s.ckData ∧ t.count pgPX C.PX_DELTAS = (s.count pgPX C.PX_DELTAS + 1) % 2 ^ 32 ∧
      t.get pgPX F.PX_CKPT_STAT_DSEQ = x.deltas.length + 1 ∧
      t.tabs = s.tabs ∧ t.hostMem = s.hostMem ∧ (∀ a, a ∉ [pgPX + 0x078] → t.reg a = s.reg a)) ∧
  (∀ (s : State) (k : Nat) (x : CkSlot), s.bellows = true → s.newest = some (k, x) → x.deltas.length < 127 → s.mxUp = false →
    ∃ t, exec (.ckptDelta false) s = .next t ∧ t.px = s.px ∧ OnlyRegs [] s t) ∧
  (∀ (s : State) (k : Nat) (x : CkSlot) (o : Bool), s.bellows = true → s.newest = some (k, x) → o = true ∨ 127 ≤ x.deltas.length → s.px.image = none →
    ∃ t, exec (.ckptDelta o) s = .next t ∧ t.px.image = some (1 - k, (s.pe s.refPort).sfc, s.ckData) ∧ t.slot k = s.slot k ∧ OnlyRegs [] s t) ∧
  (∀ (s : State) (a b : CkRead) (u : Nat), s.pxEn = true → s.pxState = 2 → s.inRun = true → s.mxUp = true → s.px.restored = false →
    (readSlot a).record.val ≠ 1 → (readSlot b).record.val ≠ 1 →
    ∃ t, exec (.ckptRestore (some (a, b)) u) s = .next t ∧ t.pxState = 6 ∧ t.get pgPW F.PW_STATE_STATE = 2 ∧
      t.get pgPW F.PW_RET_SEQ_SEQ = s.get pgPW F.PW_RET_SEQ_SEQ ∧ t.pw.banks = s.pw.banks) ∧
  (∀ (s : State) (a b : CkRead) (u : Nat), s.pxEn = true → s.pxState = 2 → s.inRun = true → s.mxUp = true → s.px.restored = false →
    (readSlot a).record.val = 1 → (readSlot b).record.val = 1 → (readSlot a).gen < (readSlot b).gen → slotCause (s.sc.pair != 0) (readSlot b) = 0 → b.deltas = [] → b.data.regs = [] → b.data.tabs = [] →
    s.tabs = [] → s.get2 pgPX F.PX_PORTS_LO_PORTS F.PX_PORTS_HI_PORTS = 0 → s.px.takeover = false → s.ligUp = false →
    ∃ t, exec (.ckptRestore (some (a, b)) u) s = .next t ∧ t.px.restored = true ∧ t.pxState = 2 ∧ t.get pgPX F.PX_CKPT_STAT_SLOT = 1 ∧
      t.get pgPX F.PX_CKPT_STAT_GEN = (readSlot b).gen % 2 ^ 16 ∧ t.get pgPX F.PX_STATE_TERMS = b.data.terms % 2 ∧ t.px.times = b.data.times ∧ t.tabs = s.tabs ∧
      t.pends pgPX 8 = s.pends pgPX 8) ∧
  (∀ (s : State) (a b : CkRead) (u : Nat), s.pxEn = true → s.pxState = 2 → s.inRun = true → s.mxUp = true → s.px.restored = false →
    (readSlot a).record.val = 1 → (readSlot b).record.val = 1 → (readSlot a).gen < (readSlot b).gen → slotCause (s.sc.pair != 0) (readSlot b) ≠ 0 → slotCause (s.sc.pair != 0) (readSlot a) = 0 → a.deltas = [] →
    a.data.regs = [] → a.data.tabs = [] → s.tabs = [] → s.get2 pgPX F.PX_PORTS_LO_PORTS F.PX_PORTS_HI_PORTS = 0 → s.px.takeover = false → s.ligUp = false →
    ∃ t, exec (.ckptRestore (some (a, b)) u) s = .next t ∧ t.px.restored = true ∧ t.get pgPX F.PX_CKPT_STAT_SLOT = 0 ∧
      t.get pgPX F.PX_CKPT_STAT_GEN = (readSlot a).gen % 2 ^ 16 ∧ t.get pgPX F.PX_CKPT_STAT_CAUSE = slotCause (s.sc.pair != 0) (readSlot b) ∧ t.pends pgPX 8 = true) ∧
  (∀ (s : State) (u : Nat), s.pxEn = true → s.pxState = 2 → s.inRun = true → s.mxUp = true → s.px.restored = false →
    s.slot 0 = none → s.slot 1 = none →
    ∃ t, exec (.ckptRestore none u) s = .next t ∧ t.pxState = 6 ∧ t.get pgPW F.PW_STATE_STATE = 2) ∧
  (∀ (s : State) (x : Option (CkRead × CkRead)) (u : Nat), s.pxEn = false ∨ s.pxState ≠ 2 ∨ s.inRun = false ∨ s.mxUp = false ∨ s.px.restored = true →
    exec (.ckptRestore x u) s = .next (s.at u)) ∧
  (∀ (s : State) (d : CkDelta), s.pxEn = true → s.pxState = 3 → d.good = true →
    ∃ t, exec (.shadowDelta d) s = .next t ∧ t.get pgPX F.PX_CKPT_STAT_DSEQ = d.dseq % 2 ^ 12 ∧ t.get pgPX F.PX_CKPT_STAT_GEN = d.gen % 2 ^ 16 ∧
      t.get pgPX F.PX_STATE_TERMS = d.data.terms % 2 ∧ t.px.times = d.data.times ∧
      (∀ p ∈ d.data.keys, (d.data.keys.filter (fun q => q.1 == p.1)).length = 1 → sget 0 t.keys p.1 = p.2)) ∧
  (∀ (s : State) (d : CkDelta), s.pxEn = false ∨ s.pxState ≠ 3 ∨ d.good = false → exec (.shadowDelta d) s = .next s)

/-- R430, R431, R433, R434: the requests by PX_CMD with what refuses them, the measurement, the switch at frame K on both devices, the
revert, and the return to Rest after a switch. -/
def Obligations.PlannedSwitches : Prop :=
  (∀ (s : State) (fn : Fn), Reaches s fn.val (pgPX + 0x05C) .px 0 → s.pxEn = true → s.pxState = 3 → s.pxMismatch = false → s.px.req ≠ 6 →
    s.bit pgPX F.PX_STATE_ALIGNED = true →
    ∃ t, exec (.ms fn) s = .next t ∧ t.px.req = 3 ∧ t.get pgPX F.PX_SWQ_TX_A = reqByte 3 s.pxRole ∧ t.pxState = 3 ∧
      OnlyRegs [pgPX + 0x058, pgPX + 0x060, pgPX + 0x064, pgPX + 0x068] s t) ∧
  (∀ (s : State) (fn : Fn), Reaches s fn.val (pgPX + 0x05C) .px 0 → s.pxEn = false ∨ s.pxState ≠ 3 ∨ s.bit pgPX F.PX_STATE_ALIGNED = false ∨
    s.pxMismatch = true ∨ s.px.req = 6 →
    ∃ t, exec (.ms fn) s = .next t ∧ t.bit pgPX F.PX_CMD_STAT_REJ = true ∧ t.px = s.px ∧ OnlyRegs [pgPX + 0x060] s t) ∧
  (∀ (s : State) (fn : Fn), Reaches s fn.val (pgPX + 0x05C) .px 0 → s.pxEn = true → s.pxState = 3 → s.pxMismatch = false → s.px.req ≠ 6 →
    ∃ t, exec (.fs fn) s = .next t ∧ t.px.req = 5 ∧ t.get pgPX F.PX_SWQ_TX_A = reqByte 5 s.pxRole ∧
      OnlyRegs [pgPX + 0x058, pgPX + 0x060, pgPX + 0x064, pgPX + 0x068] s t) ∧
  (∀ (s : State) (fn : Fn), Reaches s fn.val (pgPX + 0x05C) .px 0 → s.pxEn = false ∨ s.pxState ≠ 3 ∨ s.pxMismatch = true ∨ s.px.req = 6 →
    ∃ t, exec (.fs fn) s = .next t ∧ t.bit pgPX F.PX_CMD_STAT_REJ = true ∧ t.px = s.px ∧ OnlyRegs [pgPX + 0x060] s t) ∧
  (∀ (s : State) (fn : Fn), Reaches s fn.val (pgPX + 0x05C) .px 0 → s.pxEn = true → byteReq (s.get pgPX F.PX_SWQ_RX_A) ≤ 6 →
    ∃ t, exec (.lo fn) s = .next t ∧ t.px.req = 6 ∧ t.bit pgPX F.PX_CMD_STAT_LO = true ∧ t.px.k = none ∧
      t.get pgPX F.PX_SWQ_TX_A = reqByte 6 s.pxRole ∧ t.pxState = s.pxState ∧
      OnlyRegs [pgPX + 0x058, pgPX + 0x060, pgPX + 0x064, pgPX + 0x068] s t) ∧
  (∀ (s : State) (fn : Fn), Reaches s fn.val (pgPX + 0x05C) .px 0 → s.pxEn = true → byteReq (s.get pgPX F.PX_SWQ_RX_A) = 0 →
    ∃ t, exec (.clear fn) s = .next t ∧ t.px.req = 0 ∧ t.bit pgPX F.PX_CMD_STAT_LO = false ∧ t.get pgPX F.PX_SWQ_TX_A = s.pxRole ∧
      OnlyRegs [pgPX + 0x058, pgPX + 0x060, pgPX + 0x064, pgPX + 0x068] s t) ∧
  (∀ (s : State) (fn : Fn), Reaches s fn.val (pgPX + 0x05C) .px 0 → s.pxEn = true → s.pxState = 3 → s.get pgPX F.PX_STATE_TERMS ≠ s.pxRole →
    ∃ t, exec (.measure fn) s = .next t ∧ t.px.measuring = true ∧ t.px.meas = [] ∧ t.bit pgPX F.PX_CMD_STAT_BUSY = true ∧
      OnlyRegs [pgPX + 0x060, pgPX + 0x064, pgPX + 0x068] s t) ∧
  (∀ (s : State) (fn : Fn), Reaches s fn.val (pgPX + 0x05C) .px 0 → s.pxEn = false ∨ s.pxState ≠ 3 ∨ s.get pgPX F.PX_STATE_TERMS = s.pxRole →
    ∃ t, exec (.measure fn) s = .next t ∧ t.bit pgPX F.PX_CMD_STAT_REJ = true ∧ t.px = s.px ∧ OnlyRegs [pgPX + 0x060] s t) ∧
  (∀ (s : State) (fn : Fn) (u : Nat), Reaches s fn.val (pgPX + 0x05C) .px 0 → s.pxEn = true → s.pxState = 3 → s.pxMismatch = false →
    ∃ t, exec (.pxRest fn u) s = .next t ∧ t.get pgPW F.PW_STATE_STATE = 2 ∧ t.pxState = 1 ∧
      t.get pgPW F.PW_RET_SEQ_SEQ = (s.get pgPW F.PW_RET_SEQ_SEQ + 1) % 2 ^ 32 ∧ t.tabs = [] ∧ t.cxl = s.cxl ∧ t.pending = s.pending) ∧
  (∀ (s : State) (fn : Fn) (u : Nat), Reaches s fn.val (pgPX + 0x05C) .px 0 → s.pxEn = false ∨ s.pxState ≠ 3 ∨ s.pxMismatch = true →
    ∃ t, exec (.pxRest fn u) s = .next t ∧ t.bit pgPX F.PX_CMD_STAT_REJ = true ∧ t.px = s.px ∧ OnlyRegs [pgPX + 0x060] s t) ∧
  (∀ (s : State) (n : Fin 48) (k : Nat) (x : Int), s.px.measuring = true → s.pxPorts = [n.val] → sget (0, 0) s.px.meas n.val = (k, x) →
    s.get pgPX F.PX_MEAS_BURSTS ≤ k → 1 ≤ k → s.pxRole = 1 → s.px.k = none → (roundDiv x k).natAbs < 2 ^ 24 →
    ∃ t, exec .measureDone s = .next t ∧ t.px.measuring = false ∧ t.bit pgPX F.PX_CMD_STAT_BUSY = false ∧
      t.bit pgPX (F.PX_OFS_VALID.ix n.val) = true ∧ t.getI pgPX (F.PX_OFS_OFS.ix n.val) = roundDiv x k ∧
      OnlyRegs [pgPX + 0x060, pgPX + 0x064, pgPX + 0x068, pgPX + 0x100 + 4 * n.val] s t) ∧
  (∀ (s : State), s.px.measuring = false → exec .measureDone s = .next s) ∧
  (∀ (s : State) (k u : Nat), s.px.k = some k → passed (s.pe s.refPort).next k = true → s.pxMismatch = false →
    s.pxState = 3 → s.resting = false →
    byteReq (s.get pgPX F.PX_SWQ_RX_A) = 0 →
    ∃ t, exec (.switchK u) s = .next t ∧ t.pxState = 4 ∧ t.px.k = none ∧ t.count pgPX C.PX_SWITCHES = (s.count pgPX C.PX_SWITCHES + 1) % 2 ^ 32 ∧
      t.pends pgPX 5 = true ∧ t.bit pgPX F.PX_CMD_STAT_BUSY = false ∧ t.px.lastK = some k ∧
      (s.get2 pgPX F.PX_PORTS_LO_PORTS F.PX_PORTS_HI_PORTS = 0 → OnlyPages [pgPX] s t)) ∧
  (∀ (s : State) (k u : Nat), s.px.k = some k → passed (s.pe s.refPort).next k = true → s.pxMismatch = false → s.pxState = 4 → s.pxVersion ≠ 1 → s.tabs = [] → s.resting = false →
    s.get2 pgPX F.PX_PORTS_LO_PORTS F.PX_PORTS_HI_PORTS = 0 →
    ∃ t, exec (.switchK u) s = .next t ∧ t.pxState = 3 ∧ t.px.k = none ∧ t.px.switchAt = some (s.at u).now ∧ t.px.image = none ∧ t.px.lastK = some k ∧
      t.count pgPX C.PX_SWITCHES = (s.count pgPX C.PX_SWITCHES + 1) % 2 ^ 32 ∧ OnlyPages [pgPX] s t) ∧
  (∀ (s : State) (k u : Nat), s.px.k = some k → passed (s.pe s.refPort).next k = false ∨ s.pxMismatch = true → exec (.switchK u) s = .next (s.at u)) ∧
  (∀ (s : State) (u x : Nat), s.px.wtrAt = some x → s.pxState = 3 → s.px.req = 1 → s.wtrHolds = true → x + s.wtrTime ≤ (s.at u).now →
    s.pxMismatch = false →
    ∃ t, exec (.wtrExpiry u) s = .next t ∧ t.px.req = 2 ∧ t.get pgPX F.PX_SWQ_TX_A = reqByte 2 s.pxRole ∧
      OnlyRegs [pgPX + 0x058, pgPX + 0x060, pgPX + 0x064, pgPX + 0x068] s t) ∧
  (∀ (s : State) (u : Nat), s.px.wtrAt.all (fun x => (s.at u).now < x + s.wtrTime) = true ∨ s.wtrHolds = false →
    exec (.wtrExpiry u) s = .next (s.at u)) ∧
  (∀ (s : State) (u x : Nat), s.px.switchAt = some x → s.pxState = 3 → s.bit pgPX F.PX_CFG_COLD = true → x + cyclesPerSec ≤ (s.at u).now → s.pxEn = true →
    ∃ t, exec (.switchRest u) s = .next t ∧ t.get pgPW F.PW_STATE_STATE = 2 ∧ t.pxState = 1 ∧ t.tabs = [] ∧ t.cxl = s.cxl ∧ t.pending = s.pending) ∧
  (∀ (s : State) (u : Nat), s.px.switchAt.all (fun x => (s.at u).now < x + cyclesPerSec) = true ∨ s.pxState ≠ 3 ∨ s.bit pgPX F.PX_CFG_COLD = false →
    exec (.switchRest u) s = .next (s.at u))

/-- R437, R439 to R442: traces start and stop, their windows advance the steps, a completed trace writes its record, and the latest
block becomes the baseline. -/
def Obligations.Reflectometry : Prop :=
  (∀ (s : State) (fn : Fn) (n : Fin 48) (k : PKind) (i : Nat), Reaches s fn.val (pmPg n.val + 0x200 + 64 * pmK n.val) k i →
    s.trcRuns n.val = false → s.en (pe0 n.val) = true → s.pmbit n.val F.PM_MOD_CFG_MON_OK = true → s.alsState n.val = 0 →
    s.isLegacy n.val = false → s.protected_ n.val = false → s.pinShort n.val 3 = false →
    ∃ t, exec (.traceStart fn n) s = .next t ∧ t.trcRuns n.val = true ∧ t.pmget n.val F.PM_TRC_STAT_STEP = 0 ∧
      t.pmget n.val F.PM_TRC_STAT_PASS = 0 ∧ t.pmget n.val F.PM_TRC_STAT_WIN = 0 ∧ t.pmbit n.val F.PM_TRC_STAT_URGENT = false ∧
      t.out = .overlay n.val (s.pmget n.val F.PM_TRC_CFG_DEPTH) :: s.out ∧ (t.alsOf n.val).trcFull = false ∧
      OnlyRegs [pmPg n.val + 0x20C + 64 * pmK n.val] s t) ∧
  (∀ (s : State) (fn : Fn) (n : Fin 48) (k : PKind) (i : Nat), Reaches s fn.val (pmPg n.val + 0x200 + 64 * pmK n.val) k i →
    s.trcRuns n.val = true ∨ s.en (pe0 n.val) = false ∨ s.pmbit n.val F.PM_MOD_CFG_MON_OK = false ∨ s.alsState n.val ≠ 0 ∨
      s.isLegacy n.val = true ∨ (s.protected_ n.val = true ∧ s.get pgPX F.PX_STATE_STATE ≠ 4) →
    ∃ t, exec (.traceStart fn n) s = .next t ∧ t.pmbit n.val F.PM_ALS_STAT_REJ = true ∧ t.trcRuns n.val = s.trcRuns n.val ∧
      OnlyRegs [pmPg n.val + 0x224 + 64 * pmK n.val] s t) ∧
  (∀ (s : State) (fn : Fn) (n : Fin 48) (k : PKind) (i : Nat), Reaches s fn.val (pmPg n.val + 0x200 + 64 * pmK n.val) k i →
    s.trcRuns n.val = true →
    ∃ t, exec (.traceAbort fn n) s = .next t ∧ t.pmget n.val F.PM_TRC_STAT_STATE = 3 ∧ t.out = .overlay n.val 0 :: s.out ∧
      (t.pe n.val).plant = 0 ∧
      (t.gp n.val).reqs.all (fun r => r.kind != 3) = true ∧ OnlyRegs [pmPg n.val + 0x20C + 64 * pmK n.val] s t) ∧
  (∀ (s : State) (fn : Fn) (n : Fin 48) (k : PKind) (i : Nat), Reaches s fn.val (pmPg n.val + 0x200 + 64 * pmK n.val) k i →
    s.trcRuns n.val = true →
    ∃ t, exec (.baseline fn n) s = .next t ∧ t.pmbit n.val F.PM_ALS_STAT_REJ = true ∧
      OnlyRegs [pmPg n.val + 0x224 + 64 * pmK n.val] s t) ∧
  (∀ (s : State) (fn : Fn) (n : Fin 48) (k : PKind) (i j : Nat), Reaches s fn.val (pmPg n.val + 0x200 + 64 * pmK n.val) k i →
    s.Canon → s.trcRuns n.val = false → s.mxUp = true → s.mxCheck (s.pageSecure (pmPg n.val)) false true (s.trcAddr n.val 0) 262144 = 0 →
    j < 131072 →
    ∃ t, exec (.baseline fn n) s = .next t ∧
      sget 0 t.cxl (s.trcAddr n.val 1 + j) = sget 0 s.cxl (s.trcAddr n.val 0 + j) ∧
      sget 0 t.cxl (s.trcAddr n.val 0 + j) = sget 0 s.cxl (s.trcAddr n.val 0 + j) ∧
      (∀ a, a ∉ [pgMX 0 + C.MX_RD_REQ.off, pgMX 0 + C.MX_WR_REQ.off] → t.reg a = s.reg a)) ∧
  (∀ (s : State) (n : Fin 48) (p : Nat), s.trcRuns n.val = true → (s.alsOf n.val).trcFull = false → s.pinShort n.val 3 = false →
    (s.pe n.val).plant ≠ 0 → (s.alsOf n.val).trcPowers ≠ [] →
    (((s.alsOf n.val).trcPowers.foldl (· + ·) 0) ^ 10 * 1000 < (p * (s.alsOf n.val).trcPowers.length) ^ 10) →
    ∃ t, exec (.plantSilence n p) s = .next t ∧ t.als = s.als ∧ (t.pe n.val).plant = (s.pe n.val).plant - 1 ∧
      t.count (pmPg n.val) (pmCtr n.val 1) = min (s.count (pmPg n.val) (pmCtr n.val 1) + 1) (2 ^ 32 - 1) ∧
      OnlyRegs [pmPg n.val + (pmCtr n.val 1).off] s t) ∧
  (∀ (s : State) (n : Fin 48) (p : Nat), s.trcRuns n.val = true → (s.alsOf n.val).trcFull = false → s.pinShort n.val 3 = false →
    (s.pe n.val).plant ≠ 0 → ¬ ((s.alsOf n.val).trcPowers ≠ [] ∧
      (((s.alsOf n.val).trcPowers.foldl (· + ·) 0) ^ 10 * 1000 < (p * (s.alsOf n.val).trcPowers.length) ^ 10)) →
    ∃ t, exec (.plantSilence n p) s = .next t ∧ (t.alsOf n.val).trcPowers = (p :: (s.alsOf n.val).trcPowers).take 16 ∧
      (t.pe n.val).plant = (s.pe n.val).plant - 1 ∧
      (s.pmget n.val F.PM_TRC_STAT_WIN + 1 < s.trcAvg n.val →
        t.pmget n.val F.PM_TRC_STAT_WIN = (s.pmget n.val F.PM_TRC_STAT_WIN + 1) % 2 ^ 16 ∧
        t.pmget n.val F.PM_TRC_STAT_STEP = s.pmget n.val F.PM_TRC_STAT_STEP) ∧
      (s.trcAvg n.val ≤ s.pmget n.val F.PM_TRC_STAT_WIN + 1 → t.pmget n.val F.PM_TRC_STAT_WIN = 0 ∧
        t.pmget n.val F.PM_TRC_STAT_STEP = (s.pmget n.val F.PM_TRC_STAT_STEP + 1) % 16 ∧
        ((t.alsOf n.val).trcFull = true ↔ s.pmget n.val F.PM_TRC_STAT_STEP = 15 ∧
          s.trcPasses n.val ≤ s.pmget n.val F.PM_TRC_STAT_PASS + 1)) ∧
      OnlyRegs [pmPg n.val + 0x20C + 64 * pmK n.val] s t) ∧
  (∀ (s : State) (n : Fin 48) (p : Nat), s.trcRuns n.val = false ∨ (s.alsOf n.val).trcFull = true ∨ s.pinShort n.val 3 = true ∨
    (s.pe n.val).plant = 0 → exec (.plantSilence n p) s = .next s) ∧
  (∀ (s : State) (n : Fin 48) (bins : List (BitVec 16)) (z : BitVec 16) (found ok : List TraceEvent) (u : Nat), s.trcRuns n.val = true →
    ok = found.filter (eventOk (s.pmget n.val F.PM_TRC_DET_REFL_TH) (s.pmget n.val F.PM_TRC_DET_LOSS_TH)
      (s.pmget n.val F.PM_TRC_DET_BREAK_TH) (bins.take (8000 * s.trcPasses n.val))) →
    (s.alsOf n.val).trcFull = true → s.mxUp = true → s.pmbit n.val F.PM_TRC_STAT_URGENT = false →
    s.mxCheck (s.pageSecure (pmPg n.val)) false true (s.trcAddr n.val 0) 131072 = 0 →
    ∃ t, exec (.traceDone n bins z found u) s = .next t ∧ t.pmget n.val F.PM_TRC_STAT_STATE = 2 ∧
      t.pmget n.val F.PM_TRC_RES_NEVT =
        min 64 (traceReport (s.pmget n.val F.PM_TRC_DET_DELTA_TH) (s.baseline n.val) ok).length ∧
      (traceReport (s.pmget n.val F.PM_TRC_DET_DELTA_TH) (s.baseline n.val) ok ≠ [] →
        t.pends (pmPg n.val) (pmEv n.val 2) = true) ∧
      t.pmbit n.val F.PM_TRC_RES_BREAK = ok.any (fun e => e.kind.val == 3) ∧
      t.count (pmPg n.val) (pmCtr n.val 0) = (s.count (pmPg n.val) (pmCtr n.val 0) + 1) % 2 ^ 32 ∧
      t.dm.mem = s.dm.mem ∧ t.hostMem = s.hostMem) ∧
  (∀ (s : State) (n : Fin 48) (bins : List (BitVec 16)) (z : BitVec 16) (found : List TraceEvent) (u : Nat), s.trcRuns n.val = true →
    (s.alsOf n.val).trcFull = true → s.mxUp = false →
    ∃ t, exec (.traceDone n bins z found u) s = .next t ∧ t.pmget n.val F.PM_TRC_STAT_STATE = 4 ∧ t.out.head? = some (.overlay n.val 0) ∧ t.cxl = s.cxl)

/-- R443, R444, R502: a module is inserted, polled and removed, and its bus sticks and is released. -/
def Obligations.OpticalModules : Prop :=
  (∀ (s : State) (n : Fin 48) (id : Byte),
    ∃ t, exec (.moduleInsert n id) s = .next t ∧ t.pmbit n.val F.PM_MOD_STAT_PRESENT = true ∧
      t.pmget n.val F.PM_MOD_STAT_IDENT = id.toNat ∧
      (s.pmget n.val F.PM_MOD_CFG_EXPECT ≠ 0 → s.pmget n.val F.PM_MOD_CFG_EXPECT ≠ id.toNat →
        t.pmget n.val F.PM_MOD_STAT_CAUSE = 2 ∧ t.raw (pmPg n.val) (pmEv n.val 3) = true ∧ (t.alsOf n.val).hold = true) ∧
      OnlyRegs ([pmPg n.val + 0x230 + 64 * pmK n.val] ++ evtWords (pmPg n.val)) s t) ∧
  (∀ (s : State) (n : Fin 48) (d : ModuleData), s.cageSkipped n.val = false →
    ∃ t, exec (.modulePoll n (some d)) s = .next t ∧ t.pmget n.val F.PM_DDM0_TEMP = d.temp.toNat ∧
      t.pmget n.val F.PM_DDM0_VCC = d.vcc.toNat ∧ t.pmget n.val F.PM_DDM1_BIAS = d.bias.toNat ∧
      t.pmget n.val F.PM_DDM1_TXP = d.txp.toNat ∧ t.pmget n.val F.PM_DDM2_RXP = d.rxp.toNat ∧
      t.pmget n.val F.PM_MOD_STAT_FLAGS = d.flags.toNat ∧ (t.alsOf n.val).noAck = 0 ∧
      t.pmbit n.val F.PM_MOD_STAT_FAULT = (t.pmget n.val F.PM_MOD_STAT_CAUSE != 0) ∧
      t.raw (pmPg n.val) (pmEv n.val 3) = (t.pmget n.val F.PM_MOD_STAT_CAUSE != 0) ∧ OnlyPages [pmPg n.val] s t) ∧
  (∀ (s : State) (n : Fin 48), s.cageSkipped n.val = false →
    ∃ t, exec (.modulePoll n none) s = .next t ∧ (t.alsOf n.val).noAck = (s.alsOf n.val).noAck + 1 ∧
      t.pmget n.val F.PM_DDM1_TXP = s.pmget n.val F.PM_DDM1_TXP ∧ OnlyPages [pmPg n.val] s t) ∧
  (∀ (s : State) (n : Fin 48),
    ∃ t, exec (.moduleRemoval n) s = .next t ∧ t.pmbit n.val F.PM_MOD_STAT_PRESENT = false ∧
      (s.en (pe0 n.val) = true → t.pmget n.val F.PM_MOD_STAT_CAUSE = 1 ∧ t.raw (pmPg n.val) (pmEv n.val 3) = true ∧
        (t.alsOf n.val).hold = true ∧ t.txdis n.val = true) ∧
      OnlyRegs ([pmPg n.val + 0x230 + 64 * pmK n.val] ++ evtWords (pmPg n.val)) s t) ∧
  (∀ (s : State) (b : Fin 12),
    ∃ t, exec (.modbusStuck b) s = .next t ∧ (t.get pgPM F.PM_MODBUS_STAT_STUCK).testBit b.val = true ∧ t.out = .busClear b.val :: s.out ∧ t.raw pgPM 1 = true ∧
      (∀ k, k < 4 → t.cageSkipped (4 * b.val + k) = true)) ∧
  (∀ (s : State) (b : Fin 12),
    ∃ t, exec (.modbusRecovery b true) s = .next t ∧ (t.get pgPM F.PM_MODBUS_STAT_STUCK).testBit b.val = false ∧
      t.raw pgPM 1 = (t.get pgPM F.PM_MODBUS_STAT_STUCK != 0)) ∧
  (∀ (s : State) (b : Fin 12), exec (.modbusRecovery b false) s = .next (
    if (s.get pgPM F.PM_MODBUS_STAT_STUCK).testBit b.val then s.emit (.busClear b.val) else s))

/-- R445 to R448: the laser-shutdown machine mutes, pulses, keeps its account, and obeys its commands. -/
def Obligations.LaserShutdown : Prop :=
  (∀ (s : State) (n : Fin 48) (u : Nat), s.alsRuns n.val = true → s.alsState n.val = 1 →
    (s.alsOf n.val).since + s.pmget n.val F.PM_ALS_CFG_ALS_HOLD * (cyclesPerSec / 100) ≤ u →
    ∃ t, exec (.alsHold n u) s = .next t ∧ t.alsState n.val = 2 ∧ t.pmget n.val F.PM_ALS_STAT_CAUSE = 2 ∧
      (t.alsOf n.val).account = [] ∧ t.pmget n.val F.PM_ALS_ACC_ACC = 0 ∧ t.raw (pmPg n.val) (pmEv n.val 0) = true ∧
      t.txdis n.val = true ∧
      t.count (pmPg n.val) (pmCtr n.val 2) = min (s.count (pmPg n.val) (pmCtr n.val 2) + 1) (2 ^ 32 - 1) ∧ OnlyPages [pmPg n.val] s t) ∧
  (∀ (s : State) (n : Fin 48) (u : Nat), s.alsRuns n.val = true → s.alsState n.val = 2 →
    (s.alsOf n.val).pulseBase + 100 * cyclesPerSec ≤ u →
    ∃ t, exec (.alsPulse n u) s = .next t ∧ t.alsState n.val = 3 ∧ (t.alsOf n.val).since = max s.now u ∧
      (t.alsOf n.val).account = (s.alsOf n.val).account ∧
      t.count (pmPg n.val) (pmCtr n.val 3) = min (s.count (pmPg n.val) (pmCtr n.val 3) + 1) (2 ^ 32 - 1) ∧ OnlyPages [pmPg n.val] s t) ∧
  (∀ (s : State) (n : Fin 48) (u : Nat), s.alsState n.val = 3 → (s.alsOf n.val).since + 2 * cyclesPerSec ≤ u →
    ∃ t, exec (.alsPulseEnd n u) s = .next t ∧ t.alsState n.val = 2 ∧ (t.alsOf n.val).account = (s.alsOf n.val).account ∧
      t.pmget n.val F.PM_ALS_STAT_CAUSE = s.pmget n.val F.PM_ALS_STAT_CAUSE ∧ OnlyPages [pmPg n.val] s t) ∧
  (∀ (s : State) (n : Fin 48) (u : Nat),
    s.alsState n.val < 2 ∧ s.alsRuns (s.alsPort n.val) = false ∨ s.isLegacy n.val = false ∧ s.alsState n.val = 5 →
    ∃ t, exec (.alsAccount n u) s = .next t ∧ t.alsState n.val = s.alsState n.val ∧
      t.pmbit n.val F.PM_ALS_STAT_LASER = (s.at u).laserOn n.val ∧ OnlyRegs [pmPg n.val + 0x224 + 64 * pmK n.val] s t) ∧
  (∀ (s : State) (n : Fin 48) (u : Nat), s.alsRuns n.val = true → s.alsState n.val < 2 →
    ∃ t, exec (.alsAccount n u) s = .next t ∧ t.alsState n.val = (s.lossOf n.val).toNat ∧
      t.pmget n.val F.PM_ALS_STAT_LASER = ((s.at u).laserOn n.val).toNat) ∧
  (∀ (s : State) (n : Fin 48) (u k : Nat), s.alsState n.val = 2 ∨ s.alsState n.val = 3 → s.pxHolds n.val = false →
    s.laserOn n.val = true → k = (s.alsOf n.val).account.foldl (fun x e => x + e.2) 0 + s.pmget n.val F.PM_ALS_CFG_PWR →
    (s.alsOf n.val).account.all (fun e => decide (max s.now u < e.1 + 100 * cyclesPerSec)) = true →
    ∃ t, exec (.alsAccount n u) s = .next t ∧
      (s.pmget n.val F.PM_ALS_CFG2_BUDGET * 100 < k → t.alsState n.val = 4 ∧ t.pends (pmPg n.val) (pmEv n.val 1) = true ∧
        t.txdis n.val = true ∧ (t.alsOf n.val).softDis = true) ∧
      (k ≤ s.pmget n.val F.PM_ALS_CFG2_BUDGET * 100 → t.alsState n.val = s.alsState n.val ∧
        t.pmget n.val F.PM_ALS_ACC_ACC = min 0xFFFF (k / 100))) ∧
  (∀ (s : State) (fn : Fn) (n : Fin 48) (u i : Nat) (k : PKind), Reaches s fn.val (pmPg n.val + 0x220 + 64 * pmK n.val) k i →
    s.isLegacy n.val = false → s.alsState n.val = 2 →
    ∃ t, exec (.restart fn n u) s = .next t ∧ t.alsState n.val = 3 ∧ (t.alsOf n.val).account = (s.alsOf n.val).account ∧
      OnlyPages [pmPg n.val] s t) ∧
  (∀ (s : State) (fn : Fn) (n : Fin 48) (u i : Nat) (k : PKind), Reaches s fn.val (pmPg n.val + 0x220 + 64 * pmK n.val) k i →
    s.alsState n.val ≠ 2 →
    ∃ t, exec (.restart fn n u) s = .next t ∧ t.pmbit n.val F.PM_ALS_STAT_REJ = true ∧ t.alsState n.val = s.alsState n.val ∧
      OnlyRegs [pmPg n.val + 0x224 + 64 * pmK n.val] s t) ∧
  (∀ (s : State) (n : Fin 48) (u i : Nat) (k : PKind), Reaches s 0 (pmPg n.val + 0x220 + 64 * pmK n.val) k i →
    s.isLegacy n.val = false → s.alsState n.val = 4 →
    (s.alsOf n.val).account.foldl (fun x e => x + e.2) 0 * 2 ≤ s.pmget n.val F.PM_ALS_CFG2_BUDGET * 100 →
    ∃ t, exec (.releaseOverblow 0 n u) s = .next t ∧ t.alsState n.val = 2 ∧ (t.alsOf n.val).softDis = false ∧
      (t.alsOf n.val).account = (s.alsOf n.val).account) ∧
  (∀ (s : State) (fn : Fn) (n : Fin 48) (u i : Nat) (k : PKind), Reaches s fn.val (pmPg n.val + 0x220 + 64 * pmK n.val) k i →
    fn.val = 1 ∨ s.alsState n.val ≠ 4 ∨
      s.pmget n.val F.PM_ALS_CFG2_BUDGET * 100 < (s.alsOf n.val).account.foldl (fun x e => x + e.2) 0 * 2 →
    ∃ t, exec (.releaseOverblow fn n u) s = .next t ∧ t.pmbit n.val F.PM_ALS_STAT_REJ = true ∧
      OnlyRegs [pmPg n.val + 0x224 + 64 * pmK n.val] s t) ∧
  (∀ (s : State) (n : Fin 48) (u i : Nat) (k : PKind), Reaches s 0 (pmPg n.val + 0x220 + 64 * pmK n.val) k i →
    s.isLegacy n.val = false → s.get pgSC F.SC_LC_STATE = 0 →
    ∃ t, exec (.forceOn 0 n u) s = .next t ∧ t.alsState n.val = 5 ∧ (s.alsState n.val = 4 → (t.alsOf n.val).softDis = false) ∧
      t.raw (pmPg n.val) (pmEv n.val 0) = false) ∧
  (∀ (s : State) (fn : Fn) (n : Fin 48) (u i : Nat) (k : PKind), Reaches s fn.val (pmPg n.val + 0x220 + 64 * pmK n.val) k i →
    fn.val = 1 ∨ s.get pgSC F.SC_LC_STATE ≠ 0 →
    ∃ t, exec (.forceOn fn n u) s = .next t ∧ t.pmbit n.val F.PM_ALS_STAT_REJ = true ∧ t.alsState n.val = s.alsState n.val ∧
      OnlyRegs [pmPg n.val + 0x224 + 64 * pmK n.val] s t) ∧
  (∀ (s : State) (fn : Fn) (n : Fin 48) (u i : Nat) (k : PKind), Reaches s fn.val (pmPg n.val + 0x220 + 64 * pmK n.val) k i →
    s.isLegacy n.val = false → s.alsState n.val = 5 →
    ∃ t, exec (.forceOff fn n u) s = .next t ∧ (t.alsOf n.val).account = [] ∧
      t.alsState n.val = (if s.pmbit n.val F.PM_ALS_CFG_EN = true ∧ s.lossOf n.val = true then 1 else 0) ∧ OnlyPages [pmPg n.val] s t)

/-- R454, R459 to R465: Rest entry and what it loses and keeps, the wake sources, the serial interface, and the banks a wake could
not restore. That Rest entry is one step is the model's choice (log entry 4); its operand `k` is WAKE_N, low at the entry's end. -/
def Obligations.RestAndWakeSources : Prop :=
  (∀ (s : State) (fn : Fn) (w : Word) (k : Bool) (u : Nat), Reaches (s.at u) fn.val (pgPW + 0x044) .pw 0 → s.inRun = true →
    s.pxEn = false ∨ (s.pxState ≠ 4 ∧ s.pxState ≠ 5) →
    ∃ t, exec (.rest fn w ⟨k, u⟩) s = .next t ∧ t.get pgPW F.PW_STATE_STATE = (if k = true ∧ (s.get pgPW F.PW_WAKE_EN_EN).testBit 1 = true then 3 else 2) ∧
      (k = true → (s.get pgPW F.PW_WAKE_EN_EN).testBit 1 = true → t.get pgPW F.PW_LAST_WAKE_SRC = 2 ∧ t.out.head? = some (.rail 0 true)) ∧
      t.get pgPW F.PW_RET_SEQ_SEQ = (s.get pgPW F.PW_RET_SEQ_SEQ + 1) % 2 ^ 32 ∧
      (∀ b, b < 8 → (sget none t.pw.banks b).map (fun x => x.seq) = some (t.get pgPW F.PW_RET_SEQ_SEQ)) ∧
      t.out.contains (.rail 2 false) = true ∧ t.out.contains (.rail 1 false) = true ∧ t.out.contains (.rail 0 false) = true ∧
      t.tabs = [] ∧ t.dm = {} ∧ t.tm = {} ∧ ({ t.lk with seeds := [] } : Lk) = {} ∧
      (∀ i, i < 6 → sget none t.lk.seeds i ≠ none) ∧ t.keys = [] ∧ t.pes = [] ∧ t.cxl = s.cxl ∧ t.hostMem = s.hostMem ∧
      t.pending = s.pending ∧ t.lc = s.lc ∧ (∀ a, a / 4096 * 4096 ∉ [pgPW, pgPX, pgSC] → t.reg a = resetWord a)) ∧
  (∀ (s : State) (fn : Fn) (w : Word) (k : Bool) (u : Nat), Reaches (s.at u) fn.val (pgPW + 0x044) .pw 0 → s.inRun = false ∨
      (s.pxEn = true ∧ (s.pxState = 4 ∨ s.pxState = 5)) →
    ∃ t, exec (.rest fn w ⟨k, u⟩) s = .next t ∧ t.bit pgPW F.PW_CTRL_REJ = true ∧ t.pw = s.pw ∧ OnlyRegs [pgPW + 0x044] s t) ∧
  (∀ (s : State) (u : Nat), s.resting = true → (s.get pgPW F.PW_WAKE_EN_EN).testBit 2 = true →
    ∃ t, exec (.smsWake u) s = .next t ∧ t.get pgPW F.PW_STATE_STATE = 3 ∧ t.get pgPW F.PW_LAST_WAKE_SRC = 3 ∧
      t.get pgPW F.PW_LAST_WAKE_COUNT = (s.get pgPW F.PW_LAST_WAKE_COUNT + 1) % 2 ^ 16 ∧
      t.get pgPW F.PW_LAST_WAKE_T_MS = min (((s.at u).now - s.pw.since) / cyclesMs) (2 ^ 32 - 1) ∧ t.out.contains (.rail 0 true) = true ∧
      t.get pgPW F.PW_WAKE_STATUS_ATTEMPT = 1 ∧ OnlyPages [pgPW, pgPX] s t) ∧
  (∀ (s : State) (u : Nat), s.resting = false ∨ (s.get pgPW F.PW_WAKE_EN_EN).testBit 2 = false →
    exec (.smsWake u) s = .next (s.at u)) ∧
  (∀ (s : State) (u : Nat), s.resting = true → (s.get pgPW F.PW_WAKE_EN_EN).testBit 1 = true →
    ∃ t, exec (.wakeN u) s = .next t ∧ t.get pgPW F.PW_STATE_STATE = 3 ∧ t.get pgPW F.PW_LAST_WAKE_SRC = 2 ∧
      t.get pgPW F.PW_LAST_WAKE_COUNT = (s.get pgPW F.PW_LAST_WAKE_COUNT + 1) % 2 ^ 16 ∧ OnlyPages [pgPW, pgPX] s t) ∧
  (∀ (s : State) (u : Nat), s.resting = false ∨ (s.get pgPW F.PW_WAKE_EN_EN).testBit 1 = false → exec (.wakeN u) s = .next (s.at u)) ∧
  (∀ (s : State) (u : Nat), s.resting = true → (s.get pgPW F.PW_WAKE_EN_EN).testBit 3 = true → s.bit pgPW F.PW_ALARM_EN = true →
    s.pw.since + s.get pgPW F.PW_ALARM_TIME * 100 * cyclesMs ≤ (s.at u).now →
    ∃ t, exec (.wakeAlarm u) s = .next t ∧ t.get pgPW F.PW_STATE_STATE = 3 ∧ t.get pgPW F.PW_LAST_WAKE_SRC = 4 ∧
      t.get pgPW F.PW_LAST_WAKE_COUNT = (s.get pgPW F.PW_LAST_WAKE_COUNT + 1) % 2 ^ 16 ∧ OnlyPages [pgPW, pgPX] s t) ∧
  (∀ (s : State) (u : Nat), s.resting = false ∨ s.bit pgPW F.PW_ALARM_EN = false ∨
    (s.at u).now < s.pw.since + s.get pgPW F.PW_ALARM_TIME * 100 * cyclesMs → exec (.wakeAlarm u) s = .next (s.at u)) ∧
  (∀ (s : State) (o : Byte) (n : Nat), ∃ t, exec (.smsRead o n) s = .next t ∧ t.out = .sms (smsBytes o.toNat n s) :: s.out ∧ OnlyRegs [] s t) ∧
  (∀ (s : State) (a : Nat), 0x080 ≤ a → smsBytes a 1 s = [0]) ∧
  (∀ (s : State) (a : Nat), 0x040 ≤ a → a < 0x080 → smsBytes a 1 s = [BitVec.ofNat 8 ((s.reg (pgPW + a / 4 * 4)).toNat / 2 ^ (8 * (a % 4)))]) ∧
  (∀ (s : State) (fn : Fn) (w : Word), Reaches s fn.val (pgPW + 0x054) .pw 0 → s.get pgPW F.PW_WAKE_STATUS_RET_FAIL = 1 → w.toNat.testBit 8 = true →
    ∃ t, exec (.retFailClear fn w) s = .next t ∧ t.get pgPW F.PW_WAKE_STATUS_RET_FAIL = 0 ∧ t.bit pgDV F.ST_NOT_RESTORED = false ∧
      t.bit (pgHX 0) F.ST_NOT_RESTORED = false ∧ OnlyPages [pgPW, pgDV, pgHX 0] s t) ∧
  (∀ (s : State) (fn : Fn) (w : Word), Reaches s fn.val (pgPW + 0x054) .pw 0 → s.get pgPW F.PW_WAKE_STATUS_RET_FAIL = 0 →
    ∃ t, exec (.retFailClear fn w) s = .next t ∧ OnlyRegs [] s t)

/-- R467 to R470: the steps of a wake, an attempt that unwinds, the series of attempts, the end of a wake, and a supply or junction
fault. Steps 4 to 6 are decided by the operands of PWR_GOOD_RISE, which is the model's choice (log entry 72). -/
def Obligations.WakeSequence : Prop :=
  (∀ (s : State) (r : Fin 3) (b : BitVec 3) (ue : Byte) (ce : Nat) (x : Fin 3), s.get pgPW F.PW_STATE_STATE = 3 → s.pw.step = r.val + 1 →
    s.pw.unwinding = false → r.val < 2 → s.get pgPW F.PW_WAKE_STATUS_ATTEMPT ≠ 0 →
    ∃ t, exec (.pwrGoodRise r b ue ce x) s = .next t ∧ t.pw.step = r.val + 2 ∧ t.out = .rail (r.val + 1) true :: s.out ∧ OnlyRegs [] s t) ∧
  (∀ (s : State) (ue : Byte), s.get pgPW F.PW_STATE_STATE = 3 → s.pw.step = 3 → s.pw.unwinding = false → s.tabs = [] → s.pw.banks = [] →
    s.get pgPW F.PW_LAST_WAKE_SRC ≠ 0 → s.en pMX = false → (∀ i, i < 140 → s.en (pgLN i) = false) → s.px.late = [] → s.refAbsent = 0 →
    s.get pgPW F.PW_WAKE_STATUS_REF_FB = 0 →
    ∃ t, exec (.pwrGoodRise 2 7 ue 0 0) s = .next t ∧ t.pw.step = 7 ∧ t.get pgPW F.PW_WAKE_STATUS_RET_FAIL = 0xFF ∧
      t.get pgPW F.PW_WAKE_STATUS_RET_DONE = 0 ∧ t.pends pgPW 1 = true ∧ t.get pgPW F.PW_WAKE_STATUS_REF_FB = 0 ∧
      t.bit pgTE F.TE_REF_STAT_PON_OK = true ∧ t.bit pgTE F.TE_REF_STAT_ETH_OK = true ∧ t.bit pgTE F.TE_REF_STAT_PCIE_OK = true ∧
      t.bit pgDV F.ST_NOT_RESTORED = true ∧ t.tbRun = true ∧ (∀ n, n < 8 → (t.tb n).t = 0)) ∧
  (∀ (s : State) (r : Fin 3) (b : BitVec 3) (ue : Byte) (ce : Nat) (x : Fin 3), s.get pgPW F.PW_STATE_STATE ≠ 3 ∨ s.pw.step ≠ r.val + 1 ∨
    s.pw.unwinding = true → exec (.pwrGoodRise r b ue ce x) s = .next s) ∧
  (∀ (s : State) (k : Fin 9) (u : Nat), s.get pgPW F.PW_STATE_STATE = 3 → s.pw.unwinding = false → s.pw.step = k.val → 1 ≤ k.val →
    ∃ t, exec (.wakeStepTimeout k u) s = .next t ∧ t.get pgPW F.PW_WAKE_STATUS_STEP = k.val ∧ t.faultAsserted = true ∧
      t.out.contains (.rail 2 false) = true ∧ t.out.contains (.rail 1 false) = true ∧ t.out.contains (.rail 0 false) = true ∧
      t.pw.since = (s.at u).now ∧ t.tabs = [] ∧ t.pending = s.pending ∧ (∀ a, a / 4096 * 4096 ∉ [pgPW, pgPX, pgSC] → t.reg a = resetWord a)) ∧
  (∀ (s : State) (k : Fin 9) (u : Nat), s.get pgPW F.PW_STATE_STATE ≠ 3 ∨ s.pw.unwinding = true ∨ s.pw.step ≠ k.val ∨ k.val = 0 →
    exec (.wakeStepTimeout k u) s = .next (s.at u)) ∧
  (∀ (s : State) (u : Nat), s.pw.unwinding = true → s.pw.since + 100 * cyclesMs ≤ (s.at u).now →
    s.pw.attempt ≤ s.get pgPW F.PW_WAKE_CFG_WAKE_RETRY → s.pw.attempt < 15 →
    ∃ t, exec (.wakeRetry u) s = .next t ∧ t.pw.unwinding = false ∧ t.pw.step = 1 ∧ t.get pgPW F.PW_WAKE_STATUS_ATTEMPT = s.pw.attempt + 1 ∧
      t.out = .rail 0 true :: s.out ∧ OnlyRegs [pgPW + 0x054] s t) ∧
  (∀ (s : State) (u : Nat), s.pw.unwinding = true → s.pw.since + 100 * cyclesMs ≤ (s.at u).now →
    s.get pgPW F.PW_WAKE_CFG_WAKE_RETRY < s.pw.attempt →
    ∃ t, exec (.wakeRetry u) s = .next t ∧ t.pw.unwinding = false ∧ t.get pgPW F.PW_STATE_STATE = 2 ∧ t.bit pgPW F.PW_WAKE_STATUS_FAILED = true ∧
      t.pends pgPW 2 = true ∧ (sget 0 t.sticky pgPW).toNat.testBit 2 = true ∧ t.faultAsserted = true ∧ (s.pxEn = true → t.pxState = 6) ∧
      OnlyPages [pgPW, pgPX] s t) ∧
  (∀ (s : State) (u : Nat), s.pw.unwinding = false ∨ (s.at u).now < s.pw.since + 100 * cyclesMs → exec (.wakeRetry u) s = .next (s.at u)) ∧
  (∀ (s : State) (w d : BitVec 4) (u : Nat), s.get pgPW F.PW_STATE_STATE = 3 → s.pw.step = 7 → s.bit pDM F.DM_TRAIN_STAT_VALID0 = true →
    s.en pMX = false → s.px.takeover = false →
    ∃ t, exec (.pwWakeDone true (some (false, w, d)) none u) s = .next t ∧ t.get pgPW F.PW_STATE_STATE = 0 ∧ t.pends pgPW 0 = true ∧
      t.pw.step = 0 ∧ t.bit pgPW F.PW_WAKE_STATUS_FAILED = false ∧ t.bit pHX F.HX_LINK_UP = true ∧ t.get pHX F.HX_LINK_WIDTH = w.toNat ∧
      t.get pgDV F.DV_RST_STAT_BUSY = 0 ∧ OnlyPages [pgPW, pgPX, pHX, pgDV] s t) ∧
  (∀ (s : State) (v : Bool) (u : Nat), s.get pgPW F.PW_STATE_STATE = 3 → s.pw.step = 7 → s.px.takeover = false → s.en pMX = true →
    ∃ t, exec (.pwWakeDone v none none u) s = .next t ∧ t.get pgPW F.PW_STATE_STATE = 0 ∧ t.pends pgPW 0 = true ∧
      t.bit pgPW F.PW_WAKE_STATUS_HX_LATE = true ∧ t.bit pgPW F.PW_WAKE_STATUS_MX_LATE = true ∧ t.bit pDM F.DM_TRAIN_STAT_VALID0 = true) ∧
  (∀ (s : State) (v : Bool) (u : Nat), s.get pgPW F.PW_STATE_STATE ≠ 3 ∨ s.pw.step ≠ 7 →
    exec (.pwWakeDone v none none u) s = .next (s.at u)) ∧
  (∀ (s : State) (r : Fin 3) (u : Nat), s.inRun = true → ∃ t, exec (.pwrGoodFall r u) s = .next t ∧ t.pw.trip = true ∧ OnlyRegs [] s t) ∧
  (∀ (s : State) (r : Fin 3) (u : Nat), s.get pgPW F.PW_STATE_STATE = 3 → s.pw.unwinding = false → r.val < s.pw.step →
    ∃ t, exec (.pwrGoodFall r u) s = .next t ∧ t.get pgPW F.PW_WAKE_STATUS_STEP = r.val + 1 ∧ t.faultAsserted = true ∧ t.tabs = []) ∧
  (∀ (s : State) (r : Fin 3) (u : Nat), s.resting = true → exec (.pwrGoodFall r u) s = .next (s.at u)) ∧
  (∀ (s : State), s.resting = false → ∃ t, exec .thermtrip s = .next t ∧ t.pw.trip = true ∧ OnlyRegs [] s t) ∧
  (∀ (s : State), s.resting = true → exec .thermtrip s = .next s)

/-- R480: LOAD and CLEAR of the pair key, what refuses them, and the bellows without a valid key. The encryption behind KCV is a free
function (log entry 11). -/
def Obligations.PairKey : Prop :=
  (∀ (s : State) (fn : Fn) (w : Word), Reaches s fn.val (pgSC + 0x150) .sc 0 → s.bit pgPX F.PX_CFG_EN = false →
    ∃ t, exec (.load fn w) s = .next t ∧ t.bit pgSC F.SC_PAIR_STAT_VALID = true ∧ t.sc.pair = s.scWords 0x130 8 + 1 ∧
      t.get pgSC F.SC_PAIR_KCV_KCV = (Config.aesKcv (BitVec.ofNat 256 (s.scWords 0x130 8))).toNat ∧ t.scWords 0x130 8 = 0 ∧
      OnlyRegs [pgSC + 0x154, pgSC + 0x158] s t) ∧
  (∀ (s : State) (fn : Fn) (w : Word), Reaches s fn.val (pgSC + 0x150) .sc 0 → s.bit pgPX F.PX_CFG_EN = true →
    ∃ t, exec (.load fn w) s = .next t ∧ t.bit pgSC F.ST_CFG_REJ = true ∧ t.sc = s.sc ∧ OnlyRegs [pgSC + 0x00C] s t) ∧
  (∀ (s : State) (fn : Fn) (w : Word), Reaches s fn.val (pgSC + 0x150) .sc 0 → s.bit pgPX F.PX_CFG_EN = false →
    ∃ t, exec (.clearPairKey fn w) s = .next t ∧ t.bit pgSC F.SC_PAIR_STAT_VALID = false ∧ t.sc.pair = 0 ∧
      OnlyRegs [pgSC + 0x154] s t) ∧
  (∀ (s : State) (fn : Fn) (w : Word), Reaches s fn.val (pgSC + 0x150) .sc 0 → s.bit pgPX F.PX_CFG_EN = true →
    ∃ t, exec (.clearPairKey fn w) s = .next t ∧ t.bit pgSC F.ST_CFG_REJ = true ∧ t.sc = s.sc ∧ OnlyRegs [pgSC + 0x00C] s t) ∧
  (∀ (s : State), s.bit pgSC F.SC_PAIR_STAT_VALID = false →
    ∃ t, exec .ckptImage s = .next t ∧ t.px.image = s.px.image ∧ t.px.slots = s.px.slots ∧ OnlyRegs [] s t) ∧
  (∀ (s : State), s.bit pgSC F.SC_PAIR_STAT_VALID = false →
    ∃ t, exec .ckptCommit s = .next t ∧ t.px.image = s.px.image ∧ t.px.slots = s.px.slots ∧ OnlyRegs [] s t) ∧
  (∀ (s : State) (o : Bool), s.bit pgSC F.SC_PAIR_STAT_VALID = false →
    ∃ t, exec (.ckptDelta o) s = .next t ∧ t.px.image = s.px.image ∧ t.px.slots = s.px.slots ∧ OnlyRegs [] s t)

/-- R478, R481, R482, R483: the random source, the lifecycle and the erasure of every key. The random bits are free values (log entry
2): the statement holds whatever they are. -/
def Obligations.KeysAndLifecycle : Prop :=
  (∀ (s : State) (fn : Fn), Reaches s fn.val (pgSC + 0x15C) .sc 0 → s.sc.rngBad = true → s.reg (pgSC + 0x15C) = 0 →
    ∃ t, exec (.scRng fn) s = .next t ∧ t.out = .readData fn.val (pgSC + 0x15C) 0 :: s.out ∧ t.free = s.free ∧ OnlyRegs [] s t) ∧
  (∀ (s : State) (fn : Fn), Reaches s fn.val (pgSC + 0x15C) .sc 0 → s.sc.rngBad = false →
    ∃ t, exec (.scRng fn) s = .next t ∧ t.out = .readData fn.val (pgSC + 0x15C) (BitVec.ofNat 32 s.draw.1) :: s.out ∧ t.free = s.free + 1 ∧
      t.reg (pgSC + 0x15C) = 0 ∧ OnlyRegs [pgSC + 0x15C] s t) ∧
  (∀ (s : State) (fn : Fn) (w : Word), Reaches s fn.val (pgSC + 0x0D8) .sc 0 → s.lc = 0 → w.toNat % 65536 = 0x4C43 →
    ∃ t, exec (.provision fn w) s = .next t ∧ t.lc = 1 ∧ t.bit pgSC F.SC_DBG_STAT_OPEN = false ∧ t.raw pgSC 3 = false ∧ t.sc = s.sc ∧
      OnlyRegs (evtWords pgSC ++ [pgSC + 0x0D4, pgSC + 0x0E8]) s t) ∧
  (∀ (s : State) (fn : Fn) (w : Word), Reaches s fn.val (pgSC + 0x0D8) .sc 0 → s.lc ≠ 0 ∨ w.toNat % 65536 ≠ 0x4C43 →
    ∃ t, exec (.provision fn w) s = .next t ∧ t.lc = s.lc ∧ t.bit pgSC F.SC_DBG_STAT_REJ = true ∧ t.sc = s.sc ∧
      OnlyRegs [pgSC + 0x0E8] s t) ∧
  (∀ (s : State) (fn : Fn) (w : Word), Reaches s fn.val (pgSC + 0x0D8) .sc 0 → s.lc = 1 → w.toNat % 65536 = 0x4C43 →
    ∃ t, exec (.lock fn w) s = .next t ∧ t.lc = 2 ∧ t.bit pgSC F.SC_DBG_STAT_OPEN = false ∧ t.raw pgSC 3 = false ∧ t.sc = s.sc ∧
      OnlyRegs (evtWords pgSC ++ [pgSC + 0x0D4, pgSC + 0x0E8]) s t) ∧
  (∀ (s : State) (fn : Fn) (w : Word), Reaches s fn.val (pgSC + 0x0D8) .sc 0 → s.lc ≠ 1 ∨ w.toNat % 65536 ≠ 0x4C43 →
    ∃ t, exec (.lock fn w) s = .next t ∧ t.lc = s.lc ∧ t.bit pgSC F.SC_DBG_STAT_REJ = true ∧ t.sc = s.sc ∧ OnlyRegs [pgSC + 0x0E8] s t) ∧
  (∀ (s : State) (fn : Fn) (w : Word), Reaches s fn.val (pgSC + 0x0D8) .sc 0 → w.toNat % 65536 = 0x4C43 →
    s.lc = 1 ∨ (s.lc = 2 ∧ s.bit pgSC F.SC_DBG_STAT_OPEN = true ∧ s.get pgSC F.SC_DBG_STAT_METHOD = 2) →
    ∃ t, exec (.returnLc fn w) s = .next t ∧ t.lc = 3 ∧ t.bit pgSC F.SC_DBG_STAT_OPEN = false ∧ t.keys = [] ∧ t.sc.pair = 0 ∧ t.sc.ide = 0 ∧
      t.bit pgSC F.SC_PAIR_STAT_VALID = false ∧ t.bit pMX1 F.MX_IDE_CTRL_EN = false ∧ t.bit pMX1 F.MX_IDE_STAT_SECURE = false ∧ t.mxUp = false ∧
      t.pends pgSC 4 = true ∧ t.pends pMX 1 = s.pends pMX 1 ∧
      (∀ a, a ∉ evtWords pgSC ++ [pgSC + 0x0D4, pgSC + 0x0E8, pgSC + 0x154, pMX1 + 0x0C0, pMX1 + 0x0C4] → t.reg a = s.reg a)) ∧
  (∀ (s : State) (fn : Fn) (w : Word), Reaches s fn.val (pgSC + 0x0D8) .sc 0 → w.toNat % 65536 ≠ 0x4C43 ∨ s.lc = 0 ∨ s.lc = 3 ∨
    (s.lc = 2 ∧ s.bit pgSC F.SC_DBG_STAT_OPEN = false) →
    ∃ t, exec (.returnLc fn w) s = .next t ∧ t.lc = s.lc ∧ t.bit pgSC F.SC_DBG_STAT_REJ = true ∧ t.sc = s.sc ∧ t.keys = s.keys ∧
      OnlyRegs [pgSC + 0x0E8] s t) ∧
  (∀ (s : State), s.lk.waiting = none → ∃ t, exec (.rngHealth false) s = .next t ∧ t.sc.rngBad = true ∧ OnlyRegs [] s t) ∧
  (∀ (s : State), s.lk.waiting = none → ∃ t, exec (.rngHealth true) s = .next t ∧ t.sc.rngBad = false ∧ OnlyRegs [] s t) ∧
  (∀ (s : State) (i : Nat) (auto : Bool), s.lk.waiting = some (i, auto) → i < 3 →
    auto = false ∨ s.bit pLK (F.LK_HP_STAT_PRESS.ix i) = true →
    ∃ t, exec (.rngHealth true) s = .next t ∧ t.sc.rngBad = false ∧ t.lk.waiting = none ∧ t.bit pLK F.LK_RSD_JRNL_ACTIVE = true ∧
      t.get pLK F.LK_RSD_JRNL_TID = i ∧ t.get pLK F.LK_RSD_JRNL_GEN = 1 - sget 0 s.lk.gens i ∧ OnlyPages [pLK] s t) ∧
  (∀ (s : State) (i : Nat), s.lk.waiting = some (i, true) → s.bit pLK (F.LK_HP_STAT_PRESS.ix i) = false →
    ∃ t, exec (.rngHealth true) s = .next t ∧ t.sc.rngBad = false ∧ t.lk.waiting = none ∧ OnlyRegs [] s t) ∧
  (∀ (s : State), s.lk.waiting ≠ none →
    ∃ t, exec (.rngHealth false) s = .next t ∧ t.sc.rngBad = true ∧ t.lk.waiting = s.lk.waiting ∧ OnlyRegs [] s t)

/-- R484 to R486: opening debug by password and by challenge, the failures counted, the life of a nonce, and CLOSE. -/
def Obligations.DebugAccess : Prop :=
  (∀ (s : State) (fn : Fn) (w : Word), Reaches s fn.val (pgSC + 0x0E4) .sc 0 → s.lc = 0 → s.bit pgSC F.SC_DBG_STAT_PW_SET = false →
    ∃ t, exec (.setPw fn w) s = .next t ∧ t.sc.digest = some (Config.pwDigest (BitVec.ofNat 128 (s.scWords 0x0F0 4))) ∧
      t.bit pgSC F.SC_DBG_STAT_PW_SET = true ∧ t.scWords 0x0F0 4 = 0 ∧ OnlyRegs [pgSC + 0x0E8] s t) ∧
  (∀ (s : State) (fn : Fn) (w : Word), Reaches s fn.val (pgSC + 0x0E4) .sc 0 → s.lc ≠ 0 ∨ s.bit pgSC F.SC_DBG_STAT_PW_SET = true →
    ∃ t, exec (.setPw fn w) s = .next t ∧ t.sc = s.sc ∧ t.bit pgSC F.SC_DBG_STAT_REJ = true ∧ t.scWords 0x0F0 4 = 0 ∧
      OnlyRegs [pgSC + 0x0E8] s t) ∧
  (∀ (s : State) (fn : Fn) (w : Word) (u : Nat), Reaches s fn.val (pgSC + 0x0E4) .sc 0 → s.lc = 1 → s.bit pgSC F.SC_DBG_STAT_PW_SET = true →
    s.bit pgSC F.SC_DBG_STAT_PW_LOCKED = false → (s.at u).secSince s.sc.failAt = true →
    s.sc.digest = some (Config.pwDigest (BitVec.ofNat 128 (s.scWords 0x0F0 4))) →
    ∃ t, exec (.unlockPw fn w u) s = .next t ∧ t.bit pgSC F.SC_DBG_STAT_OPEN = true ∧ t.get pgSC F.SC_DBG_STAT_METHOD = 1 ∧
      t.raw pgSC 3 = true ∧ t.get pgSC F.SC_DBG_STAT_PW_FAILS = s.get pgSC F.SC_DBG_STAT_PW_FAILS ∧ t.scWords 0x0F0 4 = 0 ∧
      OnlyRegs (evtWords pgSC ++ [pgSC + 0x0E8]) s t) ∧
  (∀ (s : State) (fn : Fn) (w : Word) (u : Nat), Reaches s fn.val (pgSC + 0x0E4) .sc 0 → s.lc = 1 → s.bit pgSC F.SC_DBG_STAT_PW_SET = true →
    s.bit pgSC F.SC_DBG_STAT_PW_LOCKED = false → (s.at u).secSince s.sc.failAt = true → s.sc.digest = none → s.get pgSC F.SC_DBG_STAT_PW_FAILS < 16 →
    ∃ t, exec (.unlockPw fn w u) s = .next t ∧ t.get pgSC F.SC_DBG_STAT_PW_FAILS = s.get pgSC F.SC_DBG_STAT_PW_FAILS + 1 ∧
      t.pends pgSC 1 = true ∧ t.bit pgSC F.SC_DBG_STAT_OPEN = s.bit pgSC F.SC_DBG_STAT_OPEN ∧
      t.bit pgSC F.SC_DBG_STAT_PW_LOCKED = decide (s.get pgSC F.SC_DBG_STAT_PW_FAILS = 15) ∧
      (s.get pgSC F.SC_DBG_STAT_PW_FAILS = 15 → t.pends pgSC 2 = true) ∧ OnlyRegs (evtWords pgSC ++ [pgSC + 0x0E8]) s t) ∧
  (∀ (s : State) (fn : Fn) (w : Word) (u : Nat), Reaches s fn.val (pgSC + 0x0E4) .sc 0 →
    s.lc ≠ 1 ∨ s.bit pgSC F.SC_DBG_STAT_PW_SET = false ∨ s.bit pgSC F.SC_DBG_STAT_PW_LOCKED = true ∨ (s.at u).secSince s.sc.failAt = false →
    ∃ t, exec (.unlockPw fn w u) s = .next t ∧ t.bit pgSC F.SC_DBG_STAT_REJ = true ∧ t.sc = s.sc ∧
      t.get pgSC F.SC_DBG_STAT_PW_FAILS = s.get pgSC F.SC_DBG_STAT_PW_FAILS ∧ t.bit pgSC F.SC_DBG_STAT_OPEN = s.bit pgSC F.SC_DBG_STAT_OPEN ∧
      OnlyRegs [pgSC + 0x0E8] s t) ∧
  (∀ (s : State) (fn : Fn) (w : Word) (u : Nat), Reaches s fn.val (pgSC + 0x0E4) .sc 0 → s.sc.rngBad = false → (s.at u).secSince s.sc.nonceAt = true →
    ∃ t, exec (.challenge fn w u) s = .next t ∧ t.bit pgSC F.SC_DBG_STAT_NONCE_VALID = true ∧ t.sc.nonceAt = some (s.at u).now ∧
      t.free = s.free + 4 ∧ OnlyRegs [pgSC + 0x0E8, pgSC + 0x100, pgSC + 0x104, pgSC + 0x108, pgSC + 0x10C] s t) ∧
  (∀ (s : State) (fn : Fn) (w : Word) (u : Nat), Reaches s fn.val (pgSC + 0x0E4) .sc 0 → s.sc.rngBad = true ∨ (s.at u).secSince s.sc.nonceAt = false →
    ∃ t, exec (.challenge fn w u) s = .next t ∧ t.bit pgSC F.SC_DBG_STAT_REJ = true ∧ t.sc = s.sc ∧ OnlyRegs [pgSC + 0x0E8] s t) ∧
  (∀ (s : State) (fn : Fn) (w : Word) (u : Nat), Reaches s fn.val (pgSC + 0x0E4) .sc 0 → (s.at u).nonceLive = true → s.lc = 1 ∨ s.lc = 3 →
    Config.debugMac Config.deviceKey (BitVec.ofNat 128 s.nonce) (s.reg (pgSC + 0x0DC)) (s.reg (pgSC + 0x0E0)) = BitVec.ofNat 256 (s.scWords 0x110 8) →
    ∃ t, exec (.unlockCr fn w u) s = .next t ∧ t.bit pgSC F.SC_DBG_STAT_OPEN = true ∧ t.get pgSC F.SC_DBG_STAT_METHOD = 2 ∧ t.raw pgSC 3 = true ∧
      t.bit pgSC F.SC_DBG_STAT_NONCE_VALID = false ∧ t.keys = s.keys ∧ (sget 0 t.sticky pgSC).toNat.testBit 2 = false ∧
      t.get pgSC F.SC_DBG_STAT_PW_FAILS = s.get pgSC F.SC_DBG_STAT_PW_FAILS ∧ OnlyRegs (evtWords pgSC ++ [pgSC + 0x0E8]) s t) ∧
  (∀ (s : State) (fn : Fn) (w : Word) (u : Nat), Reaches s fn.val (pgSC + 0x0E4) .sc 0 → (s.at u).nonceLive = true → s.lc = 2 →
    Config.debugMac Config.deviceKey (BitVec.ofNat 128 s.nonce) (s.reg (pgSC + 0x0DC)) (s.reg (pgSC + 0x0E0)) = BitVec.ofNat 256 (s.scWords 0x110 8) →
    ∃ t, exec (.unlockCr fn w u) s = .next t ∧ t.bit pgSC F.SC_DBG_STAT_OPEN = true ∧ t.get pgSC F.SC_DBG_STAT_METHOD = 2 ∧ t.keys = [] ∧
      t.sc.pair = 0 ∧ t.sc.ide = 0 ∧ t.pends pgSC 4 = true ∧ t.mxUp = false) ∧
  (∀ (s : State) (fn : Fn) (w : Word) (u : Nat), Reaches s fn.val (pgSC + 0x0E4) .sc 0 → (s.at u).nonceLive = true →
    Config.debugMac Config.deviceKey (BitVec.ofNat 128 s.nonce) (s.reg (pgSC + 0x0DC)) (s.reg (pgSC + 0x0E0)) ≠ BitVec.ofNat 256 (s.scWords 0x110 8) →
    ∃ t, exec (.unlockCr fn w u) s = .next t ∧ t.bit pgSC F.SC_DBG_STAT_OPEN = s.bit pgSC F.SC_DBG_STAT_OPEN ∧ t.pends pgSC 1 = true ∧
      t.get pgSC F.SC_DBG_STAT_CR_FAILS = min (s.get pgSC F.SC_DBG_STAT_CR_FAILS + 1) 0xFFFF ∧ t.bit pgSC F.SC_DBG_STAT_NONCE_VALID = false ∧
      OnlyRegs (evtWords pgSC ++ [pgSC + 0x0E8]) s t) ∧
  (∀ (s : State) (fn : Fn) (w : Word) (u : Nat), Reaches s fn.val (pgSC + 0x0E4) .sc 0 → (s.at u).nonceLive = false →
    ∃ t, exec (.unlockCr fn w u) s = .next t ∧ t.bit pgSC F.SC_DBG_STAT_REJ = true ∧ t.bit pgSC F.SC_DBG_STAT_OPEN = s.bit pgSC F.SC_DBG_STAT_OPEN ∧
      t.get pgSC F.SC_DBG_STAT_CR_FAILS = s.get pgSC F.SC_DBG_STAT_CR_FAILS ∧ OnlyRegs [pgSC + 0x0E8] s t) ∧
  (∀ (s : State) (u : Nat), (s.at u).nonceLive = true → exec (.nonceExpiry u) s = .next (s.at u)) ∧
  (∀ (s : State) (u : Nat), (s.at u).nonceLive = false →
    ∃ t, exec (.nonceExpiry u) s = .next t ∧ t.bit pgSC F.SC_DBG_STAT_NONCE_VALID = false ∧ OnlyRegs [pgSC + 0x0E8] s t) ∧
  (∀ (s : State) (fn : Fn) (w : Word), Reaches s fn.val (pgSC + 0x0E4) .sc 0 → s.lc ≠ 0 →
    ∃ t, exec (.close fn w) s = .next t ∧ t.bit pgSC F.SC_DBG_STAT_OPEN = false ∧ t.get pgSC F.SC_DBG_STAT_METHOD = 0 ∧ t.raw pgSC 3 = false ∧
      OnlyRegs (evtWords pgSC ++ [pgSC + 0x0E8]) s t) ∧
  (∀ (s : State) (fn : Fn) (w : Word), Reaches s fn.val (pgSC + 0x0E4) .sc 0 → s.lc = 0 →
    ∃ t, exec (.close fn w) s = .next t ∧ t.bit pgSC F.SC_DBG_STAT_OPEN = s.bit pgSC F.SC_DBG_STAT_OPEN ∧ OnlyRegs [] s t)

/-- R489 to R493, R495: what each reset level refuses, resets and keeps. That a device reset shows as a wake from step 4 on is the
model's choice (log entry 80). -/
def Obligations.Resets : Prop :=
  (∀ (s : State) (r : Bool) (u : Nat), ∃ t, exec (.porst r u) s = .next t ∧ t.get pgPW F.PW_STATE_STATE = 3 ∧ t.get pgPW F.PW_RET_SEQ_SEQ = 0 ∧
      t.pw.banks = [] ∧ t.tabs = [] ∧ t.keys = [] ∧ t.sc.pair = 0 ∧ t.dm = {} ∧ t.tm = {} ∧ ({ t.lk with seeds := [] } : Lk) = {} ∧
      (∀ i, i < 6 → sget none t.lk.seeds i ≠ none) ∧ t.pes = [] ∧ t.lanes = [] ∧
      t.bit pgPX F.PX_CFG_EN = false ∧ t.pxState = 0 ∧ t.bit pgPX F.PX_CFG_ROLE = r ∧ t.lc = s.lc ∧
      t.bit pgSC F.SC_DBG_STAT_OPEN = decide (s.lc = 0) ∧ t.sc.digest = s.sc.digest ∧ t.cxl = s.cxl ∧ t.hostMem = s.hostMem ∧
      t.pending = s.pending ∧ t.out = .rail 0 true :: s.out ∧ (∀ a, a / 4096 * 4096 ∉ [pgPX, pgSC] → t.reg a = resetWord a)) ∧
  (∀ (s : State) (ue : Byte) (u : Nat), s.inRun = true → s.pw.banks = [] →
    ∃ t, exec (.sysrst 7 ue 0 0 u) s = .next t ∧ t.get pgDV F.DV_RST_STAT_LAST = 1 ∧ t.get pgDV F.DV_RST_STAT_BUSY = 0x7FF ∧
      t.bit pgDV F.DV_RST_STAT_REJ = s.bit pgDV F.DV_RST_STAT_REJ ∧ t.get pgPW F.PW_LAST_WAKE_SRC = s.get pgPW F.PW_LAST_WAKE_SRC ∧
      t.get pgPW F.PW_LAST_WAKE_COUNT = s.get pgPW F.PW_LAST_WAKE_COUNT ∧ t.get pgPW F.PW_RET_SEQ_SEQ = s.get pgPW F.PW_RET_SEQ_SEQ ∧
      t.pw.step = 7 ∧ t.get pgPW F.PW_WAKE_STATUS_RET_FAIL = 0xFF ∧ t.tabs = [] ∧ t.keys = [] ∧ t.sc.pair = 0 ∧ t.lc = s.lc ∧
      t.cxl = s.cxl ∧ t.hostMem = s.hostMem ∧ t.pending = s.pending ∧ t.tbRun = true ∧
      (∀ k, k < 48 → t.en (pe0 k) = false)) ∧
  (∀ (s : State) (b : BitVec 3) (ue : Byte) (ce : Nat) (x : Fin 3) (u : Nat), s.inRun = false → exec (.sysrst b ue ce x u) s = .next (s.at u)) ∧
  (∀ (s : State) (fn : Fn) (w : Word) (ue : Byte) (u : Nat), Reaches s fn.val (pgDV + 0x280) .dv 0 → s.inRun = true → s.pw.banks = [] →
    ∃ t, exec (.drst fn w 7 ue 0 0 u) s = .next t ∧ t.get pgDV F.DV_RST_STAT_LAST = 2 ∧ t.get pgDV F.DV_RST_STAT_BUSY = 0x7FF ∧ t.pw.step = 7 ∧
      t.get pgPW F.PW_RET_SEQ_SEQ = s.get pgPW F.PW_RET_SEQ_SEQ ∧ t.tabs = [] ∧ t.keys = [] ∧ t.lc = s.lc ∧ t.cxl = s.cxl ∧ t.pending = s.pending) ∧
  (∀ (s : State) (fn : Fn) (w : Word) (b : BitVec 3) (ue : Byte) (ce : Nat) (x : Fin 3) (u : Nat), Reaches s fn.val (pgDV + 0x280) .dv 0 → s.inRun = false →
    ∃ t, exec (.drst fn w b ue ce x u) s = .next t ∧ t.bit pgDV F.DV_RST_STAT_REJ = true ∧ t.pw = s.pw ∧ OnlyRegs [pgDV + 0x284] s t) ∧
  (∀ (s : State) (fn : Fn) (n : BitVec 4), Reaches s fn.val (pgDV + 0x280) .dv 0 → s.inRun = true →
    (s.get pgDV F.DV_RST_STAT_BUSY).testBit n.toNat = false → n.toNat < 6 → s.bit (pgPS n.toNat) F.PS_PWR_GATED = false →
    ∃ t, exec (.srst fn n) s = .next t ∧ (t.get pgDV F.DV_RST_STAT_BUSY).testBit n.toNat = true ∧
      (∀ a, sectOfAddr a = n.toNat → t.reg a = resetWord a) ∧ (∀ a, sectOfAddr a ≠ n.toNat → a / 4096 * 4096 ∉ [pgDV, pgPW] → t.reg a = s.reg a) ∧
      (∀ k, k < 8 → t.pe (8 * n.toNat + k) = {} ∧ t.gp (8 * n.toNat + k) = {}) ∧ t.tm.qs = s.tm.qs ∧ t.cxl = s.cxl ∧ t.dm.mem = s.dm.mem ∧
      t.bit pgDV F.DV_RST_STAT_REJ = s.bit pgDV F.DV_RST_STAT_REJ) ∧
  (∀ (s : State) (fn : Fn) (n : BitVec 4), Reaches s fn.val (pgDV + 0x280) .dv 0 → n.toNat = 6 ∨ n.toNat = 9 → s.inRun = true →
    (s.get pgDV F.DV_RST_STAT_BUSY).testBit n.toNat = false →
    ∃ t, exec (.srst fn n) s = .next t ∧ (t.get pgDV F.DV_RST_STAT_BUSY).testBit n.toNat = true ∧
      (∀ a, sectOfAddr a = n.toNat → t.reg a = resetWord a) ∧
      (∀ a, sectOfAddr a ≠ n.toNat → a / 4096 * 4096 ∉ [pgDV, pgPW, pgPX] → t.reg a = s.reg a) ∧ t.pes = s.pes ∧ t.tm = s.tm ∧ t.bp = s.bp) ∧
  (∀ (s : State) (fn : Fn), Reaches s fn.val (pgDV + 0x280) .dv 0 → s.inRun = true → s.qsHeld = false →
    (s.get pgDV F.DV_RST_STAT_BUSY).testBit 7 = false →
    ∃ t, exec (.srst fn 7) s = .next t ∧ (t.get pgDV F.DV_RST_STAT_BUSY).testBit 7 = true ∧ t.tm = {} ∧ t.bp = {} ∧ t.gl = [] ∧
      (∀ a, sectOfAddr a = 7 → t.reg a = resetWord a) ∧ (∀ a, sectOfAddr a ≠ 7 → a / 4096 * 4096 ∉ [pgDV, pgPW] → t.reg a = s.reg a) ∧
      t.pes = s.pes ∧ t.keys = s.keys ∧ t.cxl = s.cxl) ∧
  (∀ (s : State) (fn : Fn) (n : BitVec 4), Reaches s fn.val (pgDV + 0x280) .dv 0 → s.inRun = true →
    (s.get pgDV F.DV_RST_STAT_BUSY).testBit n.toNat = false → n.toNat < 6 → s.bit (pgPS n.toNat) F.PS_PWR_GATED = true →
    ∃ t, exec (.srst fn n) s = .next t ∧ t.dev.gatedRst.testBit n.toNat = true ∧ OnlyRegs [] s t) ∧
  (∀ (s : State) (fn : Fn) (n : BitVec 4), Reaches s fn.val (pgDV + 0x280) .dv 0 → s.inRun = false ∨ n.toNat = 8 ∨ 10 ≤ n.toNat ∨
      (s.get pgDV F.DV_RST_STAT_BUSY).testBit n.toNat = true ∨ (n.toNat = 7 ∧ s.en (pe0 0) = true) →
    ∃ t, exec (.srst fn n) s = .next t ∧ t.bit pgDV F.DV_RST_STAT_REJ = true ∧ OnlyRegs [pgDV + 0x284] s t) ∧
  (∀ (s : State) (n : Fin 11), s.inRun = true → (s.get pgDV F.DV_RST_STAT_BUSY).testBit n.val = true →
    ∃ t, exec (.sectionResetDone n) s = .next t ∧ (t.get pgDV F.DV_RST_STAT_BUSY).testBit n.val = false ∧
      (∀ m, m < 11 → m ≠ n.val → (t.get pgDV F.DV_RST_STAT_BUSY).testBit m = (s.get pgDV F.DV_RST_STAT_BUSY).testBit m) ∧
      OnlyRegs [pgDV + 0x284] s t) ∧
  (∀ (s : State) (n : Fin 11), s.inRun = false ∨ (s.get pgDV F.DV_RST_STAT_BUSY).testBit n.val = false →
    exec (.sectionResetDone n) s = .next s)

/-- R453, R455, R456, R499 to R501: hushing a port and gating a section, with what refuses them, and shorted pins with their
retry. -/
def Obligations.TrimAndPins : Prop :=
  (∀ (s : State) (fn : Fn) (n : Fin 48), Reaches s fn.val (pgPS (n.val / 8) + 0x044) .ps (n.val / 8) → s.inRun = true → s.locked (pgPS (n.val / 8)) = false →
    (s.reg (pgPS (n.val / 8) + 0x044)).toNat.testBit (n.val % 8) = false → s.en (pe0 n.val) = false →
    ((s.reg (pgPS (n.val / 8) + 0x044)).toNat.testBit 31 = false) →
    ∃ t, exec (.hush fn n) s = .next t ∧ (t.reg (pgPS (n.val / 8) + 0x044)).toNat.testBit (n.val % 8) = true ∧
      t.get pgPW F.PW_STATE_STATE = 1 ∧ t.raw (pgLN (48 + n.val)) 0 = false ∧ (t.lane n.val).tx ≠ .sending ∧
      ((s.lane (48 + n.val)).rx ≠ .off → (t.lane (48 + n.val)).rx = .idle) ∧ t.tabs = s.tabs ∧
      (∀ a, a / 4096 * 4096 ∉ [pgPS (n.val / 8), pgPW, pgLN n.val, pgLN (48 + n.val)] → t.reg a = s.reg a)) ∧
  (∀ (s : State) (fn : Fn) (n : Fin 48), Reaches s fn.val (pgPS (n.val / 8) + 0x044) .ps (n.val / 8) →
    (s.reg (pgPS (n.val / 8) + 0x044)).toNat.testBit (n.val % 8) = false → s.en (pe0 n.val) = true → s.inRun = true →
    s.get pgPW F.PW_STATE_STATE = (if (List.range 6).any (fun k => (s.reg (pgPS k + 0x044)).toNat % 256 != 0 || s.bit (pgPS k) F.PS_PWR_GATE) then 1 else 0) →
    s.locked (pgPS (n.val / 8)) = false →
    ∃ t, exec (.hush fn n) s = .next t ∧ t.bit (pgPS (n.val / 8)) F.ST_CFG_REJ = true ∧ t.lanes = s.lanes ∧
      OnlyRegs [pgPS (n.val / 8) + 0x00C] s t) ∧
  (∀ (s : State) (fn : Fn) (n : Fin 48), Reaches s fn.val (pgPS (n.val / 8) + 0x044) .ps (n.val / 8) → s.inRun = true → s.locked (pgPS (n.val / 8)) = false →
    (s.reg (pgPS (n.val / 8) + 0x044)).toNat.testBit (n.val % 8) = true → (s.reg (pgPS (n.val / 8) + 0x044)).toNat.testBit 31 = false →
    (s.lane n.val).tx = .idle → s.bit (pgLN n.val) F.LN_IDLE_REQ = false →
    ∃ t, exec (.unhush fn n) s = .next t ∧ (t.reg (pgPS (n.val / 8) + 0x044)).toNat.testBit (n.val % 8) = false ∧ (t.lane n.val).tx ≠ .idle ∧
      ((s.lane (48 + n.val)).rx = .idle → (t.lane (48 + n.val)).rx = .burst) ∧ t.tabs = s.tabs) ∧
  (∀ (s : State) (fn : Fn) (k : Fin 6), Reaches s fn.val (pgPS k.val + 0x044) .ps k.val → s.inRun = true → s.locked (pgPS k.val) = false →
    (s.reg (pgPS k.val + 0x044)).toNat % 256 = 0xFF → s.bit (pgPS k.val) F.PS_PWR_GATE = false → s.en (pgGS k.val 0) = false →
    (∀ i, i < 8 → s.en (pe0 (8 * k.val + i)) = false) →
    ∃ t, exec (.sectGated fn k) s = .next t ∧ t.bit (pgPS k.val) F.PS_PWR_GATED = true ∧ t.bit (pgPS k.val) F.PS_PWR_GATE = true ∧
      t.pends (pgPS k.val) 0 = true ∧ t.get pgPW F.PW_STATE_STATE = 1 ∧ t.unreachable (.pe 0) (8 * k.val) 0x008 = true ∧
      t.unreachable (.pe 0) (8 * k.val) 0x000 = false ∧ OnlyPages [pgPS k.val, pgPW] s t) ∧
  (∀ (s : State) (fn : Fn) (k : Fin 6), Reaches s fn.val (pgPS k.val + 0x044) .ps k.val → s.locked (pgPS k.val) = false →
    (s.reg (pgPS k.val + 0x044)).toNat % 256 ≠ 0xFF ∨ s.en (pgGS k.val 0) = true → s.bit (pgPS k.val) F.PS_PWR_GATE = false →
    ∃ t, exec (.sectGated fn k) s = .next t ∧ t.bit (pgPS k.val) F.ST_CFG_REJ = true ∧
      t.bit (pgPS k.val) F.PS_PWR_GATED = s.bit (pgPS k.val) F.PS_PWR_GATED ∧ OnlyRegs [pgPS k.val + 0x00C, pgPW + 0x040] s t) ∧
  (∀ (s : State) (fn : Fn) (k : Fin 6), Reaches s fn.val (pgPS k.val + 0x044) .ps k.val → s.inRun = true → s.locked (pgPS k.val) = false →
    s.bit (pgPS k.val) F.PS_PWR_GATE = true → s.dev.gatedRst.testBit k.val = false → (∀ i, i < 8 → s.en (pe0 (8 * k.val + i)) = false) →
    ∃ t, exec (.sectUngated fn k) s = .next t ∧ t.bit (pgPS k.val) F.PS_PWR_GATED = false ∧ t.pends (pgPS k.val) 1 = true ∧
      t.unreachable (.pe 0) (8 * k.val) 0x008 = false ∧ OnlyPages [pgPS k.val, pgPW] s t) ∧
  (∀ (s : State) (fn : Fn) (k : Fin 6), Reaches s fn.val (pgPS k.val + 0x044) .ps k.val → s.inRun = true → s.locked (pgPS k.val) = false →
    s.bit (pgPS k.val) F.PS_PWR_GATE = true → s.dev.gatedRst.testBit k.val = true → (∀ i, i < 8 → s.en (pe0 (8 * k.val + i)) = false) →
    ∃ t, exec (.sectUngated fn k) s = .next t ∧ (∀ a, sectOfAddr a = k.val → t.reg a = resetWord a) ∧
      (t.get pgDV F.DV_RST_STAT_BUSY).testBit k.val = true ∧ t.dev.gatedRst.testBit k.val = false) ∧
  (∀ (s : State) (n : Fin 48) (p : Fin 4) (h : Bool), s.pinShort n.val p.val = false → p.val ≠ 3 →
    (p.val = 0 → h ≠ s.txdis n.val) →
    ∃ t, exec (.pinShort (.port n p) h) s = .next t ∧ (t.reg (pe0 n.val + 0x078)).toNat.testBit (2 * p.val + if h then 1 else 0) = true ∧
      t.get (pe0 n.val) F.PE_PIN_STAT_FAULTS = min (s.get (pe0 n.val) F.PE_PIN_STAT_FAULTS + 1) 0xFFFF ∧ t.raw (pe0 n.val) 10 = true ∧
      OnlyRegs (evtWords (pe0 n.val) ++ [pe0 n.val + 0x078]) s t) ∧
  (∀ (s : State) (n : Fin 48) (h : Bool), s.pinShort n.val 3 = false → s.trcRuns n.val = false →
    ∃ t, exec (.pinShort (.port n 3) h) s = .next t ∧ t.pinShort n.val 3 = true ∧ t.raw (pe0 n.val) 10 = true ∧
      OnlyRegs (evtWords (pe0 n.val) ++ [pe0 n.val + 0x078]) s t) ∧
  (∀ (s : State) (n : Fin 48) (p : Fin 4) (h : Bool), s.pinShort n.val p.val = true → exec (.pinShort (.port n p) h) s = .next s) ∧
  (∀ (s : State) (n : Fin 48), exec (.pinShort (.port n 0) (s.txdis n.val)) s = .next s) ∧
  (∀ (s : State), exec (.pinShort .faultN (!s.faultAsserted)) s = .next s) ∧
  (∀ (s : State) (i : Fin 3), exec (.pinShort (.pwrEn i) (s.railOn i.val)) s = .next s) ∧
  (∀ (s : State) (h : Bool), h = s.faultAsserted → ∃ t, exec (.pinShort .faultN h) s = .next t ∧ t.bit pgPW F.PW_PIN_STAT_FAULT_N = true ∧ t.raw pgPW 4 = true ∧
      OnlyRegs (evtWords pgPW ++ [pgPW + 0x074]) s t) ∧
  (∀ (s : State) (i : Fin 3) (h : Bool), h ≠ s.railOn i.val → ∃ t, exec (.pinShort (.pwrEn i) h) s = .next t ∧
      (t.get pgPW F.PW_PIN_STAT_PWR_EN).testBit i.val = true ∧ t.raw pgPW 4 = true ∧ OnlyRegs (evtWords pgPW ++ [pgPW + 0x074]) s t) ∧
  (∀ (s : State) (p : Pin), exec (.pinRetry p false) s = .next s) ∧
  (∀ (s : State) (n : Fin 48) (p : Fin 4), ∃ t, exec (.pinRetry (.port n p) true) s = .next t ∧ t.pinShort n.val p.val = false ∧
      (∀ q, q < 4 → q ≠ p.val → t.pinShort n.val q = s.pinShort n.val q) ∧
      t.raw (pe0 n.val) 10 = (List.range 4).any (fun q => t.pinShort n.val q) ∧ OnlyRegs (evtWords (pe0 n.val) ++ [pe0 n.val + 0x078]) s t) ∧
  (∀ (s : State), s.get pgPW F.PW_PIN_STAT_PWR_EN = 0 →
    ∃ t, exec (.pinRetry .faultN true) s = .next t ∧ t.bit pgPW F.PW_PIN_STAT_FAULT_N = false ∧ t.raw pgPW 4 = false ∧
      OnlyRegs [pgPW + 0x010, pgPW + 0x074] s t) ∧
  (∀ (s : State) (i : Fin 3), ∃ t, exec (.pinRetry (.pwrEn i) true) s = .next t ∧ (t.get pgPW F.PW_PIN_STAT_PWR_EN).testBit i.val = false ∧
      (∀ j, j < 3 → j ≠ i.val → (t.get pgPW F.PW_PIN_STAT_PWR_EN).testBit j = (s.get pgPW F.PW_PIN_STAT_PWR_EN).testBit j) ∧
      OnlyRegs (evtWords pgPW ++ [pgPW + 0x074]) s t)
end

