-- ==== Sys2Proof/Laws/Sparse.lean ====
section
/-! SUPPORT. Laws of the sparse maps: read after write, and the canonical form. -/

namespace Sys2Proof.Machine

variable {α : Type}

theorem sget_filter (d : α) (p : Nat → Bool) (m : SMap α) (a : Nat) :
    sget d (m.filter (fun e => p e.1)) a = if p a then sget d m a else d := by
  induction m with
  | nil => simp [sget]
  | cons e r ih =>
    obtain ⟨k, v⟩ := e
    by_cases hk : p k = true
    · by_cases ha : a = k
      · subst ha; simp [sget, hk]
      · simp [sget, hk, ha, ih]
    · by_cases ha : a = k
      · subst ha; simp [hk, ih]
      · simp [sget, hk, ha, ih]

@[simp] theorem sget_sput_same (d : α) (m : SMap α) (a : Nat) (v : α) : sget d (sput m a v) a = v := by
  induction m with
  | nil => simp [sput, sget]
  | cons e r ih =>
    obtain ⟨k, w⟩ := e
    simp only [sput]
    split
    · simp [sget]
    · split
      · simp [sget]
      · rename_i h; simp [sget, h, ih]

theorem sget_sput_ne (d : α) (m : SMap α) {a b : Nat} (v : α) (h : b ≠ a) : sget d (sput m a v) b = sget d m b := by
  induction m with
  | nil => simp [sput, sget, h]
  | cons e r ih =>
    obtain ⟨k, w⟩ := e
    simp only [sput]
    split
    · simp [sget, h]
    · split
      · rename_i hk; subst hk; simp [sget, h]
      · simp only [sget, ih]

/-- A read after a write at the same key gives the value written. -/
@[simp] theorem sget_sset_same [DecidableEq α] (d : α) (m : SMap α) (a : Nat) (v : α) : sget d (sset d m a v) a = v := by
  unfold sset
  split
  · rename_i h; subst h
    have := sget_filter v (fun k => k != a) m a
    simpa using this
  · simp

/-- A write leaves every other key alone. -/
theorem sget_sset_ne [DecidableEq α] (d : α) (m : SMap α) {a b : Nat} (v : α) (h : b ≠ a) : sget d (sset d m a v) b = sget d m b := by
  unfold sset
  split
  · have := sget_filter d (fun k => k != a) m b
    simpa [h] using this
  · exact sget_sput_ne d m v h

/-- A write at one key, read with any unlisted value at another. -/
theorem sget_sset_ne' [DecidableEq α] (d d' : α) (m : SMap α) {a b : Nat} (v : α) (h : b ≠ a) :
    sget d' (sset d m a v) b = sget d' m b := by
  unfold sset
  split
  · have := sget_filter d' (fun k => k != a) m b
    simpa [h] using this
  · exact sget_sput_ne d' m v h

theorem sget_skeep (d : α) (p : Nat → Bool) (m : SMap α) (a : Nat) :
    sget d (skeep p m) a = if p a then sget d m a else d := sget_filter d p m a

/-! ### The canonical form -/

theorem srise_mono {lo lo' : Nat} (h : lo' ≤ lo) : ∀ m : SMap α, srise lo m = true → srise lo' m = true
  | [], _ => rfl
  | (k, _) :: r, hm => by
    simp only [srise, Bool.and_eq_true, decide_eq_true_eq] at hm ⊢
    exact ⟨Nat.le_trans h hm.1, hm.2⟩

theorem srise_filter (p : Nat × α → Bool) : ∀ (lo : Nat) (m : SMap α), srise lo m = true → srise lo (m.filter p) = true
  | _, [], _ => rfl
  | lo, (k, v) :: r, hm => by
    simp only [srise, Bool.and_eq_true, decide_eq_true_eq] at hm
    have hr := srise_filter p (k + 1) r hm.2
    by_cases hp : p (k, v) = true
    · simp [hp, srise, hm.1, hr]
    · simp only [List.filter_cons, hp]
      exact srise_mono (by omega) _ hr

theorem srise_sput : ∀ (lo : Nat) (m : SMap α) (a : Nat) (v : α), lo ≤ a → srise lo m = true → srise lo (sput m a v) = true
  | _, [], _, _, h, _ => by simp [sput, srise, h]
  | lo, (k, w) :: r, a, v, h, hm => by
    simp only [srise, Bool.and_eq_true, decide_eq_true_eq] at hm
    simp only [sput]
    split
    · rename_i hk; simp only [srise, Bool.and_eq_true, decide_eq_true_eq]; exact ⟨h, hk, hm.2⟩
    · split
      · rename_i hk; subst hk; simp [srise, h, hm.2]
      · simp only [srise, Bool.and_eq_true, decide_eq_true_eq]
        exact ⟨hm.1, srise_sput (k + 1) r a v (by omega) hm.2⟩

theorem mem_sput : ∀ (m : SMap α) (a : Nat) (v : α) (e : Nat × α), e ∈ sput m a v → e = (a, v) ∨ e ∈ m
  | [], a, v, e, h => by simpa [sput] using h
  | (k, w) :: r, a, v, e, h => by
    simp only [sput] at h
    split at h
    · simpa using h
    · split at h
      · simp only [List.mem_cons] at h ⊢
        rcases h with h | h
        · exact .inl h
        · exact .inr (.inr h)
      · simp only [List.mem_cons] at h ⊢
        rcases h with h | h
        · exact .inr (.inl h)
        · rcases mem_sput r a v e h with h | h
          · exact .inl h
          · exact .inr (.inr h)

/-- The canonical form in words: keys rise strictly, and no entry equals what an unlisted key reads as. -/
theorem swf_iff [DecidableEq α] (dflt : Nat → α) (m : SMap α) :
    swf dflt m = true ↔ srise 0 m = true ∧ ∀ e ∈ m, e.2 ≠ dflt e.1 := by
  simp [swf]

@[simp] theorem swf_nil [DecidableEq α] (dflt : Nat → α) : swf dflt ([] : SMap α) = true := rfl

/-- A write keeps the canonical form. -/
theorem swf_sset [DecidableEq α] (dflt : Nat → α) (m : SMap α) (a : Nat) (v : α) (h : swf dflt m = true) :
    swf dflt (sset (dflt a) m a v) = true := by
  rw [swf_iff] at h ⊢
  unfold sset
  split
  · exact ⟨srise_filter _ 0 m h.1, fun e he => h.2 e (List.mem_filter.1 he).1⟩
  · rename_i hv
    refine ⟨srise_sput 0 m a v (Nat.zero_le _) h.1, fun e he => ?_⟩
    rcases mem_sput m a v e he with rfl | he
    · exact hv
    · exact h.2 e he

/-- Keeping some of the keys keeps the canonical form. -/
theorem swf_skeep [DecidableEq α] (dflt : Nat → α) (p : Nat → Bool) (m : SMap α) (h : swf dflt m = true) :
    swf dflt (skeep p m) = true := by
  rw [swf_iff] at h ⊢
  exact ⟨srise_filter _ 0 m h.1, fun e he => h.2 e (List.mem_filter.1 he).1⟩

/-- A run of writes keeps the canonical form. -/
theorem swf_foldl_sset {β : Type} [DecidableEq α] (dflt : Nat → α) (f : β → Nat) (g : β → α) (l : List β) :
    ∀ m : SMap α, swf dflt m = true → swf dflt (l.foldl (fun m x => sset (dflt (f x)) m (f x) (g x)) m) = true := by
  induction l with
  | nil => exact fun _ h => h
  | cons x r ih => exact fun m h => ih _ (swf_sset dflt m (f x) (g x) h)

end Sys2Proof.Machine
end

