-- ==== Sys2Proof/Laws/State.lean ====
section
/-! SUPPORT. What the elementary updates of the state leave alone: one lemma for each field and each update. -/

namespace Sys2Proof.Machine

@[simp] theorem regs_update_staged (s : State) (x : SMap Word) : ({ s with regs := x } : State).staged = s.staged := (rfl)
@[simp] theorem regs_update_live (s : State) (x : SMap Word) : ({ s with regs := x } : State).live = s.live := (rfl)
@[simp] theorem regs_update_tabs (s : State) (x : SMap Word) : ({ s with regs := x } : State).tabs = s.tabs := (rfl)
@[simp] theorem regs_update_bad (s : State) (x : SMap Word) : ({ s with regs := x } : State).bad = s.bad := (rfl)
@[simp] theorem regs_update_poison (s : State) (x : SMap Word) : ({ s with regs := x } : State).poison = s.poison := (rfl)
@[simp] theorem regs_update_sticky (s : State) (x : SMap Word) : ({ s with regs := x } : State).sticky = s.sticky := (rfl)
@[simp] theorem regs_update_vecs (s : State) (x : SMap Word) : ({ s with regs := x } : State).vecs = s.vecs := (rfl)
@[simp] theorem regs_update_dev (s : State) (x : SMap Word) : ({ s with regs := x } : State).dev = s.dev := (rfl)
@[simp] theorem regs_update_lanes (s : State) (x : SMap Word) : ({ s with regs := x } : State).lanes = s.lanes := (rfl)
@[simp] theorem regs_update_refAbsent (s : State) (x : SMap Word) : ({ s with regs := x } : State).refAbsent = s.refAbsent := (rfl)
@[simp] theorem regs_update_tbs (s : State) (x : SMap Word) : ({ s with regs := x } : State).tbs = s.tbs := (rfl)
@[simp] theorem regs_update_tbRun (s : State) (x : SMap Word) : ({ s with regs := x } : State).tbRun = s.tbRun := (rfl)
@[simp] theorem regs_update_pps (s : State) (x : SMap Word) : ({ s with regs := x } : State).pps = s.pps := (rfl)
@[simp] theorem regs_update_ppsOn (s : State) (x : SMap Word) : ({ s with regs := x } : State).ppsOn = s.ppsOn := (rfl)
@[simp] theorem regs_update_fsyncLast (s : State) (x : SMap Word) : ({ s with regs := x } : State).fsyncLast = s.fsyncLast := (rfl)
@[simp] theorem regs_update_bp (s : State) (x : SMap Word) : ({ s with regs := x } : State).bp = s.bp := (rfl)
@[simp] theorem regs_update_tm (s : State) (x : SMap Word) : ({ s with regs := x } : State).tm = s.tm := (rfl)
@[simp] theorem regs_update_gl (s : State) (x : SMap Word) : ({ s with regs := x } : State).gl = s.gl := (rfl)
@[simp] theorem regs_update_pes (s : State) (x : SMap Word) : ({ s with regs := x } : State).pes = s.pes := (rfl)
@[simp] theorem regs_update_gps (s : State) (x : SMap Word) : ({ s with regs := x } : State).gps = s.gps := (rfl)
@[simp] theorem regs_update_keys (s : State) (x : SMap Word) : ({ s with regs := x } : State).keys = s.keys := (rfl)
@[simp] theorem regs_update_lookups (s : State) (x : SMap Word) : ({ s with regs := x } : State).lookups = s.lookups := (rfl)
@[simp] theorem regs_update_lk (s : State) (x : SMap Word) : ({ s with regs := x } : State).lk = s.lk := (rfl)
@[simp] theorem regs_update_ul (s : State) (x : SMap Word) : ({ s with regs := x } : State).ul = s.ul := (rfl)
@[simp] theorem regs_update_hx (s : State) (x : SMap Word) : ({ s with regs := x } : State).hx = s.hx := (rfl)
@[simp] theorem regs_update_mx (s : State) (x : SMap Word) : ({ s with regs := x } : State).mx = s.mx := (rfl)
@[simp] theorem regs_update_hostMem (s : State) (x : SMap Word) : ({ s with regs := x } : State).hostMem = s.hostMem := (rfl)
@[simp] theorem regs_update_cxl (s : State) (x : SMap Word) : ({ s with regs := x } : State).cxl = s.cxl := (rfl)
@[simp] theorem regs_update_ce (s : State) (x : SMap Word) : ({ s with regs := x } : State).ce = s.ce := (rfl)
@[simp] theorem regs_update_als (s : State) (x : SMap Word) : ({ s with regs := x } : State).als = s.als := (rfl)
@[simp] theorem regs_update_dm (s : State) (x : SMap Word) : ({ s with regs := x } : State).dm = s.dm := (rfl)
@[simp] theorem regs_update_px (s : State) (x : SMap Word) : ({ s with regs := x } : State).px = s.px := (rfl)
@[simp] theorem regs_update_pw (s : State) (x : SMap Word) : ({ s with regs := x } : State).pw = s.pw := (rfl)
@[simp] theorem regs_update_sc (s : State) (x : SMap Word) : ({ s with regs := x } : State).sc = s.sc := (rfl)
@[simp] theorem regs_update_now (s : State) (x : SMap Word) : ({ s with regs := x } : State).now = s.now := (rfl)
@[simp] theorem regs_update_free (s : State) (x : SMap Word) : ({ s with regs := x } : State).free = s.free := (rfl)
@[simp] theorem regs_update_out (s : State) (x : SMap Word) : ({ s with regs := x } : State).out = s.out := (rfl)
@[simp] theorem regs_update_pending (s : State) (x : SMap Word) : ({ s with regs := x } : State).pending = s.pending := (rfl)

@[simp] theorem tabs_update_regs (s : State) (x : SMap Entry) : ({ s with tabs := x } : State).regs = s.regs := (rfl)
@[simp] theorem tabs_update_staged (s : State) (x : SMap Entry) : ({ s with tabs := x } : State).staged = s.staged := (rfl)
@[simp] theorem tabs_update_live (s : State) (x : SMap Entry) : ({ s with tabs := x } : State).live = s.live := (rfl)
@[simp] theorem tabs_update_bad (s : State) (x : SMap Entry) : ({ s with tabs := x } : State).bad = s.bad := (rfl)
@[simp] theorem tabs_update_poison (s : State) (x : SMap Entry) : ({ s with tabs := x } : State).poison = s.poison := (rfl)
@[simp] theorem tabs_update_sticky (s : State) (x : SMap Entry) : ({ s with tabs := x } : State).sticky = s.sticky := (rfl)
@[simp] theorem tabs_update_vecs (s : State) (x : SMap Entry) : ({ s with tabs := x } : State).vecs = s.vecs := (rfl)
@[simp] theorem tabs_update_dev (s : State) (x : SMap Entry) : ({ s with tabs := x } : State).dev = s.dev := (rfl)
@[simp] theorem tabs_update_lanes (s : State) (x : SMap Entry) : ({ s with tabs := x } : State).lanes = s.lanes := (rfl)
@[simp] theorem tabs_update_refAbsent (s : State) (x : SMap Entry) : ({ s with tabs := x } : State).refAbsent = s.refAbsent := (rfl)
@[simp] theorem tabs_update_tbs (s : State) (x : SMap Entry) : ({ s with tabs := x } : State).tbs = s.tbs := (rfl)
@[simp] theorem tabs_update_tbRun (s : State) (x : SMap Entry) : ({ s with tabs := x } : State).tbRun = s.tbRun := (rfl)
@[simp] theorem tabs_update_pps (s : State) (x : SMap Entry) : ({ s with tabs := x } : State).pps = s.pps := (rfl)
@[simp] theorem tabs_update_ppsOn (s : State) (x : SMap Entry) : ({ s with tabs := x } : State).ppsOn = s.ppsOn := (rfl)
@[simp] theorem tabs_update_fsyncLast (s : State) (x : SMap Entry) : ({ s with tabs := x } : State).fsyncLast = s.fsyncLast := (rfl)
@[simp] theorem tabs_update_bp (s : State) (x : SMap Entry) : ({ s with tabs := x } : State).bp = s.bp := (rfl)
@[simp] theorem tabs_update_tm (s : State) (x : SMap Entry) : ({ s with tabs := x } : State).tm = s.tm := (rfl)
@[simp] theorem tabs_update_gl (s : State) (x : SMap Entry) : ({ s with tabs := x } : State).gl = s.gl := (rfl)
@[simp] theorem tabs_update_pes (s : State) (x : SMap Entry) : ({ s with tabs := x } : State).pes = s.pes := (rfl)
@[simp] theorem tabs_update_gps (s : State) (x : SMap Entry) : ({ s with tabs := x } : State).gps = s.gps := (rfl)
@[simp] theorem tabs_update_keys (s : State) (x : SMap Entry) : ({ s with tabs := x } : State).keys = s.keys := (rfl)
@[simp] theorem tabs_update_lookups (s : State) (x : SMap Entry) : ({ s with tabs := x } : State).lookups = s.lookups := (rfl)
@[simp] theorem tabs_update_lk (s : State) (x : SMap Entry) : ({ s with tabs := x } : State).lk = s.lk := (rfl)
@[simp] theorem tabs_update_ul (s : State) (x : SMap Entry) : ({ s with tabs := x } : State).ul = s.ul := (rfl)
@[simp] theorem tabs_update_hx (s : State) (x : SMap Entry) : ({ s with tabs := x } : State).hx = s.hx := (rfl)
@[simp] theorem tabs_update_mx (s : State) (x : SMap Entry) : ({ s with tabs := x } : State).mx = s.mx := (rfl)
@[simp] theorem tabs_update_hostMem (s : State) (x : SMap Entry) : ({ s with tabs := x } : State).hostMem = s.hostMem := (rfl)
@[simp] theorem tabs_update_cxl (s : State) (x : SMap Entry) : ({ s with tabs := x } : State).cxl = s.cxl := (rfl)
@[simp] theorem tabs_update_ce (s : State) (x : SMap Entry) : ({ s with tabs := x } : State).ce = s.ce := (rfl)
@[simp] theorem tabs_update_als (s : State) (x : SMap Entry) : ({ s with tabs := x } : State).als = s.als := (rfl)
@[simp] theorem tabs_update_dm (s : State) (x : SMap Entry) : ({ s with tabs := x } : State).dm = s.dm := (rfl)
@[simp] theorem tabs_update_px (s : State) (x : SMap Entry) : ({ s with tabs := x } : State).px = s.px := (rfl)
@[simp] theorem tabs_update_pw (s : State) (x : SMap Entry) : ({ s with tabs := x } : State).pw = s.pw := (rfl)
@[simp] theorem tabs_update_sc (s : State) (x : SMap Entry) : ({ s with tabs := x } : State).sc = s.sc := (rfl)
@[simp] theorem tabs_update_now (s : State) (x : SMap Entry) : ({ s with tabs := x } : State).now = s.now := (rfl)
@[simp] theorem tabs_update_free (s : State) (x : SMap Entry) : ({ s with tabs := x } : State).free = s.free := (rfl)
@[simp] theorem tabs_update_out (s : State) (x : SMap Entry) : ({ s with tabs := x } : State).out = s.out := (rfl)
@[simp] theorem tabs_update_pending (s : State) (x : SMap Entry) : ({ s with tabs := x } : State).pending = s.pending := (rfl)

@[simp] theorem live_update_regs (s : State) (x : SMap Nat) : ({ s with live := x } : State).regs = s.regs := (rfl)
@[simp] theorem live_update_staged (s : State) (x : SMap Nat) : ({ s with live := x } : State).staged = s.staged := (rfl)
@[simp] theorem live_update_tabs (s : State) (x : SMap Nat) : ({ s with live := x } : State).tabs = s.tabs := (rfl)
@[simp] theorem live_update_bad (s : State) (x : SMap Nat) : ({ s with live := x } : State).bad = s.bad := (rfl)
@[simp] theorem live_update_poison (s : State) (x : SMap Nat) : ({ s with live := x } : State).poison = s.poison := (rfl)
@[simp] theorem live_update_sticky (s : State) (x : SMap Nat) : ({ s with live := x } : State).sticky = s.sticky := (rfl)
@[simp] theorem live_update_vecs (s : State) (x : SMap Nat) : ({ s with live := x } : State).vecs = s.vecs := (rfl)
@[simp] theorem live_update_dev (s : State) (x : SMap Nat) : ({ s with live := x } : State).dev = s.dev := (rfl)
@[simp] theorem live_update_lanes (s : State) (x : SMap Nat) : ({ s with live := x } : State).lanes = s.lanes := (rfl)
@[simp] theorem live_update_refAbsent (s : State) (x : SMap Nat) : ({ s with live := x } : State).refAbsent = s.refAbsent := (rfl)
@[simp] theorem live_update_tbs (s : State) (x : SMap Nat) : ({ s with live := x } : State).tbs = s.tbs := (rfl)
@[simp] theorem live_update_tbRun (s : State) (x : SMap Nat) : ({ s with live := x } : State).tbRun = s.tbRun := (rfl)
@[simp] theorem live_update_pps (s : State) (x : SMap Nat) : ({ s with live := x } : State).pps = s.pps := (rfl)
@[simp] theorem live_update_ppsOn (s : State) (x : SMap Nat) : ({ s with live := x } : State).ppsOn = s.ppsOn := (rfl)
@[simp] theorem live_update_fsyncLast (s : State) (x : SMap Nat) : ({ s with live := x } : State).fsyncLast = s.fsyncLast := (rfl)
@[simp] theorem live_update_bp (s : State) (x : SMap Nat) : ({ s with live := x } : State).bp = s.bp := (rfl)
@[simp] theorem live_update_tm (s : State) (x : SMap Nat) : ({ s with live := x } : State).tm = s.tm := (rfl)
@[simp] theorem live_update_gl (s : State) (x : SMap Nat) : ({ s with live := x } : State).gl = s.gl := (rfl)
@[simp] theorem live_update_pes (s : State) (x : SMap Nat) : ({ s with live := x } : State).pes = s.pes := (rfl)
@[simp] theorem live_update_gps (s : State) (x : SMap Nat) : ({ s with live := x } : State).gps = s.gps := (rfl)
@[simp] theorem live_update_keys (s : State) (x : SMap Nat) : ({ s with live := x } : State).keys = s.keys := (rfl)
@[simp] theorem live_update_lookups (s : State) (x : SMap Nat) : ({ s with live := x } : State).lookups = s.lookups := (rfl)
@[simp] theorem live_update_lk (s : State) (x : SMap Nat) : ({ s with live := x } : State).lk = s.lk := (rfl)
@[simp] theorem live_update_ul (s : State) (x : SMap Nat) : ({ s with live := x } : State).ul = s.ul := (rfl)
@[simp] theorem live_update_hx (s : State) (x : SMap Nat) : ({ s with live := x } : State).hx = s.hx := (rfl)
@[simp] theorem live_update_mx (s : State) (x : SMap Nat) : ({ s with live := x } : State).mx = s.mx := (rfl)
@[simp] theorem live_update_hostMem (s : State) (x : SMap Nat) : ({ s with live := x } : State).hostMem = s.hostMem := (rfl)
@[simp] theorem live_update_cxl (s : State) (x : SMap Nat) : ({ s with live := x } : State).cxl = s.cxl := (rfl)
@[simp] theorem live_update_ce (s : State) (x : SMap Nat) : ({ s with live := x } : State).ce = s.ce := (rfl)
@[simp] theorem live_update_als (s : State) (x : SMap Nat) : ({ s with live := x } : State).als = s.als := (rfl)
@[simp] theorem live_update_dm (s : State) (x : SMap Nat) : ({ s with live := x } : State).dm = s.dm := (rfl)
@[simp] theorem live_update_px (s : State) (x : SMap Nat) : ({ s with live := x } : State).px = s.px := (rfl)
@[simp] theorem live_update_pw (s : State) (x : SMap Nat) : ({ s with live := x } : State).pw = s.pw := (rfl)
@[simp] theorem live_update_sc (s : State) (x : SMap Nat) : ({ s with live := x } : State).sc = s.sc := (rfl)
@[simp] theorem live_update_now (s : State) (x : SMap Nat) : ({ s with live := x } : State).now = s.now := (rfl)
@[simp] theorem live_update_free (s : State) (x : SMap Nat) : ({ s with live := x } : State).free = s.free := (rfl)
@[simp] theorem live_update_out (s : State) (x : SMap Nat) : ({ s with live := x } : State).out = s.out := (rfl)
@[simp] theorem live_update_pending (s : State) (x : SMap Nat) : ({ s with live := x } : State).pending = s.pending := (rfl)

@[simp] theorem out_update_regs (s : State) (x : List Output) : ({ s with out := x } : State).regs = s.regs := (rfl)
@[simp] theorem out_update_staged (s : State) (x : List Output) : ({ s with out := x } : State).staged = s.staged := (rfl)
@[simp] theorem out_update_live (s : State) (x : List Output) : ({ s with out := x } : State).live = s.live := (rfl)
@[simp] theorem out_update_tabs (s : State) (x : List Output) : ({ s with out := x } : State).tabs = s.tabs := (rfl)
@[simp] theorem out_update_bad (s : State) (x : List Output) : ({ s with out := x } : State).bad = s.bad := (rfl)
@[simp] theorem out_update_poison (s : State) (x : List Output) : ({ s with out := x } : State).poison = s.poison := (rfl)
@[simp] theorem out_update_sticky (s : State) (x : List Output) : ({ s with out := x } : State).sticky = s.sticky := (rfl)
@[simp] theorem out_update_vecs (s : State) (x : List Output) : ({ s with out := x } : State).vecs = s.vecs := (rfl)
@[simp] theorem out_update_dev (s : State) (x : List Output) : ({ s with out := x } : State).dev = s.dev := (rfl)
@[simp] theorem out_update_lanes (s : State) (x : List Output) : ({ s with out := x } : State).lanes = s.lanes := (rfl)
@[simp] theorem out_update_refAbsent (s : State) (x : List Output) : ({ s with out := x } : State).refAbsent = s.refAbsent := (rfl)
@[simp] theorem out_update_tbs (s : State) (x : List Output) : ({ s with out := x } : State).tbs = s.tbs := (rfl)
@[simp] theorem out_update_tbRun (s : State) (x : List Output) : ({ s with out := x } : State).tbRun = s.tbRun := (rfl)
@[simp] theorem out_update_pps (s : State) (x : List Output) : ({ s with out := x } : State).pps = s.pps := (rfl)
@[simp] theorem out_update_ppsOn (s : State) (x : List Output) : ({ s with out := x } : State).ppsOn = s.ppsOn := (rfl)
@[simp] theorem out_update_fsyncLast (s : State) (x : List Output) : ({ s with out := x } : State).fsyncLast = s.fsyncLast := (rfl)
@[simp] theorem out_update_bp (s : State) (x : List Output) : ({ s with out := x } : State).bp = s.bp := (rfl)
@[simp] theorem out_update_tm (s : State) (x : List Output) : ({ s with out := x } : State).tm = s.tm := (rfl)
@[simp] theorem out_update_gl (s : State) (x : List Output) : ({ s with out := x } : State).gl = s.gl := (rfl)
@[simp] theorem out_update_pes (s : State) (x : List Output) : ({ s with out := x } : State).pes = s.pes := (rfl)
@[simp] theorem out_update_gps (s : State) (x : List Output) : ({ s with out := x } : State).gps = s.gps := (rfl)
@[simp] theorem out_update_keys (s : State) (x : List Output) : ({ s with out := x } : State).keys = s.keys := (rfl)
@[simp] theorem out_update_lookups (s : State) (x : List Output) : ({ s with out := x } : State).lookups = s.lookups := (rfl)
@[simp] theorem out_update_lk (s : State) (x : List Output) : ({ s with out := x } : State).lk = s.lk := (rfl)
@[simp] theorem out_update_ul (s : State) (x : List Output) : ({ s with out := x } : State).ul = s.ul := (rfl)
@[simp] theorem out_update_hx (s : State) (x : List Output) : ({ s with out := x } : State).hx = s.hx := (rfl)
@[simp] theorem out_update_mx (s : State) (x : List Output) : ({ s with out := x } : State).mx = s.mx := (rfl)
@[simp] theorem out_update_hostMem (s : State) (x : List Output) : ({ s with out := x } : State).hostMem = s.hostMem := (rfl)
@[simp] theorem out_update_cxl (s : State) (x : List Output) : ({ s with out := x } : State).cxl = s.cxl := (rfl)
@[simp] theorem out_update_ce (s : State) (x : List Output) : ({ s with out := x } : State).ce = s.ce := (rfl)
@[simp] theorem out_update_als (s : State) (x : List Output) : ({ s with out := x } : State).als = s.als := (rfl)
@[simp] theorem out_update_dm (s : State) (x : List Output) : ({ s with out := x } : State).dm = s.dm := (rfl)
@[simp] theorem out_update_px (s : State) (x : List Output) : ({ s with out := x } : State).px = s.px := (rfl)
@[simp] theorem out_update_pw (s : State) (x : List Output) : ({ s with out := x } : State).pw = s.pw := (rfl)
@[simp] theorem out_update_sc (s : State) (x : List Output) : ({ s with out := x } : State).sc = s.sc := (rfl)
@[simp] theorem out_update_now (s : State) (x : List Output) : ({ s with out := x } : State).now = s.now := (rfl)
@[simp] theorem out_update_free (s : State) (x : List Output) : ({ s with out := x } : State).free = s.free := (rfl)
@[simp] theorem out_update_pending (s : State) (x : List Output) : ({ s with out := x } : State).pending = s.pending := (rfl)

@[simp] theorem vecs_update_regs (s : State) (x : SMap Vec) : ({ s with vecs := x } : State).regs = s.regs := (rfl)
@[simp] theorem vecs_update_staged (s : State) (x : SMap Vec) : ({ s with vecs := x } : State).staged = s.staged := (rfl)
@[simp] theorem vecs_update_live (s : State) (x : SMap Vec) : ({ s with vecs := x } : State).live = s.live := (rfl)
@[simp] theorem vecs_update_tabs (s : State) (x : SMap Vec) : ({ s with vecs := x } : State).tabs = s.tabs := (rfl)
@[simp] theorem vecs_update_bad (s : State) (x : SMap Vec) : ({ s with vecs := x } : State).bad = s.bad := (rfl)
@[simp] theorem vecs_update_poison (s : State) (x : SMap Vec) : ({ s with vecs := x } : State).poison = s.poison := (rfl)
@[simp] theorem vecs_update_sticky (s : State) (x : SMap Vec) : ({ s with vecs := x } : State).sticky = s.sticky := (rfl)
@[simp] theorem vecs_update_dev (s : State) (x : SMap Vec) : ({ s with vecs := x } : State).dev = s.dev := (rfl)
@[simp] theorem vecs_update_lanes (s : State) (x : SMap Vec) : ({ s with vecs := x } : State).lanes = s.lanes := (rfl)
@[simp] theorem vecs_update_refAbsent (s : State) (x : SMap Vec) : ({ s with vecs := x } : State).refAbsent = s.refAbsent := (rfl)
@[simp] theorem vecs_update_tbs (s : State) (x : SMap Vec) : ({ s with vecs := x } : State).tbs = s.tbs := (rfl)
@[simp] theorem vecs_update_tbRun (s : State) (x : SMap Vec) : ({ s with vecs := x } : State).tbRun = s.tbRun := (rfl)
@[simp] theorem vecs_update_pps (s : State) (x : SMap Vec) : ({ s with vecs := x } : State).pps = s.pps := (rfl)
@[simp] theorem vecs_update_ppsOn (s : State) (x : SMap Vec) : ({ s with vecs := x } : State).ppsOn = s.ppsOn := (rfl)
@[simp] theorem vecs_update_fsyncLast (s : State) (x : SMap Vec) : ({ s with vecs := x } : State).fsyncLast = s.fsyncLast := (rfl)
@[simp] theorem vecs_update_bp (s : State) (x : SMap Vec) : ({ s with vecs := x } : State).bp = s.bp := (rfl)
@[simp] theorem vecs_update_tm (s : State) (x : SMap Vec) : ({ s with vecs := x } : State).tm = s.tm := (rfl)
@[simp] theorem vecs_update_gl (s : State) (x : SMap Vec) : ({ s with vecs := x } : State).gl = s.gl := (rfl)
@[simp] theorem vecs_update_pes (s : State) (x : SMap Vec) : ({ s with vecs := x } : State).pes = s.pes := (rfl)
@[simp] theorem vecs_update_gps (s : State) (x : SMap Vec) : ({ s with vecs := x } : State).gps = s.gps := (rfl)
@[simp] theorem vecs_update_keys (s : State) (x : SMap Vec) : ({ s with vecs := x } : State).keys = s.keys := (rfl)
@[simp] theorem vecs_update_lookups (s : State) (x : SMap Vec) : ({ s with vecs := x } : State).lookups = s.lookups := (rfl)
@[simp] theorem vecs_update_lk (s : State) (x : SMap Vec) : ({ s with vecs := x } : State).lk = s.lk := (rfl)
@[simp] theorem vecs_update_ul (s : State) (x : SMap Vec) : ({ s with vecs := x } : State).ul = s.ul := (rfl)
@[simp] theorem vecs_update_hx (s : State) (x : SMap Vec) : ({ s with vecs := x } : State).hx = s.hx := (rfl)
@[simp] theorem vecs_update_mx (s : State) (x : SMap Vec) : ({ s with vecs := x } : State).mx = s.mx := (rfl)
@[simp] theorem vecs_update_hostMem (s : State) (x : SMap Vec) : ({ s with vecs := x } : State).hostMem = s.hostMem := (rfl)
@[simp] theorem vecs_update_cxl (s : State) (x : SMap Vec) : ({ s with vecs := x } : State).cxl = s.cxl := (rfl)
@[simp] theorem vecs_update_ce (s : State) (x : SMap Vec) : ({ s with vecs := x } : State).ce = s.ce := (rfl)
@[simp] theorem vecs_update_als (s : State) (x : SMap Vec) : ({ s with vecs := x } : State).als = s.als := (rfl)
@[simp] theorem vecs_update_dm (s : State) (x : SMap Vec) : ({ s with vecs := x } : State).dm = s.dm := (rfl)
@[simp] theorem vecs_update_px (s : State) (x : SMap Vec) : ({ s with vecs := x } : State).px = s.px := (rfl)
@[simp] theorem vecs_update_pw (s : State) (x : SMap Vec) : ({ s with vecs := x } : State).pw = s.pw := (rfl)
@[simp] theorem vecs_update_sc (s : State) (x : SMap Vec) : ({ s with vecs := x } : State).sc = s.sc := (rfl)
@[simp] theorem vecs_update_now (s : State) (x : SMap Vec) : ({ s with vecs := x } : State).now = s.now := (rfl)
@[simp] theorem vecs_update_free (s : State) (x : SMap Vec) : ({ s with vecs := x } : State).free = s.free := (rfl)
@[simp] theorem vecs_update_out (s : State) (x : SMap Vec) : ({ s with vecs := x } : State).out = s.out := (rfl)
@[simp] theorem vecs_update_pending (s : State) (x : SMap Vec) : ({ s with vecs := x } : State).pending = s.pending := (rfl)

@[simp] theorem tbs_update_regs (s : State) (x : SMap TimeBase) : ({ s with tbs := x } : State).regs = s.regs := (rfl)
@[simp] theorem tbs_update_staged (s : State) (x : SMap TimeBase) : ({ s with tbs := x } : State).staged = s.staged := (rfl)
@[simp] theorem tbs_update_live (s : State) (x : SMap TimeBase) : ({ s with tbs := x } : State).live = s.live := (rfl)
@[simp] theorem tbs_update_tabs (s : State) (x : SMap TimeBase) : ({ s with tbs := x } : State).tabs = s.tabs := (rfl)
@[simp] theorem tbs_update_bad (s : State) (x : SMap TimeBase) : ({ s with tbs := x } : State).bad = s.bad := (rfl)
@[simp] theorem tbs_update_poison (s : State) (x : SMap TimeBase) : ({ s with tbs := x } : State).poison = s.poison := (rfl)
@[simp] theorem tbs_update_sticky (s : State) (x : SMap TimeBase) : ({ s with tbs := x } : State).sticky = s.sticky := (rfl)
@[simp] theorem tbs_update_vecs (s : State) (x : SMap TimeBase) : ({ s with tbs := x } : State).vecs = s.vecs := (rfl)
@[simp] theorem tbs_update_dev (s : State) (x : SMap TimeBase) : ({ s with tbs := x } : State).dev = s.dev := (rfl)
@[simp] theorem tbs_update_lanes (s : State) (x : SMap TimeBase) : ({ s with tbs := x } : State).lanes = s.lanes := (rfl)
@[simp] theorem tbs_update_refAbsent (s : State) (x : SMap TimeBase) : ({ s with tbs := x } : State).refAbsent = s.refAbsent := (rfl)
@[simp] theorem tbs_update_tbRun (s : State) (x : SMap TimeBase) : ({ s with tbs := x } : State).tbRun = s.tbRun := (rfl)
@[simp] theorem tbs_update_pps (s : State) (x : SMap TimeBase) : ({ s with tbs := x } : State).pps = s.pps := (rfl)
@[simp] theorem tbs_update_ppsOn (s : State) (x : SMap TimeBase) : ({ s with tbs := x } : State).ppsOn = s.ppsOn := (rfl)
@[simp] theorem tbs_update_fsyncLast (s : State) (x : SMap TimeBase) : ({ s with tbs := x } : State).fsyncLast = s.fsyncLast := (rfl)
@[simp] theorem tbs_update_bp (s : State) (x : SMap TimeBase) : ({ s with tbs := x } : State).bp = s.bp := (rfl)
@[simp] theorem tbs_update_tm (s : State) (x : SMap TimeBase) : ({ s with tbs := x } : State).tm = s.tm := (rfl)
@[simp] theorem tbs_update_gl (s : State) (x : SMap TimeBase) : ({ s with tbs := x } : State).gl = s.gl := (rfl)
@[simp] theorem tbs_update_pes (s : State) (x : SMap TimeBase) : ({ s with tbs := x } : State).pes = s.pes := (rfl)
@[simp] theorem tbs_update_gps (s : State) (x : SMap TimeBase) : ({ s with tbs := x } : State).gps = s.gps := (rfl)
@[simp] theorem tbs_update_keys (s : State) (x : SMap TimeBase) : ({ s with tbs := x } : State).keys = s.keys := (rfl)
@[simp] theorem tbs_update_lookups (s : State) (x : SMap TimeBase) : ({ s with tbs := x } : State).lookups = s.lookups := (rfl)
@[simp] theorem tbs_update_lk (s : State) (x : SMap TimeBase) : ({ s with tbs := x } : State).lk = s.lk := (rfl)
@[simp] theorem tbs_update_ul (s : State) (x : SMap TimeBase) : ({ s with tbs := x } : State).ul = s.ul := (rfl)
@[simp] theorem tbs_update_hx (s : State) (x : SMap TimeBase) : ({ s with tbs := x } : State).hx = s.hx := (rfl)
@[simp] theorem tbs_update_mx (s : State) (x : SMap TimeBase) : ({ s with tbs := x } : State).mx = s.mx := (rfl)
@[simp] theorem tbs_update_hostMem (s : State) (x : SMap TimeBase) : ({ s with tbs := x } : State).hostMem = s.hostMem := (rfl)
@[simp] theorem tbs_update_cxl (s : State) (x : SMap TimeBase) : ({ s with tbs := x } : State).cxl = s.cxl := (rfl)
@[simp] theorem tbs_update_ce (s : State) (x : SMap TimeBase) : ({ s with tbs := x } : State).ce = s.ce := (rfl)
@[simp] theorem tbs_update_als (s : State) (x : SMap TimeBase) : ({ s with tbs := x } : State).als = s.als := (rfl)
@[simp] theorem tbs_update_dm (s : State) (x : SMap TimeBase) : ({ s with tbs := x } : State).dm = s.dm := (rfl)
@[simp] theorem tbs_update_px (s : State) (x : SMap TimeBase) : ({ s with tbs := x } : State).px = s.px := (rfl)
@[simp] theorem tbs_update_pw (s : State) (x : SMap TimeBase) : ({ s with tbs := x } : State).pw = s.pw := (rfl)
@[simp] theorem tbs_update_sc (s : State) (x : SMap TimeBase) : ({ s with tbs := x } : State).sc = s.sc := (rfl)
@[simp] theorem tbs_update_now (s : State) (x : SMap TimeBase) : ({ s with tbs := x } : State).now = s.now := (rfl)
@[simp] theorem tbs_update_free (s : State) (x : SMap TimeBase) : ({ s with tbs := x } : State).free = s.free := (rfl)
@[simp] theorem tbs_update_out (s : State) (x : SMap TimeBase) : ({ s with tbs := x } : State).out = s.out := (rfl)
@[simp] theorem tbs_update_pending (s : State) (x : SMap TimeBase) : ({ s with tbs := x } : State).pending = s.pending := (rfl)

@[simp] theorem lanes_update_regs (s : State) (x : SMap Lane) : ({ s with lanes := x } : State).regs = s.regs := (rfl)
@[simp] theorem lanes_update_staged (s : State) (x : SMap Lane) : ({ s with lanes := x } : State).staged = s.staged := (rfl)
@[simp] theorem lanes_update_live (s : State) (x : SMap Lane) : ({ s with lanes := x } : State).live = s.live := (rfl)
@[simp] theorem lanes_update_tabs (s : State) (x : SMap Lane) : ({ s with lanes := x } : State).tabs = s.tabs := (rfl)
@[simp] theorem lanes_update_bad (s : State) (x : SMap Lane) : ({ s with lanes := x } : State).bad = s.bad := (rfl)
@[simp] theorem lanes_update_poison (s : State) (x : SMap Lane) : ({ s with lanes := x } : State).poison = s.poison := (rfl)
@[simp] theorem lanes_update_sticky (s : State) (x : SMap Lane) : ({ s with lanes := x } : State).sticky = s.sticky := (rfl)
@[simp] theorem lanes_update_vecs (s : State) (x : SMap Lane) : ({ s with lanes := x } : State).vecs = s.vecs := (rfl)
@[simp] theorem lanes_update_dev (s : State) (x : SMap Lane) : ({ s with lanes := x } : State).dev = s.dev := (rfl)
@[simp] theorem lanes_update_refAbsent (s : State) (x : SMap Lane) : ({ s with lanes := x } : State).refAbsent = s.refAbsent := (rfl)
@[simp] theorem lanes_update_tbs (s : State) (x : SMap Lane) : ({ s with lanes := x } : State).tbs = s.tbs := (rfl)
@[simp] theorem lanes_update_tbRun (s : State) (x : SMap Lane) : ({ s with lanes := x } : State).tbRun = s.tbRun := (rfl)
@[simp] theorem lanes_update_pps (s : State) (x : SMap Lane) : ({ s with lanes := x } : State).pps = s.pps := (rfl)
@[simp] theorem lanes_update_ppsOn (s : State) (x : SMap Lane) : ({ s with lanes := x } : State).ppsOn = s.ppsOn := (rfl)
@[simp] theorem lanes_update_fsyncLast (s : State) (x : SMap Lane) : ({ s with lanes := x } : State).fsyncLast = s.fsyncLast := (rfl)
@[simp] theorem lanes_update_bp (s : State) (x : SMap Lane) : ({ s with lanes := x } : State).bp = s.bp := (rfl)
@[simp] theorem lanes_update_tm (s : State) (x : SMap Lane) : ({ s with lanes := x } : State).tm = s.tm := (rfl)
@[simp] theorem lanes_update_gl (s : State) (x : SMap Lane) : ({ s with lanes := x } : State).gl = s.gl := (rfl)
@[simp] theorem lanes_update_pes (s : State) (x : SMap Lane) : ({ s with lanes := x } : State).pes = s.pes := (rfl)
@[simp] theorem lanes_update_gps (s : State) (x : SMap Lane) : ({ s with lanes := x } : State).gps = s.gps := (rfl)
@[simp] theorem lanes_update_keys (s : State) (x : SMap Lane) : ({ s with lanes := x } : State).keys = s.keys := (rfl)
@[simp] theorem lanes_update_lookups (s : State) (x : SMap Lane) : ({ s with lanes := x } : State).lookups = s.lookups := (rfl)
@[simp] theorem lanes_update_lk (s : State) (x : SMap Lane) : ({ s with lanes := x } : State).lk = s.lk := (rfl)
@[simp] theorem lanes_update_ul (s : State) (x : SMap Lane) : ({ s with lanes := x } : State).ul = s.ul := (rfl)
@[simp] theorem lanes_update_hx (s : State) (x : SMap Lane) : ({ s with lanes := x } : State).hx = s.hx := (rfl)
@[simp] theorem lanes_update_mx (s : State) (x : SMap Lane) : ({ s with lanes := x } : State).mx = s.mx := (rfl)
@[simp] theorem lanes_update_hostMem (s : State) (x : SMap Lane) : ({ s with lanes := x } : State).hostMem = s.hostMem := (rfl)
@[simp] theorem lanes_update_cxl (s : State) (x : SMap Lane) : ({ s with lanes := x } : State).cxl = s.cxl := (rfl)
@[simp] theorem lanes_update_ce (s : State) (x : SMap Lane) : ({ s with lanes := x } : State).ce = s.ce := (rfl)
@[simp] theorem lanes_update_als (s : State) (x : SMap Lane) : ({ s with lanes := x } : State).als = s.als := (rfl)
@[simp] theorem lanes_update_dm (s : State) (x : SMap Lane) : ({ s with lanes := x } : State).dm = s.dm := (rfl)
@[simp] theorem lanes_update_px (s : State) (x : SMap Lane) : ({ s with lanes := x } : State).px = s.px := (rfl)
@[simp] theorem lanes_update_pw (s : State) (x : SMap Lane) : ({ s with lanes := x } : State).pw = s.pw := (rfl)
@[simp] theorem lanes_update_sc (s : State) (x : SMap Lane) : ({ s with lanes := x } : State).sc = s.sc := (rfl)
@[simp] theorem lanes_update_now (s : State) (x : SMap Lane) : ({ s with lanes := x } : State).now = s.now := (rfl)
@[simp] theorem lanes_update_free (s : State) (x : SMap Lane) : ({ s with lanes := x } : State).free = s.free := (rfl)
@[simp] theorem lanes_update_out (s : State) (x : SMap Lane) : ({ s with lanes := x } : State).out = s.out := (rfl)
@[simp] theorem lanes_update_pending (s : State) (x : SMap Lane) : ({ s with lanes := x } : State).pending = s.pending := (rfl)

@[simp] theorem free_update_regs (s : State) (x : Nat) : ({ s with free := x } : State).regs = s.regs := (rfl)
@[simp] theorem free_update_staged (s : State) (x : Nat) : ({ s with free := x } : State).staged = s.staged := (rfl)
@[simp] theorem free_update_live (s : State) (x : Nat) : ({ s with free := x } : State).live = s.live := (rfl)
@[simp] theorem free_update_tabs (s : State) (x : Nat) : ({ s with free := x } : State).tabs = s.tabs := (rfl)
@[simp] theorem free_update_bad (s : State) (x : Nat) : ({ s with free := x } : State).bad = s.bad := (rfl)
@[simp] theorem free_update_poison (s : State) (x : Nat) : ({ s with free := x } : State).poison = s.poison := (rfl)
@[simp] theorem free_update_sticky (s : State) (x : Nat) : ({ s with free := x } : State).sticky = s.sticky := (rfl)
@[simp] theorem free_update_vecs (s : State) (x : Nat) : ({ s with free := x } : State).vecs = s.vecs := (rfl)
@[simp] theorem free_update_dev (s : State) (x : Nat) : ({ s with free := x } : State).dev = s.dev := (rfl)
@[simp] theorem free_update_lanes (s : State) (x : Nat) : ({ s with free := x } : State).lanes = s.lanes := (rfl)
@[simp] theorem free_update_refAbsent (s : State) (x : Nat) : ({ s with free := x } : State).refAbsent = s.refAbsent := (rfl)
@[simp] theorem free_update_tbs (s : State) (x : Nat) : ({ s with free := x } : State).tbs = s.tbs := (rfl)
@[simp] theorem free_update_tbRun (s : State) (x : Nat) : ({ s with free := x } : State).tbRun = s.tbRun := (rfl)
@[simp] theorem free_update_pps (s : State) (x : Nat) : ({ s with free := x } : State).pps = s.pps := (rfl)
@[simp] theorem free_update_ppsOn (s : State) (x : Nat) : ({ s with free := x } : State).ppsOn = s.ppsOn := (rfl)
@[simp] theorem free_update_fsyncLast (s : State) (x : Nat) : ({ s with free := x } : State).fsyncLast = s.fsyncLast := (rfl)
@[simp] theorem free_update_bp (s : State) (x : Nat) : ({ s with free := x } : State).bp = s.bp := (rfl)
@[simp] theorem free_update_tm (s : State) (x : Nat) : ({ s with free := x } : State).tm = s.tm := (rfl)
@[simp] theorem free_update_gl (s : State) (x : Nat) : ({ s with free := x } : State).gl = s.gl := (rfl)
@[simp] theorem free_update_pes (s : State) (x : Nat) : ({ s with free := x } : State).pes = s.pes := (rfl)
@[simp] theorem free_update_gps (s : State) (x : Nat) : ({ s with free := x } : State).gps = s.gps := (rfl)
@[simp] theorem free_update_keys (s : State) (x : Nat) : ({ s with free := x } : State).keys = s.keys := (rfl)
@[simp] theorem free_update_lookups (s : State) (x : Nat) : ({ s with free := x } : State).lookups = s.lookups := (rfl)
@[simp] theorem free_update_lk (s : State) (x : Nat) : ({ s with free := x } : State).lk = s.lk := (rfl)
@[simp] theorem free_update_ul (s : State) (x : Nat) : ({ s with free := x } : State).ul = s.ul := (rfl)
@[simp] theorem free_update_hx (s : State) (x : Nat) : ({ s with free := x } : State).hx = s.hx := (rfl)
@[simp] theorem free_update_mx (s : State) (x : Nat) : ({ s with free := x } : State).mx = s.mx := (rfl)
@[simp] theorem free_update_hostMem (s : State) (x : Nat) : ({ s with free := x } : State).hostMem = s.hostMem := (rfl)
@[simp] theorem free_update_cxl (s : State) (x : Nat) : ({ s with free := x } : State).cxl = s.cxl := (rfl)
@[simp] theorem free_update_ce (s : State) (x : Nat) : ({ s with free := x } : State).ce = s.ce := (rfl)
@[simp] theorem free_update_als (s : State) (x : Nat) : ({ s with free := x } : State).als = s.als := (rfl)
@[simp] theorem free_update_dm (s : State) (x : Nat) : ({ s with free := x } : State).dm = s.dm := (rfl)
@[simp] theorem free_update_px (s : State) (x : Nat) : ({ s with free := x } : State).px = s.px := (rfl)
@[simp] theorem free_update_pw (s : State) (x : Nat) : ({ s with free := x } : State).pw = s.pw := (rfl)
@[simp] theorem free_update_sc (s : State) (x : Nat) : ({ s with free := x } : State).sc = s.sc := (rfl)
@[simp] theorem free_update_now (s : State) (x : Nat) : ({ s with free := x } : State).now = s.now := (rfl)
@[simp] theorem free_update_out (s : State) (x : Nat) : ({ s with free := x } : State).out = s.out := (rfl)
@[simp] theorem free_update_pending (s : State) (x : Nat) : ({ s with free := x } : State).pending = s.pending := (rfl)

@[simp] theorem setReg_staged (s : State) (a : Nat) (w : Word) : (s.setReg a w).staged = s.staged := regs_update_staged s _
@[simp] theorem setReg_live (s : State) (a : Nat) (w : Word) : (s.setReg a w).live = s.live := regs_update_live s _
@[simp] theorem setReg_tabs (s : State) (a : Nat) (w : Word) : (s.setReg a w).tabs = s.tabs := regs_update_tabs s _
@[simp] theorem setReg_bad (s : State) (a : Nat) (w : Word) : (s.setReg a w).bad = s.bad := regs_update_bad s _
@[simp] theorem setReg_poison (s : State) (a : Nat) (w : Word) : (s.setReg a w).poison = s.poison := regs_update_poison s _
@[simp] theorem setReg_sticky (s : State) (a : Nat) (w : Word) : (s.setReg a w).sticky = s.sticky := regs_update_sticky s _
@[simp] theorem setReg_vecs (s : State) (a : Nat) (w : Word) : (s.setReg a w).vecs = s.vecs := regs_update_vecs s _
@[simp] theorem setReg_dev (s : State) (a : Nat) (w : Word) : (s.setReg a w).dev = s.dev := regs_update_dev s _
@[simp] theorem setReg_lanes (s : State) (a : Nat) (w : Word) : (s.setReg a w).lanes = s.lanes := regs_update_lanes s _
@[simp] theorem setReg_refAbsent (s : State) (a : Nat) (w : Word) : (s.setReg a w).refAbsent = s.refAbsent := regs_update_refAbsent s _
@[simp] theorem setReg_tbs (s : State) (a : Nat) (w : Word) : (s.setReg a w).tbs = s.tbs := regs_update_tbs s _
@[simp] theorem setReg_tbRun (s : State) (a : Nat) (w : Word) : (s.setReg a w).tbRun = s.tbRun := regs_update_tbRun s _
@[simp] theorem setReg_pps (s : State) (a : Nat) (w : Word) : (s.setReg a w).pps = s.pps := regs_update_pps s _
@[simp] theorem setReg_ppsOn (s : State) (a : Nat) (w : Word) : (s.setReg a w).ppsOn = s.ppsOn := regs_update_ppsOn s _
@[simp] theorem setReg_fsyncLast (s : State) (a : Nat) (w : Word) : (s.setReg a w).fsyncLast = s.fsyncLast := regs_update_fsyncLast s _
@[simp] theorem setReg_bp (s : State) (a : Nat) (w : Word) : (s.setReg a w).bp = s.bp := regs_update_bp s _
@[simp] theorem setReg_tm (s : State) (a : Nat) (w : Word) : (s.setReg a w).tm = s.tm := regs_update_tm s _
@[simp] theorem setReg_gl (s : State) (a : Nat) (w : Word) : (s.setReg a w).gl = s.gl := regs_update_gl s _
@[simp] theorem setReg_pes (s : State) (a : Nat) (w : Word) : (s.setReg a w).pes = s.pes := regs_update_pes s _
@[simp] theorem setReg_gps (s : State) (a : Nat) (w : Word) : (s.setReg a w).gps = s.gps := regs_update_gps s _
@[simp] theorem setReg_keys (s : State) (a : Nat) (w : Word) : (s.setReg a w).keys = s.keys := regs_update_keys s _
@[simp] theorem setReg_lookups (s : State) (a : Nat) (w : Word) : (s.setReg a w).lookups = s.lookups := regs_update_lookups s _
@[simp] theorem setReg_lk (s : State) (a : Nat) (w : Word) : (s.setReg a w).lk = s.lk := regs_update_lk s _
@[simp] theorem setReg_ul (s : State) (a : Nat) (w : Word) : (s.setReg a w).ul = s.ul := regs_update_ul s _
@[simp] theorem setReg_hx (s : State) (a : Nat) (w : Word) : (s.setReg a w).hx = s.hx := regs_update_hx s _
@[simp] theorem setReg_mx (s : State) (a : Nat) (w : Word) : (s.setReg a w).mx = s.mx := regs_update_mx s _
@[simp] theorem setReg_hostMem (s : State) (a : Nat) (w : Word) : (s.setReg a w).hostMem = s.hostMem := regs_update_hostMem s _
@[simp] theorem setReg_cxl (s : State) (a : Nat) (w : Word) : (s.setReg a w).cxl = s.cxl := regs_update_cxl s _
@[simp] theorem setReg_ce (s : State) (a : Nat) (w : Word) : (s.setReg a w).ce = s.ce := regs_update_ce s _
@[simp] theorem setReg_als (s : State) (a : Nat) (w : Word) : (s.setReg a w).als = s.als := regs_update_als s _
@[simp] theorem setReg_dm (s : State) (a : Nat) (w : Word) : (s.setReg a w).dm = s.dm := regs_update_dm s _
@[simp] theorem setReg_px (s : State) (a : Nat) (w : Word) : (s.setReg a w).px = s.px := regs_update_px s _
@[simp] theorem setReg_pw (s : State) (a : Nat) (w : Word) : (s.setReg a w).pw = s.pw := regs_update_pw s _
@[simp] theorem setReg_sc (s : State) (a : Nat) (w : Word) : (s.setReg a w).sc = s.sc := regs_update_sc s _
@[simp] theorem setReg_now (s : State) (a : Nat) (w : Word) : (s.setReg a w).now = s.now := regs_update_now s _
@[simp] theorem setReg_free (s : State) (a : Nat) (w : Word) : (s.setReg a w).free = s.free := regs_update_free s _
@[simp] theorem setReg_out (s : State) (a : Nat) (w : Word) : (s.setReg a w).out = s.out := regs_update_out s _
@[simp] theorem setReg_pending (s : State) (a : Nat) (w : Word) : (s.setReg a w).pending = s.pending := regs_update_pending s _

@[simp] theorem put_staged (s : State) (pg : Nat) (f : Fld) (v : Nat) : (s.put pg f v).staged = s.staged := regs_update_staged s _
@[simp] theorem put_live (s : State) (pg : Nat) (f : Fld) (v : Nat) : (s.put pg f v).live = s.live := regs_update_live s _
@[simp] theorem put_tabs (s : State) (pg : Nat) (f : Fld) (v : Nat) : (s.put pg f v).tabs = s.tabs := regs_update_tabs s _
@[simp] theorem put_bad (s : State) (pg : Nat) (f : Fld) (v : Nat) : (s.put pg f v).bad = s.bad := regs_update_bad s _
@[simp] theorem put_poison (s : State) (pg : Nat) (f : Fld) (v : Nat) : (s.put pg f v).poison = s.poison := regs_update_poison s _
@[simp] theorem put_sticky (s : State) (pg : Nat) (f : Fld) (v : Nat) : (s.put pg f v).sticky = s.sticky := regs_update_sticky s _
@[simp] theorem put_vecs (s : State) (pg : Nat) (f : Fld) (v : Nat) : (s.put pg f v).vecs = s.vecs := regs_update_vecs s _
@[simp] theorem put_dev (s : State) (pg : Nat) (f : Fld) (v : Nat) : (s.put pg f v).dev = s.dev := regs_update_dev s _
@[simp] theorem put_lanes (s : State) (pg : Nat) (f : Fld) (v : Nat) : (s.put pg f v).lanes = s.lanes := regs_update_lanes s _
@[simp] theorem put_refAbsent (s : State) (pg : Nat) (f : Fld) (v : Nat) : (s.put pg f v).refAbsent = s.refAbsent := regs_update_refAbsent s _
@[simp] theorem put_tbs (s : State) (pg : Nat) (f : Fld) (v : Nat) : (s.put pg f v).tbs = s.tbs := regs_update_tbs s _
@[simp] theorem put_tbRun (s : State) (pg : Nat) (f : Fld) (v : Nat) : (s.put pg f v).tbRun = s.tbRun := regs_update_tbRun s _
@[simp] theorem put_pps (s : State) (pg : Nat) (f : Fld) (v : Nat) : (s.put pg f v).pps = s.pps := regs_update_pps s _
@[simp] theorem put_ppsOn (s : State) (pg : Nat) (f : Fld) (v : Nat) : (s.put pg f v).ppsOn = s.ppsOn := regs_update_ppsOn s _
@[simp] theorem put_fsyncLast (s : State) (pg : Nat) (f : Fld) (v : Nat) : (s.put pg f v).fsyncLast = s.fsyncLast := regs_update_fsyncLast s _
@[simp] theorem put_bp (s : State) (pg : Nat) (f : Fld) (v : Nat) : (s.put pg f v).bp = s.bp := regs_update_bp s _
@[simp] theorem put_tm (s : State) (pg : Nat) (f : Fld) (v : Nat) : (s.put pg f v).tm = s.tm := regs_update_tm s _
@[simp] theorem put_gl (s : State) (pg : Nat) (f : Fld) (v : Nat) : (s.put pg f v).gl = s.gl := regs_update_gl s _
@[simp] theorem put_pes (s : State) (pg : Nat) (f : Fld) (v : Nat) : (s.put pg f v).pes = s.pes := regs_update_pes s _
@[simp] theorem put_gps (s : State) (pg : Nat) (f : Fld) (v : Nat) : (s.put pg f v).gps = s.gps := regs_update_gps s _
@[simp] theorem put_keys (s : State) (pg : Nat) (f : Fld) (v : Nat) : (s.put pg f v).keys = s.keys := regs_update_keys s _
@[simp] theorem put_lookups (s : State) (pg : Nat) (f : Fld) (v : Nat) : (s.put pg f v).lookups = s.lookups := regs_update_lookups s _
@[simp] theorem put_lk (s : State) (pg : Nat) (f : Fld) (v : Nat) : (s.put pg f v).lk = s.lk := regs_update_lk s _
@[simp] theorem put_ul (s : State) (pg : Nat) (f : Fld) (v : Nat) : (s.put pg f v).ul = s.ul := regs_update_ul s _
@[simp] theorem put_hx (s : State) (pg : Nat) (f : Fld) (v : Nat) : (s.put pg f v).hx = s.hx := regs_update_hx s _
@[simp] theorem put_mx (s : State) (pg : Nat) (f : Fld) (v : Nat) : (s.put pg f v).mx = s.mx := regs_update_mx s _
@[simp] theorem put_hostMem (s : State) (pg : Nat) (f : Fld) (v : Nat) : (s.put pg f v).hostMem = s.hostMem := regs_update_hostMem s _
@[simp] theorem put_cxl (s : State) (pg : Nat) (f : Fld) (v : Nat) : (s.put pg f v).cxl = s.cxl := regs_update_cxl s _
@[simp] theorem put_ce (s : State) (pg : Nat) (f : Fld) (v : Nat) : (s.put pg f v).ce = s.ce := regs_update_ce s _
@[simp] theorem put_als (s : State) (pg : Nat) (f : Fld) (v : Nat) : (s.put pg f v).als = s.als := regs_update_als s _
@[simp] theorem put_dm (s : State) (pg : Nat) (f : Fld) (v : Nat) : (s.put pg f v).dm = s.dm := regs_update_dm s _
@[simp] theorem put_px (s : State) (pg : Nat) (f : Fld) (v : Nat) : (s.put pg f v).px = s.px := regs_update_px s _
@[simp] theorem put_pw (s : State) (pg : Nat) (f : Fld) (v : Nat) : (s.put pg f v).pw = s.pw := regs_update_pw s _
@[simp] theorem put_sc (s : State) (pg : Nat) (f : Fld) (v : Nat) : (s.put pg f v).sc = s.sc := regs_update_sc s _
@[simp] theorem put_now (s : State) (pg : Nat) (f : Fld) (v : Nat) : (s.put pg f v).now = s.now := regs_update_now s _
@[simp] theorem put_free (s : State) (pg : Nat) (f : Fld) (v : Nat) : (s.put pg f v).free = s.free := regs_update_free s _
@[simp] theorem put_out (s : State) (pg : Nat) (f : Fld) (v : Nat) : (s.put pg f v).out = s.out := regs_update_out s _
@[simp] theorem put_pending (s : State) (pg : Nat) (f : Fld) (v : Nat) : (s.put pg f v).pending = s.pending := regs_update_pending s _

@[simp] theorem putBit_staged (s : State) (pg : Nat) (f : Fld) (b : Bool) : (s.putBit pg f b).staged = s.staged := regs_update_staged s _
@[simp] theorem putBit_live (s : State) (pg : Nat) (f : Fld) (b : Bool) : (s.putBit pg f b).live = s.live := regs_update_live s _
@[simp] theorem putBit_tabs (s : State) (pg : Nat) (f : Fld) (b : Bool) : (s.putBit pg f b).tabs = s.tabs := regs_update_tabs s _
@[simp] theorem putBit_bad (s : State) (pg : Nat) (f : Fld) (b : Bool) : (s.putBit pg f b).bad = s.bad := regs_update_bad s _
@[simp] theorem putBit_poison (s : State) (pg : Nat) (f : Fld) (b : Bool) : (s.putBit pg f b).poison = s.poison := regs_update_poison s _
@[simp] theorem putBit_sticky (s : State) (pg : Nat) (f : Fld) (b : Bool) : (s.putBit pg f b).sticky = s.sticky := regs_update_sticky s _
@[simp] theorem putBit_vecs (s : State) (pg : Nat) (f : Fld) (b : Bool) : (s.putBit pg f b).vecs = s.vecs := regs_update_vecs s _
@[simp] theorem putBit_dev (s : State) (pg : Nat) (f : Fld) (b : Bool) : (s.putBit pg f b).dev = s.dev := regs_update_dev s _
@[simp] theorem putBit_lanes (s : State) (pg : Nat) (f : Fld) (b : Bool) : (s.putBit pg f b).lanes = s.lanes := regs_update_lanes s _
@[simp] theorem putBit_refAbsent (s : State) (pg : Nat) (f : Fld) (b : Bool) : (s.putBit pg f b).refAbsent = s.refAbsent := regs_update_refAbsent s _
@[simp] theorem putBit_tbs (s : State) (pg : Nat) (f : Fld) (b : Bool) : (s.putBit pg f b).tbs = s.tbs := regs_update_tbs s _
@[simp] theorem putBit_tbRun (s : State) (pg : Nat) (f : Fld) (b : Bool) : (s.putBit pg f b).tbRun = s.tbRun := regs_update_tbRun s _
@[simp] theorem putBit_pps (s : State) (pg : Nat) (f : Fld) (b : Bool) : (s.putBit pg f b).pps = s.pps := regs_update_pps s _
@[simp] theorem putBit_ppsOn (s : State) (pg : Nat) (f : Fld) (b : Bool) : (s.putBit pg f b).ppsOn = s.ppsOn := regs_update_ppsOn s _
@[simp] theorem putBit_fsyncLast (s : State) (pg : Nat) (f : Fld) (b : Bool) : (s.putBit pg f b).fsyncLast = s.fsyncLast := regs_update_fsyncLast s _
@[simp] theorem putBit_bp (s : State) (pg : Nat) (f : Fld) (b : Bool) : (s.putBit pg f b).bp = s.bp := regs_update_bp s _
@[simp] theorem putBit_tm (s : State) (pg : Nat) (f : Fld) (b : Bool) : (s.putBit pg f b).tm = s.tm := regs_update_tm s _
@[simp] theorem putBit_gl (s : State) (pg : Nat) (f : Fld) (b : Bool) : (s.putBit pg f b).gl = s.gl := regs_update_gl s _
@[simp] theorem putBit_pes (s : State) (pg : Nat) (f : Fld) (b : Bool) : (s.putBit pg f b).pes = s.pes := regs_update_pes s _
@[simp] theorem putBit_gps (s : State) (pg : Nat) (f : Fld) (b : Bool) : (s.putBit pg f b).gps = s.gps := regs_update_gps s _
@[simp] theorem putBit_keys (s : State) (pg : Nat) (f : Fld) (b : Bool) : (s.putBit pg f b).keys = s.keys := regs_update_keys s _
@[simp] theorem putBit_lookups (s : State) (pg : Nat) (f : Fld) (b : Bool) : (s.putBit pg f b).lookups = s.lookups := regs_update_lookups s _
@[simp] theorem putBit_lk (s : State) (pg : Nat) (f : Fld) (b : Bool) : (s.putBit pg f b).lk = s.lk := regs_update_lk s _
@[simp] theorem putBit_ul (s : State) (pg : Nat) (f : Fld) (b : Bool) : (s.putBit pg f b).ul = s.ul := regs_update_ul s _
@[simp] theorem putBit_hx (s : State) (pg : Nat) (f : Fld) (b : Bool) : (s.putBit pg f b).hx = s.hx := regs_update_hx s _
@[simp] theorem putBit_mx (s : State) (pg : Nat) (f : Fld) (b : Bool) : (s.putBit pg f b).mx = s.mx := regs_update_mx s _
@[simp] theorem putBit_hostMem (s : State) (pg : Nat) (f : Fld) (b : Bool) : (s.putBit pg f b).hostMem = s.hostMem := regs_update_hostMem s _
@[simp] theorem putBit_cxl (s : State) (pg : Nat) (f : Fld) (b : Bool) : (s.putBit pg f b).cxl = s.cxl := regs_update_cxl s _
@[simp] theorem putBit_ce (s : State) (pg : Nat) (f : Fld) (b : Bool) : (s.putBit pg f b).ce = s.ce := regs_update_ce s _
@[simp] theorem putBit_als (s : State) (pg : Nat) (f : Fld) (b : Bool) : (s.putBit pg f b).als = s.als := regs_update_als s _
@[simp] theorem putBit_dm (s : State) (pg : Nat) (f : Fld) (b : Bool) : (s.putBit pg f b).dm = s.dm := regs_update_dm s _
@[simp] theorem putBit_px (s : State) (pg : Nat) (f : Fld) (b : Bool) : (s.putBit pg f b).px = s.px := regs_update_px s _
@[simp] theorem putBit_pw (s : State) (pg : Nat) (f : Fld) (b : Bool) : (s.putBit pg f b).pw = s.pw := regs_update_pw s _
@[simp] theorem putBit_sc (s : State) (pg : Nat) (f : Fld) (b : Bool) : (s.putBit pg f b).sc = s.sc := regs_update_sc s _
@[simp] theorem putBit_now (s : State) (pg : Nat) (f : Fld) (b : Bool) : (s.putBit pg f b).now = s.now := regs_update_now s _
@[simp] theorem putBit_free (s : State) (pg : Nat) (f : Fld) (b : Bool) : (s.putBit pg f b).free = s.free := regs_update_free s _
@[simp] theorem putBit_out (s : State) (pg : Nat) (f : Fld) (b : Bool) : (s.putBit pg f b).out = s.out := regs_update_out s _
@[simp] theorem putBit_pending (s : State) (pg : Nat) (f : Fld) (b : Bool) : (s.putBit pg f b).pending = s.pending := regs_update_pending s _

@[simp] theorem putI_staged (s : State) (pg : Nat) (f : Fld) (x : Int) : (s.putI pg f x).staged = s.staged := regs_update_staged s _
@[simp] theorem putI_live (s : State) (pg : Nat) (f : Fld) (x : Int) : (s.putI pg f x).live = s.live := regs_update_live s _
@[simp] theorem putI_tabs (s : State) (pg : Nat) (f : Fld) (x : Int) : (s.putI pg f x).tabs = s.tabs := regs_update_tabs s _
@[simp] theorem putI_bad (s : State) (pg : Nat) (f : Fld) (x : Int) : (s.putI pg f x).bad = s.bad := regs_update_bad s _
@[simp] theorem putI_poison (s : State) (pg : Nat) (f : Fld) (x : Int) : (s.putI pg f x).poison = s.poison := regs_update_poison s _
@[simp] theorem putI_sticky (s : State) (pg : Nat) (f : Fld) (x : Int) : (s.putI pg f x).sticky = s.sticky := regs_update_sticky s _
@[simp] theorem putI_vecs (s : State) (pg : Nat) (f : Fld) (x : Int) : (s.putI pg f x).vecs = s.vecs := regs_update_vecs s _
@[simp] theorem putI_dev (s : State) (pg : Nat) (f : Fld) (x : Int) : (s.putI pg f x).dev = s.dev := regs_update_dev s _
@[simp] theorem putI_lanes (s : State) (pg : Nat) (f : Fld) (x : Int) : (s.putI pg f x).lanes = s.lanes := regs_update_lanes s _
@[simp] theorem putI_refAbsent (s : State) (pg : Nat) (f : Fld) (x : Int) : (s.putI pg f x).refAbsent = s.refAbsent := regs_update_refAbsent s _
@[simp] theorem putI_tbs (s : State) (pg : Nat) (f : Fld) (x : Int) : (s.putI pg f x).tbs = s.tbs := regs_update_tbs s _
@[simp] theorem putI_tbRun (s : State) (pg : Nat) (f : Fld) (x : Int) : (s.putI pg f x).tbRun = s.tbRun := regs_update_tbRun s _
@[simp] theorem putI_pps (s : State) (pg : Nat) (f : Fld) (x : Int) : (s.putI pg f x).pps = s.pps := regs_update_pps s _
@[simp] theorem putI_ppsOn (s : State) (pg : Nat) (f : Fld) (x : Int) : (s.putI pg f x).ppsOn = s.ppsOn := regs_update_ppsOn s _
@[simp] theorem putI_fsyncLast (s : State) (pg : Nat) (f : Fld) (x : Int) : (s.putI pg f x).fsyncLast = s.fsyncLast := regs_update_fsyncLast s _
@[simp] theorem putI_bp (s : State) (pg : Nat) (f : Fld) (x : Int) : (s.putI pg f x).bp = s.bp := regs_update_bp s _
@[simp] theorem putI_tm (s : State) (pg : Nat) (f : Fld) (x : Int) : (s.putI pg f x).tm = s.tm := regs_update_tm s _
@[simp] theorem putI_gl (s : State) (pg : Nat) (f : Fld) (x : Int) : (s.putI pg f x).gl = s.gl := regs_update_gl s _
@[simp] theorem putI_pes (s : State) (pg : Nat) (f : Fld) (x : Int) : (s.putI pg f x).pes = s.pes := regs_update_pes s _
@[simp] theorem putI_gps (s : State) (pg : Nat) (f : Fld) (x : Int) : (s.putI pg f x).gps = s.gps := regs_update_gps s _
@[simp] theorem putI_keys (s : State) (pg : Nat) (f : Fld) (x : Int) : (s.putI pg f x).keys = s.keys := regs_update_keys s _
@[simp] theorem putI_lookups (s : State) (pg : Nat) (f : Fld) (x : Int) : (s.putI pg f x).lookups = s.lookups := regs_update_lookups s _
@[simp] theorem putI_lk (s : State) (pg : Nat) (f : Fld) (x : Int) : (s.putI pg f x).lk = s.lk := regs_update_lk s _
@[simp] theorem putI_ul (s : State) (pg : Nat) (f : Fld) (x : Int) : (s.putI pg f x).ul = s.ul := regs_update_ul s _
@[simp] theorem putI_hx (s : State) (pg : Nat) (f : Fld) (x : Int) : (s.putI pg f x).hx = s.hx := regs_update_hx s _
@[simp] theorem putI_mx (s : State) (pg : Nat) (f : Fld) (x : Int) : (s.putI pg f x).mx = s.mx := regs_update_mx s _
@[simp] theorem putI_hostMem (s : State) (pg : Nat) (f : Fld) (x : Int) : (s.putI pg f x).hostMem = s.hostMem := regs_update_hostMem s _
@[simp] theorem putI_cxl (s : State) (pg : Nat) (f : Fld) (x : Int) : (s.putI pg f x).cxl = s.cxl := regs_update_cxl s _
@[simp] theorem putI_ce (s : State) (pg : Nat) (f : Fld) (x : Int) : (s.putI pg f x).ce = s.ce := regs_update_ce s _
@[simp] theorem putI_als (s : State) (pg : Nat) (f : Fld) (x : Int) : (s.putI pg f x).als = s.als := regs_update_als s _
@[simp] theorem putI_dm (s : State) (pg : Nat) (f : Fld) (x : Int) : (s.putI pg f x).dm = s.dm := regs_update_dm s _
@[simp] theorem putI_px (s : State) (pg : Nat) (f : Fld) (x : Int) : (s.putI pg f x).px = s.px := regs_update_px s _
@[simp] theorem putI_pw (s : State) (pg : Nat) (f : Fld) (x : Int) : (s.putI pg f x).pw = s.pw := regs_update_pw s _
@[simp] theorem putI_sc (s : State) (pg : Nat) (f : Fld) (x : Int) : (s.putI pg f x).sc = s.sc := regs_update_sc s _
@[simp] theorem putI_now (s : State) (pg : Nat) (f : Fld) (x : Int) : (s.putI pg f x).now = s.now := regs_update_now s _
@[simp] theorem putI_free (s : State) (pg : Nat) (f : Fld) (x : Int) : (s.putI pg f x).free = s.free := regs_update_free s _
@[simp] theorem putI_out (s : State) (pg : Nat) (f : Fld) (x : Int) : (s.putI pg f x).out = s.out := regs_update_out s _
@[simp] theorem putI_pending (s : State) (pg : Nat) (f : Fld) (x : Int) : (s.putI pg f x).pending = s.pending := regs_update_pending s _

@[simp] theorem incWrap_staged (s : State) (pg : Nat) (f : Fld) (n : Nat) : (s.incWrap pg f n).staged = s.staged := regs_update_staged s _
@[simp] theorem incWrap_live (s : State) (pg : Nat) (f : Fld) (n : Nat) : (s.incWrap pg f n).live = s.live := regs_update_live s _
@[simp] theorem incWrap_tabs (s : State) (pg : Nat) (f : Fld) (n : Nat) : (s.incWrap pg f n).tabs = s.tabs := regs_update_tabs s _
@[simp] theorem incWrap_bad (s : State) (pg : Nat) (f : Fld) (n : Nat) : (s.incWrap pg f n).bad = s.bad := regs_update_bad s _
@[simp] theorem incWrap_poison (s : State) (pg : Nat) (f : Fld) (n : Nat) : (s.incWrap pg f n).poison = s.poison := regs_update_poison s _
@[simp] theorem incWrap_sticky (s : State) (pg : Nat) (f : Fld) (n : Nat) : (s.incWrap pg f n).sticky = s.sticky := regs_update_sticky s _
@[simp] theorem incWrap_vecs (s : State) (pg : Nat) (f : Fld) (n : Nat) : (s.incWrap pg f n).vecs = s.vecs := regs_update_vecs s _
@[simp] theorem incWrap_dev (s : State) (pg : Nat) (f : Fld) (n : Nat) : (s.incWrap pg f n).dev = s.dev := regs_update_dev s _
@[simp] theorem incWrap_lanes (s : State) (pg : Nat) (f : Fld) (n : Nat) : (s.incWrap pg f n).lanes = s.lanes := regs_update_lanes s _
@[simp] theorem incWrap_refAbsent (s : State) (pg : Nat) (f : Fld) (n : Nat) : (s.incWrap pg f n).refAbsent = s.refAbsent := regs_update_refAbsent s _
@[simp] theorem incWrap_tbs (s : State) (pg : Nat) (f : Fld) (n : Nat) : (s.incWrap pg f n).tbs = s.tbs := regs_update_tbs s _
@[simp] theorem incWrap_tbRun (s : State) (pg : Nat) (f : Fld) (n : Nat) : (s.incWrap pg f n).tbRun = s.tbRun := regs_update_tbRun s _
@[simp] theorem incWrap_pps (s : State) (pg : Nat) (f : Fld) (n : Nat) : (s.incWrap pg f n).pps = s.pps := regs_update_pps s _
@[simp] theorem incWrap_ppsOn (s : State) (pg : Nat) (f : Fld) (n : Nat) : (s.incWrap pg f n).ppsOn = s.ppsOn := regs_update_ppsOn s _
@[simp] theorem incWrap_fsyncLast (s : State) (pg : Nat) (f : Fld) (n : Nat) : (s.incWrap pg f n).fsyncLast = s.fsyncLast := regs_update_fsyncLast s _
@[simp] theorem incWrap_bp (s : State) (pg : Nat) (f : Fld) (n : Nat) : (s.incWrap pg f n).bp = s.bp := regs_update_bp s _
@[simp] theorem incWrap_tm (s : State) (pg : Nat) (f : Fld) (n : Nat) : (s.incWrap pg f n).tm = s.tm := regs_update_tm s _
@[simp] theorem incWrap_gl (s : State) (pg : Nat) (f : Fld) (n : Nat) : (s.incWrap pg f n).gl = s.gl := regs_update_gl s _
@[simp] theorem incWrap_pes (s : State) (pg : Nat) (f : Fld) (n : Nat) : (s.incWrap pg f n).pes = s.pes := regs_update_pes s _
@[simp] theorem incWrap_gps (s : State) (pg : Nat) (f : Fld) (n : Nat) : (s.incWrap pg f n).gps = s.gps := regs_update_gps s _
@[simp] theorem incWrap_keys (s : State) (pg : Nat) (f : Fld) (n : Nat) : (s.incWrap pg f n).keys = s.keys := regs_update_keys s _
@[simp] theorem incWrap_lookups (s : State) (pg : Nat) (f : Fld) (n : Nat) : (s.incWrap pg f n).lookups = s.lookups := regs_update_lookups s _
@[simp] theorem incWrap_lk (s : State) (pg : Nat) (f : Fld) (n : Nat) : (s.incWrap pg f n).lk = s.lk := regs_update_lk s _
@[simp] theorem incWrap_ul (s : State) (pg : Nat) (f : Fld) (n : Nat) : (s.incWrap pg f n).ul = s.ul := regs_update_ul s _
@[simp] theorem incWrap_hx (s : State) (pg : Nat) (f : Fld) (n : Nat) : (s.incWrap pg f n).hx = s.hx := regs_update_hx s _
@[simp] theorem incWrap_mx (s : State) (pg : Nat) (f : Fld) (n : Nat) : (s.incWrap pg f n).mx = s.mx := regs_update_mx s _
@[simp] theorem incWrap_hostMem (s : State) (pg : Nat) (f : Fld) (n : Nat) : (s.incWrap pg f n).hostMem = s.hostMem := regs_update_hostMem s _
@[simp] theorem incWrap_cxl (s : State) (pg : Nat) (f : Fld) (n : Nat) : (s.incWrap pg f n).cxl = s.cxl := regs_update_cxl s _
@[simp] theorem incWrap_ce (s : State) (pg : Nat) (f : Fld) (n : Nat) : (s.incWrap pg f n).ce = s.ce := regs_update_ce s _
@[simp] theorem incWrap_als (s : State) (pg : Nat) (f : Fld) (n : Nat) : (s.incWrap pg f n).als = s.als := regs_update_als s _
@[simp] theorem incWrap_dm (s : State) (pg : Nat) (f : Fld) (n : Nat) : (s.incWrap pg f n).dm = s.dm := regs_update_dm s _
@[simp] theorem incWrap_px (s : State) (pg : Nat) (f : Fld) (n : Nat) : (s.incWrap pg f n).px = s.px := regs_update_px s _
@[simp] theorem incWrap_pw (s : State) (pg : Nat) (f : Fld) (n : Nat) : (s.incWrap pg f n).pw = s.pw := regs_update_pw s _
@[simp] theorem incWrap_sc (s : State) (pg : Nat) (f : Fld) (n : Nat) : (s.incWrap pg f n).sc = s.sc := regs_update_sc s _
@[simp] theorem incWrap_now (s : State) (pg : Nat) (f : Fld) (n : Nat) : (s.incWrap pg f n).now = s.now := regs_update_now s _
@[simp] theorem incWrap_free (s : State) (pg : Nat) (f : Fld) (n : Nat) : (s.incWrap pg f n).free = s.free := regs_update_free s _
@[simp] theorem incWrap_out (s : State) (pg : Nat) (f : Fld) (n : Nat) : (s.incWrap pg f n).out = s.out := regs_update_out s _
@[simp] theorem incWrap_pending (s : State) (pg : Nat) (f : Fld) (n : Nat) : (s.incWrap pg f n).pending = s.pending := regs_update_pending s _

@[simp] theorem incSat_staged (s : State) (pg : Nat) (f : Fld) (n : Nat) : (s.incSat pg f n).staged = s.staged := regs_update_staged s _
@[simp] theorem incSat_live (s : State) (pg : Nat) (f : Fld) (n : Nat) : (s.incSat pg f n).live = s.live := regs_update_live s _
@[simp] theorem incSat_tabs (s : State) (pg : Nat) (f : Fld) (n : Nat) : (s.incSat pg f n).tabs = s.tabs := regs_update_tabs s _
@[simp] theorem incSat_bad (s : State) (pg : Nat) (f : Fld) (n : Nat) : (s.incSat pg f n).bad = s.bad := regs_update_bad s _
@[simp] theorem incSat_poison (s : State) (pg : Nat) (f : Fld) (n : Nat) : (s.incSat pg f n).poison = s.poison := regs_update_poison s _
@[simp] theorem incSat_sticky (s : State) (pg : Nat) (f : Fld) (n : Nat) : (s.incSat pg f n).sticky = s.sticky := regs_update_sticky s _
@[simp] theorem incSat_vecs (s : State) (pg : Nat) (f : Fld) (n : Nat) : (s.incSat pg f n).vecs = s.vecs := regs_update_vecs s _
@[simp] theorem incSat_dev (s : State) (pg : Nat) (f : Fld) (n : Nat) : (s.incSat pg f n).dev = s.dev := regs_update_dev s _
@[simp] theorem incSat_lanes (s : State) (pg : Nat) (f : Fld) (n : Nat) : (s.incSat pg f n).lanes = s.lanes := regs_update_lanes s _
@[simp] theorem incSat_refAbsent (s : State) (pg : Nat) (f : Fld) (n : Nat) : (s.incSat pg f n).refAbsent = s.refAbsent := regs_update_refAbsent s _
@[simp] theorem incSat_tbs (s : State) (pg : Nat) (f : Fld) (n : Nat) : (s.incSat pg f n).tbs = s.tbs := regs_update_tbs s _
@[simp] theorem incSat_tbRun (s : State) (pg : Nat) (f : Fld) (n : Nat) : (s.incSat pg f n).tbRun = s.tbRun := regs_update_tbRun s _
@[simp] theorem incSat_pps (s : State) (pg : Nat) (f : Fld) (n : Nat) : (s.incSat pg f n).pps = s.pps := regs_update_pps s _
@[simp] theorem incSat_ppsOn (s : State) (pg : Nat) (f : Fld) (n : Nat) : (s.incSat pg f n).ppsOn = s.ppsOn := regs_update_ppsOn s _
@[simp] theorem incSat_fsyncLast (s : State) (pg : Nat) (f : Fld) (n : Nat) : (s.incSat pg f n).fsyncLast = s.fsyncLast := regs_update_fsyncLast s _
@[simp] theorem incSat_bp (s : State) (pg : Nat) (f : Fld) (n : Nat) : (s.incSat pg f n).bp = s.bp := regs_update_bp s _
@[simp] theorem incSat_tm (s : State) (pg : Nat) (f : Fld) (n : Nat) : (s.incSat pg f n).tm = s.tm := regs_update_tm s _
@[simp] theorem incSat_gl (s : State) (pg : Nat) (f : Fld) (n : Nat) : (s.incSat pg f n).gl = s.gl := regs_update_gl s _
@[simp] theorem incSat_pes (s : State) (pg : Nat) (f : Fld) (n : Nat) : (s.incSat pg f n).pes = s.pes := regs_update_pes s _
@[simp] theorem incSat_gps (s : State) (pg : Nat) (f : Fld) (n : Nat) : (s.incSat pg f n).gps = s.gps := regs_update_gps s _
@[simp] theorem incSat_keys (s : State) (pg : Nat) (f : Fld) (n : Nat) : (s.incSat pg f n).keys = s.keys := regs_update_keys s _
@[simp] theorem incSat_lookups (s : State) (pg : Nat) (f : Fld) (n : Nat) : (s.incSat pg f n).lookups = s.lookups := regs_update_lookups s _
@[simp] theorem incSat_lk (s : State) (pg : Nat) (f : Fld) (n : Nat) : (s.incSat pg f n).lk = s.lk := regs_update_lk s _
@[simp] theorem incSat_ul (s : State) (pg : Nat) (f : Fld) (n : Nat) : (s.incSat pg f n).ul = s.ul := regs_update_ul s _
@[simp] theorem incSat_hx (s : State) (pg : Nat) (f : Fld) (n : Nat) : (s.incSat pg f n).hx = s.hx := regs_update_hx s _
@[simp] theorem incSat_mx (s : State) (pg : Nat) (f : Fld) (n : Nat) : (s.incSat pg f n).mx = s.mx := regs_update_mx s _
@[simp] theorem incSat_hostMem (s : State) (pg : Nat) (f : Fld) (n : Nat) : (s.incSat pg f n).hostMem = s.hostMem := regs_update_hostMem s _
@[simp] theorem incSat_cxl (s : State) (pg : Nat) (f : Fld) (n : Nat) : (s.incSat pg f n).cxl = s.cxl := regs_update_cxl s _
@[simp] theorem incSat_ce (s : State) (pg : Nat) (f : Fld) (n : Nat) : (s.incSat pg f n).ce = s.ce := regs_update_ce s _
@[simp] theorem incSat_als (s : State) (pg : Nat) (f : Fld) (n : Nat) : (s.incSat pg f n).als = s.als := regs_update_als s _
@[simp] theorem incSat_dm (s : State) (pg : Nat) (f : Fld) (n : Nat) : (s.incSat pg f n).dm = s.dm := regs_update_dm s _
@[simp] theorem incSat_px (s : State) (pg : Nat) (f : Fld) (n : Nat) : (s.incSat pg f n).px = s.px := regs_update_px s _
@[simp] theorem incSat_pw (s : State) (pg : Nat) (f : Fld) (n : Nat) : (s.incSat pg f n).pw = s.pw := regs_update_pw s _
@[simp] theorem incSat_sc (s : State) (pg : Nat) (f : Fld) (n : Nat) : (s.incSat pg f n).sc = s.sc := regs_update_sc s _
@[simp] theorem incSat_now (s : State) (pg : Nat) (f : Fld) (n : Nat) : (s.incSat pg f n).now = s.now := regs_update_now s _
@[simp] theorem incSat_free (s : State) (pg : Nat) (f : Fld) (n : Nat) : (s.incSat pg f n).free = s.free := regs_update_free s _
@[simp] theorem incSat_out (s : State) (pg : Nat) (f : Fld) (n : Nat) : (s.incSat pg f n).out = s.out := regs_update_out s _
@[simp] theorem incSat_pending (s : State) (pg : Nat) (f : Fld) (n : Nat) : (s.incSat pg f n).pending = s.pending := regs_update_pending s _

@[simp] theorem setEnt_regs (s : State) (pg tid i : Nat) (e : Entry) : (s.setEnt pg tid i e).regs = s.regs := tabs_update_regs s _
@[simp] theorem setEnt_staged (s : State) (pg tid i : Nat) (e : Entry) : (s.setEnt pg tid i e).staged = s.staged := tabs_update_staged s _
@[simp] theorem setEnt_live (s : State) (pg tid i : Nat) (e : Entry) : (s.setEnt pg tid i e).live = s.live := tabs_update_live s _
@[simp] theorem setEnt_bad (s : State) (pg tid i : Nat) (e : Entry) : (s.setEnt pg tid i e).bad = s.bad := tabs_update_bad s _
@[simp] theorem setEnt_poison (s : State) (pg tid i : Nat) (e : Entry) : (s.setEnt pg tid i e).poison = s.poison := tabs_update_poison s _
@[simp] theorem setEnt_sticky (s : State) (pg tid i : Nat) (e : Entry) : (s.setEnt pg tid i e).sticky = s.sticky := tabs_update_sticky s _
@[simp] theorem setEnt_vecs (s : State) (pg tid i : Nat) (e : Entry) : (s.setEnt pg tid i e).vecs = s.vecs := tabs_update_vecs s _
@[simp] theorem setEnt_dev (s : State) (pg tid i : Nat) (e : Entry) : (s.setEnt pg tid i e).dev = s.dev := tabs_update_dev s _
@[simp] theorem setEnt_lanes (s : State) (pg tid i : Nat) (e : Entry) : (s.setEnt pg tid i e).lanes = s.lanes := tabs_update_lanes s _
@[simp] theorem setEnt_refAbsent (s : State) (pg tid i : Nat) (e : Entry) : (s.setEnt pg tid i e).refAbsent = s.refAbsent := tabs_update_refAbsent s _
@[simp] theorem setEnt_tbs (s : State) (pg tid i : Nat) (e : Entry) : (s.setEnt pg tid i e).tbs = s.tbs := tabs_update_tbs s _
@[simp] theorem setEnt_tbRun (s : State) (pg tid i : Nat) (e : Entry) : (s.setEnt pg tid i e).tbRun = s.tbRun := tabs_update_tbRun s _
@[simp] theorem setEnt_pps (s : State) (pg tid i : Nat) (e : Entry) : (s.setEnt pg tid i e).pps = s.pps := tabs_update_pps s _
@[simp] theorem setEnt_ppsOn (s : State) (pg tid i : Nat) (e : Entry) : (s.setEnt pg tid i e).ppsOn = s.ppsOn := tabs_update_ppsOn s _
@[simp] theorem setEnt_fsyncLast (s : State) (pg tid i : Nat) (e : Entry) : (s.setEnt pg tid i e).fsyncLast = s.fsyncLast := tabs_update_fsyncLast s _
@[simp] theorem setEnt_bp (s : State) (pg tid i : Nat) (e : Entry) : (s.setEnt pg tid i e).bp = s.bp := tabs_update_bp s _
@[simp] theorem setEnt_tm (s : State) (pg tid i : Nat) (e : Entry) : (s.setEnt pg tid i e).tm = s.tm := tabs_update_tm s _
@[simp] theorem setEnt_gl (s : State) (pg tid i : Nat) (e : Entry) : (s.setEnt pg tid i e).gl = s.gl := tabs_update_gl s _
@[simp] theorem setEnt_pes (s : State) (pg tid i : Nat) (e : Entry) : (s.setEnt pg tid i e).pes = s.pes := tabs_update_pes s _
@[simp] theorem setEnt_gps (s : State) (pg tid i : Nat) (e : Entry) : (s.setEnt pg tid i e).gps = s.gps := tabs_update_gps s _
@[simp] theorem setEnt_keys (s : State) (pg tid i : Nat) (e : Entry) : (s.setEnt pg tid i e).keys = s.keys := tabs_update_keys s _
@[simp] theorem setEnt_lookups (s : State) (pg tid i : Nat) (e : Entry) : (s.setEnt pg tid i e).lookups = s.lookups := tabs_update_lookups s _
@[simp] theorem setEnt_lk (s : State) (pg tid i : Nat) (e : Entry) : (s.setEnt pg tid i e).lk = s.lk := tabs_update_lk s _
@[simp] theorem setEnt_ul (s : State) (pg tid i : Nat) (e : Entry) : (s.setEnt pg tid i e).ul = s.ul := tabs_update_ul s _
@[simp] theorem setEnt_hx (s : State) (pg tid i : Nat) (e : Entry) : (s.setEnt pg tid i e).hx = s.hx := tabs_update_hx s _
@[simp] theorem setEnt_mx (s : State) (pg tid i : Nat) (e : Entry) : (s.setEnt pg tid i e).mx = s.mx := tabs_update_mx s _
@[simp] theorem setEnt_hostMem (s : State) (pg tid i : Nat) (e : Entry) : (s.setEnt pg tid i e).hostMem = s.hostMem := tabs_update_hostMem s _
@[simp] theorem setEnt_cxl (s : State) (pg tid i : Nat) (e : Entry) : (s.setEnt pg tid i e).cxl = s.cxl := tabs_update_cxl s _
@[simp] theorem setEnt_ce (s : State) (pg tid i : Nat) (e : Entry) : (s.setEnt pg tid i e).ce = s.ce := tabs_update_ce s _
@[simp] theorem setEnt_als (s : State) (pg tid i : Nat) (e : Entry) : (s.setEnt pg tid i e).als = s.als := tabs_update_als s _
@[simp] theorem setEnt_dm (s : State) (pg tid i : Nat) (e : Entry) : (s.setEnt pg tid i e).dm = s.dm := tabs_update_dm s _
@[simp] theorem setEnt_px (s : State) (pg tid i : Nat) (e : Entry) : (s.setEnt pg tid i e).px = s.px := tabs_update_px s _
@[simp] theorem setEnt_pw (s : State) (pg tid i : Nat) (e : Entry) : (s.setEnt pg tid i e).pw = s.pw := tabs_update_pw s _
@[simp] theorem setEnt_sc (s : State) (pg tid i : Nat) (e : Entry) : (s.setEnt pg tid i e).sc = s.sc := tabs_update_sc s _
@[simp] theorem setEnt_now (s : State) (pg tid i : Nat) (e : Entry) : (s.setEnt pg tid i e).now = s.now := tabs_update_now s _
@[simp] theorem setEnt_free (s : State) (pg tid i : Nat) (e : Entry) : (s.setEnt pg tid i e).free = s.free := tabs_update_free s _
@[simp] theorem setEnt_out (s : State) (pg tid i : Nat) (e : Entry) : (s.setEnt pg tid i e).out = s.out := tabs_update_out s _
@[simp] theorem setEnt_pending (s : State) (pg tid i : Nat) (e : Entry) : (s.setEnt pg tid i e).pending = s.pending := tabs_update_pending s _

@[simp] theorem putE_regs (s : State) (pg tid i : Nat) (f : TF) (v : Nat) : (s.putE pg tid i f v).regs = s.regs := tabs_update_regs s _
@[simp] theorem putE_staged (s : State) (pg tid i : Nat) (f : TF) (v : Nat) : (s.putE pg tid i f v).staged = s.staged := tabs_update_staged s _
@[simp] theorem putE_live (s : State) (pg tid i : Nat) (f : TF) (v : Nat) : (s.putE pg tid i f v).live = s.live := tabs_update_live s _
@[simp] theorem putE_bad (s : State) (pg tid i : Nat) (f : TF) (v : Nat) : (s.putE pg tid i f v).bad = s.bad := tabs_update_bad s _
@[simp] theorem putE_poison (s : State) (pg tid i : Nat) (f : TF) (v : Nat) : (s.putE pg tid i f v).poison = s.poison := tabs_update_poison s _
@[simp] theorem putE_sticky (s : State) (pg tid i : Nat) (f : TF) (v : Nat) : (s.putE pg tid i f v).sticky = s.sticky := tabs_update_sticky s _
@[simp] theorem putE_vecs (s : State) (pg tid i : Nat) (f : TF) (v : Nat) : (s.putE pg tid i f v).vecs = s.vecs := tabs_update_vecs s _
@[simp] theorem putE_dev (s : State) (pg tid i : Nat) (f : TF) (v : Nat) : (s.putE pg tid i f v).dev = s.dev := tabs_update_dev s _
@[simp] theorem putE_lanes (s : State) (pg tid i : Nat) (f : TF) (v : Nat) : (s.putE pg tid i f v).lanes = s.lanes := tabs_update_lanes s _
@[simp] theorem putE_refAbsent (s : State) (pg tid i : Nat) (f : TF) (v : Nat) : (s.putE pg tid i f v).refAbsent = s.refAbsent := tabs_update_refAbsent s _
@[simp] theorem putE_tbs (s : State) (pg tid i : Nat) (f : TF) (v : Nat) : (s.putE pg tid i f v).tbs = s.tbs := tabs_update_tbs s _
@[simp] theorem putE_tbRun (s : State) (pg tid i : Nat) (f : TF) (v : Nat) : (s.putE pg tid i f v).tbRun = s.tbRun := tabs_update_tbRun s _
@[simp] theorem putE_pps (s : State) (pg tid i : Nat) (f : TF) (v : Nat) : (s.putE pg tid i f v).pps = s.pps := tabs_update_pps s _
@[simp] theorem putE_ppsOn (s : State) (pg tid i : Nat) (f : TF) (v : Nat) : (s.putE pg tid i f v).ppsOn = s.ppsOn := tabs_update_ppsOn s _
@[simp] theorem putE_fsyncLast (s : State) (pg tid i : Nat) (f : TF) (v : Nat) : (s.putE pg tid i f v).fsyncLast = s.fsyncLast := tabs_update_fsyncLast s _
@[simp] theorem putE_bp (s : State) (pg tid i : Nat) (f : TF) (v : Nat) : (s.putE pg tid i f v).bp = s.bp := tabs_update_bp s _
@[simp] theorem putE_tm (s : State) (pg tid i : Nat) (f : TF) (v : Nat) : (s.putE pg tid i f v).tm = s.tm := tabs_update_tm s _
@[simp] theorem putE_gl (s : State) (pg tid i : Nat) (f : TF) (v : Nat) : (s.putE pg tid i f v).gl = s.gl := tabs_update_gl s _
@[simp] theorem putE_pes (s : State) (pg tid i : Nat) (f : TF) (v : Nat) : (s.putE pg tid i f v).pes = s.pes := tabs_update_pes s _
@[simp] theorem putE_gps (s : State) (pg tid i : Nat) (f : TF) (v : Nat) : (s.putE pg tid i f v).gps = s.gps := tabs_update_gps s _
@[simp] theorem putE_keys (s : State) (pg tid i : Nat) (f : TF) (v : Nat) : (s.putE pg tid i f v).keys = s.keys := tabs_update_keys s _
@[simp] theorem putE_lookups (s : State) (pg tid i : Nat) (f : TF) (v : Nat) : (s.putE pg tid i f v).lookups = s.lookups := tabs_update_lookups s _
@[simp] theorem putE_lk (s : State) (pg tid i : Nat) (f : TF) (v : Nat) : (s.putE pg tid i f v).lk = s.lk := tabs_update_lk s _
@[simp] theorem putE_ul (s : State) (pg tid i : Nat) (f : TF) (v : Nat) : (s.putE pg tid i f v).ul = s.ul := tabs_update_ul s _
@[simp] theorem putE_hx (s : State) (pg tid i : Nat) (f : TF) (v : Nat) : (s.putE pg tid i f v).hx = s.hx := tabs_update_hx s _
@[simp] theorem putE_mx (s : State) (pg tid i : Nat) (f : TF) (v : Nat) : (s.putE pg tid i f v).mx = s.mx := tabs_update_mx s _
@[simp] theorem putE_hostMem (s : State) (pg tid i : Nat) (f : TF) (v : Nat) : (s.putE pg tid i f v).hostMem = s.hostMem := tabs_update_hostMem s _
@[simp] theorem putE_cxl (s : State) (pg tid i : Nat) (f : TF) (v : Nat) : (s.putE pg tid i f v).cxl = s.cxl := tabs_update_cxl s _
@[simp] theorem putE_ce (s : State) (pg tid i : Nat) (f : TF) (v : Nat) : (s.putE pg tid i f v).ce = s.ce := tabs_update_ce s _
@[simp] theorem putE_als (s : State) (pg tid i : Nat) (f : TF) (v : Nat) : (s.putE pg tid i f v).als = s.als := tabs_update_als s _
@[simp] theorem putE_dm (s : State) (pg tid i : Nat) (f : TF) (v : Nat) : (s.putE pg tid i f v).dm = s.dm := tabs_update_dm s _
@[simp] theorem putE_px (s : State) (pg tid i : Nat) (f : TF) (v : Nat) : (s.putE pg tid i f v).px = s.px := tabs_update_px s _
@[simp] theorem putE_pw (s : State) (pg tid i : Nat) (f : TF) (v : Nat) : (s.putE pg tid i f v).pw = s.pw := tabs_update_pw s _
@[simp] theorem putE_sc (s : State) (pg tid i : Nat) (f : TF) (v : Nat) : (s.putE pg tid i f v).sc = s.sc := tabs_update_sc s _
@[simp] theorem putE_now (s : State) (pg tid i : Nat) (f : TF) (v : Nat) : (s.putE pg tid i f v).now = s.now := tabs_update_now s _
@[simp] theorem putE_free (s : State) (pg tid i : Nat) (f : TF) (v : Nat) : (s.putE pg tid i f v).free = s.free := tabs_update_free s _
@[simp] theorem putE_out (s : State) (pg tid i : Nat) (f : TF) (v : Nat) : (s.putE pg tid i f v).out = s.out := tabs_update_out s _
@[simp] theorem putE_pending (s : State) (pg tid i : Nat) (f : TF) (v : Nat) : (s.putE pg tid i f v).pending = s.pending := tabs_update_pending s _

@[simp] theorem bump_regs (s : State) (pg : Nat) (c : Ctr) (n : Nat) : (s.bump pg c n).regs = s.regs := live_update_regs s _
@[simp] theorem bump_staged (s : State) (pg : Nat) (c : Ctr) (n : Nat) : (s.bump pg c n).staged = s.staged := live_update_staged s _
@[simp] theorem bump_tabs (s : State) (pg : Nat) (c : Ctr) (n : Nat) : (s.bump pg c n).tabs = s.tabs := live_update_tabs s _
@[simp] theorem bump_bad (s : State) (pg : Nat) (c : Ctr) (n : Nat) : (s.bump pg c n).bad = s.bad := live_update_bad s _
@[simp] theorem bump_poison (s : State) (pg : Nat) (c : Ctr) (n : Nat) : (s.bump pg c n).poison = s.poison := live_update_poison s _
@[simp] theorem bump_sticky (s : State) (pg : Nat) (c : Ctr) (n : Nat) : (s.bump pg c n).sticky = s.sticky := live_update_sticky s _
@[simp] theorem bump_vecs (s : State) (pg : Nat) (c : Ctr) (n : Nat) : (s.bump pg c n).vecs = s.vecs := live_update_vecs s _
@[simp] theorem bump_dev (s : State) (pg : Nat) (c : Ctr) (n : Nat) : (s.bump pg c n).dev = s.dev := live_update_dev s _
@[simp] theorem bump_lanes (s : State) (pg : Nat) (c : Ctr) (n : Nat) : (s.bump pg c n).lanes = s.lanes := live_update_lanes s _
@[simp] theorem bump_refAbsent (s : State) (pg : Nat) (c : Ctr) (n : Nat) : (s.bump pg c n).refAbsent = s.refAbsent := live_update_refAbsent s _
@[simp] theorem bump_tbs (s : State) (pg : Nat) (c : Ctr) (n : Nat) : (s.bump pg c n).tbs = s.tbs := live_update_tbs s _
@[simp] theorem bump_tbRun (s : State) (pg : Nat) (c : Ctr) (n : Nat) : (s.bump pg c n).tbRun = s.tbRun := live_update_tbRun s _
@[simp] theorem bump_pps (s : State) (pg : Nat) (c : Ctr) (n : Nat) : (s.bump pg c n).pps = s.pps := live_update_pps s _
@[simp] theorem bump_ppsOn (s : State) (pg : Nat) (c : Ctr) (n : Nat) : (s.bump pg c n).ppsOn = s.ppsOn := live_update_ppsOn s _
@[simp] theorem bump_fsyncLast (s : State) (pg : Nat) (c : Ctr) (n : Nat) : (s.bump pg c n).fsyncLast = s.fsyncLast := live_update_fsyncLast s _
@[simp] theorem bump_bp (s : State) (pg : Nat) (c : Ctr) (n : Nat) : (s.bump pg c n).bp = s.bp := live_update_bp s _
@[simp] theorem bump_tm (s : State) (pg : Nat) (c : Ctr) (n : Nat) : (s.bump pg c n).tm = s.tm := live_update_tm s _
@[simp] theorem bump_gl (s : State) (pg : Nat) (c : Ctr) (n : Nat) : (s.bump pg c n).gl = s.gl := live_update_gl s _
@[simp] theorem bump_pes (s : State) (pg : Nat) (c : Ctr) (n : Nat) : (s.bump pg c n).pes = s.pes := live_update_pes s _
@[simp] theorem bump_gps (s : State) (pg : Nat) (c : Ctr) (n : Nat) : (s.bump pg c n).gps = s.gps := live_update_gps s _
@[simp] theorem bump_keys (s : State) (pg : Nat) (c : Ctr) (n : Nat) : (s.bump pg c n).keys = s.keys := live_update_keys s _
@[simp] theorem bump_lookups (s : State) (pg : Nat) (c : Ctr) (n : Nat) : (s.bump pg c n).lookups = s.lookups := live_update_lookups s _
@[simp] theorem bump_lk (s : State) (pg : Nat) (c : Ctr) (n : Nat) : (s.bump pg c n).lk = s.lk := live_update_lk s _
@[simp] theorem bump_ul (s : State) (pg : Nat) (c : Ctr) (n : Nat) : (s.bump pg c n).ul = s.ul := live_update_ul s _
@[simp] theorem bump_hx (s : State) (pg : Nat) (c : Ctr) (n : Nat) : (s.bump pg c n).hx = s.hx := live_update_hx s _
@[simp] theorem bump_mx (s : State) (pg : Nat) (c : Ctr) (n : Nat) : (s.bump pg c n).mx = s.mx := live_update_mx s _
@[simp] theorem bump_hostMem (s : State) (pg : Nat) (c : Ctr) (n : Nat) : (s.bump pg c n).hostMem = s.hostMem := live_update_hostMem s _
@[simp] theorem bump_cxl (s : State) (pg : Nat) (c : Ctr) (n : Nat) : (s.bump pg c n).cxl = s.cxl := live_update_cxl s _
@[simp] theorem bump_ce (s : State) (pg : Nat) (c : Ctr) (n : Nat) : (s.bump pg c n).ce = s.ce := live_update_ce s _
@[simp] theorem bump_als (s : State) (pg : Nat) (c : Ctr) (n : Nat) : (s.bump pg c n).als = s.als := live_update_als s _
@[simp] theorem bump_dm (s : State) (pg : Nat) (c : Ctr) (n : Nat) : (s.bump pg c n).dm = s.dm := live_update_dm s _
@[simp] theorem bump_px (s : State) (pg : Nat) (c : Ctr) (n : Nat) : (s.bump pg c n).px = s.px := live_update_px s _
@[simp] theorem bump_pw (s : State) (pg : Nat) (c : Ctr) (n : Nat) : (s.bump pg c n).pw = s.pw := live_update_pw s _
@[simp] theorem bump_sc (s : State) (pg : Nat) (c : Ctr) (n : Nat) : (s.bump pg c n).sc = s.sc := live_update_sc s _
@[simp] theorem bump_now (s : State) (pg : Nat) (c : Ctr) (n : Nat) : (s.bump pg c n).now = s.now := live_update_now s _
@[simp] theorem bump_free (s : State) (pg : Nat) (c : Ctr) (n : Nat) : (s.bump pg c n).free = s.free := live_update_free s _
@[simp] theorem bump_out (s : State) (pg : Nat) (c : Ctr) (n : Nat) : (s.bump pg c n).out = s.out := live_update_out s _
@[simp] theorem bump_pending (s : State) (pg : Nat) (c : Ctr) (n : Nat) : (s.bump pg c n).pending = s.pending := live_update_pending s _

@[simp] theorem emit_regs (s : State) (o : Output) : (s.emit o).regs = s.regs := out_update_regs s _
@[simp] theorem emit_staged (s : State) (o : Output) : (s.emit o).staged = s.staged := out_update_staged s _
@[simp] theorem emit_live (s : State) (o : Output) : (s.emit o).live = s.live := out_update_live s _
@[simp] theorem emit_tabs (s : State) (o : Output) : (s.emit o).tabs = s.tabs := out_update_tabs s _
@[simp] theorem emit_bad (s : State) (o : Output) : (s.emit o).bad = s.bad := out_update_bad s _
@[simp] theorem emit_poison (s : State) (o : Output) : (s.emit o).poison = s.poison := out_update_poison s _
@[simp] theorem emit_sticky (s : State) (o : Output) : (s.emit o).sticky = s.sticky := out_update_sticky s _
@[simp] theorem emit_vecs (s : State) (o : Output) : (s.emit o).vecs = s.vecs := out_update_vecs s _
@[simp] theorem emit_dev (s : State) (o : Output) : (s.emit o).dev = s.dev := out_update_dev s _
@[simp] theorem emit_lanes (s : State) (o : Output) : (s.emit o).lanes = s.lanes := out_update_lanes s _
@[simp] theorem emit_refAbsent (s : State) (o : Output) : (s.emit o).refAbsent = s.refAbsent := out_update_refAbsent s _
@[simp] theorem emit_tbs (s : State) (o : Output) : (s.emit o).tbs = s.tbs := out_update_tbs s _
@[simp] theorem emit_tbRun (s : State) (o : Output) : (s.emit o).tbRun = s.tbRun := out_update_tbRun s _
@[simp] theorem emit_pps (s : State) (o : Output) : (s.emit o).pps = s.pps := out_update_pps s _
@[simp] theorem emit_ppsOn (s : State) (o : Output) : (s.emit o).ppsOn = s.ppsOn := out_update_ppsOn s _
@[simp] theorem emit_fsyncLast (s : State) (o : Output) : (s.emit o).fsyncLast = s.fsyncLast := out_update_fsyncLast s _
@[simp] theorem emit_bp (s : State) (o : Output) : (s.emit o).bp = s.bp := out_update_bp s _
@[simp] theorem emit_tm (s : State) (o : Output) : (s.emit o).tm = s.tm := out_update_tm s _
@[simp] theorem emit_gl (s : State) (o : Output) : (s.emit o).gl = s.gl := out_update_gl s _
@[simp] theorem emit_pes (s : State) (o : Output) : (s.emit o).pes = s.pes := out_update_pes s _
@[simp] theorem emit_gps (s : State) (o : Output) : (s.emit o).gps = s.gps := out_update_gps s _
@[simp] theorem emit_keys (s : State) (o : Output) : (s.emit o).keys = s.keys := out_update_keys s _
@[simp] theorem emit_lookups (s : State) (o : Output) : (s.emit o).lookups = s.lookups := out_update_lookups s _
@[simp] theorem emit_lk (s : State) (o : Output) : (s.emit o).lk = s.lk := out_update_lk s _
@[simp] theorem emit_ul (s : State) (o : Output) : (s.emit o).ul = s.ul := out_update_ul s _
@[simp] theorem emit_hx (s : State) (o : Output) : (s.emit o).hx = s.hx := out_update_hx s _
@[simp] theorem emit_mx (s : State) (o : Output) : (s.emit o).mx = s.mx := out_update_mx s _
@[simp] theorem emit_hostMem (s : State) (o : Output) : (s.emit o).hostMem = s.hostMem := out_update_hostMem s _
@[simp] theorem emit_cxl (s : State) (o : Output) : (s.emit o).cxl = s.cxl := out_update_cxl s _
@[simp] theorem emit_ce (s : State) (o : Output) : (s.emit o).ce = s.ce := out_update_ce s _
@[simp] theorem emit_als (s : State) (o : Output) : (s.emit o).als = s.als := out_update_als s _
@[simp] theorem emit_dm (s : State) (o : Output) : (s.emit o).dm = s.dm := out_update_dm s _
@[simp] theorem emit_px (s : State) (o : Output) : (s.emit o).px = s.px := out_update_px s _
@[simp] theorem emit_pw (s : State) (o : Output) : (s.emit o).pw = s.pw := out_update_pw s _
@[simp] theorem emit_sc (s : State) (o : Output) : (s.emit o).sc = s.sc := out_update_sc s _
@[simp] theorem emit_now (s : State) (o : Output) : (s.emit o).now = s.now := out_update_now s _
@[simp] theorem emit_free (s : State) (o : Output) : (s.emit o).free = s.free := out_update_free s _
@[simp] theorem emit_pending (s : State) (o : Output) : (s.emit o).pending = s.pending := out_update_pending s _

@[simp] theorem setVec_regs (s : State) (fn v : Nat) (x : Vec) : (s.setVec fn v x).regs = s.regs := vecs_update_regs s _
@[simp] theorem setVec_staged (s : State) (fn v : Nat) (x : Vec) : (s.setVec fn v x).staged = s.staged := vecs_update_staged s _
@[simp] theorem setVec_live (s : State) (fn v : Nat) (x : Vec) : (s.setVec fn v x).live = s.live := vecs_update_live s _
@[simp] theorem setVec_tabs (s : State) (fn v : Nat) (x : Vec) : (s.setVec fn v x).tabs = s.tabs := vecs_update_tabs s _
@[simp] theorem setVec_bad (s : State) (fn v : Nat) (x : Vec) : (s.setVec fn v x).bad = s.bad := vecs_update_bad s _
@[simp] theorem setVec_poison (s : State) (fn v : Nat) (x : Vec) : (s.setVec fn v x).poison = s.poison := vecs_update_poison s _
@[simp] theorem setVec_sticky (s : State) (fn v : Nat) (x : Vec) : (s.setVec fn v x).sticky = s.sticky := vecs_update_sticky s _
@[simp] theorem setVec_dev (s : State) (fn v : Nat) (x : Vec) : (s.setVec fn v x).dev = s.dev := vecs_update_dev s _
@[simp] theorem setVec_lanes (s : State) (fn v : Nat) (x : Vec) : (s.setVec fn v x).lanes = s.lanes := vecs_update_lanes s _
@[simp] theorem setVec_refAbsent (s : State) (fn v : Nat) (x : Vec) : (s.setVec fn v x).refAbsent = s.refAbsent := vecs_update_refAbsent s _
@[simp] theorem setVec_tbs (s : State) (fn v : Nat) (x : Vec) : (s.setVec fn v x).tbs = s.tbs := vecs_update_tbs s _
@[simp] theorem setVec_tbRun (s : State) (fn v : Nat) (x : Vec) : (s.setVec fn v x).tbRun = s.tbRun := vecs_update_tbRun s _
@[simp] theorem setVec_pps (s : State) (fn v : Nat) (x : Vec) : (s.setVec fn v x).pps = s.pps := vecs_update_pps s _
@[simp] theorem setVec_ppsOn (s : State) (fn v : Nat) (x : Vec) : (s.setVec fn v x).ppsOn = s.ppsOn := vecs_update_ppsOn s _
@[simp] theorem setVec_fsyncLast (s : State) (fn v : Nat) (x : Vec) : (s.setVec fn v x).fsyncLast = s.fsyncLast := vecs_update_fsyncLast s _
@[simp] theorem setVec_bp (s : State) (fn v : Nat) (x : Vec) : (s.setVec fn v x).bp = s.bp := vecs_update_bp s _
@[simp] theorem setVec_tm (s : State) (fn v : Nat) (x : Vec) : (s.setVec fn v x).tm = s.tm := vecs_update_tm s _
@[simp] theorem setVec_gl (s : State) (fn v : Nat) (x : Vec) : (s.setVec fn v x).gl = s.gl := vecs_update_gl s _
@[simp] theorem setVec_pes (s : State) (fn v : Nat) (x : Vec) : (s.setVec fn v x).pes = s.pes := vecs_update_pes s _
@[simp] theorem setVec_gps (s : State) (fn v : Nat) (x : Vec) : (s.setVec fn v x).gps = s.gps := vecs_update_gps s _
@[simp] theorem setVec_keys (s : State) (fn v : Nat) (x : Vec) : (s.setVec fn v x).keys = s.keys := vecs_update_keys s _
@[simp] theorem setVec_lookups (s : State) (fn v : Nat) (x : Vec) : (s.setVec fn v x).lookups = s.lookups := vecs_update_lookups s _
@[simp] theorem setVec_lk (s : State) (fn v : Nat) (x : Vec) : (s.setVec fn v x).lk = s.lk := vecs_update_lk s _
@[simp] theorem setVec_ul (s : State) (fn v : Nat) (x : Vec) : (s.setVec fn v x).ul = s.ul := vecs_update_ul s _
@[simp] theorem setVec_hx (s : State) (fn v : Nat) (x : Vec) : (s.setVec fn v x).hx = s.hx := vecs_update_hx s _
@[simp] theorem setVec_mx (s : State) (fn v : Nat) (x : Vec) : (s.setVec fn v x).mx = s.mx := vecs_update_mx s _
@[simp] theorem setVec_hostMem (s : State) (fn v : Nat) (x : Vec) : (s.setVec fn v x).hostMem = s.hostMem := vecs_update_hostMem s _
@[simp] theorem setVec_cxl (s : State) (fn v : Nat) (x : Vec) : (s.setVec fn v x).cxl = s.cxl := vecs_update_cxl s _
@[simp] theorem setVec_ce (s : State) (fn v : Nat) (x : Vec) : (s.setVec fn v x).ce = s.ce := vecs_update_ce s _
@[simp] theorem setVec_als (s : State) (fn v : Nat) (x : Vec) : (s.setVec fn v x).als = s.als := vecs_update_als s _
@[simp] theorem setVec_dm (s : State) (fn v : Nat) (x : Vec) : (s.setVec fn v x).dm = s.dm := vecs_update_dm s _
@[simp] theorem setVec_px (s : State) (fn v : Nat) (x : Vec) : (s.setVec fn v x).px = s.px := vecs_update_px s _
@[simp] theorem setVec_pw (s : State) (fn v : Nat) (x : Vec) : (s.setVec fn v x).pw = s.pw := vecs_update_pw s _
@[simp] theorem setVec_sc (s : State) (fn v : Nat) (x : Vec) : (s.setVec fn v x).sc = s.sc := vecs_update_sc s _
@[simp] theorem setVec_now (s : State) (fn v : Nat) (x : Vec) : (s.setVec fn v x).now = s.now := vecs_update_now s _
@[simp] theorem setVec_free (s : State) (fn v : Nat) (x : Vec) : (s.setVec fn v x).free = s.free := vecs_update_free s _
@[simp] theorem setVec_out (s : State) (fn v : Nat) (x : Vec) : (s.setVec fn v x).out = s.out := vecs_update_out s _
@[simp] theorem setVec_pending (s : State) (fn v : Nat) (x : Vec) : (s.setVec fn v x).pending = s.pending := vecs_update_pending s _

@[simp] theorem setTb_regs (s : State) (n : Nat) (b : TimeBase) : (s.setTb n b).regs = s.regs := tbs_update_regs s _
@[simp] theorem setTb_staged (s : State) (n : Nat) (b : TimeBase) : (s.setTb n b).staged = s.staged := tbs_update_staged s _
@[simp] theorem setTb_live (s : State) (n : Nat) (b : TimeBase) : (s.setTb n b).live = s.live := tbs_update_live s _
@[simp] theorem setTb_tabs (s : State) (n : Nat) (b : TimeBase) : (s.setTb n b).tabs = s.tabs := tbs_update_tabs s _
@[simp] theorem setTb_bad (s : State) (n : Nat) (b : TimeBase) : (s.setTb n b).bad = s.bad := tbs_update_bad s _
@[simp] theorem setTb_poison (s : State) (n : Nat) (b : TimeBase) : (s.setTb n b).poison = s.poison := tbs_update_poison s _
@[simp] theorem setTb_sticky (s : State) (n : Nat) (b : TimeBase) : (s.setTb n b).sticky = s.sticky := tbs_update_sticky s _
@[simp] theorem setTb_vecs (s : State) (n : Nat) (b : TimeBase) : (s.setTb n b).vecs = s.vecs := tbs_update_vecs s _
@[simp] theorem setTb_dev (s : State) (n : Nat) (b : TimeBase) : (s.setTb n b).dev = s.dev := tbs_update_dev s _
@[simp] theorem setTb_lanes (s : State) (n : Nat) (b : TimeBase) : (s.setTb n b).lanes = s.lanes := tbs_update_lanes s _
@[simp] theorem setTb_refAbsent (s : State) (n : Nat) (b : TimeBase) : (s.setTb n b).refAbsent = s.refAbsent := tbs_update_refAbsent s _
@[simp] theorem setTb_tbRun (s : State) (n : Nat) (b : TimeBase) : (s.setTb n b).tbRun = s.tbRun := tbs_update_tbRun s _
@[simp] theorem setTb_pps (s : State) (n : Nat) (b : TimeBase) : (s.setTb n b).pps = s.pps := tbs_update_pps s _
@[simp] theorem setTb_ppsOn (s : State) (n : Nat) (b : TimeBase) : (s.setTb n b).ppsOn = s.ppsOn := tbs_update_ppsOn s _
@[simp] theorem setTb_fsyncLast (s : State) (n : Nat) (b : TimeBase) : (s.setTb n b).fsyncLast = s.fsyncLast := tbs_update_fsyncLast s _
@[simp] theorem setTb_bp (s : State) (n : Nat) (b : TimeBase) : (s.setTb n b).bp = s.bp := tbs_update_bp s _
@[simp] theorem setTb_tm (s : State) (n : Nat) (b : TimeBase) : (s.setTb n b).tm = s.tm := tbs_update_tm s _
@[simp] theorem setTb_gl (s : State) (n : Nat) (b : TimeBase) : (s.setTb n b).gl = s.gl := tbs_update_gl s _
@[simp] theorem setTb_pes (s : State) (n : Nat) (b : TimeBase) : (s.setTb n b).pes = s.pes := tbs_update_pes s _
@[simp] theorem setTb_gps (s : State) (n : Nat) (b : TimeBase) : (s.setTb n b).gps = s.gps := tbs_update_gps s _
@[simp] theorem setTb_keys (s : State) (n : Nat) (b : TimeBase) : (s.setTb n b).keys = s.keys := tbs_update_keys s _
@[simp] theorem setTb_lookups (s : State) (n : Nat) (b : TimeBase) : (s.setTb n b).lookups = s.lookups := tbs_update_lookups s _
@[simp] theorem setTb_lk (s : State) (n : Nat) (b : TimeBase) : (s.setTb n b).lk = s.lk := tbs_update_lk s _
@[simp] theorem setTb_ul (s : State) (n : Nat) (b : TimeBase) : (s.setTb n b).ul = s.ul := tbs_update_ul s _
@[simp] theorem setTb_hx (s : State) (n : Nat) (b : TimeBase) : (s.setTb n b).hx = s.hx := tbs_update_hx s _
@[simp] theorem setTb_mx (s : State) (n : Nat) (b : TimeBase) : (s.setTb n b).mx = s.mx := tbs_update_mx s _
@[simp] theorem setTb_hostMem (s : State) (n : Nat) (b : TimeBase) : (s.setTb n b).hostMem = s.hostMem := tbs_update_hostMem s _
@[simp] theorem setTb_cxl (s : State) (n : Nat) (b : TimeBase) : (s.setTb n b).cxl = s.cxl := tbs_update_cxl s _
@[simp] theorem setTb_ce (s : State) (n : Nat) (b : TimeBase) : (s.setTb n b).ce = s.ce := tbs_update_ce s _
@[simp] theorem setTb_als (s : State) (n : Nat) (b : TimeBase) : (s.setTb n b).als = s.als := tbs_update_als s _
@[simp] theorem setTb_dm (s : State) (n : Nat) (b : TimeBase) : (s.setTb n b).dm = s.dm := tbs_update_dm s _
@[simp] theorem setTb_px (s : State) (n : Nat) (b : TimeBase) : (s.setTb n b).px = s.px := tbs_update_px s _
@[simp] theorem setTb_pw (s : State) (n : Nat) (b : TimeBase) : (s.setTb n b).pw = s.pw := tbs_update_pw s _
@[simp] theorem setTb_sc (s : State) (n : Nat) (b : TimeBase) : (s.setTb n b).sc = s.sc := tbs_update_sc s _
@[simp] theorem setTb_now (s : State) (n : Nat) (b : TimeBase) : (s.setTb n b).now = s.now := tbs_update_now s _
@[simp] theorem setTb_free (s : State) (n : Nat) (b : TimeBase) : (s.setTb n b).free = s.free := tbs_update_free s _
@[simp] theorem setTb_out (s : State) (n : Nat) (b : TimeBase) : (s.setTb n b).out = s.out := tbs_update_out s _
@[simp] theorem setTb_pending (s : State) (n : Nat) (b : TimeBase) : (s.setTb n b).pending = s.pending := tbs_update_pending s _

@[simp] theorem setLane_regs (s : State) (i : Nat) (l : Lane) : (s.setLane i l).regs = s.regs := lanes_update_regs s _
@[simp] theorem setLane_staged (s : State) (i : Nat) (l : Lane) : (s.setLane i l).staged = s.staged := lanes_update_staged s _
@[simp] theorem setLane_live (s : State) (i : Nat) (l : Lane) : (s.setLane i l).live = s.live := lanes_update_live s _
@[simp] theorem setLane_tabs (s : State) (i : Nat) (l : Lane) : (s.setLane i l).tabs = s.tabs := lanes_update_tabs s _
@[simp] theorem setLane_bad (s : State) (i : Nat) (l : Lane) : (s.setLane i l).bad = s.bad := lanes_update_bad s _
@[simp] theorem setLane_poison (s : State) (i : Nat) (l : Lane) : (s.setLane i l).poison = s.poison := lanes_update_poison s _
@[simp] theorem setLane_sticky (s : State) (i : Nat) (l : Lane) : (s.setLane i l).sticky = s.sticky := lanes_update_sticky s _
@[simp] theorem setLane_vecs (s : State) (i : Nat) (l : Lane) : (s.setLane i l).vecs = s.vecs := lanes_update_vecs s _
@[simp] theorem setLane_dev (s : State) (i : Nat) (l : Lane) : (s.setLane i l).dev = s.dev := lanes_update_dev s _
@[simp] theorem setLane_refAbsent (s : State) (i : Nat) (l : Lane) : (s.setLane i l).refAbsent = s.refAbsent := lanes_update_refAbsent s _
@[simp] theorem setLane_tbs (s : State) (i : Nat) (l : Lane) : (s.setLane i l).tbs = s.tbs := lanes_update_tbs s _
@[simp] theorem setLane_tbRun (s : State) (i : Nat) (l : Lane) : (s.setLane i l).tbRun = s.tbRun := lanes_update_tbRun s _
@[simp] theorem setLane_pps (s : State) (i : Nat) (l : Lane) : (s.setLane i l).pps = s.pps := lanes_update_pps s _
@[simp] theorem setLane_ppsOn (s : State) (i : Nat) (l : Lane) : (s.setLane i l).ppsOn = s.ppsOn := lanes_update_ppsOn s _
@[simp] theorem setLane_fsyncLast (s : State) (i : Nat) (l : Lane) : (s.setLane i l).fsyncLast = s.fsyncLast := lanes_update_fsyncLast s _
@[simp] theorem setLane_bp (s : State) (i : Nat) (l : Lane) : (s.setLane i l).bp = s.bp := lanes_update_bp s _
@[simp] theorem setLane_tm (s : State) (i : Nat) (l : Lane) : (s.setLane i l).tm = s.tm := lanes_update_tm s _
@[simp] theorem setLane_gl (s : State) (i : Nat) (l : Lane) : (s.setLane i l).gl = s.gl := lanes_update_gl s _
@[simp] theorem setLane_pes (s : State) (i : Nat) (l : Lane) : (s.setLane i l).pes = s.pes := lanes_update_pes s _
@[simp] theorem setLane_gps (s : State) (i : Nat) (l : Lane) : (s.setLane i l).gps = s.gps := lanes_update_gps s _
@[simp] theorem setLane_keys (s : State) (i : Nat) (l : Lane) : (s.setLane i l).keys = s.keys := lanes_update_keys s _
@[simp] theorem setLane_lookups (s : State) (i : Nat) (l : Lane) : (s.setLane i l).lookups = s.lookups := lanes_update_lookups s _
@[simp] theorem setLane_lk (s : State) (i : Nat) (l : Lane) : (s.setLane i l).lk = s.lk := lanes_update_lk s _
@[simp] theorem setLane_ul (s : State) (i : Nat) (l : Lane) : (s.setLane i l).ul = s.ul := lanes_update_ul s _
@[simp] theorem setLane_hx (s : State) (i : Nat) (l : Lane) : (s.setLane i l).hx = s.hx := lanes_update_hx s _
@[simp] theorem setLane_mx (s : State) (i : Nat) (l : Lane) : (s.setLane i l).mx = s.mx := lanes_update_mx s _
@[simp] theorem setLane_hostMem (s : State) (i : Nat) (l : Lane) : (s.setLane i l).hostMem = s.hostMem := lanes_update_hostMem s _
@[simp] theorem setLane_cxl (s : State) (i : Nat) (l : Lane) : (s.setLane i l).cxl = s.cxl := lanes_update_cxl s _
@[simp] theorem setLane_ce (s : State) (i : Nat) (l : Lane) : (s.setLane i l).ce = s.ce := lanes_update_ce s _
@[simp] theorem setLane_als (s : State) (i : Nat) (l : Lane) : (s.setLane i l).als = s.als := lanes_update_als s _
@[simp] theorem setLane_dm (s : State) (i : Nat) (l : Lane) : (s.setLane i l).dm = s.dm := lanes_update_dm s _
@[simp] theorem setLane_px (s : State) (i : Nat) (l : Lane) : (s.setLane i l).px = s.px := lanes_update_px s _
@[simp] theorem setLane_pw (s : State) (i : Nat) (l : Lane) : (s.setLane i l).pw = s.pw := lanes_update_pw s _
@[simp] theorem setLane_sc (s : State) (i : Nat) (l : Lane) : (s.setLane i l).sc = s.sc := lanes_update_sc s _
@[simp] theorem setLane_now (s : State) (i : Nat) (l : Lane) : (s.setLane i l).now = s.now := lanes_update_now s _
@[simp] theorem setLane_free (s : State) (i : Nat) (l : Lane) : (s.setLane i l).free = s.free := lanes_update_free s _
@[simp] theorem setLane_out (s : State) (i : Nat) (l : Lane) : (s.setLane i l).out = s.out := lanes_update_out s _
@[simp] theorem setLane_pending (s : State) (i : Nat) (l : Lane) : (s.setLane i l).pending = s.pending := lanes_update_pending s _

@[simp] theorem draw_regs (s : State) : (s.draw.2).regs = s.regs := free_update_regs s _
@[simp] theorem draw_staged (s : State) : (s.draw.2).staged = s.staged := free_update_staged s _
@[simp] theorem draw_live (s : State) : (s.draw.2).live = s.live := free_update_live s _
@[simp] theorem draw_tabs (s : State) : (s.draw.2).tabs = s.tabs := free_update_tabs s _
@[simp] theorem draw_bad (s : State) : (s.draw.2).bad = s.bad := free_update_bad s _
@[simp] theorem draw_poison (s : State) : (s.draw.2).poison = s.poison := free_update_poison s _
@[simp] theorem draw_sticky (s : State) : (s.draw.2).sticky = s.sticky := free_update_sticky s _
@[simp] theorem draw_vecs (s : State) : (s.draw.2).vecs = s.vecs := free_update_vecs s _
@[simp] theorem draw_dev (s : State) : (s.draw.2).dev = s.dev := free_update_dev s _
@[simp] theorem draw_lanes (s : State) : (s.draw.2).lanes = s.lanes := free_update_lanes s _
@[simp] theorem draw_refAbsent (s : State) : (s.draw.2).refAbsent = s.refAbsent := free_update_refAbsent s _
@[simp] theorem draw_tbs (s : State) : (s.draw.2).tbs = s.tbs := free_update_tbs s _
@[simp] theorem draw_tbRun (s : State) : (s.draw.2).tbRun = s.tbRun := free_update_tbRun s _
@[simp] theorem draw_pps (s : State) : (s.draw.2).pps = s.pps := free_update_pps s _
@[simp] theorem draw_ppsOn (s : State) : (s.draw.2).ppsOn = s.ppsOn := free_update_ppsOn s _
@[simp] theorem draw_fsyncLast (s : State) : (s.draw.2).fsyncLast = s.fsyncLast := free_update_fsyncLast s _
@[simp] theorem draw_bp (s : State) : (s.draw.2).bp = s.bp := free_update_bp s _
@[simp] theorem draw_tm (s : State) : (s.draw.2).tm = s.tm := free_update_tm s _
@[simp] theorem draw_gl (s : State) : (s.draw.2).gl = s.gl := free_update_gl s _
@[simp] theorem draw_pes (s : State) : (s.draw.2).pes = s.pes := free_update_pes s _
@[simp] theorem draw_gps (s : State) : (s.draw.2).gps = s.gps := free_update_gps s _
@[simp] theorem draw_keys (s : State) : (s.draw.2).keys = s.keys := free_update_keys s _
@[simp] theorem draw_lookups (s : State) : (s.draw.2).lookups = s.lookups := free_update_lookups s _
@[simp] theorem draw_lk (s : State) : (s.draw.2).lk = s.lk := free_update_lk s _
@[simp] theorem draw_ul (s : State) : (s.draw.2).ul = s.ul := free_update_ul s _
@[simp] theorem draw_hx (s : State) : (s.draw.2).hx = s.hx := free_update_hx s _
@[simp] theorem draw_mx (s : State) : (s.draw.2).mx = s.mx := free_update_mx s _
@[simp] theorem draw_hostMem (s : State) : (s.draw.2).hostMem = s.hostMem := free_update_hostMem s _
@[simp] theorem draw_cxl (s : State) : (s.draw.2).cxl = s.cxl := free_update_cxl s _
@[simp] theorem draw_ce (s : State) : (s.draw.2).ce = s.ce := free_update_ce s _
@[simp] theorem draw_als (s : State) : (s.draw.2).als = s.als := free_update_als s _
@[simp] theorem draw_dm (s : State) : (s.draw.2).dm = s.dm := free_update_dm s _
@[simp] theorem draw_px (s : State) : (s.draw.2).px = s.px := free_update_px s _
@[simp] theorem draw_pw (s : State) : (s.draw.2).pw = s.pw := free_update_pw s _
@[simp] theorem draw_sc (s : State) : (s.draw.2).sc = s.sc := free_update_sc s _
@[simp] theorem draw_now (s : State) : (s.draw.2).now = s.now := free_update_now s _
@[simp] theorem draw_out (s : State) : (s.draw.2).out = s.out := free_update_out s _
@[simp] theorem draw_pending (s : State) : (s.draw.2).pending = s.pending := free_update_pending s _

end Sys2Proof.Machine
end

