-- ==== Sys2Proof/Laws/Fields.lean ====
section
/-! SUPPORT. Reading a register word, a register field, a table entry or a table field after the operations that write them. -/

namespace Sys2Proof.Machine

/-! ### Register words -/

@[simp] theorem reg_setReg_same (s : State) (a : Nat) (w : Word) : (s.setReg a w).reg a = w :=
  sget_sset_same (resetWord a) s.regs a w

theorem reg_setReg_ne (s : State) {a b : Nat} (w : Word) (h : b ≠ a) : (s.setReg a w).reg b = s.reg b :=
  sget_sset_ne' (resetWord a) (resetWord b) s.regs w h

/-- A state with the same register words reads the same registers. -/
theorem reg_congr {s t : State} (h : t.regs = s.regs) (a : Nat) : t.reg a = s.reg a := by unfold State.reg; rw [h]

theorem get_congr {s t : State} (h : t.regs = s.regs) (pg : Nat) (f : Fld) : t.get pg f = s.get pg f := by
  unfold State.get; rw [reg_congr h]

theorem get_congr_reg {s t : State} {pg : Nat} {f : Fld} (h : t.reg (pg + f.off) = s.reg (pg + f.off)) : t.get pg f = s.get pg f := by
  unfold State.get; rw [h]

theorem bit_congr_reg {s t : State} {pg : Nat} {f : Fld} (h : t.reg (pg + f.off) = s.reg (pg + f.off)) : t.bit pg f = s.bit pg f := by
  unfold State.bit; rw [get_congr_reg h]

theorem bit_congr {s t : State} (h : t.regs = s.regs) (pg : Nat) (f : Fld) : t.bit pg f = s.bit pg f := by
  unfold State.bit; rw [get_congr h]

theorem ent_congr {s t : State} (h : t.tabs = s.tabs) (pg tid i : Nat) : t.ent pg tid i = s.ent pg tid i := by
  unfold State.ent; rw [h]

/-! ### Bits of a number -/

theorem field_split (x lo w : Nat) : x = x / 2 ^ (lo + w) * 2 ^ (lo + w) + (x / 2 ^ lo % 2 ^ w) * 2 ^ lo + x % 2 ^ lo := by
  have h1 := Nat.div_add_mod x (2 ^ lo)
  have h2 := Nat.div_add_mod (x / 2 ^ lo) (2 ^ w)
  have h3 : x / 2 ^ lo / 2 ^ w = x / 2 ^ (lo + w) := by rw [Nat.div_div_eq_div_mul, ← Nat.pow_add]
  rw [h3] at h2
  have h4 : x / 2 ^ (lo + w) * 2 ^ (lo + w) = 2 ^ lo * (2 ^ w * (x / 2 ^ (lo + w))) := by
    rw [Nat.pow_add]; ac_rfl
  have h5 : x / 2 ^ lo % 2 ^ w * 2 ^ lo = 2 ^ lo * (x / 2 ^ lo % 2 ^ w) := Nat.mul_comm _ _
  rw [h4, h5, ← Nat.mul_add, h2, h1]

/-- The number with bits `lo + w - 1` to `lo` replaced by `v`. -/
theorem field_put (x lo w v : Nat) :
    x - (x / 2 ^ lo % 2 ^ w) * 2 ^ lo + (v % 2 ^ w) * 2 ^ lo =
      x / 2 ^ (lo + w) * 2 ^ (lo + w) + (v % 2 ^ w) * 2 ^ lo + x % 2 ^ lo := by
  have h := field_split x lo w
  omega

theorem field_put_low {x lo w v : Nat} :
    (x - (x / 2 ^ lo % 2 ^ w) * 2 ^ lo + (v % 2 ^ w) * 2 ^ lo) / 2 ^ lo % 2 ^ w = v % 2 ^ w := by
  rw [field_put]
  have hl : x % 2 ^ lo < 2 ^ lo := Nat.mod_lt _ (Nat.two_pow_pos lo)
  have e : x / 2 ^ (lo + w) * 2 ^ (lo + w) + v % 2 ^ w * 2 ^ lo + x % 2 ^ lo =
      x % 2 ^ lo + 2 ^ lo * (v % 2 ^ w + 2 ^ w * (x / 2 ^ (lo + w))) := by
    rw [Nat.mul_add, Nat.pow_add]
    have a1 : x / (2 ^ lo * 2 ^ w) * (2 ^ lo * 2 ^ w) = 2 ^ lo * (2 ^ w * (x / (2 ^ lo * 2 ^ w))) := by ac_rfl
    have a2 : v % 2 ^ w * 2 ^ lo = 2 ^ lo * (v % 2 ^ w) := Nat.mul_comm _ _
    rw [a1, a2]; ac_rfl
  rw [e, Nat.add_mul_div_left _ _ (Nat.two_pow_pos lo), Nat.div_eq_of_lt hl, Nat.zero_add, Nat.add_mul_mod_self_left,
    Nat.mod_mod]

theorem field_put_lt {x lo w v N : Nat} (hx : x < 2 ^ N) (hw : lo + w ≤ N) :
    x - (x / 2 ^ lo % 2 ^ w) * 2 ^ lo + (v % 2 ^ w) * 2 ^ lo < 2 ^ N := by
  rw [field_put]
  have hl : x % 2 ^ lo < 2 ^ lo := Nat.mod_lt _ (Nat.two_pow_pos lo)
  have hv : v % 2 ^ w < 2 ^ w := Nat.mod_lt _ (Nat.two_pow_pos w)
  have h1 : v % 2 ^ w * 2 ^ lo + x % 2 ^ lo < 2 ^ (lo + w) := by
    have : (v % 2 ^ w + 1) * 2 ^ lo ≤ 2 ^ w * 2 ^ lo := Nat.mul_le_mul_right _ hv
    rw [Nat.add_mul, Nat.one_mul] at this
    rw [Nat.pow_add, Nat.mul_comm (2 ^ lo)]
    omega
  have h2 : x / 2 ^ (lo + w) < 2 ^ (N - (lo + w)) := by
    apply Nat.div_lt_of_lt_mul
    rw [← Nat.pow_add]
    have : lo + w + (N - (lo + w)) = N := by omega
    rw [this]; exact hx
  have h3 : (x / 2 ^ (lo + w) + 1) * 2 ^ (lo + w) ≤ 2 ^ N := by
    have : 2 ^ N = 2 ^ (N - (lo + w)) * 2 ^ (lo + w) := by
      rw [← Nat.pow_add]; congr 1; omega
    rw [this]; exact Nat.mul_le_mul_right _ h2
  rw [Nat.add_mul, Nat.one_mul] at h3
  omega

/-- Replacing a field leaves the bits below it. -/
theorem field_put_mod (x lo w v : Nat) :
    (x - (x / 2 ^ lo % 2 ^ w) * 2 ^ lo + (v % 2 ^ w) * 2 ^ lo) % 2 ^ lo = x % 2 ^ lo := by
  rw [field_put, Nat.pow_add]
  have e : x / (2 ^ lo * 2 ^ w) * (2 ^ lo * 2 ^ w) + v % 2 ^ w * 2 ^ lo + x % 2 ^ lo =
      x % 2 ^ lo + 2 ^ lo * (2 ^ w * (x / (2 ^ lo * 2 ^ w)) + v % 2 ^ w) := by
    rw [Nat.mul_add]
    have a1 : x / (2 ^ lo * 2 ^ w) * (2 ^ lo * 2 ^ w) = 2 ^ lo * (2 ^ w * (x / (2 ^ lo * 2 ^ w))) := by ac_rfl
    have a2 : v % 2 ^ w * 2 ^ lo = 2 ^ lo * (v % 2 ^ w) := Nat.mul_comm _ _
    rw [a1, a2]; ac_rfl
  rw [e, Nat.add_mul_mod_self_left, Nat.mod_mod]

/-- Replacing a field leaves the bits above it. -/
theorem field_put_div (x lo w v : Nat) :
    (x - (x / 2 ^ lo % 2 ^ w) * 2 ^ lo + (v % 2 ^ w) * 2 ^ lo) / 2 ^ (lo + w) = x / 2 ^ (lo + w) := by
  rw [field_put]
  have hl : x % 2 ^ lo < 2 ^ lo := Nat.mod_lt _ (Nat.two_pow_pos lo)
  have hv : v % 2 ^ w < 2 ^ w := Nat.mod_lt _ (Nat.two_pow_pos w)
  have h1 : v % 2 ^ w * 2 ^ lo + x % 2 ^ lo < 2 ^ (lo + w) := by
    have : (v % 2 ^ w + 1) * 2 ^ lo ≤ 2 ^ w * 2 ^ lo := Nat.mul_le_mul_right _ hv
    rw [Nat.add_mul, Nat.one_mul] at this
    rw [Nat.pow_add, Nat.mul_comm (2 ^ lo)]
    omega
  rw [Nat.add_assoc, Nat.add_comm, Nat.add_mul_div_right _ _ (Nat.two_pow_pos _), Nat.div_eq_of_lt h1, Nat.zero_add]

theorem field_of_mod {x y lo w k : Nat} (h : x % 2 ^ k = y % 2 ^ k) (hk : lo + w ≤ k) :
    x / 2 ^ lo % 2 ^ w = y / 2 ^ lo % 2 ^ w := by
  apply Nat.eq_of_testBit_eq
  intro j
  have hj := congrArg (fun z => z.testBit (j + lo)) h
  simp only [Nat.testBit_mod_two_pow] at hj
  simp only [Nat.testBit_mod_two_pow, Nat.testBit_div_two_pow]
  by_cases hw : j < w
  · have : j + lo < k := by omega
    simp only [this, decide_true, Bool.true_and] at hj
    simp [hw, hj]
  · simp [hw]

theorem field_of_div {x y lo w k : Nat} (h : x / 2 ^ k = y / 2 ^ k) (hk : k ≤ lo) :
    x / 2 ^ lo % 2 ^ w = y / 2 ^ lo % 2 ^ w := by
  have e : lo = k + (lo - k) := by omega
  have hx : ∀ z : Nat, z / 2 ^ lo = z / 2 ^ k / 2 ^ (lo - k) := fun z => by
    rw [Nat.div_div_eq_div_mul, ← Nat.pow_add, ← e]
  rw [hx x, hx y, h]

/-! ### Register fields -/

@[simp] theorem ix_hi (f : Fld) (i : Nat) : (f.ix i).hi = f.hi := rfl
@[simp] theorem ix_lo (f : Fld) (i : Nat) : (f.ix i).lo = f.lo := rfl
@[simp] theorem ix_off (f : Fld) (i : Nat) : (f.ix i).off = f.off + i * f.stride := rfl

theorem putBits_toNat (w : Word) {hi lo v : Nat} (h : lo ≤ hi) (h2 : hi < 32) :
    (putBits w hi lo v).toNat =
      w.toNat - (w.toNat / 2 ^ lo % 2 ^ (hi - lo + 1)) * 2 ^ lo + (v % 2 ^ (hi - lo + 1)) * 2 ^ lo := by
  unfold putBits
  rw [BitVec.toNat_ofNat]
  exact Nat.mod_eq_of_lt (field_put_lt w.isLt (by omega))

/-- A field written reads as what was written, in its width. -/
theorem get_put_same (s : State) (pg v : Nat) {f : Fld} (h : f.lo ≤ f.hi ∧ f.hi < 32) :
    (s.put pg f v).get pg f = v % 2 ^ (f.hi - f.lo + 1) := by
  unfold State.get State.put
  rw [reg_setReg_same, putBits_toNat _ h.1 h.2, field_put_low]

/-- Writing a field leaves every field of another word. -/
theorem get_put_ne (s : State) {pg pg' v : Nat} {f g : Fld} (h : pg' + g.off ≠ pg + f.off) :
    (s.put pg f v).get pg' g = s.get pg' g := by
  unfold State.get State.put
  rw [reg_setReg_ne _ _ h]

/-- Writing a field leaves the other fields of its word. -/
theorem get_put_apart (s : State) {pg v : Nat} {f g : Fld}
    (h : g.off = f.off ∧ f.lo ≤ f.hi ∧ f.hi < 32 ∧ g.lo ≤ g.hi ∧ (g.hi < f.lo ∨ f.hi < g.lo)) :
    (s.put pg f v).get pg g = s.get pg g := by
  obtain ⟨ho, h1, h2, h3, hd⟩ := h
  unfold State.get State.put
  rw [ho, reg_setReg_same, putBits_toNat _ h1 h2]
  rcases hd with hd | hd
  · exact field_of_mod (field_put_mod _ f.lo (f.hi - f.lo + 1) v) (by omega)
  · exact field_of_div (field_put_div _ f.lo (f.hi - f.lo + 1) v) (by omega)

theorem reg_put_ne (s : State) {pg v a : Nat} {f : Fld} (h : a ≠ pg + f.off) : (s.put pg f v).reg a = s.reg a :=
  reg_setReg_ne s _ h

theorem reg_putBit_ne (s : State) {pg a : Nat} {f : Fld} {b : Bool} (h : a ≠ pg + f.off) : (s.putBit pg f b).reg a = s.reg a :=
  reg_setReg_ne s _ h

theorem bit_putBit_same (s : State) (pg : Nat) (b : Bool) {f : Fld} (h : f.lo = f.hi ∧ f.hi < 32) :
    (s.putBit pg f b).bit pg f = b := by
  unfold State.bit State.putBit
  rw [get_put_same _ _ _ ⟨by omega, h.2⟩]
  have e : f.hi - f.lo + 1 = 1 := by omega
  rw [e]; cases b <;> rfl

theorem get_putBit_same (s : State) (pg : Nat) (b : Bool) {f : Fld} (h : f.lo ≤ f.hi ∧ f.hi < 32) :
    (s.putBit pg f b).get pg f = (if b then 1 else 0) % 2 ^ (f.hi - f.lo + 1) := get_put_same s pg _ h

theorem get_putBit_ne (s : State) {pg pg' : Nat} {b : Bool} {f g : Fld} (h : pg' + g.off ≠ pg + f.off) :
    (s.putBit pg f b).get pg' g = s.get pg' g := get_put_ne s h

theorem get_putBit_apart (s : State) {pg : Nat} {b : Bool} {f g : Fld}
    (h : g.off = f.off ∧ f.lo ≤ f.hi ∧ f.hi < 32 ∧ g.lo ≤ g.hi ∧ (g.hi < f.lo ∨ f.hi < g.lo)) :
    (s.putBit pg f b).get pg g = s.get pg g := get_put_apart s h

theorem bit_put_ne (s : State) {pg pg' v : Nat} {f g : Fld} (h : pg' + g.off ≠ pg + f.off) :
    (s.put pg f v).bit pg' g = s.bit pg' g := by
  unfold State.bit; rw [get_put_ne _ h]

theorem bit_put_apart (s : State) {pg v : Nat} {f g : Fld}
    (h : g.off = f.off ∧ f.lo ≤ f.hi ∧ f.hi < 32 ∧ g.lo ≤ g.hi ∧ (g.hi < f.lo ∨ f.hi < g.lo)) :
    (s.put pg f v).bit pg g = s.bit pg g := by
  unfold State.bit; rw [get_put_apart _ h]

theorem bit_putBit_apart (s : State) {pg : Nat} {b : Bool} {f g : Fld}
    (h : g.off = f.off ∧ f.lo ≤ f.hi ∧ f.hi < 32 ∧ g.lo ≤ g.hi ∧ (g.hi < f.lo ∨ f.hi < g.lo)) :
    (s.putBit pg f b).bit pg g = s.bit pg g := bit_put_apart s h

theorem bit_putBit_ne (s : State) {pg pg' : Nat} {b : Bool} {f g : Fld} (h : pg' + g.off ≠ pg + f.off) :
    (s.putBit pg f b).bit pg' g = s.bit pg' g := by
  unfold State.bit State.putBit; rw [get_put_ne _ h]

/-! ### Table entries -/

@[simp] theorem ent_setEnt_same (s : State) (pg tid i : Nat) (e : Entry) : (s.setEnt pg tid i e).ent pg tid i = e :=
  sget_sset_same (entReset (tkey pg tid i)) s.tabs (tkey pg tid i) e

theorem ent_setEnt_ne (s : State) {pg tid i pg' tid' i' : Nat} (e : Entry) (h : tkey pg' tid' i' ≠ tkey pg tid i) :
    (s.setEnt pg tid i e).ent pg' tid' i' = s.ent pg' tid' i' :=
  sget_sset_ne' _ _ s.tabs e h

theorem eput_toNat (e : Entry) {f : TF} {v : Nat} (h : f.lo ≤ f.hi) (h2 : 32 * f.word + f.hi < 512) :
    (eput e f v).toNat = e.toNat - (e.toNat / 2 ^ (32 * f.word + f.lo) % 2 ^ (f.hi - f.lo + 1)) * 2 ^ (32 * f.word + f.lo) +
      (v % 2 ^ (f.hi - f.lo + 1)) * 2 ^ (32 * f.word + f.lo) := by
  unfold eput
  rw [BitVec.toNat_ofNat]
  exact Nat.mod_eq_of_lt (field_put_lt e.isLt (by omega))

/-- A field of an entry written reads as what was written, in its width. -/
theorem eget_eput_same (e : Entry) {f : TF} {v : Nat} (h : f.lo ≤ f.hi ∧ 32 * f.word + f.hi < 512) :
    eget (eput e f v) f = v % 2 ^ (f.hi - f.lo + 1) := by
  unfold eget
  rw [eput_toNat e h.1 h.2, field_put_low]

/-- Writing a field of an entry leaves its other fields. -/
theorem eget_eput_apart (e : Entry) {f g : TF} {v : Nat}
    (h : f.lo ≤ f.hi ∧ 32 * f.word + f.hi < 512 ∧ g.lo ≤ g.hi ∧
      (32 * g.word + g.hi < 32 * f.word + f.lo ∨ 32 * f.word + f.hi < 32 * g.word + g.lo)) :
    eget (eput e f v) g = eget e g := by
  obtain ⟨h1, h2, h3, hd⟩ := h
  unfold eget
  rw [eput_toNat e h1 h2]
  rcases hd with hd | hd
  · exact field_of_mod (field_put_mod _ (32 * f.word + f.lo) (f.hi - f.lo + 1) v) (by omega)
  · exact field_of_div (field_put_div _ (32 * f.word + f.lo) (f.hi - f.lo + 1) v) (by omega)

theorem getE_putE_same (s : State) (pg tid i v : Nat) {f : TF} (h : f.lo ≤ f.hi ∧ 32 * f.word + f.hi < 512) :
    (s.putE pg tid i f v).getE pg tid i f = v % 2 ^ (f.hi - f.lo + 1) := by
  unfold State.getE State.putE
  rw [ent_setEnt_same, eget_eput_same _ h]

theorem getE_putE_apart (s : State) {pg tid i v : Nat} {f g : TF}
    (h : f.lo ≤ f.hi ∧ 32 * f.word + f.hi < 512 ∧ g.lo ≤ g.hi ∧
      (32 * g.word + g.hi < 32 * f.word + f.lo ∨ 32 * f.word + f.hi < 32 * g.word + g.lo)) :
    (s.putE pg tid i f v).getE pg tid i g = s.getE pg tid i g := by
  unfold State.getE State.putE
  rw [ent_setEnt_same, eget_eput_apart _ h]

theorem getE_setEnt_same (s : State) (pg tid i : Nat) (e : Entry) (f : TF) : (s.setEnt pg tid i e).getE pg tid i f = eget e f := by
  unfold State.getE; rw [ent_setEnt_same]

theorem getE_setEnt_ne (s : State) {pg tid i pg' tid' i' : Nat} {e : Entry} {f : TF} (h : tkey pg' tid' i' ≠ tkey pg tid i) :
    (s.setEnt pg tid i e).getE pg' tid' i' f = s.getE pg' tid' i' f := by
  unfold State.getE; rw [ent_setEnt_ne _ _ h]

theorem getE_putE_ne (s : State) {pg tid i pg' tid' i' v : Nat} {f g : TF} (h : tkey pg' tid' i' ≠ tkey pg tid i) :
    (s.putE pg tid i f v).getE pg' tid' i' g = s.getE pg' tid' i' g := getE_setEnt_ne s h

end Sys2Proof.Machine
end

