-- ==== Sys2Proof/Laws/Flags.lean ====
section
/-! SUPPORT. What raising an event, following a level source, counting and committing do, and what they leave alone. -/

namespace Sys2Proof.Machine

/-- What every step of a fold leaves alone, the fold leaves alone. -/
theorem foldl_same {β γ : Type} (π : State → γ) (f : State → β → State) (hf : ∀ s x, π (f s x) = π s) (l : List β) (s : State) :
    π (l.foldl f s) = π s := by
  induction l generalizing s with
  | nil => rfl
  | cons x r ih => exact (ih _).trans (hf s x)

/-! ### Messages and vectors -/

@[simp] theorem message_regs (s : State) (p : Nat × Nat) : (s.message p).regs = s.regs := by
  unfold State.message; dsimp only; split
  · simp
  · split <;> simp

@[simp] theorem vecFalls_regs (s : State) (was : List (Nat × Nat)) : (s.vecFalls was).regs = s.regs :=
  foldl_same State.regs _ (fun s p => by simp) _ s

@[simp] theorem settle_regs (o s : State) : (State.settle o s).regs = s.regs :=
  (foldl_same State.regs _ message_regs _ _).trans (vecFalls_regs s _)

@[simp] theorem message_staged (s : State) (p : Nat × Nat) : (s.message p).staged = s.staged := by
  unfold State.message; dsimp only; split
  · simp
  · split <;> simp

@[simp] theorem vecFalls_staged (s : State) (was : List (Nat × Nat)) : (s.vecFalls was).staged = s.staged :=
  foldl_same State.staged _ (fun s p => by simp) _ s

@[simp] theorem settle_staged (o s : State) : (State.settle o s).staged = s.staged :=
  (foldl_same State.staged _ message_staged _ _).trans (vecFalls_staged s _)

@[simp] theorem message_live (s : State) (p : Nat × Nat) : (s.message p).live = s.live := by
  unfold State.message; dsimp only; split
  · simp
  · split <;> simp

@[simp] theorem vecFalls_live (s : State) (was : List (Nat × Nat)) : (s.vecFalls was).live = s.live :=
  foldl_same State.live _ (fun s p => by simp) _ s

@[simp] theorem settle_live (o s : State) : (State.settle o s).live = s.live :=
  (foldl_same State.live _ message_live _ _).trans (vecFalls_live s _)

@[simp] theorem message_tabs (s : State) (p : Nat × Nat) : (s.message p).tabs = s.tabs := by
  unfold State.message; dsimp only; split
  · simp
  · split <;> simp

@[simp] theorem vecFalls_tabs (s : State) (was : List (Nat × Nat)) : (s.vecFalls was).tabs = s.tabs :=
  foldl_same State.tabs _ (fun s p => by simp) _ s

@[simp] theorem settle_tabs (o s : State) : (State.settle o s).tabs = s.tabs :=
  (foldl_same State.tabs _ message_tabs _ _).trans (vecFalls_tabs s _)

@[simp] theorem message_bad (s : State) (p : Nat × Nat) : (s.message p).bad = s.bad := by
  unfold State.message; dsimp only; split
  · simp
  · split <;> simp

@[simp] theorem vecFalls_bad (s : State) (was : List (Nat × Nat)) : (s.vecFalls was).bad = s.bad :=
  foldl_same State.bad _ (fun s p => by simp) _ s

@[simp] theorem settle_bad (o s : State) : (State.settle o s).bad = s.bad :=
  (foldl_same State.bad _ message_bad _ _).trans (vecFalls_bad s _)

@[simp] theorem message_poison (s : State) (p : Nat × Nat) : (s.message p).poison = s.poison := by
  unfold State.message; dsimp only; split
  · simp
  · split <;> simp

@[simp] theorem vecFalls_poison (s : State) (was : List (Nat × Nat)) : (s.vecFalls was).poison = s.poison :=
  foldl_same State.poison _ (fun s p => by simp) _ s

@[simp] theorem settle_poison (o s : State) : (State.settle o s).poison = s.poison :=
  (foldl_same State.poison _ message_poison _ _).trans (vecFalls_poison s _)

@[simp] theorem message_sticky (s : State) (p : Nat × Nat) : (s.message p).sticky = s.sticky := by
  unfold State.message; dsimp only; split
  · simp
  · split <;> simp

@[simp] theorem vecFalls_sticky (s : State) (was : List (Nat × Nat)) : (s.vecFalls was).sticky = s.sticky :=
  foldl_same State.sticky _ (fun s p => by simp) _ s

@[simp] theorem settle_sticky (o s : State) : (State.settle o s).sticky = s.sticky :=
  (foldl_same State.sticky _ message_sticky _ _).trans (vecFalls_sticky s _)

@[simp] theorem message_dev (s : State) (p : Nat × Nat) : (s.message p).dev = s.dev := by
  unfold State.message; dsimp only; split
  · simp
  · split <;> simp

@[simp] theorem vecFalls_dev (s : State) (was : List (Nat × Nat)) : (s.vecFalls was).dev = s.dev :=
  foldl_same State.dev _ (fun s p => by simp) _ s

@[simp] theorem settle_dev (o s : State) : (State.settle o s).dev = s.dev :=
  (foldl_same State.dev _ message_dev _ _).trans (vecFalls_dev s _)

@[simp] theorem message_lanes (s : State) (p : Nat × Nat) : (s.message p).lanes = s.lanes := by
  unfold State.message; dsimp only; split
  · simp
  · split <;> simp

@[simp] theorem vecFalls_lanes (s : State) (was : List (Nat × Nat)) : (s.vecFalls was).lanes = s.lanes :=
  foldl_same State.lanes _ (fun s p => by simp) _ s

@[simp] theorem settle_lanes (o s : State) : (State.settle o s).lanes = s.lanes :=
  (foldl_same State.lanes _ message_lanes _ _).trans (vecFalls_lanes s _)

@[simp] theorem message_refAbsent (s : State) (p : Nat × Nat) : (s.message p).refAbsent = s.refAbsent := by
  unfold State.message; dsimp only; split
  · simp
  · split <;> simp

@[simp] theorem vecFalls_refAbsent (s : State) (was : List (Nat × Nat)) : (s.vecFalls was).refAbsent = s.refAbsent :=
  foldl_same State.refAbsent _ (fun s p => by simp) _ s

@[simp] theorem settle_refAbsent (o s : State) : (State.settle o s).refAbsent = s.refAbsent :=
  (foldl_same State.refAbsent _ message_refAbsent _ _).trans (vecFalls_refAbsent s _)

@[simp] theorem message_tbs (s : State) (p : Nat × Nat) : (s.message p).tbs = s.tbs := by
  unfold State.message; dsimp only; split
  · simp
  · split <;> simp

@[simp] theorem vecFalls_tbs (s : State) (was : List (Nat × Nat)) : (s.vecFalls was).tbs = s.tbs :=
  foldl_same State.tbs _ (fun s p => by simp) _ s

@[simp] theorem settle_tbs (o s : State) : (State.settle o s).tbs = s.tbs :=
  (foldl_same State.tbs _ message_tbs _ _).trans (vecFalls_tbs s _)

@[simp] theorem message_tbRun (s : State) (p : Nat × Nat) : (s.message p).tbRun = s.tbRun := by
  unfold State.message; dsimp only; split
  · simp
  · split <;> simp

@[simp] theorem vecFalls_tbRun (s : State) (was : List (Nat × Nat)) : (s.vecFalls was).tbRun = s.tbRun :=
  foldl_same State.tbRun _ (fun s p => by simp) _ s

@[simp] theorem settle_tbRun (o s : State) : (State.settle o s).tbRun = s.tbRun :=
  (foldl_same State.tbRun _ message_tbRun _ _).trans (vecFalls_tbRun s _)

@[simp] theorem message_pps (s : State) (p : Nat × Nat) : (s.message p).pps = s.pps := by
  unfold State.message; dsimp only; split
  · simp
  · split <;> simp

@[simp] theorem vecFalls_pps (s : State) (was : List (Nat × Nat)) : (s.vecFalls was).pps = s.pps :=
  foldl_same State.pps _ (fun s p => by simp) _ s

@[simp] theorem settle_pps (o s : State) : (State.settle o s).pps = s.pps :=
  (foldl_same State.pps _ message_pps _ _).trans (vecFalls_pps s _)

@[simp] theorem message_ppsOn (s : State) (p : Nat × Nat) : (s.message p).ppsOn = s.ppsOn := by
  unfold State.message; dsimp only; split
  · simp
  · split <;> simp

@[simp] theorem vecFalls_ppsOn (s : State) (was : List (Nat × Nat)) : (s.vecFalls was).ppsOn = s.ppsOn :=
  foldl_same State.ppsOn _ (fun s p => by simp) _ s

@[simp] theorem settle_ppsOn (o s : State) : (State.settle o s).ppsOn = s.ppsOn :=
  (foldl_same State.ppsOn _ message_ppsOn _ _).trans (vecFalls_ppsOn s _)

@[simp] theorem message_fsyncLast (s : State) (p : Nat × Nat) : (s.message p).fsyncLast = s.fsyncLast := by
  unfold State.message; dsimp only; split
  · simp
  · split <;> simp

@[simp] theorem vecFalls_fsyncLast (s : State) (was : List (Nat × Nat)) : (s.vecFalls was).fsyncLast = s.fsyncLast :=
  foldl_same State.fsyncLast _ (fun s p => by simp) _ s

@[simp] theorem settle_fsyncLast (o s : State) : (State.settle o s).fsyncLast = s.fsyncLast :=
  (foldl_same State.fsyncLast _ message_fsyncLast _ _).trans (vecFalls_fsyncLast s _)

@[simp] theorem message_bp (s : State) (p : Nat × Nat) : (s.message p).bp = s.bp := by
  unfold State.message; dsimp only; split
  · simp
  · split <;> simp

@[simp] theorem vecFalls_bp (s : State) (was : List (Nat × Nat)) : (s.vecFalls was).bp = s.bp :=
  foldl_same State.bp _ (fun s p => by simp) _ s

@[simp] theorem settle_bp (o s : State) : (State.settle o s).bp = s.bp :=
  (foldl_same State.bp _ message_bp _ _).trans (vecFalls_bp s _)

@[simp] theorem message_tm (s : State) (p : Nat × Nat) : (s.message p).tm = s.tm := by
  unfold State.message; dsimp only; split
  · simp
  · split <;> simp

@[simp] theorem vecFalls_tm (s : State) (was : List (Nat × Nat)) : (s.vecFalls was).tm = s.tm :=
  foldl_same State.tm _ (fun s p => by simp) _ s

@[simp] theorem settle_tm (o s : State) : (State.settle o s).tm = s.tm :=
  (foldl_same State.tm _ message_tm _ _).trans (vecFalls_tm s _)

@[simp] theorem message_gl (s : State) (p : Nat × Nat) : (s.message p).gl = s.gl := by
  unfold State.message; dsimp only; split
  · simp
  · split <;> simp

@[simp] theorem vecFalls_gl (s : State) (was : List (Nat × Nat)) : (s.vecFalls was).gl = s.gl :=
  foldl_same State.gl _ (fun s p => by simp) _ s

@[simp] theorem settle_gl (o s : State) : (State.settle o s).gl = s.gl :=
  (foldl_same State.gl _ message_gl _ _).trans (vecFalls_gl s _)

@[simp] theorem message_pes (s : State) (p : Nat × Nat) : (s.message p).pes = s.pes := by
  unfold State.message; dsimp only; split
  · simp
  · split <;> simp

@[simp] theorem vecFalls_pes (s : State) (was : List (Nat × Nat)) : (s.vecFalls was).pes = s.pes :=
  foldl_same State.pes _ (fun s p => by simp) _ s

@[simp] theorem settle_pes (o s : State) : (State.settle o s).pes = s.pes :=
  (foldl_same State.pes _ message_pes _ _).trans (vecFalls_pes s _)

@[simp] theorem message_gps (s : State) (p : Nat × Nat) : (s.message p).gps = s.gps := by
  unfold State.message; dsimp only; split
  · simp
  · split <;> simp

@[simp] theorem vecFalls_gps (s : State) (was : List (Nat × Nat)) : (s.vecFalls was).gps = s.gps :=
  foldl_same State.gps _ (fun s p => by simp) _ s

@[simp] theorem settle_gps (o s : State) : (State.settle o s).gps = s.gps :=
  (foldl_same State.gps _ message_gps _ _).trans (vecFalls_gps s _)

@[simp] theorem message_keys (s : State) (p : Nat × Nat) : (s.message p).keys = s.keys := by
  unfold State.message; dsimp only; split
  · simp
  · split <;> simp

@[simp] theorem vecFalls_keys (s : State) (was : List (Nat × Nat)) : (s.vecFalls was).keys = s.keys :=
  foldl_same State.keys _ (fun s p => by simp) _ s

@[simp] theorem settle_keys (o s : State) : (State.settle o s).keys = s.keys :=
  (foldl_same State.keys _ message_keys _ _).trans (vecFalls_keys s _)

@[simp] theorem message_lookups (s : State) (p : Nat × Nat) : (s.message p).lookups = s.lookups := by
  unfold State.message; dsimp only; split
  · simp
  · split <;> simp

@[simp] theorem vecFalls_lookups (s : State) (was : List (Nat × Nat)) : (s.vecFalls was).lookups = s.lookups :=
  foldl_same State.lookups _ (fun s p => by simp) _ s

@[simp] theorem settle_lookups (o s : State) : (State.settle o s).lookups = s.lookups :=
  (foldl_same State.lookups _ message_lookups _ _).trans (vecFalls_lookups s _)

@[simp] theorem message_lk (s : State) (p : Nat × Nat) : (s.message p).lk = s.lk := by
  unfold State.message; dsimp only; split
  · simp
  · split <;> simp

@[simp] theorem vecFalls_lk (s : State) (was : List (Nat × Nat)) : (s.vecFalls was).lk = s.lk :=
  foldl_same State.lk _ (fun s p => by simp) _ s

@[simp] theorem settle_lk (o s : State) : (State.settle o s).lk = s.lk :=
  (foldl_same State.lk _ message_lk _ _).trans (vecFalls_lk s _)

@[simp] theorem message_ul (s : State) (p : Nat × Nat) : (s.message p).ul = s.ul := by
  unfold State.message; dsimp only; split
  · simp
  · split <;> simp

@[simp] theorem vecFalls_ul (s : State) (was : List (Nat × Nat)) : (s.vecFalls was).ul = s.ul :=
  foldl_same State.ul _ (fun s p => by simp) _ s

@[simp] theorem settle_ul (o s : State) : (State.settle o s).ul = s.ul :=
  (foldl_same State.ul _ message_ul _ _).trans (vecFalls_ul s _)

@[simp] theorem message_hx (s : State) (p : Nat × Nat) : (s.message p).hx = s.hx := by
  unfold State.message; dsimp only; split
  · simp
  · split <;> simp

@[simp] theorem vecFalls_hx (s : State) (was : List (Nat × Nat)) : (s.vecFalls was).hx = s.hx :=
  foldl_same State.hx _ (fun s p => by simp) _ s

@[simp] theorem settle_hx (o s : State) : (State.settle o s).hx = s.hx :=
  (foldl_same State.hx _ message_hx _ _).trans (vecFalls_hx s _)

@[simp] theorem message_mx (s : State) (p : Nat × Nat) : (s.message p).mx = s.mx := by
  unfold State.message; dsimp only; split
  · simp
  · split <;> simp

@[simp] theorem vecFalls_mx (s : State) (was : List (Nat × Nat)) : (s.vecFalls was).mx = s.mx :=
  foldl_same State.mx _ (fun s p => by simp) _ s

@[simp] theorem settle_mx (o s : State) : (State.settle o s).mx = s.mx :=
  (foldl_same State.mx _ message_mx _ _).trans (vecFalls_mx s _)

@[simp] theorem message_hostMem (s : State) (p : Nat × Nat) : (s.message p).hostMem = s.hostMem := by
  unfold State.message; dsimp only; split
  · simp
  · split <;> simp

@[simp] theorem vecFalls_hostMem (s : State) (was : List (Nat × Nat)) : (s.vecFalls was).hostMem = s.hostMem :=
  foldl_same State.hostMem _ (fun s p => by simp) _ s

@[simp] theorem settle_hostMem (o s : State) : (State.settle o s).hostMem = s.hostMem :=
  (foldl_same State.hostMem _ message_hostMem _ _).trans (vecFalls_hostMem s _)

@[simp] theorem message_cxl (s : State) (p : Nat × Nat) : (s.message p).cxl = s.cxl := by
  unfold State.message; dsimp only; split
  · simp
  · split <;> simp

@[simp] theorem vecFalls_cxl (s : State) (was : List (Nat × Nat)) : (s.vecFalls was).cxl = s.cxl :=
  foldl_same State.cxl _ (fun s p => by simp) _ s

@[simp] theorem settle_cxl (o s : State) : (State.settle o s).cxl = s.cxl :=
  (foldl_same State.cxl _ message_cxl _ _).trans (vecFalls_cxl s _)

@[simp] theorem message_ce (s : State) (p : Nat × Nat) : (s.message p).ce = s.ce := by
  unfold State.message; dsimp only; split
  · simp
  · split <;> simp

@[simp] theorem vecFalls_ce (s : State) (was : List (Nat × Nat)) : (s.vecFalls was).ce = s.ce :=
  foldl_same State.ce _ (fun s p => by simp) _ s

@[simp] theorem settle_ce (o s : State) : (State.settle o s).ce = s.ce :=
  (foldl_same State.ce _ message_ce _ _).trans (vecFalls_ce s _)

@[simp] theorem message_als (s : State) (p : Nat × Nat) : (s.message p).als = s.als := by
  unfold State.message; dsimp only; split
  · simp
  · split <;> simp

@[simp] theorem vecFalls_als (s : State) (was : List (Nat × Nat)) : (s.vecFalls was).als = s.als :=
  foldl_same State.als _ (fun s p => by simp) _ s

@[simp] theorem settle_als (o s : State) : (State.settle o s).als = s.als :=
  (foldl_same State.als _ message_als _ _).trans (vecFalls_als s _)

@[simp] theorem message_dm (s : State) (p : Nat × Nat) : (s.message p).dm = s.dm := by
  unfold State.message; dsimp only; split
  · simp
  · split <;> simp

@[simp] theorem vecFalls_dm (s : State) (was : List (Nat × Nat)) : (s.vecFalls was).dm = s.dm :=
  foldl_same State.dm _ (fun s p => by simp) _ s

@[simp] theorem settle_dm (o s : State) : (State.settle o s).dm = s.dm :=
  (foldl_same State.dm _ message_dm _ _).trans (vecFalls_dm s _)

@[simp] theorem message_px (s : State) (p : Nat × Nat) : (s.message p).px = s.px := by
  unfold State.message; dsimp only; split
  · simp
  · split <;> simp

@[simp] theorem vecFalls_px (s : State) (was : List (Nat × Nat)) : (s.vecFalls was).px = s.px :=
  foldl_same State.px _ (fun s p => by simp) _ s

@[simp] theorem settle_px (o s : State) : (State.settle o s).px = s.px :=
  (foldl_same State.px _ message_px _ _).trans (vecFalls_px s _)

@[simp] theorem message_pw (s : State) (p : Nat × Nat) : (s.message p).pw = s.pw := by
  unfold State.message; dsimp only; split
  · simp
  · split <;> simp

@[simp] theorem vecFalls_pw (s : State) (was : List (Nat × Nat)) : (s.vecFalls was).pw = s.pw :=
  foldl_same State.pw _ (fun s p => by simp) _ s

@[simp] theorem settle_pw (o s : State) : (State.settle o s).pw = s.pw :=
  (foldl_same State.pw _ message_pw _ _).trans (vecFalls_pw s _)

@[simp] theorem message_sc (s : State) (p : Nat × Nat) : (s.message p).sc = s.sc := by
  unfold State.message; dsimp only; split
  · simp
  · split <;> simp

@[simp] theorem vecFalls_sc (s : State) (was : List (Nat × Nat)) : (s.vecFalls was).sc = s.sc :=
  foldl_same State.sc _ (fun s p => by simp) _ s

@[simp] theorem settle_sc (o s : State) : (State.settle o s).sc = s.sc :=
  (foldl_same State.sc _ message_sc _ _).trans (vecFalls_sc s _)

@[simp] theorem message_now (s : State) (p : Nat × Nat) : (s.message p).now = s.now := by
  unfold State.message; dsimp only; split
  · simp
  · split <;> simp

@[simp] theorem vecFalls_now (s : State) (was : List (Nat × Nat)) : (s.vecFalls was).now = s.now :=
  foldl_same State.now _ (fun s p => by simp) _ s

@[simp] theorem settle_now (o s : State) : (State.settle o s).now = s.now :=
  (foldl_same State.now _ message_now _ _).trans (vecFalls_now s _)

@[simp] theorem message_free (s : State) (p : Nat × Nat) : (s.message p).free = s.free := by
  unfold State.message; dsimp only; split
  · simp
  · split <;> simp

@[simp] theorem vecFalls_free (s : State) (was : List (Nat × Nat)) : (s.vecFalls was).free = s.free :=
  foldl_same State.free _ (fun s p => by simp) _ s

@[simp] theorem settle_free (o s : State) : (State.settle o s).free = s.free :=
  (foldl_same State.free _ message_free _ _).trans (vecFalls_free s _)

@[simp] theorem message_pending (s : State) (p : Nat × Nat) : (s.message p).pending = s.pending := by
  unfold State.message; dsimp only; split
  · simp
  · split <;> simp

@[simp] theorem vecFalls_pending (s : State) (was : List (Nat × Nat)) : (s.vecFalls was).pending = s.pending :=
  foldl_same State.pending _ (fun s p => by simp) _ s

@[simp] theorem settle_pending (o s : State) : (State.settle o s).pending = s.pending :=
  (foldl_same State.pending _ message_pending _ _).trans (vecFalls_pending s _)

/-! ### Events -/

/-- Raising an undefined event bit does nothing; a defined one ends in a settling of the vectors. -/
theorem raise_cases (s : State) (pg b : Nat) :
    s.raise pg b = s ∨ ∃ st : SMap Word, s.raise pg b =
      State.settle s { s.setReg (pg + 0x014) (s.reg (pg + 0x014) ||| maskBit b) with sticky := st } := by
  unfold State.raise
  split
  · exact .inl rfl
  · dsimp only
    split
    · refine .inr ?_
      split
      · exact ⟨_, rfl⟩
      · exact ⟨s.sticky, rfl⟩
    · exact .inl rfl

@[simp] theorem raise_staged (s : State) (pg b : Nat) : (s.raise pg b).staged = s.staged := by
  rcases raise_cases s pg b with h | ⟨st, h⟩
  · rw [h]
  · rw [h, settle_staged]; rfl

@[simp] theorem raise_live (s : State) (pg b : Nat) : (s.raise pg b).live = s.live := by
  rcases raise_cases s pg b with h | ⟨st, h⟩
  · rw [h]
  · rw [h, settle_live]; rfl

@[simp] theorem raise_tabs (s : State) (pg b : Nat) : (s.raise pg b).tabs = s.tabs := by
  rcases raise_cases s pg b with h | ⟨st, h⟩
  · rw [h]
  · rw [h, settle_tabs]; rfl

@[simp] theorem raise_bad (s : State) (pg b : Nat) : (s.raise pg b).bad = s.bad := by
  rcases raise_cases s pg b with h | ⟨st, h⟩
  · rw [h]
  · rw [h, settle_bad]; rfl

@[simp] theorem raise_poison (s : State) (pg b : Nat) : (s.raise pg b).poison = s.poison := by
  rcases raise_cases s pg b with h | ⟨st, h⟩
  · rw [h]
  · rw [h, settle_poison]; rfl

@[simp] theorem raise_dev (s : State) (pg b : Nat) : (s.raise pg b).dev = s.dev := by
  rcases raise_cases s pg b with h | ⟨st, h⟩
  · rw [h]
  · rw [h, settle_dev]; rfl

@[simp] theorem raise_lanes (s : State) (pg b : Nat) : (s.raise pg b).lanes = s.lanes := by
  rcases raise_cases s pg b with h | ⟨st, h⟩
  · rw [h]
  · rw [h, settle_lanes]; rfl

@[simp] theorem raise_refAbsent (s : State) (pg b : Nat) : (s.raise pg b).refAbsent = s.refAbsent := by
  rcases raise_cases s pg b with h | ⟨st, h⟩
  · rw [h]
  · rw [h, settle_refAbsent]; rfl

@[simp] theorem raise_tbs (s : State) (pg b : Nat) : (s.raise pg b).tbs = s.tbs := by
  rcases raise_cases s pg b with h | ⟨st, h⟩
  · rw [h]
  · rw [h, settle_tbs]; rfl

@[simp] theorem raise_tbRun (s : State) (pg b : Nat) : (s.raise pg b).tbRun = s.tbRun := by
  rcases raise_cases s pg b with h | ⟨st, h⟩
  · rw [h]
  · rw [h, settle_tbRun]; rfl

@[simp] theorem raise_pps (s : State) (pg b : Nat) : (s.raise pg b).pps = s.pps := by
  rcases raise_cases s pg b with h | ⟨st, h⟩
  · rw [h]
  · rw [h, settle_pps]; rfl

@[simp] theorem raise_ppsOn (s : State) (pg b : Nat) : (s.raise pg b).ppsOn = s.ppsOn := by
  rcases raise_cases s pg b with h | ⟨st, h⟩
  · rw [h]
  · rw [h, settle_ppsOn]; rfl

@[simp] theorem raise_fsyncLast (s : State) (pg b : Nat) : (s.raise pg b).fsyncLast = s.fsyncLast := by
  rcases raise_cases s pg b with h | ⟨st, h⟩
  · rw [h]
  · rw [h, settle_fsyncLast]; rfl

@[simp] theorem raise_bp (s : State) (pg b : Nat) : (s.raise pg b).bp = s.bp := by
  rcases raise_cases s pg b with h | ⟨st, h⟩
  · rw [h]
  · rw [h, settle_bp]; rfl

@[simp] theorem raise_tm (s : State) (pg b : Nat) : (s.raise pg b).tm = s.tm := by
  rcases raise_cases s pg b with h | ⟨st, h⟩
  · rw [h]
  · rw [h, settle_tm]; rfl

@[simp] theorem raise_gl (s : State) (pg b : Nat) : (s.raise pg b).gl = s.gl := by
  rcases raise_cases s pg b with h | ⟨st, h⟩
  · rw [h]
  · rw [h, settle_gl]; rfl

@[simp] theorem raise_pes (s : State) (pg b : Nat) : (s.raise pg b).pes = s.pes := by
  rcases raise_cases s pg b with h | ⟨st, h⟩
  · rw [h]
  · rw [h, settle_pes]; rfl

@[simp] theorem raise_gps (s : State) (pg b : Nat) : (s.raise pg b).gps = s.gps := by
  rcases raise_cases s pg b with h | ⟨st, h⟩
  · rw [h]
  · rw [h, settle_gps]; rfl

@[simp] theorem raise_keys (s : State) (pg b : Nat) : (s.raise pg b).keys = s.keys := by
  rcases raise_cases s pg b with h | ⟨st, h⟩
  · rw [h]
  · rw [h, settle_keys]; rfl

@[simp] theorem raise_lookups (s : State) (pg b : Nat) : (s.raise pg b).lookups = s.lookups := by
  rcases raise_cases s pg b with h | ⟨st, h⟩
  · rw [h]
  · rw [h, settle_lookups]; rfl

@[simp] theorem raise_lk (s : State) (pg b : Nat) : (s.raise pg b).lk = s.lk := by
  rcases raise_cases s pg b with h | ⟨st, h⟩
  · rw [h]
  · rw [h, settle_lk]; rfl

@[simp] theorem raise_ul (s : State) (pg b : Nat) : (s.raise pg b).ul = s.ul := by
  rcases raise_cases s pg b with h | ⟨st, h⟩
  · rw [h]
  · rw [h, settle_ul]; rfl

@[simp] theorem raise_hx (s : State) (pg b : Nat) : (s.raise pg b).hx = s.hx := by
  rcases raise_cases s pg b with h | ⟨st, h⟩
  · rw [h]
  · rw [h, settle_hx]; rfl

@[simp] theorem raise_mx (s : State) (pg b : Nat) : (s.raise pg b).mx = s.mx := by
  rcases raise_cases s pg b with h | ⟨st, h⟩
  · rw [h]
  · rw [h, settle_mx]; rfl

@[simp] theorem raise_hostMem (s : State) (pg b : Nat) : (s.raise pg b).hostMem = s.hostMem := by
  rcases raise_cases s pg b with h | ⟨st, h⟩
  · rw [h]
  · rw [h, settle_hostMem]; rfl

@[simp] theorem raise_cxl (s : State) (pg b : Nat) : (s.raise pg b).cxl = s.cxl := by
  rcases raise_cases s pg b with h | ⟨st, h⟩
  · rw [h]
  · rw [h, settle_cxl]; rfl

@[simp] theorem raise_ce (s : State) (pg b : Nat) : (s.raise pg b).ce = s.ce := by
  rcases raise_cases s pg b with h | ⟨st, h⟩
  · rw [h]
  · rw [h, settle_ce]; rfl

@[simp] theorem raise_als (s : State) (pg b : Nat) : (s.raise pg b).als = s.als := by
  rcases raise_cases s pg b with h | ⟨st, h⟩
  · rw [h]
  · rw [h, settle_als]; rfl

@[simp] theorem raise_dm (s : State) (pg b : Nat) : (s.raise pg b).dm = s.dm := by
  rcases raise_cases s pg b with h | ⟨st, h⟩
  · rw [h]
  · rw [h, settle_dm]; rfl

@[simp] theorem raise_px (s : State) (pg b : Nat) : (s.raise pg b).px = s.px := by
  rcases raise_cases s pg b with h | ⟨st, h⟩
  · rw [h]
  · rw [h, settle_px]; rfl

@[simp] theorem raise_pw (s : State) (pg b : Nat) : (s.raise pg b).pw = s.pw := by
  rcases raise_cases s pg b with h | ⟨st, h⟩
  · rw [h]
  · rw [h, settle_pw]; rfl

@[simp] theorem raise_sc (s : State) (pg b : Nat) : (s.raise pg b).sc = s.sc := by
  rcases raise_cases s pg b with h | ⟨st, h⟩
  · rw [h]
  · rw [h, settle_sc]; rfl

@[simp] theorem raise_now (s : State) (pg b : Nat) : (s.raise pg b).now = s.now := by
  rcases raise_cases s pg b with h | ⟨st, h⟩
  · rw [h]
  · rw [h, settle_now]; rfl

@[simp] theorem raise_free (s : State) (pg b : Nat) : (s.raise pg b).free = s.free := by
  rcases raise_cases s pg b with h | ⟨st, h⟩
  · rw [h]
  · rw [h, settle_free]; rfl

@[simp] theorem raise_pending (s : State) (pg b : Nat) : (s.raise pg b).pending = s.pending := by
  rcases raise_cases s pg b with h | ⟨st, h⟩
  · rw [h]
  · rw [h, settle_pending]; rfl

/-- Raising an event changes no register but the page's EVT_PEND. -/
theorem reg_raise_ne (s : State) {pg b a : Nat} (h : a ≠ pg + 0x014) : (s.raise pg b).reg a = s.reg a := by
  rcases raise_cases s pg b with e | ⟨st, e⟩
  · rw [e]
  · rw [e, reg_congr (settle_regs _ _)]
    exact reg_setReg_ne s _ h

/-- A defined event bit becomes pending. -/
theorem reg_raise_pend (s : State) {pg b i : Nat} {k : PKind} (hp : pageOf pg = some (k, i)) (hb : (evMasks k).1.testBit b = true) :
    (s.raise pg b).reg (pg + 0x014) = s.reg (pg + 0x014) ||| maskBit b := by
  unfold State.raise
  rw [hp]
  dsimp only
  rw [if_pos hb, reg_congr (settle_regs _ _)]
  split
  · exact reg_setReg_same s _ _
  · exact reg_setReg_same s _ _

theorem get_raise_ne (s : State) {pg b pg' : Nat} {f : Fld} (h : pg' + f.off ≠ pg + 0x014) :
    (s.raise pg b).get pg' f = s.get pg' f := get_congr_reg (reg_raise_ne s h)

theorem bit_raise_ne (s : State) {pg b pg' : Nat} {f : Fld} (h : pg' + f.off ≠ pg + 0x014) :
    (s.raise pg b).bit pg' f = s.bit pg' f := bit_congr_reg (reg_raise_ne s h)

/-! ### Level sources -/

@[simp] theorem levelTo_staged (s : State) (pg b : Nat) (v : Bool) : (s.levelTo pg b v).staged = s.staged := by
  unfold State.levelTo; dsimp only; split
  · rfl
  · split <;> simp

@[simp] theorem levelTo_live (s : State) (pg b : Nat) (v : Bool) : (s.levelTo pg b v).live = s.live := by
  unfold State.levelTo; dsimp only; split
  · rfl
  · split <;> simp

@[simp] theorem levelTo_tabs (s : State) (pg b : Nat) (v : Bool) : (s.levelTo pg b v).tabs = s.tabs := by
  unfold State.levelTo; dsimp only; split
  · rfl
  · split <;> simp

@[simp] theorem levelTo_bad (s : State) (pg b : Nat) (v : Bool) : (s.levelTo pg b v).bad = s.bad := by
  unfold State.levelTo; dsimp only; split
  · rfl
  · split <;> simp

@[simp] theorem levelTo_poison (s : State) (pg b : Nat) (v : Bool) : (s.levelTo pg b v).poison = s.poison := by
  unfold State.levelTo; dsimp only; split
  · rfl
  · split <;> simp

@[simp] theorem levelTo_dev (s : State) (pg b : Nat) (v : Bool) : (s.levelTo pg b v).dev = s.dev := by
  unfold State.levelTo; dsimp only; split
  · rfl
  · split <;> simp

@[simp] theorem levelTo_lanes (s : State) (pg b : Nat) (v : Bool) : (s.levelTo pg b v).lanes = s.lanes := by
  unfold State.levelTo; dsimp only; split
  · rfl
  · split <;> simp

@[simp] theorem levelTo_refAbsent (s : State) (pg b : Nat) (v : Bool) : (s.levelTo pg b v).refAbsent = s.refAbsent := by
  unfold State.levelTo; dsimp only; split
  · rfl
  · split <;> simp

@[simp] theorem levelTo_tbs (s : State) (pg b : Nat) (v : Bool) : (s.levelTo pg b v).tbs = s.tbs := by
  unfold State.levelTo; dsimp only; split
  · rfl
  · split <;> simp

@[simp] theorem levelTo_tbRun (s : State) (pg b : Nat) (v : Bool) : (s.levelTo pg b v).tbRun = s.tbRun := by
  unfold State.levelTo; dsimp only; split
  · rfl
  · split <;> simp

@[simp] theorem levelTo_pps (s : State) (pg b : Nat) (v : Bool) : (s.levelTo pg b v).pps = s.pps := by
  unfold State.levelTo; dsimp only; split
  · rfl
  · split <;> simp

@[simp] theorem levelTo_ppsOn (s : State) (pg b : Nat) (v : Bool) : (s.levelTo pg b v).ppsOn = s.ppsOn := by
  unfold State.levelTo; dsimp only; split
  · rfl
  · split <;> simp

@[simp] theorem levelTo_fsyncLast (s : State) (pg b : Nat) (v : Bool) : (s.levelTo pg b v).fsyncLast = s.fsyncLast := by
  unfold State.levelTo; dsimp only; split
  · rfl
  · split <;> simp

@[simp] theorem levelTo_bp (s : State) (pg b : Nat) (v : Bool) : (s.levelTo pg b v).bp = s.bp := by
  unfold State.levelTo; dsimp only; split
  · rfl
  · split <;> simp

@[simp] theorem levelTo_tm (s : State) (pg b : Nat) (v : Bool) : (s.levelTo pg b v).tm = s.tm := by
  unfold State.levelTo; dsimp only; split
  · rfl
  · split <;> simp

@[simp] theorem levelTo_gl (s : State) (pg b : Nat) (v : Bool) : (s.levelTo pg b v).gl = s.gl := by
  unfold State.levelTo; dsimp only; split
  · rfl
  · split <;> simp

@[simp] theorem levelTo_pes (s : State) (pg b : Nat) (v : Bool) : (s.levelTo pg b v).pes = s.pes := by
  unfold State.levelTo; dsimp only; split
  · rfl
  · split <;> simp

@[simp] theorem levelTo_gps (s : State) (pg b : Nat) (v : Bool) : (s.levelTo pg b v).gps = s.gps := by
  unfold State.levelTo; dsimp only; split
  · rfl
  · split <;> simp

@[simp] theorem levelTo_keys (s : State) (pg b : Nat) (v : Bool) : (s.levelTo pg b v).keys = s.keys := by
  unfold State.levelTo; dsimp only; split
  · rfl
  · split <;> simp

@[simp] theorem levelTo_lookups (s : State) (pg b : Nat) (v : Bool) : (s.levelTo pg b v).lookups = s.lookups := by
  unfold State.levelTo; dsimp only; split
  · rfl
  · split <;> simp

@[simp] theorem levelTo_lk (s : State) (pg b : Nat) (v : Bool) : (s.levelTo pg b v).lk = s.lk := by
  unfold State.levelTo; dsimp only; split
  · rfl
  · split <;> simp

@[simp] theorem levelTo_ul (s : State) (pg b : Nat) (v : Bool) : (s.levelTo pg b v).ul = s.ul := by
  unfold State.levelTo; dsimp only; split
  · rfl
  · split <;> simp

@[simp] theorem levelTo_hx (s : State) (pg b : Nat) (v : Bool) : (s.levelTo pg b v).hx = s.hx := by
  unfold State.levelTo; dsimp only; split
  · rfl
  · split <;> simp

@[simp] theorem levelTo_mx (s : State) (pg b : Nat) (v : Bool) : (s.levelTo pg b v).mx = s.mx := by
  unfold State.levelTo; dsimp only; split
  · rfl
  · split <;> simp

@[simp] theorem levelTo_hostMem (s : State) (pg b : Nat) (v : Bool) : (s.levelTo pg b v).hostMem = s.hostMem := by
  unfold State.levelTo; dsimp only; split
  · rfl
  · split <;> simp

@[simp] theorem levelTo_cxl (s : State) (pg b : Nat) (v : Bool) : (s.levelTo pg b v).cxl = s.cxl := by
  unfold State.levelTo; dsimp only; split
  · rfl
  · split <;> simp

@[simp] theorem levelTo_ce (s : State) (pg b : Nat) (v : Bool) : (s.levelTo pg b v).ce = s.ce := by
  unfold State.levelTo; dsimp only; split
  · rfl
  · split <;> simp

@[simp] theorem levelTo_als (s : State) (pg b : Nat) (v : Bool) : (s.levelTo pg b v).als = s.als := by
  unfold State.levelTo; dsimp only; split
  · rfl
  · split <;> simp

@[simp] theorem levelTo_dm (s : State) (pg b : Nat) (v : Bool) : (s.levelTo pg b v).dm = s.dm := by
  unfold State.levelTo; dsimp only; split
  · rfl
  · split <;> simp

@[simp] theorem levelTo_px (s : State) (pg b : Nat) (v : Bool) : (s.levelTo pg b v).px = s.px := by
  unfold State.levelTo; dsimp only; split
  · rfl
  · split <;> simp

@[simp] theorem levelTo_pw (s : State) (pg b : Nat) (v : Bool) : (s.levelTo pg b v).pw = s.pw := by
  unfold State.levelTo; dsimp only; split
  · rfl
  · split <;> simp

@[simp] theorem levelTo_sc (s : State) (pg b : Nat) (v : Bool) : (s.levelTo pg b v).sc = s.sc := by
  unfold State.levelTo; dsimp only; split
  · rfl
  · split <;> simp

@[simp] theorem levelTo_now (s : State) (pg b : Nat) (v : Bool) : (s.levelTo pg b v).now = s.now := by
  unfold State.levelTo; dsimp only; split
  · rfl
  · split <;> simp

@[simp] theorem levelTo_free (s : State) (pg b : Nat) (v : Bool) : (s.levelTo pg b v).free = s.free := by
  unfold State.levelTo; dsimp only; split
  · rfl
  · split <;> simp

@[simp] theorem levelTo_pending (s : State) (pg b : Nat) (v : Bool) : (s.levelTo pg b v).pending = s.pending := by
  unfold State.levelTo; dsimp only; split
  · rfl
  · split <;> simp

/-- A level source changes no register but the page's EVT_RAW and EVT_PEND. -/
theorem reg_levelTo_ne (s : State) {pg b a : Nat} {v : Bool} (h : a ≠ pg + 0x010) (h2 : a ≠ pg + 0x014) :
    (s.levelTo pg b v).reg a = s.reg a := by
  unfold State.levelTo; dsimp only; split
  · rfl
  · split
    · rw [reg_raise_ne _ h2, reg_setReg_ne _ _ h]
    · rw [reg_setReg_ne _ _ h]

theorem get_levelTo_ne (s : State) {pg b pg' : Nat} {v : Bool} {f : Fld} (h : pg' + f.off ≠ pg + 0x010)
    (h2 : pg' + f.off ≠ pg + 0x014) : (s.levelTo pg b v).get pg' f = s.get pg' f := get_congr_reg (reg_levelTo_ne s h h2)

theorem bit_levelTo_ne (s : State) {pg b pg' : Nat} {v : Bool} {f : Fld} (h : pg' + f.off ≠ pg + 0x010)
    (h2 : pg' + f.off ≠ pg + 0x014) : (s.levelTo pg b v).bit pg' f = s.bit pg' f := bit_congr_reg (reg_levelTo_ne s h h2)

theorem maskBit_testBit {b : Nat} (h : b < 32) (j : Nat) : (maskBit b).toNat.testBit j = decide (b = j) := by
  unfold maskBit
  rw [BitVec.toNat_ofNat, Nat.mod_eq_of_lt (Nat.pow_lt_pow_right (by omega) h), Nat.testBit_two_pow]

/-- EVT_RAW of a level source shows its condition. -/
theorem raw_levelTo (s : State) (pg : Nat) {b : Nat} (v : Bool) (h : b < 32) : (s.levelTo pg b v).raw pg b = v := by
  unfold State.levelTo State.raw; dsimp only; split
  · assumption
  · split
    · rename_i hv; subst hv
      rw [reg_raise_ne _ (by omega), reg_setReg_same, BitVec.toNat_or, Nat.testBit_or, maskBit_testBit h]
      simp
    · rename_i hv
      rw [reg_setReg_same, BitVec.toNat_and, Nat.testBit_and, BitVec.toNat_not]
      cases v with
      | true => exact absurd rfl hv
      | false =>
        have : (2 ^ 32 - 1 - (maskBit b).toNat).testBit b = false := by
          have h2 : (maskBit b).toNat < 2 ^ 32 := (maskBit b).isLt
          have e : 2 ^ 32 - 1 - (maskBit b).toNat = 2 ^ 32 - ((maskBit b).toNat + 1) := by omega
          rw [e, Nat.testBit_two_pow_sub_succ h2, maskBit_testBit h]; simp
        rw [this]; simp

/-! ### Pending events -/

theorem pends_congr {s t : State} {pg b : Nat} (h : t.reg (pg + 0x014) = s.reg (pg + 0x014)) : t.pends pg b = s.pends pg b := by
  unfold State.pends; rw [h]

/-- A defined event raised is pending. -/
theorem pends_raise (s : State) {pg b i : Nat} {k : PKind} (hp : pageOf pg = some (k, i)) (hb : (evMasks k).1.testBit b = true)
    (h : b < 32) : (s.raise pg b).pends pg b = true := by
  unfold State.pends
  rw [reg_raise_pend s hp hb, BitVec.toNat_or, Nat.testBit_or, maskBit_testBit h]
  simp

/-- What is pending stays pending when an event is raised. -/
theorem pends_raise_mono (s : State) {pg b pg' b' : Nat} (h : s.pends pg b = true) : (s.raise pg' b').pends pg b = true := by
  rcases raise_cases s pg' b' with e | ⟨st, e⟩
  · rw [e]; exact h
  · rw [e]
    unfold State.pends
    rw [reg_congr (settle_regs _ _)]
    by_cases hpg : pg + 0x014 = pg' + 0x014
    · rw [hpg]
      show ((s.setReg (pg' + 0x014) (s.reg (pg' + 0x014) ||| maskBit b')).reg (pg' + 0x014)).toNat.testBit b = true
      rw [reg_setReg_same, BitVec.toNat_or, Nat.testBit_or]
      unfold State.pends at h; rw [hpg] at h; rw [h]; rfl
    · show ((s.setReg (pg' + 0x014) (s.reg (pg' + 0x014) ||| maskBit b')).reg (pg + 0x014)).toNat.testBit b = true
      rw [reg_setReg_ne _ _ hpg]; exact h

theorem pends_levelTo_mono (s : State) {pg b pg' b' : Nat} {v : Bool} (h : s.pends pg b = true) (hne : pg + 0x014 ≠ pg' + 0x010) :
    (s.levelTo pg' b' v).pends pg b = true := by
  have hs : ∀ w, (s.setReg (pg' + 0x010) w).pends pg b = true := fun w => by
    rw [pends_congr (reg_setReg_ne _ _ hne)]; exact h
  unfold State.levelTo
  dsimp only
  split
  · exact h
  · split
    · exact pends_raise_mono _ (hs _)
    · exact hs _

/-- A level source that rises is pending. -/
theorem pends_levelTo (s : State) {pg b i : Nat} {k : PKind} (hp : pageOf pg = some (k, i)) (hb : (evMasks k).1.testBit b = true)
    (h : b < 32) (hr : s.raw pg b = false) : (s.levelTo pg b true).pends pg b = true := by
  unfold State.levelTo
  dsimp only
  unfold State.raw at hr
  rw [hr]
  simp only [Bool.false_eq_true, if_false, if_true]
  exact pends_raise _ hp hb h

/-! ### Counts -/

theorem get_incWrap_same (s : State) (pg n : Nat) {f : Fld} (h : f.lo ≤ f.hi ∧ f.hi < 32) :
    (s.incWrap pg f n).get pg f = (s.get pg f + n) % 2 ^ (f.hi - f.lo + 1) := get_put_same s pg _ h

theorem get_lt (s : State) (pg : Nat) (f : Fld) : s.get pg f < 2 ^ (f.hi - f.lo + 1) := Nat.mod_lt _ (Nat.two_pow_pos _)

theorem get_incSat_same (s : State) (pg n : Nat) {f : Fld} (h : f.lo ≤ f.hi ∧ f.hi < 32) :
    (s.incSat pg f n).get pg f = min (s.get pg f + n) (2 ^ (f.hi - f.lo + 1) - 1) := by
  unfold State.incSat
  rw [get_put_same _ _ _ h]
  have := Nat.two_pow_pos (f.hi - f.lo + 1)
  exact Nat.mod_eq_of_lt (by omega)

theorem get_incSat_ne (s : State) {pg pg' n : Nat} {f g : Fld} (h : pg' + g.off ≠ pg + f.off) :
    (s.incSat pg f n).get pg' g = s.get pg' g := get_put_ne s h

theorem get_incWrap_ne (s : State) {pg pg' n : Nat} {f g : Fld} (h : pg' + g.off ≠ pg + f.off) :
    (s.incWrap pg f n).get pg' g = s.get pg' g := get_put_ne s h

@[simp] theorem count_bump_same (s : State) (pg n : Nat) (c : Ctr) :
    (s.bump pg c n).count pg c = if c.sat then min (s.count pg c + n) (2 ^ c.width - 1) else (s.count pg c + n) % 2 ^ c.width :=
  sget_sset_same 0 s.live (pg + c.off) _

theorem count_bump_ne (s : State) {pg pg' n : Nat} {c d : Ctr} (h : pg' + d.off ≠ pg + c.off) :
    (s.bump pg c n).count pg' d = s.count pg' d := sget_sset_ne 0 s.live _ h

end Sys2Proof.Machine
end

