-- ==== Sys2Proof/Laws/Reads.lean ====
section
/-! SUPPORT. Registers and table entries read the same after an update of something else. -/

namespace Sys2Proof.Machine

theorem getE_congr {s t : State} (h : t.tabs = s.tabs) (pg tid i : Nat) (f : TF) : t.getE pg tid i f = s.getE pg tid i f := by
  unfold State.getE; rw [ent_congr h]

theorem count_congr {s t : State} (h : t.live = s.live) (pg : Nat) (c : Ctr) : t.count pg c = s.count pg c := by
  unfold State.count; rw [h]

@[simp] theorem reg_setEnt (s : State) (pg tid i : Nat) (e : Entry) (y : Nat) : (s.setEnt pg tid i e).reg y = s.reg y := reg_congr (setEnt_regs _ _ _ _ _) y
@[simp] theorem get_setEnt (s : State) (pg tid i : Nat) (e : Entry) (q : Nat) (g : Fld) : (s.setEnt pg tid i e).get q g = s.get q g := get_congr (setEnt_regs _ _ _ _ _) q g
@[simp] theorem bit_setEnt (s : State) (pg tid i : Nat) (e : Entry) (q : Nat) (g : Fld) : (s.setEnt pg tid i e).bit q g = s.bit q g := bit_congr (setEnt_regs _ _ _ _ _) q g
@[simp] theorem count_setEnt (s : State) (pg tid i : Nat) (e : Entry) (q : Nat) (d : Ctr) : (s.setEnt pg tid i e).count q d = s.count q d := count_congr (setEnt_live _ _ _ _ _) q d

@[simp] theorem reg_putE (s : State) (pg tid i : Nat) (f : TF) (v : Nat) (y : Nat) : (s.putE pg tid i f v).reg y = s.reg y := reg_congr (putE_regs _ _ _ _ _ _) y
@[simp] theorem get_putE (s : State) (pg tid i : Nat) (f : TF) (v : Nat) (q : Nat) (g : Fld) : (s.putE pg tid i f v).get q g = s.get q g := get_congr (putE_regs _ _ _ _ _ _) q g
@[simp] theorem bit_putE (s : State) (pg tid i : Nat) (f : TF) (v : Nat) (q : Nat) (g : Fld) : (s.putE pg tid i f v).bit q g = s.bit q g := bit_congr (putE_regs _ _ _ _ _ _) q g
@[simp] theorem count_putE (s : State) (pg tid i : Nat) (f : TF) (v : Nat) (q : Nat) (d : Ctr) : (s.putE pg tid i f v).count q d = s.count q d := count_congr (putE_live _ _ _ _ _ _) q d

@[simp] theorem reg_bump (s : State) (pg : Nat) (c : Ctr) (n : Nat) (y : Nat) : (s.bump pg c n).reg y = s.reg y := reg_congr (bump_regs _ _ _ _) y
@[simp] theorem get_bump (s : State) (pg : Nat) (c : Ctr) (n : Nat) (q : Nat) (g : Fld) : (s.bump pg c n).get q g = s.get q g := get_congr (bump_regs _ _ _ _) q g
@[simp] theorem bit_bump (s : State) (pg : Nat) (c : Ctr) (n : Nat) (q : Nat) (g : Fld) : (s.bump pg c n).bit q g = s.bit q g := bit_congr (bump_regs _ _ _ _) q g
@[simp] theorem ent_bump (s : State) (pg : Nat) (c : Ctr) (n : Nat) (q u j : Nat) : (s.bump pg c n).ent q u j = s.ent q u j := ent_congr (bump_tabs _ _ _ _) q u j
@[simp] theorem getE_bump (s : State) (pg : Nat) (c : Ctr) (n : Nat) (q u j : Nat) (g : TF) : (s.bump pg c n).getE q u j g = s.getE q u j g := getE_congr (bump_tabs _ _ _ _) q u j g

@[simp] theorem reg_emit (s : State) (o : Output) (y : Nat) : (s.emit o).reg y = s.reg y := reg_congr (emit_regs _ _) y
@[simp] theorem get_emit (s : State) (o : Output) (q : Nat) (g : Fld) : (s.emit o).get q g = s.get q g := get_congr (emit_regs _ _) q g
@[simp] theorem bit_emit (s : State) (o : Output) (q : Nat) (g : Fld) : (s.emit o).bit q g = s.bit q g := bit_congr (emit_regs _ _) q g
@[simp] theorem ent_emit (s : State) (o : Output) (q u j : Nat) : (s.emit o).ent q u j = s.ent q u j := ent_congr (emit_tabs _ _) q u j
@[simp] theorem getE_emit (s : State) (o : Output) (q u j : Nat) (g : TF) : (s.emit o).getE q u j g = s.getE q u j g := getE_congr (emit_tabs _ _) q u j g
@[simp] theorem count_emit (s : State) (o : Output) (q : Nat) (d : Ctr) : (s.emit o).count q d = s.count q d := count_congr (emit_live _ _) q d

@[simp] theorem reg_setVec (s : State) (fn v : Nat) (x : Vec) (y : Nat) : (s.setVec fn v x).reg y = s.reg y := reg_congr (setVec_regs _ _ _ _) y
@[simp] theorem get_setVec (s : State) (fn v : Nat) (x : Vec) (q : Nat) (g : Fld) : (s.setVec fn v x).get q g = s.get q g := get_congr (setVec_regs _ _ _ _) q g
@[simp] theorem bit_setVec (s : State) (fn v : Nat) (x : Vec) (q : Nat) (g : Fld) : (s.setVec fn v x).bit q g = s.bit q g := bit_congr (setVec_regs _ _ _ _) q g
@[simp] theorem ent_setVec (s : State) (fn v : Nat) (x : Vec) (q u j : Nat) : (s.setVec fn v x).ent q u j = s.ent q u j := ent_congr (setVec_tabs _ _ _ _) q u j
@[simp] theorem getE_setVec (s : State) (fn v : Nat) (x : Vec) (q u j : Nat) (g : TF) : (s.setVec fn v x).getE q u j g = s.getE q u j g := getE_congr (setVec_tabs _ _ _ _) q u j g
@[simp] theorem count_setVec (s : State) (fn v : Nat) (x : Vec) (q : Nat) (d : Ctr) : (s.setVec fn v x).count q d = s.count q d := count_congr (setVec_live _ _ _ _) q d

@[simp] theorem reg_setTb (s : State) (n : Nat) (b : TimeBase) (y : Nat) : (s.setTb n b).reg y = s.reg y := reg_congr (setTb_regs _ _ _) y
@[simp] theorem get_setTb (s : State) (n : Nat) (b : TimeBase) (q : Nat) (g : Fld) : (s.setTb n b).get q g = s.get q g := get_congr (setTb_regs _ _ _) q g
@[simp] theorem bit_setTb (s : State) (n : Nat) (b : TimeBase) (q : Nat) (g : Fld) : (s.setTb n b).bit q g = s.bit q g := bit_congr (setTb_regs _ _ _) q g
@[simp] theorem ent_setTb (s : State) (n : Nat) (b : TimeBase) (q u j : Nat) : (s.setTb n b).ent q u j = s.ent q u j := ent_congr (setTb_tabs _ _ _) q u j
@[simp] theorem getE_setTb (s : State) (n : Nat) (b : TimeBase) (q u j : Nat) (g : TF) : (s.setTb n b).getE q u j g = s.getE q u j g := getE_congr (setTb_tabs _ _ _) q u j g
@[simp] theorem count_setTb (s : State) (n : Nat) (b : TimeBase) (q : Nat) (d : Ctr) : (s.setTb n b).count q d = s.count q d := count_congr (setTb_live _ _ _) q d

@[simp] theorem reg_setLane (s : State) (i : Nat) (l : Lane) (y : Nat) : (s.setLane i l).reg y = s.reg y := reg_congr (setLane_regs _ _ _) y
@[simp] theorem get_setLane (s : State) (i : Nat) (l : Lane) (q : Nat) (g : Fld) : (s.setLane i l).get q g = s.get q g := get_congr (setLane_regs _ _ _) q g
@[simp] theorem bit_setLane (s : State) (i : Nat) (l : Lane) (q : Nat) (g : Fld) : (s.setLane i l).bit q g = s.bit q g := bit_congr (setLane_regs _ _ _) q g
@[simp] theorem ent_setLane (s : State) (i : Nat) (l : Lane) (q u j : Nat) : (s.setLane i l).ent q u j = s.ent q u j := ent_congr (setLane_tabs _ _ _) q u j
@[simp] theorem getE_setLane (s : State) (i : Nat) (l : Lane) (q u j : Nat) (g : TF) : (s.setLane i l).getE q u j g = s.getE q u j g := getE_congr (setLane_tabs _ _ _) q u j g
@[simp] theorem count_setLane (s : State) (i : Nat) (l : Lane) (q : Nat) (d : Ctr) : (s.setLane i l).count q d = s.count q d := count_congr (setLane_live _ _ _) q d

@[simp] theorem reg_draw (s : State) (y : Nat) : (s.draw.2).reg y = s.reg y := reg_congr (draw_regs _) y
@[simp] theorem get_draw (s : State) (q : Nat) (g : Fld) : (s.draw.2).get q g = s.get q g := get_congr (draw_regs _) q g
@[simp] theorem bit_draw (s : State) (q : Nat) (g : Fld) : (s.draw.2).bit q g = s.bit q g := bit_congr (draw_regs _) q g
@[simp] theorem ent_draw (s : State) (q u j : Nat) : (s.draw.2).ent q u j = s.ent q u j := ent_congr (draw_tabs _) q u j
@[simp] theorem getE_draw (s : State) (q u j : Nat) (g : TF) : (s.draw.2).getE q u j g = s.getE q u j g := getE_congr (draw_tabs _) q u j g
@[simp] theorem count_draw (s : State) (q : Nat) (d : Ctr) : (s.draw.2).count q d = s.count q d := count_congr (draw_live _) q d

@[simp] theorem ent_setReg (s : State) (a : Nat) (w : Word) (q u j : Nat) : (s.setReg a w).ent q u j = s.ent q u j := ent_congr (setReg_tabs _ _ _) q u j
@[simp] theorem getE_setReg (s : State) (a : Nat) (w : Word) (q u j : Nat) (g : TF) : (s.setReg a w).getE q u j g = s.getE q u j g := getE_congr (setReg_tabs _ _ _) q u j g
@[simp] theorem count_setReg (s : State) (a : Nat) (w : Word) (q : Nat) (d : Ctr) : (s.setReg a w).count q d = s.count q d := count_congr (setReg_live _ _ _) q d

@[simp] theorem ent_put (s : State) (pg : Nat) (f : Fld) (v : Nat) (q u j : Nat) : (s.put pg f v).ent q u j = s.ent q u j := ent_congr (put_tabs _ _ _ _) q u j
@[simp] theorem getE_put (s : State) (pg : Nat) (f : Fld) (v : Nat) (q u j : Nat) (g : TF) : (s.put pg f v).getE q u j g = s.getE q u j g := getE_congr (put_tabs _ _ _ _) q u j g
@[simp] theorem count_put (s : State) (pg : Nat) (f : Fld) (v : Nat) (q : Nat) (d : Ctr) : (s.put pg f v).count q d = s.count q d := count_congr (put_live _ _ _ _) q d

@[simp] theorem ent_putBit (s : State) (pg : Nat) (f : Fld) (b : Bool) (q u j : Nat) : (s.putBit pg f b).ent q u j = s.ent q u j := ent_congr (putBit_tabs _ _ _ _) q u j
@[simp] theorem getE_putBit (s : State) (pg : Nat) (f : Fld) (b : Bool) (q u j : Nat) (g : TF) : (s.putBit pg f b).getE q u j g = s.getE q u j g := getE_congr (putBit_tabs _ _ _ _) q u j g
@[simp] theorem count_putBit (s : State) (pg : Nat) (f : Fld) (b : Bool) (q : Nat) (d : Ctr) : (s.putBit pg f b).count q d = s.count q d := count_congr (putBit_live _ _ _ _) q d

@[simp] theorem ent_putI (s : State) (pg : Nat) (f : Fld) (x : Int) (q u j : Nat) : (s.putI pg f x).ent q u j = s.ent q u j := ent_congr (putI_tabs _ _ _ _) q u j
@[simp] theorem getE_putI (s : State) (pg : Nat) (f : Fld) (x : Int) (q u j : Nat) (g : TF) : (s.putI pg f x).getE q u j g = s.getE q u j g := getE_congr (putI_tabs _ _ _ _) q u j g
@[simp] theorem count_putI (s : State) (pg : Nat) (f : Fld) (x : Int) (q : Nat) (d : Ctr) : (s.putI pg f x).count q d = s.count q d := count_congr (putI_live _ _ _ _) q d

@[simp] theorem ent_incWrap (s : State) (pg : Nat) (f : Fld) (n : Nat) (q u j : Nat) : (s.incWrap pg f n).ent q u j = s.ent q u j := ent_congr (incWrap_tabs _ _ _ _) q u j
@[simp] theorem getE_incWrap (s : State) (pg : Nat) (f : Fld) (n : Nat) (q u j : Nat) (g : TF) : (s.incWrap pg f n).getE q u j g = s.getE q u j g := getE_congr (incWrap_tabs _ _ _ _) q u j g
@[simp] theorem count_incWrap (s : State) (pg : Nat) (f : Fld) (n : Nat) (q : Nat) (d : Ctr) : (s.incWrap pg f n).count q d = s.count q d := count_congr (incWrap_live _ _ _ _) q d

@[simp] theorem ent_incSat (s : State) (pg : Nat) (f : Fld) (n : Nat) (q u j : Nat) : (s.incSat pg f n).ent q u j = s.ent q u j := ent_congr (incSat_tabs _ _ _ _) q u j
@[simp] theorem getE_incSat (s : State) (pg : Nat) (f : Fld) (n : Nat) (q u j : Nat) (g : TF) : (s.incSat pg f n).getE q u j g = s.getE q u j g := getE_congr (incSat_tabs _ _ _ _) q u j g
@[simp] theorem count_incSat (s : State) (pg : Nat) (f : Fld) (n : Nat) (q : Nat) (d : Ctr) : (s.incSat pg f n).count q d = s.count q d := count_congr (incSat_live _ _ _ _) q d

@[simp] theorem ent_raise (s : State) (pg b : Nat) (q u j : Nat) : (s.raise pg b).ent q u j = s.ent q u j := ent_congr (raise_tabs _ _ _) q u j
@[simp] theorem getE_raise (s : State) (pg b : Nat) (q u j : Nat) (g : TF) : (s.raise pg b).getE q u j g = s.getE q u j g := getE_congr (raise_tabs _ _ _) q u j g
@[simp] theorem count_raise (s : State) (pg b : Nat) (q : Nat) (d : Ctr) : (s.raise pg b).count q d = s.count q d := count_congr (raise_live _ _ _) q d

@[simp] theorem ent_levelTo (s : State) (pg b : Nat) (v : Bool) (q u j : Nat) : (s.levelTo pg b v).ent q u j = s.ent q u j := ent_congr (levelTo_tabs _ _ _ _) q u j
@[simp] theorem getE_levelTo (s : State) (pg b : Nat) (v : Bool) (q u j : Nat) (g : TF) : (s.levelTo pg b v).getE q u j g = s.getE q u j g := getE_congr (levelTo_tabs _ _ _ _) q u j g
@[simp] theorem count_levelTo (s : State) (pg b : Nat) (v : Bool) (q : Nat) (d : Ctr) : (s.levelTo pg b v).count q d = s.count q d := count_congr (levelTo_live _ _ _ _) q d

@[simp] theorem reg_settle (s : State) (o : State) (y : Nat) : (State.settle o s).reg y = s.reg y := reg_congr (settle_regs _ _) y
@[simp] theorem get_settle (s : State) (o : State) (q : Nat) (g : Fld) : (State.settle o s).get q g = s.get q g := get_congr (settle_regs _ _) q g
@[simp] theorem bit_settle (s : State) (o : State) (q : Nat) (g : Fld) : (State.settle o s).bit q g = s.bit q g := bit_congr (settle_regs _ _) q g
@[simp] theorem ent_settle (s : State) (o : State) (q u j : Nat) : (State.settle o s).ent q u j = s.ent q u j := ent_congr (settle_tabs _ _) q u j
@[simp] theorem getE_settle (s : State) (o : State) (q u j : Nat) (g : TF) : (State.settle o s).getE q u j g = s.getE q u j g := getE_congr (settle_tabs _ _) q u j g
@[simp] theorem count_settle (s : State) (o : State) (q : Nat) (d : Ctr) : (State.settle o s).count q d = s.count q d := count_congr (settle_live _ _) q d

/-! ### Updates of a whole field -/

theorem ent_set_regs (s : State) {x} (q u j : Nat) : ({ s with regs := x } : State).ent q u j = s.ent q u j := (rfl)
theorem getE_set_regs (s : State) {x} (q u j : Nat) (g : TF) : ({ s with regs := x } : State).getE q u j g = s.getE q u j g := (rfl)
theorem count_set_regs (s : State) {x} (q : Nat) (d : Ctr) : ({ s with regs := x } : State).count q d = s.count q d := (rfl)
theorem reg_set_staged (s : State) {x} (y : Nat) : ({ s with staged := x } : State).reg y = s.reg y := (rfl)
theorem get_set_staged (s : State) {x} (q : Nat) (g : Fld) : ({ s with staged := x } : State).get q g = s.get q g := (rfl)
theorem bit_set_staged (s : State) {x} (q : Nat) (g : Fld) : ({ s with staged := x } : State).bit q g = s.bit q g := (rfl)
theorem pends_set_staged (s : State) {x} (q b : Nat) : ({ s with staged := x } : State).pends q b = s.pends q b := (rfl)
theorem ent_set_staged (s : State) {x} (q u j : Nat) : ({ s with staged := x } : State).ent q u j = s.ent q u j := (rfl)
theorem getE_set_staged (s : State) {x} (q u j : Nat) (g : TF) : ({ s with staged := x } : State).getE q u j g = s.getE q u j g := (rfl)
theorem count_set_staged (s : State) {x} (q : Nat) (d : Ctr) : ({ s with staged := x } : State).count q d = s.count q d := (rfl)
theorem reg_set_live (s : State) {x} (y : Nat) : ({ s with live := x } : State).reg y = s.reg y := (rfl)
theorem get_set_live (s : State) {x} (q : Nat) (g : Fld) : ({ s with live := x } : State).get q g = s.get q g := (rfl)
theorem bit_set_live (s : State) {x} (q : Nat) (g : Fld) : ({ s with live := x } : State).bit q g = s.bit q g := (rfl)
theorem pends_set_live (s : State) {x} (q b : Nat) : ({ s with live := x } : State).pends q b = s.pends q b := (rfl)
theorem ent_set_live (s : State) {x} (q u j : Nat) : ({ s with live := x } : State).ent q u j = s.ent q u j := (rfl)
theorem getE_set_live (s : State) {x} (q u j : Nat) (g : TF) : ({ s with live := x } : State).getE q u j g = s.getE q u j g := (rfl)
theorem reg_set_tabs (s : State) {x} (y : Nat) : ({ s with tabs := x } : State).reg y = s.reg y := (rfl)
theorem get_set_tabs (s : State) {x} (q : Nat) (g : Fld) : ({ s with tabs := x } : State).get q g = s.get q g := (rfl)
theorem bit_set_tabs (s : State) {x} (q : Nat) (g : Fld) : ({ s with tabs := x } : State).bit q g = s.bit q g := (rfl)
theorem pends_set_tabs (s : State) {x} (q b : Nat) : ({ s with tabs := x } : State).pends q b = s.pends q b := (rfl)
theorem count_set_tabs (s : State) {x} (q : Nat) (d : Ctr) : ({ s with tabs := x } : State).count q d = s.count q d := (rfl)
theorem reg_set_bad (s : State) {x} (y : Nat) : ({ s with bad := x } : State).reg y = s.reg y := (rfl)
theorem get_set_bad (s : State) {x} (q : Nat) (g : Fld) : ({ s with bad := x } : State).get q g = s.get q g := (rfl)
theorem bit_set_bad (s : State) {x} (q : Nat) (g : Fld) : ({ s with bad := x } : State).bit q g = s.bit q g := (rfl)
theorem pends_set_bad (s : State) {x} (q b : Nat) : ({ s with bad := x } : State).pends q b = s.pends q b := (rfl)
theorem ent_set_bad (s : State) {x} (q u j : Nat) : ({ s with bad := x } : State).ent q u j = s.ent q u j := (rfl)
theorem getE_set_bad (s : State) {x} (q u j : Nat) (g : TF) : ({ s with bad := x } : State).getE q u j g = s.getE q u j g := (rfl)
theorem count_set_bad (s : State) {x} (q : Nat) (d : Ctr) : ({ s with bad := x } : State).count q d = s.count q d := (rfl)
theorem reg_set_poison (s : State) {x} (y : Nat) : ({ s with poison := x } : State).reg y = s.reg y := (rfl)
theorem get_set_poison (s : State) {x} (q : Nat) (g : Fld) : ({ s with poison := x } : State).get q g = s.get q g := (rfl)
theorem bit_set_poison (s : State) {x} (q : Nat) (g : Fld) : ({ s with poison := x } : State).bit q g = s.bit q g := (rfl)
theorem pends_set_poison (s : State) {x} (q b : Nat) : ({ s with poison := x } : State).pends q b = s.pends q b := (rfl)
theorem ent_set_poison (s : State) {x} (q u j : Nat) : ({ s with poison := x } : State).ent q u j = s.ent q u j := (rfl)
theorem getE_set_poison (s : State) {x} (q u j : Nat) (g : TF) : ({ s with poison := x } : State).getE q u j g = s.getE q u j g := (rfl)
theorem count_set_poison (s : State) {x} (q : Nat) (d : Ctr) : ({ s with poison := x } : State).count q d = s.count q d := (rfl)
theorem reg_set_sticky (s : State) {x} (y : Nat) : ({ s with sticky := x } : State).reg y = s.reg y := (rfl)
theorem get_set_sticky (s : State) {x} (q : Nat) (g : Fld) : ({ s with sticky := x } : State).get q g = s.get q g := (rfl)
theorem bit_set_sticky (s : State) {x} (q : Nat) (g : Fld) : ({ s with sticky := x } : State).bit q g = s.bit q g := (rfl)
theorem pends_set_sticky (s : State) {x} (q b : Nat) : ({ s with sticky := x } : State).pends q b = s.pends q b := (rfl)
theorem ent_set_sticky (s : State) {x} (q u j : Nat) : ({ s with sticky := x } : State).ent q u j = s.ent q u j := (rfl)
theorem getE_set_sticky (s : State) {x} (q u j : Nat) (g : TF) : ({ s with sticky := x } : State).getE q u j g = s.getE q u j g := (rfl)
theorem count_set_sticky (s : State) {x} (q : Nat) (d : Ctr) : ({ s with sticky := x } : State).count q d = s.count q d := (rfl)
theorem reg_set_vecs (s : State) {x} (y : Nat) : ({ s with vecs := x } : State).reg y = s.reg y := (rfl)
theorem get_set_vecs (s : State) {x} (q : Nat) (g : Fld) : ({ s with vecs := x } : State).get q g = s.get q g := (rfl)
theorem bit_set_vecs (s : State) {x} (q : Nat) (g : Fld) : ({ s with vecs := x } : State).bit q g = s.bit q g := (rfl)
theorem pends_set_vecs (s : State) {x} (q b : Nat) : ({ s with vecs := x } : State).pends q b = s.pends q b := (rfl)
theorem ent_set_vecs (s : State) {x} (q u j : Nat) : ({ s with vecs := x } : State).ent q u j = s.ent q u j := (rfl)
theorem getE_set_vecs (s : State) {x} (q u j : Nat) (g : TF) : ({ s with vecs := x } : State).getE q u j g = s.getE q u j g := (rfl)
theorem count_set_vecs (s : State) {x} (q : Nat) (d : Ctr) : ({ s with vecs := x } : State).count q d = s.count q d := (rfl)
theorem reg_set_dev (s : State) {x} (y : Nat) : ({ s with dev := x } : State).reg y = s.reg y := (rfl)
theorem get_set_dev (s : State) {x} (q : Nat) (g : Fld) : ({ s with dev := x } : State).get q g = s.get q g := (rfl)
theorem bit_set_dev (s : State) {x} (q : Nat) (g : Fld) : ({ s with dev := x } : State).bit q g = s.bit q g := (rfl)
theorem pends_set_dev (s : State) {x} (q b : Nat) : ({ s with dev := x } : State).pends q b = s.pends q b := (rfl)
theorem ent_set_dev (s : State) {x} (q u j : Nat) : ({ s with dev := x } : State).ent q u j = s.ent q u j := (rfl)
theorem getE_set_dev (s : State) {x} (q u j : Nat) (g : TF) : ({ s with dev := x } : State).getE q u j g = s.getE q u j g := (rfl)
theorem count_set_dev (s : State) {x} (q : Nat) (d : Ctr) : ({ s with dev := x } : State).count q d = s.count q d := (rfl)
theorem reg_set_lanes (s : State) {x} (y : Nat) : ({ s with lanes := x } : State).reg y = s.reg y := (rfl)
theorem get_set_lanes (s : State) {x} (q : Nat) (g : Fld) : ({ s with lanes := x } : State).get q g = s.get q g := (rfl)
theorem bit_set_lanes (s : State) {x} (q : Nat) (g : Fld) : ({ s with lanes := x } : State).bit q g = s.bit q g := (rfl)
theorem pends_set_lanes (s : State) {x} (q b : Nat) : ({ s with lanes := x } : State).pends q b = s.pends q b := (rfl)
theorem ent_set_lanes (s : State) {x} (q u j : Nat) : ({ s with lanes := x } : State).ent q u j = s.ent q u j := (rfl)
theorem getE_set_lanes (s : State) {x} (q u j : Nat) (g : TF) : ({ s with lanes := x } : State).getE q u j g = s.getE q u j g := (rfl)
theorem count_set_lanes (s : State) {x} (q : Nat) (d : Ctr) : ({ s with lanes := x } : State).count q d = s.count q d := (rfl)
theorem reg_set_refAbsent (s : State) {x} (y : Nat) : ({ s with refAbsent := x } : State).reg y = s.reg y := (rfl)
theorem get_set_refAbsent (s : State) {x} (q : Nat) (g : Fld) : ({ s with refAbsent := x } : State).get q g = s.get q g := (rfl)
theorem bit_set_refAbsent (s : State) {x} (q : Nat) (g : Fld) : ({ s with refAbsent := x } : State).bit q g = s.bit q g := (rfl)
theorem pends_set_refAbsent (s : State) {x} (q b : Nat) : ({ s with refAbsent := x } : State).pends q b = s.pends q b := (rfl)
theorem ent_set_refAbsent (s : State) {x} (q u j : Nat) : ({ s with refAbsent := x } : State).ent q u j = s.ent q u j := (rfl)
theorem getE_set_refAbsent (s : State) {x} (q u j : Nat) (g : TF) : ({ s with refAbsent := x } : State).getE q u j g = s.getE q u j g := (rfl)
theorem count_set_refAbsent (s : State) {x} (q : Nat) (d : Ctr) : ({ s with refAbsent := x } : State).count q d = s.count q d := (rfl)
theorem reg_set_tbs (s : State) {x} (y : Nat) : ({ s with tbs := x } : State).reg y = s.reg y := (rfl)
theorem get_set_tbs (s : State) {x} (q : Nat) (g : Fld) : ({ s with tbs := x } : State).get q g = s.get q g := (rfl)
theorem bit_set_tbs (s : State) {x} (q : Nat) (g : Fld) : ({ s with tbs := x } : State).bit q g = s.bit q g := (rfl)
theorem pends_set_tbs (s : State) {x} (q b : Nat) : ({ s with tbs := x } : State).pends q b = s.pends q b := (rfl)
theorem ent_set_tbs (s : State) {x} (q u j : Nat) : ({ s with tbs := x } : State).ent q u j = s.ent q u j := (rfl)
theorem getE_set_tbs (s : State) {x} (q u j : Nat) (g : TF) : ({ s with tbs := x } : State).getE q u j g = s.getE q u j g := (rfl)
theorem count_set_tbs (s : State) {x} (q : Nat) (d : Ctr) : ({ s with tbs := x } : State).count q d = s.count q d := (rfl)
theorem reg_set_tbRun (s : State) {x} (y : Nat) : ({ s with tbRun := x } : State).reg y = s.reg y := (rfl)
theorem get_set_tbRun (s : State) {x} (q : Nat) (g : Fld) : ({ s with tbRun := x } : State).get q g = s.get q g := (rfl)
theorem bit_set_tbRun (s : State) {x} (q : Nat) (g : Fld) : ({ s with tbRun := x } : State).bit q g = s.bit q g := (rfl)
theorem pends_set_tbRun (s : State) {x} (q b : Nat) : ({ s with tbRun := x } : State).pends q b = s.pends q b := (rfl)
theorem ent_set_tbRun (s : State) {x} (q u j : Nat) : ({ s with tbRun := x } : State).ent q u j = s.ent q u j := (rfl)
theorem getE_set_tbRun (s : State) {x} (q u j : Nat) (g : TF) : ({ s with tbRun := x } : State).getE q u j g = s.getE q u j g := (rfl)
theorem count_set_tbRun (s : State) {x} (q : Nat) (d : Ctr) : ({ s with tbRun := x } : State).count q d = s.count q d := (rfl)
theorem reg_set_pps (s : State) {x} (y : Nat) : ({ s with pps := x } : State).reg y = s.reg y := (rfl)
theorem get_set_pps (s : State) {x} (q : Nat) (g : Fld) : ({ s with pps := x } : State).get q g = s.get q g := (rfl)
theorem bit_set_pps (s : State) {x} (q : Nat) (g : Fld) : ({ s with pps := x } : State).bit q g = s.bit q g := (rfl)
theorem pends_set_pps (s : State) {x} (q b : Nat) : ({ s with pps := x } : State).pends q b = s.pends q b := (rfl)
theorem ent_set_pps (s : State) {x} (q u j : Nat) : ({ s with pps := x } : State).ent q u j = s.ent q u j := (rfl)
theorem getE_set_pps (s : State) {x} (q u j : Nat) (g : TF) : ({ s with pps := x } : State).getE q u j g = s.getE q u j g := (rfl)
theorem count_set_pps (s : State) {x} (q : Nat) (d : Ctr) : ({ s with pps := x } : State).count q d = s.count q d := (rfl)
theorem reg_set_ppsOn (s : State) {x} (y : Nat) : ({ s with ppsOn := x } : State).reg y = s.reg y := (rfl)
theorem get_set_ppsOn (s : State) {x} (q : Nat) (g : Fld) : ({ s with ppsOn := x } : State).get q g = s.get q g := (rfl)
theorem bit_set_ppsOn (s : State) {x} (q : Nat) (g : Fld) : ({ s with ppsOn := x } : State).bit q g = s.bit q g := (rfl)
theorem pends_set_ppsOn (s : State) {x} (q b : Nat) : ({ s with ppsOn := x } : State).pends q b = s.pends q b := (rfl)
theorem ent_set_ppsOn (s : State) {x} (q u j : Nat) : ({ s with ppsOn := x } : State).ent q u j = s.ent q u j := (rfl)
theorem getE_set_ppsOn (s : State) {x} (q u j : Nat) (g : TF) : ({ s with ppsOn := x } : State).getE q u j g = s.getE q u j g := (rfl)
theorem count_set_ppsOn (s : State) {x} (q : Nat) (d : Ctr) : ({ s with ppsOn := x } : State).count q d = s.count q d := (rfl)
theorem reg_set_fsyncLast (s : State) {x} (y : Nat) : ({ s with fsyncLast := x } : State).reg y = s.reg y := (rfl)
theorem get_set_fsyncLast (s : State) {x} (q : Nat) (g : Fld) : ({ s with fsyncLast := x } : State).get q g = s.get q g := (rfl)
theorem bit_set_fsyncLast (s : State) {x} (q : Nat) (g : Fld) : ({ s with fsyncLast := x } : State).bit q g = s.bit q g := (rfl)
theorem pends_set_fsyncLast (s : State) {x} (q b : Nat) : ({ s with fsyncLast := x } : State).pends q b = s.pends q b := (rfl)
theorem ent_set_fsyncLast (s : State) {x} (q u j : Nat) : ({ s with fsyncLast := x } : State).ent q u j = s.ent q u j := (rfl)
theorem getE_set_fsyncLast (s : State) {x} (q u j : Nat) (g : TF) : ({ s with fsyncLast := x } : State).getE q u j g = s.getE q u j g := (rfl)
theorem count_set_fsyncLast (s : State) {x} (q : Nat) (d : Ctr) : ({ s with fsyncLast := x } : State).count q d = s.count q d := (rfl)
theorem reg_set_bp (s : State) {x} (y : Nat) : ({ s with bp := x } : State).reg y = s.reg y := (rfl)
theorem get_set_bp (s : State) {x} (q : Nat) (g : Fld) : ({ s with bp := x } : State).get q g = s.get q g := (rfl)
theorem bit_set_bp (s : State) {x} (q : Nat) (g : Fld) : ({ s with bp := x } : State).bit q g = s.bit q g := (rfl)
theorem pends_set_bp (s : State) {x} (q b : Nat) : ({ s with bp := x } : State).pends q b = s.pends q b := (rfl)
theorem ent_set_bp (s : State) {x} (q u j : Nat) : ({ s with bp := x } : State).ent q u j = s.ent q u j := (rfl)
theorem getE_set_bp (s : State) {x} (q u j : Nat) (g : TF) : ({ s with bp := x } : State).getE q u j g = s.getE q u j g := (rfl)
theorem count_set_bp (s : State) {x} (q : Nat) (d : Ctr) : ({ s with bp := x } : State).count q d = s.count q d := (rfl)
theorem reg_set_tm (s : State) {x} (y : Nat) : ({ s with tm := x } : State).reg y = s.reg y := (rfl)
theorem get_set_tm (s : State) {x} (q : Nat) (g : Fld) : ({ s with tm := x } : State).get q g = s.get q g := (rfl)
theorem bit_set_tm (s : State) {x} (q : Nat) (g : Fld) : ({ s with tm := x } : State).bit q g = s.bit q g := (rfl)
theorem pends_set_tm (s : State) {x} (q b : Nat) : ({ s with tm := x } : State).pends q b = s.pends q b := (rfl)
theorem ent_set_tm (s : State) {x} (q u j : Nat) : ({ s with tm := x } : State).ent q u j = s.ent q u j := (rfl)
theorem getE_set_tm (s : State) {x} (q u j : Nat) (g : TF) : ({ s with tm := x } : State).getE q u j g = s.getE q u j g := (rfl)
theorem count_set_tm (s : State) {x} (q : Nat) (d : Ctr) : ({ s with tm := x } : State).count q d = s.count q d := (rfl)
theorem reg_set_gl (s : State) {x} (y : Nat) : ({ s with gl := x } : State).reg y = s.reg y := (rfl)
theorem get_set_gl (s : State) {x} (q : Nat) (g : Fld) : ({ s with gl := x } : State).get q g = s.get q g := (rfl)
theorem bit_set_gl (s : State) {x} (q : Nat) (g : Fld) : ({ s with gl := x } : State).bit q g = s.bit q g := (rfl)
theorem pends_set_gl (s : State) {x} (q b : Nat) : ({ s with gl := x } : State).pends q b = s.pends q b := (rfl)
theorem ent_set_gl (s : State) {x} (q u j : Nat) : ({ s with gl := x } : State).ent q u j = s.ent q u j := (rfl)
theorem getE_set_gl (s : State) {x} (q u j : Nat) (g : TF) : ({ s with gl := x } : State).getE q u j g = s.getE q u j g := (rfl)
theorem count_set_gl (s : State) {x} (q : Nat) (d : Ctr) : ({ s with gl := x } : State).count q d = s.count q d := (rfl)
theorem reg_set_pes (s : State) {x} (y : Nat) : ({ s with pes := x } : State).reg y = s.reg y := (rfl)
theorem get_set_pes (s : State) {x} (q : Nat) (g : Fld) : ({ s with pes := x } : State).get q g = s.get q g := (rfl)
theorem bit_set_pes (s : State) {x} (q : Nat) (g : Fld) : ({ s with pes := x } : State).bit q g = s.bit q g := (rfl)
theorem pends_set_pes (s : State) {x} (q b : Nat) : ({ s with pes := x } : State).pends q b = s.pends q b := (rfl)
theorem ent_set_pes (s : State) {x} (q u j : Nat) : ({ s with pes := x } : State).ent q u j = s.ent q u j := (rfl)
theorem getE_set_pes (s : State) {x} (q u j : Nat) (g : TF) : ({ s with pes := x } : State).getE q u j g = s.getE q u j g := (rfl)
theorem count_set_pes (s : State) {x} (q : Nat) (d : Ctr) : ({ s with pes := x } : State).count q d = s.count q d := (rfl)
theorem reg_set_gps (s : State) {x} (y : Nat) : ({ s with gps := x } : State).reg y = s.reg y := (rfl)
theorem get_set_gps (s : State) {x} (q : Nat) (g : Fld) : ({ s with gps := x } : State).get q g = s.get q g := (rfl)
theorem bit_set_gps (s : State) {x} (q : Nat) (g : Fld) : ({ s with gps := x } : State).bit q g = s.bit q g := (rfl)
theorem pends_set_gps (s : State) {x} (q b : Nat) : ({ s with gps := x } : State).pends q b = s.pends q b := (rfl)
theorem ent_set_gps (s : State) {x} (q u j : Nat) : ({ s with gps := x } : State).ent q u j = s.ent q u j := (rfl)
theorem getE_set_gps (s : State) {x} (q u j : Nat) (g : TF) : ({ s with gps := x } : State).getE q u j g = s.getE q u j g := (rfl)
theorem count_set_gps (s : State) {x} (q : Nat) (d : Ctr) : ({ s with gps := x } : State).count q d = s.count q d := (rfl)
theorem reg_set_keys (s : State) {x} (y : Nat) : ({ s with keys := x } : State).reg y = s.reg y := (rfl)
theorem get_set_keys (s : State) {x} (q : Nat) (g : Fld) : ({ s with keys := x } : State).get q g = s.get q g := (rfl)
theorem bit_set_keys (s : State) {x} (q : Nat) (g : Fld) : ({ s with keys := x } : State).bit q g = s.bit q g := (rfl)
theorem pends_set_keys (s : State) {x} (q b : Nat) : ({ s with keys := x } : State).pends q b = s.pends q b := (rfl)
theorem ent_set_keys (s : State) {x} (q u j : Nat) : ({ s with keys := x } : State).ent q u j = s.ent q u j := (rfl)
theorem getE_set_keys (s : State) {x} (q u j : Nat) (g : TF) : ({ s with keys := x } : State).getE q u j g = s.getE q u j g := (rfl)
theorem count_set_keys (s : State) {x} (q : Nat) (d : Ctr) : ({ s with keys := x } : State).count q d = s.count q d := (rfl)
theorem reg_set_lookups (s : State) {x} (y : Nat) : ({ s with lookups := x } : State).reg y = s.reg y := (rfl)
theorem get_set_lookups (s : State) {x} (q : Nat) (g : Fld) : ({ s with lookups := x } : State).get q g = s.get q g := (rfl)
theorem bit_set_lookups (s : State) {x} (q : Nat) (g : Fld) : ({ s with lookups := x } : State).bit q g = s.bit q g := (rfl)
theorem pends_set_lookups (s : State) {x} (q b : Nat) : ({ s with lookups := x } : State).pends q b = s.pends q b := (rfl)
theorem ent_set_lookups (s : State) {x} (q u j : Nat) : ({ s with lookups := x } : State).ent q u j = s.ent q u j := (rfl)
theorem getE_set_lookups (s : State) {x} (q u j : Nat) (g : TF) : ({ s with lookups := x } : State).getE q u j g = s.getE q u j g := (rfl)
theorem count_set_lookups (s : State) {x} (q : Nat) (d : Ctr) : ({ s with lookups := x } : State).count q d = s.count q d := (rfl)
theorem reg_set_lk (s : State) {x} (y : Nat) : ({ s with lk := x } : State).reg y = s.reg y := (rfl)
theorem get_set_lk (s : State) {x} (q : Nat) (g : Fld) : ({ s with lk := x } : State).get q g = s.get q g := (rfl)
theorem bit_set_lk (s : State) {x} (q : Nat) (g : Fld) : ({ s with lk := x } : State).bit q g = s.bit q g := (rfl)
theorem pends_set_lk (s : State) {x} (q b : Nat) : ({ s with lk := x } : State).pends q b = s.pends q b := (rfl)
theorem ent_set_lk (s : State) {x} (q u j : Nat) : ({ s with lk := x } : State).ent q u j = s.ent q u j := (rfl)
theorem getE_set_lk (s : State) {x} (q u j : Nat) (g : TF) : ({ s with lk := x } : State).getE q u j g = s.getE q u j g := (rfl)
theorem count_set_lk (s : State) {x} (q : Nat) (d : Ctr) : ({ s with lk := x } : State).count q d = s.count q d := (rfl)
theorem reg_set_ul (s : State) {x} (y : Nat) : ({ s with ul := x } : State).reg y = s.reg y := (rfl)
theorem get_set_ul (s : State) {x} (q : Nat) (g : Fld) : ({ s with ul := x } : State).get q g = s.get q g := (rfl)
theorem bit_set_ul (s : State) {x} (q : Nat) (g : Fld) : ({ s with ul := x } : State).bit q g = s.bit q g := (rfl)
theorem pends_set_ul (s : State) {x} (q b : Nat) : ({ s with ul := x } : State).pends q b = s.pends q b := (rfl)
theorem ent_set_ul (s : State) {x} (q u j : Nat) : ({ s with ul := x } : State).ent q u j = s.ent q u j := (rfl)
theorem getE_set_ul (s : State) {x} (q u j : Nat) (g : TF) : ({ s with ul := x } : State).getE q u j g = s.getE q u j g := (rfl)
theorem count_set_ul (s : State) {x} (q : Nat) (d : Ctr) : ({ s with ul := x } : State).count q d = s.count q d := (rfl)
theorem reg_set_hx (s : State) {x} (y : Nat) : ({ s with hx := x } : State).reg y = s.reg y := (rfl)
theorem get_set_hx (s : State) {x} (q : Nat) (g : Fld) : ({ s with hx := x } : State).get q g = s.get q g := (rfl)
theorem bit_set_hx (s : State) {x} (q : Nat) (g : Fld) : ({ s with hx := x } : State).bit q g = s.bit q g := (rfl)
theorem pends_set_hx (s : State) {x} (q b : Nat) : ({ s with hx := x } : State).pends q b = s.pends q b := (rfl)
theorem ent_set_hx (s : State) {x} (q u j : Nat) : ({ s with hx := x } : State).ent q u j = s.ent q u j := (rfl)
theorem getE_set_hx (s : State) {x} (q u j : Nat) (g : TF) : ({ s with hx := x } : State).getE q u j g = s.getE q u j g := (rfl)
theorem count_set_hx (s : State) {x} (q : Nat) (d : Ctr) : ({ s with hx := x } : State).count q d = s.count q d := (rfl)
theorem reg_set_mx (s : State) {x} (y : Nat) : ({ s with mx := x } : State).reg y = s.reg y := (rfl)
theorem get_set_mx (s : State) {x} (q : Nat) (g : Fld) : ({ s with mx := x } : State).get q g = s.get q g := (rfl)
theorem bit_set_mx (s : State) {x} (q : Nat) (g : Fld) : ({ s with mx := x } : State).bit q g = s.bit q g := (rfl)
theorem pends_set_mx (s : State) {x} (q b : Nat) : ({ s with mx := x } : State).pends q b = s.pends q b := (rfl)
theorem ent_set_mx (s : State) {x} (q u j : Nat) : ({ s with mx := x } : State).ent q u j = s.ent q u j := (rfl)
theorem getE_set_mx (s : State) {x} (q u j : Nat) (g : TF) : ({ s with mx := x } : State).getE q u j g = s.getE q u j g := (rfl)
theorem count_set_mx (s : State) {x} (q : Nat) (d : Ctr) : ({ s with mx := x } : State).count q d = s.count q d := (rfl)
theorem reg_set_hostMem (s : State) {x} (y : Nat) : ({ s with hostMem := x } : State).reg y = s.reg y := (rfl)
theorem get_set_hostMem (s : State) {x} (q : Nat) (g : Fld) : ({ s with hostMem := x } : State).get q g = s.get q g := (rfl)
theorem bit_set_hostMem (s : State) {x} (q : Nat) (g : Fld) : ({ s with hostMem := x } : State).bit q g = s.bit q g := (rfl)
theorem pends_set_hostMem (s : State) {x} (q b : Nat) : ({ s with hostMem := x } : State).pends q b = s.pends q b := (rfl)
theorem ent_set_hostMem (s : State) {x} (q u j : Nat) : ({ s with hostMem := x } : State).ent q u j = s.ent q u j := (rfl)
theorem getE_set_hostMem (s : State) {x} (q u j : Nat) (g : TF) : ({ s with hostMem := x } : State).getE q u j g = s.getE q u j g := (rfl)
theorem count_set_hostMem (s : State) {x} (q : Nat) (d : Ctr) : ({ s with hostMem := x } : State).count q d = s.count q d := (rfl)
theorem reg_set_cxl (s : State) {x} (y : Nat) : ({ s with cxl := x } : State).reg y = s.reg y := (rfl)
theorem get_set_cxl (s : State) {x} (q : Nat) (g : Fld) : ({ s with cxl := x } : State).get q g = s.get q g := (rfl)
theorem bit_set_cxl (s : State) {x} (q : Nat) (g : Fld) : ({ s with cxl := x } : State).bit q g = s.bit q g := (rfl)
theorem pends_set_cxl (s : State) {x} (q b : Nat) : ({ s with cxl := x } : State).pends q b = s.pends q b := (rfl)
theorem ent_set_cxl (s : State) {x} (q u j : Nat) : ({ s with cxl := x } : State).ent q u j = s.ent q u j := (rfl)
theorem getE_set_cxl (s : State) {x} (q u j : Nat) (g : TF) : ({ s with cxl := x } : State).getE q u j g = s.getE q u j g := (rfl)
theorem count_set_cxl (s : State) {x} (q : Nat) (d : Ctr) : ({ s with cxl := x } : State).count q d = s.count q d := (rfl)
theorem reg_set_ce (s : State) {x} (y : Nat) : ({ s with ce := x } : State).reg y = s.reg y := (rfl)
theorem get_set_ce (s : State) {x} (q : Nat) (g : Fld) : ({ s with ce := x } : State).get q g = s.get q g := (rfl)
theorem bit_set_ce (s : State) {x} (q : Nat) (g : Fld) : ({ s with ce := x } : State).bit q g = s.bit q g := (rfl)
theorem pends_set_ce (s : State) {x} (q b : Nat) : ({ s with ce := x } : State).pends q b = s.pends q b := (rfl)
theorem ent_set_ce (s : State) {x} (q u j : Nat) : ({ s with ce := x } : State).ent q u j = s.ent q u j := (rfl)
theorem getE_set_ce (s : State) {x} (q u j : Nat) (g : TF) : ({ s with ce := x } : State).getE q u j g = s.getE q u j g := (rfl)
theorem count_set_ce (s : State) {x} (q : Nat) (d : Ctr) : ({ s with ce := x } : State).count q d = s.count q d := (rfl)
theorem reg_set_als (s : State) {x} (y : Nat) : ({ s with als := x } : State).reg y = s.reg y := (rfl)
theorem get_set_als (s : State) {x} (q : Nat) (g : Fld) : ({ s with als := x } : State).get q g = s.get q g := (rfl)
theorem bit_set_als (s : State) {x} (q : Nat) (g : Fld) : ({ s with als := x } : State).bit q g = s.bit q g := (rfl)
theorem pends_set_als (s : State) {x} (q b : Nat) : ({ s with als := x } : State).pends q b = s.pends q b := (rfl)
theorem ent_set_als (s : State) {x} (q u j : Nat) : ({ s with als := x } : State).ent q u j = s.ent q u j := (rfl)
theorem getE_set_als (s : State) {x} (q u j : Nat) (g : TF) : ({ s with als := x } : State).getE q u j g = s.getE q u j g := (rfl)
theorem count_set_als (s : State) {x} (q : Nat) (d : Ctr) : ({ s with als := x } : State).count q d = s.count q d := (rfl)
theorem reg_set_dm (s : State) {x} (y : Nat) : ({ s with dm := x } : State).reg y = s.reg y := (rfl)
theorem get_set_dm (s : State) {x} (q : Nat) (g : Fld) : ({ s with dm := x } : State).get q g = s.get q g := (rfl)
theorem bit_set_dm (s : State) {x} (q : Nat) (g : Fld) : ({ s with dm := x } : State).bit q g = s.bit q g := (rfl)
theorem pends_set_dm (s : State) {x} (q b : Nat) : ({ s with dm := x } : State).pends q b = s.pends q b := (rfl)
theorem ent_set_dm (s : State) {x} (q u j : Nat) : ({ s with dm := x } : State).ent q u j = s.ent q u j := (rfl)
theorem getE_set_dm (s : State) {x} (q u j : Nat) (g : TF) : ({ s with dm := x } : State).getE q u j g = s.getE q u j g := (rfl)
theorem count_set_dm (s : State) {x} (q : Nat) (d : Ctr) : ({ s with dm := x } : State).count q d = s.count q d := (rfl)
theorem reg_set_px (s : State) {x} (y : Nat) : ({ s with px := x } : State).reg y = s.reg y := (rfl)
theorem get_set_px (s : State) {x} (q : Nat) (g : Fld) : ({ s with px := x } : State).get q g = s.get q g := (rfl)
theorem bit_set_px (s : State) {x} (q : Nat) (g : Fld) : ({ s with px := x } : State).bit q g = s.bit q g := (rfl)
theorem pends_set_px (s : State) {x} (q b : Nat) : ({ s with px := x } : State).pends q b = s.pends q b := (rfl)
theorem ent_set_px (s : State) {x} (q u j : Nat) : ({ s with px := x } : State).ent q u j = s.ent q u j := (rfl)
theorem getE_set_px (s : State) {x} (q u j : Nat) (g : TF) : ({ s with px := x } : State).getE q u j g = s.getE q u j g := (rfl)
theorem count_set_px (s : State) {x} (q : Nat) (d : Ctr) : ({ s with px := x } : State).count q d = s.count q d := (rfl)
theorem reg_set_pw (s : State) {x} (y : Nat) : ({ s with pw := x } : State).reg y = s.reg y := (rfl)
theorem get_set_pw (s : State) {x} (q : Nat) (g : Fld) : ({ s with pw := x } : State).get q g = s.get q g := (rfl)
theorem bit_set_pw (s : State) {x} (q : Nat) (g : Fld) : ({ s with pw := x } : State).bit q g = s.bit q g := (rfl)
theorem pends_set_pw (s : State) {x} (q b : Nat) : ({ s with pw := x } : State).pends q b = s.pends q b := (rfl)
theorem ent_set_pw (s : State) {x} (q u j : Nat) : ({ s with pw := x } : State).ent q u j = s.ent q u j := (rfl)
theorem getE_set_pw (s : State) {x} (q u j : Nat) (g : TF) : ({ s with pw := x } : State).getE q u j g = s.getE q u j g := (rfl)
theorem count_set_pw (s : State) {x} (q : Nat) (d : Ctr) : ({ s with pw := x } : State).count q d = s.count q d := (rfl)
theorem reg_set_sc (s : State) {x} (y : Nat) : ({ s with sc := x } : State).reg y = s.reg y := (rfl)
theorem get_set_sc (s : State) {x} (q : Nat) (g : Fld) : ({ s with sc := x } : State).get q g = s.get q g := (rfl)
theorem bit_set_sc (s : State) {x} (q : Nat) (g : Fld) : ({ s with sc := x } : State).bit q g = s.bit q g := (rfl)
theorem pends_set_sc (s : State) {x} (q b : Nat) : ({ s with sc := x } : State).pends q b = s.pends q b := (rfl)
theorem ent_set_sc (s : State) {x} (q u j : Nat) : ({ s with sc := x } : State).ent q u j = s.ent q u j := (rfl)
theorem getE_set_sc (s : State) {x} (q u j : Nat) (g : TF) : ({ s with sc := x } : State).getE q u j g = s.getE q u j g := (rfl)
theorem count_set_sc (s : State) {x} (q : Nat) (d : Ctr) : ({ s with sc := x } : State).count q d = s.count q d := (rfl)
theorem reg_set_now (s : State) {x} (y : Nat) : ({ s with now := x } : State).reg y = s.reg y := (rfl)
theorem get_set_now (s : State) {x} (q : Nat) (g : Fld) : ({ s with now := x } : State).get q g = s.get q g := (rfl)
theorem bit_set_now (s : State) {x} (q : Nat) (g : Fld) : ({ s with now := x } : State).bit q g = s.bit q g := (rfl)
theorem pends_set_now (s : State) {x} (q b : Nat) : ({ s with now := x } : State).pends q b = s.pends q b := (rfl)
theorem ent_set_now (s : State) {x} (q u j : Nat) : ({ s with now := x } : State).ent q u j = s.ent q u j := (rfl)
theorem getE_set_now (s : State) {x} (q u j : Nat) (g : TF) : ({ s with now := x } : State).getE q u j g = s.getE q u j g := (rfl)
theorem count_set_now (s : State) {x} (q : Nat) (d : Ctr) : ({ s with now := x } : State).count q d = s.count q d := (rfl)
theorem reg_set_free (s : State) {x} (y : Nat) : ({ s with free := x } : State).reg y = s.reg y := (rfl)
theorem get_set_free (s : State) {x} (q : Nat) (g : Fld) : ({ s with free := x } : State).get q g = s.get q g := (rfl)
theorem bit_set_free (s : State) {x} (q : Nat) (g : Fld) : ({ s with free := x } : State).bit q g = s.bit q g := (rfl)
theorem pends_set_free (s : State) {x} (q b : Nat) : ({ s with free := x } : State).pends q b = s.pends q b := (rfl)
theorem ent_set_free (s : State) {x} (q u j : Nat) : ({ s with free := x } : State).ent q u j = s.ent q u j := (rfl)
theorem getE_set_free (s : State) {x} (q u j : Nat) (g : TF) : ({ s with free := x } : State).getE q u j g = s.getE q u j g := (rfl)
theorem count_set_free (s : State) {x} (q : Nat) (d : Ctr) : ({ s with free := x } : State).count q d = s.count q d := (rfl)
theorem reg_set_out (s : State) {x} (y : Nat) : ({ s with out := x } : State).reg y = s.reg y := (rfl)
theorem get_set_out (s : State) {x} (q : Nat) (g : Fld) : ({ s with out := x } : State).get q g = s.get q g := (rfl)
theorem bit_set_out (s : State) {x} (q : Nat) (g : Fld) : ({ s with out := x } : State).bit q g = s.bit q g := (rfl)
theorem pends_set_out (s : State) {x} (q b : Nat) : ({ s with out := x } : State).pends q b = s.pends q b := (rfl)
theorem ent_set_out (s : State) {x} (q u j : Nat) : ({ s with out := x } : State).ent q u j = s.ent q u j := (rfl)
theorem getE_set_out (s : State) {x} (q u j : Nat) (g : TF) : ({ s with out := x } : State).getE q u j g = s.getE q u j g := (rfl)
theorem count_set_out (s : State) {x} (q : Nat) (d : Ctr) : ({ s with out := x } : State).count q d = s.count q d := (rfl)
theorem reg_set_pending (s : State) {x} (y : Nat) : ({ s with pending := x } : State).reg y = s.reg y := (rfl)
theorem get_set_pending (s : State) {x} (q : Nat) (g : Fld) : ({ s with pending := x } : State).get q g = s.get q g := (rfl)
theorem bit_set_pending (s : State) {x} (q : Nat) (g : Fld) : ({ s with pending := x } : State).bit q g = s.bit q g := (rfl)
theorem pends_set_pending (s : State) {x} (q b : Nat) : ({ s with pending := x } : State).pends q b = s.pends q b := (rfl)
theorem ent_set_pending (s : State) {x} (q u j : Nat) : ({ s with pending := x } : State).ent q u j = s.ent q u j := (rfl)
theorem getE_set_pending (s : State) {x} (q u j : Nat) (g : TF) : ({ s with pending := x } : State).getE q u j g = s.getE q u j g := (rfl)
theorem count_set_pending (s : State) {x} (q : Nat) (d : Ctr) : ({ s with pending := x } : State).count q d = s.count q d := (rfl)

end Sys2Proof.Machine
end

