-- ==== Sys2Proof/Laws/Access.lean ====
section
/-! SUPPORT. Frames over register words, and what a register access that reaches its page does. -/

namespace Sys2Proof.Machine

/-! ### Frames -/

theorem OnlyRegs.refl (as : List Nat) (s : State) : OnlyRegs as s s := ⟨fun _ _ => rfl, rfl, rfl, rfl, rfl, rfl⟩

theorem OnlyRegs.trans {as : List Nat} {a b c : State} (h : OnlyRegs as a b) (k : OnlyRegs as b c) : OnlyRegs as a c :=
  ⟨fun x hx => (k.1 x hx).trans (h.1 x hx), k.2.1.trans h.2.1, k.2.2.1.trans h.2.2.1, k.2.2.2.1.trans h.2.2.2.1,
    k.2.2.2.2.1.trans h.2.2.2.2.1, k.2.2.2.2.2.trans h.2.2.2.2.2⟩

theorem OnlyRegs.mono {as bs : List Nat} {a b : State} (h : OnlyRegs as a b) (hs : ∀ x ∈ as, x ∈ bs) : OnlyRegs bs a b :=
  ⟨fun x hx => h.1 x (fun m => hx (hs x m)), h.2⟩

/-- A state with the same registers, tables, memories and queue is within any frame. -/
theorem OnlyRegs.same {as : List Nat} {a b c : State} (h : OnlyRegs as a b) (h1 : c.regs = b.regs) (h2 : c.tabs = b.tabs)
    (h3 : c.hostMem = b.hostMem) (h4 : c.cxl = b.cxl) (h5 : c.dm.mem = b.dm.mem) (h6 : c.pending = b.pending) :
    OnlyRegs as a c :=
  h.trans ⟨fun _ _ => reg_congr h1 _, h2, h3, h4, h5, h6⟩

theorem OnlyRegs.setReg {as : List Nat} {a b : State} (h : OnlyRegs as a b) {x : Nat} (w : Word) (hx : x ∈ as) :
    OnlyRegs as a (b.setReg x w) :=
  h.trans ⟨fun _ hy => reg_setReg_ne b w (fun e => hy (e ▸ hx)), setReg_tabs _ _ _, setReg_hostMem _ _ _, setReg_cxl _ _ _,
    congrArg Dm.mem (setReg_dm b x w), setReg_pending _ _ _⟩

theorem OnlyRegs.put {as : List Nat} {a b : State} (h : OnlyRegs as a b) {pg v : Nat} {f : Fld} (hx : pg + f.off ∈ as) :
    OnlyRegs as a (b.put pg f v) := h.setReg _ hx

theorem OnlyRegs.putBit {as : List Nat} {a b : State} (h : OnlyRegs as a b) {pg : Nat} {f : Fld} {v : Bool}
    (hx : pg + f.off ∈ as) : OnlyRegs as a (b.putBit pg f v) := h.setReg _ hx

theorem OnlyRegs.putI {as : List Nat} {a b : State} (h : OnlyRegs as a b) {pg : Nat} {f : Fld} {v : Int}
    (hx : pg + f.off ∈ as) : OnlyRegs as a (b.putI pg f v) := h.setReg _ hx

theorem OnlyRegs.incWrap {as : List Nat} {a b : State} (h : OnlyRegs as a b) {pg n : Nat} {f : Fld} (hx : pg + f.off ∈ as) :
    OnlyRegs as a (b.incWrap pg f n) := h.setReg _ hx

theorem OnlyRegs.incSat {as : List Nat} {a b : State} (h : OnlyRegs as a b) {pg n : Nat} {f : Fld} (hx : pg + f.off ∈ as) :
    OnlyRegs as a (b.incSat pg f n) := h.setReg _ hx

theorem OnlyRegs.bump {as : List Nat} {a b : State} (h : OnlyRegs as a b) (pg : Nat) (c : Ctr) (n : Nat) :
    OnlyRegs as a (b.bump pg c n) :=
  h.same (bump_regs _ _ _ _) (bump_tabs _ _ _ _) (bump_hostMem _ _ _ _) (bump_cxl _ _ _ _) (congrArg Dm.mem (bump_dm b pg c n))
    (bump_pending _ _ _ _)

theorem OnlyRegs.emit {as : List Nat} {a b : State} (h : OnlyRegs as a b) (o : Output) : OnlyRegs as a (b.emit o) :=
  h.same (emit_regs _ _) (emit_tabs _ _) (emit_hostMem _ _) (emit_cxl _ _) (congrArg Dm.mem (emit_dm b o)) (emit_pending _ _)

theorem OnlyRegs.settle {as : List Nat} {a b : State} (h : OnlyRegs as a b) (o : State) : OnlyRegs as a (State.settle o b) :=
  h.same (settle_regs _ _) (settle_tabs _ _) (settle_hostMem _ _) (settle_cxl _ _) (congrArg Dm.mem (settle_dm o b))
    (settle_pending _ _)

theorem OnlyRegs.raise {as : List Nat} {a b : State} (h : OnlyRegs as a b) {pg n : Nat} (hx : pg + 0x014 ∈ as) :
    OnlyRegs as a (b.raise pg n) :=
  h.trans ⟨fun _ hy => reg_raise_ne b (fun e => hy (e ▸ hx)), raise_tabs _ _ _, raise_hostMem _ _ _, raise_cxl _ _ _,
    congrArg Dm.mem (raise_dm b pg n), raise_pending _ _ _⟩

theorem OnlyRegs.levelTo {as : List Nat} {a b : State} (h : OnlyRegs as a b) {pg n : Nat} {v : Bool} (hx : pg + 0x010 ∈ as)
    (hy : pg + 0x014 ∈ as) : OnlyRegs as a (b.levelTo pg n v) :=
  h.trans ⟨fun _ hz => reg_levelTo_ne b (fun e => hz (e ▸ hx)) (fun e => hz (e ▸ hy)), levelTo_tabs _ _ _ _,
    levelTo_hostMem _ _ _ _, levelTo_cxl _ _ _ _, congrArg Dm.mem (levelTo_dm b pg n v), levelTo_pending _ _ _ _⟩

theorem OnlyRegs.ite {as : List Nat} {a b c : State} {p : Prop} [Decidable p] (h : OnlyRegs as a b) (k : OnlyRegs as a c) :
    OnlyRegs as a (if p then b else c) := by split <;> assumption

theorem OnlyRegs.foldl {β : Type} {as : List Nat} {a s : State} {f : State → β → State} {l : List β} (h : OnlyRegs as a s)
    (hf : ∀ s, ∀ x ∈ l, OnlyRegs as a s → OnlyRegs as a (f s x)) : OnlyRegs as a (l.foldl f s) := by
  induction l generalizing s with
  | nil => exact h
  | cons x r ih =>
    exact ih (hf s x (List.mem_cons_self ..) h) (fun s y hy => hf s y (List.mem_cons_of_mem _ hy))

theorem OnlyRegs.forN {as : List Nat} {a s : State} {n : Nat} {f : Nat → State → State} (h : OnlyRegs as a s)
    (hf : ∀ i s, i < n → OnlyRegs as a s → OnlyRegs as a (f i s)) : OnlyRegs as a (forN n f s) :=
  h.foldl (fun s i hi hs => hf i s (List.mem_range.1 hi) hs)

/-! ### Updates outside a frame over registers -/

theorem OnlyRegs.set_staged {as : List Nat} {a b : State} (h : OnlyRegs as a b) {x} : OnlyRegs as a { b with staged := x } := h
theorem OnlyRegs.set_live {as : List Nat} {a b : State} (h : OnlyRegs as a b) {x} : OnlyRegs as a { b with live := x } := h
theorem OnlyRegs.set_bad {as : List Nat} {a b : State} (h : OnlyRegs as a b) {x} : OnlyRegs as a { b with bad := x } := h
theorem OnlyRegs.set_poison {as : List Nat} {a b : State} (h : OnlyRegs as a b) {x} : OnlyRegs as a { b with poison := x } := h
theorem OnlyRegs.set_sticky {as : List Nat} {a b : State} (h : OnlyRegs as a b) {x} : OnlyRegs as a { b with sticky := x } := h
theorem OnlyRegs.set_vecs {as : List Nat} {a b : State} (h : OnlyRegs as a b) {x} : OnlyRegs as a { b with vecs := x } := h
theorem OnlyRegs.set_dev {as : List Nat} {a b : State} (h : OnlyRegs as a b) {x} : OnlyRegs as a { b with dev := x } := h
theorem OnlyRegs.set_lanes {as : List Nat} {a b : State} (h : OnlyRegs as a b) {x} : OnlyRegs as a { b with lanes := x } := h
theorem OnlyRegs.set_refAbsent {as : List Nat} {a b : State} (h : OnlyRegs as a b) {x} : OnlyRegs as a { b with refAbsent := x } := h
theorem OnlyRegs.set_tbs {as : List Nat} {a b : State} (h : OnlyRegs as a b) {x} : OnlyRegs as a { b with tbs := x } := h
theorem OnlyRegs.set_tbRun {as : List Nat} {a b : State} (h : OnlyRegs as a b) {x} : OnlyRegs as a { b with tbRun := x } := h
theorem OnlyRegs.set_pps {as : List Nat} {a b : State} (h : OnlyRegs as a b) {x} : OnlyRegs as a { b with pps := x } := h
theorem OnlyRegs.set_fsyncLast {as : List Nat} {a b : State} (h : OnlyRegs as a b) {x} : OnlyRegs as a { b with fsyncLast := x } := h
theorem OnlyRegs.set_bp {as : List Nat} {a b : State} (h : OnlyRegs as a b) {x} : OnlyRegs as a { b with bp := x } := h
theorem OnlyRegs.set_tm {as : List Nat} {a b : State} (h : OnlyRegs as a b) {x} : OnlyRegs as a { b with tm := x } := h
theorem OnlyRegs.set_gl {as : List Nat} {a b : State} (h : OnlyRegs as a b) {x} : OnlyRegs as a { b with gl := x } := h
theorem OnlyRegs.set_pes {as : List Nat} {a b : State} (h : OnlyRegs as a b) {x} : OnlyRegs as a { b with pes := x } := h
theorem OnlyRegs.set_gps {as : List Nat} {a b : State} (h : OnlyRegs as a b) {x} : OnlyRegs as a { b with gps := x } := h
theorem OnlyRegs.set_keys {as : List Nat} {a b : State} (h : OnlyRegs as a b) {x} : OnlyRegs as a { b with keys := x } := h
theorem OnlyRegs.set_lookups {as : List Nat} {a b : State} (h : OnlyRegs as a b) {x} : OnlyRegs as a { b with lookups := x } := h
theorem OnlyRegs.set_lk {as : List Nat} {a b : State} (h : OnlyRegs as a b) {x} : OnlyRegs as a { b with lk := x } := h
theorem OnlyRegs.set_ul {as : List Nat} {a b : State} (h : OnlyRegs as a b) {x} : OnlyRegs as a { b with ul := x } := h
theorem OnlyRegs.set_hx {as : List Nat} {a b : State} (h : OnlyRegs as a b) {x} : OnlyRegs as a { b with hx := x } := h
theorem OnlyRegs.set_mx {as : List Nat} {a b : State} (h : OnlyRegs as a b) {x} : OnlyRegs as a { b with mx := x } := h
theorem OnlyRegs.set_ce {as : List Nat} {a b : State} (h : OnlyRegs as a b) {x} : OnlyRegs as a { b with ce := x } := h
theorem OnlyRegs.set_als {as : List Nat} {a b : State} (h : OnlyRegs as a b) {x} : OnlyRegs as a { b with als := x } := h
theorem OnlyRegs.set_px {as : List Nat} {a b : State} (h : OnlyRegs as a b) {x} : OnlyRegs as a { b with px := x } := h
theorem OnlyRegs.set_pw {as : List Nat} {a b : State} (h : OnlyRegs as a b) {x} : OnlyRegs as a { b with pw := x } := h
theorem OnlyRegs.set_sc {as : List Nat} {a b : State} (h : OnlyRegs as a b) {x} : OnlyRegs as a { b with sc := x } := h
theorem OnlyRegs.set_now {as : List Nat} {a b : State} (h : OnlyRegs as a b) {x} : OnlyRegs as a { b with now := x } := h
theorem OnlyRegs.set_free {as : List Nat} {a b : State} (h : OnlyRegs as a b) {x} : OnlyRegs as a { b with free := x } := h
theorem OnlyRegs.set_out {as : List Nat} {a b : State} (h : OnlyRegs as a b) {x} : OnlyRegs as a { b with out := x } := h
theorem OnlyRegs.set_dm {as : List Nat} {a b : State} (h : OnlyRegs as a b) {x : Dm} (e : x.mem = b.dm.mem) :
    OnlyRegs as a { b with dm := x } := ⟨h.1, h.2.1, h.2.2.1, h.2.2.2.1, e.trans h.2.2.2.2.1, h.2.2.2.2.2⟩

/-! ### Register accesses -/

/-- A write that reaches its page has the effect of the register. -/
theorem access_reaches {s : State} {fn a i : Nat} {k : PKind} (h : Reaches s fn a k i) (act : PKind → Nat → State → State) :
    s.access fn a act = act k i s := by
  obtain ⟨h1, h2, h3, h4⟩ := h
  unfold State.access
  rw [h1]
  simp [h2, h3, h4]

theorem hostWrite_reaches {s : State} {fn a i : Nat} {k : PKind} (h : Reaches s fn a k i) (w : Word) (act : State → Bool → State) :
    s.hostWrite fn a w act = act (s.storeFields k i fn a w.toNat).1 (s.storeFields k i fn a w.toNat).2 :=
  access_reaches h _

theorem OnlyRegs.storeFields {as : List Nat} {a b : State} (h : OnlyRegs as a b) (k : PKind) (i fn x w : Nat) (hx : x ∈ as)
    (h1 : x / 4096 * 4096 + 0x00C ∈ as) (h2 : x / 4096 * 4096 + 0x028 ∈ as) : OnlyRegs as a (b.storeFields k i fn x w).1 := by
  have hl : ∀ s, OnlyRegs as a s → OnlyRegs as a (s.lockViol (x / 4096 * 4096)) := fun s hs => hs.putBit h1
  have hr : ∀ s, OnlyRegs as a s → OnlyRegs as a (s.cfgRej (x / 4096 * 4096)) := fun s hs => hs.putBit h1
  have hc : ∀ s, OnlyRegs as a s → OnlyRegs as a (s.commit (x / 4096 * 4096)) := fun s hs => hs.incWrap h2
  unfold State.storeFields
  extract_lets off pg fs locked old lockedMask s0 m cand good oper s' s1 clr set
  have h0 : OnlyRegs as a s0 := OnlyRegs.ite (hl b h) h
  have hh : OnlyRegs as a s1.1 := by
    dsimp only [s1]
    split
    · exact h0
    · split
      · split
        · exact h0.setReg _ hx
        · exact hc _ (h0.setReg _ hx)
      · split
        · exact h0
        · exact hr _ h0
  split
  · exact hh
  · exact hh.setReg _ hx

/-- A register write by the rules of R13 and R522 alone changes its word, and the page's status and generation. -/
theorem hostWrite_only {as : List Nat} {s t : State} {fn a i : Nat} {k : PKind} (h : Reaches s fn a k i) (w : Word)
    (act : State → Bool → State) (ht : s.hostWrite fn a w act = t) (hx : a ∈ as) (h1 : a / 4096 * 4096 + 0x00C ∈ as)
    (h2 : a / 4096 * 4096 + 0x028 ∈ as) (ha : ∀ s' b, OnlyRegs as s s' → OnlyRegs as s (act s' b)) : OnlyRegs as s t := by
  rw [hostWrite_reaches h] at ht
  rw [← ht]
  exact ha _ _ ((OnlyRegs.refl as s).storeFields k i fn a _ hx h1 h2)

end Sys2Proof.Machine
end

