-- ==== Sys2Proof/Laws/Keeps.lean ====
section
/-! SUPPORT. What every command keeps (`Keeps`): the relation itself, and updates of one or more fields of the state. -/

namespace Sys2Proof.Machine

@[simp] theorem Keeps.refl (s : State) : Keeps s s := ⟨id, rfl, Nat.le_refl _, Nat.le_refl _, [], rfl⟩

theorem Keeps.trans {a b c : State} (h : Keeps a b) (k : Keeps b c) : Keeps a c := by
  obtain ⟨h1, h2, h3, h4, l, h5⟩ := h
  obtain ⟨k1, k2, k3, k4, m, k5⟩ := k
  exact ⟨k1 ∘ h1, k2.trans h2, Nat.le_trans h3 k3, Nat.le_trans h4 k4, m ++ l, by rw [k5, h5, List.append_assoc]⟩

/-- An answer keeps what `Keeps` says when its next state does. -/
def KeepsR (s0 : State) (r : Res) : Prop := ∀ t, r = .next t → Keeps s0 t

theorem KeepsR.next {s0 t : State} (h : Keeps s0 t) : KeepsR s0 (.next t) := by
  intro u e; cases e; exact h

theorem KeepsR.fault {s0 : State} {f : Fault} : KeepsR s0 (.fault f) := by
  intro u e; cases e

theorem keeps_foldl {β : Type} {s0 s : State} {f : State → β → State} {l : List β}
    (h : Keeps s0 s) (hf : ∀ s x, Keeps s0 s → Keeps s0 (f s x)) : Keeps s0 (l.foldl f s) := by
  induction l generalizing s with
  | nil => exact h
  | cons x r ih => exact ih (hf s x h)

theorem keeps_foldl_snd {α β : Type} {s0 : State} {p : α × State} {f : α × State → β → α × State} {l : List β}
    (h : Keeps s0 p.2) (hf : ∀ p x, Keeps s0 p.2 → Keeps s0 (f p x).2) : Keeps s0 (l.foldl f p).2 := by
  induction l generalizing p with
  | nil => exact h
  | cons x r ih => exact ih (hf p x h)

theorem keeps_foldl_fst {α β : Type} {s0 : State} {p : State × α} {f : State × α → β → State × α} {l : List β}
    (h : Keeps s0 p.1) (hf : ∀ p x, Keeps s0 p.1 → Keeps s0 (f p x).1) : Keeps s0 (l.foldl f p).1 := by
  induction l generalizing p with
  | nil => exact h
  | cons x r ih => exact ih (hf p x h)

theorem keeps_ite {z0 a b : State} {c : Prop} [Decidable c] (ha : Keeps z0 a) (hb : Keeps z0 b) :
    Keeps z0 (if c then a else b) := by split <;> assumption

theorem keeps_ite_snd {α : Type} {z0 : State} {a b : α × State} {c : Prop} [Decidable c] (ha : Keeps z0 a.2) (hb : Keeps z0 b.2) :
    Keeps z0 (if c then a else b).2 := by split <;> assumption

theorem keeps_ite_snd2 {α β : Type} {z0 : State} {a b : α × β × State} {c : Prop} [Decidable c] (ha : Keeps z0 a.2.2)
    (hb : Keeps z0 b.2.2) : Keeps z0 (if c then a else b).2.2 := by split <;> assumption

theorem keeps_ite_fst {α : Type} {z0 : State} {a b : State × α} {c : Prop} [Decidable c] (ha : Keeps z0 a.1) (hb : Keeps z0 b.1) :
    Keeps z0 (if c then a else b).1 := by split <;> assumption

theorem keepsR_ite {z0 : State} {a b : Res} {c : Prop} [Decidable c] (ha : KeepsR z0 a) (hb : KeepsR z0 b) :
    KeepsR z0 (if c then a else b) := by split <;> assumption

/-! ### Updates of fields that hold no part of it -/

theorem keeps_set_als {z0 s : State} {v0} (h : Keeps z0 s) : Keeps z0 { s with als := v0 } := h

theorem keeps_set_bad {z0 s : State} {v0} (h : Keeps z0 s) : Keeps z0 { s with bad := v0 } := h

theorem keeps_set_bad_mx {z0 s : State} {v0} {v1} (h : Keeps z0 s) : Keeps z0 { s with bad := v0, mx := v1 } := h

theorem keeps_set_bp {z0 s : State} {v0} (h : Keeps z0 s) : Keeps z0 { s with bp := v0 } := h

theorem keeps_set_ce {z0 s : State} {v0} (h : Keeps z0 s) : Keeps z0 { s with ce := v0 } := h

theorem keeps_set_dev {z0 s : State} {v0} (h : Keeps z0 s) : Keeps z0 { s with dev := v0 } := h

theorem keeps_set_fsyncLast {z0 s : State} {v0} (h : Keeps z0 s) : Keeps z0 { s with fsyncLast := v0 } := h

theorem keeps_set_gl {z0 s : State} {v0} (h : Keeps z0 s) : Keeps z0 { s with gl := v0 } := h

theorem keeps_set_gps {z0 s : State} {v0} (h : Keeps z0 s) : Keeps z0 { s with gps := v0 } := h

theorem keeps_set_hx {z0 s : State} {v0} (h : Keeps z0 s) : Keeps z0 { s with hx := v0 } := h

theorem keeps_set_keys {z0 s : State} {v0} (h : Keeps z0 s) : Keeps z0 { s with keys := v0 } := h

theorem keeps_set_keys_px {z0 s : State} {v0} {v1} (h : Keeps z0 s) : Keeps z0 { s with keys := v0, px := v1 } := h

theorem keeps_set_lanes {z0 s : State} {v0} (h : Keeps z0 s) : Keeps z0 { s with lanes := v0 } := h

theorem keeps_set_lanes_px {z0 s : State} {v0} {v1} (h : Keeps z0 s) : Keeps z0 { s with lanes := v0, px := v1 } := h

theorem keeps_set_live {z0 s : State} {v0} (h : Keeps z0 s) : Keeps z0 { s with live := v0 } := h

theorem keeps_set_lk {z0 s : State} {v0} (h : Keeps z0 s) : Keeps z0 { s with lk := v0 } := h

theorem keeps_set_lk_sc {z0 s : State} {v0} {v1} (h : Keeps z0 s) : Keeps z0 { s with lk := v0, sc := v1 } := h

theorem keeps_set_lookups {z0 s : State} {v0} (h : Keeps z0 s) : Keeps z0 { s with lookups := v0 } := h

theorem keeps_set_lookups_lk {z0 s : State} {v0} {v1} (h : Keeps z0 s) : Keeps z0 { s with lookups := v0, lk := v1 } := h

theorem keeps_set_mx {z0 s : State} {v0} (h : Keeps z0 s) : Keeps z0 { s with mx := v0 } := h

theorem keeps_set_pes {z0 s : State} {v0} (h : Keeps z0 s) : Keeps z0 { s with pes := v0 } := h

theorem keeps_set_pes_gps_keys {z0 s : State} {v0} {v1} {v2} (h : Keeps z0 s) : Keeps z0 { s with pes := v0, gps := v1, keys := v2 } := h

theorem keeps_set_poison {z0 s : State} {v0} (h : Keeps z0 s) : Keeps z0 { s with poison := v0 } := h

theorem keeps_set_poison_bp {z0 s : State} {v0} {v1} (h : Keeps z0 s) : Keeps z0 { s with poison := v0, bp := v1 } := h

theorem keeps_set_poison_bp_tm_gl {z0 s : State} {v0} {v1} {v2} {v3} (h : Keeps z0 s) : Keeps z0 { s with poison := v0, bp := v1, tm := v2, gl := v3 } := h

theorem keeps_set_pps {z0 s : State} {v0} (h : Keeps z0 s) : Keeps z0 { s with pps := v0 } := h

theorem keeps_set_pps_ppsOn {z0 s : State} {v0} {v1} (h : Keeps z0 s) : Keeps z0 { s with pps := v0, ppsOn := v1 } := h

theorem keeps_set_ppsOn {z0 s : State} {v0} (h : Keeps z0 s) : Keeps z0 { s with ppsOn := v0 } := h

theorem keeps_set_pw {z0 s : State} {v0} (h : Keeps z0 s) : Keeps z0 { s with pw := v0 } := h

theorem keeps_set_px {z0 s : State} {v0} (h : Keeps z0 s) : Keeps z0 { s with px := v0 } := h

theorem keeps_set_px_pw {z0 s : State} {v0} {v1} (h : Keeps z0 s) : Keeps z0 { s with px := v0, pw := v1 } := h

theorem keeps_set_refAbsent {z0 s : State} {v0} (h : Keeps z0 s) : Keeps z0 { s with refAbsent := v0 } := h

theorem keeps_set_sc {z0 s : State} {v0} (h : Keeps z0 s) : Keeps z0 { s with sc := v0 } := h

theorem keeps_set_staged {z0 s : State} {v0} (h : Keeps z0 s) : Keeps z0 { s with staged := v0 } := h

theorem keeps_set_sticky {z0 s : State} {v0} (h : Keeps z0 s) : Keeps z0 { s with sticky := v0 } := h

theorem keeps_set_tbRun {z0 s : State} {v0} (h : Keeps z0 s) : Keeps z0 { s with tbRun := v0 } := h

theorem keeps_set_tbs {z0 s : State} {v0} (h : Keeps z0 s) : Keeps z0 { s with tbs := v0 } := h

theorem keeps_set_tm {z0 s : State} {v0} (h : Keeps z0 s) : Keeps z0 { s with tm := v0 } := h

theorem keeps_set_tm_hx {z0 s : State} {v0} {v1} (h : Keeps z0 s) : Keeps z0 { s with tm := v0, hx := v1 } := h

theorem keeps_set_ul {z0 s : State} {v0} (h : Keeps z0 s) : Keeps z0 { s with ul := v0 } := h

theorem keeps_set_ul_ce_px {z0 s : State} {v0} {v1} {v2} (h : Keeps z0 s) : Keeps z0 { s with ul := v0, ce := v1, px := v2 } := h

theorem keeps_set_vecs {z0 s : State} {v0} (h : Keeps z0 s) : Keeps z0 { s with vecs := v0 } := h

/-! ### Updates of the fields it is about -/

/-- A state built anew from `s`, with what it lists canonical whenever `s` is. -/
theorem Keeps.anew {z0 s t : State} (h : Keeps z0 s) (hc : s.Canon → t.Canon) (hp : t.pending = s.pending)
    (hn : t.now = s.now) (hf : t.free = s.free) (ho : t.out = s.out) : Keeps z0 t :=
  h.trans ⟨hc, hp, Nat.le_of_eq hn.symm, Nat.le_of_eq hf.symm, [], by simp [ho]⟩

theorem Keeps.regs {s0 s : State} {m : SMap Word} (h : Keeps s0 s) (k : swf resetWord s.regs = true → swf resetWord m = true) :
    Keeps s0 { s with regs := m } :=
  ⟨fun c => ⟨k (h.1 c).1, (h.1 c).2⟩, h.2⟩

theorem Keeps.tabs {s0 s : State} {m : SMap Entry} (h : Keeps s0 s) (k : swf entReset s.tabs = true → swf entReset m = true) :
    Keeps s0 { s with tabs := m } :=
  ⟨fun c => ⟨(h.1 c).1, k (h.1 c).2.1, (h.1 c).2.2⟩, h.2⟩

theorem Keeps.hostMem {s0 s : State} {m : SMap Byte} (h : Keeps s0 s) (k : Memory.wf s.hostMem = true → Memory.wf m = true) :
    Keeps s0 { s with hostMem := m } :=
  ⟨fun c => ⟨(h.1 c).1, (h.1 c).2.1, k (h.1 c).2.2.1, (h.1 c).2.2.2⟩, h.2⟩

theorem Keeps.cxl {s0 s : State} {m : SMap Byte} (h : Keeps s0 s) (k : Memory.wf s.cxl = true → Memory.wf m = true) :
    Keeps s0 { s with cxl := m } :=
  ⟨fun c => ⟨(h.1 c).1, (h.1 c).2.1, (h.1 c).2.2.1, k (h.1 c).2.2.2.1, (h.1 c).2.2.2.2⟩, h.2⟩

theorem keeps_set_dm {s0 s : State} {d : Dm} (h : Keeps s0 s) (k : d.mem = s.dm.mem) : Keeps s0 { s with dm := d } :=
  ⟨fun c => ⟨(h.1 c).1, (h.1 c).2.1, (h.1 c).2.2.1, (h.1 c).2.2.2.1, by show Memory.wf d.mem = true; rw [k]; exact (h.1 c).2.2.2.2⟩, h.2⟩

theorem Keeps.dm {s0 s : State} {d : Dm} (h : Keeps s0 s) (k : Memory.wf s.dm.mem = true → Memory.wf d.mem = true) :
    Keeps s0 { s with dm := d } :=
  ⟨fun c => ⟨(h.1 c).1, (h.1 c).2.1, (h.1 c).2.2.1, (h.1 c).2.2.2.1, k (h.1 c).2.2.2.2⟩, h.2⟩

theorem keeps_draw_free {s0 s : State} (h : Keeps s0 s) : Keeps s0 { s with free := s.free + 1 } :=
  ⟨h.1, h.2.1, h.2.2.1, Nat.le_succ_of_le h.2.2.2.1, h.2.2.2.2⟩

theorem keeps_now {s0 s : State} {t : Nat} (h : Keeps s0 s) (k : s.now ≤ t) : Keeps s0 { s with now := t } :=
  ⟨h.1, h.2.1, Nat.le_trans h.2.2.1 k, h.2.2.2⟩

theorem keeps_emit {s0 s : State} (o : Output) (h : Keeps s0 s) : Keeps s0 (s.emit o) := by
  obtain ⟨h1, h2, h3, h4, l, h5⟩ := h
  exact ⟨h1, h2, h3, h4, o :: l, by show o :: s.out = _; rw [h5]; rfl⟩

/-! ### Memories -/

/-- Writing bytes keeps a memory's canonical form. -/
theorem memWrite_wf (m : SMap Byte) (a : Nat) (d : List Byte) (h : Memory.wf m = true) : Memory.wf (memWrite m a d) = true :=
  swf_foldl_sset (fun _ => 0) (fun p : Byte × Nat => a + p.2) (fun p => p.1) d.zipIdx m h

theorem memWrite_foldl_wf {β : Type} (f : β → Nat) (g : β → List Byte) (l : List β) :
    ∀ m : SMap Byte, Memory.wf m = true → Memory.wf (l.foldl (fun m x => memWrite m (f x) (g x)) m) = true := by
  induction l with
  | nil => exact fun _ h => h
  | cons x r ih => exact fun m h => ih _ (memWrite_wf m _ _ h)

theorem mem_foldl_wf {β : Type} {f : SMap Byte → β → SMap Byte} (hf : ∀ m x, Memory.wf m = true → Memory.wf (f m x) = true) :
    ∀ (l : List β) (m : SMap Byte), Memory.wf m = true → Memory.wf (l.foldl f m) = true
  | [], _, h => h
  | x :: r, _, h => mem_foldl_wf hf r _ (hf _ x h)

theorem keeps_write_hostMem {z0 s : State} {a : Nat} {d : List Byte} (h : Keeps z0 s) :
    Keeps z0 { s with hostMem := memWrite s.hostMem a d } := h.hostMem (memWrite_wf s.hostMem a d)

theorem keeps_write_cxl {z0 s : State} {a : Nat} {d : List Byte} (h : Keeps z0 s) :
    Keeps z0 { s with cxl := memWrite s.cxl a d } := h.cxl (memWrite_wf s.cxl a d)

end Sys2Proof.Machine
end

