-- ==== Sys2Proof/Laws/KeepsOperands.lean ====
section
/-! SUPPORT. What the operations of Machine/Operands.lean keep. -/

namespace Sys2Proof.Machine

theorem keeps_setReg {z0 : State} {s : State} (a : Nat) (w : Word) (hk : Keeps z0 s) : Keeps z0 (State.setReg s a w) := by
  exact hk.regs (swf_sset resetWord s.regs a w)

theorem keeps_put {z0 : State} {s : State} (pg : Nat) (f : Fld) (v : Nat) (hk : Keeps z0 s) : Keeps z0 (State.put s pg f v) := by
  unfold State.put
  with_reducible repeat' first | dsimp only | assumption | apply keeps_setReg

theorem keeps_putBit {z0 : State} {s : State} (pg : Nat) (f : Fld) (b : Bool) (hk : Keeps z0 s) : Keeps z0 (State.putBit s pg f b) := by
  unfold State.putBit
  with_reducible repeat' first | dsimp only | assumption | apply keeps_put | apply keeps_ite | split

theorem keeps_putI {z0 : State} {s : State} (pg : Nat) (f : Fld) (x : Int) (hk : Keeps z0 s) : Keeps z0 (State.putI s pg f x) := by
  unfold State.putI
  with_reducible repeat' first | dsimp only | assumption | apply keeps_put

theorem keeps_put2 {z0 : State} {s : State} (pg : Nat) (lo : Fld) (hi : Fld) (v : Nat) (hk : Keeps z0 s) : Keeps z0 (State.put2 s pg lo hi v) := by
  unfold State.put2
  with_reducible repeat' first | dsimp only | assumption | apply keeps_put

theorem keeps_incWrap {z0 : State} {s : State} (pg : Nat) (f : Fld) (n : Nat) (hk : Keeps z0 s) : Keeps z0 (State.incWrap s pg f n) := by
  unfold State.incWrap
  with_reducible repeat' first | dsimp only | assumption | apply keeps_put

theorem keeps_incSat {z0 : State} {s : State} (pg : Nat) (f : Fld) (n : Nat) (hk : Keeps z0 s) : Keeps z0 (State.incSat s pg f n) := by
  unfold State.incSat
  with_reducible repeat' first | dsimp only | assumption | apply keeps_put

theorem keeps_bump {z0 : State} {s : State} (pg : Nat) (c : Ctr) (n : Nat) (hk : Keeps z0 s) : Keeps z0 (State.bump s pg c n) := by
  unfold State.bump
  with_reducible repeat' first | dsimp only | assumption | apply keeps_ite | split | apply keeps_set_live

end Sys2Proof.Machine
end

