-- ==== Sys2Proof/Laws/KeepsFlags.lean ====
section
/-! SUPPORT. What the operations of Machine/Flags.lean keep. -/

namespace Sys2Proof.Machine

theorem keeps_setEnt {z0 : State} {s : State} (pg : Nat) (tid : Nat) (idx : Nat) (e : Entry) (hk : Keeps z0 s) : Keeps z0 (State.setEnt s pg tid idx e) := by
  exact hk.tabs (swf_sset entReset s.tabs (tkey pg tid idx) e)

theorem keeps_putE {z0 : State} {s : State} (pg : Nat) (tid : Nat) (idx : Nat) (f : TF) (v : Nat) (hk : Keeps z0 s) : Keeps z0 (State.putE s pg tid idx f v) := by
  unfold State.putE
  with_reducible repeat' first | dsimp only | assumption | apply keeps_setEnt

theorem keeps_setVec {z0 : State} {s : State} (fn : Nat) (v : Nat) (x : Vec) (hk : Keeps z0 s) : Keeps z0 (State.setVec s fn v x) := by
  unfold State.setVec
  with_reducible repeat' first | dsimp only | assumption | apply keeps_set_vecs

theorem keeps_message {z0 : State} {s : State} (p : Nat × Nat) (hk : Keeps z0 s) : Keeps z0 (State.message s p) := by
  unfold State.message
  with_reducible repeat' first | dsimp only | assumption | apply keeps_emit | apply keeps_setVec | apply keeps_ite | apply keeps_ite_snd | apply keeps_ite_fst | split

theorem keeps_vecFalls {z0 : State} (was : List (Nat × Nat)) {s : State} (hk : Keeps z0 s) : Keeps z0 (State.vecFalls was s) := by
  unfold State.vecFalls
  with_reducible repeat' first | dsimp only | assumption | apply keeps_setVec | apply keeps_foldl | apply keeps_foldl_snd | apply keeps_foldl_fst | intro _

theorem keeps_settle {z0 : State} (old : State) {s : State} (hk : Keeps z0 s) : Keeps z0 (State.settle old s) := by
  unfold State.settle
  with_reducible repeat' first | dsimp only | assumption | apply keeps_message | apply keeps_vecFalls | apply keeps_foldl | apply keeps_foldl_snd | apply keeps_foldl_fst | intro _

theorem keeps_raise {z0 : State} {s : State} (pg : Nat) (bit : Nat) (hk : Keeps z0 s) : Keeps z0 (State.raise s pg bit) := by
  unfold State.raise
  with_reducible repeat' first | dsimp only | assumption | apply keeps_setReg | apply keeps_settle | apply keeps_ite | apply keeps_ite_snd | apply keeps_ite_fst | split | apply keeps_set_sticky

theorem keeps_recovered {z0 : State} {s : State} (pg : Nat) (bit : Nat) (hk : Keeps z0 s) : Keeps z0 (State.recovered s pg bit) := by
  unfold State.recovered
  with_reducible repeat' first | dsimp only | assumption | apply keeps_set_sticky

theorem keeps_levelTo {z0 : State} {s : State} (pg : Nat) (bit : Nat) (v : Bool) (hk : Keeps z0 s) : Keeps z0 (State.levelTo s pg bit v) := by
  unfold State.levelTo
  with_reducible repeat' first | dsimp only | assumption | apply keeps_setReg | apply keeps_raise | apply keeps_ite | split

theorem keeps_commit {z0 : State} {s : State} (pg : Nat) (hk : Keeps z0 s) : Keeps z0 (State.commit s pg) := by
  unfold State.commit
  with_reducible repeat' first | dsimp only | assumption | apply keeps_incWrap

theorem keeps_cfgRej {z0 : State} {s : State} (pg : Nat) (hk : Keeps z0 s) : Keeps z0 (State.cfgRej s pg) := by
  unfold State.cfgRej
  with_reducible repeat' first | dsimp only | assumption | apply keeps_putBit

theorem keeps_lockViol {z0 : State} {s : State} (pg : Nat) (hk : Keeps z0 s) : Keeps z0 (State.lockViol s pg) := by
  unfold State.lockViol
  with_reducible repeat' first | dsimp only | assumption | apply keeps_putBit

end Sys2Proof.Machine
end

