-- ==== Sys2Proof/Laws/KeepsOps.lean ====
section
/-! SUPPORT. What the operations of Machine/Ops.lean keep. -/

namespace Sys2Proof.Machine

theorem keeps_draw {z0 : State} {s : State} (hk : Keeps z0 s) : Keeps z0 (State.draw s).2 := by
  exact keeps_draw_free hk

theorem keeps_setTb {z0 : State} {s : State} (n : Nat) (b : TimeBase) (hk : Keeps z0 s) : Keeps z0 (State.setTb s n b) := by
  unfold State.setTb
  with_reducible repeat' first | dsimp only | assumption | apply keeps_set_tbs

theorem keeps_at {z0 : State} {s : State} (t : Nat) (hk : Keeps z0 s) : Keeps z0 (State.at s t) := by
  unfold State.at
  split
  · exact hk
  · have h' : Keeps z0 { s with now := t } := keeps_now hk (by omega)
    split
    · exact keeps_foldl h' (fun s n hs => keeps_setTb _ _ hs)
    · exact h'

theorem keeps_accessError {z0 : State} {s : State} (fn : Nat) (wr : Bool) (a : Nat) (hk : Keeps z0 s) : Keeps z0 (State.accessError s fn wr a) := by
  unfold State.accessError
  with_reducible repeat' first | dsimp only | assumption | apply keeps_setReg | apply keeps_raise | apply keeps_ite | split

theorem keeps_violation {z0 : State} {s : State} (kind : Nat) (fn : Nat) (wr : Bool) (addr : Nat) (hk : Keeps z0 s) : Keeps z0 (State.violation s kind fn wr addr) := by
  unfold State.violation
  with_reducible repeat' first | dsimp only | assumption | apply keeps_setReg | apply keeps_raise | apply keeps_ite | split

theorem keeps_storeFields {z0 : State} {s : State} (k : PKind) (i : Nat) (fn : Nat) (a : Nat) (w : Nat) (hk : Keeps z0 s) : Keeps z0 (State.storeFields s k i fn a w).1 := by
  unfold State.storeFields
  with_reducible repeat' first | dsimp only | assumption | apply keeps_setReg | apply keeps_commit | apply keeps_cfgRej | apply keeps_lockViol | apply keeps_ite | apply keeps_ite_snd | apply keeps_ite_fst | split | intro _

theorem keeps_access {z0 : State} {s : State} (fn : Nat) (a : Nat) (act : PKind → Nat → State → State) (hkact : ∀ x0 x1 x2, Keeps z0 x2 → Keeps z0 (act x0 x1 x2)) (hk : Keeps z0 s) : Keeps z0 (State.access s fn a act) := by
  unfold State.access
  with_reducible repeat' first | dsimp only | assumption | apply keeps_accessError | apply keeps_violation | apply hkact | apply keeps_ite | split

theorem keeps_hostWrite {z0 : State} {s : State} (fn : Nat) (a : Nat) (w : Word) (act : State → Bool → State) (hkact : ∀ x0 x1, Keeps z0 x0 → Keeps z0 (act x0 x1)) (hk : Keeps z0 s) : Keeps z0 (State.hostWrite s fn a w act) := by
  unfold State.hostWrite
  with_reducible repeat' first | dsimp only | assumption | apply keeps_storeFields | apply keeps_access | apply hkact | intro _

theorem keeps_snapClr {z0 : State} {s : State} (pg : Nat) (cs : List Ctr) (snap : Bool) (clr : Bool) (hk : Keeps z0 s) : Keeps z0 (State.snapClr s pg cs snap clr) := by
  have hput : ∀ (s : State) (a v : Nat) (b : Bool), Keeps z0 s →
      Keeps z0 (if b then (s.setReg a (BitVec.ofNat 32 v)).setReg (a + 4) (BitVec.ofNat 32 (v / 2 ^ 32)) else s.setReg a (BitVec.ofNat 32 v)) := by
    intro s a v b hs
    split
    · exact keeps_setReg _ _ (keeps_setReg _ _ hs)
    · exact keeps_setReg _ _ hs
  have hclr : ∀ s : State, Keeps z0 s → Keeps z0 (if clr = true then
      cs.foldl (fun s c => { s with live := sset 0 s.live (pg + c.off) 0 }) s else s) := by
    intro s hs
    split
    · exact keeps_foldl hs (fun s c hs => keeps_set_live hs)
    · exact hs
  unfold State.snapClr
  refine hclr _ ?_
  split
  · refine keeps_foldl hk (fun s c hs => ?_)
    have := hput s (pg + c.off) (s.count pg c) (decide (c.width = 64)) hs
    simpa using this
  · split
    · refine keeps_foldl hk (fun s c hs => ?_)
      have := hput s (pg + c.off) 0 (decide (c.width = 64)) hs
      simpa using this
    · exact hk

theorem keeps_forN {z0 : State} (n : Nat) (f : Nat → State → State) {s : State} (hkf : ∀ x0 x1, Keeps z0 x1 → Keeps z0 (f x0 x1)) (hk : Keeps z0 s) : Keeps z0 (forN n f s) := by
  unfold forN
  with_reducible repeat' first | dsimp only | assumption | apply hkf | apply keeps_foldl | apply keeps_foldl_snd | apply keeps_foldl_fst | intro _

theorem keeps_when {z0 : State} {s : State} (c : Bool) (f : State → State) (hkf : ∀ x0, Keeps z0 x0 → Keeps z0 (f x0)) (hk : Keeps z0 s) : Keeps z0 (State.when s c f) := by
  unfold State.when
  with_reducible repeat' first | dsimp only | assumption | apply hkf | apply keeps_ite | split

end Sys2Proof.Machine
end

