-- ==== Sys2Proof/Laws/KeepsPools.lean ====
section
/-! SUPPORT. What the operations of Machine/Pools.lean keep. -/

namespace Sys2Proof.Machine

theorem keeps_setPool {z0 : State} {s : State} (p : Nat) (x : Pool) (hk : Keeps z0 s) : Keeps z0 (State.setPool s p x) := by
  unfold State.setPool
  with_reducible repeat' first | dsimp only | assumption | apply keeps_set_bp

theorem keeps_setHdr {z0 : State} {s : State} (h : Nat) (v : Nat) (hk : Keeps z0 s) : Keeps z0 (State.setHdr s h v) := by
  unfold State.setHdr
  with_reducible repeat' first | dsimp only | assumption | apply keeps_ite | split | apply keeps_set_bp

theorem keeps_setHbits {z0 : State} {s : State} (h : Nat) (hi : Nat) (lo : Nat) (x : Nat) (hk : Keeps z0 s) : Keeps z0 (State.setHbits s h hi lo x) := by
  unfold State.setHbits
  with_reducible repeat' first | dsimp only | assumption | apply keeps_setHdr

theorem keeps_poisonBuffer {z0 : State} (h : Nat) (k : Nat) {s : State} (hk : Keeps z0 s) : Keeps z0 (poisonBuffer h k s) := by
  unfold poisonBuffer
  with_reducible repeat' first | dsimp only | assumption | apply keeps_setHbits | apply keeps_ite | split | apply keeps_set_poison

theorem keeps_leaveBytes {z0 : State} (x : Nat) (c : List Nat) {s : State} (hk : Keeps z0 s) : Keeps z0 (leaveBytes x c s) := by
  unfold leaveBytes
  dsimp only
  exact keeps_ite hk (Keeps.dm hk (memWrite_foldl_wf _ _ _ _))

theorem keeps_setFree {z0 : State} (p : Nat) (n : Nat) {s : State} (hk : Keeps z0 s) : Keeps z0 (setFree p n s) := by
  unfold setFree
  with_reducible repeat' first | dsimp only | assumption | apply keeps_put

theorem keeps_bpReject {z0 : State} (reason : Nat) (req : Nat) (h : Nat) {s : State} (hk : Keeps z0 s) : Keeps z0 (bpReject reason req h s) := by
  unfold bpReject
  with_reducible repeat' first | dsimp only | assumption | apply keeps_put | apply keeps_putBit | apply keeps_bump | apply keeps_raise | apply keeps_ite | split

theorem keeps_relinkCache {z0 : State} (p : Nat) (top : Nat) (y0 : List Nat) {y1 : State} (hk : Keeps z0 y1) : Keeps z0 (relinkCache p top y0 y1) := by
  revert hk
  fun_induction relinkCache p top y0 y1 <;> intro hk
  all_goals with_reducible repeat' first | dsimp only | assumption | apply_assumption | apply keeps_setHbits | apply keeps_ite | split

theorem keeps_quarantine {z0 : State} (p : Nat) (issuer : Nat) (h : Nat) {s : State} (hk : Keeps z0 s) : Keeps z0 (quarantine p issuer h s) := by
  unfold quarantine
  with_reducible repeat' first | dsimp only | assumption | apply keeps_putBit | apply keeps_bump | apply keeps_setPool | apply keeps_setFree | apply keeps_bpReject | apply keeps_relinkCache | intro _

theorem keeps_scrubTop {z0 : State} (p : Nat) (k : Nat) (r : Nat) (issuer : Nat) (y0 : Nat) {y1 : State} (hk : Keeps z0 y1) : Keeps z0 (scrubTop p k r issuer y0 y1) := by
  revert hk
  fun_induction scrubTop p k r issuer y0 y1 <;> intro hk
  all_goals with_reducible repeat' first | dsimp only | assumption | apply_assumption | apply keeps_quarantine | apply keeps_ite | split | intro _

theorem keeps_popBufs {z0 : State} (p : Nat) (k : Nat) {s : State} (hk : Keeps z0 s) : Keeps z0 (popBufs p k s) := by
  unfold popBufs
  with_reducible repeat' first | dsimp only | assumption | apply keeps_setPool | split

theorem keeps_linkMembers {z0 : State} (y0 : List Nat) {y1 : State} (hk : Keeps z0 y1) : Keeps z0 (linkMembers y0 y1) := by
  revert hk
  fun_induction linkMembers y0 y1 <;> intro hk
  all_goals with_reducible repeat' first | dsimp only | assumption | apply_assumption | apply keeps_setHdr

theorem keeps_noBuf {z0 : State} (p : Nat) (r : Nat) (cause : Nat) {s : State} (hk : Keeps z0 s) : Keeps z0 (noBuf p r cause s) := by
  unfold noBuf
  with_reducible repeat' first | dsimp only | assumption | apply keeps_put | apply keeps_setEnt | apply keeps_raise | apply keeps_ite | split | apply keeps_set_bp

theorem keeps_alloc {z0 : State} (p : Nat) (k : Nat) (r : Nat) (issuer : Nat) {s0 : State} (hk : Keeps z0 s0) : Keeps z0 (alloc p k r issuer s0).2 := by
  unfold alloc
  with_reducible repeat' first | dsimp only | assumption | apply keeps_bump | apply keeps_setEnt | apply keeps_setHdr | apply keeps_setFree | apply keeps_scrubTop | apply keeps_popBufs | apply keeps_linkMembers | apply keeps_noBuf | apply keeps_ite | apply keeps_ite_snd | apply keeps_ite_fst | split

theorem keeps_linkFree {z0 : State} (top : Nat) (y0 : List Nat) {y1 : State} (hk : Keeps z0 y1) : Keeps z0 (linkFree top y0 y1) := by
  revert hk
  fun_induction linkFree top y0 y1 <;> intro hk
  all_goals with_reducible repeat' first | dsimp only | assumption | apply_assumption | apply keeps_setHdr

theorem keeps_pushBufs {z0 : State} (p : Nat) (c : List Nat) {s : State} (hk : Keeps z0 s) : Keeps z0 (pushBufs p c s) := by
  unfold pushBufs
  with_reducible repeat' first | dsimp only | assumption | apply keeps_setPool | apply keeps_setHdr | apply keeps_linkFree | split

theorem keeps_freeChain {z0 : State} (h : Nat) {s : State} (hk : Keeps z0 s) : Keeps z0 (freeChain h s) := by
  unfold freeChain
  with_reducible repeat' first | dsimp only | assumption | apply keeps_bump | apply keeps_setEnt | apply keeps_leaveBytes | apply keeps_setFree | apply keeps_pushBufs | split | intro _ | apply keeps_set_poison

theorem keeps_share {z0 : State} (h : Nat) (n : Nat) (f : Nat) (req : Nat) {s : State} (hk : Keeps z0 s) : Keeps z0 (share h n f req s) := by
  unfold share
  with_reducible repeat' first | dsimp only | assumption | apply keeps_setHbits | apply keeps_bpReject | apply keeps_ite | split

theorem keeps_free {z0 : State} (h : Nat) (req : Nat) {s : State} (hk : Keeps z0 s) : Keeps z0 (free h req s) := by
  unfold free
  with_reducible repeat' first | dsimp only | assumption | apply keeps_bpReject | apply keeps_freeChain | apply keeps_ite | split

theorem keeps_release {z0 : State} (h : Nat) (req : Nat) (last : Nat → Nat → State → State) {s : State} (hklast : ∀ x0 x1 x2, Keeps z0 x2 → Keeps z0 (last x0 x1 x2)) (hk : Keeps z0 s) : Keeps z0 (release h req last s) := by
  unfold release
  with_reducible repeat' first | dsimp only | assumption | apply keeps_setHbits | apply keeps_bpReject | apply keeps_freeChain | apply hklast | apply keeps_ite | split

theorem keeps_cacheRefill {z0 : State} (p : Nat) {s : State} (hk : Keeps z0 s) : Keeps z0 (cacheRefill p s) := by
  unfold cacheRefill
  with_reducible repeat' first | dsimp only | assumption | apply keeps_setPool | apply keeps_ite | split

theorem keeps_poolCfgAct {z0 : State} (p : Nat) (was : Bool) {s : State} (hk : Keeps z0 s) : Keeps z0 (poolCfgAct p was s) := by
  unfold poolCfgAct
  with_reducible repeat' first | dsimp only | assumption | apply keeps_putBit | apply keeps_setPool | apply keeps_setFree | apply keeps_ite | apply keeps_ite_snd | apply keeps_ite_fst | split | intro _ | apply keeps_set_poison_bp

theorem keeps_poolInitDone {z0 : State} (p : Nat) {s : State} (hk : Keeps z0 s) : Keeps z0 (poolInitDone p s) := by
  unfold poolInitDone
  with_reducible repeat' first | dsimp only | assumption | apply keeps_putBit | apply keeps_setPool | apply keeps_setFree | apply keeps_cacheRefill | apply keeps_ite | apply keeps_ite_fst | split

theorem keeps_rebuildPool {z0 : State} (p : Nat) {s : State} (hk : Keeps z0 s) : Keeps z0 (rebuildPool p s) := by
  unfold rebuildPool
  with_reducible repeat' first | assumption | intro _ | apply keeps_ite | apply keeps_ite_snd | apply keeps_ite_fst | split | dsimp only | apply keeps_putBit | apply keeps_setPool | apply keeps_setHdr | apply keeps_setFree | apply keeps_relinkCache | apply keeps_foldl | apply keeps_foldl_snd | apply keeps_foldl_fst

theorem keeps_bpCommand {z0 : State} (w : Nat) {s : State} (hk : Keeps z0 s) : Keeps z0 (bpCommand w s) := by
  unfold bpCommand
  with_reducible repeat' first | dsimp only | assumption | apply keeps_put | apply keeps_putBit | apply keeps_ite | split | apply keeps_set_bp

theorem keeps_bpRebuildDone {z0 : State} {s : State} (hk : Keeps z0 s) : Keeps z0 (bpRebuildDone s) := by
  unfold bpRebuildDone
  with_reducible repeat' first | dsimp only | assumption | apply keeps_putBit | apply keeps_rebuildPool | split | apply keeps_set_bp

theorem keeps_bpErst {z0 : State} {s : State} (hk : Keeps z0 s) : Keeps z0 (bpErst s) := by
  unfold bpErst
  with_reducible repeat' first | dsimp only | assumption | apply keeps_forN | apply keeps_setPool | intro _

theorem keeps_execAlloc {z0 : State} (pool : Fin 16) (k : Nat) (charge : Fin 128) (issuer : Fin 128) (t : Nat) {s : State} (hk : Keeps z0 s) : KeepsR z0 (execAlloc pool k charge issuer t s) := by
  unfold execAlloc
  with_reducible repeat' first | dsimp only | assumption | apply KeepsR.next | apply KeepsR.fault | apply keeps_emit | apply keeps_at | apply keeps_noBuf | apply keeps_alloc | apply keeps_ite | apply keepsR_ite | apply keeps_ite_snd | apply keeps_ite_fst | split

theorem keeps_execShare {z0 : State} (h : Nat) (n : Nat) (f : Fin 128) (issuer : Fin 128) {s : State} (hk : Keeps z0 s) : KeepsR z0 (execShare h n f issuer s) := by
  unfold execShare
  with_reducible repeat' first | dsimp only | assumption | apply KeepsR.next | apply KeepsR.fault | apply keeps_share

theorem keeps_execFree {z0 : State} (h : Nat) (issuer : Fin 128) {s : State} (hk : Keeps z0 s) : KeepsR z0 (execFree h issuer s) := by
  unfold execFree
  with_reducible repeat' first | dsimp only | assumption | apply KeepsR.next | apply KeepsR.fault | apply keeps_free

theorem keeps_execCacheRefill {z0 : State} (pool : Fin 16) {s : State} (hk : Keeps z0 s) : KeepsR z0 (execCacheRefill pool s) := by
  unfold execCacheRefill
  with_reducible repeat' first | dsimp only | assumption | apply KeepsR.next | apply KeepsR.fault | apply keeps_cacheRefill

theorem keeps_execBpRebuild {z0 : State} (fn : Fn) (pool : Fin 16) {s : State} (hk : Keeps z0 s) : KeepsR z0 (execBpRebuild fn pool s) := by
  unfold execBpRebuild
  with_reducible repeat' first | dsimp only | assumption | apply KeepsR.next | apply KeepsR.fault | apply keeps_hostWrite | apply keeps_bpCommand | intro _

theorem keeps_execBpRebuildDone {z0 : State} {s : State} (hk : Keeps z0 s) : KeepsR z0 (execBpRebuildDone s) := by
  unfold execBpRebuildDone
  with_reducible repeat' first | dsimp only | assumption | apply KeepsR.next | apply KeepsR.fault | apply keeps_bpRebuildDone

theorem keeps_execClrMin {z0 : State} (fn : Fn) (pool : Fin 16) {s : State} (hk : Keeps z0 s) : KeepsR z0 (execClrMin fn pool s) := by
  unfold execClrMin
  with_reducible repeat' first | dsimp only | assumption | apply KeepsR.next | apply KeepsR.fault | apply keeps_hostWrite | apply keeps_bpCommand | intro _

theorem keeps_execPoolEnable {z0 : State} (fn : Fn) (pool : Fin 16) (w : Word) {s : State} (hk : Keeps z0 s) : KeepsR z0 (execPoolEnable fn pool w s) := by
  unfold execPoolEnable
  with_reducible repeat' first | dsimp only | assumption | apply KeepsR.next | apply KeepsR.fault | apply keeps_hostWrite | apply keeps_poolCfgAct | intro _

theorem keeps_execPoolInitDone {z0 : State} (pool : Fin 16) {s : State} (hk : Keeps z0 s) : KeepsR z0 (execPoolInitDone pool s) := by
  unfold execPoolInitDone
  with_reducible repeat' first | dsimp only | assumption | apply KeepsR.next | apply KeepsR.fault | apply keeps_poolInitDone

end Sys2Proof.Machine
end

