-- ==== Sys2Proof/Laws/KeepsDev.lean ====
section
/-! SUPPORT. What the operations of Machine/Dev.lean keep. -/

namespace Sys2Proof.Machine

theorem keeps_avsLimit {z0 : State} {s : State} (hk : Keeps z0 s) : Keeps z0 (avsLimit s) := by
  unfold avsLimit
  with_reducible repeat' first | dsimp only | assumption | apply keeps_putBit | apply keeps_levelTo

theorem keeps_slowOver {z0 : State} (n : Nat) {s : State} (hk : Keeps z0 s) : Keeps z0 (slowOver n s) := by
  unfold slowOver
  with_reducible repeat' first | dsimp only | assumption | apply keeps_set_dev

theorem keeps_pitchMeasure {z0 : State} (n : Nat) (ps : Nat) (stretched : Bool) {s : State} (hk : Keeps z0 s) : Keeps z0 (pitchMeasure n ps stretched s) := by
  unfold pitchMeasure
  with_reducible repeat' first | dsimp only | assumption | apply keeps_put | apply keeps_putBit | apply keeps_avsLimit | apply keeps_slowOver | apply keeps_ite | split

theorem keeps_pitchStart {z0 : State} (n : Nat) {s : State} (hk : Keeps z0 s) : Keeps z0 (pitchStart n s) := by
  unfold pitchStart
  with_reducible repeat' first | dsimp only | assumption | apply keeps_put | apply keeps_putBit | apply keeps_slowOver

theorem keeps_pitchSlow {z0 : State} (n : Nat) {s : State} (hk : Keeps z0 s) : Keeps z0 (pitchSlow n s) := by
  unfold pitchSlow
  with_reducible repeat' first | dsimp only | assumption | apply keeps_put | apply keeps_raise | apply keeps_ite | split | apply keeps_set_dev

theorem keeps_clearWorst {z0 : State} {s : State} (hk : Keeps z0 s) : Keeps z0 (clearWorst s) := by
  unfold clearWorst
  with_reducible repeat' first | dsimp only | assumption | apply keeps_put | apply keeps_forN | intro _

theorem keeps_avsSend {z0 : State} {s : State} (v : Nat) (hk : Keeps z0 s) : Keeps z0 (avsSend s v) := by
  unfold avsSend
  with_reducible repeat' first | dsimp only | assumption | apply keeps_emit | apply keeps_set_dev

theorem keeps_avsCtrlAct {z0 : State} (was : Bool) {s : State} (hk : Keeps z0 s) : Keeps z0 (avsCtrlAct was s) := by
  unfold avsCtrlAct
  with_reducible repeat' first | dsimp only | assumption | apply keeps_putBit | apply keeps_emit | apply keeps_avsLimit | apply keeps_ite | split | apply keeps_set_dev

theorem keeps_avsStep {z0 : State} {s : State} (hk : Keeps z0 s) : Keeps z0 (avsStep s) := by
  unfold avsStep
  with_reducible repeat' first | dsimp only | assumption | apply keeps_avsSend | apply keeps_ite | apply keeps_ite_snd | apply keeps_ite_fst | split | apply keeps_set_dev

theorem keeps_avsLoop {z0 : State} {s : State} (hk : Keeps z0 s) : Keeps z0 (avsLoop s) := by
  unfold avsLoop
  with_reducible repeat' first | dsimp only | assumption | apply keeps_emit | apply keeps_avsLimit | apply keeps_avsStep | apply keeps_ite | split | apply keeps_set_dev

theorem keeps_avsEnd {z0 : State} (acked : Bool) (mv : Nat) {s : State} (hk : Keeps z0 s) : Keeps z0 (avsEnd acked mv s) := by
  unfold avsEnd
  with_reducible repeat' first | dsimp only | assumption | apply keeps_put | apply keeps_putBit | apply keeps_raise | apply keeps_avsLimit | apply keeps_ite | split | apply keeps_set_dev

theorem keeps_didtEpisode {z0 : State} (sects : Nat) (dur : Nat) {s : State} (hk : Keeps z0 s) : Keeps z0 (didtEpisode sects dur s) := by
  unfold didtEpisode
  with_reducible repeat' first | dsimp only | assumption | apply keeps_put | apply keeps_incWrap

theorem keeps_didtLimit {z0 : State} (t : Nat) {s0 : State} (hk : Keeps z0 s0) : Keeps z0 (didtLimit t s0) := by
  unfold didtLimit
  with_reducible repeat' first | dsimp only | assumption | apply keeps_raise | apply keeps_at | apply keeps_ite | split | apply keeps_set_dev

theorem keeps_eccCorrected {z0 : State} (n : Nat) {s : State} (hk : Keeps z0 s) : Keeps z0 (eccCorrected n s) := by
  unfold eccCorrected
  with_reducible repeat' first | dsimp only | assumption | apply keeps_incSat | apply keeps_set_dev

theorem keeps_eccUncorrectable {z0 : State} (n : Nat) (place : Nat) (idx : Nat) {s : State} (hk : Keeps z0 s) : Keeps z0 (eccUncorrectable n place idx s) := by
  unfold eccUncorrectable
  with_reducible repeat' first | dsimp only | assumption | apply keeps_put | apply keeps_putBit | apply keeps_incSat | apply keeps_raise | apply keeps_ite | split

theorem keeps_markBad {z0 : State} {s : State} (key : Nat) (hk : Keeps z0 s) : Keeps z0 (State.markBad s key) := by
  unfold State.markBad
  refine keeps_ite hk (keeps_ite hk (Keeps.tabs hk ?_))
  exact swf_sset entReset _ _ _

theorem keeps_patrolFinding {z0 : State} {s : State} (f : EccFinding) (hk : Keeps z0 s) : Keeps z0 (patrolFinding s f) := by
  unfold patrolFinding
  with_reducible repeat' first | dsimp only | assumption | apply keeps_poisonBuffer | apply keeps_eccCorrected | apply keeps_eccUncorrectable | apply keeps_markBad | apply keeps_ite | split

theorem keeps_sramPatrol {z0 : State} (found : List EccFinding) {s : State} (hk : Keeps z0 s) : Keeps z0 (sramPatrol found s) := by
  unfold sramPatrol
  with_reducible repeat' first | dsimp only | assumption | apply keeps_patrolFinding | apply keeps_foldl | apply keeps_foldl_snd | apply keeps_foldl_fst | apply keeps_ite | split | intro _

theorem keeps_eccCeRate {z0 : State} {s : State} (hk : Keeps z0 s) : Keeps z0 (eccCeRate s) := by
  unfold eccCeRate
  with_reducible repeat' first | assumption | intro _ | apply keeps_ite | split | dsimp only | apply keeps_raise | apply keeps_forN | apply keeps_set_dev

theorem keeps_clearEccCounts {z0 : State} {s : State} (hk : Keeps z0 s) : Keeps z0 (clearEccCounts s) := by
  unfold clearEccCounts
  with_reducible repeat' first | dsimp only | assumption | apply keeps_put | apply keeps_forN | intro _

theorem keeps_execPitchMeasure {z0 : State} (sect : Fin 11) (ps : BitVec 12) (stretched : Bool) {s : State} (hk : Keeps z0 s) : KeepsR z0 (execPitchMeasure sect ps stretched s) := by
  unfold execPitchMeasure
  with_reducible repeat' first | dsimp only | assumption | apply KeepsR.next | apply KeepsR.fault | apply keeps_pitchMeasure

theorem keeps_execPitchSlow {z0 : State} (sect : Fin 11) {s : State} (hk : Keeps z0 s) : KeepsR z0 (execPitchSlow sect s) := by
  unfold execPitchSlow
  with_reducible repeat' first | dsimp only | assumption | apply KeepsR.next | apply KeepsR.fault | apply keeps_pitchSlow

theorem keeps_execClrWorst {z0 : State} (fn : Fn) (w : Word) {s : State} (hk : Keeps z0 s) : KeepsR z0 (execClrWorst fn w s) := by
  unfold execClrWorst
  with_reducible repeat' first | dsimp only | assumption | apply KeepsR.next | apply KeepsR.fault | apply keeps_hostWrite | apply keeps_avsLimit | apply keeps_clearWorst | intro _

theorem keeps_execAvsEnable {z0 : State} (fn : Fn) (w : Word) {s : State} (hk : Keeps z0 s) : KeepsR z0 (execAvsEnable fn w s) := by
  unfold execAvsEnable
  with_reducible repeat' first | dsimp only | assumption | apply KeepsR.next | apply KeepsR.fault | apply keeps_hostWrite | apply keeps_avsCtrlAct | intro _

theorem keeps_execAvsLoop {z0 : State} {s : State} (hk : Keeps z0 s) : KeepsR z0 (execAvsLoop s) := by
  unfold execAvsLoop
  with_reducible repeat' first | dsimp only | assumption | apply KeepsR.next | apply KeepsR.fault | apply keeps_avsLoop

theorem keeps_execAvsTransactionEnd {z0 : State} (acked : Bool) (mv : BitVec 12) {s : State} (hk : Keeps z0 s) : KeepsR z0 (execAvsTransactionEnd acked mv s) := by
  unfold execAvsTransactionEnd
  with_reducible repeat' first | dsimp only | assumption | apply KeepsR.next | apply KeepsR.fault | apply keeps_avsEnd

theorem keeps_execDidtEpisode {z0 : State} (sects : BitVec 11) (dur : BitVec 16) {s : State} (hk : Keeps z0 s) : KeepsR z0 (execDidtEpisode sects dur s) := by
  unfold execDidtEpisode
  with_reducible repeat' first | dsimp only | assumption | apply KeepsR.next | apply KeepsR.fault | apply keeps_didtEpisode

theorem keeps_execDidtLimit {z0 : State} (t : Nat) {s : State} (hk : Keeps z0 s) : KeepsR z0 (execDidtLimit t s) := by
  unfold execDidtLimit
  with_reducible repeat' first | dsimp only | assumption | apply KeepsR.next | apply KeepsR.fault | apply keeps_didtLimit

theorem keeps_execSramPatrol {z0 : State} (found : List EccFinding) {s : State} (hk : Keeps z0 s) : KeepsR z0 (execSramPatrol found s) := by
  unfold execSramPatrol
  with_reducible repeat' first | dsimp only | assumption | apply KeepsR.next | apply KeepsR.fault | apply keeps_sramPatrol

theorem keeps_execEccCeRate {z0 : State} {s : State} (hk : Keeps z0 s) : KeepsR z0 (execEccCeRate s) := by
  unfold execEccCeRate
  with_reducible repeat' first | assumption | dsimp only | apply KeepsR.next | apply KeepsR.fault | apply keeps_eccCeRate

theorem keeps_execClrCnt {z0 : State} (fn : Fn) (w : Word) {s : State} (hk : Keeps z0 s) : KeepsR z0 (execClrCnt fn w s) := by
  unfold execClrCnt
  with_reducible repeat' first | dsimp only | assumption | apply KeepsR.next | apply KeepsR.fault | apply keeps_hostWrite | apply keeps_clearEccCounts | intro _

end Sys2Proof.Machine
end

