-- ==== Sys2Proof/Laws/KeepsLanes.lean ====
section
/-! SUPPORT. What the operations of Machine/Lanes.lean keep. -/

namespace Sys2Proof.Machine

theorem keeps_setLane {z0 : State} {s : State} (i : Nat) (l : Lane) (hk : Keeps z0 s) : Keeps z0 (State.setLane s i l) := by
  unfold State.setLane
  with_reducible repeat' first | dsimp only | assumption | apply keeps_set_lanes

theorem keeps_modLane {z0 : State} {s : State} (i : Nat) (f : Lane → Lane) (hk : Keeps z0 s) : Keeps z0 (State.modLane s i f) := by
  unfold State.modLane
  with_reducible repeat' first | dsimp only | assumption | apply keeps_setLane

theorem keeps_lst {z0 : State} {s : State} (i : Nat) (f : Fld) (b : Bool) (hk : Keeps z0 s) : Keeps z0 (State.lst s i f b) := by
  unfold State.lst
  with_reducible repeat' first | dsimp only | assumption | apply keeps_putBit

theorem keeps_ulLevel {z0 : State} (g : Nat) {s : State} (hk : Keeps z0 s) : Keeps z0 (ulLevel g s) := by
  unfold ulLevel
  with_reducible repeat' first | dsimp only | assumption | apply keeps_levelTo

theorem keeps_ulLink {z0 : State} (g : Nat) (up : Bool) {s : State} (hk : Keeps z0 s) : Keeps z0 (ulLink g up s) := by
  unfold ulLink
  with_reducible repeat' first | dsimp only | assumption | apply keeps_putBit | apply keeps_ulLevel

theorem keeps_lnState {z0 : State} {s : State} (i : Nat) (v : Nat) (hk : Keeps z0 s) : Keeps z0 (State.lnState s i v) := by
  unfold State.lnState
  with_reducible repeat' first | dsimp only | assumption | apply keeps_put | apply keeps_ulLink | split

theorem keeps_eqSettle {z0 : State} (i : Nat) (prof : Nat) {s : State} (hk : Keeps z0 s) : Keeps z0 (eqSettle i prof s) := by
  unfold eqSettle
  with_reducible repeat' first | dsimp only | assumption | apply keeps_draw | apply keeps_modLane | apply keeps_ite | apply keeps_ite_snd | apply keeps_ite_fst | split | intro _

theorem keeps_eqLoad {z0 : State} (i : Nat) (prof : Nat) {s : State} (hk : Keeps z0 s) : Keeps z0 (eqLoad i prof s) := by
  unfold eqLoad
  with_reducible repeat' first | dsimp only | assumption | apply keeps_modLane | intro _

theorem keeps_lnLos {z0 : State} (i : Nat) (v : Bool) {s : State} (hk : Keeps z0 s) : Keeps z0 (lnLos i v s) := by
  unfold lnLos
  with_reducible repeat' first | dsimp only | assumption | apply keeps_levelTo

theorem keeps_lnOpen {z0 : State} (i : Nat) (v : Bool) {s : State} (hk : Keeps z0 s) : Keeps z0 (lnOpen i v s) := by
  unfold lnOpen
  with_reducible repeat' first | dsimp only | assumption | apply keeps_levelTo | apply keeps_lst

theorem keeps_lnFrozen {z0 : State} (i : Nat) {s : State} (hk : Keeps z0 s) : Keeps z0 (lnFrozen i s) := by
  unfold lnFrozen
  with_reducible repeat' first | dsimp only | assumption | apply keeps_lst

theorem keeps_lnUnlock {z0 : State} (i : Nat) {s : State} (hk : Keeps z0 s) : Keeps z0 (lnUnlock i s) := by
  unfold lnUnlock
  with_reducible repeat' first | dsimp only | assumption | apply keeps_lst

theorem keeps_toAdapt {z0 : State} (i : Nat) (src : EqSrc) {s : State} (hk : Keeps z0 s) : Keeps z0 (toAdapt i src s) := by
  unfold toAdapt
  with_reducible repeat' first | dsimp only | assumption | apply keeps_modLane | apply keeps_lnState | apply keeps_lnLos | apply keeps_lnFrozen | apply keeps_lnUnlock | intro _

theorem keeps_txDrive {z0 : State} (i : Nat) {s : State} (hk : Keeps z0 s) : Keeps z0 (txDrive i s) := by
  unfold txDrive
  with_reducible repeat' first | dsimp only | assumption | apply keeps_emit

theorem keeps_breathOut {z0 : State} (i : Nat) {s : State} (hk : Keeps z0 s) : Keeps z0 (breathOut i s) := by
  unfold breathOut
  with_reducible repeat' first | dsimp only | assumption | apply keeps_emit | apply keeps_modLane | apply keeps_lst | apply keeps_ite | split | intro _

theorem keeps_txLeave {z0 : State} (i : Nat) {s : State} (hk : Keeps z0 s) : Keeps z0 (txLeave i s) := by
  unfold txLeave
  with_reducible repeat' first | dsimp only | assumption | apply keeps_modLane | apply keeps_breathOut | apply keeps_ite | split | intro _

theorem keeps_patternOut {z0 : State} (i : Nat) {s : State} (hk : Keeps z0 s) : Keeps z0 (patternOut i s) := by
  unfold patternOut
  with_reducible repeat' first | dsimp only | assumption | apply keeps_emit | apply keeps_ite | split

theorem keeps_emitPtx {z0 : State} {s : State} (n : Nat) (o : Output) (hk : Keeps z0 s) : Keeps z0 (State.emitPtx s n o) := by
  unfold State.emitPtx
  with_reducible repeat' first | dsimp only | assumption | apply keeps_emit | apply keeps_ite | split

theorem keeps_laneClear {z0 : State} (i : Nat) (l : Lane) {s : State} (hk : Keeps z0 s) : Keeps z0 (laneClear i l s) := by
  unfold laneClear
  with_reducible repeat' first | dsimp only | assumption | apply keeps_put | apply keeps_putBit | apply keeps_setLane | apply keeps_lst | apply keeps_lnState | apply keeps_lnLos | apply keeps_lnFrozen | apply keeps_lnUnlock

theorem keeps_laneStart {z0 : State} (i : Nat) {s : State} (hk : Keeps z0 s) : Keeps z0 (laneStart i s) := by
  unfold laneStart
  with_reducible repeat' first | dsimp only | assumption | apply keeps_lst | apply keeps_laneClear | apply keeps_ite | split

theorem keeps_laneStop {z0 : State} (i : Nat) {s : State} (hk : Keeps z0 s) : Keeps z0 (laneStop i s) := by
  unfold laneStop
  with_reducible repeat' first | dsimp only | assumption | apply keeps_lst | apply keeps_lnOpen | apply keeps_laneClear | apply keeps_ite | split

theorem keeps_pllLock {z0 : State} (i : Nat) {s : State} (hk : Keeps z0 s) : Keeps z0 (pllLock i s) := by
  unfold pllLock
  with_reducible repeat' first | dsimp only | assumption | apply keeps_putBit | apply keeps_modLane | apply keeps_lst | apply keeps_lnState | apply keeps_lnLos | apply keeps_toAdapt | apply keeps_ite | split | intro _

theorem keeps_pllTimeout {z0 : State} (i : Nat) {s : State} (hk : Keeps z0 s) : Keeps z0 (pllTimeout i s) := by
  unfold pllTimeout
  with_reducible repeat' first | dsimp only | assumption | apply keeps_putBit | apply keeps_modLane | apply keeps_ite | split | intro _

theorem keeps_txStart {z0 : State} (i : Nat) {s : State} (hk : Keeps z0 s) : Keeps z0 (txStart i s) := by
  unfold txStart
  with_reducible repeat' first | dsimp only | assumption | apply keeps_modLane | apply keeps_lst | apply keeps_txDrive | apply keeps_breathOut | apply keeps_ite | split | intro _

theorem keeps_terminationDetect {z0 : State} (i : Nat) (found : Bool) {s : State} (hk : Keeps z0 s) : Keeps z0 (terminationDetect i found s) := by
  unfold terminationDetect
  with_reducible repeat' first | dsimp only | assumption | apply keeps_levelTo | apply keeps_modLane | apply keeps_lst | apply keeps_lnOpen | apply keeps_txStart | apply keeps_ite | split | intro _

theorem keeps_terminationRetry {z0 : State} (i : Nat) {s : State} (hk : Keeps z0 s) : Keeps z0 (terminationRetry i s) := by
  unfold terminationRetry
  with_reducible repeat' first | dsimp only | assumption | apply keeps_modLane | apply keeps_ite | split | intro _

theorem keeps_sigdet {z0 : State} (i : Nat) {s : State} (hk : Keeps z0 s) : Keeps z0 (sigdet i s) := by
  unfold sigdet
  with_reducible repeat' first | dsimp only | assumption | apply keeps_lst | apply keeps_lnLos | apply keeps_toAdapt | apply keeps_ite | split

theorem keeps_adaptSettled {z0 : State} (i : Nat) {s : State} (hk : Keeps z0 s) : Keeps z0 (adaptSettled i s) := by
  unfold adaptSettled
  with_reducible repeat' first | dsimp only | assumption | apply keeps_modLane | apply keeps_lst | apply keeps_lnLos | apply keeps_ite | split | intro _

theorem keeps_adaptTimeout {z0 : State} (i : Nat) {s : State} (hk : Keeps z0 s) : Keeps z0 (adaptTimeout i s) := by
  unfold adaptTimeout
  with_reducible repeat' first | dsimp only | assumption | apply keeps_incSat | apply keeps_toAdapt | apply keeps_ite | split

theorem keeps_wiring {z0 : State} (i : Nat) {s : State} (hk : Keeps z0 s) : Keeps z0 (wiring i s) := by
  unfold wiring
  with_reducible repeat' first | dsimp only | assumption | apply keeps_raise

theorem keeps_pcsLock {z0 : State} (i : Nat) (inverted : Bool) (position : Nat) {s : State} (hk : Keeps z0 s) : Keeps z0 (pcsLock i inverted position s) := by
  unfold pcsLock
  with_reducible repeat' first | dsimp only | assumption | apply keeps_put | apply keeps_when | apply keeps_modLane | apply keeps_lst | apply keeps_lnState | apply keeps_lnLos | apply keeps_lnFrozen | apply keeps_wiring | apply keeps_ite | split | intro _

theorem keeps_pcsTimeout {z0 : State} (i : Nat) {s : State} (hk : Keeps z0 s) : Keeps z0 (pcsTimeout i s) := by
  unfold pcsTimeout
  with_reducible repeat' first | dsimp only | assumption | apply keeps_toAdapt | apply keeps_ite | split

theorem keeps_lockLoss {z0 : State} (i : Nat) {s : State} (hk : Keeps z0 s) : Keeps z0 (lockLoss i s) := by
  unfold lockLoss
  with_reducible repeat' first | dsimp only | assumption | apply keeps_lst | apply keeps_lnLos | apply keeps_toAdapt | apply keeps_ite | split

theorem keeps_adaptRestart {z0 : State} (i : Nat) {s : State} (hk : Keeps z0 s) : Keeps z0 (adaptRestart i s) := by
  unfold adaptRestart
  with_reducible repeat' first | dsimp only | assumption | apply keeps_modLane | apply keeps_toAdapt | apply keeps_ite | split | intro _

theorem keeps_clearAdapt {z0 : State} (i : Nat) {s : State} (hk : Keeps z0 s) : Keeps z0 (clearAdapt i s) := by
  unfold clearAdapt
  with_reducible repeat' first | dsimp only | assumption | apply keeps_put

theorem keeps_idleAct {z0 : State} (i : Nat) {s : State} (hk : Keeps z0 s) : Keeps z0 (idleAct i s) := by
  unfold idleAct
  with_reducible repeat' first | dsimp only | assumption | apply keeps_modLane | apply keeps_txLeave | apply keeps_ite | split | intro _

theorem keeps_idleEntry {z0 : State} (i : Nat) {s : State} (hk : Keeps z0 s) : Keeps z0 (idleEntry i s) := by
  unfold idleEntry
  with_reducible repeat' first | dsimp only | assumption | apply keeps_modLane | apply keeps_lst | apply keeps_txLeave | apply keeps_ite | split | intro _

theorem keeps_breathRx {z0 : State} (i : Nat) {s : State} (hk : Keeps z0 s) : Keeps z0 (breathRx i s) := by
  unfold breathRx
  with_reducible repeat' first | dsimp only | assumption | apply keeps_modLane | apply keeps_lst | apply keeps_lnFrozen | apply keeps_ite | split | intro _

theorem keeps_fastPathFail {z0 : State} (i : Nat) {s : State} (hk : Keeps z0 s) : Keeps z0 (fastPathFail i s) := by
  unfold fastPathFail
  with_reducible repeat' first | dsimp only | assumption | apply keeps_incSat | apply keeps_modLane | apply keeps_lst | apply keeps_toAdapt | apply keeps_ite | split | intro _

theorem keeps_signalLoss {z0 : State} (i : Nat) {s : State} (hk : Keeps z0 s) : Keeps z0 (signalLoss i s) := by
  unfold signalLoss
  with_reducible repeat' first | dsimp only | assumption | apply keeps_modLane | apply keeps_lst | apply keeps_lnState | apply keeps_lnLos | apply keeps_lnFrozen | apply keeps_lnUnlock | apply keeps_ite | split | intro _

theorem keeps_idleStale {z0 : State} (i : Nat) {s : State} (hk : Keeps z0 s) : Keeps z0 (idleStale i s) := by
  unfold idleStale
  with_reducible repeat' first | dsimp only | assumption | apply keeps_modLane | apply keeps_lnState | apply keeps_lnLos | apply keeps_lnFrozen | apply keeps_ite | split | intro _

theorem keeps_prxToBurst {z0 : State} (i : Nat) {s : State} (hk : Keeps z0 s) : Keeps z0 (prxToBurst i s) := by
  unfold prxToBurst
  with_reducible repeat' first | dsimp only | assumption | apply keeps_modLane | apply keeps_lnState | apply keeps_lnLos | intro _

theorem keeps_leaveTest {z0 : State} (i : Nat) {s : State} (hk : Keeps z0 s) : Keeps z0 (leaveTest i s) := by
  unfold leaveTest
  with_reducible repeat' first | dsimp only | assumption | apply keeps_putBit | apply keeps_modLane | apply keeps_lst | apply keeps_lnState | apply keeps_lnLos | apply keeps_prxToBurst | apply keeps_ite | split | intro _

theorem keeps_laneFrame {z0 : State} (n : Nat) {s : State} (hk : Keeps z0 s) : Keeps z0 (laneFrame n s) := by
  unfold laneFrame
  with_reducible repeat' first | dsimp only | assumption | apply keeps_modLane | apply keeps_prxToBurst | apply keeps_ite | split | intro _

theorem keeps_prbsModeAct {z0 : State} (i : Nat) {s : State} (hk : Keeps z0 s) : Keeps z0 (prbsModeAct i s) := by
  unfold prbsModeAct
  with_reducible repeat' first | dsimp only | assumption | apply keeps_putBit | apply keeps_modLane | apply keeps_patternOut | apply keeps_leaveTest | apply keeps_ite | split | intro _

theorem keeps_testEntry {z0 : State} (i : Nat) {s : State} (hk : Keeps z0 s) : Keeps z0 (testEntry i s) := by
  unfold testEntry
  with_reducible repeat' first | dsimp only | assumption | apply keeps_modLane | apply keeps_lst | apply keeps_lnState | apply keeps_lnLos | apply keeps_patternOut | apply keeps_ite | split | intro _

theorem keeps_prbsCount {z0 : State} (i : Nat) (bits : Nat) (berr : Nat) (serr : Nat) {s : State} (hk : Keeps z0 s) : Keeps z0 (prbsCount i bits berr serr s) := by
  unfold prbsCount
  with_reducible repeat' first | dsimp only | assumption | apply keeps_putBit | apply keeps_modLane | apply keeps_ite | split | intro _

theorem keeps_prbsSync {z0 : State} (i : Nat) (rx : List Bool) {s : State} (hk : Keeps z0 s) : Keeps z0 (prbsSync i rx s) := by
  unfold prbsSync
  with_reducible repeat' first | dsimp only | assumption | apply keeps_putBit | apply keeps_when | apply keeps_modLane | apply keeps_lst | apply keeps_wiring | apply keeps_ite | split | intro _

theorem keeps_lnCfgAct {z0 : State} (i : Nat) {s : State} (hk : Keeps z0 s) : Keeps z0 (lnCfgAct i s) := by
  unfold lnCfgAct
  with_reducible repeat' first | dsimp only | assumption | apply keeps_modLane | apply keeps_lst | apply keeps_ite | split | intro _

theorem keeps_lnTxAct {z0 : State} (i : Nat) {s : State} (hk : Keeps z0 s) : Keeps z0 (lnTxAct i s) := by
  unfold lnTxAct
  with_reducible repeat' first | dsimp only | assumption | apply keeps_when | apply keeps_txDrive

theorem keeps_prbsSyncLoss {z0 : State} (i : Nat) (bits : Nat) (berr : Nat) (serr : Nat) {s : State} (hk : Keeps z0 s) : Keeps z0 (prbsSyncLoss i bits berr serr s) := by
  unfold prbsSyncLoss
  with_reducible repeat' first | dsimp only | assumption | apply keeps_putBit | apply keeps_incSat | apply keeps_prbsCount | apply keeps_ite | split

theorem keeps_put48 {z0 : State} (pg : Nat) (lo : Fld) (hi : Fld) (v : Nat) {s : State} (hk : Keeps z0 s) : Keeps z0 (put48 pg lo hi v s) := by
  unfold put48
  with_reducible repeat' first | dsimp only | assumption | apply keeps_put2

theorem keeps_prbsSnap {z0 : State} (i : Nat) {s : State} (hk : Keeps z0 s) : Keeps z0 (prbsSnap i s) := by
  unfold prbsSnap
  with_reducible repeat' first | dsimp only | assumption | apply keeps_put48

theorem keeps_prbsClear {z0 : State} (i : Nat) {s : State} (hk : Keeps z0 s) : Keeps z0 (prbsClear i s) := by
  unfold prbsClear
  with_reducible repeat' first | dsimp only | assumption | apply keeps_put | apply keeps_putBit | apply keeps_modLane | apply keeps_prbsSnap | intro _

theorem keeps_prbsInject {z0 : State} (i : Nat) {s : State} (hk : Keeps z0 s) : Keeps z0 (prbsInject i s) := by
  unfold prbsInject
  with_reducible repeat' first | dsimp only | assumption | apply keeps_emit | apply keeps_ite | split

theorem keeps_prxPolarityFix {z0 : State} (n : Nat) {s : State} (hk : Keeps z0 s) : Keeps z0 (prxPolarityFix n s) := by
  unfold prxPolarityFix
  with_reducible repeat' first | dsimp only | assumption | apply keeps_modLane | apply keeps_lst | apply keeps_wiring | apply keeps_ite | split | intro _

theorem keeps_prbsCtrlAct {z0 : State} (i : Nat) (w : Word) (committed : Bool) {s : State} (hk : Keeps z0 s) : Keeps z0 (prbsCtrlAct i w committed s) := by
  unfold prbsCtrlAct
  with_reducible repeat' first | dsimp only | assumption | apply keeps_when | apply keeps_prbsModeAct | apply keeps_prbsClear | apply keeps_prbsInject

theorem keeps_adaptAct {z0 : State} (i : Nat) (w : Word) {s : State} (hk : Keeps z0 s) : Keeps z0 (adaptAct i w s) := by
  unfold adaptAct
  with_reducible repeat' first | dsimp only | assumption | apply keeps_when | apply keeps_lnFrozen | apply keeps_adaptRestart | apply keeps_clearAdapt | apply keeps_ite | split

theorem keeps_readBack {z0 : State} {s : State} (fn : Nat) (a : Nat) (act : State → State) (hkact : ∀ x0, Keeps z0 x0 → Keeps z0 (act x0)) (hk : Keeps z0 s) : Keeps z0 (State.readBack s fn a act) := by
  unfold State.readBack
  with_reducible repeat' first | dsimp only | assumption | apply keeps_emit | apply keeps_accessError | apply keeps_violation | apply hkact | apply keeps_ite | split

theorem keeps_laneErst {z0 : State} (i : Nat) {s : State} (hk : Keeps z0 s) : Keeps z0 (laneErst i s) := by
  unfold laneErst
  with_reducible repeat' first | dsimp only | assumption | apply keeps_putBit | apply keeps_laneStart | apply keeps_ite | split

theorem keeps_execPllLock {z0 : State} (lane : Fin 140) {s : State} (hk : Keeps z0 s) : KeepsR z0 (execPllLock lane s) := by
  unfold execPllLock
  with_reducible repeat' first | dsimp only | assumption | apply KeepsR.next | apply KeepsR.fault | apply keeps_pllLock

theorem keeps_execPllLockTimeout {z0 : State} (lane : Fin 140) {s : State} (hk : Keeps z0 s) : KeepsR z0 (execPllLockTimeout lane s) := by
  unfold execPllLockTimeout
  with_reducible repeat' first | dsimp only | assumption | apply KeepsR.next | apply KeepsR.fault | apply keeps_pllTimeout

theorem keeps_execTerminationDetect {z0 : State} (lane : Fin 140) (found : Bool) {s : State} (hk : Keeps z0 s) : KeepsR z0 (execTerminationDetect lane found s) := by
  unfold execTerminationDetect
  with_reducible repeat' first | dsimp only | assumption | apply KeepsR.next | apply KeepsR.fault | apply keeps_terminationDetect

theorem keeps_execTerminationRetry {z0 : State} (lane : Fin 140) {s : State} (hk : Keeps z0 s) : KeepsR z0 (execTerminationRetry lane s) := by
  unfold execTerminationRetry
  with_reducible repeat' first | dsimp only | assumption | apply KeepsR.next | apply KeepsR.fault | apply keeps_terminationRetry

theorem keeps_execSigdet {z0 : State} (lane : Fin 140) {s : State} (hk : Keeps z0 s) : KeepsR z0 (execSigdet lane s) := by
  unfold execSigdet
  with_reducible repeat' first | dsimp only | assumption | apply KeepsR.next | apply KeepsR.fault | apply keeps_sigdet

theorem keeps_execAdaptSettled {z0 : State} (lane : Fin 140) {s : State} (hk : Keeps z0 s) : KeepsR z0 (execAdaptSettled lane s) := by
  unfold execAdaptSettled
  with_reducible repeat' first | dsimp only | assumption | apply KeepsR.next | apply KeepsR.fault | apply keeps_adaptSettled

theorem keeps_execAdaptTimeout {z0 : State} (lane : Fin 140) {s : State} (hk : Keeps z0 s) : KeepsR z0 (execAdaptTimeout lane s) := by
  unfold execAdaptTimeout
  with_reducible repeat' first | dsimp only | assumption | apply KeepsR.next | apply KeepsR.fault | apply keeps_adaptTimeout

theorem keeps_execPcsLock {z0 : State} (lane : Fin 140) (inverted : Bool) (position : Fin 16) {s : State} (hk : Keeps z0 s) : KeepsR z0 (execPcsLock lane inverted position s) := by
  unfold execPcsLock
  with_reducible repeat' first | dsimp only | assumption | apply KeepsR.next | apply KeepsR.fault | apply keeps_pcsLock

theorem keeps_execPcsLockTimeout {z0 : State} (lane : Fin 140) {s : State} (hk : Keeps z0 s) : KeepsR z0 (execPcsLockTimeout lane s) := by
  unfold execPcsLockTimeout
  with_reducible repeat' first | dsimp only | assumption | apply KeepsR.next | apply KeepsR.fault | apply keeps_pcsTimeout

theorem keeps_execLockLoss {z0 : State} (lane : Fin 140) {s : State} (hk : Keeps z0 s) : KeepsR z0 (execLockLoss lane s) := by
  unfold execLockLoss
  with_reducible repeat' first | dsimp only | assumption | apply KeepsR.next | apply KeepsR.fault | apply keeps_lockLoss

theorem keeps_execAdaptRestart {z0 : State} (fn : Fn) (lane : Fin 140) (w : Word) {s : State} (hk : Keeps z0 s) : KeepsR z0 (execAdaptRestart fn lane w s) := by
  unfold execAdaptRestart
  with_reducible repeat' first | dsimp only | assumption | apply KeepsR.next | apply KeepsR.fault | apply keeps_hostWrite | apply keeps_adaptAct | intro _

theorem keeps_execClrAdapt {z0 : State} (fn : Fn) (lane : Fin 140) (w : Word) {s : State} (hk : Keeps z0 s) : KeepsR z0 (execClrAdapt fn lane w s) := by
  unfold execClrAdapt
  with_reducible repeat' first | dsimp only | assumption | apply KeepsR.next | apply KeepsR.fault | apply keeps_hostWrite | apply keeps_adaptAct | intro _

theorem keeps_execIdleRequest {z0 : State} (fn : Fn) (lane : Fin 140) (w : Word) {s : State} (hk : Keeps z0 s) : KeepsR z0 (execIdleRequest fn lane w s) := by
  unfold execIdleRequest
  with_reducible repeat' first | dsimp only | assumption | apply KeepsR.next | apply KeepsR.fault | apply keeps_hostWrite | apply keeps_when | apply keeps_idleAct | intro _

theorem keeps_execIdleEntry {z0 : State} (lane : Fin 140) {s : State} (hk : Keeps z0 s) : KeepsR z0 (execIdleEntry lane s) := by
  unfold execIdleEntry
  with_reducible repeat' first | dsimp only | assumption | apply KeepsR.next | apply KeepsR.fault | apply keeps_idleEntry

theorem keeps_execIdleExit {z0 : State} (fn : Fn) (lane : Fin 140) (w : Word) {s : State} (hk : Keeps z0 s) : KeepsR z0 (execIdleExit fn lane w s) := by
  unfold execIdleExit
  with_reducible repeat' first | dsimp only | assumption | apply KeepsR.next | apply KeepsR.fault | apply keeps_hostWrite | apply keeps_when | apply keeps_idleAct | intro _

theorem keeps_execBreathRx {z0 : State} (lane : Fin 140) {s : State} (hk : Keeps z0 s) : KeepsR z0 (execBreathRx lane s) := by
  unfold execBreathRx
  with_reducible repeat' first | dsimp only | assumption | apply KeepsR.next | apply KeepsR.fault | apply keeps_breathRx

theorem keeps_execFastPathFail {z0 : State} (lane : Fin 140) {s : State} (hk : Keeps z0 s) : KeepsR z0 (execFastPathFail lane s) := by
  unfold execFastPathFail
  with_reducible repeat' first | dsimp only | assumption | apply KeepsR.next | apply KeepsR.fault | apply keeps_fastPathFail

theorem keeps_execSignalLoss {z0 : State} (lane : Fin 140) {s : State} (hk : Keeps z0 s) : KeepsR z0 (execSignalLoss lane s) := by
  unfold execSignalLoss
  with_reducible repeat' first | dsimp only | assumption | apply KeepsR.next | apply KeepsR.fault | apply keeps_signalLoss

theorem keeps_execIdleStale {z0 : State} (lane : Fin 140) {s : State} (hk : Keeps z0 s) : KeepsR z0 (execIdleStale lane s) := by
  unfold execIdleStale
  with_reducible repeat' first | dsimp only | assumption | apply KeepsR.next | apply KeepsR.fault | apply keeps_idleStale

theorem keeps_execPrbsModeTest {z0 : State} (fn : Fn) (lane : Fin 140) (w : Word) {s : State} (hk : Keeps z0 s) : KeepsR z0 (execPrbsModeTest fn lane w s) := by
  unfold execPrbsModeTest
  with_reducible repeat' first | dsimp only | assumption | apply KeepsR.next | apply KeepsR.fault | apply keeps_hostWrite | apply keeps_prbsCtrlAct | intro _

theorem keeps_execTestEntry {z0 : State} (lane : Fin 140) {s : State} (hk : Keeps z0 s) : KeepsR z0 (execTestEntry lane s) := by
  unfold execTestEntry
  with_reducible repeat' first | dsimp only | assumption | apply KeepsR.next | apply KeepsR.fault | apply keeps_testEntry

theorem keeps_execPrbsModeService {z0 : State} (fn : Fn) (lane : Fin 140) (w : Word) {s : State} (hk : Keeps z0 s) : KeepsR z0 (execPrbsModeService fn lane w s) := by
  unfold execPrbsModeService
  with_reducible repeat' first | dsimp only | assumption | apply KeepsR.next | apply KeepsR.fault | apply keeps_hostWrite | apply keeps_prbsCtrlAct | intro _

theorem keeps_execPrbsModeOff {z0 : State} (fn : Fn) (lane : Fin 140) (w : Word) {s : State} (hk : Keeps z0 s) : KeepsR z0 (execPrbsModeOff fn lane w s) := by
  unfold execPrbsModeOff
  with_reducible repeat' first | dsimp only | assumption | apply KeepsR.next | apply KeepsR.fault | apply keeps_hostWrite | apply keeps_prbsCtrlAct | intro _

theorem keeps_execPrbsSync {z0 : State} (lane : Fin 140) (rx : List Bool) {s : State} (hk : Keeps z0 s) : KeepsR z0 (execPrbsSync lane rx s) := by
  unfold execPrbsSync
  with_reducible repeat' first | dsimp only | assumption | apply KeepsR.next | apply KeepsR.fault | apply keeps_prbsSync

theorem keeps_execPrbsSyncLoss {z0 : State} (lane : Fin 140) (bits : Nat) (berr : Nat) (serr : Nat) {s : State} (hk : Keeps z0 s) : KeepsR z0 (execPrbsSyncLoss lane bits berr serr s) := by
  unfold execPrbsSyncLoss
  with_reducible repeat' first | dsimp only | assumption | apply KeepsR.next | apply KeepsR.fault | apply keeps_prbsSyncLoss

theorem keeps_execPrbsSat {z0 : State} (lane : Fin 140) (bits : Nat) (berr : Nat) (serr : Nat) {s : State} (hk : Keeps z0 s) : KeepsR z0 (execPrbsSat lane bits berr serr s) := by
  unfold execPrbsSat
  with_reducible repeat' first | dsimp only | assumption | apply KeepsR.next | apply KeepsR.fault | apply keeps_prbsCount

theorem keeps_execPrbsSnapshot {z0 : State} (fn : Fn) (lane : Fin 140) (bits : Nat) (berr : Nat) (serr : Nat) {s : State} (hk : Keeps z0 s) : KeepsR z0 (execPrbsSnapshot fn lane bits berr serr s) := by
  unfold execPrbsSnapshot
  with_reducible repeat' first | dsimp only | assumption | apply KeepsR.next | apply KeepsR.fault | apply keeps_prbsCount | apply keeps_prbsSnap | apply keeps_readBack

theorem keeps_execPrbsClr {z0 : State} (fn : Fn) (lane : Fin 140) (w : Word) {s : State} (hk : Keeps z0 s) : KeepsR z0 (execPrbsClr fn lane w s) := by
  unfold execPrbsClr
  with_reducible repeat' first | dsimp only | assumption | apply KeepsR.next | apply KeepsR.fault | apply keeps_hostWrite | apply keeps_prbsCtrlAct | intro _

theorem keeps_execPrbsInj {z0 : State} (fn : Fn) (lane : Fin 140) (w : Word) {s : State} (hk : Keeps z0 s) : KeepsR z0 (execPrbsInj fn lane w s) := by
  unfold execPrbsInj
  with_reducible repeat' first | dsimp only | assumption | apply KeepsR.next | apply KeepsR.fault | apply keeps_hostWrite | apply keeps_prbsCtrlAct | intro _

theorem keeps_execPrxPolarityFix {z0 : State} (port : Fin 48) {s : State} (hk : Keeps z0 s) : KeepsR z0 (execPrxPolarityFix port s) := by
  unfold execPrxPolarityFix
  with_reducible repeat' first | dsimp only | assumption | apply KeepsR.next | apply KeepsR.fault | apply keeps_prxPolarityFix

end Sys2Proof.Machine
end

