-- ==== Sys2Proof/Laws/KeepsTime.lean ====
section
/-! SUPPORT. What the operations of Machine/Time.lean keep. -/

namespace Sys2Proof.Machine

theorem keeps_tbStat {z0 : State} (n : Nat) {s : State} (hk : Keeps z0 s) : Keeps z0 (tbStat n s) := by
  unfold tbStat
  with_reducible repeat' first | dsimp only | assumption | apply keeps_putBit | apply keeps_put2

theorem keeps_tbReject {z0 : State} (n : Nat) {s : State} (hk : Keeps z0 s) : Keeps z0 (tbReject n s) := by
  unfold tbReject
  with_reducible repeat' first | dsimp only | assumption | apply keeps_putBit

theorem keeps_rateWrite {z0 : State} (n : Nat) (w : Word) {s : State} (hk : Keeps z0 s) : Keeps z0 (rateWrite n w s) := by
  unfold rateWrite
  with_reducible repeat' first | dsimp only | assumption | apply keeps_setReg | apply keeps_setTb | apply keeps_tbReject | apply keeps_ite | split | apply keeps_set_staged

theorem keeps_trigFire {z0 : State} (n : Nat) (k : Nat) (late : Bool) {s : State} (hk : Keeps z0 s) : Keeps z0 (trigFire n k late s) := by
  unfold trigFire
  with_reducible repeat' first | dsimp only | assumption | apply keeps_putBit | apply keeps_raise | apply keeps_ite | split

theorem keeps_alarmFire {z0 : State} (n : Nat) (late : Bool) {s : State} (hk : Keeps z0 s) : Keeps z0 (alarmFire n late s) := by
  unfold alarmFire
  with_reducible repeat' first | dsimp only | assumption | apply keeps_putBit | apply keeps_raise | apply keeps_ite | split

theorem keeps_armAct {z0 : State} (n : Nat) (k : Nat) {s : State} (hk : Keeps z0 s) : Keeps z0 (armAct n k s) := by
  unfold armAct
  with_reducible repeat' first | dsimp only | assumption | apply keeps_trigFire | apply keeps_alarmFire | apply keeps_ite | split

theorem keeps_disarmAct {z0 : State} (n : Nat) (off : Nat) {s : State} (hk : Keeps z0 s) : Keeps z0 (disarmAct n off s) := by
  unfold disarmAct
  with_reducible repeat' first | dsimp only | assumption | apply keeps_putBit | apply keeps_ite | split

theorem keeps_reStep {z0 : State} (n : Nat) (d : Int) (note : Nat → Int → State → State) {s : State} (hknote : ∀ x0 x1 x2, Keeps z0 x2 → Keeps z0 (note x0 x1 x2)) (hk : Keeps z0 s) : Keeps z0 (reStep n d note s) := by
  unfold reStep
  with_reducible repeat' first | dsimp only | assumption | apply keeps_putBit | apply keeps_put2 | apply keeps_raise | apply keeps_setTb | apply keeps_armAct | apply hknote | apply keeps_ite | split | intro _

theorem keeps_tbApply {z0 : State} (n : Nat) (op : Nat) (value : Int) (note : Nat → Int → State → State) {s : State} (hknote : ∀ x0 x1 x2, Keeps z0 x2 → Keeps z0 (note x0 x1 x2)) (hk : Keeps z0 s) : Keeps z0 (tbApply n op value note s) := by
  unfold tbApply
  with_reducible repeat' first | dsimp only | assumption | apply keeps_putBit | apply keeps_raise | apply keeps_setTb | apply keeps_tbStat | apply keeps_tbReject | apply keeps_reStep | apply hknote | apply keeps_ite | split

theorem keeps_tbCommand {z0 : State} (n : Nat) (op : Nat) (input : Nat) (note : Nat → Int → State → State) {s : State} (hknote : ∀ x0 x1 x2, Keeps z0 x2 → Keeps z0 (note x0 x1 x2)) (hk : Keeps z0 s) : Keeps z0 (tbCommand n op input note s) := by
  unfold tbCommand
  with_reducible repeat' first | dsimp only | assumption | apply keeps_setTb | apply keeps_tbStat | apply keeps_tbReject | apply keeps_tbApply | apply hknote | apply keeps_ite | split

theorem keeps_heldTimeout {z0 : State} (n : Nat) {s : State} (hk : Keeps z0 s) : Keeps z0 (heldTimeout n s) := by
  unfold heldTimeout
  with_reducible repeat' first | dsimp only | assumption | apply keeps_setTb | apply keeps_tbStat | apply keeps_tbReject | apply keeps_ite | split

theorem keeps_tbSnap {z0 : State} (n : Nat) {s : State} (hk : Keeps z0 s) : Keeps z0 (tbSnap n s) := by
  unfold tbSnap
  with_reducible repeat' first | dsimp only | assumption | apply keeps_put | apply keeps_put2

theorem keeps_refEdge {z0 : State} (k : Nat) (returning : Bool) (n : Nat) {s : State} (hk : Keeps z0 s) : Keeps z0 (refEdge k returning n s) := by
  unfold refEdge
  with_reducible repeat' first | dsimp only | assumption | apply keeps_putI | apply keeps_raise | apply keeps_setTb | apply keeps_ite | split

theorem keeps_tbEdge {z0 : State} (k : Nat) (returning : Bool) (note : Nat → Int → State → State) {s : State} (n : Nat) (hknote : ∀ x0 x1 x2, Keeps z0 x2 → Keeps z0 (note x0 x1 x2)) (hk : Keeps z0 s) : Keeps z0 (tbEdge k returning note s n) := by
  unfold tbEdge
  with_reducible repeat' first | dsimp only | assumption | apply keeps_setTb | apply keeps_tbApply | apply keeps_refEdge | apply hknote | apply keeps_ite | split

theorem keeps_ppsEdge {z0 : State} (k : Nat) (longHigh : Bool) (note : Nat → Int → State → State) {s : State} (hknote : ∀ x0 x1 x2, Keeps z0 x2 → Keeps z0 (note x0 x1 x2)) (hk : Keeps z0 s) : Keeps z0 (ppsEdge k longHigh note s) := by
  unfold ppsEdge
  with_reducible repeat' first | dsimp only | assumption | apply keeps_putBit | apply keeps_incWrap | apply keeps_incSat | apply keeps_raise | apply keeps_levelTo | apply keeps_tbEdge | apply hknote | apply keeps_foldl | apply keeps_foldl_snd | apply keeps_foldl_fst | apply keeps_ite | split | intro _ | apply keeps_set_pps

theorem keeps_ppsLoss {z0 : State} (k : Nat) {s : State} (hk : Keeps z0 s) : Keeps z0 (ppsLoss k s) := by
  unfold ppsLoss
  with_reducible repeat' first | dsimp only | assumption | apply keeps_putBit | apply keeps_levelTo | apply keeps_ite | split | apply keeps_set_pps

theorem keeps_fsyncEdge {z0 : State} (pass : State → State) {s : State} (hkpass : ∀ x0, Keeps z0 x0 → Keeps z0 (pass x0)) (hk : Keeps z0 s) : Keeps z0 (fsyncEdge pass s) := by
  unfold fsyncEdge
  with_reducible repeat' first | dsimp only | assumption | apply keeps_putBit | apply keeps_incSat | apply keeps_levelTo | apply hkpass | apply keeps_ite | split | apply keeps_set_fsyncLast

theorem keeps_fsyncCfgAct {z0 : State} {s : State} (hk : Keeps z0 s) : Keeps z0 (fsyncCfgAct s) := by
  unfold fsyncCfgAct
  with_reducible repeat' first | dsimp only | assumption | apply keeps_putBit | apply keeps_levelTo | apply keeps_ite | split | apply keeps_set_fsyncLast

theorem keeps_ppsOut {z0 : State} (m : Nat) {s : State} (hk : Keeps z0 s) : Keeps z0 (ppsOut m s) := by
  unfold ppsOut
  with_reducible repeat' first | dsimp only | assumption | apply keeps_emit | apply keeps_ite | split | apply keeps_set_ppsOn

theorem keeps_ppsCfgAct {z0 : State} (m : Nat) (was : Bool) {s : State} (hk : Keeps z0 s) : Keeps z0 (ppsCfgAct m was s) := by
  unfold ppsCfgAct
  with_reducible repeat' first | dsimp only | assumption | apply keeps_emit | apply keeps_ppsOut | apply keeps_ite | split | apply keeps_set_ppsOn

theorem keeps_teErst {z0 : State} {s : State} (hk : Keeps z0 s) : Keeps z0 (teErst s) := by
  unfold teErst
  with_reducible repeat' first | dsimp only | assumption | apply keeps_fsyncCfgAct | apply keeps_set_pps_ppsOn

theorem keeps_tbWake {z0 : State} {s : State} (hk : Keeps z0 s) : Keeps z0 (tbWake s) := by
  unfold tbWake
  with_reducible repeat' first | dsimp only | assumption | apply keeps_putBit | apply keeps_setTb | apply keeps_forN | apply keeps_tbStat | intro _

theorem keeps_execRateWrite {z0 : State} (fn : Fn) (tb : Fin 8) (w : Word) (t : Nat) {s : State} (hk : Keeps z0 s) : KeepsR z0 (execRateWrite fn tb w t s) := by
  unfold execRateWrite
  with_reducible repeat' first | dsimp only | assumption | apply KeepsR.next | apply KeepsR.fault | apply keeps_at | apply keeps_access | apply keeps_rateWrite | intro _

theorem keeps_execTbSnapshot {z0 : State} (fn : Fn) (tb : Fin 8) (t : Nat) {s : State} (hk : Keeps z0 s) : KeepsR z0 (execTbSnapshot fn tb t s) := by
  unfold execTbSnapshot
  with_reducible repeat' first | dsimp only | assumption | apply KeepsR.next | apply KeepsR.fault | apply keeps_at | apply keeps_readBack | apply keeps_tbSnap

theorem keeps_execCancel {z0 : State} (fn : Fn) (tb : Fin 8) (w : Word) {s : State} (hk : Keeps z0 s) : KeepsR z0 (execCancel fn tb w s) := by
  unfold execCancel
  with_reducible repeat' first | dsimp only | assumption | apply KeepsR.next | apply KeepsR.fault | apply keeps_access | apply keeps_tbCommand | intro _

theorem keeps_execHeldCorrectionTimeout {z0 : State} (tb : Fin 8) (t : Nat) {s : State} (hk : Keeps z0 s) : KeepsR z0 (execHeldCorrectionTimeout tb t s) := by
  unfold execHeldCorrectionTimeout
  with_reducible repeat' first | dsimp only | assumption | apply KeepsR.next | apply KeepsR.fault | apply keeps_at | apply keeps_heldTimeout

theorem keeps_execSlewDone {z0 : State} (tb : Fin 8) (t : Nat) {s : State} (hk : Keeps z0 s) : KeepsR z0 (execSlewDone tb t s) := by
  unfold execSlewDone
  with_reducible repeat' first | dsimp only | assumption | apply KeepsR.next | apply KeepsR.fault | apply keeps_at | apply keeps_tbStat

theorem keeps_execTrigArm {z0 : State} (fn : Fn) (tb : Fin 8) (k : Fin 3) (w : Word) (t : Nat) {s : State} (hk : Keeps z0 s) : KeepsR z0 (execTrigArm fn tb k w t s) := by
  unfold execTrigArm
  with_reducible repeat' first | dsimp only | assumption | apply KeepsR.next | apply KeepsR.fault | apply keeps_at | apply keeps_hostWrite | apply keeps_armAct | intro _

theorem keeps_execTriggerFire {z0 : State} (tb : Fin 8) (k : Fin 2) (t : Nat) {s : State} (hk : Keeps z0 s) : KeepsR z0 (execTriggerFire tb k t s) := by
  unfold execTriggerFire
  with_reducible repeat' first | dsimp only | assumption | apply KeepsR.next | apply KeepsR.fault | apply keeps_at | apply keeps_trigFire | apply keeps_ite | apply keepsR_ite | split

theorem keeps_execAlarmFire {z0 : State} (tb : Fin 8) (t : Nat) {s : State} (hk : Keeps z0 s) : KeepsR z0 (execAlarmFire tb t s) := by
  unfold execAlarmFire
  with_reducible repeat' first | dsimp only | assumption | apply KeepsR.next | apply KeepsR.fault | apply keeps_at | apply keeps_alarmFire | apply keeps_ite | apply keepsR_ite | split

theorem keeps_execPpsInLoss {z0 : State} (k : Fin 2) (t : Nat) {s : State} (hk : Keeps z0 s) : KeepsR z0 (execPpsInLoss k t s) := by
  unfold execPpsInLoss
  with_reducible repeat' first | dsimp only | assumption | apply KeepsR.next | apply KeepsR.fault | apply keeps_at | apply keeps_ppsLoss

theorem keeps_execPpsOut {z0 : State} (m : Fin 2) (t : Nat) {s : State} (hk : Keeps z0 s) : KeepsR z0 (execPpsOut m t s) := by
  unfold execPpsOut
  with_reducible repeat' first | dsimp only | assumption | apply KeepsR.next | apply KeepsR.fault | apply keeps_at | apply keeps_ppsOut

theorem keeps_execClr1step {z0 : State} (fn : Fn) (w : Word) {s : State} (hk : Keeps z0 s) : KeepsR z0 (execClr1step fn w s) := by
  unfold execClr1step
  with_reducible repeat' first | dsimp only | assumption | apply KeepsR.next | apply KeepsR.fault | apply keeps_put | apply keeps_hostWrite | intro _

end Sys2Proof.Machine
end

