-- ==== Sys2Proof/Laws/KeepsRings.lean ====
section
/-! SUPPORT. What the operations of Machine/Rings.lean keep. -/

namespace Sys2Proof.Machine

theorem keeps_mxFault {z0 : State} (cause : Nat) (a : Nat) {s : State} (hk : Keeps z0 s) : Keeps z0 (mxFault cause a s) := by
  unfold mxFault
  with_reducible repeat' first | dsimp only | assumption | apply keeps_put | apply keeps_putBit | apply keeps_raise | apply keeps_ite | split

theorem keeps_mxRefused {z0 : State} (c : Nat) (fn : Nat) (wr : Bool) (a : Nat) {s : State} (hk : Keeps z0 s) : Keeps z0 (mxRefused c fn wr a s) := by
  unfold mxRefused
  with_reducible repeat' first | dsimp only | assumption | apply keeps_violation | apply keeps_mxFault | apply keeps_ite | split

theorem keeps_mxRead {z0 : State} (sec : Bool) (aper : Bool) (a : Nat) (n : Nat) {s : State} (hk : Keeps z0 s) : Keeps z0 (mxRead sec aper a n s).2 := by
  unfold mxRead
  with_reducible repeat' first | dsimp only | assumption | apply keeps_bump | apply keeps_eccUncorrectable | apply keeps_mxRefused | apply keeps_foldl | apply keeps_foldl_snd | apply keeps_foldl_fst | apply keeps_ite | apply keeps_ite_snd | apply keeps_ite_fst | split | intro _

theorem keeps_mxWrite {z0 : State} (sec : Bool) (aper : Bool) (a : Nat) (d : List Byte) {s : State} (hk : Keeps z0 s) : Keeps z0 (mxWrite sec aper a d s) := by
  unfold mxWrite
  dsimp only
  have hb := keeps_bump (pgMX 0) C.MX_WR_REQ 1 hk
  refine keeps_ite (keeps_bump _ _ _ hb) (keeps_ite (keeps_bump _ _ _ (keeps_mxRefused _ _ _ _ hb)) ?_)
  have hc := Keeps.cxl hb (memWrite_wf (s.bump (pgMX 0) C.MX_WR_REQ).cxl a d)
  exact keeps_set_mx hc

theorem keeps_setRing {z0 : State} {s : State} (r : Nat) (e : Entry) (hk : Keeps z0 s) : Keeps z0 (State.setRing s r e) := by
  unfold State.setRing
  with_reducible repeat' first | dsimp only | assumption | apply keeps_setEnt

theorem keeps_ringPut {z0 : State} {s : State} (r : Nat) (f : TF) (v : Nat) (hk : Keeps z0 s) : Keeps z0 (State.ringPut s r f v) := by
  unfold State.ringPut
  with_reducible repeat' first | dsimp only | assumption | apply keeps_settle | apply keeps_setRing

theorem keeps_ringDrop {z0 : State} (r : Nat) {s : State} (hk : Keeps z0 s) : Keeps z0 (ringDrop r s) := by
  unfold ringDrop
  with_reducible repeat' first | dsimp only | assumption | apply keeps_setRing

theorem keeps_ringOvf {z0 : State} (r : Nat) (cause : Nat) {s : State} (hk : Keeps z0 s) : Keeps z0 (ringOvf r cause s) := by
  unfold ringOvf
  with_reducible repeat' first | dsimp only | assumption | apply keeps_put | apply keeps_raise

theorem keeps_ringFullNote {z0 : State} (r : Nat) {s : State} (hk : Keeps z0 s) : Keeps z0 (ringFullNote r s) := by
  unfold ringFullNote
  with_reducible repeat' first | dsimp only | assumption | apply keeps_ringOvf | apply keeps_ite | split | apply keeps_set_hx

theorem keeps_ringWrite {z0 : State} (r : Nat) (a : Nat) (d : List Byte) {s : State} (hk : Keeps z0 s) : Keeps z0 (ringWrite r a d s) := by
  unfold ringWrite
  with_reducible repeat' first | dsimp only | assumption | apply keeps_mxWrite | apply keeps_ite | split | apply keeps_write_hostMem

theorem keeps_ringPost {z0 : State} (r : Nat) (slot : List Byte) {s : State} (hk : Keeps z0 s) : Keeps z0 (ringPost r slot s).2 := by
  unfold ringPost
  with_reducible repeat' first | dsimp only | assumption | apply keeps_ringPut | apply keeps_ringDrop | apply keeps_ringFullNote | apply keeps_ringWrite | apply keeps_ite | apply keeps_ite_snd | apply keeps_ite_fst | split

theorem keeps_ringPeek {z0 : State} (r : Nat) {s : State} (hk : Keeps z0 s) : Keeps z0 (ringPeek r s).2 := by
  unfold ringPeek
  with_reducible repeat' first | dsimp only | assumption | apply keeps_mxRead | apply keeps_ite | apply keeps_ite_snd | apply keeps_ite_fst | split

theorem keeps_ringTake {z0 : State} (r : Nat) {s : State} (hk : Keeps z0 s) : Keeps z0 (ringTake r s) := by
  unfold ringTake
  with_reducible repeat' first | dsimp only | assumption | apply keeps_ringPut

theorem keeps_ringStop {z0 : State} (r : Nat) {s : State} (hk : Keeps z0 s) : Keeps z0 (ringStop r s) := by
  unfold ringStop
  with_reducible repeat' first | dsimp only | assumption | apply keeps_ringPut | apply keeps_ringOvf | apply keeps_ite | split | apply keeps_set_hx

theorem keeps_ringNext {z0 : State} (r : Nat) (kind : Nat) (lo : Nat) (hi : Nat) (y0 : Nat) {y1 : State} (hk : Keeps z0 y1) : Keeps z0 (ringNext r kind lo hi y0 y1).2 := by
  induction y0 generalizing y1 with
  | zero =>
    unfold ringNext
    with_reducible repeat' first | apply ih | dsimp only | assumption | apply keeps_ringDrop | apply keeps_ringPeek | apply keeps_ringTake | apply keeps_ringStop | apply keeps_ite | apply keeps_ite_snd | apply keeps_ite_fst | split
  | succ n ih =>
    unfold ringNext
    with_reducible repeat' first | apply ih | dsimp only | assumption | apply keeps_ringDrop | apply keeps_ringPeek | apply keeps_ringTake | apply keeps_ringStop | apply keeps_ite | apply keeps_ite_snd | apply keeps_ite_fst | split

end Sys2Proof.Machine
end

