-- ==== Sys2Proof/Laws/KeepsGates.lean ====
section
/-! SUPPORT. What the operations of Machine/Gates.lean keep. -/

namespace Sys2Proof.Machine

theorem keeps_setGlist {z0 : State} {s : State} (n : Nat) (g : Gl) (hk : Keeps z0 s) : Keeps z0 (State.setGlist s n g) := by
  unfold State.setGlist
  with_reducible repeat' first | dsimp only | assumption | apply keeps_set_gl

theorem keeps_glStat {z0 : State} (n : Nat) {s : State} (hk : Keeps z0 s) : Keeps z0 (glStat n s) := by
  unfold glStat
  with_reducible repeat' first | dsimp only | assumption | apply keeps_put

theorem keeps_glSettle {z0 : State} (n : Nat) (a : Nat) (b : Nat) {s : State} (hk : Keeps z0 s) : Keeps z0 (glSettle n a b s) := by
  unfold glSettle
  with_reducible repeat' first | dsimp only | assumption | apply keeps_setGlist

theorem keeps_setMaxWin {z0 : State} (n : Nat) {s : State} (hk : Keeps z0 s) : Keeps z0 (setMaxWin n s) := by
  unfold setMaxWin
  with_reducible repeat' first | dsimp only | assumption | apply keeps_put | apply keeps_forN | apply keeps_ite | split | intro _

theorem keeps_overrun {z0 : State} (n : Nat) {s : State} (hk : Keeps z0 s) : Keeps z0 (overrun n s) := by
  unfold overrun
  with_reducible repeat' first | dsimp only | assumption | apply keeps_bump | apply keeps_setGlist | apply keeps_ite | split

theorem keeps_startLate {z0 : State} (n : Nat) {s : State} (hk : Keeps z0 s) : Keeps z0 (startLate n s) := by
  unfold startLate
  with_reducible repeat' first | dsimp only | assumption | apply keeps_raise

theorem keeps_fixStart {z0 : State} (n : Nat) {s : State} (hk : Keeps z0 s) : Keeps z0 (fixStart n s).1 := by
  unfold fixStart
  with_reducible repeat' first | assumption | apply keeps_put | apply keeps_setGlist | apply keeps_ite | apply keeps_ite_snd | apply keeps_ite_fst | split | dsimp only

theorem keeps_submit {z0 : State} (n : Nat) {s : State} (hk : Keeps z0 s) : Keeps z0 (submit n s) := by
  unfold submit
  with_reducible repeat' first | dsimp only | assumption | apply keeps_putBit | apply keeps_startLate | apply keeps_fixStart | apply keeps_ite | apply keeps_ite_snd | apply keeps_ite_fst | split

theorem keeps_glCancel {z0 : State} (n : Nat) {s : State} (hk : Keeps z0 s) : Keeps z0 (glCancel n s) := by
  unfold glCancel
  with_reducible repeat' first | dsimp only | assumption | apply keeps_putBit | apply keeps_setGlist

theorem keeps_glDisable {z0 : State} (n : Nat) {s : State} (hk : Keeps z0 s) : Keeps z0 (glDisable n s) := by
  unfold glDisable
  with_reducible repeat' first | dsimp only | assumption | apply keeps_putBit | apply keeps_glStat | apply keeps_setMaxWin | apply keeps_glCancel

theorem keeps_glCtrlAct {z0 : State} (n : Nat) (wasEn : Bool) (wasTb : Nat) (w : Nat) {s : State} (hk : Keeps z0 s) : Keeps z0 (glCtrlAct n wasEn wasTb w s) := by
  unfold glCtrlAct
  with_reducible repeat' first | dsimp only | assumption | apply keeps_putBit | apply keeps_glStat | apply keeps_submit | apply keeps_glCancel | apply keeps_glDisable | apply keeps_ite | split

theorem keeps_glSwap {z0 : State} (n : Nat) {s : State} (hk : Keeps z0 s) : Keeps z0 (glSwap n s) := by
  unfold glSwap
  with_reducible repeat' first | dsimp only | assumption | apply keeps_setEnt | apply keeps_forN | apply keeps_ite | split | intro _

theorem keeps_glStart {z0 : State} (n : Nat) {s : State} (hk : Keeps z0 s) : Keeps z0 (glStart n s) := by
  unfold glStart
  with_reducible repeat' first | dsimp only | assumption | apply keeps_put | apply keeps_putBit | apply keeps_put2 | apply keeps_bump | apply keeps_commit | apply keeps_glStat | apply keeps_glSettle | apply keeps_setMaxWin | apply keeps_overrun | apply keeps_glCancel | apply keeps_glSwap | apply keeps_ite | split

theorem keeps_glCopyDone {z0 : State} (n : Nat) {s : State} (hk : Keeps z0 s) : Keeps z0 (glCopyDone n s) := by
  unfold glCopyDone
  with_reducible repeat' first | dsimp only | assumption | apply keeps_putBit | apply keeps_setEnt | apply keeps_forN | apply keeps_ite | split | intro _

theorem keeps_glRestep {z0 : State} (tb : Nat) (d : Int) {s : State} (hk : Keeps z0 s) : Keeps z0 (glRestep tb d s) := by
  unfold glRestep
  with_reducible repeat' first | assumption | intro _ | apply keeps_ite | apply keeps_ite_snd | apply keeps_ite_fst | split | dsimp only | apply keeps_forN | apply keeps_setGlist | apply keeps_glStat | apply keeps_glSettle | apply keeps_overrun | apply keeps_startLate | apply keeps_fixStart

theorem keeps_glCtrlWrite {z0 : State} (fn : Nat) (n : Nat) (w : Word) {s : State} (hk : Keeps z0 s) : Keeps z0 (glCtrlWrite fn n w s) := by
  unfold glCtrlWrite
  with_reducible repeat' first | dsimp only | assumption | apply keeps_hostWrite | apply keeps_glCtrlAct | intro _

theorem keeps_execConfigChange {z0 : State} (fn : Fn) (list : Fin 64) (w : Word) (t : Nat) {s : State} (hk : Keeps z0 s) : KeepsR z0 (execConfigChange fn list w t s) := by
  unfold execConfigChange
  with_reducible repeat' first | dsimp only | assumption | apply KeepsR.next | apply KeepsR.fault | apply keeps_at | apply keeps_glCtrlWrite

theorem keeps_execGtCancel {z0 : State} (fn : Fn) (list : Fin 64) (w : Word) (t : Nat) {s : State} (hk : Keeps z0 s) : KeepsR z0 (execGtCancel fn list w t s) := by
  unfold execGtCancel
  with_reducible repeat' first | dsimp only | assumption | apply KeepsR.next | apply KeepsR.fault | apply keeps_at | apply keeps_glCtrlWrite

theorem keeps_execGtDisable {z0 : State} (fn : Fn) (list : Fin 64) (w : Word) (t : Nat) {s : State} (hk : Keeps z0 s) : KeepsR z0 (execGtDisable fn list w t s) := by
  unfold execGtDisable
  with_reducible repeat' first | dsimp only | assumption | apply KeepsR.next | apply KeepsR.fault | apply keeps_at | apply keeps_glCtrlWrite

theorem keeps_execGtListStart {z0 : State} (list : Fin 64) (t : Nat) {s : State} (hk : Keeps z0 s) : KeepsR z0 (execGtListStart list t s) := by
  unfold execGtListStart
  with_reducible repeat' first | dsimp only | assumption | apply KeepsR.next | apply KeepsR.fault | apply keeps_at | apply keeps_glStart

theorem keeps_execGtCopyDone {z0 : State} (list : Fin 64) {s : State} (hk : Keeps z0 s) : KeepsR z0 (execGtCopyDone list s) := by
  unfold execGtCopyDone
  with_reducible repeat' first | dsimp only | assumption | apply KeepsR.next | apply KeepsR.fault | apply keeps_glCopyDone

theorem keeps_execGtEntryChange {z0 : State} (list : Fin 64) (t : Nat) {s : State} (hk : Keeps z0 s) : KeepsR z0 (execGtEntryChange list t s) := by
  unfold execGtEntryChange
  with_reducible repeat' first | dsimp only | assumption | apply KeepsR.next | apply KeepsR.fault | apply keeps_at | apply keeps_glStat

end Sys2Proof.Machine
end

