-- ==== Sys2Proof/Laws/KeepsFrame.lean ====
section
/-! SUPPORT. What the operations of Machine/Frame.lean keep. -/

namespace Sys2Proof.Machine

theorem keeps_modPe {z0 : State} {s : State} (n : Nat) (f : Pe → Pe) (hk : Keeps z0 s) : Keeps z0 (State.modPe s n f) := by
  unfold State.modPe
  with_reducible repeat' first | dsimp only | assumption | apply keeps_set_pes

end Sys2Proof.Machine
end

