-- ==== Sys2Proof/Laws/KeepsTm.lean ====
section
/-! SUPPORT. What the operations of Machine/Tm.lean keep. -/

namespace Sys2Proof.Machine

theorem keeps_setNode {z0 : State} {s : State} (tid : Nat) (i : Nat) (e : Entry) (hk : Keeps z0 s) : Keeps z0 (State.setNode s tid i e) := by
  unfold State.setNode
  with_reducible repeat' first | dsimp only | assumption | apply keeps_setEnt

theorem keeps_setTmq {z0 : State} {s : State} (tid : Nat) (q : Nat) (x : TmQ) (hk : Keeps z0 s) : Keeps z0 (State.setTmq s tid q x) := by
  unfold State.setTmq
  with_reducible repeat' first | dsimp only | assumption | apply keeps_set_tm

theorem keeps_setMil {z0 : State} (pg : Nat) (tid : Nat) (i : Nat) (b : Nat) (wordNo : Nat) (x : Int) {s : State} (hk : Keeps z0 s) : Keeps z0 (setMil pg tid i b wordNo x s) := by
  unfold setMil
  with_reducible repeat' first | dsimp only | assumption | apply keeps_setEnt | apply keeps_set_tm

theorem keeps_setTC {z0 : State} (tid : Nat) (i : Nat) (x : Int) {y0 : State} (hk : Keeps z0 y0) : Keeps z0 (setTC tid i x y0) := by
  unfold setTC
  with_reducible repeat' first | dsimp only | assumption | apply keeps_setMil

theorem keeps_setTP {z0 : State} (tid : Nat) (i : Nat) (x : Int) {y0 : State} (hk : Keeps z0 y0) : Keeps z0 (setTP tid i x y0) := by
  unfold setTP
  with_reducible repeat' first | dsimp only | assumption | apply keeps_setMil

theorem keeps_nodeTick {z0 : State} (tid : Nat) (i : Nat) {s : State} (hk : Keeps z0 s) : Keeps z0 (nodeTick tid i s) := by
  unfold nodeTick
  with_reducible repeat' first | dsimp only | assumption | apply keeps_setTC | apply keeps_setTP | apply keeps_ite | split

theorem keeps_setRates {z0 : State} (tid : Nat) (i : Nat) (r : Option Rates) {s : State} (hk : Keeps z0 s) : Keeps z0 (setRates tid i r s) := by
  unfold setRates
  with_reducible repeat' first | dsimp only | assumption | apply keeps_set_tm

theorem keeps_dfcSettle {z0 : State} {s : State} (hk : Keeps z0 s) : Keeps z0 (dfcSettle s) := by
  unfold dfcSettle
  with_reducible repeat' first | dsimp only | assumption | apply keeps_set_tm

theorem keeps_setDfc {z0 : State} {s : State} (key : Nat) (d : Int × Int) (hk : Keeps z0 s) : Keeps z0 (State.setDfc s key d) := by
  unfold State.setDfc
  with_reducible repeat' first | dsimp only | assumption | apply keeps_set_tm

theorem keeps_dwrr {z0 : State} (ptid : Nat) (pidx : Nat) (pass : Nat) (prio : Nat) (kids : List Nat) (y0 : Nat) {y1 : State} (hk : Keeps z0 y1) : Keeps z0 (dwrr ptid pidx pass prio kids y0 y1).2 := by
  revert hk
  fun_induction dwrr ptid pidx pass prio kids y0 y1 <;> intro hk
  all_goals with_reducible repeat' first | dsimp only | assumption | apply_assumption | apply keeps_setDfc | apply keeps_ite | apply keeps_ite_snd | apply keeps_ite_fst | split | intro _ | apply keeps_set_tm

theorem keeps_selectChild {z0 : State} (tree : Nat) (lv : Nat) (tid : Nat) (i : Nat) {s : State} (hk : Keeps z0 s) : Keeps z0 (selectChild tree lv tid i s).2 := by
  unfold selectChild
  with_reducible repeat' first | dsimp only | assumption | apply keeps_setDfc | apply keeps_dwrr | apply keeps_foldl | apply keeps_foldl_snd | apply keeps_foldl_fst | apply keeps_ite | apply keeps_ite_snd | apply keeps_ite_fst | split | intro _

theorem keeps_selectPath {z0 : State} (tree : Nat) (y0 : Nat) (y1 : Nat) (y2 : Nat) {y3 : State} (hk : Keeps z0 y3) : Keeps z0 (selectPath tree y0 y1 y2 y3).2 := by
  revert hk
  fun_induction selectPath tree y0 y1 y2 y3 <;> intro hk
  all_goals with_reducible repeat' first | dsimp only | assumption | apply_assumption | apply keeps_selectChild | split

theorem keeps_chargeNode {z0 : State} (len : Nat) (p : Nat × Nat × Nat) {s : State} (hk : Keeps z0 s) : Keeps z0 (chargeNode len p s) := by
  unfold chargeNode
  with_reducible repeat' first | dsimp only | assumption | apply keeps_setNode | apply keeps_setTC | apply keeps_setTP | apply keeps_setDfc | apply keeps_ite | apply keeps_ite_snd | apply keeps_ite_fst | split

theorem keeps_depthAdd {z0 : State} (tid : Nat) (q : Nat) (x : Int) {s : State} (hk : Keeps z0 s) : Keeps z0 (depthAdd tid q x s) := by
  unfold depthAdd
  with_reducible repeat' first | dsimp only | assumption | apply keeps_setNode | apply keeps_foldl | apply keeps_foldl_snd | apply keeps_foldl_fst | intro _

theorem keeps_popQueue {z0 : State} (tid : Nat) (q : Nat) {s : State} (hk : Keeps z0 s) : Keeps z0 (popQueue tid q s) := by
  unfold popQueue
  with_reducible repeat' first | dsimp only | assumption | apply keeps_setTmq | apply keeps_setDfc | apply keeps_depthAdd | apply keeps_ite | split

theorem keeps_dropPkt {z0 : State} (h : Nat) {s : State} (hk : Keeps z0 s) : Keeps z0 (dropPkt h s) := by
  unfold dropPkt
  with_reducible repeat' first | dsimp only | assumption | intro _ | apply keeps_set_tm

theorem keeps_forget {z0 : State} (h : Nat) {s : State} (hk : Keeps z0 s) : Keeps z0 (forget h s) := by
  unfold forget
  with_reducible repeat' first | dsimp only | assumption | apply keeps_dropPkt | apply keeps_ite | split

theorem keeps_injCpl {z0 : State} (gen : Nat) (stat : Nat) (flag : Nat) (cookie : Word) (ts : Stamp) {s : State} (hk : Keeps z0 s) : Keeps z0 (injCpl gen stat flag cookie ts s) := by
  unfold injCpl
  with_reducible repeat' first | dsimp only | assumption | apply keeps_ringPost | apply keeps_ite | apply keeps_ite_snd | split

theorem keeps_lastNotice {z0 : State} (fin : Nat) (h : Nat) {s : State} (hk : Keeps z0 s) : Keeps z0 (lastNotice fin h s) := by
  unfold lastNotice
  with_reducible repeat' first | dsimp only | assumption | apply keeps_emit | apply keeps_freeChain | apply keeps_forget | apply keeps_injCpl | apply keeps_ite | apply keeps_ite_fst | split | intro _ | apply keeps_set_hx

theorem keeps_releaseRef {z0 : State} (h : Nat) (req : Nat) {s : State} (hk : Keeps z0 s) : Keeps z0 (releaseRef h req s) := by
  unfold releaseRef
  with_reducible repeat' first | dsimp only | assumption | apply keeps_release | apply keeps_forget | apply keeps_lastNotice

theorem keeps_injMark {z0 : State} (h : Nat) (f : Inj → Inj) {s : State} (hk : Keeps z0 s) : Keeps z0 (injMark h f s) := by
  unfold injMark
  with_reducible repeat' first | dsimp only | assumption | apply keeps_ite | apply keeps_ite_snd | apply keeps_ite_fst | split | intro _ | apply keeps_set_hx

theorem keeps_dropRef {z0 : State} (h : Nat) (req : Nat) {s : State} (hk : Keeps z0 s) : Keeps z0 (dropRef h req s) := by
  unfold dropRef
  with_reducible repeat' first | dsimp only | assumption | apply keeps_free | apply keeps_forget | apply keeps_injCpl | apply keeps_releaseRef | apply keeps_injMark | apply keeps_ite | apply keeps_ite_fst | split | intro _ | apply keeps_set_hx

theorem keeps_wedDrop {z0 : State} (prof : Nat) (c : Nat) (avg : Nat) {s : State} (hk : Keeps z0 s) : Keeps z0 (wedDrop prof c avg s).2 := by
  unfold wedDrop
  with_reducible repeat' first | dsimp only | assumption | apply keeps_draw | apply keeps_ite | apply keeps_ite_snd | apply keeps_ite_fst | split

theorem keeps_tmDrop {z0 : State} (tid : Nat) (q : Nat) (wordNo : Nat) {s : State} (hk : Keeps z0 s) : Keeps z0 (tmDrop tid q wordNo s) := by
  unfold tmDrop
  with_reducible repeat' first | dsimp only | assumption | apply keeps_setNode | apply keeps_ite | split | apply keeps_set_tm

theorem keeps_tmWed {z0 : State} (tid : Nat) (q : Nat) (prof : Nat) (c : Nat) (avg : Nat) {s : State} (hk : Keeps z0 s) : Keeps z0 (tmWed tid q prof c avg s).2 := by
  have h := keeps_wedDrop prof c avg hk
  unfold tmWed
  split
  · rename_i e; rw [e] at h; exact keeps_tmDrop _ _ _ h
  · rename_i e; rw [e] at h; exact h

theorem keeps_tmThreshold {z0 : State} (tid : Nat) (q : Nat) (c : Nat) (len : Nat) (avg : Nat) {s : State} (hk : Keeps z0 s) : Keeps z0 (tmThreshold tid q c len avg s).2 := by
  unfold tmThreshold
  with_reducible repeat' first | dsimp only | assumption | apply keeps_tmDrop | apply keeps_tmWed | apply keeps_ite | apply keeps_ite_snd | apply keeps_ite_fst | split

theorem keeps_tmChecks {z0 : State} (tid : Nat) (q : Nat) (c : Nat) (len : Nat) {s : State} (hk : Keeps z0 s) : Keeps z0 (tmChecks tid q c len s).2 := by
  unfold tmChecks
  with_reducible repeat' first | dsimp only | assumption | apply keeps_bump | apply keeps_setNode | apply keeps_setTmq | apply keeps_tmThreshold | apply keeps_ite | apply keeps_ite_snd | apply keeps_ite_fst | split

theorem keeps_tmCheckAll {z0 : State} (c : Nat) (len : Nat) (y0 : List (Nat × Nat)) {y1 : State} (hk : Keeps z0 y1) : Keeps z0 (tmCheckAll c len y0 y1).2 := by
  revert hk
  fun_induction tmCheckAll c len y0 y1 <;> intro hk
  all_goals with_reducible repeat' first | dsimp only | assumption | apply_assumption | apply keeps_tmChecks | apply keeps_ite | apply keeps_ite_snd | apply keeps_ite_fst | split

theorem keeps_tmPut {z0 : State} (h : Nat) (len : Nat) (p : Nat × Nat) {s : State} (hk : Keeps z0 s) : Keeps z0 (tmPut h len p s) := by
  unfold tmPut
  with_reducible repeat' first | dsimp only | assumption | apply keeps_draw | apply keeps_setTmq | apply keeps_depthAdd | apply keeps_ite | apply keeps_ite_snd | apply keeps_ite_fst | split

theorem keeps_tmEnqueue {z0 : State} (o : Offer) {s0 : State} (hk : Keeps z0 s0) : Keeps z0 (tmEnqueue o s0) := by
  unfold tmEnqueue
  with_reducible repeat' first | dsimp only | assumption | apply keeps_alloc | apply keeps_share | apply keeps_dfcSettle | apply keeps_injCpl | apply keeps_tmDrop | apply keeps_tmCheckAll | apply keeps_tmPut | apply keeps_foldl | apply keeps_foldl_snd | apply keeps_foldl_fst | apply keeps_ite | apply keeps_ite_snd | apply keeps_ite_fst | split | intro _ | apply keeps_set_hx | apply keeps_set_tm | apply keeps_set_tm_hx

theorem keeps_offer {z0 : State} (o : Offer) {s : State} (hk : Keeps z0 s) : Keeps z0 (offer o s) := by
  unfold offer
  with_reducible repeat' first | dsimp only | assumption | apply keeps_set_tm

theorem keeps_tmRefuse {z0 : State} (o : Offer) {s : State} (hk : Keeps z0 s) : Keeps z0 (tmRefuse o s) := by
  unfold tmRefuse
  with_reducible repeat' first | dsimp only | assumption | apply keeps_bump | apply keeps_injCpl | split

theorem keeps_tmDropRate {z0 : State} {s : State} (hk : Keeps z0 s) : Keeps z0 (tmDropRate s) := by
  unfold tmDropRate
  with_reducible repeat' first | dsimp only | assumption | apply keeps_put | apply keeps_putBit | apply keeps_raise | apply keeps_foldl | apply keeps_foldl_snd | apply keeps_foldl_fst | apply keeps_ite | apply keeps_ite_snd | apply keeps_ite_fst | split | intro _ | apply keeps_set_tm

theorem keeps_flushQueue {z0 : State} (tid : Nat) (q : Nat) {s : State} (hk : Keeps z0 s) : Keeps z0 (flushQueue tid q s) := by
  unfold flushQueue
  with_reducible repeat' first | dsimp only | assumption | apply keeps_bump | apply keeps_setNode | apply keeps_setTmq | apply keeps_dfcSettle | apply keeps_setDfc | apply keeps_depthAdd | apply keeps_dropRef | apply keeps_foldl | apply keeps_foldl_snd | apply keeps_foldl_fst | intro _

theorem keeps_tmCommand {z0 : State} (w : Nat) {s : State} (hk : Keeps z0 s) : Keeps z0 (tmCommand w s) := by
  unfold tmCommand
  with_reducible repeat' first | dsimp only | assumption | apply keeps_putBit | apply keeps_flushQueue | apply keeps_ite | split

theorem keeps_fillNode {z0 : State} (tid : Nat) (i : Nat) {s : State} (hk : Keeps z0 s) : Keeps z0 (fillNode tid i s) := by
  unfold fillNode
  with_reducible repeat' first | dsimp only | assumption | apply keeps_setTC | apply keeps_setTP

theorem keeps_kidsAdd {z0 : State} (tid : Nat) (i : Nat) (x : Int) {s : State} (hk : Keeps z0 s) : Keeps z0 (kidsAdd tid i x s) := by
  unfold kidsAdd
  with_reducible repeat' first | dsimp only | assumption | apply keeps_setNode

theorem keeps_tmNodeWrite {z0 : State} (tid : Nat) (i : Nat) (d : Entry) {s : State} (hk : Keeps z0 s) : Keeps z0 (tmNodeWrite tid i d s).2 := by
  unfold tmNodeWrite
  with_reducible repeat' first | dsimp only | assumption | apply keeps_cfgRej | apply keeps_setNode | apply keeps_setRates | apply keeps_dfcSettle | apply keeps_setDfc | apply keeps_depthAdd | apply keeps_fillNode | apply keeps_kidsAdd | apply keeps_ite | apply keeps_ite_snd | apply keeps_ite_fst | split

theorem keeps_tmNodeDelete {z0 : State} (tid : Nat) (i : Nat) {s : State} (hk : Keeps z0 s) : Keeps z0 (tmNodeDelete tid i s).2 := by
  unfold tmNodeDelete
  with_reducible repeat' first | dsimp only | assumption | apply keeps_setNode | apply keeps_setDfc | apply keeps_kidsAdd | apply keeps_ite | apply keeps_ite_snd | apply keeps_ite_fst | split | apply keeps_set_tm

theorem keeps_dropProfileWrite {z0 : State} (i : Nat) (d : Entry) {s : State} (hk : Keeps z0 s) : Keeps z0 (dropProfileWrite i d s).2 := by
  unfold dropProfileWrite
  with_reducible repeat' first | dsimp only | assumption | apply keeps_cfgRej | apply keeps_setNode | apply keeps_ite | apply keeps_ite_snd | apply keeps_ite_fst | split | intro _

theorem keeps_setPl {z0 : State} (i : Nat) (b : Nat) (x : Int) {y0 : State} (hk : Keeps z0 y0) : Keeps z0 (setPl i b x y0) := by
  unfold setPl
  with_reducible repeat' first | dsimp only | assumption | apply keeps_setMil

theorem keeps_policerWrite {z0 : State} (i : Nat) (d : Entry) {s : State} (hk : Keeps z0 s) : Keeps z0 (policerWrite i d s).2 := by
  unfold policerWrite
  with_reducible repeat' first | dsimp only | assumption | apply keeps_setEnt | apply keeps_cfgRej | apply keeps_setPl | apply keeps_ite | apply keeps_ite_snd | apply keeps_ite_fst | split

theorem keeps_policerTick {z0 : State} (i : Nat) {s : State} (hk : Keeps z0 s) : Keeps z0 (policerTick i s) := by
  unfold policerTick
  with_reducible repeat' first | dsimp only | assumption | apply keeps_setPl | apply keeps_ite | split

theorem keeps_policer {z0 : State} (i : Nat) (len : Nat) (input : Nat) {s : State} (hk : Keeps z0 s) : Keeps z0 (policer i len input s).2.2 := by
  unfold policer
  with_reducible repeat' first | dsimp only | assumption | apply keeps_setEnt | apply keeps_setPl | apply keeps_ite | apply keeps_ite_snd | apply keeps_ite_fst | split | intro _

theorem keeps_bucketUpdate {z0 : State} {s00 : State} (hk : Keeps z0 s00) : Keeps z0 (bucketUpdate s00) := by
  unfold bucketUpdate
  with_reducible repeat' first | dsimp only | assumption | apply keeps_nodeTick | apply keeps_dfcSettle | apply keeps_policerTick | apply keeps_foldl | apply keeps_foldl_snd | apply keeps_foldl_fst | intro _ | apply keeps_set_tm

theorem keeps_histAdd {z0 : State} (key : Nat) (d : Nat) {s : State} (hk : Keeps z0 s) : Keeps z0 (histAdd key d s) := by
  unfold histAdd
  with_reducible repeat' first | dsimp only | assumption | apply keeps_ite | split | apply keeps_set_tm

theorem keeps_latSample {z0 : State} (tid : Nat) (q : Nat) (smp : Nat × Nat × Nat) {s : State} (hk : Keeps z0 s) : Keeps z0 (latSample tid q smp s) := by
  unfold latSample
  with_reducible repeat' first | dsimp only | assumption | apply keeps_incSat | apply keeps_setEnt | apply keeps_histAdd | apply keeps_ite | apply keeps_ite_snd | apply keeps_ite_fst | split

theorem keeps_latWrite {z0 : State} (tid : Nat) (i : Nat) (d : Entry) {s : State} (hk : Keeps z0 s) : Keeps z0 (latWrite tid i d s).2 := by
  unfold latWrite
  with_reducible repeat' first | dsimp only | assumption | apply keeps_setEnt | apply keeps_ite | apply keeps_ite_snd | apply keeps_ite_fst | split

theorem keeps_histWrite {z0 : State} (epoch : Nat) (seq : Nat) (fin : Nat) (y0 : Bool) (y1 : List (Nat × Hist)) {y2 : State} (hk : Keeps z0 y2) : Keeps z0 (histWrite epoch seq fin y0 y1 y2) := by
  induction y1 generalizing y0 y2 with
  | nil => exact hk
  | cons x r ih =>
    unfold histWrite
    have hp : Keeps z0 (if y0 = true then (false, y2) else ringPost 243 (histRecord x.1 epoch seq fin x.2) y2).2 :=
      keeps_ite_snd hk (keeps_ringPost _ _ hk)
    exact keeps_ite (ih _ (keeps_set_tm hp)) (ih _ (keeps_incSat _ _ _ (keeps_set_tm hp)))

theorem keeps_histClose {z0 : State} {s : State} (hk : Keeps z0 s) : Keeps z0 (histClose s) := by
  unfold histClose
  with_reducible repeat' first | dsimp only | assumption | apply keeps_incWrap | apply keeps_raise | apply keeps_histWrite | intro _ | apply keeps_set_tm

theorem keeps_execTmEnqueue {z0 : State} (t : Nat) {s0 : State} (hk : Keeps z0 s0) : KeepsR z0 (execTmEnqueue t s0) := by
  unfold execTmEnqueue
  with_reducible repeat' first | dsimp only | assumption | apply KeepsR.next | apply KeepsR.fault | apply keeps_at | apply keeps_tmEnqueue | apply keeps_tmRefuse | apply keeps_ite | apply keepsR_ite | split | apply keeps_set_tm

theorem keeps_execTmDropRate {z0 : State} {s : State} (hk : Keeps z0 s) : KeepsR z0 (execTmDropRate s) := by
  unfold execTmDropRate
  with_reducible repeat' first | dsimp only | assumption | apply KeepsR.next | apply KeepsR.fault | apply keeps_tmDropRate

theorem keeps_execFlushDq {z0 : State} (fn : Fn) (queue : BitVec 16) {s : State} (hk : Keeps z0 s) : KeepsR z0 (execFlushDq fn queue s) := by
  unfold execFlushDq
  with_reducible repeat' first | dsimp only | assumption | apply KeepsR.next | apply KeepsR.fault | apply keeps_hostWrite | apply keeps_tmCommand | intro _

theorem keeps_execFlushUq {z0 : State} (fn : Fn) (queue : BitVec 16) {s : State} (hk : Keeps z0 s) : KeepsR z0 (execFlushUq fn queue s) := by
  unfold execFlushUq
  with_reducible repeat' first | dsimp only | assumption | apply KeepsR.next | apply KeepsR.fault | apply keeps_hostWrite | apply keeps_tmCommand | intro _

theorem keeps_execFlushDone {z0 : State} {s : State} (hk : Keeps z0 s) : KeepsR z0 (execFlushDone s) := by
  unfold execFlushDone
  with_reducible repeat' first | dsimp only | assumption | apply KeepsR.next | apply KeepsR.fault | apply keeps_putBit

theorem keeps_execBucketUpdate {z0 : State} {s : State} (hk : Keeps z0 s) : KeepsR z0 (execBucketUpdate s) := by
  unfold execBucketUpdate
  with_reducible repeat' first | dsimp only | assumption | apply KeepsR.next | apply KeepsR.fault | apply keeps_bucketUpdate

theorem keeps_execHistClose {z0 : State} (t : Nat) {s : State} (hk : Keeps z0 s) : KeepsR z0 (execHistClose t s) := by
  unfold execHistClose
  with_reducible repeat' first | dsimp only | assumption | apply KeepsR.next | apply KeepsR.fault | apply keeps_at | apply keeps_histClose

theorem keeps_execLatClr {z0 : State} (fn : Fn) (w : Word) {s : State} (hk : Keeps z0 s) : KeepsR z0 (execLatClr fn w s) := by
  unfold execLatClr
  with_reducible repeat' first | dsimp only | assumption | apply KeepsR.next | apply KeepsR.fault | apply keeps_put | apply keeps_hostWrite | intro _

theorem keeps_execRelease {z0 : State} (h : Nat) (issuer : Fin 128) {s : State} (hk : Keeps z0 s) : KeepsR z0 (execRelease h issuer s) := by
  unfold execRelease
  with_reducible repeat' first | dsimp only | assumption | apply KeepsR.next | apply KeepsR.fault | apply keeps_releaseRef

end Sys2Proof.Machine
end

