-- ==== Sys2Proof/Laws/KeepsPe.lean ====
section
/-! SUPPORT. What the operations of Machine/Pe.lean keep. -/

namespace Sys2Proof.Machine

theorem keeps_setRec {z0 : State} (n : Nat) (c : Nat) (f : Entry → Entry) {s : State} (hk : Keeps z0 s) : Keeps z0 (setRec n c f s) := by
  unfold setRec
  with_reducible repeat' first | dsimp only | assumption | apply keeps_setEnt

theorem keeps_setSt {z0 : State} (n : Nat) (c : Nat) (v : Nat) {s : State} (hk : Keeps z0 s) : Keeps z0 (setSt n c v s) := by
  unfold setSt
  with_reducible repeat' first | dsimp only | assumption | apply keeps_setRec | intro _

theorem keeps_modCx {z0 : State} {s : State} (n : Nat) (c : Nat) (f : Ctx → Ctx) (hk : Keeps z0 s) : Keeps z0 (State.modCx s n c f) := by
  unfold State.modCx
  with_reducible repeat' first | dsimp only | assumption | apply keeps_modPe | intro _

theorem keeps_xgemCount {z0 : State} (n : Nat) (id : Nat) (w : Nat) (len : Nat) {s : State} (hk : Keeps z0 s) : Keeps z0 (xgemCount n id w len s) := by
  unfold xgemCount
  with_reducible repeat' first | dsimp only | assumption | apply keeps_setEnt | split

theorem keeps_keyWrite {z0 : State} (n : Nat) (c : Nat) (d : Entry) {s : State} (hk : Keeps z0 s) : Keeps z0 (keyWrite n c d s).2 := by
  unfold keyWrite
  with_reducible repeat' first | dsimp only | assumption | apply keeps_setEnt | apply keeps_cfgRej | apply keeps_ite | apply keeps_ite_snd | apply keeps_ite_fst | split | apply keeps_set_keys

theorem keeps_keyDelete {z0 : State} (n : Nat) (c : Nat) {s : State} (hk : Keeps z0 s) : Keeps z0 (keyDelete n c s) := by
  unfold keyDelete
  with_reducible repeat' first | dsimp only | assumption | apply keeps_setEnt | apply keeps_set_keys

theorem keeps_keySwitch {z0 : State} (n : Nat) (sfc : Nat) {s : State} (hk : Keeps z0 s) : Keeps z0 (keySwitch n sfc s) := by
  unfold keySwitch
  with_reducible repeat' first | dsimp only | assumption | apply keeps_put | apply keeps_incWrap | apply keeps_setEnt | apply keeps_raise | apply keeps_foldl | apply keeps_foldl_snd | apply keeps_foldl_fst | intro _

theorem keeps_unstage {z0 : State} (n : Nat) {s : State} (hk : Keeps z0 s) : Keeps z0 (unstage n s) := by
  unfold unstage
  with_reducible repeat' first | dsimp only | assumption | apply keeps_set_staged

theorem keeps_commitStart {z0 : State} (n : Nat) (w : Word) {s : State} (hk : Keeps z0 s) : Keeps z0 (commitStart n w s) := by
  unfold commitStart
  with_reducible repeat' first | dsimp only | assumption | apply keeps_setReg | apply keeps_put | apply keeps_commit | apply keeps_unstage

theorem keeps_lzLeft {z0 : State} (n : Nat) {s : State} (hk : Keeps z0 s) : Keeps z0 (lzLeft n s) := by
  unfold lzLeft
  with_reducible repeat' first | dsimp only | assumption | apply keeps_put | apply keeps_putBit | split

theorem keeps_lzNotice {z0 : State} (n : Nat) {s : State} (hk : Keeps z0 s) : Keeps z0 (lzNotice n s) := by
  unfold lzNotice
  with_reducible repeat' first | dsimp only | assumption | apply keeps_modPe | apply keeps_lzLeft | intro _

theorem keeps_lzClose {z0 : State} (n : Nat) {s : State} (hk : Keeps z0 s) : Keeps z0 (lzClose n s) := by
  unfold lzClose
  with_reducible repeat' first | dsimp only | assumption | apply keeps_modPe | apply keeps_unstage | apply keeps_lzLeft | intro _

theorem keeps_lzEval {z0 : State} (n : Nat) {s : State} (hk : Keeps z0 s) : Keeps z0 (lzEval n s) := by
  unfold lzEval
  with_reducible repeat' first | dsimp only | assumption | apply keeps_putBit | apply keeps_lzLeft | apply keeps_lzNotice | apply keeps_lzClose | apply keeps_ite | split

theorem keeps_lzStartWrite {z0 : State} (n : Nat) (w : Word) {s : State} (hk : Keeps z0 s) : Keeps z0 (lzStartWrite n w s) := by
  unfold lzStartWrite
  with_reducible repeat' first | dsimp only | assumption | apply keeps_cfgRej | apply keeps_commitStart | apply keeps_lzNotice | apply keeps_ite | split | apply keeps_set_staged

theorem keeps_lzOpened {z0 : State} (n : Nat) {s : State} (hk : Keeps z0 s) : Keeps z0 (lzOpened n s) := by
  unfold lzOpened
  with_reducible repeat' first | dsimp only | assumption | apply keeps_putBit | apply keeps_raise | apply keeps_modPe | apply keeps_commitStart | apply keeps_lzLeft | apply keeps_ite | split | intro _

theorem keeps_lzCloseNote {z0 : State} (n : Nat) {s : State} (hk : Keeps z0 s) : Keeps z0 (lzCloseNote n s) := by
  unfold lzCloseNote
  with_reducible repeat' first | dsimp only | assumption | apply keeps_bump | apply keeps_raise

theorem keeps_lzClosed {z0 : State} (n : Nat) {s : State} (hk : Keeps z0 s) : Keeps z0 (lzClosed n s) := by
  unfold lzClosed
  with_reducible repeat' first | dsimp only | assumption | apply keeps_putBit | apply keeps_modPe | apply keeps_commitStart | apply keeps_lzEval | apply keeps_lzCloseNote | apply keeps_ite | split | intro _

theorem keeps_lzStop {z0 : State} (n : Nat) {s : State} (hk : Keeps z0 s) : Keeps z0 (lzStop n s) := by
  unfold lzStop
  with_reducible repeat' first | dsimp only | assumption | apply keeps_putBit | apply keeps_modPe | apply keeps_unstage | apply keeps_lzLeft | apply keeps_lzCloseNote | apply keeps_ite | split | intro _

theorem keeps_setNofsync {z0 : State} (n : Nat) (v : Bool) {s : State} (hk : Keeps z0 s) : Keeps z0 (setNofsync n v s) := by
  unfold setNofsync
  with_reducible repeat' first | dsimp only | assumption | apply keeps_putBit

theorem keeps_planFirst {z0 : State} (n : Nat) {s : State} (hk : Keeps z0 s) : Keeps z0 (planFirst n s) := by
  unfold planFirst
  with_reducible repeat' first | dsimp only | assumption | apply keeps_modPe | split | intro _

theorem keeps_peStart {z0 : State} (n : Nat) {s : State} (hk : Keeps z0 s) : Keeps z0 (peStart n s) := by
  unfold peStart
  with_reducible repeat' first | dsimp only | assumption | apply keeps_modPe | apply keeps_setNofsync | apply keeps_planFirst | apply keeps_ite | split | intro _

theorem keeps_peEdge {z0 : State} (n : Nat) {s : State} (hk : Keeps z0 s) : Keeps z0 (peEdge n s) := by
  unfold peEdge
  with_reducible repeat' first | dsimp only | assumption | apply keeps_modPe | apply keeps_setNofsync | apply keeps_planFirst | apply keeps_ite | split | intro _

theorem keeps_seqSent {z0 : State} (n : Nat) (f : Nat) (m : PMsg) {s : State} (hk : Keeps z0 s) : Keeps z0 (seqSent n f m s) := by
  unfold seqSent
  with_reducible repeat' first | dsimp only | assumption | apply keeps_setRec | apply keeps_setSt | apply keeps_modCx | apply keeps_lzEval | apply keeps_ite | split | intro _

theorem keeps_tookNo {z0 : State} (n : Nat) (addr : Nat) {s : State} (hk : Keeps z0 s) : Keeps z0 (tookNo n addr s) := by
  unfold tookNo
  with_reducible repeat' first | dsimp only | assumption | apply keeps_modPe | intro _

theorem keeps_ploamOut {z0 : State} (n : Nat) (m : PMsg) {s : State} (hk : Keeps z0 s) : Keeps z0 (ploamOut n m s) := by
  unfold ploamOut
  with_reducible repeat' first | dsimp only | assumption | apply keeps_emitPtx | apply keeps_tookNo | split | intro _

theorem keeps_recPut {z0 : State} (n : Nat) (c : Nat) (f : TF) (v : Nat) {s : State} (hk : Keeps z0 s) : Keeps z0 (recPut n c f v s) := by
  unfold recPut
  with_reducible repeat' first | dsimp only | assumption | apply keeps_putE

theorem keeps_recAdd {z0 : State} (n : Nat) (c : Nat) (f : TF) (k : Nat) (sat : Bool) {s : State} (hk : Keeps z0 s) : Keeps z0 (recAdd n c f k sat s) := by
  unfold recAdd
  with_reducible repeat' first | dsimp only | assumption | apply keeps_recPut | apply keeps_ite | split

theorem keeps_plantWindows {z0 : State} (n : Nat) (sils : List Silence) {s : State} (hk : Keeps z0 s) : Keeps z0 (plantWindows n sils s) := by
  unfold plantWindows
  with_reducible repeat' first | dsimp only | assumption | apply keeps_emit | apply keeps_modPe | apply keeps_foldl | apply keeps_foldl_snd | apply keeps_foldl_fst | apply keeps_ite | split | intro _

theorem keeps_openWindows {z0 : State} (n : Nat) (m : GMap) {s : State} (hk : Keeps z0 s) : Keeps z0 (openWindows n m s) := by
  unfold openWindows
  with_reducible repeat' first | dsimp only | assumption | apply keeps_bump | apply keeps_modPe | apply keeps_modCx | apply keeps_recAdd | apply keeps_plantWindows | apply keeps_foldl | apply keeps_foldl_snd | apply keeps_foldl_fst | apply keeps_ite | apply keeps_ite_snd | apply keeps_ite_fst | split | intro _

theorem keeps_mapSent {z0 : State} (n : Nat) (m : GMap) {s : State} (hk : Keeps z0 s) : Keeps z0 (mapSent n m s) := by
  unfold mapSent
  with_reducible repeat' first | dsimp only | assumption | apply keeps_put | apply keeps_bump | apply keeps_emitPtx | intro _ | apply keeps_set_gps

theorem keeps_shadowWindows {z0 : State} (n : Nat) (f : Nat) {s : State} (hk : Keeps z0 s) : Keeps z0 (shadowWindows n f s) := by
  unfold shadowWindows
  with_reducible repeat' first | dsimp only | assumption | apply keeps_openWindows | split | intro _ | apply keeps_set_px

theorem keeps_frameStart {z0 : State} (n : Nat) (f : Nat) (short : Bool) {s : State} (hk : Keeps z0 s) : Keeps z0 (frameStart n f short s) := by
  unfold frameStart
  with_reducible repeat' first | dsimp only | assumption | apply keeps_put2 | apply keeps_bump | apply keeps_emitPtx | apply keeps_laneFrame | apply keeps_modPe | apply keeps_seqSent | apply keeps_ploamOut | apply keeps_openWindows | apply keeps_mapSent | apply keeps_shadowWindows | apply keeps_foldl | apply keeps_foldl_snd | apply keeps_foldl_fst | apply keeps_ite | split | intro _

theorem keeps_firstFrame {z0 : State} (n : Nat) {s : State} (hk : Keeps z0 s) : Keeps z0 (firstFrame n s) := by
  unfold firstFrame
  with_reducible repeat' first | dsimp only | assumption | apply keeps_putBit | apply keeps_putI | apply keeps_modPe | apply keeps_lzEval | apply keeps_frameStart | apply keeps_ite | split | intro _

theorem keeps_measure {z0 : State} (n : Nat) {s : State} (hk : Keeps z0 s) : Keeps z0 (measure n s) := by
  unfold measure
  with_reducible repeat' first | dsimp only | assumption | apply keeps_putBit | apply keeps_putI | apply keeps_bump | apply keeps_raise | apply keeps_modPe | apply keeps_ite | split | intro _

theorem keeps_todCapture {z0 : State} (n : Nat) (f : Nat) {s : State} (hk : Keeps z0 s) : Keeps z0 (todCapture n f s) := by
  unfold todCapture
  with_reducible repeat' first | dsimp only | assumption | apply keeps_setEnt | apply keeps_foldl | apply keeps_foldl_snd | apply keeps_foldl_fst | apply keeps_ite | apply keeps_ite_snd | apply keeps_ite_fst | split | intro _

theorem keeps_frameBoundary {z0 : State} (n : Nat) {s0 : State} (hk : Keeps z0 s0) : Keeps z0 (frameBoundary n s0) := by
  unfold frameBoundary
  with_reducible repeat' first | dsimp only | assumption | apply keeps_put | apply keeps_keySwitch | apply keeps_frameStart | apply keeps_measure | apply keeps_todCapture | split

theorem keeps_realign {z0 : State} (n : Nat) {s : State} (hk : Keeps z0 s) : Keeps z0 (realign n s) := by
  unfold realign
  with_reducible repeat' first | dsimp only | assumption | apply keeps_put | apply keeps_putBit | apply keeps_cfgRej | apply keeps_modPe | apply keeps_ite | split | intro _

theorem keeps_realignApply {z0 : State} (n : Nat) {s0 : State} (hk : Keeps z0 s0) : Keeps z0 (realignApply n s0) := by
  unfold realignApply
  with_reducible repeat' first | dsimp only | assumption | apply keeps_put | apply keeps_putBit | apply keeps_bump | apply keeps_emitPtx | apply keeps_modPe | apply keeps_realign | apply keeps_ite | split | intro _

theorem keeps_ofsWrite {z0 : State} (n : Nat) (w : Word) {s : State} (hk : Keeps z0 s) : Keeps z0 (ofsWrite n w s) := by
  unfold ofsWrite
  with_reducible repeat' first | dsimp only | assumption | apply keeps_setReg | apply keeps_commit | apply keeps_modPe | intro _ | apply keeps_set_staged

theorem keeps_peRestep {z0 : State} (tb : Nat) (d : Int) {s : State} (hk : Keeps z0 s) : Keeps z0 (peRestep tb d s) := by
  unfold peRestep
  with_reducible repeat' first | assumption | intro _ | apply keeps_ite | apply keeps_ite_snd | apply keeps_ite_fst | split | dsimp only | apply keeps_put2 | apply keeps_forN | apply keeps_modPe

theorem keeps_takeHost {z0 : State} (n : Nat) (y0 : Nat) {y1 : State} (hk : Keeps z0 y1) : Keeps z0 (takeHost n y0 y1).2 := by
  revert hk
  fun_induction takeHost n y0 y1 <;> intro hk
  all_goals with_reducible repeat' first | assumption | apply keeps_ringNext | apply_assumption | apply keeps_ite | apply keeps_ite_snd | apply keeps_ite_fst | split | dsimp only

theorem keeps_ploamSelect {z0 : State} (n : Nat) {s : State} (hk : Keeps z0 s) : Keeps z0 (ploamSelect n s) := by
  unfold ploamSelect
  with_reducible repeat' first | assumption | apply keeps_bump | apply keeps_modPe | apply keeps_lzClose | apply keeps_lzEval | apply keeps_realign | apply keeps_takeHost | split | intro _ | dsimp only

theorem keeps_headerAssemble {z0 : State} (n : Nat) {s : State} (hk : Keeps z0 s) : Keeps z0 (headerAssemble n s) := by
  unfold headerAssemble
  with_reducible repeat' first | dsimp only | assumption | apply keeps_modPe | apply keeps_ite | split | intro _

theorem keeps_sendSeq {z0 : State} (n : Nat) (m : PMsg) (copies : Nat) {s : State} (hk : Keeps z0 s) : Keeps z0 (sendSeq n m copies s) := by
  unfold sendSeq
  with_reducible repeat' first | dsimp only | assumption | apply keeps_modPe | intro _

theorem keeps_sentRef {z0 : State} (h : Nat) (req : Nat) {s : State} (hk : Keeps z0 s) : Keeps z0 (sentRef h req s) := by
  unfold sentRef
  with_reducible repeat' first | dsimp only | assumption | apply keeps_free | apply keeps_forget | apply keeps_releaseRef | apply keeps_ite | split

theorem keeps_sendXgem {z0 : State} (n : Nat) (id : Nat) (len : Nat) (last : Nat) (pos : Nat) (d : List Byte) {s : State} (hk : Keeps z0 s) : Keeps z0 (sendXgem n id len last pos d s) := by
  unfold sendXgem
  with_reducible repeat' first | dsimp only | assumption | apply keeps_bump | apply keeps_emitPtx | split

theorem keeps_itemDone {z0 : State} (n : Nat) (i : EncItem) {s : State} (hk : Keeps z0 s) : Keeps z0 (itemDone n i s) := by
  unfold itemDone
  with_reducible repeat' first | dsimp only | assumption | apply keeps_bump | apply keeps_xgemCount | apply keeps_sentRef | split

theorem keeps_nextOmci {z0 : State} (n : Nat) (y0 : Nat) {y1 : State} (hk : Keeps z0 y1) : Keeps z0 (nextOmci n y0 y1).2 := by
  induction y0 generalizing y1 with
  | zero => exact hk
  | succ k ih =>
    unfold nextOmci
    refine keeps_ite_snd hk ?_
    have hx : Keeps z0 (ringNext (96 + n) 3 1 2040 64 y1).2 := keeps_ringNext _ _ _ _ _ hk
    dsimp only
    split
    · exact hx
    · split
      · exact keeps_ite_snd hx (ih (keeps_ringDrop _ hx))
      · exact ih (keeps_ringDrop _ hx)

theorem keeps_fillItem {z0 : State} (n : Nat) (room : Nat) (i : EncItem) {s : State} (hk : Keeps z0 s) : Keeps z0 (fillItem n room i s).2 := by
  unfold fillItem
  with_reducible repeat' first | dsimp only | assumption | apply keeps_bump | apply keeps_modPe | apply keeps_sendXgem | apply keeps_itemDone | apply keeps_ite | apply keeps_ite_snd | apply keeps_ite_fst | split | intro _

theorem keeps_dropBad {z0 : State} (n : Nat) (y0 : Nat) (y1 : Nat) {y2 : State} (hk : Keeps z0 y2) : Keeps z0 (dropBad n y0 y1 y2).2 := by
  revert hk
  fun_induction dropBad n y0 y1 y2 <;> intro hk
  all_goals with_reducible repeat' first | dsimp only | assumption | apply_assumption | apply keeps_bump | apply keeps_modPe | apply keeps_dropRef | apply keeps_ite | apply keeps_ite_snd | apply keeps_ite_fst | split | intro _

theorem keeps_fillPkt {z0 : State} (n : Nat) (room : Nat) (present : Nat) {s : State} (hk : Keeps z0 s) : Keeps z0 (fillPkt n room present s).2 := by
  have h := keeps_dropBad n (s.pe n).enc.length present hk
  unfold fillPkt
  dsimp only
  split
  · rename_i i r k _ _
    have h2 := keeps_fillItem n room i (keeps_modPe n (fun p => { p with enc := r }) h)
    split
    · rename_i s2 e2; rw [e2] at h2; exact h2
    · rename_i s2 e2; rw [e2] at h2; exact h2
  · exact h
  · exact keeps_bump _ _ _ h

theorem keeps_ownItem {z0 : State} (n : Nat) {s : State} (hk : Keeps z0 s) : Keeps z0 (ownItem n s).2 := by
  unfold ownItem
  with_reducible repeat' first | dsimp only | assumption | apply keeps_modPe | apply keeps_nextOmci | apply keeps_ite | apply keeps_ite_snd | apply keeps_ite_fst | split | intro _

theorem keeps_fillNew {z0 : State} (n : Nat) (room : Nat) (present : Nat) {s : State} (hk : Keeps z0 s) : Keeps z0 (fillNew n room present s).2 := by
  have h := keeps_ownItem n hk
  unfold fillNew
  split
  · rename_i i s1 e; rw [e] at h
    have h2 := keeps_fillItem n room i h
    split
    · rename_i s2 e2; rw [e2] at h2; exact h2
    · rename_i s2 e2; rw [e2] at h2; exact h2
  · rename_i s1 e; rw [e] at h; exact keeps_fillPkt _ _ _ h

theorem keeps_fillLoop {z0 : State} (n : Nat) (after : Nat) (y0 : Nat) (y1 : Nat) (y2 : Nat) (y3 : Bool) {y4 : State} (hk : Keeps z0 y4) : Keeps z0 (fillLoop n after y0 y1 y2 y3 y4).2 := by
  induction y0 generalizing y1 y2 y3 y4 with
  | zero => exact hk
  | succ k ih =>
    unfold fillLoop
    refine keeps_ite_snd hk (keeps_ite_snd (ih _ _ _ (keeps_modPe _ _ hk)) ?_)
    split
    · exact ih _ _ _ (keeps_modPe _ _ (keeps_itemDone _ _ (keeps_sendXgem _ _ _ _ _ _ hk)))
    · split
      · exact ih _ _ _ (keeps_modPe _ _ (keeps_sendXgem _ _ _ _ _ _ hk))
      · have h := keeps_fillNew n (y1 + after) y2 hk
        split
        · rename_i e; rw [e] at h; exact ih _ _ _ h
        · rename_i e; rw [e] at h; exact h

theorem keeps_codewordFill {z0 : State} (n : Nat) (c : Nat) (present : Nat) {s : State} (hk : Keeps z0 s) : Keeps z0 (codewordFill n c present s) := by
  unfold codewordFill
  with_reducible repeat' first | dsimp only | assumption | apply keeps_bump | apply keeps_modPe | apply keeps_fillLoop | apply keeps_ite | apply keeps_ite_snd | apply keeps_ite_fst | split | intro _

theorem keeps_execPloamSelect {z0 : State} (port : Fin 48) {s : State} (hk : Keeps z0 s) : KeepsR z0 (execPloamSelect port s) := by
  unfold execPloamSelect
  with_reducible repeat' first | dsimp only | assumption | apply KeepsR.next | apply KeepsR.fault | apply keeps_ploamSelect | apply keeps_ite | apply keepsR_ite | split

theorem keeps_execHeaderAssemble {z0 : State} (port : Fin 48) {s : State} (hk : Keeps z0 s) : KeepsR z0 (execHeaderAssemble port s) := by
  unfold execHeaderAssemble
  with_reducible repeat' first | dsimp only | assumption | apply KeepsR.next | apply KeepsR.fault | apply keeps_headerAssemble | apply keeps_ite | apply keepsR_ite | split

theorem keeps_execCodewordFill {z0 : State} (port : Fin 48) (cw : Fin 627) (present : Nat) {s : State} (hk : Keeps z0 s) : KeepsR z0 (execCodewordFill port cw present s) := by
  unfold execCodewordFill
  with_reducible repeat' first | dsimp only | assumption | apply KeepsR.next | apply KeepsR.fault | apply keeps_codewordFill | apply keeps_ite | apply keepsR_ite | split

theorem keeps_execLzStartWrite {z0 : State} (fn : Fn) (port : Fin 48) (w : Word) {s : State} (hk : Keeps z0 s) : KeepsR z0 (execLzStartWrite fn port w s) := by
  unfold execLzStartWrite
  with_reducible repeat' first | dsimp only | assumption | apply KeepsR.next | apply KeepsR.fault | apply keeps_access | apply keeps_lzStartWrite | intro _

theorem keeps_execLzOpened {z0 : State} (port : Fin 48) {s : State} (hk : Keeps z0 s) : KeepsR z0 (execLzOpened port s) := by
  unfold execLzOpened
  with_reducible repeat' first | dsimp only | assumption | apply KeepsR.next | apply KeepsR.fault | apply keeps_lzOpened

theorem keeps_execLzClosed {z0 : State} (port : Fin 48) {s : State} (hk : Keeps z0 s) : KeepsR z0 (execLzClosed port s) := by
  unfold execLzClosed
  with_reducible repeat' first | dsimp only | assumption | apply KeepsR.next | apply KeepsR.fault | apply keeps_lzClosed

theorem keeps_execRealign {z0 : State} (fn : Fn) (port : Fin 48) {s : State} (hk : Keeps z0 s) : KeepsR z0 (execRealign fn port s) := by
  unfold execRealign
  with_reducible repeat' first | dsimp only | assumption | apply KeepsR.next | apply KeepsR.fault | apply keeps_access | apply keeps_realign | intro _

theorem keeps_execRealignApply {z0 : State} (port : Fin 48) {s : State} (hk : Keeps z0 s) : KeepsR z0 (execRealignApply port s) := by
  unfold execRealignApply
  with_reducible repeat' first | dsimp only | assumption | apply KeepsR.next | apply KeepsR.fault | apply keeps_realignApply

theorem keeps_execSfcOfsWrite {z0 : State} (fn : Fn) (port : Fin 48) (w : Word) {s : State} (hk : Keeps z0 s) : KeepsR z0 (execSfcOfsWrite fn port w s) := by
  unfold execSfcOfsWrite
  with_reducible repeat' first | dsimp only | assumption | apply KeepsR.next | apply KeepsR.fault | apply keeps_access | apply keeps_ofsWrite | intro _

end Sys2Proof.Machine
end

