-- ==== Sys2Proof/Laws/KeepsMargin.lean ====
section
/-! SUPPORT. What the operations of Machine/Margin.lean keep. -/

namespace Sys2Proof.Machine

theorem keeps_setM {z0 : State} (n : Nat) (c : Nat) (f : Entry → Entry) {s : State} (hk : Keeps z0 s) : Keeps z0 (setM n c f s) := by
  unfold setM
  with_reducible repeat' first | dsimp only | assumption | apply keeps_setEnt

theorem keeps_mput {z0 : State} (n : Nat) (c : Nat) (f : TF) (v : Nat) {y0 : State} (hk : Keeps z0 y0) : Keeps z0 (mput n c f v y0) := by
  unfold mput
  with_reducible repeat' first | dsimp only | assumption | apply keeps_setM | intro _

theorem keeps_clearAcc {z0 : State} (n : Nat) (c : Nat) {y0 : State} (hk : Keeps z0 y0) : Keeps z0 (clearAcc n c y0) := by
  unfold clearAcc
  with_reducible repeat' first | dsimp only | assumption | apply keeps_setM | intro _

theorem keeps_holdRung {z0 : State} (n : Nat) (c : Nat) (r : Nat) (prof : Nat) {s : State} (hk : Keeps z0 s) : Keeps z0 (holdRung n c r prof s) := by
  unfold holdRung
  with_reducible repeat' first | dsimp only | assumption | apply keeps_setM | apply keeps_clearAcc | intro _

theorem keeps_deriveRung {z0 : State} (n : Nat) (c : Nat) (prof : Nat) {s : State} (hk : Keeps z0 s) : Keeps z0 (deriveRung n c prof s) := by
  unfold deriveRung
  with_reducible repeat' first | dsimp only | assumption | apply keeps_setM | apply keeps_holdRung | apply keeps_ite | split | intro _

theorem keeps_rederive {z0 : State} (n : Nat) {s : State} (hk : Keeps z0 s) : Keeps z0 (rederive n s) := by
  unfold rederive
  with_reducible repeat' first | assumption | intro _ | dsimp only | apply keeps_deriveRung | apply keeps_foldl | apply keeps_foldl_snd | apply keeps_foldl_fst

theorem keeps_setRung {z0 : State} (n : Nat) (c : Nat) (r : Nat) {s : State} (hk : Keeps z0 s) : Keeps z0 (setRung n c r s) := by
  unfold setRung
  with_reducible repeat' first | dsimp only | assumption | apply keeps_holdRung | split

theorem keeps_advice {z0 : State} (n : Nat) (kind : Nat) (c : Nat) (src : Nat) (dst : Nat) (margin : Int) (lambda : Nat) (flap : Nat) {s : State} (hk : Keeps z0 s) : Keeps z0 (advice n kind c src dst margin lambda flap s) := by
  unfold advice
  with_reducible repeat' first | dsimp only | assumption | apply keeps_bump | apply keeps_ringPost | apply keeps_ite | apply keeps_ite_snd | apply keeps_ite_fst | split

theorem keeps_notePosted {z0 : State} (n : Nat) (kind : Nat) (c : Nat) {s : State} (hk : Keeps z0 s) : Keeps z0 (notePosted n kind c s) := by
  unfold notePosted
  with_reducible repeat' first | dsimp only | assumption | apply keeps_modCx | intro _

theorem keeps_flapStat {z0 : State} (n : Nat) (c : Nat) {s : State} (hk : Keeps z0 s) : Keeps z0 (flapStat n c s) := by
  unfold flapStat
  with_reducible repeat' first | dsimp only | assumption | apply keeps_mput

theorem keeps_noteRung {z0 : State} (n : Nat) (c : Nat) {s : State} (hk : Keeps z0 s) : Keeps z0 (noteRung n c s) := by
  unfold noteRung
  with_reducible repeat' first | dsimp only | assumption | apply keeps_modCx | intro _

theorem keeps_keepUndo {z0 : State} (n : Nat) (c : Nat) {s : State} (hk : Keeps z0 s) : Keeps z0 (keepUndo n c s) := by
  unfold keepUndo
  with_reducible repeat' first | dsimp only | assumption | apply keeps_modCx | split | intro _

theorem keeps_commitMoves {z0 : State} (n : Nat) {s : State} (hk : Keeps z0 s) : Keeps z0 (commitMoves n s) := by
  unfold commitMoves
  with_reducible repeat' first | dsimp only | assumption | apply keeps_modPe | intro _

theorem keeps_pin {z0 : State} (n : Nat) (c : Nat) (margin : Int) (lambda : Nat) {s : State} (hk : Keeps z0 s) : Keeps z0 (pin n c margin lambda s) := by
  unfold pin
  with_reducible repeat' first | dsimp only | assumption | apply keeps_put | apply keeps_bump | apply keeps_raise | apply keeps_modCx | apply keeps_mput | apply keeps_setRung | apply keeps_advice | apply keeps_noteRung | apply keeps_foldl | apply keeps_foldl_snd | apply keeps_foldl_fst | apply keeps_ite | apply keeps_ite_fst | split | intro _

theorem keeps_autoMove {z0 : State} (n : Nat) (c : Nat) (kind : Nat) (r : Nat) (margin : Int) (lambda : Nat) {s : State} (hk : Keeps z0 s) : Keeps z0 (autoMove n c kind r margin lambda s) := by
  unfold autoMove
  with_reducible repeat' first | dsimp only | assumption | apply keeps_bump | apply keeps_modCx | apply keeps_setM | apply keeps_setRung | apply keeps_advice | apply keeps_flapStat | apply keeps_noteRung | apply keeps_keepUndo | apply keeps_pin | apply keeps_ite | split | intro _

theorem keeps_decision {z0 : State} (n : Nat) (c : Nat) (kind : Nat) (r : Nat) (margin : Int) (lambda : Nat) (restart : State → State) {s : State} (hkrestart : ∀ x0, Keeps z0 x0 → Keeps z0 (restart x0)) (hk : Keeps z0 s) : Keeps z0 (decision n c kind r margin lambda restart s) := by
  unfold decision
  with_reducible repeat' first | dsimp only | assumption | apply keeps_bump | apply keeps_advice | apply keeps_notePosted | apply keeps_autoMove | apply hkrestart | apply keeps_ite | split

theorem keeps_robustMove {z0 : State} (n : Nat) (c : Nat) {s : State} (hk : Keeps z0 s) : Keeps z0 (robustMove n c s) := by
  unfold robustMove
  with_reducible repeat' first | dsimp only | assumption | apply keeps_mput | apply keeps_decision | apply keeps_ite | split

theorem keeps_fastMove {z0 : State} (n : Nat) (c : Nat) {s : State} (hk : Keeps z0 s) : Keeps z0 (fastMove n c s) := by
  unfold fastMove
  with_reducible repeat' first | dsimp only | assumption | apply keeps_mput | apply keeps_decision | apply keeps_ite | split

theorem keeps_marginScore {z0 : State} (n : Nat) (c : Nat) (disp : Nat) (prof : Nat) (sym : Nat) (corr : Nat) {s : State} (hk : Keeps z0 s) : Keeps z0 (marginScore n c disp prof sym corr s) := by
  unfold marginScore
  with_reducible repeat' first | dsimp only | assumption | apply keeps_modCx | apply keeps_setM | apply keeps_mput | apply keeps_clearAcc | apply keeps_decision | apply keeps_ite | split | intro _

theorem keeps_marginCtx {z0 : State} (n : Nat) (c : Nat) {s : State} (hk : Keeps z0 s) : Keeps z0 (marginCtx n c s) := by
  unfold marginCtx
  with_reducible repeat' first | dsimp only | assumption | apply keeps_modCx | apply keeps_mput | apply keeps_ite | split | intro _

theorem keeps_probationEnd {z0 : State} (n : Nat) (c : Nat) {s : State} (hk : Keeps z0 s) : Keeps z0 (probationEnd n c s) := by
  unfold probationEnd
  with_reducible repeat' first | dsimp only | assumption | apply keeps_mput | apply keeps_ite | split

theorem keeps_flapBucket {z0 : State} (n : Nat) {s : State} (hk : Keeps z0 s) : Keeps z0 (flapBucket n s) := by
  unfold flapBucket
  with_reducible repeat' first | dsimp only | assumption | apply keeps_modPe | apply keeps_modCx | apply keeps_flapStat | apply keeps_foldl | apply keeps_foldl_snd | apply keeps_foldl_fst | intro _

theorem keeps_unpin {z0 : State} (n : Nat) (c : Nat) {s : State} (hk : Keeps z0 s) : Keeps z0 (unpin n c s) := by
  unfold unpin
  with_reducible repeat' first | dsimp only | assumption | apply keeps_modCx | apply keeps_setM | apply keeps_advice | apply keeps_ite | split | intro _

theorem keeps_pinExpiry {z0 : State} (n : Nat) (c : Nat) {s : State} (hk : Keeps z0 s) : Keeps z0 (pinExpiry n c s) := by
  unfold pinExpiry
  with_reducible repeat' first | dsimp only | assumption | apply keeps_unpin | apply keeps_ite | split

theorem keeps_dropMoves {z0 : State} (n : Nat) (c : Nat) {s : State} (hk : Keeps z0 s) : Keeps z0 (dropMoves n c s) := by
  unfold dropMoves
  with_reducible repeat' first | dsimp only | assumption | apply keeps_modCx | apply keeps_setM | apply keeps_holdRung | apply keeps_flapStat | apply keeps_ite | split | intro _

theorem keeps_msCommand {z0 : State} (n : Nat) (w : Nat) {s : State} (hk : Keeps z0 s) : Keeps z0 (msCommand n w s) := by
  unfold msCommand
  with_reducible repeat' first | dsimp only | assumption | apply keeps_putBit | apply keeps_modCx | apply keeps_setM | apply keeps_mput | apply keeps_setRung | apply keeps_noteRung | apply keeps_unpin | apply keeps_dropMoves | apply keeps_ite | split | intro _

theorem keeps_marginEnter {z0 : State} (n : Nat) (c : Nat) (prof : Nat) {s : State} (hk : Keeps z0 s) : Keeps z0 (marginEnter n c prof s) := by
  unfold marginEnter
  with_reducible repeat' first | dsimp only | assumption | apply keeps_deriveRung

theorem keeps_marginLost {z0 : State} (n : Nat) (c : Nat) {s : State} (hk : Keeps z0 s) : Keeps z0 (marginLost n c s) := by
  unfold marginLost
  with_reducible repeat' first | dsimp only | assumption | apply keeps_setM | apply keeps_clearAcc | intro _

theorem keeps_marginFree {z0 : State} (n : Nat) (c : Nat) {s : State} (hk : Keeps z0 s) : Keeps z0 (marginFree n c s) := by
  unfold marginFree
  with_reducible repeat' first | dsimp only | assumption | apply keeps_setEnt

theorem keeps_msWrite {z0 : State} (n : Nat) (c : Nat) (d : Entry) {s : State} (hk : Keeps z0 s) : Keeps z0 (msWrite n c d s).2 := by
  unfold msWrite
  with_reducible repeat' first | dsimp only | assumption | apply keeps_modCx | apply keeps_setM | apply keeps_mput | apply keeps_ite | apply keeps_ite_snd | apply keeps_ite_fst | split | intro _

theorem keeps_marginReport {z0 : State} (n : Nat) (c : Nat) (fmt : Nat) (margin : Int) (unc : Nat) {s : State} (hk : Keeps z0 s) : Keeps z0 (marginReport n c fmt margin unc s) := by
  unfold marginReport
  with_reducible repeat' first | dsimp only | assumption | apply keeps_bump | apply keeps_modCx | apply keeps_setM | apply keeps_mput | apply keeps_ite | split | intro _

theorem keeps_setElig {z0 : State} (n : Nat) (v : Bool) {s : State} (hk : Keeps z0 s) : Keeps z0 (setElig n v s) := by
  unfold setElig
  with_reducible repeat' first | dsimp only | assumption | apply keeps_putBit | apply keeps_lzEval | apply keeps_advice | apply keeps_ite | split

theorem keeps_eligEval {z0 : State} (n : Nat) {s : State} (hk : Keeps z0 s) : Keeps z0 (eligEval n s) := by
  unfold eligEval
  with_reducible repeat' first | dsimp only | assumption | apply keeps_put | apply keeps_putBit | apply keeps_putI | apply keeps_modPe | apply keeps_setElig | apply keeps_foldl | apply keeps_foldl_snd | apply keeps_foldl_fst | apply keeps_ite | split | intro _

theorem keeps_eligSet {z0 : State} (n : Nat) {s : State} (hk : Keeps z0 s) : Keeps z0 (eligSet n s) := by
  unfold eligSet
  with_reducible repeat' first | dsimp only | assumption | apply keeps_setElig | apply keeps_ite | split

theorem keeps_superframe {z0 : State} (n : Nat) {s : State} (hk : Keeps z0 s) : Keeps z0 (superframe n s) := by
  unfold superframe
  with_reducible repeat' first | dsimp only | assumption | apply keeps_marginCtx | apply keeps_eligEval | apply keeps_foldl | apply keeps_foldl_snd | apply keeps_foldl_fst | intro _

theorem keeps_execRobustMove {z0 : State} (port : Fin 48) (ctx : Fin 512) {s : State} (hk : Keeps z0 s) : KeepsR z0 (execRobustMove port ctx s) := by
  unfold execRobustMove
  with_reducible repeat' first | dsimp only | assumption | apply KeepsR.next | apply KeepsR.fault | apply keeps_robustMove

theorem keeps_execFastMove {z0 : State} (port : Fin 48) (ctx : Fin 512) {s : State} (hk : Keeps z0 s) : KeepsR z0 (execFastMove port ctx s) := by
  unfold execFastMove
  with_reducible repeat' first | dsimp only | assumption | apply KeepsR.next | apply KeepsR.fault | apply keeps_fastMove

theorem keeps_execProbationEnd {z0 : State} (port : Fin 48) (ctx : Fin 512) {s : State} (hk : Keeps z0 s) : KeepsR z0 (execProbationEnd port ctx s) := by
  unfold execProbationEnd
  with_reducible repeat' first | dsimp only | assumption | apply KeepsR.next | apply KeepsR.fault | apply keeps_probationEnd

theorem keeps_execFlapBucket {z0 : State} (port : Fin 48) {s : State} (hk : Keeps z0 s) : KeepsR z0 (execFlapBucket port s) := by
  unfold execFlapBucket
  with_reducible repeat' first | dsimp only | assumption | apply KeepsR.next | apply KeepsR.fault | apply keeps_flapBucket

theorem keeps_execPinExpiry {z0 : State} (port : Fin 48) (ctx : Fin 512) (t : Nat) {s : State} (hk : Keeps z0 s) : KeepsR z0 (execPinExpiry port ctx t s) := by
  unfold execPinExpiry
  with_reducible repeat' first | dsimp only | assumption | apply KeepsR.next | apply KeepsR.fault | apply keeps_at | apply keeps_pinExpiry

theorem keeps_msWriteCmd {z0 : State} (fn : Nat) (n : Nat) (op : Nat) (w : Word) {s : State} (hk : Keeps z0 s) : Keeps z0 (msWriteCmd fn n op w s) := by
  unfold msWriteCmd
  with_reducible repeat' first | dsimp only | assumption | apply keeps_hostWrite | apply keeps_msCommand | intro _

theorem keeps_execSetRung {z0 : State} (fn : Fn) (port : Fin 48) (w : Word) {s : State} (hk : Keeps z0 s) : KeepsR z0 (execSetRung fn port w s) := by
  unfold execSetRung
  with_reducible repeat' first | dsimp only | assumption | apply KeepsR.next | apply KeepsR.fault | apply keeps_msWriteCmd

theorem keeps_execUnpin {z0 : State} (fn : Fn) (port : Fin 48) (w : Word) {s : State} (hk : Keeps z0 s) : KeepsR z0 (execUnpin fn port w s) := by
  unfold execUnpin
  with_reducible repeat' first | dsimp only | assumption | apply KeepsR.next | apply KeepsR.fault | apply keeps_msWriteCmd

theorem keeps_execClrFlap {z0 : State} (fn : Fn) (port : Fin 48) (w : Word) {s : State} (hk : Keeps z0 s) : KeepsR z0 (execClrFlap fn port w s) := by
  unfold execClrFlap
  with_reducible repeat' first | dsimp only | assumption | apply KeepsR.next | apply KeepsR.fault | apply keeps_msWriteCmd

theorem keeps_execLzEligSet {z0 : State} (port : Fin 48) {s : State} (hk : Keeps z0 s) : KeepsR z0 (execLzEligSet port s) := by
  unfold execLzEligSet
  with_reducible repeat' first | dsimp only | assumption | apply KeepsR.next | apply KeepsR.fault | apply keeps_eligSet

end Sys2Proof.Machine
end

