-- ==== Sys2Proof/Laws/KeepsAct.lean ====
section
/-! SUPPORT. What the operations of Machine/Act.lean keep. -/

namespace Sys2Proof.Machine

theorem keeps_modGp {z0 : State} {s : State} (n : Nat) (f : Gp → Gp) (hk : Keeps z0 s) : Keeps z0 (State.modGp s n f) := by
  unfold State.modGp
  with_reducible repeat' first | dsimp only | assumption | apply keeps_set_gps

theorem keeps_askWindow {z0 : State} (n : Nat) (q : QReq) {s : State} (hk : Keeps z0 s) : Keeps z0 (askWindow n q s) := by
  unfold askWindow
  with_reducible repeat' first | dsimp only | assumption | apply keeps_modGp | intro _

theorem keeps_dropAct {z0 : State} (n : Nat) (c : Nat) {s : State} (hk : Keeps z0 s) : Keeps z0 (dropAct n c s) := by
  unfold dropAct
  with_reducible repeat' first | dsimp only | assumption | apply keeps_modPe | apply keeps_modGp | intro _

theorem keeps_ploamKeyDelete {z0 : State} (n : Nat) (c : Nat) {s : State} (hk : Keeps z0 s) : Keeps z0 (ploamKeyDelete n c s) := by
  unfold ploamKeyDelete
  with_reducible repeat' first | dsimp only | assumption | apply keeps_setEnt | apply keeps_set_keys

theorem keeps_dropKeys {z0 : State} (n : Nat) (c : Nat) {s : State} (hk : Keeps z0 s) : Keeps z0 (dropKeys n c s) := by
  unfold dropKeys
  with_reducible repeat' first | dsimp only | assumption | apply keeps_keyDelete | apply keeps_ploamKeyDelete

theorem keeps_freeCtx {z0 : State} (n : Nat) (c : Nat) {s : State} (hk : Keeps z0 s) : Keeps z0 (freeCtx n c s) := by
  unfold freeCtx
  with_reducible repeat' first | dsimp only | assumption | apply keeps_setEnt | apply keeps_modPe | apply keeps_lzEval | apply keeps_sendSeq | apply keeps_marginFree | apply keeps_dropAct | apply keeps_dropKeys | intro _

theorem keeps_failCtx {z0 : State} (n : Nat) (c : Nat) (k : Ctr) {s : State} (hk : Keeps z0 s) : Keeps z0 (failCtx n c k s) := by
  unfold failCtx
  with_reducible repeat' first | dsimp only | assumption | apply keeps_bump | apply keeps_freeCtx

theorem keeps_disableCtx {z0 : State} (n : Nat) (c : Nat) (sn : Nat) {s : State} (hk : Keeps z0 s) : Keeps z0 (disableCtx n c sn s) := by
  unfold disableCtx
  with_reducible repeat' first | dsimp only | assumption | apply keeps_setEnt | apply keeps_modPe | apply keeps_lzEval | apply keeps_sendSeq | apply keeps_marginFree | apply keeps_dropAct | apply keeps_dropKeys | intro _

theorem keeps_announceProfiles {z0 : State} (n : Nat) (due : Option Nat) {s : State} (hk : Keeps z0 s) : Keeps z0 (announceProfiles n due s) := by
  unfold announceProfiles
  with_reducible repeat' first | dsimp only | assumption | apply keeps_modPe | split | intro _

theorem keeps_profilesChanged {z0 : State} (n : Nat) {s : State} (hk : Keeps z0 s) : Keeps z0 (profilesChanged n s) := by
  unfold profilesChanged
  with_reducible repeat' first | dsimp only | assumption | apply keeps_when | apply keeps_announceProfiles

theorem keeps_snWindow {z0 : State} (n : Nat) {s : State} (hk : Keeps z0 s) : Keeps z0 (snWindow n s) := by
  unfold snWindow
  with_reducible repeat' first | dsimp only | assumption | apply keeps_askWindow | apply keeps_ite | split | intro _

theorem keeps_postPloam {z0 : State} (n : Nat) (stat : Nat) (ctx : Nat) (sfc : Nat) (msg : List Byte) {s : State} (hk : Keeps z0 s) : Keeps z0 (postPloam n stat ctx sfc msg s) := by
  unfold postPloam
  with_reducible repeat' first | dsimp only | assumption | apply keeps_raise | apply keeps_ringPost

theorem keeps_passPloam {z0 : State} (n : Nat) (ctx : Nat) (sfc : Nat) (msg : List Byte) {s : State} (hk : Keeps z0 s) : Keeps z0 (passPloam n ctx sfc msg s) := by
  unfold passPloam
  with_reducible repeat' first | dsimp only | assumption | apply keeps_bump | apply keeps_postPloam

theorem keeps_wrongPort {z0 : State} (n : Nat) (sn : Nat) (port : Nat) {s : State} (hk : Keeps z0 s) : Keeps z0 (wrongPort n sn port s) := by
  unfold wrongPort
  with_reducible repeat' first | dsimp only | assumption | apply keeps_put | apply keeps_bump | apply keeps_raise | apply keeps_modPe | apply keeps_ite | apply keeps_ite_snd | apply keeps_ite_fst | split | intro _

theorem keeps_startAct {z0 : State} (n : Nat) (c : Nat) (x : Nat) (sn : Nat) (e : Entry) {s : State} (hk : Keeps z0 s) : Keeps z0 (startAct n c x sn e s) := by
  unfold startAct
  with_reducible repeat' first | dsimp only | assumption | apply keeps_setEnt | apply keeps_modPe | apply keeps_lzEval | apply keeps_sendSeq | intro _

theorem keeps_snResponse {z0 : State} (n : Nat) (sn : Nat) (x : Nat) (msg : List Byte) {s : State} (hk : Keeps z0 s) : Keeps z0 (snResponse n sn x msg s) := by
  unfold snResponse
  with_reducible repeat' first | dsimp only | assumption | apply keeps_bump | apply keeps_modPe | apply keeps_modCx | apply keeps_sendSeq | apply keeps_dropAct | apply keeps_disableCtx | apply keeps_postPloam | apply keeps_wrongPort | apply keeps_startAct | apply keeps_ite | split | intro _

theorem keeps_askCentred {z0 : State} (n : Nat) (c : Nat) (kind : Nat) {s : State} (hk : Keeps z0 s) : Keeps z0 (askCentred n c kind s) := by
  unfold askCentred
  with_reducible repeat' first | dsimp only | assumption | apply keeps_modCx | apply keeps_askWindow | intro _

theorem keeps_askRanging {z0 : State} (n : Nat) (c : Nat) {s : State} (hk : Keeps z0 s) : Keeps z0 (askRanging n c s) := by
  unfold askRanging
  with_reducible repeat' first | dsimp only | assumption | apply keeps_modCx | apply keeps_askWindow | intro _

theorem keeps_ctxWindow {z0 : State} (n : Nat) (c : Nat) {s : State} (hk : Keeps z0 s) : Keeps z0 (ctxWindow n c s) := by
  unfold ctxWindow
  with_reducible repeat' first | dsimp only | assumption | apply keeps_askCentred | apply keeps_askRanging | apply keeps_ite | split

theorem keeps_windowRequests {z0 : State} (n : Nat) {s : State} (hk : Keeps z0 s) : Keeps z0 (windowRequests n s) := by
  unfold windowRequests
  with_reducible repeat' first | dsimp only | assumption | apply keeps_ctxWindow | apply keeps_foldl | apply keeps_foldl_snd | apply keeps_foldl_fst | apply keeps_ite | split | intro _

theorem keeps_sendRanging {z0 : State} (n : Nat) (onu : Nat) (v : Int) (rel : Bool) (copies : Nat) {s : State} (hk : Keeps z0 s) : Keeps z0 (sendRanging n onu v rel copies s) := by
  unfold sendRanging
  with_reducible repeat' first | dsimp only | assumption | apply keeps_tookNo | apply keeps_sendSeq

theorem keeps_sendEqd {z0 : State} (n : Nat) (c : Nat) (eqd : Int) (copies : Nat) {s : State} (hk : Keeps z0 s) : Keeps z0 (sendEqd n c eqd copies s) := by
  unfold sendEqd
  with_reducible repeat' first | dsimp only | assumption | apply keeps_setRec | apply keeps_sendRanging | intro _

theorem keeps_levelStart {z0 : State} (n : Nat) (c : Nat) {s : State} (hk : Keeps z0 s) : Keeps z0 (levelStart n c s) := by
  unfold levelStart
  with_reducible repeat' first | dsimp only | assumption | apply keeps_setRec | apply keeps_setSt | apply keeps_modCx | apply keeps_lzEval | apply keeps_sendSeq | apply keeps_ite | split | intro _

theorem keeps_rangingResponse {z0 : State} (n : Nat) (c : Nat) (rtd : Nat) (msg : List Byte) {s : State} (hk : Keeps z0 s) : Keeps z0 (rangingResponse n c rtd msg s) := by
  unfold rangingResponse
  with_reducible repeat' first | dsimp only | assumption | apply keeps_setRec | apply keeps_setSt | apply keeps_modCx | apply keeps_lzEval | apply keeps_failCtx | apply keeps_passPloam | apply keeps_sendEqd | apply keeps_levelStart | apply keeps_ite | split | intro _

theorem keeps_rngFail {z0 : State} (n : Nat) (c : Nat) {s : State} (hk : Keeps z0 s) : Keeps z0 (rngFail n c s) := by
  unfold rngFail
  with_reducible repeat' first | dsimp only | assumption | apply keeps_modCx | apply keeps_failCtx | apply keeps_ite | split | intro _

theorem keeps_levelDecide {z0 : State} (n : Nat) (c : Nat) (l : Nat) {s : State} (hk : Keeps z0 s) : Keeps z0 (levelDecide n c l s) := by
  unfold levelDecide
  with_reducible repeat' first | dsimp only | assumption | apply keeps_modPe | apply keeps_modCx | apply keeps_sendSeq | split | intro _

theorem keeps_levelReply {z0 : State} (n : Nat) (c : Nat) (level : Nat) (ext : Bool) {s : State} (hk : Keeps z0 s) : Keeps z0 (levelReply n c level ext s) := by
  unfold levelReply
  with_reducible repeat' first | dsimp only | assumption | apply keeps_modCx | apply keeps_levelDecide | apply keeps_ite | split | intro _

theorem keeps_levelQueryTimeout {z0 : State} (n : Nat) (c : Nat) {s : State} (hk : Keeps z0 s) : Keeps z0 (levelQueryTimeout n c s) := by
  unfold levelQueryTimeout
  with_reducible repeat' first | dsimp only | assumption | apply keeps_modCx | apply keeps_sendSeq | apply keeps_levelDecide | apply keeps_ite | split | intro _

theorem keeps_levelLimit {z0 : State} (n : Nat) (c : Nat) {s : State} (hk : Keeps z0 s) : Keeps z0 (levelLimit n c s) := by
  unfold levelLimit
  with_reducible repeat' first | dsimp only | assumption | apply keeps_modPe | apply keeps_modCx | apply keeps_levelDecide | apply keeps_ite | apply keeps_ite_snd | apply keeps_ite_fst | split | intro _

theorem keeps_actDone {z0 : State} (n : Nat) (c : Nat) {s : State} (hk : Keeps z0 s) : Keeps z0 (actDone n c s) := by
  unfold actDone
  with_reducible repeat' first | dsimp only | assumption | apply keeps_put | apply keeps_raise | apply keeps_setSt | apply keeps_modCx | apply keeps_lzEval | apply keeps_marginEnter | apply keeps_ite | split | intro _

theorem keeps_authPass {z0 : State} (n : Nat) (c : Nat) {s : State} (hk : Keeps z0 s) : Keeps z0 (authPass n c s) := by
  unfold authPass
  with_reducible repeat' first | dsimp only | assumption | apply keeps_setSt | apply keeps_lzEval | apply keeps_ite | split

theorem keeps_authFail {z0 : State} (n : Nat) (c : Nat) {s : State} (hk : Keeps z0 s) : Keeps z0 (authFail n c s) := by
  unfold authFail
  with_reducible repeat' first | dsimp only | assumption | apply keeps_failCtx | apply keeps_ite | split

theorem keeps_authTimeout {z0 : State} (n : Nat) (c : Nat) {s : State} (hk : Keeps z0 s) : Keeps z0 (authTimeout n c s) := by
  unfold authTimeout
  with_reducible repeat' first | dsimp only | assumption | apply keeps_failCtx | apply keeps_ite | split

theorem keeps_onuLost {z0 : State} (n : Nat) (c : Nat) {s0 : State} (hk : Keeps z0 s0) : Keeps z0 (onuLost n c s0) := by
  unfold onuLost
  with_reducible repeat' first | dsimp only | assumption | apply keeps_put | apply keeps_raise | apply keeps_setSt | apply keeps_modCx | apply keeps_lzEval | apply keeps_robustMove | apply keeps_marginLost | apply keeps_ite | split | intro _

theorem keeps_probeGrant {z0 : State} (n : Nat) (c : Nat) {s : State} (hk : Keeps z0 s) : Keeps z0 (probeGrant n c s) := by
  unfold probeGrant
  with_reducible repeat' first | dsimp only | assumption | apply keeps_modCx | apply keeps_askCentred | apply keeps_ite | split | intro _

theorem keeps_lostExpired {z0 : State} (n : Nat) (c : Nat) {s : State} (hk : Keeps z0 s) : Keeps z0 (lostExpired n c s) := by
  unfold lostExpired
  with_reducible repeat' first | dsimp only | assumption | apply keeps_failCtx | apply keeps_ite | split

theorem keeps_actReject {z0 : State} (n : Nat) {s : State} (hk : Keeps z0 s) : Keeps z0 (actReject n s) := by
  unfold actReject
  with_reducible repeat' first | dsimp only | assumption | apply keeps_putBit

theorem keeps_bcastAdj {z0 : State} (n : Nat) {s : State} (hk : Keeps z0 s) : Keeps z0 (bcastAdj n s) := by
  unfold bcastAdj
  with_reducible repeat' first | dsimp only | assumption | apply keeps_setRec | apply keeps_sendRanging | apply keeps_actReject | apply keeps_foldl | apply keeps_foldl_snd | apply keeps_foldl_fst | apply keeps_ite | split | intro _

theorem keeps_rerange {z0 : State} (n : Nat) (c : Nat) {s : State} (hk : Keeps z0 s) : Keeps z0 (rerange n c s) := by
  unfold rerange
  with_reducible repeat' first | dsimp only | assumption | apply keeps_modCx | apply keeps_dropAct | apply keeps_askCentred | apply keeps_actReject | apply keeps_ite | split | intro _

theorem keeps_deact {z0 : State} (n : Nat) (c : Nat) {s : State} (hk : Keeps z0 s) : Keeps z0 (deact n c s) := by
  unfold deact
  with_reducible repeat' first | dsimp only | assumption | apply keeps_freeCtx | apply keeps_actReject | apply keeps_ite | split

theorem keeps_actCommand {z0 : State} (n : Nat) (w : Nat) {s : State} (hk : Keeps z0 s) : Keeps z0 (actCommand n w s) := by
  unfold actCommand
  with_reducible repeat' first | dsimp only | assumption | apply keeps_actReject | apply keeps_bcastAdj | apply keeps_rerange | apply keeps_deact | apply keeps_ite | split

theorem keeps_authWrite {z0 : State} (n : Nat) (w : Nat) {s : State} (hk : Keeps z0 s) : Keeps z0 (authWrite n w s) := by
  unfold authWrite
  with_reducible repeat' first | dsimp only | assumption | apply keeps_authPass | apply keeps_authFail | apply keeps_ite | split

theorem keeps_actReset {z0 : State} (n : Nat) {s : State} (hk : Keeps z0 s) : Keeps z0 (actReset n s) := by
  unfold actReset
  with_reducible repeat' first | assumption | intro _ | apply keeps_ite | split | dsimp only | apply keeps_setEnt | apply keeps_modPe | apply keeps_marginFree | apply keeps_dropKeys | apply keeps_foldl | apply keeps_foldl_snd | apply keeps_foldl_fst

theorem keeps_execSnWindow {z0 : State} (port : Fin 48) {s : State} (hk : Keeps z0 s) : KeepsR z0 (execSnWindow port s) := by
  unfold execSnWindow
  with_reducible repeat' first | dsimp only | assumption | apply KeepsR.next | apply KeepsR.fault | apply keeps_snWindow

theorem keeps_execRangingResponse {z0 : State} (port : Fin 48) (ctx : Fin 512) (rtd : Nat) (msg : List Byte) {s : State} (hk : Keeps z0 s) : KeepsR z0 (execRangingResponse port ctx rtd msg s) := by
  unfold execRangingResponse
  with_reducible repeat' first | dsimp only | assumption | apply KeepsR.next | apply KeepsR.fault | apply keeps_rangingResponse

theorem keeps_execRngFail {z0 : State} (port : Fin 48) (ctx : Fin 512) {s : State} (hk : Keeps z0 s) : KeepsR z0 (execRngFail port ctx s) := by
  unfold execRngFail
  with_reducible repeat' first | dsimp only | assumption | apply KeepsR.next | apply KeepsR.fault | apply keeps_rngFail

theorem keeps_execLevelQueryTimeout {z0 : State} (port : Fin 48) (ctx : Fin 512) {s : State} (hk : Keeps z0 s) : KeepsR z0 (execLevelQueryTimeout port ctx s) := by
  unfold execLevelQueryTimeout
  with_reducible repeat' first | dsimp only | assumption | apply KeepsR.next | apply KeepsR.fault | apply keeps_levelQueryTimeout

theorem keeps_execLevelReply {z0 : State} (port : Fin 48) (ctx : Fin 512) (level : Byte) (ext : Bool) {s : State} (hk : Keeps z0 s) : KeepsR z0 (execLevelReply port ctx level ext s) := by
  unfold execLevelReply
  with_reducible repeat' first | dsimp only | assumption | apply KeepsR.next | apply KeepsR.fault | apply keeps_levelReply

theorem keeps_execLevelLimit {z0 : State} (port : Fin 48) (ctx : Fin 512) {s : State} (hk : Keeps z0 s) : KeepsR z0 (execLevelLimit port ctx s) := by
  unfold execLevelLimit
  with_reducible repeat' first | dsimp only | assumption | apply KeepsR.next | apply KeepsR.fault | apply keeps_levelLimit

theorem keeps_execActDone {z0 : State} (port : Fin 48) (ctx : Fin 512) (t : Nat) {s : State} (hk : Keeps z0 s) : KeepsR z0 (execActDone port ctx t s) := by
  unfold execActDone
  with_reducible repeat' first | dsimp only | assumption | apply KeepsR.next | apply KeepsR.fault | apply keeps_at | apply keeps_actDone

theorem keeps_authPort {z0 : State} (fn : Nat) (n : Nat) (op : Nat) (ctx : Nat) {s : State} (hk : Keeps z0 s) : Keeps z0 (authPort fn n op ctx s) := by
  unfold authPort
  with_reducible repeat' first | dsimp only | assumption | apply keeps_access | apply keeps_authWrite | intro _

theorem keeps_execAuthPass {z0 : State} (fn : Fn) (port : Fin 48) (ctx : Fin 512) {s : State} (hk : Keeps z0 s) : KeepsR z0 (execAuthPass fn port ctx s) := by
  unfold execAuthPass
  with_reducible repeat' first | dsimp only | assumption | apply KeepsR.next | apply KeepsR.fault | apply keeps_authPort

theorem keeps_execAuthFail {z0 : State} (fn : Fn) (port : Fin 48) (ctx : Fin 512) {s : State} (hk : Keeps z0 s) : KeepsR z0 (execAuthFail fn port ctx s) := by
  unfold execAuthFail
  with_reducible repeat' first | dsimp only | assumption | apply KeepsR.next | apply KeepsR.fault | apply keeps_authPort

theorem keeps_execAuthTimeout {z0 : State} (port : Fin 48) (ctx : Fin 512) (t : Nat) {s : State} (hk : Keeps z0 s) : KeepsR z0 (execAuthTimeout port ctx t s) := by
  unfold execAuthTimeout
  with_reducible repeat' first | dsimp only | assumption | apply KeepsR.next | apply KeepsR.fault | apply keeps_at | apply keeps_authTimeout

theorem keeps_execOnuLost {z0 : State} (port : Fin 48) (ctx : Fin 512) (t : Nat) {s : State} (hk : Keeps z0 s) : KeepsR z0 (execOnuLost port ctx t s) := by
  unfold execOnuLost
  with_reducible repeat' first | dsimp only | assumption | apply KeepsR.next | apply KeepsR.fault | apply keeps_at | apply keeps_onuLost

theorem keeps_execProbeGrant {z0 : State} (port : Fin 48) (ctx : Fin 512) {s : State} (hk : Keeps z0 s) : KeepsR z0 (execProbeGrant port ctx s) := by
  unfold execProbeGrant
  with_reducible repeat' first | dsimp only | assumption | apply KeepsR.next | apply KeepsR.fault | apply keeps_probeGrant

theorem keeps_execLostExpired {z0 : State} (port : Fin 48) (ctx : Fin 512) (t : Nat) {s : State} (hk : Keeps z0 s) : KeepsR z0 (execLostExpired port ctx t s) := by
  unfold execLostExpired
  with_reducible repeat' first | dsimp only | assumption | apply KeepsR.next | apply KeepsR.fault | apply keeps_at | apply keeps_lostExpired

theorem keeps_actPort {z0 : State} (fn : Nat) (n : Nat) (op : Nat) (ctx : Nat) {s : State} (hk : Keeps z0 s) : Keeps z0 (actPort fn n op ctx s) := by
  unfold actPort
  with_reducible repeat' first | dsimp only | assumption | apply keeps_access | apply keeps_actCommand | intro _

theorem keeps_execDeact {z0 : State} (fn : Fn) (port : Fin 48) (ctx : Fin 512) {s : State} (hk : Keeps z0 s) : KeepsR z0 (execDeact fn port ctx s) := by
  unfold execDeact
  with_reducible repeat' first | dsimp only | assumption | apply KeepsR.next | apply KeepsR.fault | apply keeps_actPort

theorem keeps_execRerange {z0 : State} (fn : Fn) (port : Fin 48) (ctx : Fin 512) {s : State} (hk : Keeps z0 s) : KeepsR z0 (execRerange fn port ctx s) := by
  unfold execRerange
  with_reducible repeat' first | dsimp only | assumption | apply KeepsR.next | apply KeepsR.fault | apply keeps_actPort

theorem keeps_execBcastAdj {z0 : State} (fn : Fn) (port : Fin 48) {s : State} (hk : Keeps z0 s) : KeepsR z0 (execBcastAdj fn port s) := by
  unfold execBcastAdj
  with_reducible repeat' first | dsimp only | assumption | apply KeepsR.next | apply KeepsR.fault | apply keeps_actPort

end Sys2Proof.Machine
end

