-- ==== Sys2Proof/Laws/KeepsGrant.lean ====
section
/-! SUPPORT. What the operations of Machine/Grant.lean keep. -/

namespace Sys2Proof.Machine

theorem keeps_setBitOf {z0 : State} {s : State} (pg : Nat) (f : Fld) (b : Nat) (v : Bool) (hk : Keeps z0 s) : Keeps z0 (setBitOf s pg f b v) := by
  unfold setBitOf
  with_reducible repeat' first | dsimp only | assumption | apply keeps_put | apply keeps_ite | split

theorem keeps_setCommit {z0 : State} (n : Nat) {s : State} (hk : Keeps z0 s) : Keeps z0 (setCommit n s) := by
  unfold setCommit
  with_reducible repeat' first | dsimp only | assumption | apply keeps_put

theorem keeps_mapBuild {z0 : State} (n : Nat) {s : State} (hk : Keeps z0 s) : Keeps z0 (mapBuild n s) := by
  unfold mapBuild
  with_reducible repeat' first | dsimp only | assumption | apply keeps_commitMoves | apply keeps_modGp | apply keeps_ite | split | intro _

theorem keeps_returnReq {z0 : State} (n : Nat) (q : QReq) {s : State} (hk : Keeps z0 s) : Keeps z0 (returnReq n q s) := by
  unfold returnReq
  with_reducible repeat' first | dsimp only | assumption | apply keeps_modCx | apply keeps_ite | split | intro _

theorem keeps_chargeMap {z0 : State} (n : Nat) (m : GMap) {s : State} (hk : Keeps z0 s) : Keeps z0 (chargeMap n m s) := by
  unfold chargeMap
  with_reducible repeat' first | dsimp only | assumption | apply keeps_setEnt | apply keeps_foldl | apply keeps_foldl_snd | apply keeps_foldl_fst | apply keeps_ite | split | intro _

theorem keeps_chargeShorts {z0 : State} (n : Nat) (sfc : Nat) (l : List (Nat × Nat)) {s : State} (hk : Keeps z0 s) : Keeps z0 (chargeShorts n sfc l s) := by
  unfold chargeShorts
  with_reducible repeat' first | dsimp only | assumption | apply keeps_bump | apply keeps_setEnt | apply keeps_foldl | apply keeps_foldl_snd | apply keeps_foldl_fst | apply keeps_ite | apply keeps_ite_snd | apply keeps_ite_fst | split | intro _

theorem keeps_ligMap {z0 : State} (n : Nat) (m : GMap) {s : State} (hk : Keeps z0 s) : Keeps z0 (ligMap n m s) := by
  unfold ligMap
  with_reducible repeat' first | dsimp only | assumption | apply keeps_emit | apply keeps_foldl | apply keeps_foldl_snd | apply keeps_foldl_fst | apply keeps_ite | apply keeps_ite_snd | apply keeps_ite_fst | split | intro _

theorem keeps_mapSeal {z0 : State} (n : Nat) (margin : Nat) {s : State} (hk : Keeps z0 s) : Keeps z0 (mapSeal n margin s) := by
  unfold mapSeal
  with_reducible repeat' first | dsimp only | assumption | apply keeps_put | apply keeps_bump | apply keeps_when | apply keeps_modGp | apply keeps_announceProfiles | apply keeps_setBitOf | apply keeps_returnReq | apply keeps_chargeMap | apply keeps_chargeShorts | apply keeps_ligMap | apply keeps_foldl | apply keeps_foldl_snd | apply keeps_foldl_fst | apply keeps_ite | apply keeps_ite_fst | split | intro _

theorem keeps_staleWith {z0 : State} (n : Nat) (j : Nat) (m0 : GMap) {s : State} (hk : Keeps z0 s) : Keeps z0 (staleWith n j m0 s) := by
  unfold staleWith
  with_reducible repeat' first | dsimp only | assumption | apply keeps_put | apply keeps_bump | apply keeps_raise | apply keeps_modGp | apply keeps_setBitOf | apply keeps_returnReq | apply keeps_chargeMap | apply keeps_foldl | apply keeps_foldl_snd | apply keeps_foldl_fst | apply keeps_ite | apply keeps_ite_snd | apply keeps_ite_fst | split | intro _

theorem keeps_mapStale {z0 : State} (n : Nat) {s : State} (hk : Keeps z0 s) : Keeps z0 (mapStale n s) := by
  unfold mapStale
  with_reducible repeat' first | dsimp only | assumption | apply keeps_bump | apply keeps_ligMap | apply keeps_staleWith | apply keeps_ite | split

theorem keeps_report {z0 : State} (n : Nat) (i : Nat) (m : Nat) (b : Nat) {s : State} (hk : Keeps z0 s) : Keeps z0 (report n i m b s) := by
  unfold report
  with_reducible repeat' first | dsimp only | assumption | apply keeps_putE | apply keeps_foldl | apply keeps_foldl_snd | apply keeps_foldl_fst | split | intro _

theorem keeps_hintRx {z0 : State} (n : Nat) (i : Nat) (th : Nat) (bytes : Nat) {s : State} (hk : Keeps z0 s) : Keeps z0 (hintRx n i th bytes s) := by
  unfold hintRx
  with_reducible repeat' first | dsimp only | assumption | apply keeps_bump | apply keeps_modGp | apply keeps_ite | split | intro _

theorem keeps_hintNext {z0 : State} (n : Nat) {s : State} (hk : Keeps z0 s) : Keeps z0 (hintNext n s) := by
  unfold hintNext
  with_reducible repeat' first | dsimp only | assumption | apply keeps_modGp | apply keeps_hintRx | split | intro _

theorem keeps_hintCntClr {z0 : State} (sl : Nat) {s : State} (hk : Keeps z0 s) : Keeps z0 (hintCntClr sl s) := by
  unfold hintCntClr
  with_reducible repeat' first | dsimp only | assumption | apply keeps_put

theorem keeps_execMapBuild {z0 : State} (slice : Fin 6) {s : State} (hk : Keeps z0 s) : KeepsR z0 (execMapBuild slice s) := by
  unfold execMapBuild
  with_reducible repeat' first | dsimp only | assumption | apply KeepsR.next | apply KeepsR.fault | apply keeps_forN | apply keeps_mapBuild | intro _

theorem keeps_execMapSeal {z0 : State} (port : Fin 48) (margin : Nat) {s : State} (hk : Keeps z0 s) : KeepsR z0 (execMapSeal port margin s) := by
  unfold execMapSeal
  with_reducible repeat' first | dsimp only | assumption | apply KeepsR.next | apply KeepsR.fault | apply keeps_mapSeal

theorem keeps_execMapStale {z0 : State} (port : Fin 48) {s : State} (hk : Keeps z0 s) : KeepsR z0 (execMapStale port s) := by
  unfold execMapStale
  with_reducible repeat' first | dsimp only | assumption | apply KeepsR.next | apply KeepsR.fault | apply keeps_mapStale

theorem keeps_execHintRx {z0 : State} (port : Fin 48) (t : Nat) {s : State} (hk : Keeps z0 s) : KeepsR z0 (execHintRx port t s) := by
  unfold execHintRx
  with_reducible repeat' first | dsimp only | assumption | apply KeepsR.next | apply KeepsR.fault | apply keeps_at | apply keeps_hintNext

theorem keeps_execHintCntClr {z0 : State} (fn : Fn) (slice : Fin 6) (w : Word) {s : State} (hk : Keeps z0 s) : KeepsR z0 (execHintCntClr fn slice w s) := by
  unfold execHintCntClr
  with_reducible repeat' first | dsimp only | assumption | apply KeepsR.next | apply KeepsR.fault | apply keeps_hostWrite | apply keeps_hintCntClr | intro _

end Sys2Proof.Machine
end

