-- ==== Sys2Proof/Laws/KeepsCircuits.lean ====
section
/-! SUPPORT. What the operations of Machine/Circuits.lean keep. -/

namespace Sys2Proof.Machine

theorem keeps_cput {z0 : State} (c : Nat) (f : TF) (v : Nat) {s : State} (hk : Keeps z0 s) : Keeps z0 (cput c f v s) := by
  unfold cput
  with_reducible repeat' first | dsimp only | assumption | apply keeps_putE

theorem keeps_cinc {z0 : State} (c : Nat) (f : TF) (k : Nat) {s : State} (hk : Keeps z0 s) : Keeps z0 (cinc c f k s) := by
  unfold cinc
  with_reducible repeat' first | dsimp only | assumption | apply keeps_cput

theorem keeps_modCkt {z0 : State} {s : State} (c : Nat) (f : Ckt → Ckt) (hk : Keeps z0 s) : Keeps z0 (State.modCkt s c f) := by
  unfold State.modCkt
  with_reducible repeat' first | dsimp only | assumption | apply keeps_set_ce

theorem keeps_ceFill {z0 : State} (c : Nat) {s : State} (hk : Keeps z0 s) : Keeps z0 (ceFill c s) := by
  unfold ceFill
  with_reducible repeat' first | dsimp only | assumption | apply keeps_cput

theorem keeps_slip {z0 : State} (c : Nat) (f : TF) {s : State} (hk : Keeps z0 s) : Keeps z0 (slip c f s) := by
  unfold slip
  with_reducible repeat' first | dsimp only | assumption | apply keeps_put | apply keeps_raise | apply keeps_cinc | apply keeps_ite | split | apply keeps_set_ce

theorem keeps_dsWrite {z0 : State} (c : Nat) (x : CFrame) {s : State} (hk : Keeps z0 s) : Keeps z0 (dsWrite c x s) := by
  unfold dsWrite
  with_reducible repeat' first | dsimp only | assumption | apply keeps_modCkt | apply keeps_ceFill | apply keeps_slip | apply keeps_ite | split | intro _

theorem keeps_dsTick {z0 : State} (c : Nat) (sfc : Nat) {s : State} (hk : Keeps z0 s) : Keeps z0 (dsTick c sfc s) := by
  unfold dsTick
  with_reducible repeat' first | dsimp only | assumption | apply keeps_emit | apply keeps_modPe | apply keeps_cput | apply keeps_modCkt | apply keeps_ceFill | apply keeps_slip | apply keeps_ite | split | intro _ | apply keeps_set_ce

theorem keeps_circuitTicks {z0 : State} (n : Nat) (sfc : Nat) {s : State} (hk : Keeps z0 s) : Keeps z0 (circuitTicks n sfc s) := by
  unfold circuitTicks
  with_reducible repeat' first | dsimp only | assumption | apply keeps_modPe | apply keeps_dsTick | apply keeps_foldl | apply keeps_foldl_snd | apply keeps_foldl_fst | intro _ | apply keeps_set_ce

theorem keeps_dsPacket {z0 : State} (c : Nat) (d : List Byte) {s : State} (hk : Keeps z0 s) : Keeps z0 (dsPacket c d s) := by
  unfold dsPacket
  with_reducible repeat' first | dsimp only | assumption | apply keeps_forN | apply keeps_cinc | apply keeps_modCkt | apply keeps_dsWrite | apply keeps_ite | split | intro _

theorem keeps_ceLof {z0 : State} (c : Nat) {s : State} (hk : Keeps z0 s) : Keeps z0 (ceLof c s) := by
  unfold ceLof
  with_reducible repeat' first | dsimp only | assumption | apply keeps_put | apply keeps_raise | apply keeps_cput | apply keeps_cinc | apply keeps_modCkt | apply keeps_ite | split | intro _

theorem keeps_alignFrame {z0 : State} (c : Nat) (x : CFrame) {s0 : State} (hk : Keeps z0 s0) : Keeps z0 (alignFrame c x s0).2 := by
  unfold alignFrame
  with_reducible repeat' first | dsimp only | assumption | apply keeps_raise | apply keeps_cput | apply keeps_cinc | apply keeps_modCkt | apply keeps_ceLof | apply keeps_ite | apply keeps_ite_snd | apply keeps_ite_fst | split | intro _

theorem keeps_usPush {z0 : State} (c : Nat) (x : CFrame) {s : State} (hk : Keeps z0 s) : Keeps z0 (usPush c x s) := by
  unfold usPush
  with_reducible repeat' first | dsimp only | assumption | apply keeps_modCkt | apply keeps_ceFill | apply keeps_slip | apply keeps_ite | split | intro _

theorem keeps_usWrite {z0 : State} (c : Nat) (x : CFrame) {s : State} (hk : Keeps z0 s) : Keeps z0 (usWrite c x s) := by
  unfold usWrite
  with_reducible repeat' first | dsimp only | assumption | apply keeps_alignFrame | apply keeps_usPush | apply keeps_ite | apply keeps_ite_snd | apply keeps_ite_fst | split

theorem keeps_usLost {z0 : State} (c : Nat) {s : State} (hk : Keeps z0 s) : Keeps z0 (usLost c s) := by
  unfold usLost
  with_reducible repeat' first | dsimp only | assumption | apply keeps_cinc | apply keeps_usWrite | apply keeps_ite | split

theorem keeps_usPayload {z0 : State} (c : Nat) (sfc : Nat) (d : List Byte) {s : State} (hk : Keeps z0 s) : Keeps z0 (usPayload c sfc d s).2 := by
  unfold usPayload
  with_reducible repeat' first | dsimp only | assumption | apply keeps_cinc | apply keeps_usWrite | apply keeps_ite | apply keeps_ite_snd | apply keeps_ite_fst | split

theorem keeps_gridStart {z0 : State} (c : Nat) {s : State} (hk : Keeps z0 s) : Keeps z0 (gridStart c s) := by
  unfold gridStart
  with_reducible repeat' first | dsimp only | assumption | apply keeps_modCkt | intro _

theorem keeps_ceRestep {z0 : State} (tb : Nat) (d : Int) {s : State} (hk : Keeps z0 s) : Keeps z0 (ceRestep tb d s) := by
  unfold ceRestep
  with_reducible repeat' first | dsimp only | assumption | apply keeps_modCkt | apply keeps_foldl | apply keeps_foldl_snd | apply keeps_foldl_fst | intro _

theorem keeps_usTick {z0 : State} (c : Nat) {s : State} (hk : Keeps z0 s) : Keeps z0 (usTick c s) := by
  unfold usTick
  with_reducible repeat' first | dsimp only | assumption | apply keeps_offer | apply keeps_cput | apply keeps_modCkt | apply keeps_ceFill | apply keeps_slip | apply keeps_ite | split | intro _

theorem keeps_usTickDue {z0 : State} (c : Nat) {s : State} (hk : Keeps z0 s) : Keeps z0 (usTickDue c s) := by
  unfold usTickDue
  with_reducible repeat' first | dsimp only | assumption | apply keeps_modCkt | apply keeps_usTick | apply keeps_ite | split | intro _

theorem keeps_ceTblWrite {z0 : State} (c : Nat) (d : Entry) {s : State} (hk : Keeps z0 s) : Keeps z0 (ceTblWrite c d s).2 := by
  unfold ceTblWrite
  with_reducible repeat' first | dsimp only | assumption | apply keeps_setEnt | apply keeps_cfgRej | apply keeps_cput | apply keeps_modCkt | apply keeps_ceFill | apply keeps_gridStart | apply keeps_ite | apply keeps_ite_snd | apply keeps_ite_fst | split | intro _

theorem keeps_execCeDsPacket {z0 : State} (t : Nat) {s0 : State} (hk : Keeps z0 s0) : KeepsR z0 (execCeDsPacket t s0) := by
  unfold execCeDsPacket
  with_reducible repeat' first | dsimp only | assumption | apply KeepsR.next | apply KeepsR.fault | apply keeps_at | apply keeps_dsPacket | apply keeps_ite | apply keepsR_ite | split | apply keeps_set_ce

theorem keeps_execCeUsTick {z0 : State} (circuit : Fin 1088) (t : Nat) {s : State} (hk : Keeps z0 s) : KeepsR z0 (execCeUsTick circuit t s) := by
  unfold execCeUsTick
  with_reducible repeat' first | dsimp only | assumption | apply KeepsR.next | apply KeepsR.fault | apply keeps_at | apply keeps_usTickDue

theorem keeps_execCeLof {z0 : State} (circuit : Fin 1088) {s : State} (hk : Keeps z0 s) : KeepsR z0 (execCeLof circuit s) := by
  unfold execCeLof
  with_reducible repeat' first | dsimp only | assumption | apply KeepsR.next | apply KeepsR.fault | apply keeps_ceLof

end Sys2Proof.Machine
end

