-- ==== Sys2Proof/Laws/KeepsPlant.lean ====
section
/-! SUPPORT. What the operations of Machine/Plant.lean keep. -/

namespace Sys2Proof.Machine

theorem keeps_pmput {z0 : State} (n : Nat) (f : Fld) (v : Nat) {s : State} (hk : Keeps z0 s) : Keeps z0 (pmput n f v s) := by
  unfold pmput
  with_reducible repeat' first | dsimp only | assumption | apply keeps_put

theorem keeps_pmCount {z0 : State} (n : Nat) (k : Nat) {s : State} (hk : Keeps z0 s) : Keeps z0 (pmCount n k s) := by
  unfold pmCount
  with_reducible repeat' first | dsimp only | assumption | apply keeps_bump

theorem keeps_modAls {z0 : State} {s : State} (n : Nat) (f : Als → Als) (hk : Keeps z0 s) : Keeps z0 (State.modAls s n f) := by
  unfold State.modAls
  with_reducible repeat' first | dsimp only | assumption | apply keeps_set_als

theorem keeps_pinLevel {z0 : State} (n : Nat) {s : State} (hk : Keeps z0 s) : Keeps z0 (pinLevel n s) := by
  unfold pinLevel
  with_reducible repeat' first | dsimp only | assumption | apply keeps_levelTo

theorem keeps_trcStop {z0 : State} (n : Nat) (st : Nat) {s : State} (hk : Keeps z0 s) : Keeps z0 (trcStop n st s) := by
  unfold trcStop
  with_reducible repeat' first | dsimp only | assumption | apply keeps_emit | apply keeps_modPe | apply keeps_modGp | apply keeps_pmput | intro _

theorem keeps_trcAbort {z0 : State} (n : Nat) {s : State} (hk : Keeps z0 s) : Keeps z0 (trcAbort n s) := by
  unfold trcAbort
  with_reducible repeat' first | dsimp only | assumption | apply keeps_trcStop | apply keeps_ite | split

theorem keeps_trcBegin {z0 : State} (n : Nat) (urgent : Bool) {s : State} (hk : Keeps z0 s) : Keeps z0 (trcBegin n urgent s) := by
  unfold trcBegin
  with_reducible repeat' first | dsimp only | assumption | apply keeps_setReg | apply keeps_emit | apply keeps_modAls | apply keeps_ite | split | intro _

theorem keeps_pmReject {z0 : State} (n : Nat) {s : State} (hk : Keeps z0 s) : Keeps z0 (pmReject n s) := by
  unfold pmReject
  with_reducible repeat' first | dsimp only | assumption | apply keeps_pmput

theorem keeps_trcStart {z0 : State} (n : Nat) {s : State} (hk : Keeps z0 s) : Keeps z0 (trcStart n s) := by
  unfold trcStart
  with_reducible repeat' first | dsimp only | assumption | apply keeps_trcBegin | apply keeps_pmReject | apply keeps_ite | split

theorem keeps_plantTick {z0 : State} (n : Nat) {s : State} (hk : Keeps z0 s) : Keeps z0 (plantTick n s) := by
  unfold plantTick
  with_reducible repeat' first | dsimp only | assumption | apply keeps_askWindow | apply keeps_modAls | apply keeps_ite | split | intro _

theorem keeps_plantSilence {z0 : State} (n : Nat) (power : Nat) {s0 : State} (hk : Keeps z0 s0) : Keeps z0 (plantSilence n power s0) := by
  unfold plantSilence
  with_reducible repeat' first | dsimp only | assumption | apply keeps_modPe | apply keeps_pmput | apply keeps_pmCount | apply keeps_modAls | apply keeps_foldl | apply keeps_foldl_snd | apply keeps_foldl_fst | apply keeps_ite | split | intro _

theorem keeps_showAcct {z0 : State} (n : Nat) {s : State} (hk : Keeps z0 s) : Keeps z0 (showAcct n s) := by
  unfold showAcct
  with_reducible repeat' first | dsimp only | assumption | apply keeps_pmput | apply keeps_modAls | apply keeps_ite | split | intro _

theorem keeps_showNext {z0 : State} (n : Nat) {s : State} (hk : Keeps z0 s) : Keeps z0 (showNext n s) := by
  unfold showNext
  with_reducible repeat' first | dsimp only | assumption | apply keeps_pmput | apply keeps_ite | split

theorem keeps_alsTo {z0 : State} (n : Nat) (st : Nat) {s : State} (hk : Keeps z0 s) : Keeps z0 (alsTo n st s) := by
  unfold alsTo
  with_reducible repeat' first | dsimp only | assumption | apply keeps_levelTo | apply keeps_pmput | apply keeps_modAls | apply keeps_trcAbort | apply keeps_showAcct | apply keeps_showNext | apply keeps_ite | split | intro _

theorem keeps_toMute {z0 : State} (n : Nat) (cause : Option Nat) {s : State} (hk : Keeps z0 s) : Keeps z0 (toMute n cause s) := by
  unfold toMute
  with_reducible repeat' first | dsimp only | assumption | apply keeps_pmput | apply keeps_pmCount | apply keeps_modAls | apply keeps_alsTo | split | intro _

theorem keeps_toLoss {z0 : State} (n : Nat) {s : State} (hk : Keeps z0 s) : Keeps z0 (toLoss n s) := by
  unfold toLoss
  with_reducible repeat' first | dsimp only | assumption | apply keeps_trcBegin | apply keeps_alsTo | apply keeps_ite | split

theorem keeps_alsEval {z0 : State} (m : Nat) {s : State} (hk : Keeps z0 s) : Keeps z0 (alsEval m s) := by
  unfold alsEval
  with_reducible repeat' first | dsimp only | assumption | apply keeps_alsTo | apply keeps_toLoss | apply keeps_ite | split

theorem keeps_prxLos {z0 : State} (n : Nat) (v : Bool) {s : State} (hk : Keeps z0 s) : Keeps z0 (prxLos n v s) := by
  unfold prxLos
  with_reducible repeat' first | dsimp only | assumption | apply keeps_lnLos | apply keeps_alsEval

theorem keeps_alsAnswer {z0 : State} (m : Nat) {s : State} (hk : Keeps z0 s) : Keeps z0 (alsAnswer m s) := by
  unfold alsAnswer
  with_reducible repeat' first | dsimp only | assumption | apply keeps_alsTo | apply keeps_ite | split

theorem keeps_alsHold {z0 : State} (n : Nat) {s : State} (hk : Keeps z0 s) : Keeps z0 (alsHold n s) := by
  unfold alsHold
  with_reducible repeat' first | dsimp only | assumption | apply keeps_toMute | apply keeps_ite | split

theorem keeps_toPulse {z0 : State} (n : Nat) {s : State} (hk : Keeps z0 s) : Keeps z0 (toPulse n s) := by
  unfold toPulse
  with_reducible repeat' first | dsimp only | assumption | apply keeps_pmCount | apply keeps_alsTo

theorem keeps_alsPulse {z0 : State} (n : Nat) {s : State} (hk : Keeps z0 s) : Keeps z0 (alsPulse n s) := by
  unfold alsPulse
  with_reducible repeat' first | dsimp only | assumption | apply keeps_showNext | apply keeps_toPulse | apply keeps_ite | split

theorem keeps_alsPulseEnd {z0 : State} (n : Nat) {s : State} (hk : Keeps z0 s) : Keeps z0 (alsPulseEnd n s) := by
  unfold alsPulseEnd
  with_reducible repeat' first | dsimp only | assumption | apply keeps_toMute | apply keeps_ite | split

theorem keeps_overblow {z0 : State} (n : Nat) {s : State} (hk : Keeps z0 s) : Keeps z0 (overblow n s) := by
  unfold overblow
  with_reducible repeat' first | dsimp only | assumption | apply keeps_raise | apply keeps_modLane | apply keeps_lst | apply keeps_modAls | apply keeps_alsTo | apply keeps_ite | split | intro _

theorem keeps_alsAccount {z0 : State} (n : Nat) {s0 : State} (hk : Keeps z0 s0) : Keeps z0 (alsAccount n s0) := by
  unfold alsAccount
  with_reducible repeat' first | dsimp only | assumption | apply keeps_pmput | apply keeps_modAls | apply keeps_showAcct | apply keeps_showNext | apply keeps_alsEval | apply keeps_overblow | apply keeps_ite | apply keeps_ite_fst | split | intro _

theorem keeps_relight {z0 : State} (n : Nat) {s : State} (hk : Keeps z0 s) : Keeps z0 (relight n s) := by
  unfold relight
  with_reducible repeat' first | dsimp only | assumption | apply keeps_txLeave | apply keeps_modAls | intro _

theorem keeps_alsCommand {z0 : State} (fn : Nat) (n : Nat) (op : Nat) {s : State} (hk : Keeps z0 s) : Keeps z0 (alsCommand fn n op s) := by
  unfold alsCommand
  with_reducible repeat' first | dsimp only | assumption | apply keeps_recovered | apply keeps_modAls | apply keeps_pmReject | apply keeps_alsTo | apply keeps_toMute | apply keeps_toLoss | apply keeps_toPulse | apply keeps_relight | apply keeps_ite | split | intro _

theorem keeps_alsCfgAct {z0 : State} (n : Nat) {s : State} (hk : Keeps z0 s) : Keeps z0 (alsCfgAct n s) := by
  unfold alsCfgAct
  with_reducible repeat' first | dsimp only | assumption | apply keeps_alsTo | apply keeps_alsEval | apply keeps_ite | split

theorem keeps_alsTakeover {z0 : State} (n : Nat) {s : State} (hk : Keeps z0 s) : Keeps z0 (alsTakeover n s) := by
  unfold alsTakeover
  with_reducible repeat' first | dsimp only | assumption | apply keeps_recovered | apply keeps_alsTo | apply keeps_relight | apply keeps_ite | split

theorem keeps_traceDone {z0 : State} (n : Nat) (bins0 : List (BitVec 16)) (noise : Nat) (found0 : List TraceEvent) {s : State} (hk : Keeps z0 s) : Keeps z0 (traceDone n bins0 noise found0 s) := by
  unfold traceDone
  with_reducible repeat' first | dsimp only | assumption | apply keeps_setReg | apply keeps_raise | apply keeps_mxWrite | apply keeps_pmCount | apply keeps_trcStop | apply keeps_trcStart | apply keeps_toMute | apply keeps_foldl | apply keeps_foldl_snd | apply keeps_foldl_fst | apply keeps_ite | split | intro _

theorem keeps_trcBaseline {z0 : State} (n : Nat) {s : State} (hk : Keeps z0 s) : Keeps z0 (trcBaseline n s) := by
  have hmem : ∀ (c : SMap Byte) (p : Nat → Bool) (l : List (Nat × Byte)), Memory.wf c = true →
      Memory.wf (l.foldl (fun m e => sset 0 m (e.1 + 131072) e.2) (skeep p c)) = true := fun c p l h =>
    swf_foldl_sset (fun _ => (0 : Byte)) (fun e : Nat × Byte => e.1 + 131072) (fun e => e.2) l _ (swf_skeep _ p c h)
  unfold trcBaseline
  dsimp only
  with_reducible repeat' first | assumption | apply keeps_ite | apply keeps_mxRefused | apply keeps_bump | apply keeps_pmReject
  refine Keeps.cxl (keeps_bump _ _ _ (keeps_bump _ _ _ hk)) (fun h => hmem _ _ _ h)

theorem keeps_trcCommand {z0 : State} (n : Nat) (op : Nat) {s : State} (hk : Keeps z0 s) : Keeps z0 (trcCommand n op s) := by
  unfold trcCommand
  with_reducible repeat' first | dsimp only | assumption | apply keeps_trcAbort | apply keeps_pmReject | apply keeps_trcStart | apply keeps_trcBaseline | apply keeps_ite | split

theorem keeps_modEval {z0 : State} (n : Nat) (poll : Bool) {s : State} (hk : Keeps z0 s) : Keeps z0 (modEval n poll s) := by
  unfold modEval
  with_reducible repeat' first | dsimp only | assumption | apply keeps_levelTo | apply keeps_pmput | apply keeps_modAls | apply keeps_ite | split | intro _

theorem keeps_moduleInsert {z0 : State} (n : Nat) (ident : Nat) {s : State} (hk : Keeps z0 s) : Keeps z0 (moduleInsert n ident s) := by
  unfold moduleInsert
  with_reducible repeat' first | dsimp only | assumption | apply keeps_pmput | apply keeps_modAls | apply keeps_modEval | intro _

theorem keeps_moduleRemoval {z0 : State} (n : Nat) {s : State} (hk : Keeps z0 s) : Keeps z0 (moduleRemoval n s) := by
  unfold moduleRemoval
  with_reducible repeat' first | dsimp only | assumption | apply keeps_pmput | apply keeps_modAls | apply keeps_modEval | intro _

theorem keeps_modulePoll {z0 : State} (n : Nat) (d : Option ModuleData) {s : State} (hk : Keeps z0 s) : Keeps z0 (modulePoll n d s) := by
  unfold modulePoll
  with_reducible repeat' first | dsimp only | assumption | apply keeps_pmput | apply keeps_modAls | apply keeps_modEval | apply keeps_ite | split | intro _

theorem keeps_modbus {z0 : State} (b : Nat) (stuck : Bool) {s : State} (hk : Keeps z0 s) : Keeps z0 (modbus b stuck s) := by
  unfold modbus
  with_reducible repeat' first | dsimp only | assumption | apply keeps_emit | apply keeps_levelTo | apply keeps_forN | apply keeps_setBitOf | apply keeps_modEval | apply keeps_ite | split | intro _

theorem keeps_modbusRecovery {z0 : State} (b : Nat) (released : Bool) {s : State} (hk : Keeps z0 s) : Keeps z0 (modbusRecovery b released s) := by
  unfold modbusRecovery
  with_reducible repeat' first | dsimp only | assumption | apply keeps_emit | apply keeps_modbus | apply keeps_ite | split

theorem keeps_trcPort {z0 : State} (fn : Nat) (n : Nat) (op : Nat) {s : State} (hk : Keeps z0 s) : Keeps z0 (trcPort fn n op s) := by
  unfold trcPort
  with_reducible repeat' first | dsimp only | assumption | apply keeps_access | apply keeps_trcCommand | intro _

theorem keeps_execTraceStart {z0 : State} (fn : Fn) (port : Fin 48) {s : State} (hk : Keeps z0 s) : KeepsR z0 (execTraceStart fn port s) := by
  unfold execTraceStart
  with_reducible repeat' first | dsimp only | assumption | apply KeepsR.next | apply KeepsR.fault | apply keeps_trcPort

theorem keeps_execTraceAbort {z0 : State} (fn : Fn) (port : Fin 48) {s : State} (hk : Keeps z0 s) : KeepsR z0 (execTraceAbort fn port s) := by
  unfold execTraceAbort
  with_reducible repeat' first | dsimp only | assumption | apply KeepsR.next | apply KeepsR.fault | apply keeps_trcPort

theorem keeps_execBaseline {z0 : State} (fn : Fn) (port : Fin 48) {s : State} (hk : Keeps z0 s) : KeepsR z0 (execBaseline fn port s) := by
  unfold execBaseline
  with_reducible repeat' first | dsimp only | assumption | apply KeepsR.next | apply KeepsR.fault | apply keeps_trcPort

theorem keeps_execPlantSilence {z0 : State} (port : Fin 48) (power : Nat) {s : State} (hk : Keeps z0 s) : KeepsR z0 (execPlantSilence port power s) := by
  unfold execPlantSilence
  with_reducible repeat' first | dsimp only | assumption | apply KeepsR.next | apply KeepsR.fault | apply keeps_plantSilence

theorem keeps_execTraceDone {z0 : State} (port : Fin 48) (bins : List (BitVec 16)) (noise : BitVec 16) (found : List TraceEvent) (t : Nat) {s : State} (hk : Keeps z0 s) : KeepsR z0 (execTraceDone port bins noise found t s) := by
  unfold execTraceDone
  with_reducible repeat' first | dsimp only | assumption | apply KeepsR.next | apply KeepsR.fault | apply keeps_at | apply keeps_traceDone

theorem keeps_execModuleInsert {z0 : State} (port : Fin 48) (ident : Byte) {s : State} (hk : Keeps z0 s) : KeepsR z0 (execModuleInsert port ident s) := by
  unfold execModuleInsert
  with_reducible repeat' first | dsimp only | assumption | apply KeepsR.next | apply KeepsR.fault | apply keeps_moduleInsert

theorem keeps_execModulePoll {z0 : State} (port : Fin 48) (data : Option ModuleData) {s : State} (hk : Keeps z0 s) : KeepsR z0 (execModulePoll port data s) := by
  unfold execModulePoll
  with_reducible repeat' first | dsimp only | assumption | apply KeepsR.next | apply KeepsR.fault | apply keeps_modulePoll

theorem keeps_execModuleRemoval {z0 : State} (port : Fin 48) {s : State} (hk : Keeps z0 s) : KeepsR z0 (execModuleRemoval port s) := by
  unfold execModuleRemoval
  with_reducible repeat' first | dsimp only | assumption | apply KeepsR.next | apply KeepsR.fault | apply keeps_moduleRemoval

theorem keeps_execModbusStuck {z0 : State} (bus : Fin 12) {s : State} (hk : Keeps z0 s) : KeepsR z0 (execModbusStuck bus s) := by
  unfold execModbusStuck
  with_reducible repeat' first | dsimp only | assumption | apply KeepsR.next | apply KeepsR.fault | apply keeps_modbus

theorem keeps_execModbusRecovery {z0 : State} (bus : Fin 12) (released : Bool) {s : State} (hk : Keeps z0 s) : KeepsR z0 (execModbusRecovery bus released s) := by
  unfold execModbusRecovery
  with_reducible repeat' first | dsimp only | assumption | apply KeepsR.next | apply KeepsR.fault | apply keeps_modbusRecovery

theorem keeps_execAlsHold {z0 : State} (port : Fin 48) (t : Nat) {s : State} (hk : Keeps z0 s) : KeepsR z0 (execAlsHold port t s) := by
  unfold execAlsHold
  with_reducible repeat' first | dsimp only | assumption | apply KeepsR.next | apply KeepsR.fault | apply keeps_at | apply keeps_alsHold

theorem keeps_execAlsPulse {z0 : State} (port : Fin 48) (t : Nat) {s : State} (hk : Keeps z0 s) : KeepsR z0 (execAlsPulse port t s) := by
  unfold execAlsPulse
  with_reducible repeat' first | dsimp only | assumption | apply KeepsR.next | apply KeepsR.fault | apply keeps_at | apply keeps_alsPulse

theorem keeps_execAlsPulseEnd {z0 : State} (port : Fin 48) (t : Nat) {s : State} (hk : Keeps z0 s) : KeepsR z0 (execAlsPulseEnd port t s) := by
  unfold execAlsPulseEnd
  with_reducible repeat' first | dsimp only | assumption | apply KeepsR.next | apply KeepsR.fault | apply keeps_at | apply keeps_alsPulseEnd

theorem keeps_execAlsAccount {z0 : State} (port : Fin 48) (t : Nat) {s : State} (hk : Keeps z0 s) : KeepsR z0 (execAlsAccount port t s) := by
  unfold execAlsAccount
  with_reducible repeat' first | dsimp only | assumption | apply KeepsR.next | apply KeepsR.fault | apply keeps_at | apply keeps_alsAccount

theorem keeps_alsPortCmd {z0 : State} (fn : Nat) (n : Nat) (op : Nat) {s : State} (hk : Keeps z0 s) : Keeps z0 (alsPortCmd fn n op s) := by
  unfold alsPortCmd
  with_reducible repeat' first | dsimp only | assumption | apply keeps_access | apply keeps_alsCommand | intro _

theorem keeps_execRestart {z0 : State} (fn : Fn) (port : Fin 48) (t : Nat) {s : State} (hk : Keeps z0 s) : KeepsR z0 (execRestart fn port t s) := by
  unfold execRestart
  with_reducible repeat' first | dsimp only | assumption | apply KeepsR.next | apply KeepsR.fault | apply keeps_at | apply keeps_alsPortCmd

theorem keeps_execReleaseOverblow {z0 : State} (fn : Fn) (port : Fin 48) (t : Nat) {s : State} (hk : Keeps z0 s) : KeepsR z0 (execReleaseOverblow fn port t s) := by
  unfold execReleaseOverblow
  with_reducible repeat' first | dsimp only | assumption | apply KeepsR.next | apply KeepsR.fault | apply keeps_at | apply keeps_alsPortCmd

theorem keeps_execForceOn {z0 : State} (fn : Fn) (port : Fin 48) (t : Nat) {s : State} (hk : Keeps z0 s) : KeepsR z0 (execForceOn fn port t s) := by
  unfold execForceOn
  with_reducible repeat' first | dsimp only | assumption | apply KeepsR.next | apply KeepsR.fault | apply keeps_at | apply keeps_alsPortCmd

theorem keeps_execForceOff {z0 : State} (fn : Fn) (port : Fin 48) (t : Nat) {s : State} (hk : Keeps z0 s) : KeepsR z0 (execForceOff fn port t s) := by
  unfold execForceOff
  with_reducible repeat' first | dsimp only | assumption | apply KeepsR.next | apply KeepsR.fault | apply keeps_at | apply keeps_alsPortCmd

end Sys2Proof.Machine
end

