-- ==== Sys2Proof/Laws/KeepsBurst.lean ====
section
/-! SUPPORT. What the operations of Machine/Burst.lean keep. -/

namespace Sys2Proof.Machine

theorem keeps_pxLight {z0 : State} (n : Nat) {s : State} (hk : Keeps z0 s) : Keeps z0 (pxLight n s) := by
  unfold pxLight
  with_reducible repeat' first | dsimp only | assumption | apply keeps_ite | split | apply keeps_set_px

theorem keeps_pxHeard {z0 : State} (n : Nat) (disp : Nat) (f : Nat) {s : State} (hk : Keeps z0 s) : Keeps z0 (pxHeard n disp f s) := by
  unfold pxHeard
  with_reducible repeat' first | dsimp only | assumption | apply keeps_ite | apply keeps_ite_snd | apply keeps_ite_fst | split | apply keeps_set_px

theorem keeps_pxMeasure {z0 : State} (n : Nat) (d : Int) {s : State} (hk : Keeps z0 s) : Keeps z0 (pxMeasure n d s) := by
  unfold pxMeasure
  with_reducible repeat' first | dsimp only | assumption | apply keeps_ite | apply keeps_ite_snd | apply keeps_ite_fst | split | apply keeps_set_px

theorem keeps_circuitsLost {z0 : State} (n : Nat) (w : Win) (got : List Nat) {s : State} (hk : Keeps z0 s) : Keeps z0 (circuitsLost n w got s) := by
  unfold circuitsLost
  with_reducible repeat' first | dsimp only | assumption | apply keeps_usLost | apply keeps_foldl | apply keeps_foldl_snd | apply keeps_foldl_fst | apply keeps_ite | split | intro _

theorem keeps_badEnd {z0 : State} (n : Nat) (w : Win) (code : Nat) {s : State} (hk : Keeps z0 s) : Keeps z0 (badEnd n w code s) := by
  unfold badEnd
  with_reducible repeat' first | dsimp only | assumption | apply keeps_bump | apply keeps_modCx | apply keeps_recPut | apply keeps_recAdd | apply keeps_marginScore | apply keeps_circuitsLost | apply keeps_ite | split | intro _

theorem keeps_losFrame {z0 : State} (n : Nat) {s : State} (hk : Keeps z0 s) : Keeps z0 (losFrame n s) := by
  unfold losFrame
  with_reducible repeat' first | dsimp only | assumption | apply keeps_modLane | apply keeps_modPe | apply keeps_prxLos | apply keeps_ite | split | intro _

theorem keeps_losFound {z0 : State} (n : Nat) {s : State} (hk : Keeps z0 s) : Keeps z0 (losFound n s) := by
  unfold losFound
  with_reducible repeat' first | dsimp only | assumption | apply keeps_modLane | apply keeps_modPe | apply keeps_prxLos | intro _

theorem keeps_windowEnd {z0 : State} (n : Nat) (light0 : Bool) (found0 : List DelimMatch) (comp0 : Bool) {s0 : State} (hk : Keeps z0 s0) : Keeps z0 (windowEnd n light0 found0 comp0 s0) := by
  unfold windowEnd
  with_reducible repeat' first | dsimp only | assumption | apply keeps_bump | apply keeps_when | apply keeps_modLane | apply keeps_eqSettle | apply keeps_eqLoad | apply keeps_modPe | apply keeps_recAdd | apply keeps_pxLight | apply keeps_pxMeasure | apply keeps_badEnd | apply keeps_losFrame | apply keeps_losFound | apply keeps_ite | split | intro _

theorem keeps_setPartial {z0 : State} (n : Nat) (id : Nat) (v : Bool) {s : State} (hk : Keeps z0 s) : Keeps z0 (setPartial n id v s) := by
  unfold setPartial
  with_reducible repeat' first | dsimp only | assumption | apply keeps_putE | apply keeps_ite | split

theorem keeps_dropPart {z0 : State} (n : Nat) (id : Nat) {s : State} (hk : Keeps z0 s) : Keeps z0 (dropPart n id s) := by
  unfold dropPart
  with_reducible repeat' first | dsimp only | assumption | apply keeps_bump | apply keeps_modPe | apply keeps_setPartial | split | intro _

theorem keeps_dropParts {z0 : State} (n : Nat) (c : Nat) {s : State} (hk : Keeps z0 s) : Keeps z0 (dropParts n c s) := by
  unfold dropParts
  with_reducible repeat' first | dsimp only | assumption | apply keeps_dropPart | apply keeps_foldl | apply keeps_foldl_snd | apply keeps_foldl_fst | split | intro _

theorem keeps_dropAllParts {z0 : State} (n : Nat) {s : State} (hk : Keeps z0 s) : Keeps z0 (dropAllParts n s) := by
  unfold dropAllParts
  with_reducible repeat' first | dsimp only | assumption | apply keeps_dropPart | apply keeps_foldl | apply keeps_foldl_snd | apply keeps_foldl_fst | intro _

theorem keeps_delinLoss {z0 : State} (n : Nat) (c : Nat) (sfc : Nat) {s : State} (hk : Keeps z0 s) : Keeps z0 (delinLoss n c sfc s) := by
  unfold delinLoss
  with_reducible repeat' first | dsimp only | assumption | apply keeps_bump | apply keeps_modPe | apply keeps_dropParts | intro _

theorem keeps_omciRx {z0 : State} (n : Nat) (c : Nat) (sfc : Nat) (d : List Byte) {s : State} (hk : Keeps z0 s) : Keeps z0 (omciRx n c sfc d s) := by
  unfold omciRx
  with_reducible repeat' first | dsimp only | assumption | apply keeps_bump | apply keeps_raise | apply keeps_ringPost | apply keeps_ite | apply keeps_ite_snd | split

theorem keeps_nextOrd {z0 : State} (n : Nat) (id : Nat) (sfc : Nat) {s : State} (hk : Keeps z0 s) : Keeps z0 (nextOrd n id sfc s).2 := by
  unfold nextOrd
  with_reducible repeat' first | dsimp only | assumption | apply keeps_modPe | apply keeps_ite | apply keeps_ite_snd | apply keeps_ite_fst | split | intro _

theorem keeps_lkArrive {z0 : State} (x : LkIn) {s : State} (hk : Keeps z0 s) : Keeps z0 (lkArrive x s) := by
  unfold lkArrive
  with_reducible repeat' first | dsimp only | assumption | apply keeps_bump | apply keeps_ite | split | apply keeps_set_lookups

theorem keeps_packetDone {z0 : State} (n : Nat) (c : Nat) (sfc : Nat) (id : Nat) (ord : Nat) (e : Entry) (stamps : List Stamp) (d : List Byte) {s : State} (hk : Keeps z0 s) : Keeps z0 (packetDone n c sfc id ord e stamps d s) := by
  unfold packetDone
  with_reducible repeat' first | dsimp only | assumption | apply keeps_bump | apply keeps_xgemCount | apply keeps_omciRx | apply keeps_lkArrive | apply keeps_ite | split

theorem keeps_reassemble {z0 : State} (n : Nat) (b : RxBurst) (id : Nat) (e : Entry) (last : Bool) (d : List Byte) {s : State} (hk : Keeps z0 s) : Keeps z0 (reassemble n b id e last d s) := by
  unfold reassemble
  with_reducible repeat' first | dsimp only | assumption | apply keeps_bump | apply keeps_modPe | apply keeps_setPartial | apply keeps_nextOrd | apply keeps_packetDone | apply keeps_ite | apply keeps_ite_snd | apply keeps_ite_fst | split | intro _

theorem keeps_xgemRx {z0 : State} (n : Nat) (b : RxBurst) (id : Nat) (key : Nat) (last : Bool) (d0 : List Byte) (pos : Nat) (got : List Nat) {s : State} (hk : Keeps z0 s) : Keeps z0 (xgemRx n b id key last d0 pos got s).2 := by
  unfold xgemRx
  with_reducible repeat' first | dsimp only | assumption | apply keeps_bump | apply keeps_usPayload | apply keeps_reassemble | apply keeps_ite | apply keeps_ite_snd | apply keeps_ite_fst | split

theorem keeps_intervalItems {z0 : State} (n : Nat) (b : RxBurst) (l : List UsItem) {p : List Nat × State} (hk : Keeps z0 p.2) :
    Keeps z0 (intervalItems n b l p).2 := by
  induction l generalizing p with
  | nil => exact hk
  | cons x r ih =>
    unfold intervalItems
    with_reducible repeat' first | dsimp only | assumption | apply ih | apply keeps_xgemRx | apply keeps_delinLoss | apply keeps_bump | split

theorem keeps_interval {z0 : State} (n : Nat) (b : RxBurst) (a : Alc) (v : UsInterval) (x : List Nat × State) (hk : Keeps z0 x.2) : Keeps z0 (interval n b a v x).2 := by
  unfold interval
  with_reducible repeat' first | dsimp only | assumption | apply keeps_bump | apply keeps_report | apply keeps_intervalItems | apply keeps_ite | apply keeps_ite_snd | apply keeps_ite_fst | split

theorem keeps_reportRx {z0 : State} (n : Nat) (c : Nat) (m : List Byte) {s : State} (hk : Keeps z0 s) : Keeps z0 (reportRx n c m s) := by
  unfold reportRx
  with_reducible repeat' first | dsimp only | assumption | apply keeps_marginReport

theorem keeps_ploamRx {z0 : State} (n : Nat) (c : Nat) (sfc : Nat) (m : UsPloam) {s : State} (hk : Keeps z0 s) : Keeps z0 (ploamRx n c sfc m s) := by
  unfold ploamRx
  with_reducible repeat' first | dsimp only | assumption | apply keeps_bump | apply keeps_passPloam | apply keeps_reportRx | apply keeps_ite | split

theorem keeps_decodeBurst {z0 : State} (n : Nat) (d : DecodeStats) (iv : List UsInterval) (ploam : Option UsPloam) {s : State} (hk : Keeps z0 s) : Keeps z0 (decodeBurst n d iv ploam s) := by
  unfold decodeBurst
  with_reducible repeat' first | dsimp only | assumption | apply keeps_bump | apply keeps_modPe | apply keeps_circuitsLost | apply keeps_interval | apply keeps_ploamRx | apply keeps_foldl | apply keeps_foldl_snd | apply keeps_foldl_fst | split | intro _

theorem keeps_reasmTimeout {z0 : State} (n : Nat) (id : Nat) {s : State} (hk : Keeps z0 s) : Keeps z0 (reasmTimeout n id s) := by
  unfold reasmTimeout
  with_reducible repeat' first | dsimp only | assumption | apply keeps_dropPart | apply keeps_ite | split

theorem keeps_eqdTrack {z0 : State} (n : Nat) (c : Nat) (d : Int) {s : State} (hk : Keeps z0 s) : Keeps z0 (eqdTrack n c d s) := by
  unfold eqdTrack
  with_reducible repeat' first | dsimp only | assumption | apply keeps_bump | apply keeps_modCx | apply keeps_sendEqd | apply keeps_ite | split | intro _

theorem keeps_serviceCount {z0 : State} (n : Nat) (c : Nat) (b : RxBurst) {s : State} (hk : Keeps z0 s) : Keeps z0 (serviceCount n c b s) := by
  unfold serviceCount
  with_reducible repeat' first | dsimp only | assumption | apply keeps_prbsCount | apply keeps_ite | split

theorem keeps_scoreBurst {z0 : State} (n : Nat) (bip : Nat) {s : State} (hk : Keeps z0 s) : Keeps z0 (scoreBurst n bip s) := by
  unfold scoreBurst
  with_reducible repeat' first | dsimp only | assumption | apply keeps_bump | apply keeps_modPe | apply keeps_modCx | apply keeps_recPut | apply keeps_recAdd | apply keeps_marginScore | apply keeps_alsAnswer | apply keeps_pxHeard | apply keeps_eqdTrack | apply keeps_serviceCount | apply keeps_ite | split | intro _

theorem keeps_guardLight {z0 : State} (n : Nat) {s : State} (hk : Keeps z0 s) : Keeps z0 (guardLight n s) := by
  unfold guardLight
  with_reducible repeat' first | dsimp only | assumption | apply keeps_put | apply keeps_bump | apply keeps_modPe | apply keeps_pxLight | apply keeps_ite | split | intro _

theorem keeps_rssiAdvance {z0 : State} (n : Nat) (c : Nat) {s : State} (hk : Keeps z0 s) : Keeps z0 (rssiAdvance n c s) := by
  unfold rssiAdvance
  with_reducible repeat' first | dsimp only | assumption | apply keeps_modPe | intro _

theorem keeps_rssiPulse {z0 : State} (n : Nat) (b : Burst) {s : State} (hk : Keeps z0 s) : Keeps z0 (rssiPulse n b s) := by
  unfold rssiPulse
  with_reducible repeat' first | dsimp only | assumption | apply keeps_emit | apply keeps_ite | split

theorem keeps_rssiTrig {z0 : State} (n : Nat) {s : State} (hk : Keeps z0 s) : Keeps z0 (rssiTrig n s) := by
  unfold rssiTrig
  with_reducible repeat' first | dsimp only | assumption | apply keeps_put | apply keeps_putBit | apply keeps_incWrap | apply keeps_modPe | apply keeps_rssiPulse | apply keeps_ite | apply keeps_ite_snd | apply keeps_ite_fst | split | intro _

theorem keeps_rssiSkip {z0 : State} (n : Nat) {s : State} (hk : Keeps z0 s) : Keeps z0 (rssiSkip n s) := by
  unfold rssiSkip
  with_reducible repeat' first | dsimp only | assumption | apply keeps_bump | apply keeps_rssiAdvance | apply keeps_ite | split

theorem keeps_rssiFrame {z0 : State} (n : Nat) {s : State} (hk : Keeps z0 s) : Keeps z0 (rssiFrame n s) := by
  unfold rssiFrame
  with_reducible repeat' first | dsimp only | assumption | apply keeps_modPe | apply keeps_rssiAdvance | apply keeps_ite | split | intro _

theorem keeps_rssiFetch {z0 : State} (n : Nat) (v : Nat) (late : Bool) {s : State} (hk : Keeps z0 s) : Keeps z0 (rssiFetch n v late s) := by
  unfold rssiFetch
  with_reducible repeat' first | dsimp only | assumption | apply keeps_putBit | apply keeps_bump | apply keeps_modPe | apply keeps_recPut | apply keeps_ite | split | intro _

theorem keeps_brstPulse {z0 : State} (n : Nat) {s : State} (hk : Keeps z0 s) : Keeps z0 (brstPulse n s) := by
  unfold brstPulse
  with_reducible repeat' first | dsimp only | assumption | apply keeps_emit | apply keeps_modPe | apply keeps_ite | split | intro _

theorem keeps_snClose {z0 : State} (n : Nat) {s : State} (hk : Keeps z0 s) : Keeps z0 (snClose n s) := by
  unfold snClose
  with_reducible repeat' first | dsimp only | assumption | apply keeps_when | apply keeps_modPe | split | intro _

theorem keeps_execBrstRstPulse {z0 : State} (port : Fin 48) {s : State} (hk : Keeps z0 s) : KeepsR z0 (execBrstRstPulse port s) := by
  unfold execBrstRstPulse
  with_reducible repeat' first | dsimp only | assumption | apply KeepsR.next | apply KeepsR.fault | apply keeps_brstPulse

theorem keeps_execBurstWindowEnd {z0 : State} (port : Fin 48) (signal : Bool) (found : List DelimMatch) (complement : Bool) (t : Nat) {s : State} (hk : Keeps z0 s) : KeepsR z0 (execBurstWindowEnd port signal found complement t s) := by
  unfold execBurstWindowEnd
  with_reducible repeat' first | dsimp only | assumption | apply KeepsR.next | apply KeepsR.fault | apply keeps_at | apply keeps_windowEnd

theorem keeps_execBurstDecode {z0 : State} (port : Fin 48) (stats : DecodeStats) (intervals : List UsInterval) (ploam : Option UsPloam) {s : State} (hk : Keeps z0 s) : KeepsR z0 (execBurstDecode port stats intervals ploam s) := by
  unfold execBurstDecode
  with_reducible repeat' first | dsimp only | assumption | apply KeepsR.next | apply KeepsR.fault | apply keeps_decodeBurst

theorem keeps_execReasmTimeout {z0 : State} (port : Fin 48) (id : BitVec 16) {s : State} (hk : Keeps z0 s) : KeepsR z0 (execReasmTimeout port id s) := by
  unfold execReasmTimeout
  with_reducible repeat' first | dsimp only | assumption | apply KeepsR.next | apply KeepsR.fault | apply keeps_reasmTimeout

theorem keeps_execBurstScore {z0 : State} (port : Fin 48) (bip : Nat) (t : Nat) {s : State} (hk : Keeps z0 s) : KeepsR z0 (execBurstScore port bip t s) := by
  unfold execBurstScore
  with_reducible repeat' first | dsimp only | assumption | apply KeepsR.next | apply KeepsR.fault | apply keeps_at | apply keeps_scoreBurst

theorem keeps_execGuardLight {z0 : State} (port : Fin 48) {s : State} (hk : Keeps z0 s) : KeepsR z0 (execGuardLight port s) := by
  unfold execGuardLight
  with_reducible repeat' first | dsimp only | assumption | apply KeepsR.next | apply KeepsR.fault | apply keeps_guardLight

theorem keeps_execRssiTrig {z0 : State} (port : Fin 48) {s : State} (hk : Keeps z0 s) : KeepsR z0 (execRssiTrig port s) := by
  unfold execRssiTrig
  with_reducible repeat' first | dsimp only | assumption | apply KeepsR.next | apply KeepsR.fault | apply keeps_rssiTrig

theorem keeps_execRssiSkip {z0 : State} (port : Fin 48) {s : State} (hk : Keeps z0 s) : KeepsR z0 (execRssiSkip port s) := by
  unfold execRssiSkip
  with_reducible repeat' first | dsimp only | assumption | apply KeepsR.next | apply KeepsR.fault | apply keeps_rssiSkip

theorem keeps_execRssiFetch {z0 : State} (port : Fin 48) (reading : BitVec 16) (late : Bool) {s : State} (hk : Keeps z0 s) : KeepsR z0 (execRssiFetch port reading late s) := by
  unfold execRssiFetch
  with_reducible repeat' first | dsimp only | assumption | apply KeepsR.next | apply KeepsR.fault | apply keeps_rssiFetch

theorem keeps_execSnResponse {z0 : State} (port : Fin 48) (sn : BitVec 64) (x : Nat) (msg : List Byte) (t : Nat) {s : State} (hk : Keeps z0 s) : KeepsR z0 (execSnResponse port sn x msg t s) := by
  unfold execSnResponse
  with_reducible repeat' first | dsimp only | assumption | apply KeepsR.next | apply KeepsR.fault | apply keeps_at | apply keeps_snResponse | apply keeps_alsAnswer | apply keeps_ite | apply keepsR_ite | split

end Sys2Proof.Machine
end

