-- ==== Sys2Proof/Laws/KeepsHash.lean ====
section
/-! SUPPORT. What the operations of Machine/Hash.lean keep. -/

namespace Sys2Proof.Machine

theorem keeps_drawSeed {z0 : State} (t : Nat) (g : Nat) {s : State} (hk : Keeps z0 s) : Keeps z0 (drawSeed t g s) := by
  unfold drawSeed
  with_reducible repeat' first | dsimp only | assumption | apply keeps_draw | apply keeps_set_lk

theorem keeps_drawSeeds {z0 : State} {s : State} (hk : Keeps z0 s) : Keeps z0 (drawSeeds s) := by
  unfold drawSeeds
  with_reducible repeat' first | dsimp only | assumption | apply keeps_forN | apply keeps_drawSeed | intro _

theorem keeps_probeRetry {z0 : State} (t : Nat) (key : Entry) {s : State} (hk : Keeps z0 s) : Keeps z0 (probeRetry t key s) := by
  unfold probeRetry
  with_reducible repeat' first | dsimp only | assumption | apply keeps_bump | apply keeps_draw | apply keeps_ite | apply keeps_ite_snd | apply keeps_ite_fst | split | intro _

theorem keeps_lkProbe {z0 : State} (t : Nat) (key : Entry) {s : State} (hk : Keeps z0 s) : Keeps z0 (lkProbe t key s).2 := by
  unfold lkProbe
  with_reducible repeat' first | dsimp only | assumption | apply keeps_probeRetry

theorem keeps_lkFill {z0 : State} (t : Nat) (i : Nat) (e : Entry) (flip : Bool) {s : State} (hk : Keeps z0 s) : Keeps z0 (lkFill t i e flip s) := by
  unfold lkFill
  with_reducible repeat' first | dsimp only | assumption | apply keeps_setEnt | apply keeps_ite | split

theorem keeps_lkEmpty {z0 : State} (t : Nat) (i : Nat) (flip : Bool) {s : State} (hk : Keeps z0 s) : Keeps z0 (lkEmpty t i flip s) := by
  unfold lkEmpty
  with_reducible repeat' first | dsimp only | assumption | apply keeps_setEnt | apply keeps_ite | split

theorem keeps_lkMove {z0 : State} (t : Nat) (i : Nat) (j : Nat) (e : Entry) {s : State} (hk : Keeps z0 s) : Keeps z0 (lkMove t i j e s) := by
  unfold lkMove
  with_reducible repeat' first | dsimp only | assumption | apply keeps_lkFill | apply keeps_lkEmpty | apply keeps_set_lk

theorem keeps_relocate {z0 : State} (t : Nat) (i : Nat) (j : Nat) {s : State} (hk : Keeps z0 s) : Keeps z0 (relocate t i j s) := by
  unfold relocate
  with_reducible repeat' first | dsimp only | assumption | apply keeps_lkMove

theorem keeps_freeChainFor {z0 : State} (t : Nat) (y0 : Nat) (y1 : List Nat) {y2 : State} (hk : Keeps z0 y2) : Keeps z0 (freeChainFor t y0 y1 y2).2 := by
  revert hk
  fun_induction freeChainFor t y0 y1 y2 <;> intro hk
  all_goals with_reducible repeat' first | dsimp only | assumption | apply_assumption | apply keeps_draw | split | intro _

theorem keeps_runChain {z0 : State} (t : Nat) (y0 : List Nat) (y1 : Nat) {y2 : State} (hk : Keeps z0 y2) : Keeps z0 (runChain t y0 y1 y2).2 := by
  revert hk
  fun_induction runChain t y0 y1 y2 <;> intro hk
  all_goals with_reducible repeat' first | assumption | apply keeps_relocate | apply_assumption | dsimp only

theorem keeps_lkPlace {z0 : State} (t : Nat) (g : Nat) (key : Entry) {s : State} (hk : Keeps z0 s) : Keeps z0 (lkPlace t g key s).2.2 := by
  unfold lkPlace
  with_reducible repeat' first | assumption | apply keeps_draw | apply keeps_freeChainFor | apply keeps_runChain | split | dsimp only

theorem keeps_hpLevel {z0 : State} {s : State} (hk : Keeps z0 s) : Keeps z0 (hpLevel s) := by
  unfold hpLevel
  with_reducible repeat' first | dsimp only | assumption | apply keeps_levelTo | intro _

theorem keeps_hpEval {z0 : State} (t : Nat) {s : State} (hk : Keeps z0 s) : Keeps z0 (hpEval t s) := by
  unfold hpEval
  with_reducible repeat' first | dsimp only | assumption | apply keeps_put | apply keeps_putBit | apply keeps_hpLevel | apply keeps_ite | split | apply keeps_set_lk

theorem keeps_hashPressure {z0 : State} (t : Nat) {s : State} (hk : Keeps z0 s) : Keeps z0 (hashPressure t s) := by
  unfold hashPressure
  with_reducible repeat' first | dsimp only | assumption | apply keeps_putBit | apply keeps_hpLevel | apply keeps_ite | split

theorem keeps_relocSecond {z0 : State} (t : Nat) {s : State} (hk : Keeps z0 s) : Keeps z0 (relocSecond t s) := by
  unfold relocSecond
  with_reducible repeat' first | dsimp only | assumption | apply keeps_put | apply keeps_hpEval | apply keeps_ite | apply keeps_ite_snd | apply keeps_ite_fst | split | apply keeps_set_lk

theorem keeps_filtSet {z0 : State} (e : Entry) {s : State} (hk : Keeps z0 s) : Keeps z0 (filtSet e s) := by
  unfold filtSet
  with_reducible repeat' first | dsimp only | assumption | apply keeps_ite | split | apply keeps_set_lk

theorem keeps_bdCount {z0 : State} (bd : Nat) (up : Bool) {s : State} (hk : Keeps z0 s) : Keeps z0 (bdCount bd up s) := by
  unfold bdCount
  with_reducible repeat' first | dsimp only | assumption | apply keeps_putE | apply keeps_ite | split

theorem keeps_lkInsert {z0 : State} (t : Nat) (e : Entry) {s : State} (hk : Keeps z0 s) : Keeps z0 (lkInsert t e s).2.2 := by
  unfold lkInsert
  with_reducible repeat' first | dsimp only | assumption | apply keeps_lkFill | apply keeps_lkPlace | apply keeps_hpEval | apply keeps_filtSet | apply keeps_bdCount | apply keeps_ite | apply keeps_ite_snd | apply keeps_ite_fst | split | apply keeps_set_lk

theorem keeps_lkRemove {z0 : State} (t : Nat) (i : Nat) {s : State} (hk : Keeps z0 s) : Keeps z0 (lkRemove t i s) := by
  unfold lkRemove
  with_reducible repeat' first | dsimp only | assumption | apply keeps_lkEmpty | apply keeps_hpEval | apply keeps_bdCount | apply keeps_ite | split

theorem keeps_reseedStart {z0 : State} (t : Nat) (auto : Bool) {s : State} (hk : Keeps z0 s) : Keeps z0 (reseedStart t auto s) := by
  unfold reseedStart
  with_reducible repeat' first | dsimp only | assumption | apply keeps_put | apply keeps_putBit | apply keeps_bump | apply keeps_drawSeed | apply keeps_ite | split | apply keeps_set_lk

theorem keeps_migrateOne {z0 : State} (t : Nat) (g : Nat) (ident : Nat) {s : State} (hk : Keeps z0 s) : Keeps z0 (migrateOne t g ident s) := by
  unfold migrateOne
  with_reducible repeat' first | dsimp only | assumption | apply keeps_setEnt | apply keeps_lkMove | apply keeps_lkPlace | split | intro _

theorem keeps_migrateStep {z0 : State} {s : State} (hk : Keeps z0 s) : Keeps z0 (migrateStep s) := by
  unfold migrateStep
  with_reducible repeat' first | dsimp only | assumption | apply keeps_put | apply keeps_migrateOne | apply keeps_ite | split

theorem keeps_reseedDone {z0 : State} {s : State} (hk : Keeps z0 s) : Keeps z0 (reseedDone s) := by
  unfold reseedDone
  with_reducible repeat' first | dsimp only | assumption | apply keeps_put | apply keeps_putBit | apply keeps_raise | apply keeps_hpEval | apply keeps_migrateOne | apply keeps_foldl | apply keeps_foldl_snd | apply keeps_foldl_fst | apply keeps_ite | apply keeps_ite_snd | split | intro _ | apply keeps_set_lk

theorem keeps_reseedCmd {z0 : State} (w : Nat) {s : State} (hk : Keeps z0 s) : Keeps z0 (reseedCmd w s) := by
  unfold reseedCmd
  with_reducible repeat' first | dsimp only | assumption | apply keeps_putBit | apply keeps_reseedStart | apply keeps_ite | split

theorem keeps_filtRebuild {z0 : State} {s : State} (hk : Keeps z0 s) : Keeps z0 (filtRebuild s) := by
  unfold filtRebuild
  with_reducible repeat' first | dsimp only | assumption | apply keeps_putBit | apply keeps_filtSet | apply keeps_foldl | apply keeps_foldl_snd | apply keeps_foldl_fst | apply keeps_ite | apply keeps_ite_snd | split | intro _ | apply keeps_set_lk

theorem keeps_execHashPressure {z0 : State} (tbl : Fin 3) (t : Nat) {s : State} (hk : Keeps z0 s) : KeepsR z0 (execHashPressure tbl t s) := by
  unfold execHashPressure
  with_reducible repeat' first | dsimp only | assumption | apply KeepsR.next | apply KeepsR.fault | apply keeps_at | apply keeps_hashPressure

theorem keeps_execReseedStart {z0 : State} (fn : Fn) (w : Word) (t : Nat) {s : State} (hk : Keeps z0 s) : KeepsR z0 (execReseedStart fn w t s) := by
  unfold execReseedStart
  with_reducible repeat' first | dsimp only | assumption | apply KeepsR.next | apply KeepsR.fault | apply keeps_at | apply keeps_hostWrite | apply keeps_reseedCmd | intro _

theorem keeps_execReseedAuto {z0 : State} (tbl : Fin 3) (t : Nat) {s0 : State} (hk : Keeps z0 s0) : KeepsR z0 (execReseedAuto tbl t s0) := by
  unfold execReseedAuto
  with_reducible repeat' first | dsimp only | assumption | apply KeepsR.next | apply KeepsR.fault | apply keeps_at | apply keeps_reseedStart | apply keeps_ite | apply keepsR_ite | split

theorem keeps_execReseedDone {z0 : State} (t : Nat) {s : State} (hk : Keeps z0 s) : KeepsR z0 (execReseedDone t s) := by
  unfold execReseedDone
  with_reducible repeat' first | dsimp only | assumption | apply KeepsR.next | apply KeepsR.fault | apply keeps_at | apply keeps_reseedDone

theorem keeps_execRebuild {z0 : State} (fn : Fn) (w : Word) {s : State} (hk : Keeps z0 s) : KeepsR z0 (execRebuild fn w s) := by
  unfold execRebuild
  with_reducible repeat' first | dsimp only | assumption | apply KeepsR.next | apply KeepsR.fault | apply keeps_hostWrite | apply keeps_filtRebuild | intro _

theorem keeps_execRebuildDone {z0 : State} {s : State} (hk : Keeps z0 s) : KeepsR z0 (execRebuildDone s) := by
  unfold execRebuildDone
  with_reducible repeat' first | dsimp only | assumption | apply KeepsR.next | apply KeepsR.fault | apply keeps_putBit | apply keeps_incWrap | apply keeps_ite | apply keepsR_ite | split | apply keeps_set_lk

end Sys2Proof.Machine
end

