-- ==== Sys2Proof/Laws/KeepsForward.lean ====
section
/-! SUPPORT. What the operations of Machine/Forward.lean keep. -/

namespace Sys2Proof.Machine

theorem keeps_lkCount {z0 : State} (c : Ctr) {s : State} (hk : Keeps z0 s) : Keeps z0 (lkCount c s) := by
  unfold lkCount
  with_reducible repeat' first | dsimp only | assumption | apply keeps_bump

theorem keeps_classify {z0 : State} (src : Nat) (xgem : Nat) (d : List Byte) {s : State} (hk : Keeps z0 s) : Keeps z0 (classify src xgem d s).2 := by
  unfold classify
  with_reducible repeat' first | dsimp only | assumption | apply keeps_setEnt | apply keeps_lkProbe | apply keeps_lkCount | split

theorem keeps_setHit {z0 : State} (i : Nat) {s : State} (hk : Keeps z0 s) : Keeps z0 (setHit i s) := by
  unfold setHit
  with_reducible repeat' first | dsimp only | assumption | apply keeps_putE

theorem keeps_macMove {z0 : State} (i : Nat) (src : Nat) (dest : Nat × Nat) {s : State} (hk : Keeps z0 s) : Keeps z0 (macMove i src dest s) := by
  unfold macMove
  with_reducible repeat' first | dsimp only | assumption | apply keeps_setEnt | apply keeps_lkCount | apply keeps_set_lk

theorem keeps_learnStage {z0 : State} (src : Nat) (res : Entry) (sa : Nat) {s0 : State} (hk : Keeps z0 s0) : Keeps z0 (learnStage src res sa s0).2 := by
  unfold learnStage
  with_reducible repeat' first | dsimp only | assumption | apply keeps_lkProbe | apply keeps_lkCount | apply keeps_setHit | apply keeps_macMove | apply keeps_ite | apply keeps_ite_snd | apply keeps_ite_fst | split | intro _ | apply keeps_set_lk

theorem keeps_learn {z0 : State} {s : State} (hk : Keeps z0 s) : Keeps z0 (learn s) := by
  unfold learn
  with_reducible repeat' first | dsimp only | assumption | apply keeps_raise | apply keeps_lkInsert | apply keeps_lkCount | apply keeps_ite | apply keeps_ite_snd | apply keeps_ite_fst | split | apply keeps_set_lk

theorem keeps_macMoveStorm {z0 : State} {s : State} (hk : Keeps z0 s) : Keeps z0 (macMoveStorm s) := by
  unfold macMoveStorm
  with_reducible repeat' first | dsimp only | assumption | apply keeps_put | apply keeps_raise | apply keeps_forN | apply keeps_relocSecond | apply keeps_foldl | apply keeps_foldl_snd | apply keeps_foldl_fst | apply keeps_ite | apply keeps_ite_snd | apply keeps_ite_fst | split | intro _ | apply keeps_set_lk

theorem keeps_freezeExpiry {z0 : State} (src : Nat) {s : State} (hk : Keeps z0 s) : Keeps z0 (freezeExpiry src s) := by
  unfold freezeExpiry
  with_reducible repeat' first | dsimp only | assumption | apply keeps_ite | split | apply keeps_set_lk

theorem keeps_destQueues {z0 : State} (bd : Nat) (res : Entry) (uni : Bool) (p : Nat × Nat) (route : Option (Nat × Nat)) {s : State} (hk : Keeps z0 s) : Keeps z0 (destQueues bd res uni p route s).2 := by
  unfold destQueues
  with_reducible repeat' first | dsimp only | assumption | apply keeps_bump | apply keeps_lkCount | apply keeps_ite | apply keeps_ite_snd | apply keeps_ite_fst | split | intro _

theorem keeps_l2Unicast {z0 : State} (bd : Nat) (da : Nat) {s : State} (hk : Keeps z0 s) : Keeps z0 (l2Unicast bd da s).2.2.2 := by
  unfold l2Unicast
  with_reducible repeat' first | dsimp only | assumption | apply keeps_lkProbe | apply keeps_lkCount | apply keeps_setHit | split

theorem keeps_bridge {z0 : State} (res : Entry) (d : List Byte) {s : State} (hk : Keeps z0 s) : Keeps z0 (bridge res d s).2 := by
  unfold bridge
  with_reducible repeat' first | dsimp only | assumption | apply keeps_destQueues | apply keeps_l2Unicast | apply keeps_ite | apply keeps_ite_snd | apply keeps_ite_fst | split

theorem keeps_probeLens {z0 : State} (vrf : Nat) (fam : Nat) (addr : Nat) {s : State} (hk : Keeps z0 s) : Keeps z0 (probeLens vrf fam addr s) := by
  unfold probeLens
  with_reducible repeat' first | dsimp only | assumption | apply keeps_probeRetry | apply keeps_foldl | apply keeps_foldl_snd | apply keeps_foldl_fst | intro _

theorem keeps_routeHop {z0 : State} (res : Entry) (d : List Byte) {s : State} (hk : Keeps z0 s) : Keeps z0 (routeHop res d s).2.2 := by
  unfold routeHop
  with_reducible repeat' first | dsimp only | assumption | apply keeps_lkCount | apply keeps_probeLens | apply keeps_ite | apply keeps_ite_snd | apply keeps_ite_fst | split

theorem keeps_routePkt {z0 : State} (res : Entry) (d : List Byte) {s : State} (hk : Keeps z0 s) : Keeps z0 (routePkt res d s).2 := by
  have h := keeps_routeHop res d hk
  unfold routePkt
  split
  · rename_i e; rw [e] at h; exact keeps_destQueues _ _ _ _ _ (keeps_l2Unicast _ _ h)
  · rename_i e; rw [e] at h; exact h

theorem keeps_forward {z0 : State} (res : Entry) (d : List Byte) {s : State} (hk : Keeps z0 s) : Keeps z0 (forward res d s).2 := by
  unfold forward
  with_reducible repeat' first | dsimp only | assumption | apply keeps_lkCount | apply keeps_destQueues | apply keeps_bridge | apply keeps_routePkt | split

theorem keeps_streamForward {z0 : State} (res : Entry) (d : List Byte) {s : State} (hk : Keeps z0 s) : Keeps z0 (streamForward res d s).2 := by
  unfold streamForward
  with_reducible repeat' first | dsimp only | assumption | apply keeps_routeHop | apply keeps_forward | split

theorem keeps_puntPost {z0 : State} (stat : Nat) (x : LkIn) {s : State} (hk : Keeps z0 s) : Keeps z0 (puntPost stat x s) := by
  unfold puntPost
  with_reducible repeat' first | dsimp only | assumption | apply keeps_ringPost | apply keeps_ite | apply keeps_ite_snd | split

theorem keeps_punt {z0 : State} (stat : Nat) (x : LkIn) {s : State} (hk : Keeps z0 s) : Keeps z0 (punt stat x s) := by
  unfold punt
  with_reducible repeat' first | dsimp only | assumption | apply keeps_alloc | apply keeps_free | apply keeps_ringDrop | apply keeps_forget | apply keeps_puntPost | split | apply keeps_set_tm

theorem keeps_strmCount {z0 : State} (i : Nat) (w : Nat) (sat : Bool) (k : Nat) {s : State} (hk : Keeps z0 s) : Keeps z0 (strmCount i w sat k s) := by
  unfold strmCount
  with_reducible repeat' first | dsimp only | assumption | apply keeps_setEnt | apply keeps_ite | split

theorem keeps_streamOf {z0 : State} (src : Nat) (xgem : Nat) (res : Entry) {s : State} (hk : Keeps z0 s) : Keeps z0 (streamOf src xgem res s).2 := by
  unfold streamOf
  with_reducible repeat' first | dsimp only | assumption | apply keeps_strmCount | apply keeps_ite | apply keeps_ite_snd | apply keeps_ite_fst | split

theorem keeps_setRcv {z0 : State} {s : State} (i : Nat) (r : Recov) (hk : Keeps z0 s) : Keeps z0 (State.setRcv s i r) := by
  unfold State.setRcv
  with_reducible repeat' first | dsimp only | assumption | apply keeps_set_ul

theorem keeps_replicate {z0 : State} (i : Nat) (x : LkIn) {s : State} (hk : Keeps z0 s) : Keeps z0 (replicate i x s).2 := by
  unfold replicate
  with_reducible repeat' first | dsimp only | assumption | apply keeps_put | apply keeps_putE | apply keeps_raise | apply keeps_strmCount | apply keeps_setRcv | apply keeps_ite | apply keeps_ite_snd | apply keeps_ite_fst | split | apply keeps_set_ul

theorem keeps_elimReset {z0 : State} (i : Nat) {s : State} (hk : Keeps z0 s) : Keeps z0 (elimReset i s) := by
  unfold elimReset
  with_reducible repeat' first | dsimp only | assumption | apply keeps_putE | apply keeps_setRcv

theorem keeps_elimTimeout {z0 : State} (i : Nat) {s : State} (hk : Keeps z0 s) : Keeps z0 (elimTimeout i s) := by
  unfold elimTimeout
  with_reducible repeat' first | dsimp only | assumption | apply keeps_elimReset | apply keeps_ite | split

theorem keeps_elimOverrun {z0 : State} (i : Nat) {s : State} (hk : Keeps z0 s) : Keeps z0 (elimOverrun i s) := by
  unfold elimOverrun
  with_reducible repeat' first | dsimp only | assumption | apply keeps_put | apply keeps_raise | apply keeps_elimReset | apply keeps_ite | split | apply keeps_set_ul

theorem keeps_eliminate {z0 : State} (i : Nat) (d : List Byte) {s0 : State} (hk : Keeps z0 s0) : Keeps z0 (eliminate i d s0).2 := by
  unfold eliminate
  with_reducible repeat' first | dsimp only | assumption | apply keeps_putE | apply keeps_strmCount | apply keeps_setRcv | apply keeps_elimTimeout | apply keeps_elimOverrun | apply keeps_ite | apply keeps_ite_snd | apply keeps_ite_fst | split | intro _

theorem keeps_ctiEntry {z0 : State} (x : Option (Word × Nat × Nat)) {s : State} (hk : Keeps z0 s) : Keeps z0 (ctiEntry x s) := by
  unfold ctiEntry
  with_reducible repeat' first | dsimp only | assumption | apply keeps_incSat | apply keeps_bump | apply keeps_setEnt | apply keeps_forN | apply keeps_modGp | split | intro _

theorem keeps_ctiRx {z0 : State} (x : LkIn) (m : CtiMsg) {s : State} (hk : Keeps z0 s) : Keeps z0 (ctiRx x m s) := by
  unfold ctiRx
  with_reducible repeat' first | dsimp only | assumption | apply keeps_report | apply keeps_lkCount | apply keeps_punt | apply keeps_ctiEntry | apply keeps_foldl | apply keeps_foldl_snd | apply keeps_foldl_fst | split | intro _

theorem keeps_shadowDests {z0 : State} (x : LkIn) (l : List (Nat × Nat)) {s : State} (hk : Keeps z0 s) : Keeps z0 (shadowDests x l s).2 := by
  unfold shadowDests
  with_reducible repeat' first | dsimp only | assumption | apply keeps_bump | apply keeps_ite | apply keeps_ite_snd | apply keeps_ite_fst | split | intro _

theorem keeps_lkOffer {z0 : State} (x : LkIn) (res : Entry) (dests : List (Nat × Nat)) (ed : Edits) {s : State} (hk : Keeps z0 s) : Keeps z0 (lkOffer x res dests ed s) := by
  unfold lkOffer
  with_reducible repeat' first | dsimp only | assumption | apply keeps_offer | apply keeps_policer | apply keeps_ite | apply keeps_ite_snd | apply keeps_ite_fst | split

theorem keeps_lookupOne {z0 : State} (x : LkIn) (cti : CtiMsg) {s0 : State} (hk : Keeps z0 s0) : Keeps z0 (lookupOne x cti s0) := by
  unfold lookupOne
  with_reducible repeat' first | dsimp only | assumption | apply keeps_lkCount | apply keeps_classify | apply keeps_learnStage | apply keeps_forward | apply keeps_streamForward | apply keeps_punt | apply keeps_streamOf | apply keeps_replicate | apply keeps_eliminate | apply keeps_ctiRx | apply keeps_shadowDests | apply keeps_lkOffer | apply keeps_ite | apply keeps_ite_snd | apply keeps_ite_fst | split

theorem keeps_lookupPass {z0 : State} (cti : CtiMsg) {s : State} (hk : Keeps z0 s) : Keeps z0 (lookupPass cti s) := by
  unfold lookupPass
  with_reducible repeat' first | dsimp only | assumption | apply keeps_lookupOne | split | intro _ | apply keeps_set_lk | apply keeps_set_lookups_lk

theorem keeps_strmWrite {z0 : State} (i : Nat) (d : Entry) {s : State} (hk : Keeps z0 s) : Keeps z0 (strmWrite i d s).2 := by
  unfold strmWrite
  with_reducible repeat' first | dsimp only | assumption | apply keeps_setEnt | apply keeps_cfgRej | apply keeps_setRcv | apply keeps_foldl | apply keeps_foldl_snd | apply keeps_foldl_fst | apply keeps_ite | apply keeps_ite_snd | apply keeps_ite_fst | split | intro _

theorem keeps_execLookupPass {z0 : State} (cti : CtiMsg) (t : Nat) {s : State} (hk : Keeps z0 s) : KeepsR z0 (execLookupPass cti t s) := by
  unfold execLookupPass
  with_reducible repeat' first | dsimp only | assumption | apply KeepsR.next | apply KeepsR.fault | apply keeps_at | apply keeps_lookupPass

theorem keeps_execLearn {z0 : State} (t : Nat) {s : State} (hk : Keeps z0 s) : KeepsR z0 (execLearn t s) := by
  unfold execLearn
  with_reducible repeat' first | dsimp only | assumption | apply KeepsR.next | apply KeepsR.fault | apply keeps_at | apply keeps_learn

theorem keeps_execMacMoveStorm {z0 : State} (t : Nat) {s : State} (hk : Keeps z0 s) : KeepsR z0 (execMacMoveStorm t s) := by
  unfold execMacMoveStorm
  with_reducible repeat' first | dsimp only | assumption | apply KeepsR.next | apply KeepsR.fault | apply keeps_at | apply keeps_macMoveStorm

theorem keeps_execFreezeExpiry {z0 : State} (src : Fin 64) (t : Nat) {s : State} (hk : Keeps z0 s) : KeepsR z0 (execFreezeExpiry src t s) := by
  unfold execFreezeExpiry
  with_reducible repeat' first | dsimp only | assumption | apply KeepsR.next | apply KeepsR.fault | apply keeps_at | apply keeps_freezeExpiry

theorem keeps_execElimReset {z0 : State} (stream : Fin 4096) (t : Nat) {s : State} (hk : Keeps z0 s) : KeepsR z0 (execElimReset stream t s) := by
  unfold execElimReset
  with_reducible repeat' first | dsimp only | assumption | apply KeepsR.next | apply KeepsR.fault | apply keeps_at | apply keeps_elimTimeout

theorem keeps_execUlElimOverrun {z0 : State} (stream : Fin 4096) (t : Nat) {s : State} (hk : Keeps z0 s) : KeepsR z0 (execUlElimOverrun stream t s) := by
  unfold execUlElimOverrun
  with_reducible repeat' first | dsimp only | assumption | apply KeepsR.next | apply KeepsR.fault | apply keeps_at | apply keeps_elimOverrun

end Sys2Proof.Machine
end

