-- ==== Sys2Proof/Laws/KeepsEgress.lean ====
section
/-! SUPPORT. What the operations of Machine/Egress.lean keep. -/

namespace Sys2Proof.Machine

theorem keeps_ulStat {z0 : State} (g : Nat) (w : Nat) (sat : Bool) (k : Nat) {s : State} (hk : Keeps z0 s) : Keeps z0 (ulStat g w sat k s) := by
  unfold ulStat
  with_reducible repeat' first | dsimp only | assumption | apply keeps_setEnt | apply keeps_ite | split

theorem keeps_ulStat2 {z0 : State} (g : Nat) (w : Nat) (k : Nat) {s : State} (hk : Keeps z0 s) : Keeps z0 (ulStat2 g w k s) := by
  unfold ulStat2
  with_reducible repeat' first | dsimp only | assumption | apply keeps_setEnt

theorem keeps_ulSend {z0 : State} (g : Nat) (h : Nat) {s : State} (hk : Keeps z0 s) : Keeps z0 (ulSend g h s) := by
  unfold ulSend
  with_reducible repeat' first | dsimp only | assumption | apply keeps_incSat | apply keeps_emit | apply keeps_injMark | apply keeps_dropRef | apply keeps_sentRef | apply keeps_ulStat | apply keeps_ulStat2 | apply keeps_ite | apply keeps_ite_snd | apply keeps_ite_fst | split | intro _

theorem keeps_gateHead {z0 : State} (tree : Nat) (tid : Nat) (q : Nat) {s : State} (hk : Keeps z0 s) : Keeps z0 (gateHead tree tid q s) := by
  unfold gateHead
  with_reducible repeat' first | dsimp only | assumption | apply keeps_bump | apply keeps_setTmq | apply keeps_ite | split

theorem keeps_gtOversize {z0 : State} (tree : Nat) (q : Nat) {s0 : State} (hk : Keeps z0 s0) : Keeps z0 (gtOversize tree q s0) := by
  unfold gtOversize
  with_reducible repeat' first | dsimp only | assumption | apply keeps_bump | apply keeps_popQueue | apply keeps_dropRef | apply keeps_gateHead | apply keeps_ite | split

theorem keeps_handOver {z0 : State} (h : Nat) (eng : Nat) {s : State} (hk : Keeps z0 s) : Keeps z0 (handOver h eng s) := by
  unfold handOver
  with_reducible repeat' first | dsimp only | assumption | apply keeps_share | apply keeps_ite | split

theorem keeps_toEncap {z0 : State} (n : Nat) (h : Nat) (xgem : Nat) (len : Nat) {s : State} (hk : Keeps z0 s) : Keeps z0 (toEncap n h xgem len s) := by
  unfold toEncap
  with_reducible repeat' first | dsimp only | assumption | apply keeps_bump | apply keeps_modPe | apply keeps_dropRef | apply keeps_ite | split | intro _

theorem keeps_tmDequeue {z0 : State} (tree : Nat) {s0 : State} (hk : Keeps z0 s0) : Keeps z0 (tmDequeue tree s0) := by
  unfold tmDequeue
  with_reducible repeat' first | dsimp only | assumption | apply keeps_bump | apply keeps_setGlist | apply keeps_selectPath | apply keeps_chargeNode | apply keeps_popQueue | apply keeps_dropRef | apply keeps_latSample | apply keeps_ulSend | apply keeps_gateHead | apply keeps_handOver | apply keeps_toEncap | apply keeps_foldl | apply keeps_foldl_snd | apply keeps_foldl_fst | apply keeps_ite | apply keeps_ite_snd | apply keeps_ite_fst | split | intro _

theorem keeps_execTmDequeue {z0 : State} (uplink : Bool) (n : Fin 48) (t : Nat) {s : State} (hk : Keeps z0 s) : KeepsR z0 (execTmDequeue uplink n t s) := by
  unfold execTmDequeue
  with_reducible repeat' first | dsimp only | assumption | apply KeepsR.next | apply KeepsR.fault | apply keeps_at | apply keeps_dfcSettle | apply keeps_tmDequeue

theorem keeps_execGtOversize {z0 : State} (list : Fin 64) (queue : Nat) (t : Nat) {s : State} (hk : Keeps z0 s) : KeepsR z0 (execGtOversize list queue t s) := by
  unfold execGtOversize
  with_reducible repeat' first | dsimp only | assumption | apply KeepsR.next | apply KeepsR.fault | apply keeps_at | apply keeps_gtOversize

end Sys2Proof.Machine
end

