-- ==== Sys2Proof/Laws/KeepsHostPort.lean ====
section
/-! SUPPORT. What the operations of Machine/HostPort.lean keep. -/

namespace Sys2Proof.Machine

theorem keeps_doorbell {z0 : State} (fn : Nat) (r : Nat) (off : Nat) (act : State → State) {s : State} (hkact : ∀ x0, Keeps z0 x0 → Keeps z0 (act x0)) (hk : Keeps z0 s) : Keeps z0 (doorbell fn r off act s) := by
  unfold doorbell
  with_reducible repeat' first | dsimp only | assumption | apply keeps_violation | apply hkact | apply keeps_ite | split

theorem keeps_ringProduce {z0 : State} (r : Nat) (v : Nat) (slots : List (List Byte)) {s : State} (hk : Keeps z0 s) : Keeps z0 (ringProduce r v slots s) := by
  unfold ringProduce
  dsimp only
  with_reducible repeat' first | assumption | apply keeps_ite | apply keeps_ringDrop | apply keeps_ringPut
  refine Keeps.hostMem hk (fun h => memWrite_foldl_wf _ _ _ _ h)

theorem keeps_ringConsume {z0 : State} (r : Nat) (v : Nat) {s : State} (hk : Keeps z0 s) : Keeps z0 (ringConsume r v s) := by
  unfold ringConsume
  with_reducible repeat' first | dsimp only | assumption | apply keeps_ringPut | apply keeps_ringDrop | apply keeps_ite | split

theorem keeps_inject {z0 : State} {s0 : State} (hk : Keeps z0 s0) : Keeps z0 (inject s0) := by
  unfold inject
  with_reducible repeat' first | dsimp only | assumption | apply keeps_ringPeek | apply keeps_ringTake | apply keeps_ringStop | apply keeps_injCpl | apply keeps_tmEnqueue | apply keeps_tmRefuse | apply keeps_replicate | apply keeps_ite | apply keeps_ite_snd | apply keeps_ite_fst | split

theorem keeps_ringOff {z0 : State} (r : Nat) {s : State} (hk : Keeps z0 s) : Keeps z0 (ringOff r s) := by
  unfold ringOff
  with_reducible repeat' first | dsimp only | assumption | apply keeps_ringPut | apply keeps_ite | split | apply keeps_set_hx

theorem keeps_flr {z0 : State} (fn : Nat) {s : State} (hk : Keeps z0 s) : Keeps z0 (flr fn s) := by
  unfold flr
  with_reducible repeat' first | dsimp only | assumption | apply keeps_setVec | apply keeps_forN | apply keeps_ringOff | apply keeps_foldl | apply keeps_foldl_snd | apply keeps_foldl_fst | intro _

theorem keeps_hxLinkDown {z0 : State} {s : State} (hk : Keeps z0 s) : Keeps z0 (hxLinkDown s) := by
  unfold hxLinkDown
  with_reducible repeat' first | dsimp only | assumption | apply keeps_putBit | apply keeps_levelTo

theorem keeps_hxLinkUp {z0 : State} (cxl : Bool) (width : Nat) (speed : Nat) {s : State} (hk : Keeps z0 s) : Keeps z0 (hxLinkUp cxl width speed s) := by
  unfold hxLinkUp
  with_reducible repeat' first | dsimp only | assumption | apply keeps_put | apply keeps_putBit | apply keeps_levelTo

theorem keeps_ringDmaError {z0 : State} (r : Nat) {s : State} (hk : Keeps z0 s) : Keeps z0 (ringDmaError r s) := by
  unfold ringDmaError
  with_reducible repeat' first | dsimp only | assumption | apply keeps_ringStop | apply keeps_ite | split

theorem keeps_levelAct {z0 : State} {s : State} (hk : Keeps z0 s) : Keeps z0 (levelAct s) := by
  unfold levelAct
  with_reducible repeat' first | dsimp only | assumption | apply keeps_put | apply keeps_settle | apply keeps_raise | apply keeps_forN | apply keeps_tbStat | apply keeps_ite | split | intro _

theorem keeps_msixMask {z0 : State} (fn : Nat) (v : Nat) (m : Bool) {s : State} (hk : Keeps z0 s) : Keeps z0 (msixMask fn v m s) := by
  unfold msixMask
  with_reducible repeat' first | dsimp only | assumption | apply keeps_setVec | apply keeps_message | apply keeps_ite | split

theorem keeps_gapExpiry {z0 : State} (fn : Nat) (v : Nat) {s : State} (hk : Keeps z0 s) : Keeps z0 (gapExpiry fn v s) := by
  unfold gapExpiry
  with_reducible repeat' first | dsimp only | assumption | apply keeps_setVec | apply keeps_message | apply keeps_ite | split

theorem keeps_indexRead {z0 : State} (fn : Nat) (r : Nat) {s : State} (hk : Keeps z0 s) : Keeps z0 (indexRead fn r s) := by
  unfold indexRead
  with_reducible repeat' first | dsimp only | assumption | apply keeps_emit | apply keeps_violation | apply keeps_ite | split

theorem keeps_execRingDoorbell {z0 : State} (fn : Fn) (ring : Fin 244) (w : Option Word) (slots : List (List Byte)) {s : State} (hk : Keeps z0 s) : KeepsR z0 (execRingDoorbell fn ring w slots s) := by
  unfold execRingDoorbell
  with_reducible repeat' first | dsimp only | assumption | apply KeepsR.next | apply KeepsR.fault | apply keeps_doorbell | apply keeps_ringProduce | apply keeps_indexRead | split

theorem keeps_execRingCidxWrite {z0 : State} (fn : Fn) (ring : Fin 244) (w : Word) {s : State} (hk : Keeps z0 s) : KeepsR z0 (execRingCidxWrite fn ring w s) := by
  unfold execRingCidxWrite
  with_reducible repeat' first | dsimp only | assumption | apply KeepsR.next | apply KeepsR.fault | apply keeps_doorbell | apply keeps_ringConsume

theorem keeps_execInject {z0 : State} (t : Nat) {s : State} (hk : Keeps z0 s) : KeepsR z0 (execInject t s) := by
  unfold execInject
  with_reducible repeat' first | dsimp only | assumption | apply KeepsR.next | apply KeepsR.fault | apply keeps_at | apply keeps_inject

theorem keeps_execFlr {z0 : State} (fn : Fn) {s : State} (hk : Keeps z0 s) : KeepsR z0 (execFlr fn s) := by
  unfold execFlr
  with_reducible repeat' first | dsimp only | assumption | apply KeepsR.next | apply KeepsR.fault | apply keeps_flr

theorem keeps_execD3hot {z0 : State} (fn : Fn) (d3 : Bool) {s : State} (hk : Keeps z0 s) : KeepsR z0 (execD3hot fn d3 s) := by
  unfold execD3hot
  with_reducible repeat' first | dsimp only | assumption | apply KeepsR.next | apply KeepsR.fault | apply keeps_ite | apply keepsR_ite | split | apply keeps_set_hx

theorem keeps_execHxLinkDown {z0 : State} {s : State} (hk : Keeps z0 s) : KeepsR z0 (execHxLinkDown s) := by
  unfold execHxLinkDown
  with_reducible repeat' first | dsimp only | assumption | apply KeepsR.next | apply KeepsR.fault | apply keeps_hxLinkDown

theorem keeps_execHxLinkUp {z0 : State} (cxl : Bool) (width : BitVec 4) (speed : BitVec 4) {s : State} (hk : Keeps z0 s) : KeepsR z0 (execHxLinkUp cxl width speed s) := by
  unfold execHxLinkUp
  with_reducible repeat' first | dsimp only | assumption | apply KeepsR.next | apply KeepsR.fault | apply keeps_hxLinkUp

theorem keeps_execRingDmaError {z0 : State} (ring : Fin 244) {s : State} (hk : Keeps z0 s) : KeepsR z0 (execRingDmaError ring s) := by
  unfold execRingDmaError
  with_reducible repeat' first | dsimp only | assumption | apply KeepsR.next | apply KeepsR.fault | apply keeps_ringDmaError

theorem keeps_execHxLevelSet {z0 : State} (fn : Fn) (w : Word) {s : State} (hk : Keeps z0 s) : KeepsR z0 (execHxLevelSet fn w s) := by
  unfold execHxLevelSet
  with_reducible repeat' first | dsimp only | assumption | apply KeepsR.next | apply KeepsR.fault | apply keeps_access | apply keeps_hostWrite | apply keeps_when | apply keeps_levelAct | apply keeps_ite | apply keepsR_ite | split | intro _

theorem keeps_execMsixMask {z0 : State} (fn : Fn) (vec : Fin 512) (masked : Bool) {s : State} (hk : Keeps z0 s) : KeepsR z0 (execMsixMask fn vec masked s) := by
  unfold execMsixMask
  with_reducible repeat' first | dsimp only | assumption | apply KeepsR.next | apply KeepsR.fault | apply keeps_msixMask

theorem keeps_execMsixGapExpiry {z0 : State} (fn : Fn) (vec : Fin 512) {s : State} (hk : Keeps z0 s) : KeepsR z0 (execMsixGapExpiry fn vec s) := by
  unfold execMsixGapExpiry
  with_reducible repeat' first | dsimp only | assumption | apply KeepsR.next | apply KeepsR.fault | apply keeps_gapExpiry

end Sys2Proof.Machine
end

