-- ==== Sys2Proof/Laws/KeepsMemPort.lean ====
section
/-! SUPPORT. What the operations of Machine/MemPort.lean keep. -/

namespace Sys2Proof.Machine

theorem keeps_mxStart {z0 : State} {s : State} (hk : Keeps z0 s) : Keeps z0 (mxStart s) := by
  unfold mxStart
  with_reducible repeat' first | dsimp only | assumption | apply keeps_levelTo | apply keeps_set_mx

theorem keeps_mxLinkUp {z0 : State} (dev : Option (Nat × Bool × Nat)) {s : State} (hk : Keeps z0 s) : Keeps z0 (mxLinkUp dev s) := by
  unfold mxLinkUp
  with_reducible repeat' first | dsimp only | assumption | apply keeps_put | apply keeps_putBit | apply keeps_levelTo | apply keeps_ite | split | apply keeps_set_mx

theorem keeps_mxLinkDown {z0 : State} {s : State} (hk : Keeps z0 s) : Keeps z0 (mxLinkDown s) := by
  unfold mxLinkDown
  with_reducible repeat' first | dsimp only | assumption | apply keeps_putBit | apply keeps_levelTo | apply keeps_ite | split

theorem keeps_mxRetrain {z0 : State} {s : State} (hk : Keeps z0 s) : Keeps z0 (mxRetrain s) := by
  unfold mxRetrain
  with_reducible repeat' first | dsimp only | assumption | apply keeps_ite | split | apply keeps_set_mx

theorem keeps_ideKey {z0 : State} {s : State} (hk : Keeps z0 s) : Keeps z0 (ideKey s) := by
  unfold ideKey
  with_reducible repeat' first | dsimp only | assumption | apply keeps_draw | apply keeps_set_sc

theorem keeps_ideAct {z0 : State} {s : State} (hk : Keeps z0 s) : Keeps z0 (ideAct s) := by
  unfold ideAct
  with_reducible repeat' first | dsimp only | assumption | apply keeps_putBit | apply keeps_when | apply keeps_ideKey

theorem keeps_ideFail {z0 : State} {s : State} (hk : Keeps z0 s) : Keeps z0 (ideFail s) := by
  unfold ideFail
  with_reducible repeat' first | dsimp only | assumption | apply keeps_putBit | apply keeps_raise | apply keeps_ite | split | apply keeps_set_mx

theorem keeps_ideResume {z0 : State} (rekeyed : Bool) {s : State} (hk : Keeps z0 s) : Keeps z0 (ideResume rekeyed s) := by
  unfold ideResume
  with_reducible repeat' first | dsimp only | assumption | apply keeps_putBit | apply keeps_recovered | apply keeps_ideKey | apply keeps_ideAct | apply keeps_ite | split | apply keeps_set_mx

theorem keeps_mxFinding {z0 : State} (a : Nat) (n : Nat) {s : State} (f : EccFinding) (hk : Keeps z0 s) : Keeps z0 (mxFinding a n s f) := by
  unfold mxFinding
  with_reducible repeat' first | dsimp only | assumption | apply keeps_eccCorrected | apply keeps_ite | split | apply keeps_set_bad | apply keeps_set_mx | apply keeps_set_bad_mx

theorem keeps_aperture {z0 : State} (fn : Nat) (x : Nat) (wr : Option (List Byte)) (n : Nat) (found : List EccFinding) (poison : Bool) {s : State} (hk : Keeps z0 s) : Keeps z0 (aperture fn x wr n found poison s) := by
  unfold aperture
  with_reducible repeat' first | dsimp only | assumption | apply keeps_bump | apply keeps_emit | apply keeps_draw | apply keeps_eccUncorrectable | apply keeps_mxRead | apply keeps_mxWrite | apply keeps_replicate | apply keeps_mxFinding | apply keeps_foldl | apply keeps_foldl_snd | apply keeps_foldl_fst | apply keeps_ite | apply keeps_ite_snd | apply keeps_ite_fst | split | intro _

theorem keeps_doeGo {z0 : State} {s : State} (hk : Keeps z0 s) : Keeps z0 (doeGo s) := by
  unfold doeGo
  with_reducible repeat' first | dsimp only | assumption | apply keeps_put | apply keeps_putBit | apply keeps_emit | apply keeps_ite | split | apply keeps_set_mx

theorem keeps_doeReply {z0 : State} (r : Option (List Word)) {s : State} (hk : Keeps z0 s) : Keeps z0 (doeReply r s) := by
  unfold doeReply
  with_reducible repeat' first | dsimp only | assumption | apply keeps_put | apply keeps_putBit | apply keeps_ite | split | apply keeps_set_mx

theorem keeps_doeTake {z0 : State} {s : State} (hk : Keeps z0 s) : Keeps z0 (doeTake s) := by
  unfold doeTake
  with_reducible repeat' first | dsimp only | assumption | apply keeps_doeReply | apply keeps_set_mx

theorem keeps_execMxLinkUp {z0 : State} (found : Bool) (gib : BitVec 11) (switch : Bool) (width : BitVec 5) {s : State} (hk : Keeps z0 s) : KeepsR z0 (execMxLinkUp found gib switch width s) := by
  unfold execMxLinkUp
  with_reducible repeat' first | dsimp only | assumption | apply KeepsR.next | apply KeepsR.fault | apply keeps_mxLinkUp | apply keeps_ite | apply keepsR_ite | split

theorem keeps_execMxLinkDown {z0 : State} {s : State} (hk : Keeps z0 s) : KeepsR z0 (execMxLinkDown s) := by
  unfold execMxLinkDown
  with_reducible repeat' first | dsimp only | assumption | apply KeepsR.next | apply KeepsR.fault | apply keeps_mxLinkDown

theorem keeps_execMxRetrain {z0 : State} {s : State} (hk : Keeps z0 s) : KeepsR z0 (execMxRetrain s) := by
  unfold execMxRetrain
  with_reducible repeat' first | dsimp only | assumption | apply KeepsR.next | apply KeepsR.fault | apply keeps_mxRetrain

theorem keeps_execApertureAccess {z0 : State} (fn : Fn) (off : BitVec 28) (write : Option (List Byte)) (n : Nat) (found : List EccFinding) (poison : Bool) {s : State} (hk : Keeps z0 s) : KeepsR z0 (execApertureAccess fn off write n found poison s) := by
  unfold execApertureAccess
  with_reducible repeat' first | dsimp only | assumption | apply KeepsR.next | apply KeepsR.fault | apply keeps_aperture

theorem keeps_execMxIdeFail {z0 : State} {s : State} (hk : Keeps z0 s) : KeepsR z0 (execMxIdeFail s) := by
  unfold execMxIdeFail
  with_reducible repeat' first | dsimp only | assumption | apply KeepsR.next | apply KeepsR.fault | apply keeps_ideFail

theorem keeps_execResume {z0 : State} (fn : Fn) (w : Word) (rekeyed : Bool) {s : State} (hk : Keeps z0 s) : KeepsR z0 (execResume fn w rekeyed s) := by
  unfold execResume
  with_reducible repeat' first | dsimp only | assumption | apply KeepsR.next | apply KeepsR.fault | apply keeps_hostWrite | apply keeps_when | apply keeps_ideAct | apply keeps_ideResume | intro _

theorem keeps_execDoeGo {z0 : State} (fn : Fn) (w : Word) {s : State} (hk : Keeps z0 s) : KeepsR z0 (execDoeGo fn w s) := by
  unfold execDoeGo
  with_reducible repeat' first | dsimp only | assumption | apply KeepsR.next | apply KeepsR.fault | apply keeps_hostWrite | apply keeps_doeGo | intro _

theorem keeps_execDoeReply {z0 : State} (reply : Option (List Word)) {s : State} (hk : Keeps z0 s) : KeepsR z0 (execDoeReply reply s) := by
  unfold execDoeReply
  with_reducible repeat' first | dsimp only | assumption | apply KeepsR.next | apply KeepsR.fault | apply keeps_doeReply

end Sys2Proof.Machine
end

