-- ==== Sys2Proof/Laws/KeepsUplink.lean ====
section
/-! SUPPORT. What the operations of Machine/Uplink.lean keep. -/

namespace Sys2Proof.Machine

theorem keeps_ulReceive {z0 : State} (g : Nat) (d : List Byte) {s : State} (hk : Keeps z0 s) : Keeps z0 (ulReceive g d s) := by
  unfold ulReceive
  with_reducible repeat' first | dsimp only | assumption | apply keeps_lkArrive | apply keeps_ulStat | apply keeps_ulStat2 | apply keeps_ite | split | intro _ | apply keeps_set_ce

theorem keeps_ulFec {z0 : State} (g : Nat) (corr : Nat) (bad : Nat) {s : State} (hk : Keeps z0 s) : Keeps z0 (ulFec g corr bad s) := by
  unfold ulFec
  with_reducible repeat' first | dsimp only | assumption | apply keeps_ulStat

theorem keeps_execUlRxPacket {z0 : State} (group : Fin 16) (bytes : List Byte) (fecCorr : Nat) (fecBad : Nat) (t : Nat) {s : State} (hk : Keeps z0 s) : KeepsR z0 (execUlRxPacket group bytes fecCorr fecBad t s) := by
  unfold execUlRxPacket
  with_reducible repeat' first | dsimp only | assumption | apply KeepsR.next | apply KeepsR.fault | apply keeps_at | apply keeps_ulReceive | apply keeps_ulFec

theorem keeps_execUlLinkDown {z0 : State} (group : Fin 16) {s : State} (hk : Keeps z0 s) : KeepsR z0 (execUlLinkDown group s) := by
  unfold execUlLinkDown
  with_reducible repeat' first | dsimp only | assumption | apply KeepsR.next | apply KeepsR.fault | apply keeps_ulLink

theorem keeps_execUlLinkUp {z0 : State} (group : Fin 16) {s : State} (hk : Keeps z0 s) : KeepsR z0 (execUlLinkUp group s) := by
  unfold execUlLinkUp
  with_reducible repeat' first | dsimp only | assumption | apply KeepsR.next | apply KeepsR.fault | apply keeps_ulLink | apply keeps_ite | apply keepsR_ite | split

end Sys2Proof.Machine
end

