-- ==== Sys2Proof/Laws/KeepsBanks.lean ====
section
/-! SUPPORT. What the operations of Machine/Banks.lean keep. -/

namespace Sys2Proof.Machine

theorem keeps_saveBank {z0 : State} (b : Nat) {s : State} (hk : Keeps z0 s) : Keeps z0 (saveBank b s) := by
  unfold saveBank
  with_reducible repeat' first | dsimp only | assumption | intro _ | apply keeps_set_pw

theorem keeps_bankReg {z0 : State} {s : State} (a : Nat) (w : Word) (hk : Keeps z0 s) : Keeps z0 (State.bankReg s a w) := by
  unfold State.bankReg
  with_reducible repeat' first | dsimp only | assumption | apply keeps_setReg

theorem keeps_putKey {z0 : State} {s : State} (k : Nat) (e : Entry) (hk : Keeps z0 s) : Keeps z0 (State.putKey s k e) := by
  exact hk.tabs (swf_sset entReset s.tabs k e)

theorem keeps_bankDm {z0 : State} (p : Nat) (x : Bank) {s : State} (hk : Keeps z0 s) : Keeps z0 (bankDm p x s) := by
  unfold bankDm
  exact keeps_putBit _ _ _ (keeps_set_dm hk rfl)

theorem keeps_bankPair {z0 : State} (k : Nat) {s : State} (hk : Keeps z0 s) : Keeps z0 (bankPair k s) := by
  unfold bankPair
  with_reducible repeat' first | dsimp only | assumption | apply keeps_put | apply keeps_putBit | apply keeps_ite | split | apply keeps_set_sc

theorem keeps_loadBank {z0 : State} (b : Nat) (x : Bank) {s : State} (hk : Keeps z0 s) : Keeps z0 (loadBank b x s) := by
  unfold loadBank
  with_reducible repeat' first | dsimp only | assumption | apply keeps_setTb | apply keeps_forN | apply keeps_bankReg | apply keeps_putKey | apply keeps_bankDm | apply keeps_bankPair | apply keeps_foldl | apply keeps_foldl_snd | apply keeps_foldl_fst | apply keeps_ite | apply keeps_ite_snd | apply keeps_ite_fst | split | intro _ | apply keeps_set_sc

theorem keeps_notRestored {z0 : State} (b : Nat) (v : Bool) {s : State} (hk : Keeps z0 s) : Keeps z0 (notRestored b v s) := by
  unfold notRestored
  with_reducible repeat' first | dsimp only | assumption | apply keeps_putBit | apply keeps_foldl | apply keeps_foldl_snd | apply keeps_foldl_fst | intro _

theorem keeps_restoreBank {z0 : State} (b : Nat) (ue : Bool) {s : State} (hk : Keeps z0 s) : Keeps z0 (restoreBank b ue s).1 := by
  unfold restoreBank
  with_reducible repeat' first | dsimp only | assumption | apply keeps_loadBank | apply keeps_notRestored | apply keeps_ite | apply keeps_ite_snd | apply keeps_ite_fst | split

theorem keeps_restoreBanks {z0 : State} (ue : Nat) (ce : Nat) {s : State} (hk : Keeps z0 s) : Keeps z0 (restoreBanks ue ce s) := by
  unfold restoreBanks
  with_reducible repeat' first | dsimp only | assumption | apply keeps_put | apply keeps_incSat | apply keeps_raise | apply keeps_restoreBank | apply keeps_foldl | apply keeps_foldl_snd | apply keeps_foldl_fst | apply keeps_ite | apply keeps_ite_snd | apply keeps_ite_fst | split | intro _

theorem keeps_retFailClear {z0 : State} (w : Nat) {s : State} (hk : Keeps z0 s) : Keeps z0 (retFailClear w s) := by
  unfold retFailClear
  with_reducible repeat' first | dsimp only | assumption | apply keeps_put | apply keeps_forN | apply keeps_notRestored | apply keeps_ite | split | intro _

theorem keeps_wipeBank5 {z0 : State} {s : State} (hk : Keeps z0 s) : Keeps z0 (wipeBank5 s) := by
  unfold wipeBank5
  with_reducible repeat' first | dsimp only | assumption | split | apply keeps_set_pw

end Sys2Proof.Machine
end

