-- ==== Sys2Proof/Laws/KeepsDram.lean ====
section
/-! SUPPORT. What the operations of Machine/Dram.lean keep. -/

namespace Sys2Proof.Machine

theorem keeps_dramPut {z0 : State} (a : Nat) (b : Byte) {s : State} (hk : Keeps z0 s) : Keeps z0 (dramPut a b s) := by
  unfold dramPut
  dsimp only
  have hp : Keeps z0 { s with dm := { s.dm with mem := sset 0 s.dm.mem a b } } := Keeps.dm hk (swf_sset (fun _ => (0 : Byte)) _ _ _)
  split
  · exact hp
  · refine keeps_ite (keeps_setHbits _ _ _ _ hk) ?_
    split
    · exact hp
    · exact keeps_ite (keeps_set_tm hk) hp

theorem keeps_dramWrite {z0 : State} (a : Nat) (d : List Byte) {s : State} (hk : Keeps z0 s) : Keeps z0 (dramWrite a d s) := by
  unfold dramWrite
  with_reducible repeat' first | dsimp only | assumption | apply keeps_dramPut | apply keeps_foldl | apply keeps_foldl_snd | apply keeps_foldl_fst | intro _

theorem keeps_setDmQ {z0 : State} {s : State} (p : Nat) (q : List DReq) (hk : Keeps z0 s) : Keeps z0 (State.setDmQ s p q) := by
  unfold State.setDmQ
  with_reducible repeat' first | dsimp only | assumption | apply keeps_putE | refine keeps_set_dm ?_ rfl

theorem keeps_dmIncSat {z0 : State} (p : Nat) (f : TF) {s : State} (hk : Keeps z0 s) : Keeps z0 (dmIncSat p f s) := by
  unfold dmIncSat
  with_reducible repeat' first | dsimp only | assumption | apply keeps_putE

theorem keeps_markPkt {z0 : State} (x : Nat) {s : State} (hk : Keeps z0 s) : Keeps z0 (markPkt x s) := by
  unfold markPkt
  with_reducible repeat' first | dsimp only | assumption | apply keeps_setHbits | apply keeps_ite | split

theorem keeps_dmPoisonPkt {z0 : State} (p : Nat) (h : Option Nat) {s : State} (hk : Keeps z0 s) : Keeps z0 (dmPoisonPkt p h s) := by
  unfold dmPoisonPkt
  with_reducible repeat' first | dsimp only | assumption | apply keeps_markPkt | apply keeps_ite | split

theorem keeps_dmHurt {z0 : State} (r : DReq) {s : State} (hk : Keeps z0 s) : Keeps z0 (dmHurt r s) := by
  unfold dmHurt
  with_reducible repeat' first | dsimp only | assumption | apply keeps_markPkt | split

theorem keeps_dmDiscard {z0 : State} (p : Nat) (h : Option Nat) {s : State} (hk : Keeps z0 s) : Keeps z0 (dmDiscard p h s) := by
  unfold dmDiscard
  with_reducible repeat' first | dsimp only | assumption | apply keeps_dmIncSat | apply keeps_dmPoisonPkt

theorem keeps_dmAccept {z0 : State} (p : Nat) (r : DReq) {s : State} (hk : Keeps z0 s) : Keeps z0 (dmAccept p r s) := by
  unfold dmAccept
  with_reducible repeat' first | dsimp only | assumption | apply keeps_setDmQ | refine keeps_set_dm ?_ rfl

theorem keeps_dmOffer {z0 : State} (p : Nat) (r : DReq) {s : State} (hk : Keeps z0 s) : Keeps z0 (dmOffer p r s) := by
  unfold dmOffer
  with_reducible repeat' first | dsimp only | assumption | apply keeps_dmDiscard | apply keeps_dmAccept | apply keeps_ite | split | refine keeps_set_dm ?_ rfl

theorem keeps_dmAdmit {z0 : State} (p : Nat) {s : State} (hk : Keeps z0 s) : Keeps z0 (dmAdmit p s) := by
  unfold dmAdmit
  with_reducible repeat' first | dsimp only | assumption | apply keeps_dmAccept | apply keeps_ite | split | refine keeps_set_dm ?_ rfl

theorem keeps_dramRequest {z0 : State} (p : Nat) (r : DReq) {s0 : State} (hk : Keeps z0 s0) : Keeps z0 (dramRequest p r s0) := by
  unfold dramRequest
  with_reducible repeat' first | dsimp only | assumption | apply keeps_emit | apply keeps_violation | apply keeps_dmPoisonPkt | apply keeps_dmHurt | apply keeps_dmDiscard | apply keeps_dmOffer | apply keeps_dmAdmit | apply keeps_ite | split

theorem keeps_urgencyRaise {z0 : State} (p : Nat) (k : Nat) {s : State} (hk : Keeps z0 s) : Keeps z0 (urgencyRaise p k s) := by
  unfold urgencyRaise
  with_reducible repeat' first | dsimp only | assumption | apply keeps_setDmQ | split

theorem keeps_dmPoison {z0 : State} (l : List Nat) {s : State} (hk : Keeps z0 s) : Keeps z0 (dmPoison l s) := by
  unfold dmPoison
  with_reducible repeat' first | dsimp only | assumption | apply keeps_foldl | apply keeps_foldl_snd | apply keeps_foldl_fst | intro _ | apply keeps_set_bad | refine keeps_set_dm ?_ rfl

theorem keeps_dmStore {z0 : State} (r : DReq) {s : State} (hk : Keeps z0 s) : Keeps z0 (dmStore r s) := by
  unfold dmStore
  with_reducible repeat' first | dsimp only | assumption | apply keeps_poisonBuffer | apply keeps_dramWrite | apply keeps_dmHurt | apply keeps_dmPoison | apply keeps_foldl | apply keeps_foldl_snd | apply keeps_foldl_fst | apply keeps_ite | split | intro _ | refine keeps_set_dm ?_ rfl

theorem keeps_dmAhead {z0 : State} (r : DReq) {s : State} (hk : Keeps z0 s) : Keeps z0 (dmAhead r s) := by
  unfold dmAhead
  with_reducible repeat' first | dsimp only | assumption | apply keeps_dmStore | apply keeps_foldl | apply keeps_foldl_snd | apply keeps_foldl_fst | intro _

theorem keeps_dmRewrite {z0 : State} (w : Nat) {s : State} (hk : Keeps z0 s) : Keeps z0 (dmRewrite w s) := by
  unfold dmRewrite
  with_reducible repeat' first | dsimp only | assumption | apply keeps_dmOffer

theorem keeps_dmFinding {z0 : State} (f : EccFinding) {s : State} (hk : Keeps z0 s) : Keeps z0 (dmFinding f s) := by
  unfold dmFinding
  with_reducible repeat' first | dsimp only | assumption | apply keeps_patrolFinding | apply keeps_dmRewrite | apply keeps_ite | split | refine keeps_set_dm ?_ rfl

theorem keeps_dmDo {z0 : State} (p : Nat) (hurt : Bool) (r : DReq) {s : State} (hk : Keeps z0 s) : Keeps z0 (dmDo p hurt r s) := by
  unfold dmDo
  dsimp only
  split
  · exact keeps_ite (keeps_dmDiscard _ _ hk) (keeps_dmStore _ hk)
  · exact keeps_ite (keeps_emit _ (keeps_dmHurt _ hk)) (keeps_emit _ hk)

theorem keeps_refreshIssue {z0 : State} (pc : Nat) (n : Nat) (start : Nat) {s : State} (hk : Keeps z0 s) : Keeps z0 (refreshIssue pc n start s) := by
  unfold refreshIssue
  with_reducible repeat' first | dsimp only | assumption | apply keeps_ite | apply keeps_ite_snd | split | intro _ | refine keeps_set_dm ?_ rfl

theorem keeps_debtShow {z0 : State} {s : State} (hk : Keeps z0 s) : Keeps z0 (debtShow s) := by
  unfold debtShow
  with_reducible repeat' first | dsimp only | assumption | apply keeps_put | apply keeps_forN | apply keeps_foldl | apply keeps_foldl_snd | apply keeps_foldl_fst | intro _

theorem keeps_setDebt {z0 : State} (pc : Nat) (d : Nat) {s : State} (hk : Keeps z0 s) : Keeps z0 (setDebt pc d s) := by
  unfold setDebt
  with_reducible repeat' first | dsimp only | assumption | apply keeps_debtShow | refine keeps_set_dm ?_ rfl

theorem keeps_debtPay {z0 : State} (pc : Nat) (more : Nat) {s : State} (hk : Keeps z0 s) : Keeps z0 (debtPay pc more s) := by
  unfold debtPay
  with_reducible repeat' first | dsimp only | assumption | apply keeps_refreshIssue | apply keeps_setDebt

theorem keeps_debtIdle {z0 : State} (pc : Nat) {s : State} (hk : Keeps z0 s) : Keeps z0 (debtIdle pc s) := by
  unfold debtIdle
  with_reducible repeat' first | dsimp only | assumption | apply keeps_debtPay | apply keeps_ite | split

theorem keeps_dmRead {z0 : State} (r : DReq) {s : State} (f : EccFinding) (hk : Keeps z0 s) : Keeps z0 (dmRead r s f) := by
  unfold dmRead
  with_reducible repeat' first | dsimp only | assumption | apply keeps_patrolFinding | apply keeps_dmFinding | apply keeps_ite | split

theorem keeps_dmFinish {z0 : State} (p : Nat) (k : Nat) (r : DReq) (found : List EccFinding) {s : State} (hk : Keeps z0 s) : Keeps z0 (dmFinish p k r found s) := by
  unfold dmFinish
  with_reducible repeat' first | dsimp only | assumption | apply keeps_putE | apply keeps_setDmQ | apply keeps_dmIncSat | apply keeps_dmAdmit | apply keeps_dmDo | apply keeps_dmRead | apply keeps_foldl | apply keeps_foldl_snd | apply keeps_foldl_fst | apply keeps_ite | split | intro _

theorem keeps_dramComplete {z0 : State} (pc : Nat) (unready : List (Nat × Nat)) (found : List EccFinding) {s : State} (hk : Keeps z0 s) : Keeps z0 (dramComplete pc unready found s) := by
  unfold dramComplete
  with_reducible repeat' first | dsimp only | assumption | apply keeps_debtIdle | apply keeps_dmFinish | apply keeps_ite | apply keeps_ite_snd | apply keeps_ite_fst | split | refine keeps_set_dm ?_ rfl

theorem keeps_dmFlush {z0 : State} {s : State} (hk : Keeps z0 s) : Keeps z0 (dmFlush s) := by
  unfold dmFlush
  with_reducible repeat' first | dsimp only | assumption | apply keeps_dmFinish | apply keeps_foldl | apply keeps_foldl_snd | apply keeps_foldl_fst | intro _

theorem keeps_parRetry {z0 : State} (p : Nat) (k : Nat) (tries : Nat) (failed : Bool) {s : State} (hk : Keeps z0 s) : Keeps z0 (parRetry p k tries failed s) := by
  unfold parRetry
  with_reducible repeat' first | dsimp only | assumption | apply keeps_bump | apply keeps_setDmQ | apply keeps_ite | split

theorem keeps_refreshInterval {z0 : State} (pc : Nat) {s : State} (hk : Keeps z0 s) : Keeps z0 (refreshInterval pc s) := by
  unfold refreshInterval
  with_reducible repeat' first | dsimp only | assumption | apply keeps_refreshIssue | apply keeps_setDebt | apply keeps_debtPay | apply keeps_ite | split

theorem keeps_refreshCatchup {z0 : State} (k : Nat) {s : State} (hk : Keeps z0 s) : Keeps z0 (refreshCatchup k s) := by
  unfold refreshCatchup
  with_reducible repeat' first | dsimp only | assumption | apply keeps_put | apply keeps_bump | apply keeps_raise | apply keeps_forN | apply keeps_refreshIssue | apply keeps_setDebt | apply keeps_foldl | apply keeps_foldl_snd | apply keeps_foldl_fst | apply keeps_ite | split | intro _

theorem keeps_thermalThrottle {z0 : State} {s : State} (hk : Keeps z0 s) : Keeps z0 (thermalThrottle s) := by
  unfold thermalThrottle
  with_reducible repeat' first | dsimp only | assumption | apply keeps_bump | apply keeps_levelTo | apply keeps_ite | split | refine keeps_set_dm ?_ rfl

theorem keeps_tempSense {z0 : State} (k : Nat) (temp : Int) {s : State} (hk : Keeps z0 s) : Keeps z0 (tempSense k temp s) := by
  unfold tempSense
  with_reducible repeat' first | dsimp only | assumption | apply keeps_putBit | apply keeps_putI | apply keeps_forN | apply keeps_setDebt | apply keeps_refreshCatchup | apply keeps_thermalThrottle | apply keeps_ite | split | intro _

theorem keeps_trainShow {z0 : State} {s : State} (hk : Keeps z0 s) : Keeps z0 (trainShow s) := by
  unfold trainShow
  with_reducible repeat' first | dsimp only | assumption | apply keeps_put | apply keeps_putBit | split

theorem keeps_setSteps {z0 : State} (l : List Nat) {s : State} (hk : Keeps z0 s) : Keeps z0 (setSteps l s) := by
  unfold setSteps
  with_reducible repeat' first | dsimp only | assumption | apply keeps_trainShow | refine keeps_set_dm ?_ rfl

theorem keeps_dmDeferred {z0 : State} {s : State} (hk : Keeps z0 s) : Keeps z0 (dmDeferred s) := by
  unfold dmDeferred
  with_reducible repeat' first | dsimp only | assumption | apply keeps_putBit | apply keeps_dmFlush | apply keeps_setSteps | apply keeps_ite | split

theorem keeps_saveStep {z0 : State} (p : Nat) (k : Nat) {s : State} (hk : Keeps z0 s) : Keeps z0 (saveStep p k s) := by
  unfold saveStep
  with_reducible repeat' first | dsimp only | assumption | apply keeps_putBit | apply keeps_draw | apply keeps_saveBank | apply keeps_ite | apply keeps_ite_snd | apply keeps_ite_fst | split | refine keeps_set_dm ?_ rfl

theorem keeps_trainStepDone {z0 : State} {s : State} (hk : Keeps z0 s) : Keeps z0 (trainStepDone s) := by
  unfold trainStepDone
  with_reducible repeat' first | dsimp only | assumption | apply keeps_setSteps | apply keeps_dmDeferred | apply keeps_saveStep | apply keeps_ite | split

theorem keeps_trainFail {z0 : State} (p : Nat) (step : Nat) (pc : Nat) {s : State} (hk : Keeps z0 s) : Keeps z0 (trainFail p step pc s) := by
  unfold trainFail
  with_reducible repeat' first | dsimp only | assumption | apply keeps_put | apply keeps_putBit | apply keeps_raise | apply keeps_when | intro _ | refine keeps_set_dm ?_ rfl

theorem keeps_dmTrainFail {z0 : State} (pc : Nat) {s : State} (hk : Keeps z0 s) : Keeps z0 (dmTrainFail pc s) := by
  unfold dmTrainFail
  with_reducible repeat' first | dsimp only | assumption | apply keeps_setSteps | apply keeps_dmDeferred | apply keeps_trainFail | apply keeps_ite | split

theorem keeps_trainStart {z0 : State} {s : State} (hk : Keeps z0 s) : Keeps z0 (trainStart s) := by
  unfold trainStart
  with_reducible repeat' first | dsimp only | assumption | apply keeps_setSteps | apply keeps_ite | split | intro _

theorem keeps_trainTrack {z0 : State} {s : State} (hk : Keeps z0 s) : Keeps z0 (trainTrack s) := by
  unfold trainTrack
  with_reducible repeat' first | dsimp only | assumption | apply keeps_setSteps | apply keeps_ite | split

theorem keeps_changeStart {z0 : State} (target : Nat) (init1 : Bool) {s : State} (hk : Keeps z0 s) : Keeps z0 (changeStart target init1 s) := by
  unfold changeStart
  with_reducible repeat' first | dsimp only | assumption | apply keeps_putBit | apply keeps_raise | apply keeps_dmFlush | apply keeps_ite | split | refine keeps_set_dm ?_ rfl

theorem keeps_freqGo {z0 : State} {s : State} (hk : Keeps z0 s) : Keeps z0 (freqGo s) := by
  unfold freqGo
  with_reducible repeat' first | dsimp only | assumption | apply keeps_cfgRej | apply keeps_changeStart | apply keeps_ite | split

theorem keeps_freqInit1 {z0 : State} {s : State} (hk : Keeps z0 s) : Keeps z0 (freqInit1 s) := by
  unfold freqInit1
  with_reducible repeat' first | dsimp only | assumption | apply keeps_cfgRej | apply keeps_changeStart | apply keeps_ite | split

theorem keeps_freqCtrl {z0 : State} (w : Nat) {s : State} (hk : Keeps z0 s) : Keeps z0 (freqCtrl w s) := by
  unfold freqCtrl
  with_reducible repeat' first | dsimp only | assumption | apply keeps_when | apply keeps_freqGo | apply keeps_freqInit1

theorem keeps_freqAbandon {z0 : State} {s : State} (hk : Keeps z0 s) : Keeps z0 (freqAbandon s) := by
  unfold freqAbandon
  with_reducible repeat' first | dsimp only | assumption | apply keeps_putBit | apply keeps_dmDeferred | apply keeps_ite | split | refine keeps_set_dm ?_ rfl

theorem keeps_dmErst {z0 : State} {s : State} (hk : Keeps z0 s) : Keeps z0 (dmErst s) := by
  unfold dmErst
  with_reducible repeat' first | dsimp only | assumption | apply keeps_putBit | apply keeps_putE | apply keeps_emit | apply keeps_forN | apply keeps_dmDiscard | apply keeps_foldl | apply keeps_foldl_snd | apply keeps_foldl_fst | apply keeps_ite | apply keeps_ite_snd | apply keeps_ite_fst | split | intro _ | refine keeps_set_dm ?_ rfl

theorem keeps_freqEnd {z0 : State} (fail : Nat) (pc : Nat) (dur : Nat) {s : State} (hk : Keeps z0 s) : Keeps z0 (freqEnd fail pc dur s) := by
  unfold freqEnd
  with_reducible repeat' first | dsimp only | assumption | apply keeps_put | apply keeps_putBit | apply keeps_bump | apply keeps_raise | apply keeps_debtShow | apply keeps_saveStep | apply keeps_trainFail | apply keeps_foldl | apply keeps_foldl_snd | apply keeps_foldl_fst | apply keeps_ite | split | intro _ | refine keeps_set_dm ?_ rfl

theorem keeps_freqDone {z0 : State} (fail : Nat) (pc : Nat) (dur : Nat) {s : State} (hk : Keeps z0 s) : Keeps z0 (freqDone fail pc dur s) := by
  unfold freqDone
  with_reducible repeat' first | dsimp only | assumption | apply keeps_dmErst | apply keeps_freqEnd | apply keeps_ite | split

theorem keeps_dramScrub {z0 : State} (n : Nat) (found : List EccFinding) {s : State} (hk : Keeps z0 s) : Keeps z0 (dramScrub n found s) := by
  unfold dramScrub
  with_reducible repeat' first | dsimp only | assumption | apply keeps_put | apply keeps_bump | apply keeps_putE | apply keeps_dmFinding | apply keeps_foldl | apply keeps_foldl_snd | apply keeps_foldl_fst | apply keeps_ite | split | intro _

theorem keeps_execDramRequest {z0 : State} (port : Fin 12) (sec : Bool) (addr : BitVec 34) (len : Nat) (data : Option (List Byte)) (packet : Option Nat) (t : Nat) {s : State} (hk : Keeps z0 s) : KeepsR z0 (execDramRequest port sec addr len data packet t s) := by
  unfold execDramRequest
  with_reducible repeat' first | dsimp only | assumption | apply KeepsR.next | apply KeepsR.fault | apply keeps_at | apply keeps_dramRequest | apply keeps_ite | apply keepsR_ite | split

theorem keeps_execDramComplete {z0 : State} (pc : Fin 64) (unready : List (Fin 12 × Fin 512)) (found : List EccFinding) (t : Nat) {s : State} (hk : Keeps z0 s) : KeepsR z0 (execDramComplete pc unready found t s) := by
  unfold execDramComplete
  with_reducible repeat' first | dsimp only | assumption | apply KeepsR.next | apply KeepsR.fault | apply keeps_at | apply keeps_dramComplete | intro _

theorem keeps_execUrgencyRaise {z0 : State} (port : Fin 12) (k : Fin 512) (t : Nat) {s : State} (hk : Keeps z0 s) : KeepsR z0 (execUrgencyRaise port k t s) := by
  unfold execUrgencyRaise
  with_reducible repeat' first | dsimp only | assumption | apply KeepsR.next | apply KeepsR.fault | apply keeps_at | apply keeps_urgencyRaise

theorem keeps_execRefreshInterval {z0 : State} (tick : RefreshTick) {s : State} (hk : Keeps z0 s) : KeepsR z0 (execRefreshInterval tick s) := by
  unfold execRefreshInterval
  with_reducible repeat' first | dsimp only | assumption | apply KeepsR.next | apply KeepsR.fault | apply keeps_at | apply keeps_refreshInterval

theorem keeps_execTempSense {z0 : State} (stack : Fin 2) (temp : Byte) (t : Nat) {s : State} (hk : Keeps z0 s) : KeepsR z0 (execTempSense stack temp t s) := by
  unfold execTempSense
  with_reducible repeat' first | dsimp only | assumption | apply KeepsR.next | apply KeepsR.fault | apply keeps_at | apply keeps_tempSense

theorem keeps_execGo {z0 : State} (fn : Fn) (w : Word) (t : Nat) {s : State} (hk : Keeps z0 s) : KeepsR z0 (execGo fn w t s) := by
  unfold execGo
  with_reducible repeat' first | dsimp only | assumption | apply KeepsR.next | apply KeepsR.fault | apply keeps_at | apply keeps_hostWrite | apply keeps_freqCtrl | intro _

theorem keeps_execFreqAbandon {z0 : State} (t : Nat) {s : State} (hk : Keeps z0 s) : KeepsR z0 (execFreqAbandon t s) := by
  unfold execFreqAbandon
  with_reducible repeat' first | dsimp only | assumption | apply KeepsR.next | apply KeepsR.fault | apply keeps_at | apply keeps_freqAbandon

theorem keeps_execDmFreqDone {z0 : State} (fail : Fin 7) (pc : Fin 64) (dur : BitVec 16) {s : State} (hk : Keeps z0 s) : KeepsR z0 (execDmFreqDone fail pc dur s) := by
  unfold execDmFreqDone
  with_reducible repeat' first | dsimp only | assumption | apply KeepsR.next | apply KeepsR.fault | apply keeps_freqDone

theorem keeps_execInit1 {z0 : State} (fn : Fn) (w : Word) (t : Nat) {s : State} (hk : Keeps z0 s) : KeepsR z0 (execInit1 fn w t s) := by
  unfold execInit1
  with_reducible repeat' first | dsimp only | assumption | apply KeepsR.next | apply KeepsR.fault | apply keeps_at | apply keeps_hostWrite | apply keeps_freqCtrl | intro _

theorem keeps_execTrainStart {z0 : State} (fn : Fn) (w : Word) {s : State} (hk : Keeps z0 s) : KeepsR z0 (execTrainStart fn w s) := by
  unfold execTrainStart
  with_reducible repeat' first | dsimp only | assumption | apply KeepsR.next | apply KeepsR.fault | apply keeps_hostWrite | apply keeps_trainStart | intro _

theorem keeps_execTrainStepDone {z0 : State} {s : State} (hk : Keeps z0 s) : KeepsR z0 (execTrainStepDone s) := by
  unfold execTrainStepDone
  with_reducible repeat' first | dsimp only | assumption | apply KeepsR.next | apply KeepsR.fault | apply keeps_trainStepDone

theorem keeps_execDmTrainFail {z0 : State} (pc : Fin 64) {s : State} (hk : Keeps z0 s) : KeepsR z0 (execDmTrainFail pc s) := by
  unfold execDmTrainFail
  with_reducible repeat' first | dsimp only | assumption | apply KeepsR.next | apply KeepsR.fault | apply keeps_dmTrainFail

theorem keeps_execTrainTrack {z0 : State} {s : State} (hk : Keeps z0 s) : KeepsR z0 (execTrainTrack s) := by
  unfold execTrainTrack
  with_reducible repeat' first | dsimp only | assumption | apply KeepsR.next | apply KeepsR.fault | apply keeps_trainTrack

theorem keeps_execDramScrub {z0 : State} (n : Nat) (found : List EccFinding) {s : State} (hk : Keeps z0 s) : KeepsR z0 (execDramScrub n found s) := by
  unfold execDramScrub
  with_reducible repeat' first | dsimp only | assumption | apply KeepsR.next | apply KeepsR.fault | apply keeps_dramScrub

theorem keeps_execParRetry {z0 : State} (port : Fin 12) (k : Fin 512) (tries : Nat) (failed : Bool) {s : State} (hk : Keeps z0 s) : KeepsR z0 (execParRetry port k tries failed s) := by
  unfold execParRetry
  with_reducible repeat' first | dsimp only | assumption | apply KeepsR.next | apply KeepsR.fault | apply keeps_parRetry

end Sys2Proof.Machine
end

