-- ==== Sys2Proof/Laws/KeepsSecurity.lean ====
section
/-! SUPPORT. What the operations of Machine/Security.lean keep. -/

namespace Sys2Proof.Machine

theorem keeps_scReject {z0 : State} {s : State} (hk : Keeps z0 s) : Keeps z0 (scReject s) := by
  unfold scReject
  with_reducible repeat' first | dsimp only | assumption | apply keeps_putBit

theorem keeps_scZero {z0 : State} (off : Nat) (n : Nat) {s : State} (hk : Keeps z0 s) : Keeps z0 (scZero off n s) := by
  unfold scZero
  with_reducible repeat' first | dsimp only | assumption | intro _ | apply keeps_set_staged

theorem keeps_pairLoad {z0 : State} {s : State} (hk : Keeps z0 s) : Keeps z0 (pairLoad s) := by
  unfold pairLoad
  with_reducible repeat' first | dsimp only | assumption | apply keeps_put | apply keeps_putBit | apply keeps_cfgRej | apply keeps_scZero | apply keeps_ite | split | apply keeps_set_sc

theorem keeps_pairErase {z0 : State} {s : State} (hk : Keeps z0 s) : Keeps z0 (pairErase s) := by
  unfold pairErase
  with_reducible repeat' first | dsimp only | assumption | apply keeps_putBit | apply keeps_set_sc

theorem keeps_pairClear {z0 : State} {s : State} (hk : Keeps z0 s) : Keeps z0 (pairClear s) := by
  unfold pairClear
  with_reducible repeat' first | dsimp only | assumption | apply keeps_cfgRej | apply keeps_pairErase | apply keeps_ite | split

theorem keeps_rngRead {z0 : State} (fn : Nat) {s : State} (hk : Keeps z0 s) : Keeps z0 (rngRead fn s) := by
  unfold rngRead
  with_reducible repeat' first | dsimp only | assumption | apply keeps_setReg | apply keeps_draw | apply keeps_readBack | apply keeps_ite | apply keeps_ite_snd | apply keeps_ite_fst | split | intro _

theorem keeps_eraseKeys {z0 : State} {s : State} (hk : Keeps z0 s) : Keeps z0 (eraseKeys s) := by
  have h1 : Keeps z0 { s with tabs := skeep (fun k => !isKeyTable k) s.tabs } := hk.tabs (swf_skeep _ _ _)
  have h2 : Keeps z0 { s with keys := [], tabs := skeep (fun k => !isKeyTable k) s.tabs, mx := { s.mx with stopped := true } } :=
    keeps_set_keys (keeps_set_mx h1)
  unfold eraseKeys
  exact keeps_raise _ _ (keeps_putBit _ _ _ (keeps_putBit _ _ _ (keeps_wipeBank5 (keeps_pairErase h2))))

theorem keeps_debugLevel {z0 : State} {s : State} (hk : Keeps z0 s) : Keeps z0 (debugLevel s) := by
  unfold debugLevel
  with_reducible repeat' first | dsimp only | assumption | apply keeps_levelTo

theorem keeps_openDebug {z0 : State} (method : Nat) {s : State} (hk : Keeps z0 s) : Keeps z0 (openDebug method s) := by
  unfold openDebug
  with_reducible repeat' first | dsimp only | assumption | apply keeps_put | apply keeps_putBit | apply keeps_debugLevel

theorem keeps_closeDebug {z0 : State} {s : State} (hk : Keeps z0 s) : Keeps z0 (closeDebug s) := by
  unfold closeDebug
  with_reducible repeat' first | dsimp only | assumption | apply keeps_put | apply keeps_putBit | apply keeps_debugLevel | apply keeps_ite | split

theorem keeps_lcEnter {z0 : State} (n : Nat) {s : State} (hk : Keeps z0 s) : Keeps z0 (lcEnter n s) := by
  unfold lcEnter
  with_reducible repeat' first | dsimp only | assumption | apply keeps_put | apply keeps_eraseKeys | apply keeps_closeDebug | apply keeps_ite | split

theorem keeps_lcCommand {z0 : State} (w : Nat) {s : State} (hk : Keeps z0 s) : Keeps z0 (lcCommand w s) := by
  unfold lcCommand
  with_reducible repeat' first | dsimp only | assumption | apply keeps_scReject | apply keeps_lcEnter | apply keeps_ite | split

theorem keeps_setPw {z0 : State} {s : State} (hk : Keeps z0 s) : Keeps z0 (setPw s) := by
  unfold setPw
  with_reducible repeat' first | dsimp only | assumption | apply keeps_putBit | apply keeps_scReject | apply keeps_ite | split | apply keeps_set_sc

theorem keeps_pwFailed {z0 : State} {s : State} (hk : Keeps z0 s) : Keeps z0 (pwFailed s) := by
  unfold pwFailed
  with_reducible repeat' first | dsimp only | assumption | apply keeps_put | apply keeps_putBit | apply keeps_raise | apply keeps_ite | split | apply keeps_set_sc

theorem keeps_unlockPw {z0 : State} {s : State} (hk : Keeps z0 s) : Keeps z0 (unlockPw s) := by
  unfold unlockPw
  with_reducible repeat' first | dsimp only | assumption | apply keeps_scReject | apply keeps_openDebug | apply keeps_pwFailed | apply keeps_ite | split

theorem keeps_challenge {z0 : State} {s : State} (hk : Keeps z0 s) : Keeps z0 (challenge s) := by
  unfold challenge
  with_reducible repeat' first | dsimp only | assumption | apply keeps_put | apply keeps_putBit | apply keeps_draw | apply keeps_forN | apply keeps_scReject | apply keeps_ite | apply keeps_ite_snd | apply keeps_ite_fst | split | intro _ | apply keeps_set_sc

theorem keeps_unlockCr {z0 : State} {s : State} (hk : Keeps z0 s) : Keeps z0 (unlockCr s) := by
  unfold unlockCr
  with_reducible repeat' first | dsimp only | assumption | apply keeps_putBit | apply keeps_incSat | apply keeps_raise | apply keeps_recovered | apply keeps_when | apply keeps_scReject | apply keeps_eraseKeys | apply keeps_openDebug | apply keeps_ite | split

theorem keeps_dbgCommand {z0 : State} (w : Nat) {s : State} (hk : Keeps z0 s) : Keeps z0 (dbgCommand w s) := by
  unfold dbgCommand
  with_reducible repeat' first | dsimp only | assumption | apply keeps_scReject | apply keeps_scZero | apply keeps_closeDebug | apply keeps_setPw | apply keeps_unlockPw | apply keeps_challenge | apply keeps_unlockCr | apply keeps_ite | split

theorem keeps_nonceExpiry {z0 : State} {s : State} (hk : Keeps z0 s) : Keeps z0 (nonceExpiry s) := by
  unfold nonceExpiry
  with_reducible repeat' first | dsimp only | assumption | apply keeps_putBit | apply keeps_ite | split

theorem keeps_pairCommand {z0 : State} (w : Nat) {s : State} (hk : Keeps z0 s) : Keeps z0 (pairCommand w s) := by
  unfold pairCommand
  with_reducible repeat' first | dsimp only | assumption | apply keeps_scReject | apply keeps_pairLoad | apply keeps_pairClear | apply keeps_ite | split

theorem keeps_scWrite {z0 : State} (fn : Nat) (off : Nat) (op : Nat) (w : Word) (act : Nat → State → State) {s : State} (hkact : ∀ x0 x1, Keeps z0 x1 → Keeps z0 (act x0 x1)) (hk : Keeps z0 s) : Keeps z0 (scWrite fn off op w act s) := by
  unfold scWrite
  with_reducible repeat' first | dsimp only | assumption | apply keeps_access | apply hkact | intro _

theorem keeps_execLoad {z0 : State} (fn : Fn) (w : Word) {s : State} (hk : Keeps z0 s) : KeepsR z0 (execLoad fn w s) := by
  unfold execLoad
  with_reducible repeat' first | dsimp only | assumption | apply KeepsR.next | apply KeepsR.fault | apply keeps_pairCommand | apply keeps_scWrite

theorem keeps_execClearPairKey {z0 : State} (fn : Fn) (w : Word) {s : State} (hk : Keeps z0 s) : KeepsR z0 (execClearPairKey fn w s) := by
  unfold execClearPairKey
  with_reducible repeat' first | dsimp only | assumption | apply KeepsR.next | apply KeepsR.fault | apply keeps_pairCommand | apply keeps_scWrite

theorem keeps_execScRng {z0 : State} (fn : Fn) {s : State} (hk : Keeps z0 s) : KeepsR z0 (execScRng fn s) := by
  unfold execScRng
  with_reducible repeat' first | dsimp only | assumption | apply KeepsR.next | apply KeepsR.fault | apply keeps_rngRead

theorem keeps_execProvision {z0 : State} (fn : Fn) (w : Word) {s : State} (hk : Keeps z0 s) : KeepsR z0 (execProvision fn w s) := by
  unfold execProvision
  with_reducible repeat' first | dsimp only | assumption | apply KeepsR.next | apply KeepsR.fault | apply keeps_lcCommand | apply keeps_scWrite

theorem keeps_execLock {z0 : State} (fn : Fn) (w : Word) {s : State} (hk : Keeps z0 s) : KeepsR z0 (execLock fn w s) := by
  unfold execLock
  with_reducible repeat' first | dsimp only | assumption | apply KeepsR.next | apply KeepsR.fault | apply keeps_lcCommand | apply keeps_scWrite

theorem keeps_execReturnLc {z0 : State} (fn : Fn) (w : Word) {s : State} (hk : Keeps z0 s) : KeepsR z0 (execReturnLc fn w s) := by
  unfold execReturnLc
  with_reducible repeat' first | dsimp only | assumption | apply KeepsR.next | apply KeepsR.fault | apply keeps_lcCommand | apply keeps_scWrite

theorem keeps_execSetPw {z0 : State} (fn : Fn) (w : Word) {s : State} (hk : Keeps z0 s) : KeepsR z0 (execSetPw fn w s) := by
  unfold execSetPw
  with_reducible repeat' first | dsimp only | assumption | apply KeepsR.next | apply KeepsR.fault | apply keeps_dbgCommand | apply keeps_scWrite

theorem keeps_execUnlockPw {z0 : State} (fn : Fn) (w : Word) (t : Nat) {s : State} (hk : Keeps z0 s) : KeepsR z0 (execUnlockPw fn w t s) := by
  unfold execUnlockPw
  with_reducible repeat' first | dsimp only | assumption | apply KeepsR.next | apply KeepsR.fault | apply keeps_at | apply keeps_dbgCommand | apply keeps_scWrite

theorem keeps_execChallenge {z0 : State} (fn : Fn) (w : Word) (t : Nat) {s : State} (hk : Keeps z0 s) : KeepsR z0 (execChallenge fn w t s) := by
  unfold execChallenge
  with_reducible repeat' first | dsimp only | assumption | apply KeepsR.next | apply KeepsR.fault | apply keeps_at | apply keeps_dbgCommand | apply keeps_scWrite

theorem keeps_execUnlockCr {z0 : State} (fn : Fn) (w : Word) (t : Nat) {s : State} (hk : Keeps z0 s) : KeepsR z0 (execUnlockCr fn w t s) := by
  unfold execUnlockCr
  with_reducible repeat' first | dsimp only | assumption | apply KeepsR.next | apply KeepsR.fault | apply keeps_at | apply keeps_dbgCommand | apply keeps_scWrite

theorem keeps_execNonceExpiry {z0 : State} (t : Nat) {s : State} (hk : Keeps z0 s) : KeepsR z0 (execNonceExpiry t s) := by
  unfold execNonceExpiry
  with_reducible repeat' first | dsimp only | assumption | apply KeepsR.next | apply KeepsR.fault | apply keeps_at | apply keeps_nonceExpiry

theorem keeps_execClose {z0 : State} (fn : Fn) (w : Word) {s : State} (hk : Keeps z0 s) : KeepsR z0 (execClose fn w s) := by
  unfold execClose
  with_reducible repeat' first | dsimp only | assumption | apply KeepsR.next | apply KeepsR.fault | apply keeps_dbgCommand | apply keeps_scWrite

theorem keeps_rngHealth {z0 : State} (ok : Bool) {s : State} (hk : Keeps z0 s) : Keeps z0 (rngHealth ok s) := by
  unfold rngHealth
  with_reducible repeat' first | dsimp only | assumption | apply keeps_reseedStart | apply keeps_ite | split | apply keeps_set_lk | apply keeps_set_sc | apply keeps_set_lk_sc

theorem keeps_execRngHealth {z0 : State} (ok : Bool) {s : State} (hk : Keeps z0 s) : KeepsR z0 (execRngHealth ok s) := by
  unfold execRngHealth
  with_reducible repeat' first | dsimp only | assumption | apply KeepsR.next | apply KeepsR.fault | apply keeps_rngHealth

end Sys2Proof.Machine
end

