-- ==== Sys2Proof/Laws/KeepsPxBase.lean ====
section
/-! SUPPORT. What the operations of Machine/PxBase.lean keep. -/

namespace Sys2Proof.Machine

theorem keeps_pxRaise {z0 : State} (bit : Nat) {s : State} (hk : Keeps z0 s) : Keeps z0 (pxRaise bit s) := by
  unfold pxRaise
  with_reducible repeat' first | dsimp only | assumption | apply keeps_raise | apply keeps_ite | split | apply keeps_set_px

theorem keeps_pxShow {z0 : State} {s : State} (hk : Keeps z0 s) : Keeps z0 (pxShow s) := by
  unfold pxShow
  with_reducible repeat' first | dsimp only | assumption | apply keeps_put | apply keeps_putBit | apply keeps_levelTo | apply keeps_ite | split

theorem keeps_setPx {z0 : State} (n : Nat) {s : State} (hk : Keeps z0 s) : Keeps z0 (setPx n s) := by
  unfold setPx
  with_reducible repeat' first | dsimp only | assumption | apply keeps_put | apply keeps_pxRaise | apply keeps_ite | split | apply keeps_set_px

theorem keeps_switchShow {z0 : State} (left : Nat) {s : State} (hk : Keeps z0 s) : Keeps z0 (switchShow left s) := by
  unfold switchShow
  with_reducible repeat' first | dsimp only | assumption | apply keeps_put | apply keeps_putBit | apply keeps_put2

theorem keeps_witShow {z0 : State} (wlos : Nat) {s : State} (hk : Keeps z0 s) : Keeps z0 (witShow wlos s) := by
  unfold witShow
  with_reducible repeat' first | dsimp only | assumption | apply keeps_put | apply keeps_putBit

end Sys2Proof.Machine
end

