-- ==== Sys2Proof/Laws/KeepsRefs.lean ====
section
/-! SUPPORT. What the operations of Machine/Refs.lean keep. -/

namespace Sys2Proof.Machine

theorem keeps_restepNote {z0 : State} (tb : Nat) (d : Int) {s : State} (hk : Keeps z0 s) : Keeps z0 (restepNote tb d s) := by
  unfold restepNote
  with_reducible repeat' first | dsimp only | assumption | apply keeps_glRestep | apply keeps_peRestep | apply keeps_ceRestep

theorem keeps_tbCmdWrite {z0 : State} (fn : Nat) (tb : Nat) (op : Nat) (w : Word) {s : State} (hk : Keeps z0 s) : Keeps z0 (tbCmdWrite fn tb op w s) := by
  unfold tbCmdWrite
  with_reducible repeat' first | dsimp only | assumption | apply keeps_access | apply keeps_tbCommand | apply keeps_restepNote | intro _

theorem keeps_setRefFb {z0 : State} (r : Nat) (v : Bool) {s : State} (hk : Keeps z0 s) : Keeps z0 (setRefFb r v s) := by
  unfold setRefFb
  with_reducible repeat' first | dsimp only | assumption | apply keeps_put | apply keeps_levelTo | apply keeps_ite | split

theorem keeps_restartLanes {z0 : State} (r : Nat) {s : State} (hk : Keeps z0 s) : Keeps z0 (restartLanes r s) := by
  unfold restartLanes
  with_reducible repeat' first | dsimp only | assumption | apply keeps_laneStart | apply keeps_foldl | apply keeps_foldl_snd | apply keeps_foldl_fst | intro _

theorem keeps_setRefOk {z0 : State} (r : Nat) (v : Bool) {s : State} (hk : Keeps z0 s) : Keeps z0 (setRefOk r v s) := by
  unfold setRefOk
  with_reducible repeat' first | dsimp only | assumption | apply keeps_putBit | apply keeps_levelTo | apply keeps_ite | split

theorem keeps_peDark {z0 : State} (n : Nat) {s : State} (hk : Keeps z0 s) : Keeps z0 (peDark n s) := by
  unfold peDark
  with_reducible repeat' first | dsimp only | assumption | apply keeps_modPe | intro _

theorem keeps_setAbsent {z0 : State} (r : Nat) (v : Bool) {s : State} (hk : Keeps z0 s) : Keeps z0 (setAbsent r v s) := by
  unfold setAbsent
  with_reducible repeat' first | dsimp only | assumption | apply keeps_ite | split | apply keeps_set_refAbsent

theorem keeps_pcieRetrain {z0 : State} {s : State} (hk : Keeps z0 s) : Keeps z0 (pcieRetrain s) := by
  unfold pcieRetrain
  with_reducible repeat' first | dsimp only | assumption | apply keeps_hxLinkDown | apply keeps_mxLinkDown | apply keeps_ite | split | apply keeps_set_mx

theorem keeps_refLoss {z0 : State} (r : Nat) {s : State} (hk : Keeps z0 s) : Keeps z0 (refLoss r s) := by
  unfold refLoss
  with_reducible repeat' first | assumption | intro _ | apply keeps_ite | split | dsimp only | apply keeps_putBit | apply keeps_forN | apply keeps_ulLink | apply keeps_pxShow | apply keeps_setRefFb | apply keeps_restartLanes | apply keeps_setRefOk | apply keeps_peDark | apply keeps_setAbsent | apply keeps_pcieRetrain | apply keeps_set_lanes | apply keeps_set_px | apply keeps_set_lanes_px

theorem keeps_ponReturn {z0 : State} {s : State} (hk : Keeps z0 s) : Keeps z0 (ponReturn s) := by
  unfold ponReturn
  with_reducible repeat' first | assumption | intro _ | apply keeps_ite | split | dsimp only | apply keeps_putBit | apply keeps_forN | apply keeps_peStart | apply keeps_setRefFb | apply keeps_restartLanes

theorem keeps_ethReturn {z0 : State} {s : State} (hk : Keeps z0 s) : Keeps z0 (ethReturn s) := by
  unfold ethReturn
  with_reducible repeat' first | dsimp only | assumption | apply keeps_setRefFb | apply keeps_restartLanes | apply keeps_setAbsent | apply keeps_ite | split

theorem keeps_refReturn {z0 : State} (r : Nat) {s : State} (hk : Keeps z0 s) : Keeps z0 (refReturn r s) := by
  unfold refReturn
  with_reducible repeat' first | dsimp only | assumption | apply keeps_setRefOk | apply keeps_ethReturn | apply keeps_ite | split

theorem keeps_refSwitch {z0 : State} (w : Nat) {s : State} (hk : Keeps z0 s) : Keeps z0 (refSwitch w s) := by
  unfold refSwitch
  with_reducible repeat' first | dsimp only | assumption | apply keeps_when | apply keeps_setRefFb | apply keeps_pcieRetrain | apply keeps_ponReturn | apply keeps_ethReturn | intro _

theorem keeps_execStepAbs {z0 : State} (fn : Fn) (tb : Fin 8) (w : Word) (t : Nat) {s : State} (hk : Keeps z0 s) : KeepsR z0 (execStepAbs fn tb w t s) := by
  unfold execStepAbs
  with_reducible repeat' first | dsimp only | assumption | apply KeepsR.next | apply KeepsR.fault | apply keeps_at | apply keeps_tbCmdWrite

theorem keeps_execStepRel {z0 : State} (fn : Fn) (tb : Fin 8) (w : Word) (t : Nat) {s : State} (hk : Keeps z0 s) : KeepsR z0 (execStepRel fn tb w t s) := by
  unfold execStepRel
  with_reducible repeat' first | dsimp only | assumption | apply KeepsR.next | apply KeepsR.fault | apply keeps_at | apply keeps_tbCmdWrite

theorem keeps_execRestepAbs {z0 : State} (fn : Fn) (tb : Fin 8) (w : Word) (t : Nat) {s : State} (hk : Keeps z0 s) : KeepsR z0 (execRestepAbs fn tb w t s) := by
  unfold execRestepAbs
  with_reducible repeat' first | dsimp only | assumption | apply KeepsR.next | apply KeepsR.fault | apply keeps_at | apply keeps_tbCmdWrite

theorem keeps_execRestepRel {z0 : State} (fn : Fn) (tb : Fin 8) (w : Word) (t : Nat) {s : State} (hk : Keeps z0 s) : KeepsR z0 (execRestepRel fn tb w t s) := by
  unfold execRestepRel
  with_reducible repeat' first | dsimp only | assumption | apply KeepsR.next | apply KeepsR.fault | apply keeps_at | apply keeps_tbCmdWrite

theorem keeps_execPpsEdge {z0 : State} (k : Fin 2) (longHigh : Bool) (t : Nat) {s : State} (hk : Keeps z0 s) : KeepsR z0 (execPpsEdge k longHigh t s) := by
  unfold execPpsEdge
  with_reducible repeat' first | dsimp only | assumption | apply KeepsR.next | apply KeepsR.fault | apply keeps_at | apply keeps_ppsEdge | apply keeps_restepNote

theorem keeps_execFsyncEdge {z0 : State} (t : Nat) {s : State} (hk : Keeps z0 s) : KeepsR z0 (execFsyncEdge t s) := by
  unfold execFsyncEdge
  with_reducible repeat' first | dsimp only | assumption | apply KeepsR.next | apply KeepsR.fault | apply keeps_at | apply keeps_forN | apply keeps_fsyncEdge | apply keeps_peEdge | intro _

theorem keeps_fsyncLoss {z0 : State} {s : State} (hk : Keeps z0 s) : Keeps z0 (fsyncLoss s) := by
  unfold fsyncLoss
  with_reducible repeat' first | assumption | intro _ | apply keeps_ite | split | dsimp only | apply keeps_putBit | apply keeps_levelTo | apply keeps_forN | apply keeps_setNofsync | apply keeps_set_fsyncLast

theorem keeps_execFsyncLoss {z0 : State} (t : Nat) {s : State} (hk : Keeps z0 s) : KeepsR z0 (execFsyncLoss t s) := by
  unfold execFsyncLoss
  with_reducible repeat' first | assumption | dsimp only | apply KeepsR.next | apply KeepsR.fault | apply keeps_at | apply keeps_fsyncLoss

theorem keeps_execRefclkLoss {z0 : State} (ref : Fin 3) {s : State} (hk : Keeps z0 s) : KeepsR z0 (execRefclkLoss ref s) := by
  unfold execRefclkLoss
  with_reducible repeat' first | assumption | dsimp only | apply KeepsR.next | apply KeepsR.fault | apply keeps_refLoss

theorem keeps_execRefclkReturn {z0 : State} (ref : Fin 3) {s : State} (hk : Keeps z0 s) : KeepsR z0 (execRefclkReturn ref s) := by
  unfold execRefclkReturn
  with_reducible repeat' first | dsimp only | assumption | apply KeepsR.next | apply KeepsR.fault | apply keeps_refReturn

theorem keeps_execRet {z0 : State} (fn : Fn) (_w : Word) {s : State} (hk : Keeps z0 s) : KeepsR z0 (execRet fn _w s) := by
  unfold execRet
  with_reducible repeat' first | dsimp only | assumption | apply KeepsR.next | apply KeepsR.fault | apply keeps_access | apply keeps_ponReturn | intro _

theorem keeps_execPwRefSwitch {z0 : State} (fn : Fn) (w : Word) {s : State} (hk : Keeps z0 s) : KeepsR z0 (execPwRefSwitch fn w s) := by
  unfold execPwRefSwitch
  with_reducible repeat' first | dsimp only | assumption | apply KeepsR.next | apply KeepsR.fault | apply keeps_access | apply keeps_refSwitch | intro _

end Sys2Proof.Machine
end

