-- ==== Sys2Proof/Laws/KeepsPower.lean ====
section
/-! SUPPORT. What the operations of Machine/Power.lean keep. -/

namespace Sys2Proof.Machine

theorem keeps_coreOff {z0 : State} (keep : Nat → Bool) {s : State} (hk : Keeps z0 s) : Keeps z0 (coreOff keep s) := by
  unfold coreOff
  refine keeps_drawSeeds (keeps_foldl (Keeps.anew hk (fun c => ⟨swf_skeep _ _ _ c.1, swf_nil _, c.2.2.1, c.2.2.2.1, rfl⟩) rfl rfl rfl rfl) ?_)
  exact fun s p h => keeps_setReg _ _ h

theorem keeps_setPower {z0 : State} (n : Nat) {s : State} (hk : Keeps z0 s) : Keeps z0 (setPower n s) := by
  unfold setPower
  with_reducible repeat' first | dsimp only | assumption | apply keeps_put

theorem keeps_rails {z0 : State} (on : Bool) (l : List Nat) {s : State} (hk : Keeps z0 s) : Keeps z0 (rails on l s) := by
  unfold rails
  with_reducible repeat' first | dsimp only | assumption | apply keeps_emit | apply keeps_foldl | apply keeps_foldl_snd | apply keeps_foldl_fst | intro _

theorem keeps_restEntry {z0 : State} (save : Bool) {s : State} (hk : Keeps z0 s) : Keeps z0 (restEntry save s) := by
  unfold restEntry
  with_reducible repeat' first | dsimp only | assumption | apply keeps_put | apply keeps_putBit | apply keeps_incWrap | apply keeps_forN | apply keeps_saveBank | apply keeps_closeDebug | apply keeps_setPx | apply keeps_coreOff | apply keeps_setPower | apply keeps_rails | apply keeps_ite | split | intro _ | apply keeps_set_pw

theorem keeps_pwCommand {z0 : State} (w : Nat) {s0 : State} (hk : Keeps z0 s0) : Keeps z0 (pwCommand w s0) := by
  unfold pwCommand
  with_reducible repeat' first | dsimp only | assumption | apply keeps_putBit | apply keeps_when | apply keeps_restEntry | apply keeps_ite | split | intro _

theorem keeps_pxUnable {z0 : State} {s : State} (hk : Keeps z0 s) : Keeps z0 (pxUnable s) := by
  unfold pxUnable
  with_reducible repeat' first | dsimp only | assumption | apply keeps_setPx | apply keeps_restEntry

theorem keeps_wakeStart {z0 : State} (src : Nat) {s : State} (hk : Keeps z0 s) : Keeps z0 (wakeStart src s) := by
  unfold wakeStart
  with_reducible repeat' first | dsimp only | assumption | apply keeps_put | apply keeps_putBit | apply keeps_incWrap | apply keeps_setPx | apply keeps_setPower | apply keeps_rails | apply keeps_ite | split | apply keeps_set_px_pw

theorem keeps_wakeRefs {z0 : State} (refs : Nat) {s : State} (hk : Keeps z0 s) : Keeps z0 (wakeRefs refs s) := by
  unfold wakeRefs
  with_reducible repeat' first | dsimp only | assumption | apply keeps_putBit | apply keeps_forN | apply keeps_setRefFb | apply keeps_setRefOk | apply keeps_setAbsent | apply keeps_ite | split | intro _

theorem keeps_wakeTime {z0 : State} {s : State} (hk : Keeps z0 s) : Keeps z0 (wakeTime s) := by
  unfold wakeTime
  with_reducible repeat' first | dsimp only | assumption | apply keeps_tbWake | apply keeps_set_tbRun

theorem keeps_pxRegsReset {z0 : State} {s : State} (hk : Keeps z0 s) : Keeps z0 (pxRegsReset s) := by
  unfold pxRegsReset
  exact keeps_put _ _ _ (keeps_put _ _ _ (keeps_put _ _ _ (hk.regs (swf_skeep _ _ _))))

theorem keeps_wakeRestore {z0 : State} (restore : Bool) (ue : Nat) (ce : Nat) {s : State} (hk : Keeps z0 s) : Keeps z0 (wakeRestore restore ue ce s) := by
  unfold wakeRestore
  with_reducible repeat' first | dsimp only | assumption | apply keeps_put | apply keeps_raise | apply keeps_laneStart | apply keeps_mxStart | apply keeps_restoreBanks | apply keeps_pxRegsReset | apply keeps_foldl | apply keeps_foldl_snd | apply keeps_foldl_fst | apply keeps_ite | split | intro _ | apply keeps_set_pw | apply keeps_set_px | apply keeps_set_px_pw

theorem keeps_wakeCore {z0 : State} (restore : Bool) (refs : Nat) (ue : Nat) (ce : Nat) (stall : Nat) {s : State} (hk : Keeps z0 s) : Keeps z0 (wakeCore restore refs ue ce stall s) := by
  unfold wakeCore
  with_reducible repeat' first | dsimp only | assumption | apply keeps_wakeRefs | apply keeps_wakeTime | apply keeps_wakeRestore | apply keeps_ite | split | apply keeps_set_pw

theorem keeps_pwrGoodRise {z0 : State} (rail : Nat) (refs : Nat) (ue : Nat) (ce : Nat) (stall : Nat) {s : State} (hk : Keeps z0 s) : Keeps z0 (pwrGoodRise rail refs ue ce stall s) := by
  unfold pwrGoodRise
  with_reducible repeat' first | dsimp only | assumption | apply keeps_put | apply keeps_rails | apply keeps_wakeCore | apply keeps_ite | split | apply keeps_set_pw

theorem keeps_unwind {z0 : State} (step : Nat) {s : State} (hk : Keeps z0 s) : Keeps z0 (unwind step s) := by
  unfold unwind
  with_reducible repeat' first | dsimp only | assumption | apply keeps_put | apply keeps_coreOff | apply keeps_rails | apply keeps_set_pw

theorem keeps_wakeStepTimeout {z0 : State} (step : Nat) {s : State} (hk : Keeps z0 s) : Keeps z0 (wakeStepTimeout step s) := by
  unfold wakeStepTimeout
  with_reducible repeat' first | dsimp only | assumption | apply keeps_unwind | apply keeps_ite | split

theorem keeps_wakeRetry {z0 : State} {s : State} (hk : Keeps z0 s) : Keeps z0 (wakeRetry s) := by
  unfold wakeRetry
  with_reducible repeat' first | dsimp only | assumption | apply keeps_put | apply keeps_putBit | apply keeps_raise | apply keeps_setPx | apply keeps_setPower | apply keeps_rails | apply keeps_ite | split | apply keeps_set_pw

theorem keeps_wakeDram {z0 : State} (verified : Bool) {s : State} (hk : Keeps z0 s) : Keeps z0 (wakeDram verified s) := by
  unfold wakeDram
  with_reducible repeat' first | dsimp only | assumption | apply keeps_saveStep | apply keeps_foldl | apply keeps_foldl_snd | apply keeps_foldl_fst | apply keeps_ite | split | intro _

theorem keeps_wakeEnd {z0 : State} (verified : Bool) (hx : Option (Bool × Nat × Nat)) (mx : Option (Nat × Bool × Nat)) {s : State} (hk : Keeps z0 s) : Keeps z0 (wakeEnd verified hx mx s) := by
  unfold wakeEnd
  with_reducible repeat' first | dsimp only | assumption | apply keeps_put | apply keeps_putBit | apply keeps_raise | apply keeps_recovered | apply keeps_hxLinkUp | apply keeps_mxLinkUp | apply keeps_pxShow | apply keeps_setPower | apply keeps_wakeDram | apply keeps_ite | split | apply keeps_set_pw

theorem keeps_wakeDone {z0 : State} (verified : Bool) (hx : Option (Bool × Nat × Nat)) (mx : Option (Nat × Bool × Nat)) {s : State} (hk : Keeps z0 s) : Keeps z0 (wakeDone verified hx mx s) := by
  unfold wakeDone
  with_reducible repeat' first | dsimp only | assumption | apply keeps_pxUnable | apply keeps_wakeEnd | apply keeps_ite | split

theorem keeps_thermtrip {z0 : State} {s : State} (hk : Keeps z0 s) : Keeps z0 (thermtrip s) := by
  unfold thermtrip
  with_reducible repeat' first | dsimp only | assumption | apply keeps_ite | split | apply keeps_set_pw

theorem keeps_pwrGoodFall {z0 : State} (rail : Nat) {s : State} (hk : Keeps z0 s) : Keeps z0 (pwrGoodFall rail s) := by
  unfold pwrGoodFall
  with_reducible repeat' first | dsimp only | assumption | apply keeps_unwind | apply keeps_ite | split | apply keeps_set_pw

theorem keeps_execSmsWake {z0 : State} (t : Nat) {s : State} (hk : Keeps z0 s) : KeepsR z0 (execSmsWake t s) := by
  unfold execSmsWake
  with_reducible repeat' first | dsimp only | assumption | apply KeepsR.next | apply KeepsR.fault | apply keeps_at | apply keeps_wakeStart

theorem keeps_execSmsRead {z0 : State} (off : Byte) (n : Nat) {s : State} (hk : Keeps z0 s) : KeepsR z0 (execSmsRead off n s) := by
  unfold execSmsRead
  with_reducible repeat' first | dsimp only | assumption | apply KeepsR.next | apply KeepsR.fault | apply keeps_emit

theorem keeps_execRest {z0 : State} (fn : Fn) (w : Word) (entry : RestEntry) {s : State} (hk : Keeps z0 s) : KeepsR z0 (execRest fn w entry s) := by
  unfold execRest
  with_reducible repeat' first | dsimp only | assumption | apply KeepsR.next | apply KeepsR.fault | apply keeps_at | apply keeps_access | apply keeps_when | apply keeps_pwCommand | apply keeps_wakeStart | intro _

theorem keeps_execWakeN {z0 : State} (t : Nat) {s : State} (hk : Keeps z0 s) : KeepsR z0 (execWakeN t s) := by
  unfold execWakeN
  with_reducible repeat' first | dsimp only | assumption | apply KeepsR.next | apply KeepsR.fault | apply keeps_at | apply keeps_wakeStart

theorem keeps_wakeAlarm {z0 : State} {s : State} (hk : Keeps z0 s) : Keeps z0 (wakeAlarm s) := by
  unfold wakeAlarm
  with_reducible repeat' first | dsimp only | assumption | apply keeps_wakeStart | apply keeps_ite | split

theorem keeps_execWakeAlarm {z0 : State} (t : Nat) {s : State} (hk : Keeps z0 s) : KeepsR z0 (execWakeAlarm t s) := by
  unfold execWakeAlarm
  with_reducible repeat' first | dsimp only | assumption | apply KeepsR.next | apply KeepsR.fault | apply keeps_at | apply keeps_wakeAlarm

theorem keeps_execPwrGoodRise {z0 : State} (rail : Fin 3) (refs : BitVec 3) (ue : Byte) (ce : Nat) (stall : Fin 3) {s : State} (hk : Keeps z0 s) : KeepsR z0 (execPwrGoodRise rail refs ue ce stall s) := by
  unfold execPwrGoodRise
  with_reducible repeat' first | dsimp only | assumption | apply KeepsR.next | apply KeepsR.fault | apply keeps_pwrGoodRise

theorem keeps_execWakeStepTimeout {z0 : State} (step : Fin 9) (t : Nat) {s : State} (hk : Keeps z0 s) : KeepsR z0 (execWakeStepTimeout step t s) := by
  unfold execWakeStepTimeout
  with_reducible repeat' first | dsimp only | assumption | apply KeepsR.next | apply KeepsR.fault | apply keeps_at | apply keeps_wakeStepTimeout

theorem keeps_execWakeRetry {z0 : State} (t : Nat) {s : State} (hk : Keeps z0 s) : KeepsR z0 (execWakeRetry t s) := by
  unfold execWakeRetry
  with_reducible repeat' first | dsimp only | assumption | apply KeepsR.next | apply KeepsR.fault | apply keeps_at | apply keeps_wakeRetry

theorem keeps_execPwWakeDone {z0 : State} (verified : Bool) (hx : Option (Bool × BitVec 4 × BitVec 4)) (mx : Option (BitVec 11 × Bool × BitVec 5)) (t : Nat) {s : State} (hk : Keeps z0 s) : KeepsR z0 (execPwWakeDone verified hx mx t s) := by
  unfold execPwWakeDone
  with_reducible repeat' first | dsimp only | assumption | apply KeepsR.next | apply KeepsR.fault | apply keeps_at | apply keeps_wakeDone | intro _

theorem keeps_execRetFailClear {z0 : State} (fn : Fn) (w : Word) {s : State} (hk : Keeps z0 s) : KeepsR z0 (execRetFailClear fn w s) := by
  unfold execRetFailClear
  with_reducible repeat' first | dsimp only | assumption | apply KeepsR.next | apply KeepsR.fault | apply keeps_access | apply keeps_retFailClear | intro _

theorem keeps_execPwrGoodFall {z0 : State} (rail : Fin 3) (t : Nat) {s : State} (hk : Keeps z0 s) : KeepsR z0 (execPwrGoodFall rail t s) := by
  unfold execPwrGoodFall
  with_reducible repeat' first | dsimp only | assumption | apply KeepsR.next | apply KeepsR.fault | apply keeps_at | apply keeps_pwrGoodFall

theorem keeps_execThermtrip {z0 : State} {s : State} (hk : Keeps z0 s) : KeepsR z0 (execThermtrip s) := by
  unfold execThermtrip
  with_reducible repeat' first | dsimp only | assumption | apply KeepsR.next | apply KeepsR.fault | apply keeps_thermtrip

end Sys2Proof.Machine
end

