-- ==== Sys2Proof/Laws/KeepsResets.lean ====
section
/-! SUPPORT. What the operations of Machine/Resets.lean keep. -/

namespace Sys2Proof.Machine

theorem keeps_hostChange {z0 : State} {s : State} (fn : Nat) (a : Nat) (w : Word) (act : State → State → State) (hkact : ∀ x0 x1, Keeps z0 x1 → Keeps z0 (act x0 x1)) (hk : Keeps z0 s) : Keeps z0 (State.hostChange s fn a w act) := by
  unfold State.hostChange
  with_reducible repeat' first | dsimp only | assumption | apply keeps_storeFields | apply keeps_access | apply hkact | intro _

theorem keeps_clearPages {z0 : State} (sect : Nat) {s : State} (hk : Keeps z0 s) : Keeps z0 (clearPages sect s) := by
  unfold clearPages
  dsimp only
  refine Keeps.anew hk (fun c => ⟨?_, ?_, c.2.2⟩) rfl rfl rfl rfl
  · dsimp only; exact swf_skeep _ _ _ c.1
  · dsimp only; exact swf_skeep _ _ _ c.2.1

theorem keeps_clearPorts {z0 : State} (sect : Nat) {s : State} (hk : Keeps z0 s) : Keeps z0 (clearPorts sect s) := by
  unfold clearPorts
  with_reducible repeat' first | dsimp only | assumption | apply keeps_dropRef | apply keeps_foldl | apply keeps_foldl_snd | apply keeps_foldl_fst | split | intro _ | apply keeps_set_pes_gps_keys

theorem keeps_leavePools {z0 : State} {s : State} (hk : Keeps z0 s) : Keeps z0 (leavePools s) := by
  unfold leavePools
  dsimp only
  refine Keeps.dm (keeps_foldl hk (fun _ _ h => keeps_leaveBytes _ _ h)) (mem_foldl_wf (fun m x h => ?_) _ _)
  split
  · exact h
  · exact memWrite_wf _ _ _ h

theorem keeps_sectionReset {z0 : State} (sect : Nat) {s : State} (hk : Keeps z0 s) : Keeps z0 (sectionReset sect s) := by
  unfold sectionReset
  with_reducible repeat' first | dsimp only | assumption | apply keeps_put | apply keeps_settle | apply keeps_drawSeeds | apply keeps_pxShow | apply keeps_clearPages | apply keeps_clearPorts | apply keeps_leavePools | apply keeps_ite | split | intro _ | apply keeps_set_lanes | apply keeps_set_lookups_lk | apply keeps_set_poison_bp_tm_gl | apply keeps_set_ul_ce_px

theorem keeps_rstReject {z0 : State} {s : State} (hk : Keeps z0 s) : Keeps z0 (rstReject s) := by
  unfold rstReject
  with_reducible repeat' first | dsimp only | assumption | apply keeps_putBit

theorem keeps_trimState {z0 : State} {s : State} (hk : Keeps z0 s) : Keeps z0 (trimState s) := by
  unfold trimState
  with_reducible repeat' first | dsimp only | assumption | apply keeps_setPower | apply keeps_ite | split | intro _

theorem keeps_srst {z0 : State} (sect : Nat) {s : State} (hk : Keeps z0 s) : Keeps z0 (srst sect s) := by
  unfold srst
  with_reducible repeat' first | dsimp only | assumption | apply keeps_sectionReset | apply keeps_rstReject | apply keeps_trimState | apply keeps_ite | split | apply keeps_set_dev

theorem keeps_sectionDone {z0 : State} (sect : Nat) {s : State} (hk : Keeps z0 s) : Keeps z0 (sectionDone sect s) := by
  unfold sectionDone
  with_reducible repeat' first | dsimp only | assumption | apply keeps_put | apply keeps_ite | split

theorem keeps_deviceReset {z0 : State} (last : Nat) (refs : Nat) (ue : Nat) (ce : Nat) (stall : Nat) {s : State} (hk : Keeps z0 s) : Keeps z0 (deviceReset last refs ue ce stall s) := by
  unfold deviceReset
  with_reducible repeat' first | dsimp only | assumption | apply keeps_put | apply keeps_closeDebug | apply keeps_coreOff | apply keeps_setPower | apply keeps_wakeCore | apply keeps_set_px_pw

theorem keeps_dvRst {z0 : State} (w : Nat) (refs : Nat) (ue : Nat) (ce : Nat) (stall : Nat) {s : State} (hk : Keeps z0 s) : Keeps z0 (dvRst w refs ue ce stall s) := by
  unfold dvRst
  with_reducible repeat' first | dsimp only | assumption | apply keeps_rstReject | apply keeps_srst | apply keeps_deviceReset | apply keeps_ite | split

theorem keeps_sysrst {z0 : State} (refs : Nat) (ue : Nat) (ce : Nat) (stall : Nat) {s : State} (hk : Keeps z0 s) : Keeps z0 (sysrst refs ue ce stall s) := by
  unfold sysrst
  with_reducible repeat' first | dsimp only | assumption | apply keeps_deviceReset | apply keeps_ite | split

theorem keeps_coldReset {z0 : State} (role : Nat) {s : State} (hk : Keeps z0 s) : Keeps z0 (coldReset role s) := by
  unfold coldReset
  refine keeps_rails _ _ (keeps_put _ _ _ (keeps_drawSeeds (keeps_foldl (Keeps.anew hk (fun c => ⟨swf_nil _, swf_nil _, c.2.2.1, c.2.2.2.1, rfl⟩) rfl rfl rfl rfl) ?_)))
  exact fun s p h => keeps_setReg _ _ h

theorem keeps_hush {z0 : State} (n : Nat) {s : State} (hk : Keeps z0 s) : Keeps z0 (hush n s) := by
  unfold hush
  with_reducible repeat' first | dsimp only | assumption | apply keeps_modLane | apply keeps_lst | apply keeps_lnState | apply keeps_lnLos | apply keeps_lnFrozen | apply keeps_ite | split | intro _

theorem keeps_unhush {z0 : State} (n : Nat) {s : State} (hk : Keeps z0 s) : Keeps z0 (unhush n s) := by
  unfold unhush
  with_reducible repeat' first | dsimp only | assumption | apply keeps_modLane | apply keeps_lnState | apply keeps_lnFrozen | apply keeps_txLeave | apply keeps_peStart | apply keeps_ite | split | intro _

theorem keeps_psPwrAct {z0 : State} (sect : Nat) (old : Nat) {s : State} (hk : Keeps z0 s) : Keeps z0 (psPwrAct sect old s) := by
  unfold psPwrAct
  with_reducible repeat' first | dsimp only | assumption | apply keeps_putBit | apply keeps_raise | apply keeps_forN | apply keeps_avsLimit | apply keeps_pitchStart | apply keeps_sectionReset | apply keeps_trimState | apply keeps_hush | apply keeps_unhush | apply keeps_ite | split | intro _ | apply keeps_set_dev

theorem keeps_psPwrWrite {z0 : State} (fn : Nat) (sect : Nat) (w : Word) {s : State} (hk : Keeps z0 s) : Keeps z0 (psPwrWrite fn sect w s) := by
  unfold psPwrWrite
  with_reducible repeat' first | dsimp only | assumption | apply keeps_hostChange | apply keeps_psPwrAct | intro _

theorem keeps_psPwrBit {z0 : State} (fn : Nat) (sect : Nat) (b : Nat) (v : Bool) {s : State} (hk : Keeps z0 s) : Keeps z0 (psPwrBit fn sect b v s) := by
  unfold psPwrBit
  with_reducible repeat' first | dsimp only | assumption | apply keeps_psPwrWrite | apply keeps_ite | split

theorem keeps_pwPinLevel {z0 : State} {s : State} (hk : Keeps z0 s) : Keeps z0 (pwPinLevel s) := by
  unfold pwPinLevel
  with_reducible repeat' first | dsimp only | assumption | apply keeps_levelTo

theorem keeps_pinFault {z0 : State} (p : Pin) (high : Bool) {s : State} (hk : Keeps z0 s) : Keeps z0 (pinFault p high s) := by
  unfold pinFault
  with_reducible repeat' first | dsimp only | assumption | apply keeps_setReg | apply keeps_put | apply keeps_putBit | apply keeps_incSat | apply keeps_pinLevel | apply keeps_trcAbort | apply keeps_pwPinLevel | apply keeps_ite | split

theorem keeps_pinRetry {z0 : State} (p : Pin) (good : Bool) {s : State} (hk : Keeps z0 s) : Keeps z0 (pinRetry p good s) := by
  unfold pinRetry
  with_reducible repeat' first | dsimp only | assumption | apply keeps_setReg | apply keeps_put | apply keeps_putBit | apply keeps_pinLevel | apply keeps_pwPinLevel | apply keeps_ite | split

theorem keeps_execPorst {z0 : State} (role : Bool) (t : Nat) {s : State} (hk : Keeps z0 s) : KeepsR z0 (execPorst role t s) := by
  unfold execPorst
  with_reducible repeat' first | dsimp only | assumption | apply KeepsR.next | apply KeepsR.fault | apply keeps_at | apply keeps_coldReset | apply keeps_ite | apply keepsR_ite | split

theorem keeps_execSysrst {z0 : State} (refs : BitVec 3) (ue : Byte) (ce : Nat) (stall : Fin 3) (t : Nat) {s : State} (hk : Keeps z0 s) : KeepsR z0 (execSysrst refs ue ce stall t s) := by
  unfold execSysrst
  with_reducible repeat' first | dsimp only | assumption | apply KeepsR.next | apply KeepsR.fault | apply keeps_at | apply keeps_sysrst

theorem keeps_execDrst {z0 : State} (fn : Fn) (w : Word) (refs : BitVec 3) (ue : Byte) (ce : Nat) (stall : Fin 3) (t : Nat) {s : State} (hk : Keeps z0 s) : KeepsR z0 (execDrst fn w refs ue ce stall t s) := by
  unfold execDrst
  with_reducible repeat' first | dsimp only | assumption | apply KeepsR.next | apply KeepsR.fault | apply keeps_at | apply keeps_access | apply keeps_dvRst | intro _

theorem keeps_execSrst {z0 : State} (fn : Fn) (sect : BitVec 4) {s : State} (hk : Keeps z0 s) : KeepsR z0 (execSrst fn sect s) := by
  unfold execSrst
  with_reducible repeat' first | dsimp only | assumption | apply KeepsR.next | apply KeepsR.fault | apply keeps_access | apply keeps_dvRst | intro _

theorem keeps_execSectionResetDone {z0 : State} (sect : Fin 11) {s : State} (hk : Keeps z0 s) : KeepsR z0 (execSectionResetDone sect s) := by
  unfold execSectionResetDone
  with_reducible repeat' first | dsimp only | assumption | apply KeepsR.next | apply KeepsR.fault | apply keeps_sectionDone

theorem keeps_execHush {z0 : State} (fn : Fn) (port : Fin 48) {s : State} (hk : Keeps z0 s) : KeepsR z0 (execHush fn port s) := by
  unfold execHush
  with_reducible repeat' first | dsimp only | assumption | apply KeepsR.next | apply KeepsR.fault | apply keeps_psPwrBit

theorem keeps_execUnhush {z0 : State} (fn : Fn) (port : Fin 48) {s : State} (hk : Keeps z0 s) : KeepsR z0 (execUnhush fn port s) := by
  unfold execUnhush
  with_reducible repeat' first | dsimp only | assumption | apply KeepsR.next | apply KeepsR.fault | apply keeps_psPwrBit

theorem keeps_execSectGated {z0 : State} (fn : Fn) (sect : Fin 6) {s : State} (hk : Keeps z0 s) : KeepsR z0 (execSectGated fn sect s) := by
  unfold execSectGated
  with_reducible repeat' first | dsimp only | assumption | apply KeepsR.next | apply KeepsR.fault | apply keeps_psPwrBit

theorem keeps_execSectUngated {z0 : State} (fn : Fn) (sect : Fin 6) {s : State} (hk : Keeps z0 s) : KeepsR z0 (execSectUngated fn sect s) := by
  unfold execSectUngated
  with_reducible repeat' first | dsimp only | assumption | apply KeepsR.next | apply KeepsR.fault | apply keeps_psPwrBit

theorem keeps_execPinShort {z0 : State} (pin : Pin) (high : Bool) {s : State} (hk : Keeps z0 s) : KeepsR z0 (execPinShort pin high s) := by
  unfold execPinShort
  with_reducible repeat' first | dsimp only | assumption | apply KeepsR.next | apply KeepsR.fault | apply keeps_pin | apply keeps_pinFault

theorem keeps_execPinRetry {z0 : State} (pin : Pin) (good : Bool) {s : State} (hk : Keeps z0 s) : KeepsR z0 (execPinRetry pin good s) := by
  unfold execPinRetry
  with_reducible repeat' first | dsimp only | assumption | apply KeepsR.next | apply KeepsR.fault | apply keeps_pin | apply keeps_pinRetry

end Sys2Proof.Machine
end

