-- ==== Sys2Proof/Laws/KeepsCheckpoint.lean ====
section
/-! SUPPORT. What the operations of Machine/Checkpoint.lean keep. -/

namespace Sys2Proof.Machine

theorem keeps_ckPutTab {z0 : State} {s : State} (p : Nat × Entry) (hk : Keeps z0 s) : Keeps z0 (ckPutTab s p) := by
  unfold ckPutTab
  with_reducible repeat' first | dsimp only | assumption | apply keeps_putKey

theorem keeps_ckPutReg {z0 : State} {s : State} (p : Nat × Word) (hk : Keeps z0 s) : Keeps z0 (ckPutReg s p) := by
  unfold ckPutReg
  with_reducible repeat' first | dsimp only | assumption | apply keeps_setReg

theorem keeps_ckDerive {z0 : State} {s : State} (hk : Keeps z0 s) : Keeps z0 (ckDerive s) := by
  unfold ckDerive
  with_reducible repeat' first | dsimp only | assumption | apply keeps_setNode | apply keeps_setCommit | apply keeps_filtSet | apply keeps_foldl | apply keeps_foldl_snd | apply keeps_foldl_fst | intro _

theorem keeps_ckFree {z0 : State} (n : Nat) {s : State} (hk : Keeps z0 s) : Keeps z0 (ckFree n s) := by
  unfold ckFree
  with_reducible repeat' first | dsimp only | assumption | apply keeps_setEnt | apply keeps_marginFree | apply keeps_dropKeys | apply keeps_foldl | apply keeps_foldl_snd | apply keeps_foldl_fst | intro _

theorem keeps_ckLost {z0 : State} (n : Nat) {s : State} (hk : Keeps z0 s) : Keeps z0 (ckLost n s) := by
  unfold ckLost
  with_reducible repeat' first | dsimp only | assumption | apply keeps_draw | apply keeps_modCx | apply keeps_foldl | apply keeps_foldl_snd | apply keeps_foldl_fst | intro _

theorem keeps_ckApply {z0 : State} (d : CkData) {s : State} (hk : Keeps z0 s) : Keeps z0 (ckApply d s) := by
  unfold ckApply
  with_reducible repeat' first | dsimp only | assumption | apply keeps_put | apply keeps_forN | apply keeps_psPwrAct | apply keeps_ckPutTab | apply keeps_ckPutReg | apply keeps_ckDerive | apply keeps_foldl | apply keeps_foldl_snd | apply keeps_foldl_fst | apply keeps_ite | apply keeps_ite_snd | apply keeps_ite_fst | split | intro _ | apply keeps_set_keys_px

theorem keeps_ckClear {z0 : State} {s : State} (hk : Keeps z0 s) : Keeps z0 (ckClear s) := by
  have hf : ∀ (p : Nat × Entry → Bool) (m : SMap Entry), swf entReset m = true → swf entReset (m.filter p) = true := fun p m h => by
    rw [swf_iff] at h ⊢
    exact ⟨srise_filter _ 0 m h.1, fun e he => h.2 e (List.mem_filter.1 he).1⟩
  have h1 : Keeps z0 (s.regs.foldl (fun x p => ckPutReg x (p.1, resetWord p.1)) s) := keeps_foldl hk (fun s p h => keeps_ckPutReg _ h)
  unfold ckClear
  exact keeps_set_keys (h1.tabs (hf _ _))

theorem keeps_setSlot {z0 : State} (k : Nat) (x : CkSlot) {s : State} (hk : Keeps z0 s) : Keeps z0 (setSlot k x s) := by
  unfold setSlot
  with_reducible repeat' first | dsimp only | assumption | apply keeps_set_px

theorem keeps_ckImage {z0 : State} {s : State} (hk : Keeps z0 s) : Keeps z0 (ckImage s) := by
  unfold ckImage
  with_reducible repeat' first | dsimp only | assumption | apply keeps_setSlot | split | apply keeps_set_px

theorem keeps_drawBytes {z0 : State} (y0 : Nat) {y1 : State} (hk : Keeps z0 y1) : Keeps z0 (drawBytes y0 y1).2 := by
  revert hk
  fun_induction drawBytes y0 y1 <;> intro hk
  all_goals with_reducible repeat' first | dsimp only | assumption | apply_assumption | apply keeps_draw

theorem keeps_commitRecord {z0 : State} (gen : Nat) (sfc : Nat) (terms : Nat) {s : State} (hk : Keeps z0 s) : Keeps z0 (commitRecord gen sfc terms s).2 := by
  unfold commitRecord
  with_reducible repeat' first | dsimp only | assumption | apply keeps_drawBytes

theorem keeps_ckShow {z0 : State} (slot : Nat) (gen : Nat) (dseq : Nat) {s : State} (hk : Keeps z0 s) : Keeps z0 (ckShow slot gen dseq s) := by
  unfold ckShow
  with_reducible repeat' first | dsimp only | assumption | apply keeps_put

theorem keeps_ckCommit {z0 : State} {s : State} (hk : Keeps z0 s) : Keeps z0 (ckCommit s) := by
  unfold ckCommit
  with_reducible repeat' first | dsimp only | assumption | apply keeps_bump | apply keeps_mxWrite | apply keeps_setSlot | apply keeps_commitRecord | apply keeps_ckShow | apply keeps_ite | apply keeps_ite_snd | apply keeps_ite_fst | split | apply keeps_set_px

theorem keeps_deltaHead {z0 : State} (dseq : Nat) (gen : Nat) (len : Nat) {s : State} (hk : Keeps z0 s) : Keeps z0 (deltaHead dseq gen len s).2 := by
  unfold deltaHead
  with_reducible repeat' first | dsimp only | assumption | apply keeps_drawBytes

theorem keeps_ckDelta {z0 : State} (excess : Bool) {s : State} (hk : Keeps z0 s) : Keeps z0 (ckDelta excess s) := by
  unfold ckDelta
  with_reducible repeat' first | dsimp only | assumption | apply keeps_bump | apply keeps_draw | apply keeps_mxWrite | apply keeps_setSlot | apply keeps_ckImage | apply keeps_ckShow | apply keeps_deltaHead | apply keeps_foldl | apply keeps_foldl_snd | apply keeps_foldl_fst | apply keeps_ite | apply keeps_ite_snd | apply keeps_ite_fst | split | intro _ | apply keeps_set_px

theorem keeps_applyDeltas {z0 : State} (gen : Nat) (y0 : Nat) (y1 : List CkDelta) {y2 : State} (hk : Keeps z0 y2) : Keeps z0 (applyDeltas gen y0 y1 y2).2 := by
  revert hk
  fun_induction applyDeltas gen y0 y1 y2 <;> intro hk
  all_goals with_reducible repeat' first | assumption | apply keeps_ckApply | apply_assumption | apply keeps_ite | apply keeps_ite_snd | apply keeps_ite_fst | split | dsimp only

theorem keeps_fillAlloc {z0 : State} (n : Nat) (i : Nat) {s : State} (hk : Keeps z0 s) : Keeps z0 (fillAlloc n i s) := by
  unfold fillAlloc
  with_reducible repeat' first | dsimp only | assumption | apply keeps_modGp | intro _

theorem keeps_fillBuckets {z0 : State} {s : State} (hk : Keeps z0 s) : Keeps z0 (fillBuckets s) := by
  unfold fillBuckets
  with_reducible repeat' first | dsimp only | assumption | apply keeps_fillNode | apply keeps_fillAlloc | apply keeps_foldl | apply keeps_foldl_snd | apply keeps_foldl_fst | intro _

theorem keeps_loadSlot {z0 : State} (k : Nat) (x : CkSlot) {s : State} (hk : Keeps z0 s) : Keeps z0 (loadSlot k x s) := by
  unfold loadSlot
  with_reducible repeat' first | assumption | apply keeps_keySwitch | apply keeps_ckFree | apply keeps_ckLost | apply keeps_ckApply | apply keeps_ckClear | apply keeps_ckShow | apply keeps_applyDeltas | apply keeps_fillBuckets | apply keeps_foldl | apply keeps_foldl_snd | apply keeps_foldl_fst | split | intro _ | dsimp only

theorem keeps_slotFail {z0 : State} (cause : Nat) {s : State} (hk : Keeps z0 s) : Keeps z0 (slotFail cause s) := by
  unfold slotFail
  with_reducible repeat' first | dsimp only | assumption | apply keeps_put | apply keeps_raise | apply keeps_ite | split | apply keeps_set_px

theorem keeps_ckRestore {z0 : State} (a : CkSlot) (b : CkSlot) {s : State} (hk : Keeps z0 s) : Keeps z0 (ckRestore a b s).2 := by
  unfold ckRestore
  with_reducible repeat' first | dsimp only | assumption | apply keeps_loadSlot | apply keeps_slotFail | apply keeps_ite | apply keeps_ite_snd | apply keeps_ite_fst | split | apply keeps_set_px

end Sys2Proof.Machine
end

