-- ==== Sys2Proof/Laws/KeepsProtection.lean ====
section
/-! SUPPORT. What the operations of Machine/Protection.lean keep. -/

namespace Sys2Proof.Machine

theorem keeps_pxPlant {z0 : State} (old : Nat) (n : Nat) {s : State} (hk : Keeps z0 s) : Keeps z0 (pxPlant old n s) := by
  unfold pxPlant
  with_reducible repeat' first | dsimp only | assumption | apply keeps_trcAbort | apply keeps_alsTakeover | apply keeps_foldl | apply keeps_foldl_snd | apply keeps_foldl_fst | apply keeps_ite | split | intro _

theorem keeps_goPx {z0 : State} (n : Nat) {s : State} (hk : Keeps z0 s) : Keeps z0 (goPx n s) := by
  unfold goPx
  with_reducible repeat' first | dsimp only | assumption | apply keeps_putBit | apply keeps_setPx | apply keeps_switchShow | apply keeps_pxPlant | apply keeps_ite | split | apply keeps_set_px

theorem keeps_startPorts {z0 : State} {s : State} (hk : Keeps z0 s) : Keeps z0 (startPorts s) := by
  unfold startPorts
  with_reducible repeat' first | assumption | intro _ | apply keeps_ite | split | dsimp only | apply keeps_putBit | apply keeps_peStart | apply keeps_foldl | apply keeps_foldl_snd | apply keeps_foldl_fst

theorem keeps_enterShadow {z0 : State} {s : State} (hk : Keeps z0 s) : Keeps z0 (enterShadow s) := by
  unfold enterShadow
  with_reducible repeat' first | dsimp only | assumption | apply keeps_goPx | apply keeps_startPorts | apply keeps_ite | split | apply keeps_set_px

theorem keeps_standby {z0 : State} {s : State} (hk : Keeps z0 s) : Keeps z0 (standby s) := by
  unfold standby
  with_reducible repeat' first | dsimp only | assumption | apply keeps_restEntry | apply keeps_enterShadow | apply keeps_ite | split

theorem keeps_setK {z0 : State} (k : Option Nat) {s : State} (hk : Keeps z0 s) : Keeps z0 (setK k s) := by
  unfold setK
  with_reducible repeat' first | dsimp only | assumption | apply keeps_switchShow | split | apply keeps_set_px

theorem keeps_arbitrate {z0 : State} {s : State} (hk : Keeps z0 s) : Keeps z0 (arbitrate s) := by
  unfold arbitrate
  with_reducible repeat' first | dsimp only | assumption | apply keeps_put | apply keeps_putBit | apply keeps_setK | apply keeps_ite | split

theorem keeps_setReq {z0 : State} (r : Nat) {s : State} (hk : Keeps z0 s) : Keeps z0 (setReq r s) := by
  unfold setReq
  with_reducible repeat' first | dsimp only | assumption | apply keeps_arbitrate | apply keeps_set_px

theorem keeps_heardPeer {z0 : State} {s : State} (hk : Keeps z0 s) : Keeps z0 (heardPeer s) := by
  unfold heardPeer
  with_reducible repeat' first | dsimp only | assumption | apply keeps_bump | apply keeps_recovered | apply keeps_goPx | apply keeps_standby | apply keeps_ite | split | apply keeps_set_px

theorem keeps_mapAlign {z0 : State} (n : Nat) (m : MapMsg) {s : State} (hk : Keeps z0 s) : Keeps z0 (mapAlign n m s) := by
  unfold mapAlign
  with_reducible repeat' first | dsimp only | assumption | apply keeps_putBit | apply keeps_ite | split | intro _ | apply keeps_set_px

theorem keeps_mapWhole {z0 : State} (n : Nat) (m : GMap) {s : State} (hk : Keeps z0 s) : Keeps z0 (mapWhole n m s) := by
  unfold mapWhole
  with_reducible repeat' first | dsimp only | assumption | apply keeps_openWindows | apply keeps_ite | split | apply keeps_set_px

theorem keeps_mapRx {z0 : State} (m : MapMsg) {s : State} (hk : Keeps z0 s) : Keeps z0 (mapRx m s) := by
  unfold mapRx
  with_reducible repeat' first | dsimp only | assumption | apply keeps_mapAlign | apply keeps_mapWhole | apply keeps_ite | apply keeps_ite_snd | apply keeps_ite_fst | split | intro _ | apply keeps_set_px

theorem keeps_swqRx {z0 : State} (a : Nat) (b : Nat) {s : State} (hk : Keeps z0 s) : Keeps z0 (swqRx a b s) := by
  unfold swqRx
  with_reducible repeat' first | dsimp only | assumption | apply keeps_put | apply keeps_raise | apply keeps_arbitrate | apply keeps_ite | apply keeps_ite_snd | apply keeps_ite_fst | split | apply keeps_set_px

theorem keeps_switchRx {z0 : State} (k : Nat) {s : State} (hk : Keeps z0 s) : Keeps z0 (switchRx k s) := by
  unfold switchRx
  with_reducible repeat' first | dsimp only | assumption | apply keeps_setK | apply keeps_ite | split

theorem keeps_ligAccept {z0 : State} (f : LigFrame) {s : State} (hk : Keeps z0 s) : Keeps z0 (ligAccept f s) := by
  unfold ligAccept
  with_reducible repeat' first | dsimp only | assumption | apply keeps_putBit | apply keeps_pxShow | apply keeps_heardPeer | apply keeps_mapRx | apply keeps_swqRx | apply keeps_switchRx | apply keeps_foldl | apply keeps_foldl_snd | apply keeps_foldl_fst | apply keeps_ite | split | intro _ | apply keeps_set_px

theorem keeps_ligFrame {z0 : State} (lane : Nat) (f : LigFrame) {s : State} (hk : Keeps z0 s) : Keeps z0 (ligFrame lane f s) := by
  unfold ligFrame
  with_reducible repeat' first | dsimp only | assumption | apply keeps_bump | apply keeps_pxShow | apply keeps_ligAccept | apply keeps_foldl | apply keeps_foldl_snd | apply keeps_foldl_fst | apply keeps_ite | apply keeps_ite_snd | apply keeps_ite_fst | split | intro _ | apply keeps_set_lanes | apply keeps_set_px | apply keeps_set_lanes_px

theorem keeps_shadowDue {z0 : State} {s : State} (hk : Keeps z0 s) : Keeps z0 (shadowDue s) := by
  unfold shadowDue
  with_reducible repeat' first | dsimp only | assumption | apply keeps_enterShadow | apply keeps_ite | split

theorem keeps_ligAlign {z0 : State} (lane : Nat) (word : BitVec 64) (confirm : BitVec 64) (logical : Nat) {s : State} (hk : Keeps z0 s) : Keeps z0 (ligAlign lane word confirm logical s) := by
  unfold ligAlign
  with_reducible repeat' first | dsimp only | assumption | apply keeps_pxShow | apply keeps_shadowDue | apply keeps_ite | split | apply keeps_set_lanes | apply keeps_set_px | apply keeps_set_lanes_px

theorem keeps_ligAlignLoss {z0 : State} (lane : Nat) (ws : List (BitVec 64)) {s : State} (hk : Keeps z0 s) : Keeps z0 (ligAlignLoss lane ws s) := by
  unfold ligAlignLoss
  with_reducible repeat' first | dsimp only | assumption | apply keeps_pxShow | apply keeps_ite | split | intro _ | apply keeps_set_px

theorem keeps_wtrTick {z0 : State} {s : State} (hk : Keeps z0 s) : Keeps z0 (wtrTick s) := by
  unfold wtrTick
  with_reducible repeat' first | dsimp only | assumption | apply keeps_put | apply keeps_setReq | apply keeps_ite | split | apply keeps_set_px

theorem keeps_hbTick {z0 : State} {s : State} (hk : Keeps z0 s) : Keeps z0 (hbTick s) := by
  unfold hbTick
  with_reducible repeat' first | dsimp only | assumption | apply keeps_emit | apply keeps_wtrTick | apply keeps_ite | split | apply keeps_set_px

theorem keeps_wtrExpiry {z0 : State} {s : State} (hk : Keeps z0 s) : Keeps z0 (wtrExpiry s) := by
  unfold wtrExpiry
  with_reducible repeat' first | dsimp only | assumption | apply keeps_setReq | apply keeps_ite | split

theorem keeps_hbWordTx {z0 : State} {s : State} (hk : Keeps z0 s) : Keeps z0 (hbWordTx s) := by
  unfold hbWordTx
  with_reducible repeat' first | dsimp only | assumption | apply keeps_emit | apply keeps_ite | split

theorem keeps_hbWordRx {z0 : State} (bits : Nat) {s : State} (hk : Keeps z0 s) : Keeps z0 (hbWordRx bits s) := by
  unfold hbWordRx
  with_reducible repeat' first | dsimp only | assumption | apply keeps_put | apply keeps_putBit | apply keeps_pxRaise | apply keeps_pxShow | apply keeps_heardPeer | apply keeps_ite | split | apply keeps_set_px

theorem keeps_dropA {z0 : State} {s : State} (hk : Keeps z0 s) : Keeps z0 (dropA s) := by
  unfold dropA
  with_reducible repeat' first | dsimp only | assumption | apply keeps_putBit

theorem keeps_dropB {z0 : State} {s : State} (hk : Keeps z0 s) : Keeps z0 (dropB s) := by
  unfold dropB
  with_reducible repeat' first | dsimp only | assumption | apply keeps_put | apply keeps_putBit

theorem keeps_hbALoss {z0 : State} {s : State} (hk : Keeps z0 s) : Keeps z0 (hbALoss s) := by
  unfold hbALoss
  with_reducible repeat' first | dsimp only | assumption | apply keeps_pxShow | apply keeps_dropA | apply keeps_ite | split

theorem keeps_hbBLoss {z0 : State} {s : State} (hk : Keeps z0 s) : Keeps z0 (hbBLoss s) := by
  unfold hbBLoss
  with_reducible repeat' first | dsimp only | assumption | apply keeps_pxShow | apply keeps_dropB | apply keeps_ite | split

theorem keeps_witnessAct {z0 : State} (wlos : Nat) {s0 : State} (hk : Keeps z0 s0) : Keeps z0 (witnessAct wlos s0) := by
  unfold witnessAct
  with_reducible repeat' first | dsimp only | assumption | apply keeps_witShow | apply keeps_wakeStart | apply keeps_goPx | apply keeps_standby | apply keeps_ite | split | apply keeps_set_px

theorem keeps_peerFail {z0 : State} (wlos : Nat) {s : State} (hk : Keeps z0 s) : Keeps z0 (peerFail wlos s) := by
  unfold peerFail
  with_reducible repeat' first | dsimp only | assumption | apply keeps_pxRaise | apply keeps_pxShow | apply keeps_dropA | apply keeps_dropB | apply keeps_witnessAct | apply keeps_ite | split | apply keeps_set_px

theorem keeps_witnessEval {z0 : State} (wlos : Nat) {s : State} (hk : Keeps z0 s) : Keeps z0 (witnessEval wlos s) := by
  unfold witnessEval
  with_reducible repeat' first | dsimp only | assumption | apply keeps_witnessAct | apply keeps_ite | split

theorem keeps_holdExpiry {z0 : State} {s : State} (hk : Keeps z0 s) : Keeps z0 (holdExpiry s) := by
  unfold holdExpiry
  with_reducible repeat' first | dsimp only | assumption | apply keeps_goPx | apply keeps_ite | split

theorem keeps_listenPeriod {z0 : State} {s : State} (hk : Keeps z0 s) : Keeps z0 (listenPeriod s) := by
  unfold listenPeriod
  with_reducible repeat' first | dsimp only | assumption | apply keeps_standby | apply keeps_ite | split | apply keeps_set_px

theorem keeps_provisionalPromote {z0 : State} {s : State} (hk : Keeps z0 s) : Keeps z0 (provisionalPromote s) := by
  unfold provisionalPromote
  with_reducible repeat' first | dsimp only | assumption | apply keeps_goPx | apply keeps_ite | apply keeps_ite_snd | split | intro _

theorem keeps_takeoverTime {z0 : State} (sfc : Nat) (start : Nat) {s : State} (hk : Keeps z0 s) : Keeps z0 (takeoverTime sfc start s) := by
  unfold takeoverTime
  with_reducible repeat' first | dsimp only | assumption | apply keeps_setTb | apply keeps_tbApply | apply keeps_restepNote | apply keeps_foldl | apply keeps_foldl_snd | apply keeps_foldl_fst | apply keeps_ite | apply keeps_ite_snd | apply keeps_ite_fst | split | intro _

theorem keeps_rerangeAll {z0 : State} (n : Nat) {s : State} (hk : Keeps z0 s) : Keeps z0 (rerangeAll n s) := by
  unfold rerangeAll
  with_reducible repeat' first | dsimp only | assumption | apply keeps_rerange | apply keeps_foldl | apply keeps_foldl_snd | apply keeps_foldl_fst | intro _

theorem keeps_takeoverOfs {z0 : State} (n : Nat) {s : State} (hk : Keeps z0 s) : Keeps z0 (takeoverOfs n s) := by
  unfold takeoverOfs
  with_reducible repeat' first | dsimp only | assumption | apply keeps_putBit | apply keeps_putI | apply keeps_bcastAdj | apply keeps_rerangeAll | apply keeps_ite | split

theorem keeps_takeover {z0 : State} {s : State} (hk : Keeps z0 s) : Keeps z0 (takeover s) := by
  unfold takeover
  with_reducible repeat' first | dsimp only | assumption | apply keeps_put | apply keeps_bump | apply keeps_pxUnable | apply keeps_goPx | apply keeps_startPorts | apply keeps_takeoverTime | apply keeps_takeoverOfs | apply keeps_foldl | apply keeps_foldl_snd | apply keeps_foldl_fst | apply keeps_ite | apply keeps_ite_snd | apply keeps_ite_fst | split | intro _ | apply keeps_set_px

theorem keeps_restored {z0 : State} (shared : Option (CkRead × CkRead)) {s : State} (hk : Keeps z0 s) : Keeps z0 (restored shared s) := by
  unfold restored
  with_reducible repeat' first | dsimp only | assumption | apply keeps_pxUnable | apply keeps_setSlot | apply keeps_ckRestore | apply keeps_shadowDue | apply keeps_takeover | apply keeps_ite | apply keeps_ite_snd | apply keeps_ite_fst | split | apply keeps_set_px

theorem keeps_shadowDelta {z0 : State} (d : CkDelta) {s : State} (hk : Keeps z0 s) : Keeps z0 (shadowDelta d s) := by
  unfold shadowDelta
  with_reducible repeat' first | dsimp only | assumption | apply keeps_put | apply keeps_ckApply | apply keeps_ite | split

theorem keeps_pxBoundary {z0 : State} (n : Nat) {s : State} (hk : Keeps z0 s) : Keeps z0 (pxBoundary n s) := by
  unfold pxBoundary
  with_reducible repeat' first | dsimp only | assumption | apply keeps_switchShow | apply keeps_goPx | apply keeps_standby | apply keeps_ite | split

theorem keeps_switchK {z0 : State} {s : State} (hk : Keeps z0 s) : Keeps z0 (switchK s) := by
  unfold switchK
  with_reducible repeat' first | dsimp only | assumption | apply keeps_bump | apply keeps_flushQueue | apply keeps_goPx | apply keeps_enterShadow | apply keeps_setK | apply keeps_setReq | apply keeps_foldl | apply keeps_foldl_snd | apply keeps_foldl_fst | apply keeps_ite | apply keeps_ite_snd | apply keeps_ite_fst | split | intro _ | apply keeps_set_px

theorem keeps_switchRest {z0 : State} {s : State} (hk : Keeps z0 s) : Keeps z0 (switchRest s) := by
  unfold switchRest
  with_reducible repeat' first | dsimp only | assumption | apply keeps_restEntry | apply keeps_ite | split | apply keeps_set_px

theorem keeps_pxReject {z0 : State} {s : State} (hk : Keeps z0 s) : Keeps z0 (pxReject s) := by
  unfold pxReject
  with_reducible repeat' first | dsimp only | assumption | apply keeps_putBit

theorem keeps_pxCommand {z0 : State} (op : Nat) {s : State} (hk : Keeps z0 s) : Keeps z0 (pxCommand op s) := by
  unfold pxCommand
  with_reducible repeat' first | dsimp only | assumption | apply keeps_switchShow | apply keeps_restEntry | apply keeps_setReq | apply keeps_pxReject | apply keeps_ite | split | apply keeps_set_px

theorem keeps_measureDone {z0 : State} {s : State} (hk : Keeps z0 s) : Keeps z0 (measureDone s) := by
  unfold measureDone
  with_reducible repeat' first | dsimp only | assumption | apply keeps_putBit | apply keeps_putI | apply keeps_switchShow | apply keeps_foldl | apply keeps_foldl_snd | apply keeps_foldl_fst | apply keeps_ite | apply keeps_ite_snd | apply keeps_ite_fst | split | intro _ | apply keeps_set_px

theorem keeps_pxCfgAct {z0 : State} (was : Bool) {s : State} (hk : Keeps z0 s) : Keeps z0 (pxCfgAct was s) := by
  unfold pxCfgAct
  with_reducible repeat' first | dsimp only | assumption | apply keeps_putBit | apply keeps_recovered | apply keeps_pxShow | apply keeps_switchShow | apply keeps_goPx | apply keeps_enterShadow | apply keeps_arbitrate | apply keeps_takeover | apply keeps_restored | apply keeps_ite | split | apply keeps_set_px

theorem keeps_execLigFrameRx {z0 : State} (lane : Fin 4) (f : LigFrame) (t : Nat) {s : State} (hk : Keeps z0 s) : KeepsR z0 (execLigFrameRx lane f t s) := by
  unfold execLigFrameRx
  with_reducible repeat' first | dsimp only | assumption | apply KeepsR.next | apply KeepsR.fault | apply keeps_at | apply keeps_ligFrame

theorem keeps_execLigAlign {z0 : State} (lane : Fin 4) (words : AlignWords) {s : State} (hk : Keeps z0 s) : KeepsR z0 (execLigAlign lane words s) := by
  unfold execLigAlign
  with_reducible repeat' first | dsimp only | assumption | apply KeepsR.next | apply KeepsR.fault | apply keeps_ligAlign

theorem keeps_execLigAlignLoss {z0 : State} (words : LaneWords) {s : State} (hk : Keeps z0 s) : KeepsR z0 (execLigAlignLoss words s) := by
  unfold execLigAlignLoss
  with_reducible repeat' first | dsimp only | assumption | apply KeepsR.next | apply KeepsR.fault | apply keeps_ligAlignLoss

theorem keeps_execHbTick {z0 : State} (t : Nat) {s : State} (hk : Keeps z0 s) : KeepsR z0 (execHbTick t s) := by
  unfold execHbTick
  with_reducible repeat' first | dsimp only | assumption | apply KeepsR.next | apply KeepsR.fault | apply keeps_at | apply keeps_hbTick

theorem keeps_execHbWordTx {z0 : State} {s : State} (hk : Keeps z0 s) : KeepsR z0 (execHbWordTx s) := by
  unfold execHbWordTx
  with_reducible repeat' first | dsimp only | assumption | apply KeepsR.next | apply KeepsR.fault | apply keeps_hbWordTx

theorem keeps_execHbWordRx {z0 : State} (bits : BitVec 125) (t : Nat) {s : State} (hk : Keeps z0 s) : KeepsR z0 (execHbWordRx bits t s) := by
  unfold execHbWordRx
  with_reducible repeat' first | dsimp only | assumption | apply KeepsR.next | apply KeepsR.fault | apply keeps_at | apply keeps_hbWordRx

theorem keeps_execHbALoss {z0 : State} (t : Nat) {s : State} (hk : Keeps z0 s) : KeepsR z0 (execHbALoss t s) := by
  unfold execHbALoss
  with_reducible repeat' first | dsimp only | assumption | apply KeepsR.next | apply KeepsR.fault | apply keeps_at | apply keeps_hbALoss

theorem keeps_execHbBLoss {z0 : State} (t : Nat) {s : State} (hk : Keeps z0 s) : KeepsR z0 (execHbBLoss t s) := by
  unfold execHbBLoss
  with_reducible repeat' first | dsimp only | assumption | apply KeepsR.next | apply KeepsR.fault | apply keeps_at | apply keeps_hbBLoss

theorem keeps_execPeerFail {z0 : State} (wlos : Byte) (t : Nat) {s : State} (hk : Keeps z0 s) : KeepsR z0 (execPeerFail wlos t s) := by
  unfold execPeerFail
  with_reducible repeat' first | dsimp only | assumption | apply KeepsR.next | apply KeepsR.fault | apply keeps_at | apply keeps_peerFail

theorem keeps_execWitnessEval {z0 : State} (wlos : Byte) (t : Nat) {s : State} (hk : Keeps z0 s) : KeepsR z0 (execWitnessEval wlos t s) := by
  unfold execWitnessEval
  with_reducible repeat' first | dsimp only | assumption | apply KeepsR.next | apply KeepsR.fault | apply keeps_at | apply keeps_witnessEval

theorem keeps_execHoldExpiry {z0 : State} (t : Nat) {s : State} (hk : Keeps z0 s) : KeepsR z0 (execHoldExpiry t s) := by
  unfold execHoldExpiry
  with_reducible repeat' first | dsimp only | assumption | apply KeepsR.next | apply KeepsR.fault | apply keeps_at | apply keeps_holdExpiry

theorem keeps_execListenPeriod {z0 : State} (t : Nat) {s : State} (hk : Keeps z0 s) : KeepsR z0 (execListenPeriod t s) := by
  unfold execListenPeriod
  with_reducible repeat' first | dsimp only | assumption | apply KeepsR.next | apply KeepsR.fault | apply keeps_at | apply keeps_listenPeriod

theorem keeps_execProvisionalPromote {z0 : State} {s : State} (hk : Keeps z0 s) : KeepsR z0 (execProvisionalPromote s) := by
  unfold execProvisionalPromote
  with_reducible repeat' first | dsimp only | assumption | apply KeepsR.next | apply KeepsR.fault | apply keeps_provisionalPromote

theorem keeps_execCkptImage {z0 : State} {s : State} (hk : Keeps z0 s) : KeepsR z0 (execCkptImage s) := by
  unfold execCkptImage
  with_reducible repeat' first | dsimp only | assumption | apply KeepsR.next | apply KeepsR.fault | apply keeps_ckImage | apply keeps_ite | apply keepsR_ite | split

theorem keeps_execCkptCommit {z0 : State} {s : State} (hk : Keeps z0 s) : KeepsR z0 (execCkptCommit s) := by
  unfold execCkptCommit
  with_reducible repeat' first | dsimp only | assumption | apply KeepsR.next | apply KeepsR.fault | apply keeps_ckCommit | apply keeps_ite | apply keepsR_ite | split

theorem keeps_execCkptDelta {z0 : State} (excess : Bool) {s : State} (hk : Keeps z0 s) : KeepsR z0 (execCkptDelta excess s) := by
  unfold execCkptDelta
  with_reducible repeat' first | dsimp only | assumption | apply KeepsR.next | apply KeepsR.fault | apply keeps_ckDelta | apply keeps_ite | apply keepsR_ite | split

theorem keeps_execCkptRestore {z0 : State} (shared : Option (CkRead × CkRead)) (t : Nat) {s : State} (hk : Keeps z0 s) : KeepsR z0 (execCkptRestore shared t s) := by
  unfold execCkptRestore
  with_reducible repeat' first | dsimp only | assumption | apply KeepsR.next | apply KeepsR.fault | apply keeps_at | apply keeps_restored

theorem keeps_execShadowDelta {z0 : State} (d : CkDelta) {s : State} (hk : Keeps z0 s) : KeepsR z0 (execShadowDelta d s) := by
  unfold execShadowDelta
  with_reducible repeat' first | dsimp only | assumption | apply KeepsR.next | apply KeepsR.fault | apply keeps_shadowDelta

theorem keeps_pxCmdWrite {z0 : State} (fn : Nat) (op : Nat) {s : State} (hk : Keeps z0 s) : Keeps z0 (pxCmdWrite fn op s) := by
  unfold pxCmdWrite
  with_reducible repeat' first | dsimp only | assumption | apply keeps_access | apply keeps_pxCommand | intro _

theorem keeps_execMs {z0 : State} (fn : Fn) {s : State} (hk : Keeps z0 s) : KeepsR z0 (execMs fn s) := by
  unfold execMs
  with_reducible repeat' first | dsimp only | assumption | apply KeepsR.next | apply KeepsR.fault | apply keeps_pxCmdWrite

theorem keeps_execFs {z0 : State} (fn : Fn) {s : State} (hk : Keeps z0 s) : KeepsR z0 (execFs fn s) := by
  unfold execFs
  with_reducible repeat' first | dsimp only | assumption | apply KeepsR.next | apply KeepsR.fault | apply keeps_pxCmdWrite

theorem keeps_execLo {z0 : State} (fn : Fn) {s : State} (hk : Keeps z0 s) : KeepsR z0 (execLo fn s) := by
  unfold execLo
  with_reducible repeat' first | dsimp only | assumption | apply KeepsR.next | apply KeepsR.fault | apply keeps_pxCmdWrite

theorem keeps_execClear {z0 : State} (fn : Fn) {s : State} (hk : Keeps z0 s) : KeepsR z0 (execClear fn s) := by
  unfold execClear
  with_reducible repeat' first | dsimp only | assumption | apply KeepsR.next | apply KeepsR.fault | apply keeps_pxCmdWrite

theorem keeps_execMeasure {z0 : State} (fn : Fn) {s : State} (hk : Keeps z0 s) : KeepsR z0 (execMeasure fn s) := by
  unfold execMeasure
  with_reducible repeat' first | dsimp only | assumption | apply KeepsR.next | apply KeepsR.fault | apply keeps_pxCmdWrite

theorem keeps_execPxRest {z0 : State} (fn : Fn) (t : Nat) {s : State} (hk : Keeps z0 s) : KeepsR z0 (execPxRest fn t s) := by
  unfold execPxRest
  with_reducible repeat' first | dsimp only | assumption | apply KeepsR.next | apply KeepsR.fault | apply keeps_at | apply keeps_pxCmdWrite

theorem keeps_execMeasureDone {z0 : State} {s : State} (hk : Keeps z0 s) : KeepsR z0 (execMeasureDone s) := by
  unfold execMeasureDone
  with_reducible repeat' first | dsimp only | assumption | apply KeepsR.next | apply KeepsR.fault | apply keeps_measureDone

theorem keeps_execSwitchK {z0 : State} (t : Nat) {s : State} (hk : Keeps z0 s) : KeepsR z0 (execSwitchK t s) := by
  unfold execSwitchK
  with_reducible repeat' first | dsimp only | assumption | apply KeepsR.next | apply KeepsR.fault | apply keeps_at | apply keeps_switchK

theorem keeps_execWtrExpiry {z0 : State} (t : Nat) {s : State} (hk : Keeps z0 s) : KeepsR z0 (execWtrExpiry t s) := by
  unfold execWtrExpiry
  with_reducible repeat' first | dsimp only | assumption | apply KeepsR.next | apply KeepsR.fault | apply keeps_at | apply keeps_wtrExpiry

theorem keeps_execSwitchRest {z0 : State} (t : Nat) {s : State} (hk : Keeps z0 s) : KeepsR z0 (execSwitchRest t s) := by
  unfold execSwitchRest
  with_reducible repeat' first | dsimp only | assumption | apply KeepsR.next | apply KeepsR.fault | apply keeps_at | apply keeps_switchRest

end Sys2Proof.Machine
end

