-- ==== Sys2Proof/Laws/KeepsTables.lean ====
section
/-! SUPPORT. What the operations of Machine/Tables.lean keep. -/

namespace Sys2Proof.Machine

theorem keeps_plainWrite {z0 : State} (pg : Nat) (tid : Nat) (idx : Nat) (l : List Nat) (d : Entry) {s : State} (hk : Keeps z0 s) : Keeps z0 (plainWrite pg tid idx l d s).2 := by
  unfold plainWrite
  with_reducible repeat' first | dsimp only | assumption | apply keeps_setEnt

theorem keeps_xgemWrite {z0 : State} (n : Nat) (i : Nat) (d : Entry) {s : State} (hk : Keeps z0 s) : Keeps z0 (xgemWrite n i d s).2 := by
  unfold xgemWrite
  with_reducible repeat' first | dsimp only | assumption | apply keeps_setEnt | apply keeps_foldl | apply keeps_foldl_snd | apply keeps_foldl_fst | apply keeps_ite | apply keeps_ite_snd | apply keeps_ite_fst | split | intro _

theorem keeps_xgemDelete {z0 : State} (n : Nat) (i : Nat) {s : State} (hk : Keeps z0 s) : Keeps z0 (xgemDelete n i s).2 := by
  unfold xgemDelete
  with_reducible repeat' first | dsimp only | assumption | apply keeps_setEnt | apply keeps_modPe | apply keeps_dropPart | intro _

theorem keeps_profWrite {z0 : State} (n : Nat) (i : Nat) (d : Entry) {s : State} (hk : Keeps z0 s) : Keeps z0 (profWrite n i d s).2 := by
  unfold profWrite
  with_reducible repeat' first | dsimp only | assumption | apply keeps_setEnt | apply keeps_profilesChanged | apply keeps_setCommit | apply keeps_ite | apply keeps_ite_snd | apply keeps_ite_fst | split

theorem keeps_ploamKeyWrite {z0 : State} (n : Nat) (c : Nat) (d : Entry) {s : State} (hk : Keeps z0 s) : Keeps z0 (ploamKeyWrite n c d s).2 := by
  unfold ploamKeyWrite
  with_reducible repeat' first | dsimp only | assumption | apply keeps_setEnt | apply keeps_set_keys

theorem keeps_apprFree {z0 : State} (n : Nat) (c : Nat) {s : State} (hk : Keeps z0 s) : Keeps z0 (apprFree n c s) := by
  unfold apprFree
  with_reducible repeat' first | dsimp only | assumption | apply keeps_setEnt | apply keeps_lzEval

theorem keeps_apprApply {z0 : State} (n : Nat) (c : Nat) (sn : Nat) (was : Nat) (now : Nat) {s : State} (hk : Keeps z0 s) : Keeps z0 (apprApply n c sn was now s) := by
  unfold apprApply
  with_reducible repeat' first | dsimp only | assumption | apply keeps_sendSeq | apply keeps_disableCtx | apply keeps_apprFree | apply keeps_ite | split

theorem keeps_apprWrite {z0 : State} (n : Nat) (i : Nat) (d : Entry) {s : State} (hk : Keeps z0 s) : Keeps z0 (apprWrite n i d s).2 := by
  unfold apprWrite
  refine keeps_ite_snd hk ?_
  exact keeps_apprApply _ _ _ _ _ (keeps_setEnt _ _ _ _ hk)

theorem keeps_apprDelete {z0 : State} (n : Nat) (i : Nat) {s : State} (hk : Keeps z0 s) : Keeps z0 (apprDelete n i s).2 := by
  unfold apprDelete
  with_reducible repeat' first | dsimp only | assumption | apply keeps_setEnt | apply keeps_apprFree | apply keeps_ite | apply keeps_ite_snd | apply keeps_ite_fst | split

theorem keeps_allocStore {z0 : State} (n : Nat) (i : Nat) (e : Entry) {s : State} (hk : Keeps z0 s) : Keeps z0 (allocStore n i e s).2 := by
  unfold allocStore
  with_reducible repeat' first | assumption | apply keeps_setEnt | apply keeps_setCommit | apply keeps_ite | apply keeps_ite_snd | apply keeps_ite_fst | split | dsimp only

theorem keeps_allocWrite {z0 : State} (n : Nat) (i : Nat) (d : Entry) {s : State} (hk : Keeps z0 s) : Keeps z0 (allocWrite n i d s).2 := by
  unfold allocWrite
  with_reducible repeat' first | dsimp only | assumption | apply keeps_allocStore | apply keeps_foldl | apply keeps_foldl_snd | apply keeps_foldl_fst | apply keeps_ite | apply keeps_ite_snd | apply keeps_ite_fst | split | intro _

theorem keeps_allocForget {z0 : State} (n : Nat) (i : Nat) {s : State} (hk : Keeps z0 s) : Keeps z0 (allocForget n i s) := by
  unfold allocForget
  with_reducible repeat' first | dsimp only | assumption | apply keeps_modGp | intro _

theorem keeps_allocInsert {z0 : State} (n : Nat) (i : Nat) (d : Entry) {s : State} (hk : Keeps z0 s) : Keeps z0 (allocInsert n i d s).2 := by
  unfold allocInsert
  with_reducible repeat' first | assumption | apply keeps_fillAlloc | apply keeps_allocStore | apply keeps_allocForget | apply keeps_ite | apply keeps_ite_snd | apply keeps_ite_fst | split | dsimp only

theorem keeps_allocDelete {z0 : State} (n : Nat) (i : Nat) {s : State} (hk : Keeps z0 s) : Keeps z0 (allocDelete n i s).2 := by
  unfold allocDelete
  with_reducible repeat' first | dsimp only | assumption | apply keeps_setEnt | apply keeps_setCommit | apply keeps_allocForget | apply keeps_ite | apply keeps_ite_snd | apply keeps_ite_fst | split

theorem keeps_lkWrite {z0 : State} (tid : Nat) (i : Nat) (d : Entry) {s : State} (hk : Keeps z0 s) : Keeps z0 (lkWrite tid i d s).2 := by
  unfold lkWrite
  with_reducible repeat' first | dsimp only | assumption | apply keeps_setEnt | apply keeps_bdCount | apply keeps_foldl | apply keeps_foldl_snd | apply keeps_foldl_fst | apply keeps_ite | apply keeps_ite_snd | apply keeps_ite_fst | split | intro _

theorem keeps_lkIndexed {z0 : State} (tid : Nat) (i : Nat) (l : List Nat) (d : Entry) {s : State} (hk : Keeps z0 s) : Keeps z0 (lkIndexed tid i l d s).2 := by
  unfold lkIndexed
  with_reducible repeat' first | dsimp only | assumption | apply keeps_plainWrite | apply keeps_ite | apply keeps_ite_snd | apply keeps_ite_fst | split | intro _

theorem keeps_quotaWrite {z0 : State} (i : Nat) (d : Entry) {s : State} (hk : Keeps z0 s) : Keeps z0 (quotaWrite i d s).2 := by
  unfold quotaWrite
  with_reducible repeat' first | dsimp only | assumption | apply keeps_setEnt | apply keeps_ite | apply keeps_ite_snd | apply keeps_ite_fst | split

theorem keeps_clrWrite {z0 : State} (pg : Nat) (tid : Nat) (i : Nat) (c : Nat) (n : Nat) (d : Entry) {s : State} (hk : Keeps z0 s) : Keeps z0 (clrWrite pg tid i c n d s).2 := by
  unfold clrWrite
  with_reducible repeat' first | dsimp only | assumption | apply keeps_setEnt | apply keeps_foldl | apply keeps_foldl_snd | apply keeps_foldl_fst | apply keeps_ite | apply keeps_ite_snd | apply keeps_ite_fst | split | intro _

theorem keeps_ringTblWrite {z0 : State} (p : Nat) (r : Nat) (d : Entry) {s : State} (hk : Keeps z0 s) : Keeps z0 (ringTblWrite p r d s).2 := by
  unfold ringTblWrite
  with_reducible repeat' first | dsimp only | assumption | apply keeps_settle | apply keeps_setRing | apply keeps_foldl | apply keeps_foldl_snd | apply keeps_foldl_fst | apply keeps_ite | apply keeps_ite_snd | apply keeps_ite_fst | split | intro _ | apply keeps_set_hx

theorem keeps_regionWrite {z0 : State} (pg : Nat) (i : Nat) (l : List Nat) (d : Entry) {s : State} (hk : Keeps z0 s) : Keeps z0 (regionWrite pg i l d s).2 := by
  unfold regionWrite
  with_reducible repeat' first | dsimp only | assumption | apply keeps_plainWrite | apply keeps_ite | apply keeps_ite_snd | apply keeps_ite_fst | split | intro _

theorem keeps_tabWrite {z0 : State} (k : PKind) (n : Nat) (pg : Nat) (tid : Nat) (i : Nat) (t : Tab) (d : Entry) {s : State} (hk : Keeps z0 s) : Keeps z0 (tabWrite k n pg tid i t d s).2 := by
  unfold tabWrite
  with_reducible repeat' first | dsimp only | assumption | apply keeps_setEnt | apply keeps_tmNodeWrite | apply keeps_dropProfileWrite | apply keeps_policerWrite | apply keeps_latWrite | apply keeps_keyWrite | apply keeps_msWrite | apply keeps_ceTblWrite | apply keeps_strmWrite | apply keeps_plainWrite | apply keeps_xgemWrite | apply keeps_profWrite | apply keeps_ploamKeyWrite | apply keeps_apprWrite | apply keeps_allocWrite | apply keeps_lkWrite | apply keeps_lkIndexed | apply keeps_quotaWrite | apply keeps_clrWrite | apply keeps_ringTblWrite | apply keeps_regionWrite | apply keeps_ite | apply keeps_ite_snd | apply keeps_ite_fst | split

theorem keeps_withIndex {z0 : State} (i : Nat) (r : Nat × State) (hk : Keeps z0 r.2) : Keeps z0 (withIndex i r).2.2 := by
  exact hk

theorem keeps_tabInsert {z0 : State} (k : PKind) (n : Nat) (pg : Nat) (tid : Nat) (t : Tab) (d : Entry) {s : State} (hk : Keeps z0 s) : Keeps z0 (tabInsert k n pg tid t d s).2.2 := by
  unfold tabInsert
  split
  · exact keeps_ite_snd2 hk (keeps_lkInsert _ _ hk)
  · refine keeps_ite_snd2 hk ?_
    split
    · exact hk
    · exact keeps_ite_snd2 hk (keeps_setEnt _ _ _ _ hk)
  · refine keeps_ite_snd2 hk ?_
    split
    · exact hk
    · exact keeps_setEnt _ _ _ _ hk
  · refine keeps_ite_snd2 (keeps_ite_snd2 hk ?_) (keeps_ite_snd2 hk ?_)
    · split
      · exact hk
      · exact keeps_ite_snd2 hk (keeps_setEnt _ _ _ _ hk)
    · split
      · exact hk
      · exact keeps_ite_snd2 hk (keeps_withIndex _ _ (keeps_allocInsert _ _ _ hk))
  · exact hk

theorem keeps_tabDelete {z0 : State} (k : PKind) (n : Nat) (pg : Nat) (tid : Nat) (i : Nat) {s : State} (hk : Keeps z0 s) : Keeps z0 (tabDelete k n pg tid i s).2 := by
  unfold tabDelete
  with_reducible repeat' first | dsimp only | assumption | apply keeps_setEnt | apply keeps_tmNodeDelete | apply keeps_keyDelete | apply keeps_ploamKeyDelete | apply keeps_lkRemove | apply keeps_xgemDelete | apply keeps_apprDelete | apply keeps_allocDelete | apply keeps_ite | apply keeps_ite_snd | apply keeps_ite_fst | split

theorem keeps_setWin {z0 : State} (pg : Nat) (e : Entry) {s : State} (hk : Keeps z0 s) : Keeps z0 (setWin pg e s) := by
  unfold setWin
  with_reducible repeat' first | dsimp only | assumption | apply keeps_put | apply keeps_forN | intro _

theorem keeps_tblEnd {z0 : State} (pg : Nat) (code : Nat) (idx : Nat) {s : State} (hk : Keeps z0 s) : Keeps z0 (tblEnd pg code idx s) := by
  unfold tblEnd
  with_reducible repeat' first | dsimp only | assumption | apply keeps_put | apply keeps_putBit

theorem keeps_tblChanged {z0 : State} (pg : Nat) (idx : Nat) (t : Tab) (byKey : Bool) (r : Nat × State) (hk : Keeps z0 r.2) : Keeps z0 (tblChanged pg idx t byKey r) := by
  unfold tblChanged
  with_reducible repeat' first | dsimp only | assumption | apply keeps_commit | apply keeps_cfgRej | apply keeps_tblEnd | apply keeps_ite | apply keeps_ite_snd | apply keeps_ite_fst | split

theorem keeps_clearPoison {z0 : State} (k : PKind) (pg : Nat) (tid : Nat) (i : Nat) {s : State} (hk : Keeps z0 s) : Keeps z0 (clearPoison k pg tid i s) := by
  unfold clearPoison
  with_reducible repeat' first | dsimp only | assumption | intro _ | apply keeps_set_bad

theorem keeps_tblShow {z0 : State} (k : PKind) (pg : Nat) (tid : Nat) (i : Nat) (t : Tab) (hit : Bool) {s : State} (hk : Keeps z0 s) : Keeps z0 (tblShow k pg tid i t hit s) := by
  unfold tblShow
  with_reducible repeat' first | dsimp only | assumption | apply keeps_putE | apply keeps_setWin | apply keeps_tblEnd | apply keeps_ite | split

theorem keeps_tblWrite {z0 : State} (k : PKind) (n : Nat) (pg : Nat) (tid : Nat) (i : Nat) (t : Tab) {s : State} (hk : Keeps z0 s) : Keeps z0 (tblWrite k n pg tid i t s) := by
  unfold tblWrite
  with_reducible repeat' first | dsimp only | assumption | apply keeps_tabWrite | apply keeps_tblEnd | apply keeps_tblChanged | apply keeps_clearPoison | apply keeps_ite | apply keeps_ite_snd | apply keeps_ite_fst | split

theorem keeps_tblRemove {z0 : State} (k : PKind) (n : Nat) (pg : Nat) (tid : Nat) (i : Nat) (t : Tab) {s : State} (hk : Keeps z0 s) : Keeps z0 (tblRemove k n pg tid i t s) := by
  unfold tblRemove
  with_reducible repeat' first | dsimp only | assumption | apply keeps_tabDelete | apply keeps_tblEnd | apply keeps_tblChanged | apply keeps_clearPoison | apply keeps_ite | apply keeps_ite_snd | apply keeps_ite_fst | split

theorem keeps_tblCompare {z0 : State} (k : PKind) (n : Nat) (pg : Nat) (tid : Nat) (i : Nat) (cw : Nat) (t : Tab) (cas : Bool) {s : State} (hk : Keeps z0 s) : Keeps z0 (tblCompare k n pg tid i cw t cas s) := by
  unfold tblCompare
  with_reducible repeat' first | dsimp only | assumption | apply keeps_setWin | apply keeps_tblEnd | apply keeps_tblWrite | apply keeps_tblRemove | apply keeps_ite | split

theorem keeps_tblRun {z0 : State} (k : PKind) (n : Nat) (pg : Nat) (op : Nat) (cw : Nat) (byKey : Bool) {s : State} (hk : Keeps z0 s) : Keeps z0 (tblRun k n pg op cw byKey s) := by
  unfold tblRun
  with_reducible repeat' first | dsimp only | assumption | apply keeps_tabInsert | apply keeps_setWin | apply keeps_tblEnd | apply keeps_tblChanged | apply keeps_clearPoison | apply keeps_tblShow | apply keeps_tblWrite | apply keeps_tblRemove | apply keeps_tblCompare | apply keeps_ite | apply keeps_ite_snd | apply keeps_ite_fst | split

theorem keeps_tblCommand {z0 : State} (k : PKind) (n : Nat) (pg : Nat) (w : Nat) {s : State} (hk : Keeps z0 s) : Keeps z0 (tblCommand k n pg w s) := by
  unfold tblCommand
  with_reducible repeat' first | dsimp only | assumption | apply keeps_put | apply keeps_tblRun | apply keeps_ite | split

theorem keeps_tblOp {z0 : State} (fn : Nat) (p : BitVec 12) (op : Nat) (w : Word) {s : State} (hk : Keeps z0 s) : Keeps z0 (tblOp fn p op w s) := by
  unfold tblOp
  with_reducible repeat' first | dsimp only | assumption | apply keeps_access | apply keeps_tblCommand | apply keeps_ite | split | intro _

theorem keeps_badOp {z0 : State} (fn : Nat) (p : BitVec 12) (w : Word) {s : State} (hk : Keeps z0 s) : Keeps z0 (badOp fn p w s) := by
  unfold badOp
  with_reducible repeat' first | assumption | intro _ | apply keeps_ite | split | dsimp only | apply keeps_access | apply keeps_tblCommand

theorem keeps_tblOvr {z0 : State} (fn : Nat) (p : BitVec 12) {s : State} (hk : Keeps z0 s) : Keeps z0 (tblOvr fn p s) := by
  unfold tblOvr
  with_reducible repeat' first | dsimp only | assumption | apply keeps_putBit | apply keeps_access | apply keeps_ite | split | intro _

theorem keeps_keyCmd {z0 : State} (fn : Nat) (n : Nat) (bit : Nat) (w : Word) {s : State} (hk : Keeps z0 s) : Keeps z0 (keyCmd fn n bit w s) := by
  unfold keyCmd
  with_reducible repeat' first | dsimp only | assumption | apply keeps_put | apply keeps_access | apply keeps_tblCommand | apply keeps_ite | split | intro _

theorem keeps_execTblRead {z0 : State} (fn : Fn) (page : BitVec 12) (w : Word) {s : State} (hk : Keeps z0 s) : KeepsR z0 (execTblRead fn page w s) := by
  unfold execTblRead
  with_reducible repeat' first | dsimp only | assumption | apply KeepsR.next | apply KeepsR.fault | apply keeps_tblOp

theorem keeps_execTblWrite {z0 : State} (fn : Fn) (page : BitVec 12) (w : Word) {s : State} (hk : Keeps z0 s) : KeepsR z0 (execTblWrite fn page w s) := by
  unfold execTblWrite
  with_reducible repeat' first | dsimp only | assumption | apply KeepsR.next | apply KeepsR.fault | apply keeps_tblOp

theorem keeps_execTblInsert {z0 : State} (fn : Fn) (page : BitVec 12) (w : Word) {s : State} (hk : Keeps z0 s) : KeepsR z0 (execTblInsert fn page w s) := by
  unfold execTblInsert
  with_reducible repeat' first | dsimp only | assumption | apply KeepsR.next | apply KeepsR.fault | apply keeps_tblOp

theorem keeps_execTblDelete {z0 : State} (fn : Fn) (page : BitVec 12) (w : Word) {s : State} (hk : Keeps z0 s) : KeepsR z0 (execTblDelete fn page w s) := by
  unfold execTblDelete
  with_reducible repeat' first | dsimp only | assumption | apply KeepsR.next | apply KeepsR.fault | apply keeps_tblOp

theorem keeps_execTblCdel {z0 : State} (fn : Fn) (page : BitVec 12) (w : Word) {s : State} (hk : Keeps z0 s) : KeepsR z0 (execTblCdel fn page w s) := by
  unfold execTblCdel
  with_reducible repeat' first | dsimp only | assumption | apply KeepsR.next | apply KeepsR.fault | apply keeps_tblOp

theorem keeps_execTblCas {z0 : State} (fn : Fn) (page : BitVec 12) (w : Word) {s : State} (hk : Keeps z0 s) : KeepsR z0 (execTblCas fn page w s) := by
  unfold execTblCas
  with_reducible repeat' first | dsimp only | assumption | apply KeepsR.next | apply KeepsR.fault | apply keeps_tblOp

theorem keeps_execTblFind {z0 : State} (fn : Fn) (page : BitVec 12) (w : Word) {s : State} (hk : Keeps z0 s) : KeepsR z0 (execTblFind fn page w s) := by
  unfold execTblFind
  with_reducible repeat' first | dsimp only | assumption | apply KeepsR.next | apply KeepsR.fault | apply keeps_tblOp

theorem keeps_execBadOp {z0 : State} (fn : Fn) (page : BitVec 12) (w : Word) {s : State} (hk : Keeps z0 s) : KeepsR z0 (execBadOp fn page w s) := by
  unfold execBadOp
  with_reducible repeat' first | dsimp only | assumption | apply KeepsR.next | apply KeepsR.fault | apply keeps_badOp

theorem keeps_execTblOvr {z0 : State} (fn : Fn) (page : BitVec 12) {s : State} (hk : Keeps z0 s) : KeepsR z0 (execTblOvr fn page s) := by
  unfold execTblOvr
  with_reducible repeat' first | dsimp only | assumption | apply KeepsR.next | apply KeepsR.fault | apply keeps_tblOvr

theorem keeps_execKeyLoad {z0 : State} (fn : Fn) (port : Fin 48) (w : Word) {s : State} (hk : Keeps z0 s) : KeepsR z0 (execKeyLoad fn port w s) := by
  unfold execKeyLoad
  with_reducible repeat' first | dsimp only | assumption | apply KeepsR.next | apply KeepsR.fault | apply keeps_keyCmd

theorem keeps_execKeySched {z0 : State} (fn : Fn) (port : Fin 48) (w : Word) {s : State} (hk : Keeps z0 s) : KeepsR z0 (execKeySched fn port w s) := by
  unfold execKeySched
  with_reducible repeat' first | dsimp only | assumption | apply KeepsR.next | apply KeepsR.fault | apply keeps_keyCmd

theorem keeps_execKeyDelete {z0 : State} (fn : Fn) (port : Fin 48) (w : Word) {s : State} (hk : Keeps z0 s) : KeepsR z0 (execKeyDelete fn port w s) := by
  unfold execKeyDelete
  with_reducible repeat' first | dsimp only | assumption | apply KeepsR.next | apply KeepsR.fault | apply keeps_put | apply keeps_access | apply keeps_tblCommand | intro _

end Sys2Proof.Machine
end

