-- ==== Sys2Proof/Laws/KeepsBoundary.lean ====
section
/-! SUPPORT. What the operations of Machine/Boundary.lean keep. -/

namespace Sys2Proof.Machine

theorem keeps_frameWork {z0 : State} (n : Nat) {s : State} (hk : Keeps z0 s) : Keeps z0 (frameWork n s) := by
  unfold frameWork
  with_reducible repeat' first | dsimp only | assumption | apply keeps_when | apply keeps_modPe | apply keeps_lzEval | apply keeps_superframe | apply keeps_windowRequests | apply keeps_circuitTicks | apply keeps_plantTick | apply keeps_alsEval | apply keeps_rssiFrame | apply keeps_snClose | apply keeps_pxBoundary | apply keeps_ite | split | intro _

theorem keeps_boundary {z0 : State} (n : Nat) {s : State} (hk : Keeps z0 s) : Keeps z0 (boundary n s) := by
  unfold boundary
  with_reducible repeat' first | dsimp only | assumption | apply keeps_frameBoundary | apply keeps_frameWork | apply keeps_ite | split

theorem keeps_firstBoundary {z0 : State} (n : Nat) {s : State} (hk : Keeps z0 s) : Keeps z0 (firstBoundary n s) := by
  unfold firstBoundary
  with_reducible repeat' first | dsimp only | assumption | apply keeps_keySwitch | apply keeps_firstFrame | apply keeps_todCapture | apply keeps_frameWork | apply keeps_ite | split

theorem keeps_execFrameBoundary {z0 : State} (port : Fin 48) (t : Nat) {s : State} (hk : Keeps z0 s) : KeepsR z0 (execFrameBoundary port t s) := by
  unfold execFrameBoundary
  with_reducible repeat' first | dsimp only | assumption | apply KeepsR.next | apply KeepsR.fault | apply keeps_at | apply keeps_boundary

theorem keeps_execPeFirstFrame {z0 : State} (port : Fin 48) (t : Nat) {s : State} (hk : Keeps z0 s) : KeepsR z0 (execPeFirstFrame port t s) := by
  unfold execPeFirstFrame
  with_reducible repeat' first | dsimp only | assumption | apply KeepsR.next | apply KeepsR.fault | apply keeps_at | apply keeps_firstBoundary

end Sys2Proof.Machine
end

