-- ==== Sys2Proof/Laws/KeepsEngine.lean ====
section
/-! SUPPORT. What the operations of Machine/Engine.lean keep. -/

namespace Sys2Proof.Machine

theorem keeps_peDiscard {z0 : State} (n : Nat) {s : State} (hk : Keeps z0 s) : Keeps z0 (peDiscard n s) := by
  unfold peDiscard
  with_reducible repeat' first | dsimp only | assumption | apply keeps_put | apply keeps_putBit | apply keeps_modPe | apply keeps_dropRef | apply keeps_lzStop | apply keeps_setNofsync | apply keeps_realign | apply keeps_trcAbort | apply keeps_dropAllParts | apply keeps_foldl | apply keeps_foldl_snd | apply keeps_foldl_fst | split | intro _

theorem keeps_gpDrop {z0 : State} (n : Nat) {s : State} (hk : Keeps z0 s) : Keeps z0 (gpDrop n s) := by
  unfold gpDrop
  with_reducible repeat' first | dsimp only | assumption | apply keeps_modGp | apply keeps_returnReq | apply keeps_foldl | apply keeps_foldl_snd | apply keeps_foldl_fst | intro _

theorem keeps_peStop {z0 : State} (n : Nat) {s : State} (hk : Keeps z0 s) : Keeps z0 (peStop n s) := by
  unfold peStop
  with_reducible repeat' first | dsimp only | assumption | apply keeps_modGp | apply keeps_modEval | apply keeps_peDiscard | apply keeps_gpDrop | intro _

theorem keeps_peEnable {z0 : State} (n : Nat) {s : State} (hk : Keeps z0 s) : Keeps z0 (peEnable n s) := by
  unfold peEnable
  with_reducible repeat' first | dsimp only | assumption | apply keeps_peStart | apply keeps_modEval

theorem keeps_peEndActs {z0 : State} (n : Nat) {s : State} (hk : Keeps z0 s) : Keeps z0 (peEndActs n s) := by
  unfold peEndActs
  with_reducible repeat' first | dsimp only | assumption | apply keeps_modPe | apply keeps_dropAct | apply keeps_actReset | apply keeps_foldl | apply keeps_foldl_snd | apply keeps_foldl_fst | intro _

theorem keeps_peErst {z0 : State} (n : Nat) {s : State} (hk : Keeps z0 s) : Keeps z0 (peErst n s) := by
  unfold peErst
  with_reducible repeat' first | dsimp only | assumption | apply keeps_modPe | apply keeps_peStart | apply keeps_staleWith | apply keeps_peDiscard | apply keeps_peEndActs | apply keeps_ite | split | intro _

theorem keeps_gsDiscard {z0 : State} (i : Nat) {s : State} (hk : Keeps z0 s) : Keeps z0 (gsDiscard i s) := by
  unfold gsDiscard
  with_reducible repeat' first | dsimp only | assumption | apply keeps_put | apply keeps_forN | apply keeps_gpDrop | intro _

theorem keeps_tmDiscard {z0 : State} {s : State} (hk : Keeps z0 s) : Keeps z0 (tmDiscard s) := by
  unfold tmDiscard
  with_reducible repeat' first | dsimp only | assumption | apply keeps_putBit | apply keeps_tmRefuse | apply keeps_flushQueue | apply keeps_foldl | apply keeps_foldl_snd | apply keeps_foldl_fst | intro _ | apply keeps_set_tm

theorem keeps_lkDiscard {z0 : State} {s : State} (hk : Keeps z0 s) : Keeps z0 (lkDiscard s) := by
  unfold lkDiscard
  with_reducible repeat' first | dsimp only | assumption | apply keeps_bump | apply keeps_set_lookups_lk

theorem keeps_lkErst {z0 : State} {s : State} (hk : Keeps z0 s) : Keeps z0 (lkErst s) := by
  unfold lkErst
  with_reducible repeat' first | dsimp only | assumption | apply keeps_putBit | apply keeps_lkDiscard | apply keeps_set_lk

theorem keeps_ceDiscard {z0 : State} {s : State} (hk : Keeps z0 s) : Keeps z0 (ceDiscard s) := by
  unfold ceDiscard
  with_reducible repeat' first | dsimp only | assumption | apply keeps_cput | apply keeps_foldl | apply keeps_foldl_snd | apply keeps_foldl_fst | intro _ | apply keeps_set_ce

theorem keeps_ulErst {z0 : State} {s : State} (hk : Keeps z0 s) : Keeps z0 (ulErst s) := by
  unfold ulErst
  with_reducible repeat' first | dsimp only | assumption | apply keeps_forN | apply keeps_ulLink | intro _ | apply keeps_set_ul

theorem keeps_doeDiscard {z0 : State} {s : State} (hk : Keeps z0 s) : Keeps z0 (doeDiscard s) := by
  unfold doeDiscard
  with_reducible repeat' first | dsimp only | assumption | apply keeps_put | apply keeps_putBit | apply keeps_doeReply | apply keeps_set_mx

theorem keeps_mxStop {z0 : State} {s0 : State} (hk : Keeps z0 s0) : Keeps z0 (mxStop s0) := by
  unfold mxStop
  with_reducible repeat' first | dsimp only | assumption | apply keeps_putBit | apply keeps_levelTo | apply keeps_mxLinkDown | apply keeps_doeDiscard | apply keeps_set_mx

theorem keeps_gtShow {z0 : State} {s : State} (hk : Keeps z0 s) : Keeps z0 (gtShow s) := by
  unfold gtShow
  with_reducible repeat' first | dsimp only | assumption | apply keeps_forN | apply keeps_glStat | intro _

theorem keeps_gtErst {z0 : State} {s : State} (hk : Keeps z0 s) : Keeps z0 (gtErst s) := by
  unfold gtErst
  with_reducible repeat' first | dsimp only | assumption | apply keeps_putBit | apply keeps_forN | apply keeps_setGlist | apply keeps_setMaxWin | apply keeps_glCancel | apply keeps_gtShow | intro _

theorem keeps_pxErst {z0 : State} {s : State} (hk : Keeps z0 s) : Keeps z0 (pxErst s) := by
  unfold pxErst
  with_reducible repeat' first | dsimp only | assumption | apply keeps_switchShow | apply keeps_set_px

theorem keeps_bpStop {z0 : State} {s : State} (hk : Keeps z0 s) : Keeps z0 (bpStop s) := by
  unfold bpStop
  with_reducible repeat' first | dsimp only | assumption | apply keeps_putBit | apply keeps_set_bp

theorem keeps_hxDiscard {z0 : State} {s : State} (hk : Keeps z0 s) : Keeps z0 (hxDiscard s) := by
  unfold hxDiscard
  with_reducible repeat' first | dsimp only | assumption | apply keeps_ringDrop | apply keeps_foldl | apply keeps_foldl_snd | apply keeps_foldl_fst | intro _ | apply keeps_set_hx

theorem keeps_statusReset {z0 : State} (k : PKind) (i : Nat) {s : State} (hk : Keeps z0 s) : Keeps z0 (statusReset k i s) := by
  unfold statusReset
  with_reducible repeat' first | dsimp only | assumption | apply keeps_putBit | apply keeps_forN | split | intro _

theorem keeps_engStop {z0 : State} (k : PKind) (i : Nat) {s : State} (hk : Keeps z0 s) : Keeps z0 (engStop k i s) := by
  unfold engStop
  with_reducible repeat' first | dsimp only | assumption | apply keeps_forN | apply keeps_laneStop | apply keeps_teErst | apply keeps_trcAbort | apply keeps_dmErst | apply keeps_peStop | apply keeps_gsDiscard | apply keeps_tmDiscard | apply keeps_lkDiscard | apply keeps_ceDiscard | apply keeps_ulErst | apply keeps_mxStop | apply keeps_gtShow | apply keeps_pxErst | apply keeps_bpStop | apply keeps_hxDiscard | split | intro _

theorem keeps_engStart {z0 : State} (k : PKind) (i : Nat) {s : State} (hk : Keeps z0 s) : Keeps z0 (engStart k i s) := by
  unfold engStart
  with_reducible repeat' first | dsimp only | assumption | apply keeps_laneStart | apply keeps_mxStart | apply keeps_peEnable | apply keeps_gtShow | split

theorem keeps_engReset {z0 : State} (k : PKind) (i : Nat) {s : State} (hk : Keeps z0 s) : Keeps z0 (engReset k i s) := by
  unfold engReset
  with_reducible repeat' first | dsimp only | assumption | apply keeps_forN | apply keeps_bpErst | apply keeps_laneErst | apply keeps_teErst | apply keeps_trcAbort | apply keeps_mxStart | apply keeps_mxLinkDown | apply keeps_dmErst | apply keeps_peErst | apply keeps_gsDiscard | apply keeps_tmDiscard | apply keeps_lkErst | apply keeps_ceDiscard | apply keeps_ulErst | apply keeps_doeDiscard | apply keeps_gtErst | apply keeps_pxErst | apply keeps_hxDiscard | apply keeps_ite | split | intro _

theorem keeps_quiescedShow {z0 : State} (k : PKind) (i : Nat) (pg : Nat) {s : State} (hk : Keeps z0 s) : Keeps z0 (quiescedShow k i pg s) := by
  unfold quiescedShow
  with_reducible repeat' first | dsimp only | assumption | apply keeps_putBit

theorem keeps_engErst {z0 : State} (k : PKind) (i : Nat) (pg : Nat) {s : State} (hk : Keeps z0 s) : Keeps z0 (engErst k i pg s) := by
  unfold engErst
  with_reducible repeat' first | dsimp only | assumption | apply keeps_putBit | apply keeps_statusReset | apply keeps_engReset | apply keeps_ite | split

theorem keeps_ctrlAct {z0 : State} (k : PKind) (i : Nat) (pg : Nat) (w : Nat) {s : State} (hk : Keeps z0 s) : Keeps z0 (ctrlAct k i pg w s) := by
  unfold ctrlAct
  with_reducible repeat' first | dsimp only | assumption | apply keeps_putBit | apply keeps_when | apply keeps_engStop | apply keeps_engStart | apply keeps_quiescedShow | apply keeps_engErst | apply keeps_ite | split | intro _

theorem keeps_ctrlWrite {z0 : State} (fn : Nat) (pg : Nat) (w : Word) {s : State} (hk : Keeps z0 s) : Keeps z0 (ctrlWrite fn pg w s) := by
  unfold ctrlWrite
  with_reducible repeat' first | dsimp only | assumption | apply keeps_access | apply keeps_ctrlAct | intro _

theorem keeps_engineReady {z0 : State} (pg : Nat) {s : State} (hk : Keeps z0 s) : Keeps z0 (engineReady pg s) := by
  unfold engineReady
  with_reducible repeat' first | dsimp only | assumption | apply keeps_putBit | apply keeps_ite | split

theorem keeps_quiesced {z0 : State} (pg : Nat) {s : State} (hk : Keeps z0 s) : Keeps z0 (quiesced pg s) := by
  unfold quiesced
  with_reducible repeat' first | dsimp only | assumption | apply keeps_quiescedShow | apply keeps_ite | split

theorem keeps_execEngineEnable {z0 : State} (fn : Fn) (page : BitVec 12) (w : Word) {s : State} (hk : Keeps z0 s) : KeepsR z0 (execEngineEnable fn page w s) := by
  unfold execEngineEnable
  with_reducible repeat' first | dsimp only | assumption | apply KeepsR.next | apply KeepsR.fault | apply keeps_ctrlWrite

theorem keeps_execEngineDisable {z0 : State} (fn : Fn) (page : BitVec 12) (w : Word) {s : State} (hk : Keeps z0 s) : KeepsR z0 (execEngineDisable fn page w s) := by
  unfold execEngineDisable
  with_reducible repeat' first | dsimp only | assumption | apply KeepsR.next | apply KeepsR.fault | apply keeps_ctrlWrite

theorem keeps_execQuiesce {z0 : State} (fn : Fn) (page : BitVec 12) (w : Word) {s : State} (hk : Keeps z0 s) : KeepsR z0 (execQuiesce fn page w s) := by
  unfold execQuiesce
  with_reducible repeat' first | dsimp only | assumption | apply KeepsR.next | apply KeepsR.fault | apply keeps_ctrlWrite

theorem keeps_execErst {z0 : State} (fn : Fn) (page : BitVec 12) (w : Word) {s : State} (hk : Keeps z0 s) : KeepsR z0 (execErst fn page w s) := by
  unfold execErst
  with_reducible repeat' first | dsimp only | assumption | apply KeepsR.next | apply KeepsR.fault | apply keeps_ctrlWrite

theorem keeps_execQuiesced {z0 : State} (page : BitVec 12) {s : State} (hk : Keeps z0 s) : KeepsR z0 (execQuiesced page s) := by
  unfold execQuiesced
  with_reducible repeat' first | dsimp only | assumption | apply KeepsR.next | apply KeepsR.fault | apply keeps_quiesced

theorem keeps_execEngineReady {z0 : State} (page : BitVec 12) {s : State} (hk : Keeps z0 s) : KeepsR z0 (execEngineReady page s) := by
  unfold execEngineReady
  with_reducible repeat' first | dsimp only | assumption | apply KeepsR.next | apply KeepsR.fault | apply keeps_engineReady

theorem keeps_execMxEnable {z0 : State} (fn : Fn) (w : Word) {s : State} (hk : Keeps z0 s) : KeepsR z0 (execMxEnable fn w s) := by
  unfold execMxEnable
  with_reducible repeat' first | dsimp only | assumption | apply KeepsR.next | apply KeepsR.fault | apply keeps_ctrlWrite

theorem keeps_execLaneEnable {z0 : State} (fn : Fn) (lane : Fin 140) (w : Word) {s : State} (hk : Keeps z0 s) : KeepsR z0 (execLaneEnable fn lane w s) := by
  unfold execLaneEnable
  with_reducible repeat' first | dsimp only | assumption | apply KeepsR.next | apply KeepsR.fault | apply keeps_ctrlWrite

end Sys2Proof.Machine
end

