-- ==== Sys2Proof/Laws/KeepsRegister.lean ====
section
/-! SUPPORT. What the operations of Machine/Register.lean keep. -/

namespace Sys2Proof.Machine

theorem keeps_pendClear {z0 : State} (k : PKind) (i : Nat) (pg : Nat) (w : Nat) {s : State} (hk : Keeps z0 s) : Keeps z0 (pendClear k i pg w s) := by
  unfold pendClear
  with_reducible repeat' first | dsimp only | assumption | apply keeps_setReg | apply keeps_message | apply keeps_vecFalls | apply keeps_foldl | apply keeps_foldl_snd | apply keeps_foldl_fst | apply keeps_ite | split | intro _

theorem keeps_evtForce {z0 : State} (k : PKind) (pg : Nat) (w : Nat) {s : State} (hk : Keeps z0 s) : Keeps z0 (evtForce k pg w s) := by
  unfold evtForce
  with_reducible repeat' first | dsimp only | assumption | apply keeps_setReg | apply keeps_settle

theorem keeps_evtEn {z0 : State} (k : PKind) (pg : Nat) (w : Nat) {s : State} (hk : Keeps z0 s) : Keeps z0 (evtEn k pg w s) := by
  unfold evtEn
  with_reducible repeat' first | dsimp only | assumption | apply keeps_setReg | apply keeps_settle

theorem keeps_worldWrite {z0 : State} (k : PKind) (fn : Nat) (pg : Nat) (w : Nat) {s : State} (hk : Keeps z0 s) : Keeps z0 (worldWrite k fn pg w s) := by
  unfold worldWrite
  with_reducible repeat' first | dsimp only | assumption | apply keeps_setReg | apply keeps_settle | apply keeps_commit | apply keeps_ite | split

theorem keeps_lockWrite {z0 : State} (pg : Nat) (w : Nat) {s : State} (hk : Keeps z0 s) : Keeps z0 (lockWrite pg w s) := by
  unfold lockWrite
  with_reducible repeat' first | dsimp only | assumption | apply keeps_putBit | apply keeps_when | intro _

theorem keeps_statusWrite {z0 : State} (pg : Nat) (w : Nat) {s : State} (hk : Keeps z0 s) : Keeps z0 (statusWrite pg w s) := by
  unfold statusWrite
  with_reducible repeat' first | dsimp only | assumption | apply keeps_putBit | apply keeps_when | intro _

theorem keeps_headerWrite {z0 : State} (k : PKind) (i : Nat) (fn : Nat) (pg : Nat) (off : Nat) (w : Nat) {s : State} (hk : Keeps z0 s) : Keeps z0 (headerWrite k i fn pg off w s) := by
  unfold headerWrite
  with_reducible repeat' first | dsimp only | assumption | apply keeps_ctrlAct | apply keeps_pendClear | apply keeps_evtForce | apply keeps_evtEn | apply keeps_worldWrite | apply keeps_lockWrite | apply keeps_statusWrite | apply keeps_ite | split

theorem keeps_windowWrite {z0 : State} (k : PKind) (i : Nat) (pg : Nat) (off : Nat) (w : Word) {s : State} (hk : Keeps z0 s) : Keeps z0 (windowWrite k i pg off w s) := by
  unfold windowWrite
  with_reducible repeat' first | dsimp only | assumption | apply keeps_setReg | apply keeps_tblCommand | apply keeps_ite | split

theorem keeps_evWrite {z0 : State} (p : Nat) (fn : Nat) (pg : Nat) (off : Nat) (w : Word) {s : State} (hk : Keeps z0 s) : Keeps z0 (evWrite p fn pg off w s) := by
  unfold evWrite
  with_reducible repeat' first | dsimp only | assumption | apply keeps_setReg | apply keeps_settle | apply keeps_commit | apply keeps_violation | apply keeps_ite | split

theorem keeps_clrOnu {z0 : State} (n : Nat) {s : State} (hk : Keeps z0 s) : Keeps z0 (clrOnu n s) := by
  unfold clrOnu
  with_reducible repeat' first | dsimp only | assumption | apply keeps_setEnt | apply keeps_forN | intro _

theorem keeps_cntWrite {z0 : State} (k : PKind) (i : Nat) (pg : Nat) (w : Nat) {s : State} (hk : Keeps z0 s) : Keeps z0 (cntWrite k i pg w s) := by
  unfold cntWrite
  with_reducible repeat' first | dsimp only | assumption | apply keeps_put | apply keeps_snapClr | apply keeps_forN | apply keeps_when | apply keeps_clrOnu | split | intro _

theorem keeps_stageWord {z0 : State} (a : Nat) (w : Word) {s : State} (hk : Keeps z0 s) : Keeps z0 (stageWord a w s) := by
  unfold stageWord
  with_reducible repeat' first | dsimp only | assumption | apply keeps_set_staged

theorem keeps_dvRstFree {z0 : State} (w : Nat) {s : State} (hk : Keeps z0 s) : Keeps z0 (dvRstFree w s) := by
  unfold dvRstFree
  with_reducible repeat' first | dsimp only | assumption | apply keeps_draw | apply keeps_dvRst | apply keeps_ite | apply keeps_ite_snd | apply keeps_ite_fst | split

theorem keeps_doeWord {z0 : State} (w : Word) {s : State} (hk : Keeps z0 s) : Keeps z0 (doeWord w s) := by
  unfold doeWord
  with_reducible repeat' first | dsimp only | assumption | apply keeps_set_mx

theorem keeps_refCfgAct {z0 : State} (n : Nat) (old : State) {s : State} (hk : Keeps z0 s) : Keeps z0 (refCfgAct n old s) := by
  unfold refCfgAct
  with_reducible repeat' first | dsimp only | assumption | apply keeps_setTb | apply keeps_ite | split

theorem keeps_ideWrite {z0 : State} (w : Word) (ok : Bool) {s : State} (hk : Keeps z0 s) : Keeps z0 (ideWrite w ok s) := by
  unfold ideWrite
  with_reducible repeat' first | dsimp only | assumption | apply keeps_draw | apply keeps_when | apply keeps_ideAct | apply keeps_ideResume | apply keeps_ite | apply keeps_ite_snd | apply keeps_ite_fst | split

theorem keeps_fieldAct {z0 : State} (k : PKind) (i : Nat) (off : Nat) (w : Word) (old : State) (ok : Bool) {s : State} (hk : Keeps z0 s) : Keeps z0 (fieldAct k i off w old ok s) := by
  unfold fieldAct
  with_reducible repeat' first | dsimp only | assumption | apply keeps_put | apply keeps_putBit | apply keeps_settle | apply keeps_forN | apply keeps_when | apply keeps_poolCfgAct | apply keeps_bpCommand | apply keeps_avsLimit | apply keeps_clearWorst | apply keeps_avsCtrlAct | apply keeps_clearEccCounts | apply keeps_ulLink | apply keeps_idleAct | apply keeps_lnCfgAct | apply keeps_lnTxAct | apply keeps_prbsCtrlAct | apply keeps_adaptAct | apply keeps_armAct | apply keeps_disarmAct | apply keeps_fsyncCfgAct | apply keeps_ppsCfgAct | apply keeps_glCtrlAct | apply keeps_tmCommand | apply keeps_rederive | apply keeps_msCommand | apply keeps_setCommit | apply keeps_hintCntClr | apply keeps_alsCfgAct | apply keeps_modEval | apply keeps_hpEval | apply keeps_reseedCmd | apply keeps_filtRebuild | apply keeps_levelAct | apply keeps_doeGo | apply keeps_trainStart | apply keeps_freqCtrl | apply keeps_pxShow | apply keeps_ponReturn | apply keeps_psPwrAct | apply keeps_pxCfgAct | apply keeps_doeWord | apply keeps_refCfgAct | apply keeps_ideWrite | apply keeps_ite | split | intro _

theorem keeps_directWrite {z0 s : State} (k : PKind) (i fn off : Nat) (w : Word) {f : State → State}
    (hf : directWrite k i fn off w = some f) (hk : Keeps z0 s) : Keeps z0 (f s) := by
  unfold directWrite at hf
  dsimp only at hf
  repeat' split at hf
  all_goals first | contradiction | (injection hf with hf; subst hf)
  all_goals first
    | exact (hk : Keeps z0 (id s))
    | skip
  all_goals with_reducible first
    | exact keeps_stageWord _ _ hk | exact keeps_rateWrite _ _ hk | exact keeps_ofsWrite _ _ hk
    | exact keeps_lzStartWrite _ _ hk | exact keeps_authWrite _ _ hk | exact keeps_actCommand _ _ hk
    | exact keeps_pxCommand _ hk | exact keeps_trcCommand _ _ hk | exact keeps_alsCommand _ _ _ hk
    | exact keeps_dvRstFree _ hk | exact keeps_pwCommand _ hk | exact keeps_retFailClear _ hk
    | exact keeps_refSwitch _ hk | exact keeps_lcCommand _ hk | exact keeps_dbgCommand _ hk
    | exact keeps_pairCommand _ hk
    | exact keeps_tbCommand _ _ _ _ (fun _ _ _ h => keeps_restepNote _ _ h) hk
    | exact keeps_when _ _ (fun _ h => keeps_realign _ h) hk
    | exact keeps_ite hk (keeps_lzEval _ (keeps_storeFields _ _ _ _ _ hk))
    | exact keeps_alsCommand _ _ _ hk

theorem keeps_regAct {z0 : State} (k : PKind) (i fn a : Nat) (w : Word) {s : State} (hk : Keeps z0 s) :
    Keeps z0 (regAct k i fn a w s) := by
  unfold regAct
  dsimp only
  refine keeps_ite (keeps_headerWrite _ _ _ _ _ _ hk) (keeps_ite (keeps_windowWrite _ _ _ _ _ hk) ?_)
  split
  · exact keeps_evWrite _ _ _ _ _ hk
  · refine keeps_ite (keeps_cntWrite _ _ _ _ hk) ?_
    split
    · rename_i f hf; exact keeps_directWrite _ _ _ _ _ hf hk
    · exact keeps_fieldAct _ _ _ _ _ _ (keeps_storeFields _ _ _ _ _ hk)

theorem keeps_regWrite {z0 : State} (fn : Nat) (a : Nat) (w : Word) {s : State} (hk : Keeps z0 s) : Keeps z0 (regWrite fn a w s) := by
  unfold regWrite
  with_reducible repeat' first | dsimp only | assumption | apply keeps_access | apply keeps_regAct | intro _

theorem keeps_readSnap {z0 : State} (k : PKind) (i : Nat) (off : Nat) {s : State} (hk : Keeps z0 s) : Keeps z0 (readSnap k i off s) := by
  unfold readSnap
  with_reducible repeat' first | dsimp only | assumption | apply keeps_when | apply keeps_prbsSnap | apply keeps_tbSnap | apply keeps_modPe | split | intro _

theorem keeps_readWord {z0 : State} (fn : Nat) (a : Nat) {s : State} (hk : Keeps z0 s) : Keeps z0 (readWord fn a s) := by
  unfold readWord
  with_reducible repeat' first | dsimp only | assumption | apply keeps_emit | apply keeps_violation | apply keeps_when | apply keeps_doeTake | apply keeps_rngRead | apply keeps_readSnap | apply keeps_ite | split

theorem keeps_accessErr {z0 : State} (fn : Nat) (a : Nat) (size : Nat) (wr : Bool) {s : State} (hk : Keeps z0 s) : Keeps z0 (accessErr fn a size wr s) := by
  unfold accessErr
  with_reducible repeat' first | dsimp only | assumption | apply keeps_emit | apply keeps_accessError | apply keeps_readWord | apply keeps_ite | split

theorem keeps_execRegisterWrite {z0 : State} (fn : Fn) (addr : BitVec 28) (w : Word) (t : Nat) {s : State} (hk : Keeps z0 s) : KeepsR z0 (execRegisterWrite fn addr w t s) := by
  unfold execRegisterWrite
  with_reducible repeat' first | dsimp only | assumption | apply KeepsR.next | apply KeepsR.fault | apply keeps_at | apply keeps_regWrite

theorem keeps_execAccessError {z0 : State} (fn : Fn) (addr : BitVec 28) (size : Nat) (wr : Bool) {s : State} (hk : Keeps z0 s) : KeepsR z0 (execAccessError fn addr size wr s) := by
  unfold execAccessError
  with_reducible repeat' first | dsimp only | assumption | apply KeepsR.next | apply KeepsR.fault | apply keeps_accessErr

theorem keeps_execPageLock {z0 : State} (fn : Fn) (page : BitVec 12) {s : State} (hk : Keeps z0 s) : KeepsR z0 (execPageLock fn page s) := by
  unfold execPageLock
  with_reducible repeat' first | dsimp only | assumption | apply KeepsR.next | apply KeepsR.fault | apply keeps_regWrite

theorem keeps_execWorldChange {z0 : State} (fn : Fn) (page : BitVec 12) (sec : Bool) {s : State} (hk : Keeps z0 s) : KeepsR z0 (execWorldChange fn page sec s) := by
  unfold execWorldChange
  with_reducible repeat' first | dsimp only | assumption | apply KeepsR.next | apply KeepsR.fault | apply keeps_regWrite | apply keeps_ite | apply keepsR_ite | split

theorem keeps_execEvtPendClear {z0 : State} (fn : Fn) (page : BitVec 12) (w : Word) {s : State} (hk : Keeps z0 s) : KeepsR z0 (execEvtPendClear fn page w s) := by
  unfold execEvtPendClear
  with_reducible repeat' first | dsimp only | assumption | apply KeepsR.next | apply KeepsR.fault | apply keeps_regWrite

theorem keeps_execEvtForce {z0 : State} (fn : Fn) (page : BitVec 12) (w : Word) {s : State} (hk : Keeps z0 s) : KeepsR z0 (execEvtForce fn page w s) := by
  unfold execEvtForce
  with_reducible repeat' first | dsimp only | assumption | apply KeepsR.next | apply KeepsR.fault | apply keeps_regWrite

theorem keeps_cntCommand {z0 : State} (fn : Nat) (page : BitVec 12) (b : Nat) (w : Word) {s : State} (hk : Keeps z0 s) : Keeps z0 (cntCommand fn page b w s) := by
  unfold cntCommand
  with_reducible repeat' first | dsimp only | assumption | apply keeps_accessError | apply keeps_regWrite | apply keeps_ite | apply keeps_ite_snd | apply keeps_ite_fst | split

theorem keeps_execCntSnap {z0 : State} (fn : Fn) (page : BitVec 12) (w : Word) {s : State} (hk : Keeps z0 s) : KeepsR z0 (execCntSnap fn page w s) := by
  unfold execCntSnap
  with_reducible repeat' first | dsimp only | assumption | apply KeepsR.next | apply KeepsR.fault | apply keeps_cntCommand

theorem keeps_execCntClr {z0 : State} (fn : Fn) (page : BitVec 12) (w : Word) {s : State} (hk : Keeps z0 s) : KeepsR z0 (execCntClr fn page w s) := by
  unfold execCntClr
  with_reducible repeat' first | dsimp only | assumption | apply KeepsR.next | apply KeepsR.fault | apply keeps_cntCommand

end Sys2Proof.Machine
end

