-- ==== Sys2Proof/Laws/Time.lean ====
section
/-! SUPPORT. What the passing of time does: it advances the instant and the time bases, and leaves the rest alone. -/

namespace Sys2Proof.Machine

@[simp] theorem at_regs (s : State) (t : Nat) : (s.at t).regs = s.regs := by
  unfold State.at; split
  · rfl
  · split
    · exact foldl_same State.regs _ (fun s n => setTb_regs s n _) _ _
    · rfl

@[simp] theorem at_staged (s : State) (t : Nat) : (s.at t).staged = s.staged := by
  unfold State.at; split
  · rfl
  · split
    · exact foldl_same State.staged _ (fun s n => setTb_staged s n _) _ _
    · rfl

@[simp] theorem at_live (s : State) (t : Nat) : (s.at t).live = s.live := by
  unfold State.at; split
  · rfl
  · split
    · exact foldl_same State.live _ (fun s n => setTb_live s n _) _ _
    · rfl

@[simp] theorem at_tabs (s : State) (t : Nat) : (s.at t).tabs = s.tabs := by
  unfold State.at; split
  · rfl
  · split
    · exact foldl_same State.tabs _ (fun s n => setTb_tabs s n _) _ _
    · rfl

@[simp] theorem at_bad (s : State) (t : Nat) : (s.at t).bad = s.bad := by
  unfold State.at; split
  · rfl
  · split
    · exact foldl_same State.bad _ (fun s n => setTb_bad s n _) _ _
    · rfl

@[simp] theorem at_poison (s : State) (t : Nat) : (s.at t).poison = s.poison := by
  unfold State.at; split
  · rfl
  · split
    · exact foldl_same State.poison _ (fun s n => setTb_poison s n _) _ _
    · rfl

@[simp] theorem at_sticky (s : State) (t : Nat) : (s.at t).sticky = s.sticky := by
  unfold State.at; split
  · rfl
  · split
    · exact foldl_same State.sticky _ (fun s n => setTb_sticky s n _) _ _
    · rfl

@[simp] theorem at_vecs (s : State) (t : Nat) : (s.at t).vecs = s.vecs := by
  unfold State.at; split
  · rfl
  · split
    · exact foldl_same State.vecs _ (fun s n => setTb_vecs s n _) _ _
    · rfl

@[simp] theorem at_dev (s : State) (t : Nat) : (s.at t).dev = s.dev := by
  unfold State.at; split
  · rfl
  · split
    · exact foldl_same State.dev _ (fun s n => setTb_dev s n _) _ _
    · rfl

@[simp] theorem at_lanes (s : State) (t : Nat) : (s.at t).lanes = s.lanes := by
  unfold State.at; split
  · rfl
  · split
    · exact foldl_same State.lanes _ (fun s n => setTb_lanes s n _) _ _
    · rfl

@[simp] theorem at_refAbsent (s : State) (t : Nat) : (s.at t).refAbsent = s.refAbsent := by
  unfold State.at; split
  · rfl
  · split
    · exact foldl_same State.refAbsent _ (fun s n => setTb_refAbsent s n _) _ _
    · rfl

@[simp] theorem at_tbRun (s : State) (t : Nat) : (s.at t).tbRun = s.tbRun := by
  unfold State.at; split
  · rfl
  · split
    · exact foldl_same State.tbRun _ (fun s n => setTb_tbRun s n _) _ _
    · rfl

@[simp] theorem at_pps (s : State) (t : Nat) : (s.at t).pps = s.pps := by
  unfold State.at; split
  · rfl
  · split
    · exact foldl_same State.pps _ (fun s n => setTb_pps s n _) _ _
    · rfl

@[simp] theorem at_fsyncLast (s : State) (t : Nat) : (s.at t).fsyncLast = s.fsyncLast := by
  unfold State.at; split
  · rfl
  · split
    · exact foldl_same State.fsyncLast _ (fun s n => setTb_fsyncLast s n _) _ _
    · rfl

@[simp] theorem at_bp (s : State) (t : Nat) : (s.at t).bp = s.bp := by
  unfold State.at; split
  · rfl
  · split
    · exact foldl_same State.bp _ (fun s n => setTb_bp s n _) _ _
    · rfl

@[simp] theorem at_tm (s : State) (t : Nat) : (s.at t).tm = s.tm := by
  unfold State.at; split
  · rfl
  · split
    · exact foldl_same State.tm _ (fun s n => setTb_tm s n _) _ _
    · rfl

@[simp] theorem at_gl (s : State) (t : Nat) : (s.at t).gl = s.gl := by
  unfold State.at; split
  · rfl
  · split
    · exact foldl_same State.gl _ (fun s n => setTb_gl s n _) _ _
    · rfl

@[simp] theorem at_pes (s : State) (t : Nat) : (s.at t).pes = s.pes := by
  unfold State.at; split
  · rfl
  · split
    · exact foldl_same State.pes _ (fun s n => setTb_pes s n _) _ _
    · rfl

@[simp] theorem at_gps (s : State) (t : Nat) : (s.at t).gps = s.gps := by
  unfold State.at; split
  · rfl
  · split
    · exact foldl_same State.gps _ (fun s n => setTb_gps s n _) _ _
    · rfl

@[simp] theorem at_keys (s : State) (t : Nat) : (s.at t).keys = s.keys := by
  unfold State.at; split
  · rfl
  · split
    · exact foldl_same State.keys _ (fun s n => setTb_keys s n _) _ _
    · rfl

@[simp] theorem at_lookups (s : State) (t : Nat) : (s.at t).lookups = s.lookups := by
  unfold State.at; split
  · rfl
  · split
    · exact foldl_same State.lookups _ (fun s n => setTb_lookups s n _) _ _
    · rfl

@[simp] theorem at_lk (s : State) (t : Nat) : (s.at t).lk = s.lk := by
  unfold State.at; split
  · rfl
  · split
    · exact foldl_same State.lk _ (fun s n => setTb_lk s n _) _ _
    · rfl

@[simp] theorem at_ul (s : State) (t : Nat) : (s.at t).ul = s.ul := by
  unfold State.at; split
  · rfl
  · split
    · exact foldl_same State.ul _ (fun s n => setTb_ul s n _) _ _
    · rfl

@[simp] theorem at_hx (s : State) (t : Nat) : (s.at t).hx = s.hx := by
  unfold State.at; split
  · rfl
  · split
    · exact foldl_same State.hx _ (fun s n => setTb_hx s n _) _ _
    · rfl

@[simp] theorem at_mx (s : State) (t : Nat) : (s.at t).mx = s.mx := by
  unfold State.at; split
  · rfl
  · split
    · exact foldl_same State.mx _ (fun s n => setTb_mx s n _) _ _
    · rfl

@[simp] theorem at_hostMem (s : State) (t : Nat) : (s.at t).hostMem = s.hostMem := by
  unfold State.at; split
  · rfl
  · split
    · exact foldl_same State.hostMem _ (fun s n => setTb_hostMem s n _) _ _
    · rfl

@[simp] theorem at_cxl (s : State) (t : Nat) : (s.at t).cxl = s.cxl := by
  unfold State.at; split
  · rfl
  · split
    · exact foldl_same State.cxl _ (fun s n => setTb_cxl s n _) _ _
    · rfl

@[simp] theorem at_ce (s : State) (t : Nat) : (s.at t).ce = s.ce := by
  unfold State.at; split
  · rfl
  · split
    · exact foldl_same State.ce _ (fun s n => setTb_ce s n _) _ _
    · rfl

@[simp] theorem at_als (s : State) (t : Nat) : (s.at t).als = s.als := by
  unfold State.at; split
  · rfl
  · split
    · exact foldl_same State.als _ (fun s n => setTb_als s n _) _ _
    · rfl

@[simp] theorem at_dm (s : State) (t : Nat) : (s.at t).dm = s.dm := by
  unfold State.at; split
  · rfl
  · split
    · exact foldl_same State.dm _ (fun s n => setTb_dm s n _) _ _
    · rfl

@[simp] theorem at_px (s : State) (t : Nat) : (s.at t).px = s.px := by
  unfold State.at; split
  · rfl
  · split
    · exact foldl_same State.px _ (fun s n => setTb_px s n _) _ _
    · rfl

@[simp] theorem at_pw (s : State) (t : Nat) : (s.at t).pw = s.pw := by
  unfold State.at; split
  · rfl
  · split
    · exact foldl_same State.pw _ (fun s n => setTb_pw s n _) _ _
    · rfl

@[simp] theorem at_sc (s : State) (t : Nat) : (s.at t).sc = s.sc := by
  unfold State.at; split
  · rfl
  · split
    · exact foldl_same State.sc _ (fun s n => setTb_sc s n _) _ _
    · rfl

@[simp] theorem at_free (s : State) (t : Nat) : (s.at t).free = s.free := by
  unfold State.at; split
  · rfl
  · split
    · exact foldl_same State.free _ (fun s n => setTb_free s n _) _ _
    · rfl

@[simp] theorem at_out (s : State) (t : Nat) : (s.at t).out = s.out := by
  unfold State.at; split
  · rfl
  · split
    · exact foldl_same State.out _ (fun s n => setTb_out s n _) _ _
    · rfl

@[simp] theorem at_pending (s : State) (t : Nat) : (s.at t).pending = s.pending := by
  unfold State.at; split
  · rfl
  · split
    · exact foldl_same State.pending _ (fun s n => setTb_pending s n _) _ _
    · rfl

/-- Time never runs back. -/
theorem at_now (s : State) (t : Nat) : (s.at t).now = max s.now t := by
  unfold State.at; split
  · rename_i h; exact (Nat.max_eq_left h).symm
  · rename_i h
    have e : max s.now t = t := Nat.max_eq_right (by omega)
    split
    · rw [e]; exact foldl_same State.now _ (fun s n => setTb_now s n _) _ _
    · exact e.symm

@[simp] theorem reg_at (s : State) (t a : Nat) : (s.at t).reg a = s.reg a := reg_congr (at_regs s t) a
@[simp] theorem get_at (s : State) (t pg : Nat) (f : Fld) : (s.at t).get pg f = s.get pg f := get_congr (at_regs s t) pg f
@[simp] theorem bit_at (s : State) (t pg : Nat) (f : Fld) : (s.at t).bit pg f = s.bit pg f := bit_congr (at_regs s t) pg f
@[simp] theorem ent_at (s : State) (t pg tid i : Nat) : (s.at t).ent pg tid i = s.ent pg tid i := ent_congr (at_tabs s t) pg tid i
@[simp] theorem getE_at (s : State) (t pg tid i : Nat) (f : TF) : (s.at t).getE pg tid i f = s.getE pg tid i f :=
  getE_congr (at_tabs s t) pg tid i f

theorem OnlyRegs.at_ {as : List Nat} {a b : State} (h : OnlyRegs as a b) (t : Nat) : OnlyRegs as a (b.at t) :=
  h.same (at_regs b t) (at_tabs b t) (at_hostMem b t) (at_cxl b t) (congrArg Dm.mem (at_dm b t)) (at_pending b t)

end Sys2Proof.Machine
end

