-- ==== Sys2Proof/Tests/Slice0.lean ====
section
/-! SUPPORT. Tests: an ill-formed command for every check of WellFormed, worked examples of the manual with the values it prints, the
queue, and for every statement a state and operands that meet the hypotheses of each of its clauses (witness_<statement>). -/

namespace Sys2Proof.Tests

set_option linter.unusedVariables false
set_option maxRecDepth 20000
set_option Elab.async false

open Sys2Proof Sys2Proof.Machine

/-- Carry out one command; where it stops, the state stays. -/
def after (c : Instr) (s : State) : State := match exec c s with | .next t => t | _ => s

/-! ### Ill-formed commands -/

theorem test_wf_address : (Instr.registerWrite 0 0x42 0 0).wf = false := by decide
theorem test_wf_access_error : (Instr.accessError 0 0x40 4 true).wf = false := by decide +kernel
theorem test_wf_page : (Instr.pageLock 0 0xFFF).wf = false := by decide +kernel
theorem test_wf_engine : (Instr.erst 0 0x000 0).wf = false := by decide +kernel
theorem test_wf_counters : (Instr.cntSnap 0 0x001 0).wf = false := by decide +kernel
theorem test_wf_window : (Instr.tblRead 0 0x000 0).wf = false := by decide +kernel
theorem test_wf_transmitter : (Instr.terminationDetect 48 true).wf = false := by decide +kernel
theorem test_wf_duplex : (Instr.breathRx 3).wf = false := by decide +kernel
theorem test_wf_errors_within_bits : (Instr.prbsSat 3 10 11 0).wf = false := by decide
theorem test_wf_ploam_length : (Instr.snResponse 0 0 0 (List.replicate 47 0) 0).wf = false := by decide +kernel
theorem test_wf_codewords : (Instr.burstDecode 0 ⟨1, 1, 0, 0, 1, 0, 0⟩ [] none).wf = false := by decide
theorem test_wf_item_length (d : List Byte) (h : d.length = 16384) : wfItem (.frame 0 0 true d 0) = false := by
  show decide (d.length < 2 ^ 14) = false
  rw [h]; rfl
theorem test_wf_margin : (Instr.mapSeal 0 65536).wf = false := by decide
theorem test_wf_buffers : (Instr.alloc 0 128 0 0 0).wf = false := by decide
theorem test_wf_handle : (Instr.release (2 ^ 24) 0).wf = false := by decide
theorem test_wf_tree : (Instr.tmDequeue true 16 0).wf = false := by decide
theorem test_wf_holders : (Instr.share 5 0 0 0).wf = false := by decide
theorem test_wf_granule : (Instr.dramRequest 0 true 224 64 none none 0).wf = false := by decide
theorem test_wf_dram_data : (Instr.dramRequest 0 true 0 32 (some [1]) none 0).wf = false := by decide
theorem test_wf_scrub : (Instr.dramScrub (2 ^ 26 + 1) []).wf = false := by decide
theorem test_wf_slot : (Instr.ringDoorbell 0 0 none [List.replicate 16385 0]).wf = false := by
  show [List.replicate 16385 (0 : Byte)].all (fun d => decide (d.length ≤ 16384)) = false
  rw [List.all_cons, List.length_replicate]; decide
theorem test_wf_aperture : (Instr.apertureAccess 0 0xFFFFFFF none 2 [] false).wf = false := by decide
theorem test_wf_aperture_length : wfAperture 0 none 0 = false := by decide
theorem test_wf_doe (l : List Word) (h : l.length = 2048) : (Instr.doeReply (some l)).wf = false := by
  show decide (l.length < 2048) = false
  rw [h]; rfl
theorem test_wf_trace (l : List (BitVec 16)) (h : l.length = 65537) : (Instr.traceDone 0 l 0 [] 0).wf = false := by
  show decide (l.length ≤ 65536) = false
  rw [h]; rfl
theorem test_wf_packet : (Instr.ulRxPacket 0 [1, 2, 3] 0 0 0).wf = false := by decide
theorem test_wf_sms : (Instr.smsRead 0xFF 2).wf = false := by decide

/-! ### The queue -/

/-- Hypotheses of StepRunsFrontCommand, StepKeepsCanon, NothingTakenBack and OnlyMalformedRequestsStop. -/
theorem witness_step :
    (∃ (s : State) (c : Instr) (r : List Instr), s.pending = c :: r) ∧
    (∃ s : State, s.pending = [] ∧ s.bit pLK F.LK_RSD_JRNL_ACTIVE = false) ∧
    (∃ s : State, s.pending = [] ∧ s.bit pLK F.LK_RSD_JRNL_ACTIVE = true ∧ s.en pLK = true ∧ s.bit pLK F.ST_READY = true ∧
      s.get pLK F.LK_RSD_JRNL_CURSOR < lkSize (s.get pLK F.LK_RSD_JRNL_TID)) ∧
    (∃ s t : State, s.Canon ∧ step s = .next t) ∧ (∃ c : Instr, c.wf = true) ∧
    (∃ (s : State) (c : Instr), exec c s = .fault .dramAddress) :=
  ⟨⟨{ State.reset with pending := [.avsLoop] }, .avsLoop, [], rfl⟩, ⟨State.reset, rfl, by decide +kernel⟩,
   ⟨((State.reset.putBit pLK F.LK_RSD_JRNL_ACTIVE true).putBit pLK F.PAGE_EN true).putBit pLK F.ST_READY true, by decide +kernel⟩,
   ⟨State.reset, State.reset, by decide +kernel, rfl⟩, ⟨.avsLoop, rfl⟩, ⟨State.reset, .dramRequest 0 true 16 32 none none 0, rfl⟩⟩

theorem test_step_takes_the_front :
    step { State.reset with pending := [.thermtrip, .avsLoop] } = exec .thermtrip { State.reset with pending := [.avsLoop] } := rfl
theorem test_idle : step State.reset = .next State.reset := rfl

/-! ### Worked examples of the manual -/

/-- "A warming forwarding section": FS at 372 ps, VREQ 750 mV. -/
def warm : State :=
  let s := ((State.reset.putBit pgDV F.DV_AVS_CTRL_EN true).put pgDV F.DV_AVS_CTRL_VMAX 900).put pgDV F.DV_AVS_STATUS_VREQ 0x2EE
  let s := ({ s with dev := { s.dev with avsV := 750 } } : State).put pgPW F.PW_STATE_STATE 0
  after (.pitchMeasure 6 372 false) (after (.pitchMeasure 6 378 false) s)
theorem test_warm_pitch : warm.busRead 0 (pgDV + 0x118) = 0x017A0174 := by decide +kernel
theorem test_warm_request : (after .avsLoop warm).dev.avsFlight = some 755 := by decide +kernel
theorem test_warm_vreq : (after (.avsTransactionEnd true 755) (after .avsLoop warm)).get pgDV F.DV_AVS_STATUS_VREQ = 0x2F3 := by decide +kernel

/-- "A stale map on PE29": the source is 1,705, and software reads down the tree through PF1. -/
def stale : State :=
  let s := after (.worldChange 0 (BitVec.ofNat 12 (0x530000 / 4096)) false) (State.reset.put pgPW F.PW_STATE_STATE 0)
  (after (.registerWrite 0 0x530018 0x20 0) (after (.registerWrite 0 0x92E4 0x28 0) s)).raise 0x530000 5
theorem test_stale_sum : stale.busRead 1 0x2040 = 0x8 := by decide +kernel
theorem test_stale_word : stale.busRead 1 0x2048 = 0x200000 := by decide +kernel
theorem test_stale_mirror : stale.busRead 1 0xB114 = 0x200 := by decide +kernel
theorem test_stale_pend : stale.busRead 1 0x530014 = 0x20 := by decide +kernel
theorem test_stale_map : stale.busRead 1 0x92E4 = 0x28 := by decide +kernel
theorem test_stale_clear : (after (.evtPendClear 1 (BitVec.ofNat 12 (0x530000 / 4096)) 0x20) stale).busRead 1 0x2040 = 0 := by decide +kernel

/-- "PRBS31Q soak on ULN5": the snapshot of 127.5 Tb. -/
def soak : State :=
  let s := (State.reset.put pgPW F.PW_STATE_STATE 0).modLane 101 (fun l => { l with test := true })
  let s := (s.put (pgLN 101) F.LN_PRBS_CTRL_MODE 1).putBit (pgLN 101) F.LN_PRBS_STAT_SYNC true
  after (.prbsSnapshot 0 101 127500000000000 38250000 37900000) s
theorem test_soak_bits_lo : soak.busRead 0 (0xE5000 + 0x068) = 0xE8357800 := by decide +kernel
theorem test_soak_bits_hi : soak.busRead 0 (0xE5000 + 0x06C) = 0x73F5 := by decide +kernel
theorem test_soak_berr : soak.busRead 0 (0xE5000 + 0x070) = 0x0247A610 := by decide +kernel

/-- "Acquiring a terminal 14 km out": PE20 with LMIN 2.0 km, LMAX 22.0 km and profile 4. -/
def pe20 : State :=
  let e := eput (eput (eput (eput (eput 0 bEN 1) bPRE 256) bDLEN 1) bRATE 2) bGUARD 40
  let s := ((State.reset.put pgPW F.PW_STATE_STATE 0).setEnt (pgPE 20 4) 0 4 e).put (pgPE 20 7) F.PE_ACT_CFG_PROF 4
  ((s.put (pgPE 20 7) F.PE_ACT_REACH_LMIN 20).put (pgPE 20 7) F.PE_ACT_REACH_LMAX 220).put (pgPE 20 4) F.PE_US_CFG_WIN 8
theorem test_pe20_a : pe20.snA 20 = 53692 * 62208 := by decide +kernel
theorem test_pe20_qw : pe20.busRead 0 (pgPE 20 7 + 0x0D0) = 0x3C1FD := by decide +kernel
theorem test_pe20_rqw : pe20.busRead 0 (pgPE 20 7 + 0x0D4) = 0xBC8D := by decide +kernel

/-- The plan of R181 for it: fixed bursts end at TU 113 of frame j; map j + 5, StartTime 27,920 TU, a silence of 95,832 TU that ends at
TU 47,345 of frame j + 1. -/
theorem test_pe20_plan :
    planOne pe20 20 100 113 { kind := 0, prof := 4, ofs := pe20.snA 20, len := pe20.snQw 20 } =
      .plan 105 (some { kind := 0, ctx := 0, prof := 4, st := 27920, ofs := 53692 * 62208, len := pe20.snQw 20 })
        [{ sfc := 100, start := 113, len := 48600 - 113, kind := 0 }, { sfc := 101, start := 0, len := 47345, kind := 0 }] := by decide +kernel
theorem test_pe20_silence : 48600 - 113 + 47345 = 95832 := by decide

/-- "A congested frame on PE13", ready to build the map of frame 7. -/
def pe13 : State :=
  let pr (rate : Nat) : Entry := BitVec.ofNat _ (0x80110000 + rate * 2 ^ 24 + 256 + 32 * 2 ^ 32)
  let cx (s : State) (p : Nat × Nat) : State :=
    mput 13 p.1 mPROFILE p.2 (s.setEnt (pgPE 13 7) 1 p.1 (eput (eput 0 cST 6) cLEVEL 2))
  let al (s : State) (a : Nat × List Nat) : State :=
    let e := a.2.zipIdx.foldl (fun v p => v + p.1 * 2 ^ (32 * p.2)) (2 ^ 511)
    fillAlloc 13 a.1 (s.setEnt (pgGP 13) 0 a.1 (BitVec.ofNat _ e))
  let w (id onu ty dbru : Nat) : Nat := 0x80000000 + dbru * 2 ^ 29 + ty * 2 ^ 26 + onu * 2 ^ 16 + id
  let s := (State.reset.setEnt (pgPE 13 4) 0 0 (pr 0)).setEnt (pgPE 13 4) 0 2 (pr 1)
  let s := [(3, 0), (7, 0), (9, 2), (12, 0), (15, 0), (20, 0)].foldl cx s
  let s := [(0, [w 1100 3 0 0, 250]), (1, [w 1200 7 4 1, 0, 12500, 0, 125000, 40000]),
      (2, [w 1300 9 1 1, 0, 62500, 16000, 62500, 0, 20000]), (3, [w 1400 12 2 1, 4 * 2 ^ 24, 0, 0, 1250000, 400000, 400000]),
      (4, [w 1500 15 2 1, 2 ^ 24, 0, 0, 1250000, 400000, 400000]),
      (5, [w 1600 20 3 1, 2 ^ 24, 0, 0, 6220800, 1000000, 500000])].foldl al s
  s.modGp 13 (fun g => { g with core := { g.core with dbruAt := [(5, 1)] }, reqs := [{ kind := 3, len := 50000 * qUnit }],
                                hints := [{ ctx := 1, target := 1, at_ := 15552, bytes := 12000 }] })
theorem test_pe13_map : (buildMap pe13 13 7).map.bursts.map (fun x => (x.onu, x.start, x.size)) =
    [(3, 0, 113), (7, 19553, 927), (9, 20480, 2432), (12, 22912, 20806), (15, 43718, 4882)] := by decide +kernel
theorem test_pe13_deficit : (buildMap pe13 13 7).core.dc = [(3, 14236)] ∧ (buildMap pe13 13 7).map.structs = 5 := by decide +kernel

/-- "DS1 crosses 85 °C under load": PC40 owes 6 refreshes. -/
def ds1 : State :=
  after (.tempSense 1 85 9) { State.reset with dm := { State.reset.dm with debts := sset 0 [] 40 6 } }
theorem test_ds1_stat : ds1.get pDM (F.DM_REF_STAT_TEMP.ix 1) = 85 ∧ ds1.bit pDM (F.DM_REF_STAT_X2.ix 1) = true ∧
    ds1.get pDM (F.DM_REF_STAT_CATCHUP_MAX.ix 1) = 4 ∧ sget 0 ds1.dm.debts 40 = 8 := by decide +kernel
theorem test_ds1_raised : ds1.pends pDM 0 = true ∧ ds1.count pDM C.DM_CATCHUPS = 1 := by decide +kernel
theorem test_ds1_cooler : sget 0 (after (.tempSense 1 82 10) ds1).dm.debts 40 = 4 := by decide +kernel

/-- "A cut feeder on PE12": a pulse has left 252 on the account, the laser lights through a shorted TXDIS at 12.6 mW. -/
def pe12 : State :=
  let f := fun (s : State) => s.setReg (pmPg 12 + 0x22C + 64 * pmK 12) 0x40000000
  let s := pmput 12 F.PM_ALS_CFG_PWR 126 (pmput 12 F.PM_ALS_CFG_EN 1 (f (State.reset.put pgPW F.PW_STATE_STATE 0)))
  let s := pmput 12 F.PM_ALS_STAT_CAUSE 1 (pmput 12 F.PM_ALS_STAT_STATE 2 s)
  (s.modAls 12 (fun a => { a with reads := true, account := [(9, 25200), (10, 14742)] })).put (pmPg 12) ⟨F.PM_DDM1_TXP.off + 64 * pmK 12, 15, 0, 0⟩ 126000
theorem test_pe12_registers : pmPg 12 = 0x52000 ∧ 0x200 + 64 * pmK 12 = 0x300 := by decide +kernel
theorem test_pe12_overblow : (after (.alsAccount 12 11) pe12).busRead 0 0x52324 = 0x94000000 := by decide +kernel
theorem test_pe12_account : (after (.alsAccount 12 11) pe12).busRead 0 0x52328 = 0x190 := by decide +kernel

/-- "Opening, then closing the zone": the notice of PE12 targets the first superframe boundary at least 16 frames ahead. -/
theorem test_zone_target : boundaryAfter 1000004 16 = 1000024 := by decide +kernel

/-- The margin table of R194 as reset leaves it. -/
theorem test_margin_words : Config.marginResetWord 1 = 0x01A90000 ∧ Config.marginResetWord 15 = 0x0ACC0032 := by decide

/-! ### Witnesses, chapter 01 -/

namespace C01

abbrev z : State := State.reset
def avs (f : Dev → Dev) : State := let s := (z.put pgPW F.PW_STATE_STATE 0).putBit pgDV F.DV_AVS_CTRL_EN true; { s with dev := f s.dev }

theorem witness_PitchAndVoltage :
    (∃ (s : State) (n : Fin 11) (ps : BitVec 12) (st : Bool), s.sectRuns n.val = true) ∧
    (∃ (s : State) (n : Fin 11), s.bit pgDV (F.DV_PITCH_SLOW.ix n.val) = true ∧ s.dev.slowRaised.toNat.testBit n.val = false) ∧
    (∃ (s : State) (fn : Fn) (w : Word), Reaches s fn.val (pgDV + 0x140) .dv 0) ∧
    (∃ (s : State) (fn : Fn) (w : Word), Reaches s fn.val (pgDV + 0x148) .dv 0 ∧ s.bit pgDV F.DV_AVS_CTRL_EN = false ∧ (s.storeFields .dv 0 fn.val (pgDV + 0x148) (w ||| 1).toNat).1.bit pgDV F.DV_AVS_CTRL_EN = true) ∧
    (∃ (s : State), s.bit pgDV F.DV_AVS_CTRL_EN = true ∧ s.bit pgDV F.DV_AVS_STATUS_BUSERR = false ∧ s.dev.avsReading = false ∧ s.get pgDV F.DV_PITCH_CFG_TARGET < s.maxPitch) ∧
    (∃ (s : State), s.bit pgDV F.DV_AVS_CTRL_EN = true ∧ s.bit pgDV F.DV_AVS_STATUS_BUSERR = false ∧ s.dev.avsReading = false ∧ s.maxPitch + 20 < s.get pgDV F.DV_PITCH_CFG_TARGET ∧ s.dev.avsLow = 7) ∧
    (∃ (s : State) (u : Nat), s.get pgPM F.PM_DIDT_CFG_REPORT * 100 < s.get pgPM F.PM_DIDT_STAT_LAST ∧ (s.at u).secSince s.dev.didtAt = true) :=
  ⟨⟨(z.put pgPW F.PW_STATE_STATE 0), 2, 420, false, by decide +kernel⟩,
   ⟨(((z.putBit pgDV (F.DV_PITCH_SLOW.ix 3) true))), 3, by decide +kernel⟩,
   ⟨(z.put pgDV (F.DV_PITCH_WORST.ix 3) 99), 0, 0, by decide +kernel⟩,
   ⟨z, 0, (z.reg (pgDV+0x148)), by decide +kernel⟩,
   ⟨(((z.put pgPW F.PW_STATE_STATE 0).putBit pgDV F.DV_AVS_CTRL_EN true).put pgDV (F.DV_PITCH_CUR.ix 3) 500), by decide +kernel⟩,
   ⟨{ (((z.put pgPW F.PW_STATE_STATE 0).putBit pgDV F.DV_AVS_CTRL_EN true).put pgDV F.DV_PITCH_CFG_TARGET 500) with dev := { z.dev with avsLow := 7, avsV := 800 } }, by decide +kernel⟩,
   ⟨(z.put pgPM F.PM_DIDT_STAT_LAST 65535), 10, by decide +kernel⟩⟩

theorem witness_AvsTransactions :
    (∃ (s : State), s.bit pgDV F.DV_AVS_CTRL_EN = true ∧ s.bit pgDV F.DV_AVS_STATUS_BUSERR = false ∧ s.dev.avsFlight = none ∧ s.dev.avsReading = false) ∧
    (∃ (s : State) (mv : BitVec 12) (v : Nat), s.dev.avsFlight = some v ∧ s.dev.avsReading = true) ∧
    (∃ (s : State) (mv : BitVec 12) (v : Nat), s.dev.avsFlight = some v ∧ s.dev.avsReading = false ∧ v < 4096) ∧
    (∃ (s : State) (mv : BitVec 12) (v : Nat), s.dev.avsFlight = some v ∧ s.dev.avsUnacked < 2) ∧
    (∃ (s : State), s.bit pgDV F.DV_AVS_CTRL_EN = true ∧ s.bit pgDV F.DV_AVS_STATUS_BUSERR = false ∧ s.dev.avsFlight = none ∧ s.dev.avsReading = true) ∧
    (∃ (s : State) (mv : BitVec 12) (v : Nat), s.dev.avsFlight = some v ∧ s.dev.avsUnacked = 2) ∧
    (∃ (s : State), s.bit pgDV F.DV_AVS_STATUS_BUSERR = true) ∧
    (∃ (s : State) (fn : Fn) (w : Word), Reaches s fn.val (pgDV + 0x148) .dv 0 ∧ s.bit pgDV F.DV_AVS_CTRL_EN = true) :=
  ⟨⟨((avs (fun d => { d with avsV := 900 })).put pgDV (F.DV_PITCH_CUR.ix 3) 500), by decide +kernel⟩,
   ⟨(avs (fun d => { d with avsFlight := some 0, avsReading := true })), 801, 0, by decide +kernel⟩,
   ⟨(avs (fun d => { d with avsFlight := some 700 })), 801, 700, by decide +kernel⟩,
   ⟨(avs (fun d => { d with avsFlight := some 700, avsUnacked := 1 })), 801, 700, by decide +kernel⟩,
   ⟨(avs (fun d => { d with avsReading := true })), by decide +kernel⟩,
   ⟨(avs (fun d => { d with avsFlight := some 700, avsUnacked := 2 })), 801, 700, by decide +kernel⟩,
   ⟨((avs id).putBit pgDV F.DV_AVS_STATUS_BUSERR true), by decide +kernel⟩,
   ⟨(avs id), 0, 0, by decide +kernel⟩⟩

theorem witness_ErrorCounts :
    (∃ (s : State) (f : EccFinding), s.get pgDV F.DV_ECC_CFG_SCRUB_H ≠ 0 ∧ f.place.val ≤ 1 ∧ wrongSymbols f.err = 2 ∧ (eccEntry f && s.bad.contains (tkey f.page f.tid f.entry)) = false ∧ s.bit pgDV F.DV_ECC_LAST_UE_VALID = false) ∧
    (∃ (s : State) (f : EccFinding), s.get pgDV F.DV_ECC_CFG_SCRUB_H ≠ 0 ∧ f.place.val ≤ 1 ∧ wrongSymbols f.err = 1 ∧ (eccEntry f && s.bad.contains (tkey f.page f.tid f.entry)) = false) ∧
    (∃ (s : State) (n : Fin 11), s.get pgDV F.DV_ECC_CFG_CE_RATE < sget 0 s.dev.ceSec n.val) ∧
    (∃ (s : State) (fn : Fn) (w : Word), Reaches s fn.val (pgDV + 0x240) .dv 0) :=
  ⟨⟨(z.put pgDV F.DV_ECC_CFG_SCRUB_H 1), { sect := 2, place := 1, err := 0x101, page := 0, tid := 0, entry := 0, idx := 5 }, by decide +kernel⟩,
   ⟨(z.put pgDV F.DV_ECC_CFG_SCRUB_H 1), { sect := 2, place := 1, err := 0x30, page := 0, tid := 0, entry := 0, idx := 5 }, by decide +kernel⟩,
   ⟨{ z with dev := { z.dev with ceSec := [(3, 70000)] } }, 3, by decide +kernel⟩,
   ⟨(z.put pgDV (F.DV_ECC_CE_COUNT.ix 3) 99), 0, 0, by decide +kernel⟩⟩

end C01

/-! ### Witnesses, chapter 02 -/

namespace C02

abbrev z : State := State.reset
abbrev cB : Ctr := (ctrsOf .bp).1.headD { off := 0, width := 32, sat := false }
abbrev acc : State := z.putBit pgDV F.DV_ACC_ERR_VALID true
def pGT : BitVec 12 := BitVec.ofNat 12 (pgGT 2 / 4096)
def pHD : BitVec 12 := BitVec.ofNat 12 (pgGS 1 9 / 4096)
def pXG : BitVec 12 := BitVec.ofNat 12 (pgPE 3 2 / 4096)
def gt : State := ((z.put (pgGT 2) (F.TBL_DATA_DATA.ix 0) 0x1234).put (pgGT 2) (F.TBL_DATA_DATA.ix 1) 0xFFFFFFFF).put (pgGT 2) F.TBL_ADDR_INDEX 5
def hd : State := (z.setEnt (pgGS 1 9) 0 7 (eput 0x11 eUSED 1)).put (pgGS 1 9) F.TBL_ADDR_INDEX 7
def xg : State := (z.setEnt (pgPE 3 2) 0 0 (eput 0x11 eUSED 1)).put (pgPE 3 2) (F.TBL_DATA_DATA.ix 0) 0x23
def xh : State := z.setEnt (pgPE 3 2) 0 4 (eput 0x0 eUSED 1)
def tX : Tab := (tabOf (.pe 2) 0).getD { size := 0, words := 0, ops := [], mask := [] }
def tG : Tab := (tabOf (.gt 2) 0).getD { size := 0, words := 0, ops := [], mask := [] }
def tH : Tab := (tabOf (.gs 9) 0).getD { size := 0, words := 0, ops := [], mask := [] }
def tB : Tab := (tabOf .bp 0).getD { size := 0, words := 0, ops := [], mask := [] }
def vz (pba gap held : Bool) : State := z.setVec 1 3 { pba := pba, gapRunning := gap, held := held, masked := false }

theorem witness_RegisterAccess :
    (∃ (s : State) (fn : Fn) (a : BitVec 28) (n : Nat) (wr : Bool), isAccessError a.toNat n = true) ∧
    (∃ (s : State) (fn : Fn) (a : BitVec 28) (n : Nat) (wr : Bool), isAccessError a.toNat n = true) ∧
    (∃ (s : State) (fn : Fn) (p : BitVec 12) (k : PKind) (i : Nat), Reaches s fn.val (pageBase p + 0x024) k i) ∧
    (∃ (s : State) (k : PKind) (i : Nat) (fn : Nat) (a : Nat) (w : Nat), s.locked (a / 4096 * 4096) = true ∧ a % 4096 ≠ 0x00C ∧ ((∀ f ∈ specsAt k (a % 4096), f.ty = .rwl))) ∧
    (∃ (s : State) (p : BitVec 12) (sec : Bool) (k : PKind) (i : Nat), Reaches s 0 (pageBase p + 0x020) k i ∧ fixedOf k = none) ∧
    (∃ (s : State) (p : BitVec 12) (sec : Bool) (k : PKind) (i : Nat), Reaches s 0 (pageBase p + 0x020) k i ∧ fixedOf k = none) ∧
    (∃ (s : State) (fn : Fn) (p : BitVec 12) (sec : Bool) (k : PKind) (i : Nat), Reaches s fn.val (pageBase p + 0x020) k i ∧ (fn.val = 1 ∨ fixedOf k ≠ none)) ∧
    (∃ (s : State) (fn : Fn) (a : BitVec 28) (w : Word) (u : Nat) (k : PKind) (i : Nat), Reaches s fn.val a.toNat k i ∧ hasTbl k = true ∧ 0x080 ≤ a.toNat % 4096 ∧ a.toNat % 4096 < 0x0C0) ∧
    (∃ (s : State) (fn : Fn) (a : BitVec 28) (w : Word) (u : Nat) (p : Nat) (i : Nat), Reaches s fn.val a.toNat (.ev p) i ∧ (p = 11 ∨ p = 12) ∧ 0x040 ≤ a.toNat % 4096 ∧ a.toNat % 4096 < 0x840) :=
  ⟨⟨z, 1, 0xFFFFFF0, 8, false, by decide +kernel⟩,
   ⟨acc, 1, 0xFFFFFF0, 8, true, by decide +kernel⟩,
   ⟨z, 0, (BitVec.ofNat 12 (pgPM/4096)), .pm, 0, by decide +kernel⟩,
   ⟨(z.putBit (pgLN 100) F.LOCK_LOCK true), .ln, 100, 0, (pgLN 100 + 0x048), 77, by decide +kernel⟩,
   ⟨z, (BitVec.ofNat 12 (pgPM/4096)), false, .pm, 0, by decide +kernel⟩,
   ⟨z, (BitVec.ofNat 12 (pgPM/4096)), true, .pm, 0, by decide +kernel⟩,
   ⟨z, 0, (BitVec.ofNat 12 (pgPX/4096)), false, .px, 0, by decide +kernel⟩,
   ⟨z, 0, (BitVec.ofNat 28 (pgGT 2 + 0x080)), 7, 33, (.gt 2), 0, by decide +kernel⟩,
   ⟨z, 0, (BitVec.ofNat 28 (pgEV 11 + 0x080)), 0xFFFFFFFF, 33, 11, 0, by decide +kernel⟩⟩

theorem witness_EventsAndCounters :
    (∃ (s : State) (fn : Fn) (p : BitVec 12) (w : Word) (k : PKind) (i : Nat), Reaches s fn.val (pageBase p + 0x014) k i) ∧
    (∃ (s : State) (fn : Fn) (p : BitVec 12) (w : Word) (k : PKind) (i : Nat), Reaches s fn.val (pageBase p + 0x01C) k i) ∧
    (∃ (s : State) (fn : Fn) (v : Fin 512), (s.vec fn.val v.val).pba = true ∧ (s.vec fn.val v.val).gapRunning = false) ∧
    (∃ (s : State) (fn : Fn) (v : Fin 512), (s.vec fn.val v.val).gapRunning = true ∧ (s.vec fn.val v.val).masked = false) ∧
    (∃ (s : State) (fn : Fn) (v : Fin 512), (s.vec fn.val v.val).gapRunning = true ∧ (s.vec fn.val v.val).masked = false) ∧
    (∃ (s : State) (fn : Fn) (p : BitVec 12) (w : Word) (k : PKind) (i : Nat) (c : Ctr), c ∈ (ctrsOf k).1 ∧ Reaches s fn.val (pageBase p + (ctrsOf k).2) k i) ∧
    (∃ (s : State) (fn : Fn) (p : BitVec 12) (w : Word) (k : PKind) (i : Nat) (c : Ctr), c ∈ (ctrsOf k).1 ∧ Reaches s fn.val (pageBase p + (ctrsOf k).2) k i) :=
  ⟨⟨(z.raise pgDV 15), 0, (BitVec.ofNat 12 (pgDV/4096)), 0x8001, .dv, 0, by decide +kernel⟩,
   ⟨z, 0, (BitVec.ofNat 12 (pgDV/4096)), 0x8001, .dv, 0, by decide +kernel⟩,
   ⟨(vz true false false), 1, 3, by decide +kernel⟩,
   ⟨(vz false true true), 1, 3, by decide +kernel⟩,
   ⟨((vz false true true).setEnt (pgHX 1) 0 48 (eput (eput 0 RF.VEC 3) RF.PIDX 4)), 1, 3, by decide +kernel⟩,
   ⟨(z.bump pgBP cB 99), 0, (BitVec.ofNat 12 (pgBP/4096)), 0, .bp, 0, cB, by decide +kernel⟩,
   ⟨z, 0, (BitVec.ofNat 12 (pgBP/4096)), 0, .bp, 0, cB, by decide +kernel⟩⟩

theorem witness_TableCommands :
    (∃ (s : State) (fn : Fn) (p : BitVec 12) (w : Word) (k : PKind) (n : Nat) (tb : Tab), Reaches s fn.val (pageBase p + 0x044) k n ∧ hasTbl k = true ∧ tabOf k (s.get (pageBase p) F.TBL_ADDR_TID) = some tb ∧ 1 ∈ tb.ops ∧ tb.first ≤ s.get (pageBase p) F.TBL_ADDR_INDEX ∧ s.get (pageBase p) F.TBL_ADDR_INDEX < tb.size) ∧
    (∃ (s : State) (fn : Fn) (p : BitVec 12) (w : Word) (k : PKind) (n : Nat) (tb : Tab), Reaches s fn.val (pageBase p + 0x044) k n ∧ hasTbl k = true ∧ tabOf k (s.get (pageBase p) F.TBL_ADDR_TID) = some tb ∧ 7 ∈ tb.ops ∧ tabFind k (pageBase p) (s.get (pageBase p) F.TBL_ADDR_TID) tb (maskWords tb.mask (s.winData (pageBase p))) s = none) ∧
    (∃ (s : State) (fn : Fn) (p : BitVec 12) (w : Word) (k : PKind) (n : Nat) (i : Nat) (tb : Tab), Reaches s fn.val (pageBase p + 0x044) k n ∧ hasTbl k = true ∧ tabOf k (s.get (pageBase p) F.TBL_ADDR_TID) = some tb ∧ 7 ∈ tb.ops ∧ tabFind k (pageBase p) (s.get (pageBase p) F.TBL_ADDR_TID) tb (maskWords tb.mask (s.winData (pageBase p))) s = some i ∧ s.tabPoison k (pageBase p) (s.get (pageBase p) F.TBL_ADDR_TID) i = false ∧ i < 2 ^ 24) ∧
    (∃ (s : State) (fn : Fn) (p : BitVec 12) (w : Word) (k : PKind) (n : Nat), Reaches s fn.val (pageBase p + 0x044) k n ∧ hasTbl k = true ∧ s.badOp k (pageBase p) w.toNat = true) ∧
    (∃ (s : State) (fn : Fn) (p : BitVec 12) (k : PKind) (n : Nat), Reaches s fn.val (pageBase p + 0x044) k n ∧ hasTbl k = true) ∧
    (∃ (s : State) (fn : Fn) (p : BitVec 12) (w : Word) (q : Nat) (n : Nat), Reaches s fn.val (pageBase p + 0x044) (.gt q) n ∧ 2 ≤ q ∧ s.get (pageBase p) F.TBL_ADDR_TID = 0 ∧ s.get (pageBase p) F.TBL_ADDR_INDEX < 1024 ∧ s.bit (pgGT q) F.GT_STATUS_PEND = false ∧ s.bit (pgGT q) F.GT_STATUS_COPY = false) ∧
    (∃ (s : State) (fn : Fn) (p : BitVec 12) (w : Word) (k : PKind) (n : Nat) (tb : Tab), Reaches s fn.val (pageBase p + 0x044) k n ∧ hasTbl k = true ∧ tabOf k (s.get (pageBase p) F.TBL_ADDR_TID) = some tb ∧ 2 ∈ tb.ops ∧ tb.key = 0 ∧ tb.first ≤ s.get (pageBase p) F.TBL_ADDR_INDEX ∧ s.get (pageBase p) F.TBL_ADDR_INDEX < tb.size ∧ tb.config = true ∧ s.locked (pageBase p) = true) ∧
    (∃ (s : State) (fn : Fn) (p : BitVec 12) (w : Word) (q : Nat) (n : Nat) (tb : Tab), Reaches s fn.val (pageBase p + 0x044) (.gt q) n ∧ 2 ≤ q ∧ s.get (pageBase p) F.TBL_ADDR_TID = 0 ∧ s.get (pageBase p) F.TBL_ADDR_INDEX < 1024 ∧ tabOf (.gt q) 0 = some tb ∧ s.bit (pgGT q) F.GT_STATUS_PEND = false ∧ s.bit (pgGT q) F.GT_STATUS_COPY = false) ∧
    (∃ (s : State) (fn : Fn) (p : BitVec 12) (w : Word) (q : Nat) (n : Nat) (tb : Tab), Reaches s fn.val (pageBase p + 0x044) (.gt q) n ∧ 2 ≤ q ∧ s.get (pageBase p) F.TBL_ADDR_TID = 0 ∧ s.get (pageBase p) F.TBL_ADDR_INDEX < 1024 ∧ tabOf (.gt q) 0 = some tb ∧ s.bit (pgGT q) F.GT_STATUS_PEND = false ∧ s.bit (pgGT q) F.GT_STATUS_COPY = false) ∧
    (∃ (s : State) (fn : Fn) (p : BitVec 12) (w : Word) (n : Nat), Reaches s fn.val (pageBase p + 0x044) (.gs 9) n ∧ s.get (pageBase p) F.TBL_ADDR_TID = 0 ∧ s.get (pageBase p) F.TBL_ADDR_INDEX < 8192 ∧ s.locked (pageBase p) = false ∧ w.toNat.testBit 16 = false) ∧
    (∃ (s : State) (fn : Fn) (p : BitVec 12) (w : Word) (n : Nat), Reaches s fn.val (pageBase p + 0x044) (.gs 9) n ∧ s.get (pageBase p) F.TBL_ADDR_TID = 0 ∧ s.get (pageBase p) F.TBL_ADDR_INDEX < 8192 ∧ s.locked (pageBase p) = false ∧ w.toNat.testBit 16 = false) ∧
    (∃ (s : State) (fn : Fn) (p : BitVec 12) (w : Word) (n : Nat) (tb : Tab), Reaches s fn.val (pageBase p + 0x044) (.gs 9) n ∧ s.get (pageBase p) F.TBL_ADDR_TID = 0 ∧ s.get (pageBase p) F.TBL_ADDR_INDEX < 8192 ∧ s.locked (pageBase p) = false ∧ w.toNat.testBit 16 = false ∧ tabOf (.gs 9) 0 = some tb ∧ s.getE (pageBase p) 0 (s.get (pageBase p) F.TBL_ADDR_INDEX) eUSED = 1) ∧
    (∃ (s : State) (fn : Fn) (p : BitVec 12) (w : Word) (k : PKind) (n : Nat) (i : Nat) (tb : Tab), Reaches s fn.val (pageBase p + 0x044) k n ∧ hasTbl k = true ∧ tabOf k (s.get (pageBase p) F.TBL_ADDR_TID) = some tb ∧ 3 ∈ tb.ops ∧ tabFind k (pageBase p) (s.get (pageBase p) F.TBL_ADDR_TID) tb (maskWords tb.mask (s.winData (pageBase p))) s = some i ∧ i < 2 ^ 24) ∧
    (∃ (s : State) (fn : Fn) (p : BitVec 12) (w : Word) (n : Nat) (i : Nat) (tb : Tab), Reaches s fn.val (pageBase p + 0x044) (.pe 2) n ∧ s.get (pageBase p) F.TBL_ADDR_TID = 0 ∧ s.locked (pageBase p) = false ∧ tabOf (.pe 2) 0 = some tb ∧ tabFind (.pe 2) (pageBase p) 0 tb (maskWords tb.mask (s.winData (pageBase p))) s = none ∧ xgemBad n (maskWords tb.mask (s.winData (pageBase p))) s = false ∧ s.freeIndex (pageBase p) 0 8192 = some i ∧ totalUsed ((List.range 48).map (fun n => pgPE n 2)) s < 131072) ∧
    (∃ (s : State) (fn : Fn) (p : BitVec 12) (w : Word) (n : Nat) (i : Nat) (tb : Tab), Reaches s fn.val (pageBase p + 0x044) (.pe 2) n ∧ s.get (pageBase p) F.TBL_ADDR_TID = 0 ∧ s.locked (pageBase p) = false ∧ tabOf (.pe 2) 0 = some tb ∧ tabFind (.pe 2) (pageBase p) 0 tb (maskWords tb.mask (s.winData (pageBase p))) s = none ∧ xgemBad n (maskWords tb.mask (s.winData (pageBase p))) s = false ∧ s.freeIndex (pageBase p) 0 8192 = some i ∧ totalUsed ((List.range 48).map (fun n => pgPE n 2)) s < 131072) :=
  ⟨⟨gt, 0, pGT, 1, (.gt 2), 0, tG, by decide +kernel⟩,
   ⟨xg, 0, pXG, 1, (.pe 2), 3, tX, by decide +kernel⟩,
   ⟨(xg.put (pgPE 3 2) (F.TBL_DATA_DATA.ix 0) 0x11), 0, pXG, 1, (.pe 2), 3, 0, tX, by decide +kernel⟩,
   ⟨xg, 0, pXG, 0x9, (.pe 2), 3, by decide +kernel⟩,
   ⟨xg, 0, pXG, (.pe 2), 3, by decide +kernel⟩,
   ⟨gt, 0, pGT, 1, 2, 0, by decide +kernel⟩,
   ⟨(z.putBit pgBP F.LOCK_LOCK true), 0, (BitVec.ofNat 12 (pgBP/4096)), 0, .bp, 0, tB, by decide +kernel⟩,
   ⟨gt, 0, pGT, 1, 2, 0, tG, by decide +kernel⟩,
   ⟨(gt.put (pgGT 2) F.TBL_CMPMASK_MASK 0xFFFF |>.put (pgGT 2) F.TBL_CMP_CMP 77), 0, pGT, 1, 2, 0, tG, by decide +kernel⟩,
   ⟨hd, 0, pHD, 1, 1, by decide +kernel⟩,
   ⟨(hd.put (pgGS 1 9) F.TBL_ADDR_INDEX 8), 0, pHD, 1, 1, by decide +kernel⟩,
   ⟨hd, 0, pHD, 1, 1, tH, by decide +kernel⟩,
   ⟨(xg.put (pgPE 3 2) (F.TBL_DATA_DATA.ix 0) 0x11), 0, pXG, 1, (.pe 2), 3, 0, tX, by decide +kernel⟩,
   ⟨xg, 0, pXG, 1, 3, 1, tX, by decide +kernel⟩,
   ⟨(xh.put (pgPE 3 2) (F.TBL_DATA_DATA.ix 0) 0x23), 0, pXG, 1, 3, 0, tX, by decide +kernel⟩⟩

theorem witness_EngineControl :
    (∃ (s : State) (fn : Fn) (p : BitVec 12) (w : Word) (k : PKind) (i : Nat), Reaches s fn.val (pageBase p + 0x008) k i ∧ isCtrl k = true ∧ w.toNat.testBit 2 = false) ∧
    (∃ (s : State) (fn : Fn) (p : BitVec 12) (w : Word) (k : PKind) (i : Nat), Reaches s fn.val (pageBase p + 0x008) k i ∧ isCtrl k = true ∧ w.toNat.testBit 2 = false) ∧
    (∃ (s : State) (fn : Fn) (p : BitVec 12) (w : Word) (k : PKind) (i : Nat), Reaches s fn.val (pageBase p + 0x008) k i ∧ isCtrl k = true ∧ w.toNat.testBit 2 = false) ∧
    (∃ (s : State) (fn : Fn) (p : BitVec 12) (w : Word) (k : PKind) (i : Nat), Reaches s fn.val (pageBase p + 0x008) k i ∧ isCtrl k = true ∧ w.toNat.testBit 2 = false) ∧
    (∃ (s : State) (fn : Fn) (p : BitVec 12) (w : Word) (k : PKind) (i : Nat), Reaches s fn.val (pageBase p + 0x008) k i ∧ isCtrl k = true ∧ w.toNat.testBit 2 = false) ∧
    (∃ (s : State) (fn : Fn) (p : BitVec 12) (w : Word) (k : PKind) (i : Nat), Reaches s fn.val (pageBase p + 0x008) k i ∧ isCtrl k = true ∧ w.toNat.testBit 2 = false) ∧
    (∃ (s : State) (fn : Fn) (p : BitVec 12) (w : Word) (k : PKind) (i : Nat), Reaches s fn.val (pageBase p + 0x008) k i ∧ isCtrl k = true ∧ w.toNat.testBit 2 = false ∧ s.en (pageBase p) = true) ∧
    (∃ (s : State) (fn : Fn) (p : BitVec 12) (w : Word) (k : PKind) (i : Nat), Reaches s fn.val (pageBase p + 0x008) k i ∧ isCtrl k = true ∧ w.toNat.testBit 2 = false ∧ s.en (pageBase p) = true) ∧
    (∃ (s : State) (fn : Fn) (p : BitVec 12) (w : Word) (k : PKind) (i : Nat), Reaches s fn.val (pageBase p + 0x008) k i ∧ isCtrl k = true ∧ w.toNat.testBit 2 = false ∧ s.en (pageBase p) = true) ∧
    (∃ (s : State) (fn : Fn) (p : BitVec 12) (w : Word) (k : PKind) (i : Nat), Reaches s fn.val (pageBase p + 0x008) k i ∧ isCtrl k = true ∧ w.toNat.testBit 2 = false ∧ s.en (pageBase p) = true) ∧
    (∃ (s : State) (fn : Fn) (p : BitVec 12) (w : Word) (k : PKind) (i : Nat), Reaches s fn.val (pageBase p + 0x008) k i ∧ isCtrl k = true ∧ w.toNat.testBit 2 = false ∧ s.en (pageBase p) = true) ∧
    (∃ (s : State) (fn : Fn) (p : BitVec 12) (w : Word) (k : PKind) (i : Nat), Reaches s fn.val (pageBase p + 0x008) k i ∧ isCtrl k = true ∧ w.toNat.testBit 2 = false ∧ s.en (pageBase p) = true) ∧
    (∃ (s : State) (fn : Fn) (p : BitVec 12) (w : Word) (k : PKind) (i : Nat), Reaches s fn.val (pageBase p + 0x008) k i ∧ isCtrl k = true ∧ w.toNat.testBit 2 = false ∧ s.en (pageBase p) = true) ∧
    (∃ (s : State) (fn : Fn) (p : BitVec 12) (w : Word) (k : PKind) (i : Nat), Reaches s fn.val (pageBase p + 0x008) k i ∧ isCtrl k = true ∧ w.toNat.testBit 2 = false ∧ w.toNat.testBit 0 = s.en (pageBase p)) ∧
    (∃ (s : State) (fn : Fn) (p : BitVec 12) (w : Word) (k : PKind) (i : Nat), Reaches s fn.val (pageBase p + 0x008) k i ∧ isCtrl k = true ∧ w.toNat.testBit 2 = false ∧ w.toNat.testBit 0 = s.en (pageBase p)) ∧
    (∃ (s : State) (p : BitVec 12) (k : PKind) (i : Nat), pageOf (pageBase p) = some (k, i) ∧ isCtrl k = true ∧ s.quiescing (pageBase p) = true) ∧
    (∃ (s : State) (p : BitVec 12) (k : PKind) (i : Nat), pageOf (pageBase p) = some (k, i) ∧ isCtrl k = true ∧ ownReady k = false ∧ s.en (pageBase p) = true ∧ (s.get pgDV F.DV_RST_STAT_BUSY).testBit (sectOf k i) = false) ∧
    (∃ (s : State) (fn : Fn) (p : BitVec 12) (w : Word) (k : PKind) (i : Nat), Reaches s fn.val (pageBase p + 0x008) k i ∧ isCtrl k = true ∧ w.toNat.testBit 0 = s.en (pageBase p) ∧ (s.get pgDV F.DV_RST_STAT_BUSY).testBit (sectOf k i) = false) ∧
    (∃ (s : State) (fn : Fn) (p : BitVec 12) (w : Word) (k : PKind) (i : Nat), Reaches s fn.val (pageBase p + 0x008) k i ∧ isCtrl k = true ∧ w.toNat.testBit 0 = s.en (pageBase p) ∧ (s.get pgDV F.DV_RST_STAT_BUSY).testBit (sectOf k i) = false) ∧
    (∃ (s : State) (fn : Fn) (p : BitVec 12) (w : Word) (k : PKind) (i : Nat), Reaches s fn.val (pageBase p + 0x008) k i ∧ isCtrl k = true ∧ w.toNat.testBit 0 = s.en (pageBase p) ∧ (s.get pgDV F.DV_RST_STAT_BUSY).testBit (sectOf k i) = false) ∧
    (∃ (s : State) (fn : Fn) (p : BitVec 12) (w : Word) (k : PKind) (i : Nat), Reaches s fn.val (pageBase p + 0x008) k i ∧ isCtrl k = true ∧ w.toNat.testBit 0 = s.en (pageBase p) ∧ (s.get pgDV F.DV_RST_STAT_BUSY).testBit (sectOf k i) = false) ∧
    (∃ (s : State) (fn : Fn) (p : BitVec 12) (w : Word) (k : PKind) (i : Nat), Reaches s fn.val (pageBase p + 0x008) k i ∧ isCtrl k = true ∧ w.toNat.testBit 0 = s.en (pageBase p) ∧ (s.get pgDV F.DV_RST_STAT_BUSY).testBit (sectOf k i) = false) ∧
    (∃ (s : State) (fn : Fn) (p : BitVec 12) (w : Word) (k : PKind) (i : Nat), Reaches s fn.val (pageBase p + 0x008) k i ∧ isCtrl k = true ∧ w.toNat.testBit 0 = s.en (pageBase p) ∧ (s.get pgDV F.DV_RST_STAT_BUSY).testBit (sectOf k i) = false) ∧
    (∃ (s : State) (fn : Fn) (p : BitVec 12) (w : Word) (k : PKind) (i : Nat), Reaches s fn.val (pageBase p + 0x008) k i ∧ isCtrl k = true ∧ w.toNat.testBit 0 = s.en (pageBase p) ∧ (s.get pgDV F.DV_RST_STAT_BUSY).testBit (sectOf k i) = false) ∧
    (∃ (s : State) (fn : Fn) (p : BitVec 12) (w : Word) (k : PKind) (i : Nat), Reaches s fn.val (pageBase p + 0x008) k i ∧ isCtrl k = false) :=
  ⟨⟨z, 0, (BitVec.ofNat 12 (pgGS 1 0/4096)), 1, (.gs 0), 1, by decide +kernel⟩,
   ⟨z, 0, (BitVec.ofNat 12 (pe0 9/4096)), 1, (.pe 0), 9, by decide +kernel⟩,
   ⟨z, 0, (BitVec.ofNat 12 (pgUL/4096)), 1, .ul, 0, by decide +kernel⟩,
   ⟨z, 0, (BitVec.ofNat 12 (pgLN 100/4096)), 1, .ln, 100, by decide +kernel⟩,
   ⟨z, 0, (BitVec.ofNat 12 (pMX/4096)), 1, (.mx 0), 0, by decide +kernel⟩,
   ⟨z, 0, (BitVec.ofNat 12 (pgGT 0/4096)), 1, (.gt 0), 0, by decide +kernel⟩,
   ⟨(z.putBit (pgGS 1 0) F.PAGE_EN true), 0, (BitVec.ofNat 12 (pgGS 1 0/4096)), 0, (.gs 0), 1, by decide +kernel⟩,
   ⟨(z.putBit (pe0 9) F.PAGE_EN true), 0, (BitVec.ofNat 12 (pe0 9/4096)), 0, (.pe 0), 9, by decide +kernel⟩,
   ⟨(z.putBit pgUL F.PAGE_EN true), 0, (BitVec.ofNat 12 (pgUL/4096)), 0, .ul, 0, by decide +kernel⟩,
   ⟨(z.putBit pTM F.PAGE_EN true), 0, (BitVec.ofNat 12 (pTM/4096)), 0, (.tm 0), 0, by decide +kernel⟩,
   ⟨(z.putBit pMX F.PAGE_EN true), 0, (BitVec.ofNat 12 (pMX/4096)), 0, (.mx 0), 0, by decide +kernel⟩,
   ⟨(z.putBit pgPX F.PAGE_EN true), 0, (BitVec.ofNat 12 (pgPX/4096)), 0, .px, 0, by decide +kernel⟩,
   ⟨(z.putBit pgPM F.PAGE_EN true), 0, (BitVec.ofNat 12 (pgPM/4096)), 0, .pm, 0, by decide +kernel⟩,
   ⟨z, 0, (BitVec.ofNat 12 (pgGS 1 0/4096)), 0, (.gs 0), 1, by decide +kernel⟩,
   ⟨z, 0, (BitVec.ofNat 12 (pgPM/4096)), 0, .pm, 0, by decide +kernel⟩,
   ⟨(z.putBit (pgGS 1 0) F.PAGE_QUIESCE true), (BitVec.ofNat 12 (pgGS 1 0/4096)), (.gs 0), 1, by decide +kernel⟩,
   ⟨(z.putBit (pgGS 1 0) F.PAGE_EN true), (BitVec.ofNat 12 (pgGS 1 0/4096)), (.gs 0), 1, by decide +kernel⟩,
   ⟨z, 0, (BitVec.ofNat 12 (pgGS 1 0/4096)), 0, (.gs 0), 1, by decide +kernel⟩,
   ⟨(z.putBit (pe0 9) F.PAGE_EN true), 0, (BitVec.ofNat 12 (pe0 9/4096)), 5, (.pe 0), 9, by decide +kernel⟩,
   ⟨(z.putBit pgTE F.PAGE_EN true), 0, (BitVec.ofNat 12 (pgTE/4096)), 5, .te, 0, by decide +kernel⟩,
   ⟨(z.putBit pgBP F.PAGE_EN true), 0, (BitVec.ofNat 12 (pgBP/4096)), 5, .bp, 0, by decide +kernel⟩,
   ⟨(z.putBit pMX F.PAGE_EN true), 0, (BitVec.ofNat 12 (pMX/4096)), 5, (.mx 0), 0, by decide +kernel⟩,
   ⟨(z.putBit (pgDM 0) F.PAGE_EN true), 0, (BitVec.ofNat 12 (pgDM 0/4096)), 5, (.dm 0), 0, by decide +kernel⟩,
   ⟨(z.putBit pgPX F.PAGE_EN true), 0, (BitVec.ofNat 12 (pgPX/4096)), 5, .px, 0, by decide +kernel⟩,
   ⟨z, 0, (BitVec.ofNat 12 (pgDV/4096)), 5, .dv, 0, by decide +kernel⟩⟩

end C02

/-! ### Witnesses, chapter 03 -/

namespace C03

abbrev z : State := State.reset
def ln (i : Nat) (f : Lane → Lane) : State := z.modLane i f
def prbs7 : Nat → List Bool → List Bool
  | 0, h => h.reverse
  | n + 1, h => prbs7 n (prbsNext (prbsTaps 1) h :: h)

theorem witness_LaneBringUp :
    (∃ (s : State) (fn : Fn) (l : Fin 140) (w : Word), Reaches s fn.val (pgLN l.val + 0x008) .ln l.val ∧ isPcie l.val = false ∧ s.en (pgLN l.val) = false ∧ w.toNat.testBit 2 = false) ∧
    (∃ (s : State) (fn : Fn) (l : Fin 140) (w : Word), Reaches s fn.val (pgLN l.val + 0x008) .ln l.val ∧ isPcie l.val = false ∧ s.en (pgLN l.val) = false ∧ w.toNat.testBit 2 = false) ∧
    (∃ (s : State) (l : Fin 140), isPcie l.val = true) ∧
    (∃ (s : State) (l : Fin 140), isPcie l.val = false ∧ (s.lane l.val).pllWait = true) ∧
    (∃ (s : State) (l : Fin 140), isPcie l.val = false ∧ (s.lane l.val).pllWait = true) ∧
    (∃ (s : State) (l : Fin 140), isPcie l.val = false ∧ (s.lane l.val).pllWait = true) ∧
    (∃ (s : State) (l : Fin 140), (s.lane l.val).pllWait = true) ∧
    (∃ (s : State) (l : Fin 140) (found : Bool), isPcie l.val = false ∧ hasTx l.val = true ∧ (s.lane l.val).tx = .detect) ∧
    (∃ (s : State) (l : Fin 140) (found : Bool), isPcie l.val = false ∧ hasTx l.val = true ∧ (s.lane l.val).tx = .detect) ∧
    (∃ (s : State) (l : Fin 140), (s.lane l.val).tx = .open) ∧
    (∃ (s : State) (l : Fin 140), isPcie l.val = false ∧ (s.lane l.val).rx = .waitSig) ∧
    (∃ (s : State) (l : Fin 140), (s.lane l.val).rx = .adapt) ∧
    (∃ (s : State) (l : Fin 140), (s.lane l.val).rx = .adapt) ∧
    (∃ (s : State) (l : Fin 140) (inv : Bool) (pos : Fin 16), isDuplex l.val = true ∧ (s.lane l.val).rx = .pcs ∧ (s.bit (pgLN l.val) F.LN_CFG_POL_AUTO = true ∨ inv = s.bit (pgLN l.val) F.LN_CFG_RX_INV)) ∧
    (∃ (s : State) (l : Fin 140) (inv : Bool) (pos : Fin 16), isDuplex l.val = true ∧ (s.lane l.val).rx = .pcs ∧ (s.bit (pgLN l.val) F.LN_CFG_POL_AUTO = true ∨ inv = s.bit (pgLN l.val) F.LN_CFG_RX_INV)) ∧
    (∃ (s : State) (l : Fin 140) (inv : Bool) (pos : Fin 16), isDuplex l.val = true ∧ (s.lane l.val).rx = .pcs ∧ (s.bit (pgLN l.val) F.LN_CFG_POL_AUTO = true ∨ inv = s.bit (pgLN l.val) F.LN_CFG_RX_INV)) ∧
    (∃ (s : State) (l : Fin 140), (s.lane l.val).rx = .pcs) ∧
    (∃ (s : State) (l : Fin 140), isDuplex l.val = true ∧ (s.lane l.val).rx = .locked) ∧
    (∃ (s : State) (fn : Fn) (l : Fin 140) (w : Word), Reaches s fn.val (pgLN l.val + 0x058) .ln l.val ∧ hasRx l.val = true ∧ (s.lane l.val).rx ≠ .off ∧ (s.lane l.val).rx ≠ .burst ∧ (s.lane l.val).rx ≠ .test) ∧
    (∃ (s : State) (fn : Fn) (l : Fin 140) (w : Word), Reaches s fn.val (pgLN l.val + 0x058) .ln l.val ∧ hasRx l.val = true) :=
  ⟨⟨z, 0, 100, 1, by decide +kernel⟩,
   ⟨z, 0, 50, 1, by decide +kernel⟩,
   ⟨z, 120, by decide +kernel⟩,
   ⟨(ln 100 (fun l => { l with pllWait := true })), 100, by decide +kernel⟩,
   ⟨(ln 50 (fun l => { l with pllWait := true })), 50, by decide +kernel⟩,
   ⟨(ln 0 (fun l => { l with pllWait := true })), 0, by decide +kernel⟩,
   ⟨(ln 0 (fun l => { l with pllWait := true })), 0, by decide +kernel⟩,
   ⟨(ln 0 (fun l => { l with tx := .detect })), 0, true, by decide +kernel⟩,
   ⟨(ln 112 (fun l => { l with tx := .detect })), 112, false, by decide +kernel⟩,
   ⟨(ln 112 (fun l => { l with tx := .open })), 112, by decide +kernel⟩,
   ⟨(ln 112 (fun l => { l with rx := .waitSig, src := .last })), 112, by decide +kernel⟩,
   ⟨(ln 112 (fun l => { l with rx := .adapt, src := .last })), 112, by decide +kernel⟩,
   ⟨((ln 112 (fun l => { l with rx := .adapt, src := .last })).put (pgLN 112) F.LN_ADAPT_RESTARTS 255), 112, by decide +kernel⟩,
   ⟨((ln 100 (fun l => { l with rx := .pcs })).putBit (pgLN 100) F.LN_CFG_RX_INV true), 100, true, 4, by decide +kernel⟩,
   ⟨((ln 112 (fun l => { l with rx := .pcs, src := .last })).putBit (pgLN 112) F.LN_CFG_POL_AUTO true), 112, true, 3, by decide +kernel⟩,
   ⟨(ln 100 (fun l => { l with rx := .pcs, src := .last })), 100, false, 4, by decide +kernel⟩,
   ⟨(ln 112 (fun l => { l with rx := .pcs, src := .last })), 112, by decide +kernel⟩,
   ⟨(ln 112 (fun l => { l with rx := .locked, src := .last })), 112, by decide +kernel⟩,
   ⟨(ln 112 (fun l => { l with rx := .locked, src := .last })), 0, 112, 0xFFFFFFFF, by decide +kernel⟩,
   ⟨(ln 112 (fun l => { l with rx := .locked, src := .last })), 0, 112, 0xFFFFFFFF, by decide +kernel⟩⟩

theorem witness_LaneIdle :
    (∃ (s : State) (fn : Fn) (l : Fin 140) (w : Word), Reaches s fn.val (pgLN l.val + 0x050) .ln l.val ∧ (s.lane l.val).tx = .sending ∧ (s.storeFields .ln l.val fn.val (pgLN l.val + 0x050) (w ||| maskBit 31).toNat).2 = true ∧ (s.storeFields .ln l.val fn.val (pgLN l.val + 0x050) (w ||| maskBit 31).toNat).1.bit (pgLN l.val) F.LN_IDLE_REQ = true) ∧
    (∃ (s : State) (l : Fin 140), (s.lane l.val).idlePend = true ∧ (s.lane l.val).tx = .sending) ∧
    (∃ (s : State) (l : Fin 140), (s.lane l.val).idlePend = true ∧ (s.lane l.val).tx = .sending) ∧
    (∃ (s : State) (fn : Fn) (l : Fin 140) (w : Word), Reaches s fn.val (pgLN l.val + 0x050) .ln l.val ∧ (s.lane l.val).tx = .idle ∧ (s.storeFields .ln l.val fn.val (pgLN l.val + 0x050) (w &&& ~~~ maskBit 31).toNat).2 = true ∧ (s.storeFields .ln l.val fn.val (pgLN l.val + 0x050) (w &&& ~~~ maskBit 31).toNat).1.txHeld l.val = false) ∧
    (∃ (s : State) (l : Fin 140), isDuplex l.val = true ∧ (s.lane l.val).rx = .idle ∧ (s.lane l.val).frozen = true) ∧
    (∃ (s : State) (l : Fin 140), isDuplex l.val = true ∧ (s.lane l.val).frozen = true ∧ (s.lane l.val).rx = .fast) ∧
    (∃ (s : State) (l : Fin 140), isDuplex l.val = true ∧ (s.lane l.val).rx = .locked) ∧
    (∃ (s : State) (l : Fin 140), isDuplex l.val = true ∧ (s.lane l.val).rx = .locked) ∧
    (∃ (s : State) (l : Fin 140), isDuplex l.val = true ∧ (s.lane l.val).rx = .idle) :=
  ⟨⟨(ln 112 (fun l => { l with tx := .sending })), 0, 112, 1, by decide +kernel⟩,
   ⟨(ln 112 (fun l => { l with tx := .sending, idlePend := true })), 112, by decide +kernel⟩,
   ⟨((ln 112 (fun l => { l with tx := .sending, idlePend := true })).putBit (pgLN 112) F.LN_IDLE_REQ true), 112, by decide +kernel⟩,
   ⟨(ln 112 (fun l => { l with tx := .idle })), 0, 112, 1, by decide +kernel⟩,
   ⟨(ln 112 (fun l => { l with rx := .idle, frozen := true })), 112, by decide +kernel⟩,
   ⟨((ln 112 (fun l => { l with rx := .fast, frozen := true })).put (pgLN 112) F.LN_ADAPT_FAST_FAIL 255), 112, by decide +kernel⟩,
   ⟨(ln 112 (fun l => { l with rx := .locked, last := true })), 112, by decide +kernel⟩,
   ⟨((ln 112 (fun l => { l with rx := .locked, last := true })).putBit (pgLN 112) F.LN_CFG_IDLE_OK true), 112, by decide +kernel⟩,
   ⟨(ln 112 (fun l => { l with rx := .idle, last := true })), 112, by decide +kernel⟩⟩

theorem witness_LanePatterns :
    (∃ (s : State) (fn : Fn) (l : Fin 140) (w : Word), Reaches s fn.val (pgLN l.val + 0x060) .ln l.val ∧ (s.lane l.val).test = false ∧ (s.lane l.val).testEnd = false ∧ (s.storeFields .ln l.val fn.val (pgLN l.val + 0x060) (withMode w 1).toNat).2 = true ∧ (s.storeFields .ln l.val fn.val (pgLN l.val + 0x060) (withMode w 1).toNat).1.get (pgLN l.val) F.LN_PRBS_CTRL_MODE = 1) ∧
    (∃ (s : State) (l : Fin 140), isDuplex l.val = true ∧ (s.lane l.val).testPend = true ∧ (s.lane l.val).rx = .locked) ∧
    (∃ (s : State) (l : Fin 140), isDuplex l.val = true ∧ (s.lane l.val).testPend = true ∧ (s.lane l.val).rx = .locked) ∧
    (∃ (s : State) (fn : Fn) (l : Fin 140) (w : Word), Reaches s fn.val (pgLN l.val + 0x060) .ln l.val ∧ (s.storeFields .ln l.val fn.val (pgLN l.val + 0x060) (withMode w 2).toNat).2 = true ∧ (s.storeFields .ln l.val fn.val (pgLN l.val + 0x060) (withMode w 2).toNat).1.get (pgLN l.val) F.LN_PRBS_CTRL_MODE = 2) ∧
    (∃ (s : State) (fn : Fn) (l : Fin 140) (w : Word), Reaches s fn.val (pgLN l.val + 0x060) .ln l.val ∧ isDuplex l.val = true ∧ (s.lane l.val).test = true ∧ (s.storeFields .ln l.val fn.val (pgLN l.val + 0x060) (withMode w 0).toNat).2 = true ∧ (s.storeFields .ln l.val fn.val (pgLN l.val + 0x060) (withMode w 0).toNat).1.get (pgLN l.val) F.LN_PRBS_CTRL_MODE = 0) ∧
    (∃ (s : State) (l : Fin 140) (rx : List Bool), s.checking l.val = true ∧ (prbsFits (s.get (pgLN l.val) F.LN_PRBS_CTRL_RXPAT) rx || prbsFits (s.get (pgLN l.val) F.LN_PRBS_CTRL_RXPAT) (rx.map (fun b => !b))) = true) ∧
    (∃ (s : State) (l : Fin 140) (rx : List Bool), s.checking l.val = true ∧ (prbsFits (s.get (pgLN l.val) F.LN_PRBS_CTRL_RXPAT) rx || prbsFits (s.get (pgLN l.val) F.LN_PRBS_CTRL_RXPAT) (rx.map (fun b => !b))) = true) ∧
    (∃ (s : State) (l : Fin 140) (n : Nat) (b : Nat) (e : Nat), s.checking l.val = true ∧ s.bit (pgLN l.val) F.LN_PRBS_STAT_SYNC = true) ∧
    (∃ (s : State) (l : Fin 140) (n : Nat) (b : Nat) (e : Nat), s.bit (pgLN l.val) F.LN_PRBS_STAT_SYNC = true ∧ s.bit (pgLN l.val) F.LN_PRBS_STAT_SAT = false) ∧
    (∃ (s : State) (l : Fin 140) (n : Nat) (b : Nat) (e : Nat), s.bit (pgLN l.val) F.LN_PRBS_STAT_SYNC = true ∧ s.bit (pgLN l.val) F.LN_PRBS_STAT_SAT = false) ∧
    (∃ (s : State) (fn : Fn) (l : Fin 140), Reaches s fn.val (pgLN l.val + 0x068) .ln l.val) ∧
    (∃ (s : State) (fn : Fn) (l : Fin 140) (w : Word), Reaches s fn.val (pgLN l.val + 0x060) .ln l.val) ∧
    (∃ (s : State) (fn : Fn) (l : Fin 140) (w : Word), Reaches s fn.val (pgLN l.val + 0x060) .ln l.val ∧ hasTx l.val = true ∧ (s.lane l.val).test = true ∧ (s.storeFields .ln l.val fn.val (pgLN l.val + 0x060) (w ||| maskBit 30).toNat).1.get (pgLN l.val) F.LN_PRBS_CTRL_MODE = 1 ∧ (s.storeFields .ln l.val fn.val (pgLN l.val + 0x060) (w ||| maskBit 30).toNat).1.get (pgLN l.val) F.LN_PRBS_CTRL_TXPAT ≠ 0) ∧
    (∃ (s : State) (n : Fin 48), s.bit (pgLN (48 + n.val)) F.LN_CFG_POL_AUTO = true ∧ 4 ≤ (s.lane (48 + n.val)).compRun) :=
  ⟨⟨(ln 112 (fun l => { l with rx := .locked })), 0, 112, 0xC0000011, by decide +kernel⟩,
   ⟨(ln 112 (fun l => { l with rx := .locked, testPend := true })), 112, by decide +kernel⟩,
   ⟨(ln 97 (fun l => { l with rx := .locked, testPend := true })), 97, by decide +kernel⟩,
   ⟨(ln 50 (fun l => { l with rx := .burst })), 0, 50, 0xC0000010, by decide +kernel⟩,
   ⟨(ln 112 (fun l => { l with rx := .test, test := true })), 0, 112, 0xC0000011, by decide +kernel⟩,
   ⟨((ln 112 (fun l => { l with rx := .test, test := true })).put (pgLN 112) F.LN_PRBS_CTRL_RXPAT 1), 112, (prbs7 64 (List.replicate 7 true)), by decide +kernel⟩,
   ⟨(((ln 112 (fun l => { l with rx := .test, test := true })).put (pgLN 112) F.LN_PRBS_CTRL_RXPAT 1).putBit (pgLN 112) F.LN_CFG_POL_AUTO true), 112, ((prbs7 64 (List.replicate 7 true)).map (fun b => !b)), by decide +kernel⟩,
   ⟨(((ln 112 (fun l => { l with rx := .test, test := true })).put (pgLN 112) F.LN_PRBS_CTRL_RXPAT 1).putBit (pgLN 112) F.LN_PRBS_STAT_SYNC true), 112, 1024, 128, 0, by decide +kernel⟩,
   ⟨(((ln 112 (fun l => { l with rx := .test, test := true })).put (pgLN 112) F.LN_PRBS_CTRL_RXPAT 1).putBit (pgLN 112) F.LN_PRBS_STAT_SYNC true), 112, 1024, 128, 0, by decide +kernel⟩,
   ⟨(((ln 112 (fun l => { l with rx := .test, test := true })).put (pgLN 112) F.LN_PRBS_CTRL_RXPAT 1).putBit (pgLN 112) F.LN_PRBS_STAT_SYNC true), 112, (2^48 - 1), 128, 0, by decide +kernel⟩,
   ⟨(ln 112 (fun l => { l with bits := 2^33 + 5, berr := 7, serr := 3 })), 0, 112, by decide +kernel⟩,
   ⟨(ln 112 (fun l => { l with bits := 2^33 + 5, berr := 7, serr := 3 })), 0, 112, 0, by decide +kernel⟩,
   ⟨(ln 112 (fun l => { l with rx := .test, test := true })), 0, 112, 0x1011, by decide +kernel⟩,
   ⟨((ln 50 (fun l => { l with compRun := 4, inverted := true })).putBit (pgLN 50) F.LN_CFG_POL_AUTO true), 2, by decide +kernel⟩⟩

end C03

/-! ### Witnesses, chapter 04 -/

namespace C04

abbrev z : State := State.reset
def en (a : Nat) (s : State) : State := s.putBit a F.PAGE_EN true
def tk (s : State) : State := { s.setTb 1 { t := 5000000123 * tbUnit + 7, epoch := 65535 } with now := 1000 }
def pz (n : Nat) : State := (en (pe0 n) ((tk z).modLane n (fun l => { l with tx := .sending }))).modPe n (fun p => { p with running := true, sfc := 77 }) |>.put (pe0 n) F.PE_FB_CFG_TB 1 |>.put (pe0 n) F.PE_FB_CFG_FS_STEP 25
def pw (n : Nat) : State := (pz n).modPe n (fun p => { p with running := false, waiting := true })
def lg : State := (pz 2).setReg (pgPS 0 + F.PS_COMBO_PAIR.off) 2 |> en (pe0 3) |>.modPe 3 (fun p => { p with running := true })
def rg (e : Int) (n : Nat) : State := (pz n).modPe n (fun p => { p with e := e * tbUnit })
def enc (l : List EncItem) : State := (pz 3).modPe 3 (fun p => { p with enc := l })
def it (l : Nat) : EncItem := { handle := some 1050, xgem := 1025, len := l }
def kz (n : Nat) : State := (pz n).put (pgPE n 3) F.TBL_ADDR_INDEX 512 |>.put (pgPE n 3) (F.TBL_DATA_DATA.ix 0) 0x99 |>.put (pgPE n 3) (F.TBL_DATA_DATA.ix 5) 160
def kn (n : Nat) : State := (kz n).setEnt (pgPE n 3) 0 512 (eput (eput 0 kNEXT 1) kACTIVE 1)
def nt (n : Nat) (k : Option Nat) : State := (pz n).modPe n (fun p => { p with notice := k })
def cl (n : Nat) (k : Option Nat) : State := (pz n).modPe n (fun p => { p with close := k })
def op (n : Nat) (s : State) : State := s.putBit (pe0 n) F.PE_LZ_STATUS_OPEN true
def stg (n : Nat) (s : State) : State := { s with staged := [(lzAddr n, some 44)] }

theorem witness_FrameBoundaries :
    (∃ (s : State) (n : Fin 48) (u : Nat) (o : Int), s.en (pe0 n.val) = true ∧ (s.pe n.val).running = true ∧ s.bit (pe0 n.val) F.PE_FB_STATUS_NOFSYNC = false ∧ (s.at u).fbOrigin n.val = some o) ∧
    (∃ (s : State) (n : Fin 48) (u : Nat) (o : Int), s.en (pe0 n.val) = true ∧ (s.pe n.val).running = true ∧ s.bit (pe0 n.val) F.PE_FB_STATUS_NOFSYNC = false ∧ (s.at u).fbOrigin n.val = some o) ∧
    (∃ (s : State) (n : Fin 48) (u : Nat) (o : Int), s.en (pe0 n.val) = true ∧ (s.pe n.val).running = true ∧ s.bit (pe0 n.val) F.PE_FB_STATUS_NOFSYNC = false ∧ (s.at u).fbOrigin n.val = some o) ∧
    (∃ (s : State) (n : Fin 48) (u : Nat) (o : Int), s.en (pe0 n.val) = true ∧ (s.pe n.val).running = true ∧ s.bit (pe0 n.val) F.PE_FB_STATUS_NOFSYNC = false ∧ (s.at u).fbOrigin n.val = some o) ∧
    (∃ (s : State) (n : Fin 48) (u : Nat) (o : Int), s.en (pe0 n.val) = true ∧ (s.pe n.val).running = true ∧ s.bit (pe0 n.val) F.PE_FB_STATUS_NOFSYNC = true ∧ (s.at u).fbOrigin n.val = some o) ∧
    (∃ (s : State) (n : Fin 48) (u : Nat), (s.en (pe0 n.val) = false ∨ (s.pe n.val).running = false)) ∧
    (∃ (s : State) (n : Fin 48) (u : Nat), s.en (pe0 n.val) = true ∧ (s.pe n.val).waiting = true ∧ (s.pe n.val).running = false ∧ (s.pe n.val).needEdge = false ∧ (s.protected_ n.val && decide ((s.at u).now < s.px.droneUntil)) = false) ∧
    (∃ (s : State) (fn : Fn) (n : Fin 48), Reaches s fn.val (pe0 n.val + 0x050) (.pe 0) n.val ∧ s.isLegacy n.val = false ∧ 2000 * tbUnit < (s.pe n.val).e.natAbs ∧ s.bit (pe0 n.val) F.PE_FB_STATUS_NOFSYNC = false ∧ (s.pe n.val).realign = none) ∧
    (∃ (s : State) (fn : Fn) (n : Fin 48), Reaches s fn.val (pe0 n.val + 0x050) (.pe 0) n.val ∧ s.isLegacy n.val = false ∧ 2000 * tbUnit < (s.pe n.val).e.natAbs ∧ s.bit (pe0 n.val) F.PE_FB_STATUS_NOFSYNC = false ∧ (s.pe n.val).realign = none) ∧
    (∃ (s : State) (fn : Fn) (n : Fin 48), Reaches s fn.val (pe0 n.val + 0x050) (.pe 0) n.val ∧ s.isLegacy n.val = false ∧ ((s.pe n.val).e.natAbs ≤ 2000 * tbUnit ∨ s.bit (pe0 n.val) F.PE_FB_STATUS_NOFSYNC = true ∨ (s.pe n.val).realign ≠ none)) ∧
    (∃ (s : State) (fn : Fn) (n : Fin 48), Reaches s fn.val (pe0 n.val + 0x050) (.pe 0) n.val ∧ s.isLegacy n.val = false ∧ ((s.pe n.val).e.natAbs ≤ 2000 * tbUnit ∨ s.bit (pe0 n.val) F.PE_FB_STATUS_NOFSYNC = true ∨ (s.pe n.val).realign ≠ none)) ∧
    (∃ (s : State) (fn : Fn) (n : Fin 48), Reaches s fn.val (pe0 n.val + 0x050) (.pe 0) n.val ∧ s.isLegacy n.val = false ∧ ((s.pe n.val).e.natAbs ≤ 2000 * tbUnit ∨ s.bit (pe0 n.val) F.PE_FB_STATUS_NOFSYNC = true ∨ (s.pe n.val).realign ≠ none)) ∧
    (∃ (s : State) (fn : Fn) (n : Fin 48), Reaches s fn.val (pe0 n.val + 0x050) (.pe 0) n.val ∧ s.isLegacy n.val = true) ∧
    (∃ (s : State) (n : Fin 48), (s.pe n.val).realign = some (((s.pe n.val).sfc + 1) % 2 ^ 51)) ∧
    (∃ (s : State) (n : Fin 48), (s.pe n.val).realign = some (((s.pe n.val).sfc + 1) % 2 ^ 51)) ∧
    (∃ (s : State) (fn : Fn) (n : Fin 48) (w : Word), Reaches s fn.val (pe0 n.val + 0x04C) (.pe 0) n.val) ∧
    (∃ (s : State) (fn : Fn) (n : Fin 48) (w : Word), Reaches s fn.val (pe0 n.val + 0x04C) (.pe 0) n.val) ∧
    (∃ (s : State) (fn : Fn) (n : Fin 48) (w : Word), Reaches s fn.val (pe0 n.val + 0x04C) (.pe 0) n.val) :=
  ⟨⟨(pz 3), 3, 2000, 0, by decide +kernel⟩,
   ⟨(((pz 3).put (pe0 3) F.PE_FB_CFG_SRC 1).modPe 3 (fun p => { p with edge := some 50 })), 3, 2000, 50, by decide +kernel⟩,
   ⟨lg, 3, 2000, 0, by decide +kernel⟩,
   ⟨((pz 3).modPe 3 (fun p => { p with realign := some 40000 })), 3, 2000, 0, by decide +kernel⟩,
   ⟨((pz 3).putBit (pe0 3) F.PE_FB_STATUS_NOFSYNC true), 3, 2000, 0, by decide +kernel⟩,
   ⟨z, 3, 8, by decide +kernel⟩,
   ⟨(pw 3), 3, 2000, by decide +kernel⟩,
   ⟨(rg 2001 3), 0, 3, by decide +kernel⟩,
   ⟨(rg (-2001) 3), 0, 3, by decide +kernel⟩,
   ⟨(rg 2000 3), 0, 3, by decide +kernel⟩,
   ⟨((rg 3000 3).putBit (pe0 3) F.PE_FB_STATUS_NOFSYNC true), 0, 3, by decide +kernel⟩,
   ⟨((rg 3000 3).modPe 3 (fun p => { p with realign := some 4 })), 0, 3, by decide +kernel⟩,
   ⟨lg, 0, 3, by decide +kernel⟩,
   ⟨((pz 3).modPe 3 (fun p => { p with realign := some 78 })), 3, by decide +kernel⟩,
   ⟨((pz 3).modPe 3 (fun p => { p with realign := some 78, e := -((3000 * tbUnit : Nat) : Int) })), 3, by decide +kernel⟩,
   ⟨(pz 3), 0, 3, 77, by decide +kernel⟩,
   ⟨lg, 0, 3, 77, by decide +kernel⟩,
   ⟨{ pz 3 with staged := [(pe0 3 + 0x048, some 9)] }, 0, 3, 77, by decide +kernel⟩⟩

theorem witness_FrameContent :
    (∃ (s : State) (n : Fin 48), s.peUp n.val = true ∧ (s.pe n.val).selDone = false) ∧
    (∃ (s : State) (n : Fin 48), s.peUp n.val = true ∧ (s.pe n.val).selDone = false) ∧
    (∃ (s : State) (n : Fin 48) (m : GMap), s.peUp n.val = true ∧ (s.gp n.val).sealed_ = some m ∧ m.sfc = (s.pe n.val).next) ∧
    (∃ (s : State) (n : Fin 48), s.peUp n.val = true ∧ (s.gp n.val).sealed_.all (fun m => decide (m.sfc ≠ (s.pe n.val).next)) = true) ∧
    (∃ (s : State) (n : Fin 48), s.peUp n.val = true ∧ (s.gp n.val).sealed_.all (fun m => decide (m.sfc ≠ (s.pe n.val).next)) = true) ∧
    (∃ (s : State) (n : Fin 48) (c : Fin 627) (k : Nat) (h : Nat) (i : EncItem) (r : List EncItem), s.en (pe0 n.val) = true ∧ (s.pe n.val).running = true ∧ (s.pe n.val).short = false ∧ c.val < s.cwCount n.val ∧ (s.pe n.val).prog = 0 ∧ (s.pe n.val).cont = none ∧ (s.pe n.val).ce = [] ∧ nextOmci n.val 64 s = (none, s) ∧ (s.pe n.val).enc = i :: r ∧ i.handle = some h ∧ s.pktPoisoned h = false ∧ s.pxShadow n.val = false ∧ 1 ≤ s.readIn n.val ∧ k = 1 ∧ s.cwCap n.val c.val ≤ xgemBytes i.len ∧ xgemBytes i.len ≤ s.cwCap n.val c.val + s.capAfter n.val c.val) ∧
    (∃ (s : State) (n : Fin 48) (c : Fin 627) (k : Nat) (h : Nat) (i : EncItem) (r : List EncItem), s.en (pe0 n.val) = true ∧ (s.pe n.val).running = true ∧ (s.pe n.val).short = false ∧ c.val < s.cwCount n.val ∧ (s.pe n.val).prog = 0 ∧ (s.pe n.val).cont = none ∧ (s.pe n.val).ce = [] ∧ nextOmci n.val 64 s = (none, s) ∧ (s.pe n.val).enc = i :: r ∧ i.handle = some h ∧ s.pktPoisoned h = false ∧ s.pxShadow n.val = false ∧ 1 ≤ s.readIn n.val ∧ k = 1 ∧ s.cwCap n.val c.val ≤ xgemBytes i.len ∧ xgemBytes i.len ≤ s.cwCap n.val c.val + s.capAfter n.val c.val) ∧
    (∃ (s : State) (n : Fin 48) (c : Fin 627) (k : Nat) (h : Nat) (i : EncItem) (r : List EncItem), s.en (pe0 n.val) = true ∧ (s.pe n.val).running = true ∧ (s.pe n.val).short = false ∧ c.val < s.cwCount n.val ∧ (s.pe n.val).prog = 0 ∧ (s.pe n.val).cont = none ∧ (s.pe n.val).ce = [] ∧ nextOmci n.val 64 s = (none, s) ∧ (s.pe n.val).enc = i :: r ∧ i.handle = some h ∧ s.pktPoisoned h = false ∧ s.pxShadow n.val = false ∧ 1 ≤ s.readIn n.val ∧ 1 ≤ k ∧ s.cwCap n.val c.val + s.capAfter n.val c.val < xgemBytes i.len ∧ 16 ≤ s.cwCap n.val c.val) ∧
    (∃ (s : State) (n : Fin 48) (c : Fin 627) (k : Nat), s.en (pe0 n.val) = true ∧ (s.pe n.val).running = true ∧ (s.pe n.val).short = false ∧ c.val < s.cwCount n.val ∧ (s.pe n.val).prog = 0 ∧ (s.pe n.val).cont = none ∧ (s.pe n.val).ce = [] ∧ nextOmci n.val 64 s = (none, s) ∧ (s.pe n.val).enc = []) ∧
    (∃ (s : State) (n : Fin 48) (c : Fin 627) (k : Nat), s.en (pe0 n.val) = true ∧ (s.pe n.val).running = true ∧ (s.pe n.val).short = false ∧ c.val < s.cwCount n.val ∧ (s.pe n.val).prog = 0 ∧ (s.pe n.val).cont = none ∧ (s.pe n.val).ce = [] ∧ nextOmci n.val 64 s = (none, s) ∧ (s.pe n.val).enc = []) :=
  ⟨⟨(pz 3), 3, by decide +kernel⟩,
   ⟨(((pz 3).put (pe0 3) F.PE_DS_CFG_PLOAM_MAX 3).modPe 3 (fun p => { p with sel := [.realign 4 5, .host [], .host [1]], notice := some 960, seq := [{ msg := .deactivate 4, copies := 3 }], closeCopies := 2 })), 3, by decide +kernel⟩,
   ⟨{ pz 3 with gps := sset {} [] 3 { sealed_ := some { sfc := 78 } } }, 3, { sfc := 78 }, by decide +kernel⟩,
   ⟨(pz 3), 3, by decide +kernel⟩,
   ⟨{ pz 3 with gps := sset {} [] 3 { sealed_ := some { sfc := 79 } } }, 3, by decide +kernel⟩,
   ⟨(enc [it 2000, it 5]), 3, 7, 1, 1050, (it 2000), [it 5], by decide +kernel⟩,
   ⟨(lg.modPe 3 (fun p => { p with enc := [it 208, it 5] })), 3, 626, 1, 1050, (it 208), [it 5], by decide +kernel⟩,
   ⟨(enc [it 2000, it 5]), 3, 359, 1, 1050, (it 2000), [it 5], by decide +kernel⟩,
   ⟨(enc []), 3, 359, 1, by decide +kernel⟩,
   ⟨(lg.modPe 3 (fun p => { p with enc := [] })), 3, 626, 0, by decide +kernel⟩⟩

theorem witness_KeysAndLeanZone :
    (∃ (s : State) (fn : Fn) (n : Fin 48) (w : Word) (c : Nat), Reaches s fn.val (pgPE n.val 3 + 0x044) (.pe 3) n.val ∧ s.get (pgPE n.val 3) F.TBL_ADDR_INDEX = c ∧ c ≤ 512 ∧ s.locked (pgPE n.val 3) = false ∧ w.toNat.testBit 16 = false ∧ eget (s.keyEnt n.val c) kPEND = 0 ∧ (s.get (pgPE n.val 3) (F.TBL_DATA_DATA.ix 4)).testBit 30 = false) ∧
    (∃ (s : State) (fn : Fn) (n : Fin 48) (w : Word) (c : Nat), Reaches s fn.val (pgPE n.val 3 + 0x044) (.pe 3) n.val ∧ s.get (pgPE n.val 3) F.TBL_ADDR_INDEX = c ∧ c ≤ 512 ∧ s.locked (pgPE n.val 3) = false ∧ w.toNat.testBit 16 = false ∧ eget (s.keyEnt n.val c) kPEND = 0 ∧ (s.get (pgPE n.val 3) (F.TBL_DATA_DATA.ix 4)).testBit 30 = false) ∧
    (∃ (s : State) (fn : Fn) (n : Fin 48) (w : Word) (c : Nat), Reaches s fn.val (pgPE n.val 3 + 0x044) (.pe 3) n.val ∧ s.get (pgPE n.val 3) F.TBL_ADDR_INDEX = c ∧ c ≤ 512 ∧ s.locked (pgPE n.val 3) = false ∧ w.toNat.testBit 16 = false ∧ eget (s.keyEnt n.val c) kPEND = 1) ∧
    (∃ (s : State) (fn : Fn) (n : Fin 48) (w : Word) (c : Nat), Reaches s fn.val (pgPE n.val 3 + 0x044) (.pe 3) n.val ∧ s.get (pgPE n.val 3) F.TBL_ADDR_INDEX = c ∧ c ≤ 512 ∧ s.locked (pgPE n.val 3) = false ∧ w.toNat.testBit 16 = false ∧ (s.get (pgPE n.val 3) (F.TBL_DATA_DATA.ix 4)).testBit 31 = false ∧ eget (s.keyEnt n.val c) kNEXT = 1 ∧ swSfc (s.winData (pgPE n.val 3)) % 8 = 0 ∧ 2 ≤ sfcDiff (swSfc (s.winData (pgPE n.val 3))) (s.pe n.val).unsel ∧ sfcDiff (swSfc (s.winData (pgPE n.val 3))) (s.pe n.val).unsel ≤ 2 ^ 31) ∧
    (∃ (s : State) (fn : Fn) (n : Fin 48) (w : Word) (c : Nat), Reaches s fn.val (pgPE n.val 3 + 0x044) (.pe 3) n.val ∧ s.get (pgPE n.val 3) F.TBL_ADDR_INDEX = c ∧ c ≤ 512 ∧ s.locked (pgPE n.val 3) = false ∧ w.toNat.testBit 16 = false) ∧
    (∃ (s : State) (fn : Fn) (n : Fin 48) (w : Word), Reaches s fn.val (lzAddr n.val) (.pe 0) n.val ∧ s.isLegacy n.val = false ∧ 3 ≤ w.toNat % 512 ∧ w.toNat % 512 ≤ 359 ∧ (s.pe n.val).notice = none ∧ (s.pe n.val).close = none) ∧
    (∃ (s : State) (fn : Fn) (n : Fin 48) (w : Word), Reaches s fn.val (lzAddr n.val) (.pe 0) n.val ∧ s.isLegacy n.val = false ∧ 3 ≤ w.toNat % 512 ∧ w.toNat % 512 ≤ 359 ∧ (s.pe n.val).notice = none ∧ (s.pe n.val).close = none) ∧
    (∃ (s : State) (fn : Fn) (n : Fin 48) (w : Word), Reaches s fn.val (lzAddr n.val) (.pe 0) n.val ∧ s.isLegacy n.val = false ∧ (w.toNat % 512 < 3 ∨ 359 < w.toNat % 512 ∨ (s.pe n.val).notice ≠ none)) ∧
    (∃ (s : State) (fn : Fn) (n : Fin 48) (w : Word), Reaches s fn.val (lzAddr n.val) (.pe 0) n.val ∧ s.isLegacy n.val = false ∧ (w.toNat % 512 < 3 ∨ 359 < w.toNat % 512 ∨ (s.pe n.val).notice ≠ none)) ∧
    (∃ (s : State) (fn : Fn) (n : Fin 48) (w : Word), Reaches s fn.val (lzAddr n.val) (.pe 0) n.val ∧ s.isLegacy n.val = false ∧ (w.toNat % 512 < 3 ∨ 359 < w.toNat % 512 ∨ (s.pe n.val).notice ≠ none)) ∧
    (∃ (s : State) (n : Fin 48) (k : Nat), (s.pe n.val).notice = some k ∧ passed (s.pe n.val).sfc k = true) ∧
    (∃ (s : State) (n : Fin 48) (k : Nat), (s.pe n.val).notice = some k ∧ passed (s.pe n.val).sfc k = true) ∧
    (∃ (s : State) (n : Fin 48) (k : Nat), (s.pe n.val).close = some k ∧ passed (s.pe n.val).sfc k = true) :=
  ⟨⟨(kz 3), 0, 3, 0, 512, by decide +kernel⟩,
   ⟨(kn 3), 0, 3, 0, 512, by decide +kernel⟩,
   ⟨((kn 3).putE (pgPE 3 3) 0 512 kPEND 1), 0, 3, 0, 512, by decide +kernel⟩,
   ⟨(kn 3), 0, 3, 0, 512, by decide +kernel⟩,
   ⟨(kn 3), 0, 3, 0, 512, by decide +kernel⟩,
   ⟨(pz 3), 0, 3, 3, by decide +kernel⟩,
   ⟨(op 3 (pz 3)), 0, 3, 359, by decide +kernel⟩,
   ⟨(pz 3), 0, 3, 2, by decide +kernel⟩,
   ⟨(pz 3), 0, 3, 360, by decide +kernel⟩,
   ⟨(nt 3 (some 9)), 0, 3, 30, by decide +kernel⟩,
   ⟨(nt 3 (some 77)), 3, 77, by decide +kernel⟩,
   ⟨(stg 3 (op 3 (nt 3 (some 77)))), 3, 77, by decide +kernel⟩,
   ⟨(stg 3 (op 3 (cl 3 (some 77)))), 3, 77, by decide +kernel⟩⟩

theorem witness_KeyWriteRefused :
    (∃ (s : State) (fn : Fn) (p : BitVec 12) (w : Word) (n : Nat) (c : Nat), Reaches s fn.val (pageBase p + 0x044) (.pe 3) n ∧ s.get (pageBase p) F.TBL_ADDR_TID = 0 ∧ s.get (pageBase p) F.TBL_ADDR_INDEX = c ∧ c ≤ 512 ∧ s.locked (pageBase p) = false ∧ (eget (s.winData (pageBase p)) kLOAD = 1 ∧ eget (s.keyEnt n c) kPEND = 1) ∨ (eget (s.winData (pageBase p)) kSCHED = 1 ∧ swSfc (s.winData (pageBase p)) % 8 ≠ 0) ∨ (eget (s.winData (pageBase p)) kSCHED = 1 ∧ (sfcDiff (swSfc (s.winData (pageBase p))) (s.pe n).unsel < 2 ∨ 2 ^ 31 < sfcDiff (swSfc (s.winData (pageBase p))) (s.pe n).unsel)) ∨ (eget (s.winData (pageBase p)) kSCHED = 1 ∧ eget (s.keyEnt n c) kNEXT = 0 ∧ eget (s.winData (pageBase p)) kLOAD = 0)) ∧
    (∃ (s : State) (fn : Fn) (p : BitVec 12) (w : Word) (n : Nat) (c : Nat), Reaches s fn.val (pageBase p + 0x044) (.pe 3) n ∧ s.get (pageBase p) F.TBL_ADDR_TID = 0 ∧ s.get (pageBase p) F.TBL_ADDR_INDEX = c ∧ c ≤ 512 ∧ s.locked (pageBase p) = false ∧ (eget (s.winData (pageBase p)) kLOAD = 1 ∧ eget (s.keyEnt n c) kPEND = 1) ∨ (eget (s.winData (pageBase p)) kSCHED = 1 ∧ swSfc (s.winData (pageBase p)) % 8 ≠ 0) ∨ (eget (s.winData (pageBase p)) kSCHED = 1 ∧ (sfcDiff (swSfc (s.winData (pageBase p))) (s.pe n).unsel < 2 ∨ 2 ^ 31 < sfcDiff (swSfc (s.winData (pageBase p))) (s.pe n).unsel)) ∨ (eget (s.winData (pageBase p)) kSCHED = 1 ∧ eget (s.keyEnt n c) kNEXT = 0 ∧ eget (s.winData (pageBase p)) kLOAD = 0)) ∧
    (∃ (s : State) (fn : Fn) (n : Fin 48) (w : Word) (c : Nat), Reaches s fn.val (pgPE n.val 3 + 0x044) (.pe 3) n.val ∧ s.get (pgPE n.val 3) F.TBL_ADDR_INDEX = c ∧ c ≤ 512 ∧ s.locked (pgPE n.val 3) = false ∧ w.toNat.testBit 16 = false ∧ eget (s.winData (pgPE n.val 3)) kLOAD = 0 ∧ (swSfc (s.winData (pgPE n.val 3)) % 8 ≠ 0 ∨ sfcDiff (swSfc (s.winData (pgPE n.val 3))) (s.pe n.val).unsel < 2 ∨ 2 ^ 31 < sfcDiff (swSfc (s.winData (pgPE n.val 3))) (s.pe n.val).unsel ∨ eget (s.keyEnt n.val c) kNEXT = 0)) :=
  ⟨⟨((kn 3).putE (pgPE 3 3) 0 512 kPEND 1 |>.put (pgPE 3 3) (F.TBL_DATA_DATA.ix 4) 0x80000000), 0, (BitVec.ofNat 12 (pgPE 3 3 / 4096)), 1, 3, 512, by decide +kernel⟩,
   ⟨((kz 3).put (pgPE 3 3) (F.TBL_DATA_DATA.ix 4) 0x40000000), 0, (BitVec.ofNat 12 (pgPE 3 3 / 4096)), 1, 3, 512, by decide +kernel⟩,
   ⟨(kz 3), 0, 3, 0, 512, by decide +kernel⟩⟩

end C04

/-! ### Witnesses, chapter 05 -/

namespace C05

abbrev z : State := State.reset
def en (a : Nat) (s : State) : State := s.putBit a F.PAGE_EN true
def pu : State := (en (pe0 3) z).modPe 3 (fun p => { p with running := true, sfc := 100 }) |>.setEnt (pgPE 3 4) 0 0 (eput (eput (eput 0 bEN 1) bPRE 160) bDERR 1)
def ctx (st : Nat) (f : Ctx → Ctx) (s : State) : State := (setRec 3 5 (fun e => eput (eput (ewPut e 2 64000) cST st) cONU 77) s).modCx 3 5 f
def al : Alc := { entry := none, bytes := 400, dbru := false, ploam := false, phase := 5 }
def bu : Burst := { onu := 5, prof := 0, start := 1000, size := 30000, ovh := 100, allocs := [al] }
def wi : Win := { burst := bu, sfc := 95, gap := true }
def wn (l : List Win) (s : State) : State := s.modPe 3 (fun p => { p with wins := l })
def rx (l : List RxBurst) (s : State) : State := s.modPe 3 (fun p => { p with rx := l })
def b0 : RxBurst := { win := wi, d := 64, q := 1 }
def b1 : RxBurst := { b0 with decoded := true, uncorr := 2, cw := 7 }
def ds : DecodeStats := ⟨10, 3, 5000, 7, 0, 99, 4⟩
def xe : Entry := eput (eput (eput (eput 0 eUSED 1) xUS 1) xONU 5) xID 1025
def xs (s : State) : State := s.setEnt (pgPE 3 2) 0 4 xe
def sg : QGrant := { kind := 0, ctx := 0, prof := 0, st := 0, ofs := 0, len := 2 ^ 40 }
def sw : SnWin := { grant := sg, sk := 0, seen := [9] }
def s0 : SnWin := { grant := sg, sk := 0 }
def ap (st dis : Nat) : State := ((ctx st id pu).setEnt (pgPE 3 7) 0 9 (eput (eput (eput (eput 0x33 eUSED 1) aCTX 5) aONU 77) aDIS dis)).modPe 3 (fun p => { p with snWin := some sw })
def rs (f : Pe → Pe) : State := (ctx 6 id pu).put (pgPE 3 4) F.PE_RSSI_CFG_MODE 2 |>.put (pgPE 3 4) F.PE_RSSI_CFG_DLY 100 |>.modPe 3 f
def hit (onu : Nat) (hec : Bool) : DelimMatch := ⟨roundDiv (pu.hdrAt 3 bu) 972 - 60, 1, hec, onu⟩
def sn0 : BitVec 64 := BitVec.ofNat 64 0x33

theorem witness_BurstWindows :
    (∃ (s : State) (n : Fin 48) (a : Int) (x : Int), s.nextPulse n.val = some (a, x, none)) ∧
    (∃ (s : State) (n : Fin 48) (a : Int) (x : Int) (q : QGrant × Int), s.nextPulse n.val = some (a, x, some q)) ∧
    (∃ (s : State) (n : Fin 48), s.nextPulse n.val = none) ∧
    (∃ (s : State) (n : Fin 48) (sig : Bool) (cp : Bool) (found : List DelimMatch) (u : Nat) (w : Win) (r : List Win), (s.pe n.val).wins = w :: r ∧ s.measuring n.val = false ∧ (s.lane (48 + n.val)).rx ≠ .test ∧ found.any (fun m => s.isMatch n.val w.burst m && m.hec) = false) ∧
    (∃ (s : State) (n : Fin 48) (sig : Bool) (cp : Bool) (found : List DelimMatch) (u : Nat) (w : Win) (r : List Win), (s.pe n.val).wins = w :: r ∧ s.measuring n.val = false ∧ (s.lane (48 + n.val)).rx ≠ .test ∧ found.any (fun m => s.isMatch n.val w.burst m && m.hec) = false) ∧
    (∃ (s : State) (n : Fin 48) (sig : Bool) (cp : Bool) (found : List DelimMatch) (u : Nat) (w : Win) (r : List Win) (m : DelimMatch), (s.pe n.val).wins = w :: r ∧ s.measuring n.val = false ∧ (s.lane (48 + n.val)).rx ≠ .test ∧ found.find? (fun m => s.isMatch n.val w.burst m && m.hec) = some m ∧ m.onu ≠ s.onuId n.val w.burst.onu) ∧
    (∃ (s : State) (n : Fin 48) (sig : Bool) (cp : Bool) (found : List DelimMatch) (u : Nat) (w : Win) (r : List Win) (m : DelimMatch), (s.pe n.val).wins = w :: r ∧ s.measuring n.val = false ∧ (s.lane (48 + n.val)).rx ≠ .test ∧ found.find? (fun m => s.isMatch n.val w.burst m && m.hec) = some m ∧ m.onu = s.onuId n.val w.burst.onu) ∧
    (∃ (s : State) (n : Fin 48) (sig : Bool) (cp : Bool) (found : List DelimMatch) (u : Nat) (w : Win) (r : List Win), (s.pe n.val).wins = w :: r ∧ (s.lane (48 + n.val)).rx = .test) ∧
    (∃ (s : State) (n : Fin 48) (sig : Bool) (cp : Bool) (found : List DelimMatch) (u : Nat), (s.pe n.val).wins = []) ∧
    (∃ (s : State) (n : Fin 48) (w : Win) (r : List Win), (s.pe n.val).wins = w :: r ∧ w.gap = true) ∧
    (∃ (s : State) (n : Fin 48), (s.pe n.val).wins.head?.all (fun w => !w.gap) = true) ∧
    (∃ (s : State) (n : Fin 48), (s.pe n.val).wins.head?.all (fun w => !w.gap) = true) :=
  ⟨⟨(wn [wi] pu), 3, (((wn [wi] pu).nextPulse 3).get!.1), (((wn [wi] pu).nextPulse 3).get!.2.1), by decide +kernel⟩,
   ⟨(pu.modPe 3 (fun p => { p with quiet := [(sg, 5)] })), 3, (((pu.modPe 3 (fun p => { p with quiet := [(sg, 5)] })).nextPulse 3).get!.1), (((pu.modPe 3 (fun p => { p with quiet := [(sg, 5)] })).nextPulse 3).get!.2.1), (sg, 5), by decide +kernel⟩,
   ⟨pu, 3, by decide +kernel⟩,
   ⟨(wn [wi, { wi with sfc := 96 }] (ctx 6 id pu)), 3, true, false, [hit 77 false, ⟨0, 9, true, 77⟩], 9, wi, [{ wi with sfc := 96 }], by decide +kernel⟩,
   ⟨(wn [wi] (ctx 6 id pu)), 3, false, false, [], 9, wi, [], by decide +kernel⟩,
   ⟨(wn [wi] (ctx 6 id pu)), 3, true, false, [hit 77 false, hit 78 true], 9, wi, [], (hit 78 true), by decide +kernel⟩,
   ⟨(wn [wi] (ctx 6 id pu)), 3, true, false, [hit 77 false, hit 77 true], 9, wi, [], (hit 77 true), by decide +kernel⟩,
   ⟨((wn [wi] (ctx 6 id pu)).modLane 51 (fun l => { l with rx := .test })), 3, true, false, [hit 77 true], 9, wi, [], by decide +kernel⟩,
   ⟨pu, 3, true, false, [], 9, by decide +kernel⟩,
   ⟨(wn [wi] pu), 3, wi, [], by decide +kernel⟩,
   ⟨(wn [{ wi with gap := false }] pu), 3, by decide +kernel⟩,
   ⟨pu, 3, by decide +kernel⟩⟩

theorem witness_BurstData :
    (∃ (s : State) (n : Fin 48) (d : DecodeStats) (iv : List UsInterval) (pl : Option UsPloam) (b : RxBurst), (s.pe n.val).rx.find? (fun b => !b.decoded) = some b) ∧
    (∃ (s : State) (n : Fin 48) (d : DecodeStats) (iv : List UsInterval) (pl : Option UsPloam) (b : RxBurst), (s.pe n.val).rx.find? (fun b => !b.decoded) = some b) ∧
    (∃ (s : State) (n : Fin 48) (d : DecodeStats) (id : BitVec 16) (data : List Byte) (k : Nat) (b : RxBurst) (a : Alc) (i : Nat) (e : Entry), (s.pe n.val).rx.find? (fun b => !b.decoded) = some b ∧ b.win.burst.allocs = [a] ∧ a.dbru = false ∧ b.win.burst.fixed = false ∧ s.findXgem n.val id.toNat = some (i, e) ∧ eget e xUS = 1 ∧ eget e xONU = b.win.burst.onu ∧ eget e xOMCC = 0 ∧ eget e xENCREQ = 0 ∧ s.permits n.val b.win.burst.onu false = true ∧ s.cktOfXgem n.val id.toNat = none ∧ sget none (s.pe n.val).parts id.toNat = none ∧ data.length ≤ s.get (pgPE n.val 4) F.PE_US_CFG_MAX_PKT ∧ s.bit (pgLK 0) F.PAGE_QUIESCE = false ∧ s.en (pgLK 0) = true ∧ s.bit (pgLK 0) F.ST_READY = true) ∧
    (∃ (s : State) (n : Fin 48) (d : DecodeStats) (id : BitVec 16) (data : List Byte) (k : Nat) (b : RxBurst) (a : Alc), (s.pe n.val).rx.find? (fun b => !b.decoded) = some b ∧ b.win.burst.allocs = [a] ∧ a.dbru = false ∧ b.win.burst.fixed = false ∧ s.findXgem n.val id.toNat = none) ∧
    (∃ (s : State) (n : Fin 48) (id : BitVec 16) (x : Part), sget none (s.pe n.val).parts id.toNat = some x ∧ s.get (pgPE n.val 4) F.PE_US_REASM_FR ≤ sfcDiff (s.pe n.val).sfc x.sfc) ∧
    (∃ (s : State) (n : Fin 48) (bip : Nat) (u : Nat) (c : Nat) (b : RxBurst), (s.pe n.val).rx.find? (fun b => b.decoded) = some b ∧ b.win.burst.onu = c ∧ c < 512) ∧
    (∃ (s : State) (n : Fin 48) (bip : Nat) (u : Nat) (c : Nat) (b : RxBurst), (s.pe n.val).rx.find? (fun b => b.decoded) = some b ∧ b.win.burst.onu = c ∧ c < 512) ∧
    (∃ (s : State) (n : Fin 48) (c : Nat) (w : Win) (ok : Bool), s.rssiChosen n.val = some c ∧ (s.pe n.val).lastWin = some (w, ok) ∧ s.usWin n.val ≤ 4 * s.get (pgPE n.val 4) F.PE_RSSI_CFG_DLY ∧ w.burst.onu = c ∧ s.rssiFits n.val w.burst = true ∧ (s.pe n.val).rssiDone = false ∧ (s.pe n.val).rssiWait = none) ∧
    (∃ (s : State) (n : Fin 48) (c : Nat) (w : Win) (r : List Win), s.rssiChosen n.val = some c ∧ (s.pe n.val).wins = w :: r ∧ 4 * s.get (pgPE n.val 4) F.PE_RSSI_CFG_DLY < s.usWin n.val ∧ w.burst.onu = c ∧ s.rssiFits n.val w.burst = true ∧ (s.pe n.val).rssiDone = false ∧ (s.pe n.val).rssiWait = none) ∧
    (∃ (s : State) (n : Fin 48), (s.rssiChosen n.val = none ∨ (s.pe n.val).rssiDone = true ∨ (s.pe n.val).rssiWait ≠ none)) ∧
    (∃ (s : State) (n : Fin 48) (c : Nat), s.rssiChosen n.val = some c ∧ (s.pe n.val).rssiDone = false ∧ (s.pe n.val).rssiWait = none ∧ s.get (pgPE n.val 4) F.PE_RSSI_CFG_PER ≤ (s.pe n.val).rssiFrames) ∧
    (∃ (s : State) (n : Fin 48) (c : Nat) (v : BitVec 16), (s.pe n.val).rssiWait = some (c, some true) ∧ s.cageSkipped n.val = false ∧ s.pinShort n.val 2 = false) ∧
    (∃ (s : State) (n : Fin 48) (c : Nat) (g : Option Bool) (v : BitVec 16) (late : Bool), (s.pe n.val).rssiWait = some (c, g) ∧ (g ≠ some true ∨ late = true ∨ s.cageSkipped n.val = true ∨ s.pinShort n.val 2 = true)) ∧
    (∃ (s : State) (n : Fin 48) (c : Nat) (g : Option Bool) (v : BitVec 16) (late : Bool), (s.pe n.val).rssiWait = some (c, g) ∧ (g ≠ some true ∨ late = true ∨ s.cageSkipped n.val = true ∨ s.pinShort n.val 2 = true)) ∧
    (∃ (s : State) (n : Fin 48) (c : Nat) (g : Option Bool) (v : BitVec 16) (late : Bool), (s.pe n.val).rssiWait = some (c, g) ∧ (g ≠ some true ∨ late = true ∨ s.cageSkipped n.val = true ∨ s.pinShort n.val 2 = true)) :=
  ⟨⟨(rx [b0, b0] (ctx 6 id pu)), 3, ds, [], none, b0, by decide +kernel⟩,
   ⟨(rx [b1, b0, b0] (ctx 6 id pu)), 3, ds, [], none, b0, by decide +kernel⟩,
   ⟨((rx [b0] (xs (ctx 6 id pu))).setReg (pgLK 0 + 8) 1 |>.putBit (pgLK 0) F.ST_READY true), 3, ds, 1025, [1,2,3], 0, b0, al, 4, xe, by decide +kernel⟩,
   ⟨(rx [b0] (ctx 6 id pu)), 3, ds, 1025, [1,2,3], 0, b0, al, by decide +kernel⟩,
   ⟨(pu.modPe 3 (fun p => { p with parts := [(1025, some ⟨[1], false, 5, 0⟩)] })), 3, 1025, ⟨[1], false, 5, 0⟩, by decide +kernel⟩,
   ⟨(rx [b0, b1] (ctx 6 id pu)), 3, 5, 99, 5, b1, by decide +kernel⟩,
   ⟨(rx [b0, { b1 with uncorr := 0 }] (ctx 6 id pu)), 3, 5, 99, 5, { b1 with uncorr := 0 }, by decide +kernel⟩,
   ⟨(rs (fun p => { p with lastWin := some (wi, true) })), 3, 5, wi, true, by decide +kernel⟩,
   ⟨(wn [wi] ((rs id).put (pgPE 3 4) F.PE_RSSI_CFG_DLY 0 |>.put (pgPE 3 4) F.PE_US_CFG_WIN 9)), 3, 5, wi, [], by decide +kernel⟩,
   ⟨z, 3, by decide +kernel⟩,
   ⟨(rs (fun p => { p with rssiFrames := 10000 })), 3, 5, by decide +kernel⟩,
   ⟨(rs (fun p => { p with rssiWait := some (5, some true) }) |> pmput 3 F.PM_MOD_STAT_PRESENT 1), 3, 5, 0x1234, by decide +kernel⟩,
   ⟨((rs (fun p => { p with rssiWait := some (5, some true) }) |> pmput 3 F.PM_MOD_STAT_PRESENT 1).setReg (pe0 3 + 0x078) 0x10), 3, 5, (some true), 0x1234, false, by decide +kernel⟩,
   ⟨(rs (fun p => { p with rssiWait := some (5, some false) }) |> pmput 3 F.PM_MOD_STAT_PRESENT 1), 3, 5, (some false), 0x1234, false, by decide +kernel⟩,
   ⟨(rs (fun p => { p with rssiWait := some (5, some true) }) |> pmput 3 F.PM_MOD_STAT_PRESENT 1), 3, 5, (some true), 0x1234, true, by decide +kernel⟩⟩

theorem witness_SerialNumbers :
    (∃ (s : State) (n : Fin 48) (sn : BitVec 64) (x : Nat) (u : Nat) (i : Nat) (msg : List Byte) (w : SnWin) (e : Entry), s.snOpen n.val x = some w ∧ sn.toNat ∉ w.seen ∧ s.findSn n.val sn.toNat = some (i, e) ∧ eget e aDIS = 0 ∧ s.st n.val (eget e aCTX) = 0) ∧
    (∃ (s : State) (n : Fin 48) (sn : BitVec 64) (x : Nat) (u : Nat) (msg : List Byte) (w : SnWin), s.snOpen n.val x = some w ∧ sn.toNat ∈ w.seen) ∧
    (∃ (s : State) (n : Fin 48) (sn : BitVec 64) (x : Nat) (u : Nat) (i : Nat) (msg : List Byte) (w : SnWin) (e : Entry), s.snOpen n.val x = some w ∧ sn.toNat ∉ w.seen ∧ s.findSn n.val sn.toNat = some (i, e) ∧ eget e aDIS = 1) ∧
    (∃ (s : State) (n : Fin 48) (sn : BitVec 64) (x : Nat) (u : Nat) (i : Nat) (msg : List Byte) (w : SnWin) (e : Entry), s.snOpen n.val x = some w ∧ sn.toNat ∉ w.seen ∧ s.findSn n.val sn.toNat = some (i, e) ∧ eget e aDIS = 0 ∧ s.st n.val (eget e aCTX) = 4) ∧
    (∃ (s : State) (n : Fin 48) (sn : BitVec 64) (x : Nat) (u : Nat) (q : Nat) (msg : List Byte) (w : SnWin), s.snOpen n.val x = some w ∧ sn.toNat ∉ w.seen ∧ s.findSn n.val sn.toNat = none ∧ s.snPort sn.toNat = some q ∧ (s.pe n.val).wrong.find? (fun p => p.1 == sn.toNat) = none) ∧
    (∃ (s : State) (n : Fin 48) (sn : BitVec 64) (x : Nat) (u : Nat) (msg : List Byte) (w : SnWin), s.snOpen n.val x = some w ∧ sn.toNat ∉ w.seen ∧ s.findSn n.val sn.toNat = none ∧ s.snPort sn.toNat = none) ∧
    (∃ (s : State) (n : Fin 48) (sn : BitVec 64) (x : Nat) (u : Nat) (msg : List Byte) (w : SnWin), s.snOpen n.val x = some w ∧ sn.toNat ∉ w.seen ∧ s.findSn n.val sn.toNat = none ∧ s.snPort sn.toNat = none) ∧
    (∃ (s : State) (n : Fin 48) (sn : BitVec 64) (x : Nat) (u : Nat) (msg : List Byte), s.snOpen n.val x = none) :=
  ⟨⟨(ap 0 0), 3, sn0, 640, 9, 9, [], sw, ((ap 0 0).ent (pgPE 3 7) 0 9), by decide +kernel⟩,
   ⟨(ap 0 0), 3, 9, 640, 9, [], sw, by decide +kernel⟩,
   ⟨(ap 6 1), 3, sn0, 640, 9, 9, [], sw, ((ap 6 1).ent (pgPE 3 7) 0 9), by decide +kernel⟩,
   ⟨(ap 4 0), 3, sn0, 640, 9, 9, [], sw, ((ap 4 0).ent (pgPE 3 7) 0 9), by decide +kernel⟩,
   ⟨((pu.modPe 3 (fun p => { p with snWin := some s0 })).setEnt (pgPE 40 7) 0 9 ((ap 0 0).ent (pgPE 3 7) 0 9)), 3, sn0, 640, 9, 40, [], s0, by decide +kernel⟩,
   ⟨((pu.modPe 3 (fun p => { p with snWin := some s0 }))), 3, sn0, 640, 9, [], s0, by decide +kernel⟩,
   ⟨((pu.putBit (pgPE 3 7) F.PE_ACT_CFG_DISC true).modPe 3 (fun p => { p with snWin := some s0 })), 3, sn0, 640, 9, [], s0, by decide +kernel⟩,
   ⟨pu, 3, sn0, 640, 9, [], by decide +kernel⟩⟩

end C05

/-! ### Witnesses, chapter 06 -/

namespace C06

abbrev z : State := State.reset
def en (a : Nat) (s : State) : State := s.putBit a F.PAGE_EN true
def pu : State := (en (pe0 3) z).modPe 3 (fun p => { p with running := true, sfc := 100 }) |>.putBit (pgPE 3 7) F.PE_ACT_CFG_SN_EN true |>.setEnt (pgPE 3 4) 0 0 (eput 0 bEN 1)
def ctx (st : Nat) (f : Ctx → Ctx) (s : State) : State := (setRec 3 5 (fun e => eput (eput (ewPut e 2 64000) cST st) cONU 77) s).modCx 3 5 f |>.setEnt (pgPE 3 7) 0 9 (eput (eput (eput (eput 0x33 eUSED 1) aCTX 5) aLMAX 2) aPROF 3)
def rr (n c rtd : Nat) (s : State) : Int := ((s.get (pgPE n 4) F.PE_US_TEQD_TEQD * 64 : Nat) : Int) - ((rtd : Int) - s.pxShift n)
def c2 : State := ctx 2 (fun x => { x with open_ := true, tries := 8 }) pu
def c4 : State := ctx 4 (fun x => { x with open_ := true, lostFrom := 6 }) pu
def adj : Int := 100000

theorem witness_Activation :
    (∃ (s : State) (n : Fin 48), s.peUp n.val = true ∧ s.pxShadow n.val = false ∧ s.bit (pgPE n.val 7) F.PE_ACT_CFG_SN_EN = true ∧ s.profOn n.val (s.actProf n.val) = true ∧ (s.gp n.val).reqs.any (fun r => r.kind == 0) = false) ∧
    (∃ (s : State) (n : Fin 48) (c : Fin 512) (rtd : Nat) (msg : List Byte) (d : Int), (s.cx n.val c.val).open_ = true ∧ s.st n.val c.val = 2 ∧ d = ((s.get (pgPE n.val 4) F.PE_US_TEQD_TEQD * 64 : Nat) : Int) - ((rtd : Int) - s.pxShift n.val) ∧ 0 ≤ d ∧ rtd < 2 ^ 32) ∧
    (∃ (s : State) (n : Fin 48) (c : Fin 512) (rtd : Nat) (msg : List Byte), (s.cx n.val c.val).open_ = true ∧ (s.st n.val c.val = 2 ∨ s.st n.val c.val = 4) ∧ ((s.get (pgPE n.val 4) F.PE_US_TEQD_TEQD * 64 : Nat) : Int) - ((rtd : Int) - s.pxShift n.val) < 0) ∧
    (∃ (s : State) (n : Fin 48) (c : Fin 512) (rtd : Nat) (msg : List Byte), (s.cx n.val c.val).open_ = true ∧ (s.st n.val c.val = 2 ∨ s.st n.val c.val = 4) ∧ ((s.get (pgPE n.val 4) F.PE_US_TEQD_TEQD * 64 : Nat) : Int) - ((rtd : Int) - s.pxShift n.val) < 0) ∧
    (∃ (s : State) (n : Fin 48) (c : Fin 512) (rtd : Nat) (msg : List Byte) (d : Int), (s.cx n.val c.val).open_ = true ∧ s.st n.val c.val = 4 ∧ (s.cx n.val c.val).reranging = false ∧ ((s.cx n.val c.val).lostFrom = 5 ∨ (s.cx n.val c.val).lostFrom = 6) ∧ d = ((s.get (pgPE n.val 4) F.PE_US_TEQD_TEQD * 64 : Nat) : Int) - ((rtd : Int) - s.pxShift n.val) ∧ 0 ≤ d) ∧
    (∃ (s : State) (n : Fin 48) (c : Fin 512), s.rngTries n.val ≤ (s.cx n.val c.val).tries ∧ s.st n.val c.val = 2) ∧
    (∃ (s : State) (n : Fin 48) (c : Fin 512) (l : Byte) (x : Bool), s.levelOpen n.val c.val = true) ∧
    (∃ (s : State) (n : Fin 48) (c : Fin 512) (l : Byte) (x : Bool), s.levelOpen n.val c.val = true) ∧
    (∃ (s : State) (n : Fin 48) (c : Fin 512) (f : Nat), s.levelOpen n.val c.val = true ∧ (s.cx n.val c.val).querySfc = some f ∧ 8 ≤ sfcDiff (s.pe n.val).sfc f) ∧
    (∃ (s : State) (n : Fin 48) (c : Fin 512) (f : Nat), s.levelOpen n.val c.val = true ∧ (s.cx n.val c.val).querySfc = some f ∧ 8 ≤ sfcDiff (s.pe n.val).sfc f) ∧
    (∃ (s : State) (n : Fin 48) (c : Fin 512), s.st n.val c.val = 3 ∧ (s.cx n.val c.val).ended = false ∧ 32 ≤ sfcDiff (s.pe n.val).sfc (s.cx n.val c.val).levelSfc) ∧
    (∃ (s : State) (n : Fin 48) (c : Fin 512), s.st n.val c.val = 3 ∧ (s.cx n.val c.val).ended = false ∧ 32 ≤ sfcDiff (s.pe n.val).sfc (s.cx n.val c.val).levelSfc) ∧
    (∃ (s : State) (n : Fin 48) (c : Fin 512) (u : Nat), s.st n.val c.val = 3 ∧ (s.cx n.val c.val).ended = true ∧ (s.level3 n.val c.val = 3 ∨ s.bit (pe0 n.val) F.PE_LZ_STATUS_OPEN = false)) :=
  ⟨⟨pu, 3, by decide +kernel⟩,
   ⟨c2, 3, 5, 6400, [1,2], (rr 3 5 6400 c2), by decide +kernel⟩,
   ⟨c2, 3, 5, 4000000000, [], by decide +kernel⟩,
   ⟨c4, 3, 5, 4000000000, [], by decide +kernel⟩,
   ⟨c4, 3, 5, 6400, [1,2], (rr 3 5 6400 c4), by decide +kernel⟩,
   ⟨c2, 3, 5, by decide +kernel⟩,
   ⟨(ctx 3 id pu), 3, 5, 9, true, by decide +kernel⟩,
   ⟨(ctx 3 id pu), 3, 5, 0, false, by decide +kernel⟩,
   ⟨(ctx 3 (fun x => { x with querySfc := some 92, queries := 2 }) pu), 3, 5, 92, by decide +kernel⟩,
   ⟨(ctx 3 (fun x => { x with querySfc := some 90, queries := 3 }) pu), 3, 5, 90, by decide +kernel⟩,
   ⟨(ctx 3 (fun x => { x with levelSfc := 68 }) pu), 3, 5, by decide +kernel⟩,
   ⟨(ctx 3 (fun x => { x with levelSfc := 68, decided := some 3 }) pu), 3, 5, by decide +kernel⟩,
   ⟨(ctx 3 (fun x => { x with ended := true }) pu), 3, 5, 77, by decide +kernel⟩⟩

theorem witness_TerminalService :
    (∃ (s : State) (fn : Fn) (n : Fin 48) (c : Fin 512), Reaches s fn.val (pgPE n.val 3 + 0x0C0) (.pe 3) n.val ∧ s.st n.val c.val = 5) ∧
    (∃ (s : State) (fn : Fn) (n : Fin 48) (c : Fin 512), Reaches s fn.val (pgPE n.val 3 + 0x0C0) (.pe 3) n.val ∧ s.st n.val c.val ≠ 5) ∧
    (∃ (s : State) (fn : Fn) (n : Fin 48) (c : Fin 512), Reaches s fn.val (pgPE n.val 3 + 0x0C0) (.pe 3) n.val ∧ s.st n.val c.val = 5) ∧
    (∃ (s : State) (n : Fin 48) (c : Fin 512) (u : Nat), s.st n.val c.val = 5 ∧ (s.cx n.val c.val).since + s.get (pgPE n.val 7) F.PE_ACT_TMO_AUTH_TMO * cyclesPerSec ≤ u) ∧
    (∃ (s : State) (n : Fin 48) (c : Fin 512) (u : Nat), s.inService n.val c.val = true ∧ s.get (pgPE n.val 7) F.PE_ACT_CFG_LOB_N ≤ (s.cx n.val c.val).lob) ∧
    (∃ (s : State) (n : Fin 48) (c : Fin 512), s.st n.val c.val = 4 ∧ (s.cx n.val c.val).asked = false ∧ (s.cx n.val c.val).snLost = false) ∧
    (∃ (s : State) (n : Fin 48) (c : Fin 512) (u : Nat), s.st n.val c.val = 4 ∧ (s.cx n.val c.val).since + s.get (pgPE n.val 7) F.PE_ACT_TMO_LOST_HOLD * cyclesPerSec ≤ u) ∧
    (∃ (s : State) (fn : Fn) (n : Fin 48) (c : Fin 512), Reaches s fn.val (pgPE n.val 7 + 0x0E4) (.pe 7) n.val ∧ 1 ≤ s.st n.val c.val ∧ s.st n.val c.val ≤ 6) ∧
    (∃ (s : State) (fn : Fn) (n : Fin 48) (c : Fin 512), Reaches s fn.val (pgPE n.val 7 + 0x0E4) (.pe 7) n.val ∧ 1 ≤ s.st n.val c.val ∧ s.st n.val c.val ≤ 6) ∧
    (∃ (s : State) (fn : Fn) (n : Fin 48) (c : Fin 512), Reaches s fn.val (pgPE n.val 7 + 0x0E4) (.pe 7) n.val ∧ (s.st n.val c.val = 0 ∨ s.st n.val c.val = 7)) ∧
    (∃ (s : State) (fn : Fn) (n : Fin 48) (c : Fin 512), Reaches s fn.val (pgPE n.val 7 + 0x0E4) (.pe 7) n.val ∧ 4 ≤ s.st n.val c.val ∧ s.st n.val c.val ≤ 6) ∧
    (∃ (s : State) (fn : Fn) (n : Fin 48) (r : Int), Reaches s fn.val (pgPE n.val 7 + 0x0E4) (.pe 7) n.val ∧ r = s.rangingRound n.val (s.getI (pgPE n.val 7) F.PE_RNG_ADJ_ADJ) ∧ s.Canon ∧ (s.liveCtx n.val).all (fun c => !s.ranged n.val c || decide (0 ≤ s.eqd n.val c + r)) = true) ∧
    (∃ (s : State) (fn : Fn) (n : Fin 48) (r : Int), Reaches s fn.val (pgPE n.val 7 + 0x0E4) (.pe 7) n.val ∧ r = s.rangingRound n.val (s.getI (pgPE n.val 7) F.PE_RNG_ADJ_ADJ) ∧ s.Canon ∧ (s.liveCtx n.val).all (fun c => !s.ranged n.val c || decide (0 ≤ s.eqd n.val c + r)) = true) :=
  ⟨⟨(ctx 5 id pu), 0, 3, 5, by decide +kernel⟩,
   ⟨(ctx 6 id pu), 0, 3, 5, by decide +kernel⟩,
   ⟨(ctx 5 id pu), 0, 3, 5, by decide +kernel⟩,
   ⟨(ctx 5 id pu), 3, 5, (3600 * 24 * cyclesPerSec), by decide +kernel⟩,
   ⟨(ctx 6 (fun x => { x with lob := 8 }) pu), 3, 5, 77, by decide +kernel⟩,
   ⟨(ctx 4 id pu), 3, 5, by decide +kernel⟩,
   ⟨(ctx 4 id pu), 3, 5, (3600 * 24 * 365 * cyclesPerSec), by decide +kernel⟩,
   ⟨(ctx 6 id pu), 0, 3, 5, by decide +kernel⟩,
   ⟨(ctx 1 id pu), 0, 3, 5, by decide +kernel⟩,
   ⟨(ctx 7 id pu), 0, 3, 5, by decide +kernel⟩,
   ⟨(ctx 4 id pu), 0, 3, 5, by decide +kernel⟩,
   ⟨(ctx 4 id pu).put (pgPE 3 7) F.PE_RNG_ADJ_ADJ 6400, 0, 3, State.rangingRound _ 3 _, by decide +kernel, rfl, by decide +kernel, by decide +kernel⟩,
   ⟨z, 0, 3, State.rangingRound _ 3 _, by decide +kernel, rfl, by decide +kernel, by decide +kernel⟩⟩

end C06

/-! ### Witnesses, chapter 07 -/

namespace C07

abbrev z : State := State.reset
def en (a : Nat) (s : State) : State := s.putBit a F.PAGE_EN true
def al (ty onu : Nat) (bl : Nat) (id : Nat) : Entry := eput (eput (eput (eput (eput (eput (eput (eput (eput 0 eUSED 1) gEN 1) gTYPE ty) gONU onu) gID id) gAR 100000) gAB 10000) gPR 200000) gPB 10000 |> (fun e => eput (eput e gBACKLOG bl) gFIX 20)
def gs : State := en (pgGS 1 0) (en (pe0 9) ((z.modPe 9 (fun p => { p with running := true, sfc := 100 })).setEnt (pgPE 9 4) 0 0 (eput (eput 0 bEN 1) bPRE 160) |>.setTb 1 { t := 5000000123 * tbUnit + 7, epoch := 65535 }))
def g1 : State := setRec 9 5 (fun e => eput (eput e cST 6) cLEVEL 2) (((gs.setEnt (pgGP 9) 0 0 (al 0 5 0 1024)).setEnt (pgGP 9) 0 1 (al 1 5 8000 1025)).setEnt (pgGP 9) 0 2 (al 4 5 900 1026))
def g2 : State := match execMapBuild 1 g1 with | .next t => t | _ => g1
def bld : Build := ((g2.gp 9).built).getD { map := {}, core := {} }
def g3 (run : Nat) : State := g1.modGp 9 (fun g => { g with prev := bld.map, staleRun := run, silences := [{ sfc := 101, start := 0, len := 5, kind := 0 }] })
def hz (f : Gp → Gp) : State := (g1.modGp 9 (fun g => { (f g) with inbox := [(2, 5000100123, 64), (1,2,3)] })).putBit (pgGS 1 0) F.GS_HINT_CFG_EN true |>.put (pgGS 1 0) F.GS_HINT_CFG_TB 1
def hl (k : Nat) : List Hint := List.replicate k { ctx := 2, target := 105, at_ := 0, bytes := 9 }

theorem witness_GrantMapsAndHints :
    (∃ (s : State) (g : Fin 6) (k : Nat) (j : Nat), k < 8 ∧ s.gsUp (g.val * 8 + k) = true ∧ s.quiescing (pgGS g.val 0) = false ∧ s.buildFrame (g.val * 8 + k) = some j) ∧
    (∃ (s : State) (g : Fin 6) (k : Nat) (j : Nat), k < 8 ∧ s.gsUp (g.val * 8 + k) = true ∧ s.quiescing (pgGS g.val 0) = false ∧ s.buildFrame (g.val * 8 + k) = some j) ∧
    (∃ (s : State) (g : Fin 6) (k : Nat), k < 8 ∧ s.gsUp (g.val * 8 + k) = false) ∧
    (∃ (s : State) (n : Fin 48) (m : Nat) (b : Build), (s.gp n.val).built = some b) ∧
    (∃ (s : State) (n : Fin 48) (m : Nat) (b : Build), (s.gp n.val).built = some b) ∧
    (∃ (s : State) (n : Fin 48) (m : Nat), (s.gp n.val).built = none) ∧
    (∃ (s : State) (n : Fin 48), s.gsUp n.val = true ∧ (s.gp n.val).sealed_.all (fun m => m.sfc != (s.pe n.val).next) = true ∧ s.lateRealign n.val = none) ∧
    (∃ (s : State) (n : Fin 48), s.gsUp n.val = true ∧ (s.gp n.val).sealed_.all (fun m => m.sfc != (s.pe n.val).next) = true ∧ s.lateRealign n.val = none) ∧
    (∃ (s : State) (n : Nat) (j : Nat) (b : Burst), b ∈ (reducedMap s n j).bursts) ∧
    (∃ (s : State) (n : Fin 48), (s.gsUp n.val = false ∨ (s.gp n.val).sealed_.any (fun m => m.sfc == (s.pe n.val).next) = true)) ∧
    (∃ (s : State) (n : Fin 48) (u : Nat) (i : Nat) (h : Nat) (b : Nat) (r : List (Nat × Nat × Nat)), (s.gp n.val).inbox = (i, h, b) :: r ∧ s.bit (gsPg n.val) F.GS_HINT_CFG_EN = false) ∧
    (∃ (s : State) (n : Fin 48) (u : Nat) (i : Nat) (h : Nat) (b : Nat) (r : List (Nat × Nat × Nat)), (s.gp n.val).inbox = (i, h, b) :: r ∧ s.bit (gsPg n.val) F.GS_HINT_CFG_EN = true ∧ ((s.get (gsPg n.val) F.GS_HINT_CFG_AHEAD * 100000 * tbUnit : Nat) : Int) < ((h * tbUnit : Nat) : Int) - (((s.at u).tb (s.get (gsPg n.val) F.GS_HINT_CFG_TB)).t : Int)) ∧
    (∃ (s : State) (n : Fin 48) (u : Nat) (i : Nat) (h : Nat) (b : Nat) (r : List (Nat × Nat × Nat)), (s.gp n.val).inbox = (i, h, b) :: r ∧ s.bit (gsPg n.val) F.GS_HINT_CFG_EN = true ∧ ((h * tbUnit : Nat) : Int) - (((s.at u).tb (s.get (gsPg n.val) F.GS_HINT_CFG_TB)).t : Int) ≤ ((s.get (gsPg n.val) F.GS_HINT_CFG_AHEAD * 100000 * tbUnit : Nat) : Int) ∧ (eget (s.aent n.val i) gTYPE ≠ 4 ∨ s.level3 n.val (eget (s.aent n.val i) gONU) < 2)) ∧
    (∃ (s : State) (n : Fin 48) (u : Nat) (i : Nat) (h : Nat) (b : Nat) (r : List (Nat × Nat × Nat)), (s.gp n.val).inbox = (i, h, b) :: r ∧ s.bit (gsPg n.val) F.GS_HINT_CFG_EN = true ∧ ((h * tbUnit : Nat) : Int) - (((s.at u).tb (s.get (gsPg n.val) F.GS_HINT_CFG_TB)).t : Int) ≤ ((s.get (gsPg n.val) F.GS_HINT_CFG_AHEAD * 100000 * tbUnit : Nat) : Int) ∧ eget (s.aent n.val i) gTYPE = 4 ∧ 2 ≤ s.level3 n.val (eget (s.aent n.val i) gONU)) ∧
    (∃ (s : State) (n : Fin 48) (u : Nat) (i : Nat) (h : Nat) (b : Nat) (r : List (Nat × Nat × Nat)), (s.gp n.val).inbox = (i, h, b) :: r ∧ s.bit (gsPg n.val) F.GS_HINT_CFG_EN = true ∧ ((h * tbUnit : Nat) : Int) - (((s.at u).tb (s.get (gsPg n.val) F.GS_HINT_CFG_TB)).t : Int) ≤ ((s.get (gsPg n.val) F.GS_HINT_CFG_AHEAD * 100000 * tbUnit : Nat) : Int) ∧ eget (s.aent n.val i) gTYPE = 4 ∧ 2 ≤ s.level3 n.val (eget (s.aent n.val i) gONU)) ∧
    (∃ (s : State) (n : Fin 48) (u : Nat) (i : Nat) (h : Nat) (b : Nat) (r : List (Nat × Nat × Nat)), (s.gp n.val).inbox = (i, h, b) :: r ∧ s.bit (gsPg n.val) F.GS_HINT_CFG_EN = true ∧ ((h * tbUnit : Nat) : Int) - (((s.at u).tb (s.get (gsPg n.val) F.GS_HINT_CFG_TB)).t : Int) ≤ ((s.get (gsPg n.val) F.GS_HINT_CFG_AHEAD * 100000 * tbUnit : Nat) : Int) ∧ eget (s.aent n.val i) gTYPE = 4 ∧ 2 ≤ s.level3 n.val (eget (s.aent n.val i) gONU)) ∧
    (∃ (s : State) (n : Fin 48) (u : Nat) (i : Nat) (h : Nat) (b : Nat) (r : List (Nat × Nat × Nat)), (s.gp n.val).inbox = (i, h, b) :: r ∧ s.bit (gsPg n.val) F.GS_HINT_CFG_EN = true ∧ ((h * tbUnit : Nat) : Int) - (((s.at u).tb (s.get (gsPg n.val) F.GS_HINT_CFG_TB)).t : Int) ≤ ((s.get (gsPg n.val) F.GS_HINT_CFG_AHEAD * 100000 * tbUnit : Nat) : Int) ∧ eget (s.aent n.val i) gTYPE = 4 ∧ 2 ≤ s.level3 n.val (eget (s.aent n.val i) gONU)) ∧
    (∃ (s : State) (fn : Fn) (g : Fin 6) (w : Word), Reaches s fn.val (pgGS g.val 0 + 0x040) (.gs 0) g.val) :=
  ⟨⟨g1, 1, 1, 101, by decide +kernel⟩,
   ⟨(g1.modPe 9 (fun p => { p with realign := some 102, e := 5 })), 1, 1, 102, by decide +kernel⟩,
   ⟨g1, 1, 0, by decide +kernel⟩,
   ⟨g2, 9, 70000, bld, by decide +kernel⟩,
   ⟨((setBitOf (setBitOf g2 (gsPg 9) F.GS_STATUS_STALE 1 true) (gsPg 9) F.GS_STATUS_FROZEN 1 true).put (pgGP 9) F.GS_PORT_SEAL_MIN 4), 9, 5, bld, by decide +kernel⟩,
   ⟨g1, 9, 4, by decide +kernel⟩,
   ⟨(g3 0), 9, by decide +kernel⟩,
   ⟨(g3 1), 9, by decide +kernel⟩,
   ⟨((g3 0).modGp 9 (fun g => { g with silences := [] })), 9, 101, (((reducedMap ((g3 0).modGp 9 (fun g => { g with silences := [] })) 9 101).bursts).headD { onu := 0, prof := 0, start := 0, size := 0, allocs := [], fixed := true, pre := false, earliest := 0, ovh := 0 }), by decide +kernel⟩,
   ⟨z, 9, by decide +kernel⟩,
   ⟨((hz id).putBit (pgGS 1 0) F.GS_HINT_CFG_EN false), 9, 4, 2, 5000100123, 64, [(1,2,3)], by decide +kernel⟩,
   ⟨((hz id).put (pgGS 1 0) F.GS_HINT_CFG_AHEAD 0), 9, 4, 2, 5000100123, 64, [(1,2,3)], by decide +kernel⟩,
   ⟨(setRec 9 5 (fun e => eput e cLEVEL 1) (hz id)), 9, 4, 2, 5000100123, 64, [(1,2,3)], by decide +kernel⟩,
   ⟨(hz id), 9, 4, 2, 5000100123, 64, [(1,2,3)], by decide +kernel⟩,
   ⟨(setBitOf (hz id) (gsPg 9) F.GS_STATUS_FROZEN 1 true), 9, 4, 2, 5000100123, 64, [(1,2,3)], by decide +kernel⟩,
   ⟨(hz (fun g => { g with hints := hl 4 })), 9, 4, 2, 5000100123, 64, [(1,2,3)], by decide +kernel⟩,
   ⟨(hz (fun g => { g with hints := hl 3 })), 9, 4, 2, 5000100123, 64, [(1,2,3)], by decide +kernel⟩,
   ⟨g1, 0, 1, 5, by decide +kernel⟩⟩

end C07

/-! ### Witnesses, chapter 08 -/

namespace C08

abbrev z : State := State.reset
def en (a : Nat) (s : State) : State := s.putBit a F.PAGE_EN true
def ms (f : Entry → Entry) : State := setM 3 5 f ((setSt 3 5 6 z).setReg (pgMS 3 + 0x0D0) 0x0000A98B |>.put (pgMS 3) F.PE_MS_CTRL_MODE 2)
def dn (r : Nat) (e : Entry) : Entry := eput (eput (eput (eput e mDOWN 4) mRUNG r) mMAX 7) mUP 1000
def fl (k : Nat) (s : State) : State := s.modCx 3 5 (fun x => { x with flap := [k], rungs := [(3, 0), (0,0)] })
def hl (s : State) : State := (s.setEnt (pgHX 0) 0 0 0)

theorem witness_MarginMoves :
    (∃ (s : State) (n : Fin 48) (c : Fin 512) (p : Nat), s.inService n.val c.val = true ∧ s.msMode n.val = 2 ∧ s.get (pgMS n.val) F.PE_MS_CFG_DOWN_N ≤ s.mget n.val c.val mDOWN ∧ s.mget n.val c.val mNOLAD = 0 ∧ 0 < s.mget n.val c.val mRUNG ∧ s.rung n.val (s.mget n.val c.val mRUNG - 1) = some p ∧ s.mget n.val c.val mPIN = 1 ∨ flapCount (s.cx n.val c.val) + 1 < s.get (pgMS n.val) F.PE_MS_PROB_FLAP_MAX) ∧
    (∃ (s : State) (n : Fin 48) (c : Fin 512) (p : Nat), s.inService n.val c.val = true ∧ s.msMode n.val = 2 ∧ s.get (pgMS n.val) F.PE_MS_CFG_DOWN_N ≤ s.mget n.val c.val mDOWN ∧ s.mget n.val c.val mNOLAD = 0 ∧ 0 < s.mget n.val c.val mRUNG ∧ s.rung n.val (s.mget n.val c.val mRUNG - 1) = some p ∧ s.mget n.val c.val mPIN = 1 ∨ flapCount (s.cx n.val c.val) + 1 < s.get (pgMS n.val) F.PE_MS_PROB_FLAP_MAX) ∧
    (∃ (s : State) (n : Fin 48) (c : Fin 512) (p : Nat), s.inService n.val c.val = true ∧ s.msMode n.val = 2 ∧ s.get (pgMS n.val) F.PE_MS_CFG_DOWN_N ≤ s.mget n.val c.val mDOWN ∧ s.mget n.val c.val mNOLAD = 0 ∧ 0 < s.mget n.val c.val mRUNG ∧ s.rung n.val (s.mget n.val c.val mRUNG - 1) = some p ∧ s.mget n.val c.val mPIN = 0 ∧ s.get (pgMS n.val) F.PE_MS_PROB_FLAP_MAX ≤ flapCount (s.cx n.val c.val) + 1) ∧
    (∃ (s : State) (n : Fin 48) (c : Fin 512), s.inService n.val c.val = true ∧ s.get (pgMS n.val) F.PE_MS_CFG_DOWN_N ≤ s.mget n.val c.val mDOWN ∧ s.mget n.val c.val mNOLAD = 0 ∧ s.mget n.val c.val mRUNG = 0) ∧
    (∃ (s : State) (n : Fin 48) (c : Fin 512) (p : Nat), s.inService n.val c.val = true ∧ s.msMode n.val = 2 ∧ s.get (pgMS n.val) F.PE_MS_CFG_UP_K ≤ s.mget n.val c.val mUP ∧ s.mget n.val c.val mNOLAD = 0 ∧ s.mget n.val c.val mRUNG < s.mget n.val c.val mMAX ∧ s.rung n.val (s.mget n.val c.val mRUNG + 1) = some p ∧ s.mget n.val c.val mPROB = 0 ∧ s.mget n.val c.val mPIN = 0 ∧ flapCount (s.cx n.val c.val) + 1 < s.get (pgMS n.val) F.PE_MS_PROB_FLAP_MAX) ∧
    (∃ (s : State) (n : Fin 48) (c : Fin 512), (s.mget n.val c.val mPROB = 1 ∨ s.mget n.val c.val mPIN = 1 ∨ s.inService n.val c.val = false ∨ s.mget n.val c.val mNOLAD = 1 ∨ s.msMode n.val = 0)) ∧
    (∃ (s : State) (n : Fin 48) (c : Fin 512), s.mget n.val c.val mPROB = 1 ∧ s.mget n.val c.val mPROBLEFT = 0) :=
  ⟨⟨(ms (dn 2)), 3, 5, 0, by decide +kernel⟩,
   ⟨(fl 9 (ms (fun e => eput (eput (dn 2 e) mPIN 1) mPROB 1))), 3, 5, 0, by decide +kernel⟩,
   ⟨(fl 5 (ms (dn 2))), 3, 5, 0, by decide +kernel⟩,
   ⟨(ms (dn 0)), 3, 5, by decide +kernel⟩,
   ⟨(ms (dn 2)), 3, 5, 2, by decide +kernel⟩,
   ⟨z, 3, 5, by decide +kernel⟩,
   ⟨(ms (fun e => eput e mPROB 1)), 3, 5, by decide +kernel⟩⟩

theorem witness_MarginUpkeep :
    (∃ (s : State) (n : Fin 48) (c : Nat), c ∈ s.liveCtx n.val) ∧
    (∃ (s : State) (n : Fin 48) (c : Nat), c ∈ s.liveCtx n.val) ∧
    (∃ (s : State) (n : Fin 48) (c : Fin 512) (u : Nat), s.mget n.val c.val mPIN = 1 ∧ s.get (pgMS n.val) F.PE_MS_PROB_PIN_HOLD ≠ 0 ∧ (s.cx n.val c.val).pinAt + s.get (pgMS n.val) F.PE_MS_PROB_PIN_HOLD * 3600 * cyclesPerSec ≤ u) ∧
    (∃ (s : State) (n : Fin 48) (c : Fin 512) (u : Nat), s.get (pgMS n.val) F.PE_MS_PROB_PIN_HOLD = 0) ∧
    (∃ (s : State) (fn : Fn) (n : Fin 48) (w : Word) (p : Nat), Reaches s fn.val (pgMS n.val + 0x0E4) (.pe 8) n.val ∧ s.inService n.val (fld w.toNat 8 0) = true ∧ s.rung n.val (fld w.toNat 18 16) = some p ∧ fld w.toNat 18 16 ≤ s.mget n.val (fld w.toNat 8 0) mMAX) ∧
    (∃ (s : State) (fn : Fn) (n : Fin 48) (w : Word), Reaches s fn.val (pgMS n.val + 0x0E4) (.pe 8) n.val ∧ (s.inService n.val (fld w.toNat 8 0) = false ∨ s.rung n.val (fld w.toNat 18 16) = none ∨ s.mget n.val (fld w.toNat 8 0) mMAX < fld w.toNat 18 16)) ∧
    (∃ (s : State) (fn : Fn) (n : Fin 48) (w : Word), Reaches s fn.val (pgMS n.val + 0x0E4) (.pe 8) n.val ∧ (s.inService n.val (fld w.toNat 8 0) = false ∨ s.rung n.val (fld w.toNat 18 16) = none ∨ s.mget n.val (fld w.toNat 8 0) mMAX < fld w.toNat 18 16)) ∧
    (∃ (s : State) (fn : Fn) (n : Fin 48) (w : Word), Reaches s fn.val (pgMS n.val + 0x0E4) (.pe 8) n.val ∧ s.inService n.val (fld w.toNat 8 0) = true ∧ s.mget n.val (fld w.toNat 8 0) mPIN = 1) ∧
    (∃ (s : State) (fn : Fn) (n : Fin 48) (w : Word), Reaches s fn.val (pgMS n.val + 0x0E4) (.pe 8) n.val ∧ s.inService n.val (fld w.toNat 8 0) = true) ∧
    (∃ (s : State) (n : Fin 48), s.isLegacy n.val = false ∧ s.get (pgMS n.val) F.PE_MS_LZ2_LZ_K ≤ (s.pe n.val).onCount) ∧
    (∃ (s : State) (n : Fin 48), (s.isLegacy n.val = true ∨ (s.pe n.val).onCount < s.get (pgMS n.val) F.PE_MS_LZ2_LZ_K)) :=
  ⟨⟨(fl 5 (ms (dn 2))), 3, 5, by decide +kernel⟩,
   ⟨((ms (dn 2)).modCx 3 5 (fun x => { x with flap := [1,2,3,4,5,6], rungs := [(3, 0), (0,0)] })), 3, 5, by decide +kernel⟩,
   ⟨(fl 5 (ms (fun e => eput e mPIN 1))), 3, 5, (24*3600*cyclesPerSec), by decide +kernel⟩,
   ⟨((ms (fun e => eput e mPIN 1)).put (pgMS 3) F.PE_MS_PROB_PIN_HOLD 0), 3, 5, (24*3600*cyclesPerSec), by decide +kernel⟩,
   ⟨(ms (fun e => eput (dn 2 e) mPIN 1)), 0, 3, 0x10005, 0, by decide +kernel⟩,
   ⟨(ms (dn 2)), 0, 3, 0x40005, by decide +kernel⟩,
   ⟨z, 0, 3, 0x10005, by decide +kernel⟩,
   ⟨(fl 5 (ms (fun e => eput e mPIN 1))), 0, 3, 5, by decide +kernel⟩,
   ⟨(fl 5 (ms (fun e => eput e mPIN 1))), 0, 3, 5, by decide +kernel⟩,
   ⟨(z.modPe 3 (fun p => { p with onCount := 64 })), 3, by decide +kernel⟩,
   ⟨z, 3, by decide +kernel⟩⟩

end C08

/-! ### Witnesses, chapter 09 -/

namespace C09

abbrev z : State := State.reset
def nd (tid i par prio : Nat) (s : State) : State := s.setNode tid i (eput (eput (eput (eput (eput 0 nVALID 1) nEN 1) nPARENT par) nPRIO prio) nWEIGHT 1)
def en (a : Nat) (s : State) : State := s.putBit a F.PAGE_EN true
def tm0 : State := (en pTM z).putBit (pgPE 3 0) F.PAGE_EN true |>.modPe 3 (fun p => { p with running := true })
def tr0 : State := nd 3 3 0 0 (nd 2 7 3 0 (nd 1 9 7 0 (nd 0 5 9 0 (nd 0 6 9 1 (nd 0 65535 9 2 tm0)))))
def bp0 (s : State) : State := let z := s; { (z.put pgBP (F.BP_POOL_CFG_COUNT.ix 1) 100 |>.put pgBP (F.BP_POOL_BASE_BASE.ix 1) 1000 |>.putBit pgBP (F.BP_POOL_CFG_EN.ix 1) true |>.put pgBP (F.BP_POOL_STAT_FREE.ix 1) 100 |>.putBit pgBP F.PAGE_EN true) with bp := { z.bp with pools := sset {} z.bp.pools 1 { cache := [1000, 1001], top := 1002 } } }
def quo (s : State) : State := s.setEnt pgBP 0 (128+5) (eput 0 qQUOTA 9)
def pk (n : Nat) : Pkt := { bytes := List.replicate n 0x55, charge := 5 }
def off (s : State) (o : List Offer) : State := { s with tm := { s.tm with offers := o } }
def qp (h l : Nat) : QPkt := { handle := h, len := l, charged := (l + 3) / 4 * 4 }
def o1 (q : Nat) : Offer := { pkt := pk 66, dests := [(0, q)] }
def tr1 : State := ((bp0 tr0).setNode 0 5 (eput ((bp0 tr0).node 0 5) nPOOL 1)).setEnt pTM 8 0 (eput (eput 0 (dpTAIL 0) 100) (dpTAIL 1) 100)
def tq : State := (tr1.setTmq 0 5 { pkts := [qp 1050 66, qp 1051 70] }).setHdr 1050 (headHdr 1 64 5 1 0 1 nilH) |>.setHdr 1051 (headHdr 1 64 5 1 0 1 nilH) |>.setNode 0 5 (eput (tr1.node 0 5) nDEPTH 140)
def tr6 : State := nd 7 2 0 0 (nd 6 7 2 0 (nd 5 9 7 0 (nd 4 5 9 0 (nd 4 6 9 1 (bp0 (((en pgUL (en pTM z)).putBit pgUL (F.UL_GRP_EN.ix 2) true).putBit pgUL (F.UL_GRP_UP.ix 2) true))))))
def tu : State := (tr6.setTmq 4 6 { pkts := [qp 1050 66, qp 1051 70] }).setHdr 1050 (headHdr 1 64 5 1 0 1 nilH) |>.setHdr 1051 (headHdr 1 64 5 1 0 1 nilH)
def pth (s : State) (n : Nat) : List (Nat × Nat × Nat) := ((selectPath n 3 (rootTab n) (rootIdx n) ((s.at 9).gated n)).1).getD []
def cirN (s : State) : State := (s.setNode 0 5 (ewPut (ewPut (ewPut (ewPut (s.node 0 5) 1 5000) 2 64) 3 7000) 4 70))
def glo (n q : Nat) : State := ((((tr1.put (pgGL 3) F.GT_CTRL_TB 1).putBit (pgGT 0) F.PAGE_EN true |>.putBit (pgGL 3) F.GT_CTRL_EN true |>.putBit (pgGL 3) F.GT_STATUS_OPER true |>.put (pgGL 3) F.GT_OPER_CYCLE_CYCLE 2000).put (pgGL 3) F.GT_OPER_LEN_LEN 1).setTb 1 { t := 5000000123 * tbUnit + 7, epoch := 65535 }).setTmq 0 5 { pkts := [{ qp 1050 n with oversize := some (q * tbUnit) }, qp 1051 3] } |>.setHdr 1050 (headHdr 1 64 5 1 0 1 nilH) |>.put (pgGT 0) F.GT_CFG_HOLD_LIMIT 2 |>.put (pgGL 3) (F.GT_MAXWIN_NS.ix 0) 1000

theorem witness_Enqueue :
    (∃ (s : State) (u : Nat) (o : Offer) (r : List Offer), s.tm.offers = o :: r ∧ (s.en pTM = false ∨ s.quiescing pTM = true)) ∧
    (∃ (s : State) (u : Nat) (o : Offer) (r : List Offer), s.tm.offers = o :: r ∧ (s.en pTM = false ∨ s.quiescing pTM = true)) ∧
    (∃ (s : State) (u : Nat) (tid : Nat) (q : Nat) (o : Offer) (r : List Offer), s.tm.offers = o :: r ∧ s.en pTM = true ∧ s.quiescing pTM = false ∧ o.dests = [(tid, q)] ∧ (s.nodeValid tid q = false ∨ s.nget tid q nEN = 0)) ∧
    (∃ (s : State) (u : Nat) (tid : Nat) (q : Nat) (o : Offer) (r : List Offer), s.tm.offers = o :: r ∧ s.en pTM = true ∧ s.quiescing pTM = false ∧ o.dests = [(tid, q)] ∧ s.nodeValid tid q = true ∧ s.nget tid q nEN ≠ 0 ∧ eget (s.ent pTM 8 (s.nget tid q nDPROF)) (dpTAIL o.pkt.colour) * 64 < s.nget tid q nDEPTH + s.charged tid q o.pkt.bytes.length) ∧
    (∃ (s : State) (u : Nat) (tid : Nat) (q : Nat) (h : Nat) (o : Offer) (r : List Offer), s.tm.offers = o :: r ∧ s.en pTM = true ∧ s.quiescing pTM = false ∧ o.dests = [(tid, q)] ∧ (tmChecks tid q o.pkt.colour o.pkt.bytes.length (dfcSettle (s.offered u r))).1 = 0 ∧ (alloc (s.nget tid q nPOOL) ((o.pkt.orig.getD o.pkt.bytes.length + s.poolData (s.nget tid q nPOOL) - 1) / s.poolData (s.nget tid q nPOOL)) o.pkt.charge 64 (tmChecks tid q o.pkt.colour o.pkt.bytes.length (dfcSettle (s.offered u r))).2).1.toOption = some h) ∧
    (∃ (s : State) (u : Nat) (tid : Nat) (q : Nat) (h : Nat) (o : Offer) (r : List Offer), s.tm.offers = o :: r ∧ s.en pTM = true ∧ s.quiescing pTM = false ∧ o.dests = [(tid, q)] ∧ (tmChecks tid q o.pkt.colour o.pkt.bytes.length (dfcSettle (s.offered u r))).1 = 0 ∧ (alloc (s.nget tid q nPOOL) ((o.pkt.orig.getD o.pkt.bytes.length + s.poolData (s.nget tid q nPOOL) - 1) / s.poolData (s.nget tid q nPOOL)) o.pkt.charge 64 (tmChecks tid q o.pkt.colour o.pkt.bytes.length (dfcSettle (s.offered u r))).2).1.toOption = some h) :=
  ⟨⟨(off z [o1 5, o1 6]), 9, (o1 5), [o1 6], by decide +kernel⟩,
   ⟨(off (tr1.putBit pTM F.PAGE_QUIESCE true) [{ o1 5 with dests := [(0,5),(4,6)] }]), 9, { o1 5 with dests := [(0,5),(4,6)] }, [], by decide +kernel⟩,
   ⟨(off tr1 [o1 7, o1 6]), 9, 0, 7, (o1 7), [o1 6], by decide +kernel⟩,
   ⟨(off tr1 [{ o1 6 with pkt := { pk 66 with colour := 2 } }]), 9, 0, 6, { o1 6 with pkt := { pk 66 with colour := 2 } }, [], by decide +kernel⟩,
   ⟨(off (quo tr1) [o1 5, o1 6]), 9, 0, 5, 1000, (o1 5), [o1 6], by decide +kernel⟩,
   ⟨(off (quo tq) [o1 5, o1 6]), 9, 0, 5, 1000, (o1 5), [o1 6], by decide +kernel⟩⟩

theorem witness_Dequeue :
    (∃ (s : State) (up : Bool) (m : Fin 48) (n : Nat) (u : Nat) (tid : Nat) (q : Nat) (k : Nat) (path : List (Nat × Nat × Nat)) (p : QPkt) (l : List QPkt), treeOf up m.val = n ∧ s.treeServed n = true ∧ backlogged ((s.at u).gated n) n 3 (rootTab n) (rootIdx n) = true ∧ (selectPath n 3 (rootTab n) (rootIdx n) ((s.at u).gated n)).1 = some path ∧ path.getLast? = some (tid, q, k) ∧ (s.tmq tid q).pkts.map (fun x => (x.handle, x.len, x.charged)) = (p :: l).map (fun x => (x.handle, x.len, x.charged))) ∧
    (∃ (s : State) (up : Bool) (m : Fin 48) (n : Nat) (u : Nat) (tid : Nat) (q : Nat) (k : Nat) (path : List (Nat × Nat × Nat)) (p : QPkt) (l : List QPkt), treeOf up m.val = n ∧ s.treeServed n = true ∧ backlogged ((s.at u).gated n) n 3 (rootTab n) (rootIdx n) = true ∧ (selectPath n 3 (rootTab n) (rootIdx n) ((s.at u).gated n)).1 = some path ∧ path.getLast? = some (tid, q, k) ∧ (s.tmq tid q).pkts.map (fun x => (x.handle, x.len, x.charged)) = (p :: l).map (fun x => (x.handle, x.len, x.charged))) ∧
    (∃ (s : State) (up : Bool) (m : Fin 48) (u : Nat), s.treeServed (treeOf up m.val) = false) ∧
    (∃ (s : State) (up : Bool) (m : Fin 48) (u : Nat), s.treeServed (treeOf up m.val) = false) ∧
    (∃ (s : State) (n : Nat) (lv : Nat) (tid : Nat) (i : Nat) (c : Nat) (k : Nat), (selectChild n lv tid i s).1 = some (c, k)) :=
  ⟨⟨tq, false, 3, 3, 9, 0, 5, 1, (pth tq 3), (qp 1050 66), [qp 1051 70], by decide +kernel⟩,
   ⟨tu, true, 2, 50, 9, 4, 6, 1, (pth tu 50), (qp 1050 66), [qp 1051 70], by decide +kernel⟩,
   ⟨z, false, 3, 9, by decide +kernel⟩,
   ⟨(tq.putBit pTM F.PAGE_QUIESCE true), true, 1, 9, by decide +kernel⟩,
   ⟨tq, 3, 2, 3, 3, 7, 1, by decide +kernel⟩⟩

theorem witness_TrafficUpkeep :
    (∃ (s : State) (tid : Nat) (i : Nat), s.Canon ∧ tid < 8 ∧ s.nodeValid tid i = true) ∧
    (∃ (s : State) (tid : Nat) (i : Nat), s.Canon ∧ tid < 8 ∧ s.nodeValid tid i = true) ∧
    (∃ (s : State) (n : Nat) (k : Nat), s.tm.drops = [(n, k)] ∧ n < 64 ∧ s.get pTM F.TM_DROP_CFG_THR < k) ∧
    (∃ (s : State) (n : Nat) (k : Nat), s.tm.drops = [(n, k)] ∧ n < 64 ∧ s.get pTM F.TM_DROP_CFG_THR < k) ∧
    (∃ (s : State), s.tm.drops.all (fun p => decide (p.2 ≤ s.get pTM F.TM_DROP_CFG_THR)) = true) ∧
    (∃ (s : State) (fn : Fn) (q : BitVec 16), Reaches s fn.val (pTM + 0x0C4) (.tm 0) 0 ∧ s.bit pTM F.TM_CMD_STAT_BUSY = false ∧ s.nodeValid 0 q.toNat = true) ∧
    (∃ (s : State) (fn : Fn) (q : BitVec 16), Reaches s fn.val (pTM + 0x0C4) (.tm 0) 0 ∧ s.bit pTM F.TM_CMD_STAT_BUSY = false ∧ s.nodeValid 4 q.toNat = true) ∧
    (∃ (s : State) (fn : Fn) (q : BitVec 16), Reaches s fn.val (pTM + 0x0C4) (.tm 0) 0 ∧ (s.bit pTM F.TM_CMD_STAT_BUSY = true ∨ s.nodeValid 0 q.toNat = false)) :=
  ⟨⟨(cirN tr1), 0, 5, by decide +kernel⟩,
   ⟨tr1, 0, 5, by decide +kernel⟩,
   ⟨{ (tr1.put pTM F.TM_DROP_CFG_THR 4) with tm := { tr1.tm with drops := [(50, 9)] } }, 50, 9, by decide +kernel⟩,
   ⟨{ (tr1.put pTM F.TM_DROP_CFG_THR 4) with tm := { tr1.tm with drops := [(3, 9)] } }, 3, 9, by decide +kernel⟩,
   ⟨{ (tr1.put pTM F.TM_DROP_CFG_THR 9) with tm := { tr1.tm with drops := [(3, 9)] } }, by decide +kernel⟩,
   ⟨tq, 0, 5, by decide +kernel⟩,
   ⟨tu, 0, 6, by decide +kernel⟩,
   ⟨tq, 0, 9, by decide +kernel⟩⟩

end C09

/-! ### Witnesses, chapter 10 -/

namespace C10

abbrev z : State := State.reset
abbrev tz (f : TimeBase → TimeBase) : State := { (z.setTb 1 (f { t := 5000000123 * tbUnit + 7, epoch := 65535, rate := 12345 })) with now := 1000, tbRun := true }
abbrev aq : State := tz id |>.putBit (pgTB 1) F.TE_TB_STAT_ACQ true |>.put (pgTB 1) F.TE_TB_OFS_LO_OFS 0xFFFFFFF0 |>.put (pgTB 1) F.TE_TB_OFS_HI_OFS 0xFFFFFFFF |>.put (pgTB 1) F.TE_TB_SET_SEC_LO_SEC 9
abbrev lv1 (s : State) : State := s.put (pgHX 0) F.HX_LEVEL_CUR 1
abbrev lv2 (s : State) : State := s.put (pgHX 0) F.HX_LEVEL_CUR 2
abbrev zp (l : Nat) : State := { z with pps := sset {} z.pps 1 { last := some l }, now := 100 }
abbrev zf (l : Option Nat) : State := { (z.put pgTE F.TE_FSYNC_CFG_MODE 1) with fsyncLast := l, now := 100 }
abbrev rf : State := (z.putBit pgTE F.TE_REF_STAT_PON_OK true |>.putBit pgTE F.TE_REF_STAT_ETH_OK true |>.putBit pgTE F.TE_REF_STAT_PCIE_OK true).putBit (pgPE 3 0) F.PAGE_EN true |>.putBit (pgLN 100) F.PAGE_EN true

theorem witness_TimeCorrections :
    (∃ (s : State) (fn : Fn) (n : Fin 8) (w : Word) (u : Nat), Reaches s fn.val (pgTB n.val + 0x070) .tb n.val) ∧
    (∃ (s : State) (fn : Fn) (n : Fin 8) (w : Word) (u : Nat), Reaches s fn.val (pgTB n.val + 0x070) .tb n.val) ∧
    (∃ (s : State) (fn : Fn) (n : Fin 8) (w : Word) (u : Nat), Reaches s fn.val (pgTB n.val + 0x070) .tb n.val) ∧
    (∃ (s : State) (fn : Fn) (n : Fin 8) (w : Word) (u : Nat), Reaches s fn.val (pgTB n.val + 0x070) .tb n.val) ∧
    (∃ (s : State) (fn : Fn) (n : Fin 8) (u : Nat), Reaches s fn.val (pgTB n.val + 0x048) .tb n.val) ∧
    (∃ (s : State) (fn : Fn) (n : Fin 8) (w : Word) (u : Nat), Reaches s fn.val (pgTB n.val + 0x040) .tb n.val ∧ ((s.at u).tb n.val).held = none ∧ fld w.toNat 25 24 = 0 ∧ s.bit (pgTB n.val) F.TE_TB_STAT_ACQ = false) ∧
    (∃ (s : State) (fn : Fn) (n : Fin 8) (w : Word) (u : Nat), Reaches s fn.val (pgTB n.val + 0x040) .tb n.val ∧ ((s.at u).tb n.val).held = none ∧ fld w.toNat 25 24 = 0 ∧ s.bit (pgTB n.val) F.TE_TB_STAT_ACQ = true ∧ s.level ≠ 1) ∧
    (∃ (s : State) (fn : Fn) (n : Fin 8) (w : Word) (u : Nat), Reaches s fn.val (pgTB n.val + 0x040) .tb n.val ∧ ((s.at u).tb n.val).held = none ∧ fld w.toNat 25 24 = 0 ∧ s.bit (pgTB n.val) F.TE_TB_STAT_ACQ = true ∧ s.level = 1) ∧
    (∃ (s : State) (fn : Fn) (n : Fin 8) (w : Word) (u : Nat), Reaches s fn.val (pgTB n.val + 0x040) .tb n.val ∧ ((s.at u).tb n.val).held = none ∧ fld w.toNat 25 24 = 0 ∧ s.bit (pgTB n.val) F.TE_TB_STAT_ACQ = true ∧ s.level ≠ 1) ∧
    (∃ (s : State) (fn : Fn) (n : Fin 8) (w : Word) (u : Nat), Reaches s fn.val (pgTB n.val + 0x040) .tb n.val ∧ ((s.at u).tb n.val).held = none ∧ fld w.toNat 25 24 = 0 ∧ s.bit (pgTB n.val) F.TE_TB_STAT_ACQ = true ∧ s.level ≠ 1) ∧
    (∃ (s : State) (fn : Fn) (n : Fin 8) (w : Word) (u : Nat), Reaches s fn.val (pgTB n.val + 0x040) .tb n.val ∧ ((s.at u).tb n.val).held = none ∧ fld w.toNat 25 24 = 1) ∧
    (∃ (s : State) (fn : Fn) (n : Fin 8) (w : Word), Reaches s fn.val (pgTB n.val + 0x040) .tb n.val ∧ fld w.toNat 25 24 ≠ 3) ∧
    (∃ (s : State) (fn : Fn) (n : Fin 8) (w : Word), Reaches s fn.val (pgTB n.val + 0x040) .tb n.val ∧ fld w.toNat 25 24 = 3) ∧
    (∃ (s : State) (n : Fin 8) (h : Held) (u : Nat), ((s.at u).tb n.val).held = some h ∧ h.since + 2 * cyclesPerSec ≤ max s.now u) ∧
    (∃ (s : State) (n : Fin 8) (d : Nat), s.tbRun = true ∧ (s.tb n.val).rem = 0 ∧ 0 < d) :=
  ⟨⟨aq, 0, 1, 77, 2000, by decide +kernel⟩,
   ⟨aq, 0, 1, 0x8000, 2000, by decide +kernel⟩,
   ⟨{ aq with staged := [(pgTB 1 + 0x06C, some 99)] }, 0, 1, 0, 2000, by decide +kernel⟩,
   ⟨{ (aq.setReg (pgTB 1 + 0x06C) 5) with staged := [(pgTB 1 + 0x06C, some 0)] }, 0, 1, 0, 2000, by decide +kernel⟩,
   ⟨aq, 0, 1, 2000, by decide +kernel⟩,
   ⟨((aq.putBit (pgTB 1) F.TE_TB_STAT_ACQ false)), 0, 1, 0, 2000, by decide +kernel⟩,
   ⟨(lv2 aq), 0, 1, 0, 2000, by decide +kernel⟩,
   ⟨(lv1 aq), 0, 1, 0, 2000, by decide +kernel⟩,
   ⟨(lv2 aq), 0, 1, 0, 2000, by decide +kernel⟩,
   ⟨((lv2 aq).putBit (pgTB 1) (F.TE_TB_TRIG_CTL_ARM.ix 1) true), 0, 1, 0, 2000, by decide +kernel⟩,
   ⟨aq, 0, 1, 0x01000000, 2000, by decide +kernel⟩,
   ⟨(aq.setTb 1 { aq.tb 1 with held := some { op := 1, input := 1, value := 4, since := 5 } }), 0, 1, 0, by decide +kernel⟩,
   ⟨(aq.setTb 1 { aq.tb 1 with held := some { op := 1, input := 1, value := 4, since := 5 } } |>.putBit (pgTB 1) F.TE_TB_STAT_PEND true), 0, 1, 0x03000000, by decide +kernel⟩,
   ⟨(aq.setTb 1 { aq.tb 1 with held := some { op := 1, input := 1, value := 4, since := 5 } }), 1, { op := 1, input := 1, value := 4, since := 5 }, 9000000000, by decide +kernel⟩,
   ⟨aq, 1, 77, by decide +kernel⟩⟩

theorem witness_TimeEvents :
    (∃ (s : State) (fn : Fn) (n : Fin 8) (k : Fin 3) (w : Word) (u : Nat), k.val < 2 ∧ Reaches s fn.val (pgTB n.val + 0x09C + 8 * k.val) .tb n.val) ∧
    (∃ (s : State) (fn : Fn) (n : Fin 8) (k : Fin 3) (w : Word) (u : Nat), k.val < 2 ∧ Reaches s fn.val (pgTB n.val + 0x09C + 8 * k.val) .tb n.val) ∧
    (∃ (s : State) (n : Fin 8) (k : Fin 2) (u : Nat), s.bit (pgTB n.val) (F.TE_TB_TRIG_CTL_ARM.ix k.val) = true ∧ (s.at u).trigReached n.val k.val = true) ∧
    (∃ (s : State) (n : Fin 8) (u : Nat), s.bit (pgTB n.val) F.TE_TB_ALM_CTL_ARM = true ∧ s.alarmNs n.val ≤ (s.at u).tNs n.val) ∧
    (∃ (s : State) (k : Fin 2) (b : Bool) (u : Nat), (sget {} s.pps k.val).last = none ∧ (b = false ∨ s.bit pgTE (F.TE_PPSI_CFG_POL_AUTO.ix k.val) = false ∨ (sget {} s.pps k.val).run + 1 < 3) ∧ ((∀ n, n < 8 → ((s.at u).tb n).held = none ∧ s.bit (pgTB n) F.TE_TB_REF_CFG_EN = false))) ∧
    (∃ (s : State) (k : Fin 2) (b : Bool) (u : Nat), (sget {} s.pps k.val).last = none ∧ (b = false ∨ s.bit pgTE (F.TE_PPSI_CFG_POL_AUTO.ix k.val) = false ∨ (sget {} s.pps k.val).run + 1 < 3) ∧ ((∀ n, n < 8 → ((s.at u).tb n).held = none ∧ s.bit (pgTB n) F.TE_TB_REF_CFG_EN = false))) ∧
    (∃ (s : State) (k : Fin 2) (u : Nat), s.bit pgTE (F.TE_PPSI_CFG_POL_AUTO.ix k.val) = true ∧ s.bit pgTE (F.TE_PPSI_CFG_INV.ix k.val) = false ∧ 2 ≤ (sget {} s.pps k.val).run) ∧
    (∃ (s : State) (k : Fin 2) (u : Nat) (l : Nat), (sget {} s.pps k.val).last = some l ∧ (max s.now u < l + 999 * cyclesMs ∨ l + 1001 * cyclesMs < max s.now u)) ∧
    (∃ (s : State) (k : Fin 2) (u : Nat) (l : Nat), (sget {} s.pps k.val).last = some l ∧ l + 1500 * cyclesMs ≤ max s.now u) ∧
    (∃ (s : State) (u : Nat), s.get pgTE F.TE_FSYNC_CFG_MODE ≠ 0 ∧ s.fsyncLast = none) ∧
    (∃ (s : State) (u : Nat) (l : Nat), s.get pgTE F.TE_FSYNC_CFG_MODE ≠ 0 ∧ s.fsyncLast = some l ∧ (max s.now u + 2488 < l + s.fsyncPeriod ∨ l + s.fsyncPeriod + 2488 < max s.now u)) ∧
    (∃ (s : State) (u : Nat) (l : Nat), s.get pgTE F.TE_FSYNC_CFG_MODE ≠ 0 ∧ s.fsyncLast = some l ∧ 2 * l + 3 * s.fsyncPeriod ≤ 2 * max s.now u) ∧
    (∃ (s : State) (m : Fin 2) (u : Nat), s.bit pgTE (F.TE_PPSO_CFG_EN.ix m.val) = true ∧ ((s.at u).tb (s.get pgTE (F.TE_PPSO_CFG_TB.ix m.val))).rem = 0 ∧ ((((s.at u).tb (s.get pgTE (F.TE_PPSO_CFG_TB.ix m.val))).t : Int) + ppsLat - s.getI pgTE (F.TE_PPSO_OFS_OFS.ix m.val) * tbUnit) % (1000000000 * tbUnit : Nat) < tbCycle ((s.at u).tb (s.get pgTE (F.TE_PPSO_CFG_TB.ix m.val))).rate ∧ ((s.at u).tb (s.get pgTE (F.TE_PPSO_CFG_TB.ix m.val))).t + tbCycle ((s.at u).tb (s.get pgTE (F.TE_PPSO_CFG_TB.ix m.val))).rate < tbSpan) ∧
    (∃ (s : State) (m : Fin 2) (u : Nat), s.bit pgTE (F.TE_PPSO_CFG_EN.ix m.val) = true ∧ ((s.at u).tb (s.get pgTE (F.TE_PPSO_CFG_TB.ix m.val))).rem = 0 ∧ ((((s.at u).tb (s.get pgTE (F.TE_PPSO_CFG_TB.ix m.val))).t : Int) + ppsLat - s.getI pgTE (F.TE_PPSO_OFS_OFS.ix m.val) * tbUnit) % (1000000000 * tbUnit : Nat) < tbCycle ((s.at u).tb (s.get pgTE (F.TE_PPSO_CFG_TB.ix m.val))).rate ∧ ((s.at u).tb (s.get pgTE (F.TE_PPSO_CFG_TB.ix m.val))).t + tbCycle ((s.at u).tb (s.get pgTE (F.TE_PPSO_CFG_TB.ix m.val))).rate < tbSpan) ∧
    (∃ (s : State) (fn : Fn) (w : Word), Reaches s fn.val (pgTE + 0x0F0) .te 0) :=
  ⟨⟨aq, 0, 1, 1, 0, 2000, by decide +kernel⟩,
   ⟨(aq.put (pgTB 1) (F.TE_TB_TRIG_TIME.ix 1) ((aq.tNs 1 + 5000) % 2^32)), 0, 1, 1, 0, 2000, by decide +kernel⟩,
   ⟨(aq.putBit (pgTB 1) (F.TE_TB_TRIG_CTL_ARM.ix 1) true |>.put (pgTB 1) (F.TE_TB_TRIG_TIME.ix 1) (aq.tNs 1 % 2^32)), 1, 1, 2000, by decide +kernel⟩,
   ⟨(aq.putBit (pgTB 1) F.TE_TB_ALM_CTL_ARM true), 1, 2000, by decide +kernel⟩,
   ⟨z, 1, false, 50, by decide +kernel⟩,
   ⟨z, 0, true, 50, by decide +kernel⟩,
   ⟨{ (z.putBit pgTE (F.TE_PPSI_CFG_POL_AUTO.ix 1) true) with pps := sset {} z.pps 1 { run := 2, last := some 5 } }, 1, 90, by decide +kernel⟩,
   ⟨(zp 5), 1, 90, 5, by decide +kernel⟩,
   ⟨(zp 5), 1, 9000000000, 5, by decide +kernel⟩,
   ⟨(zf none), 9, by decide +kernel⟩,
   ⟨(zf (some 5)), 900, 5, by decide +kernel⟩,
   ⟨(zf (some 5)), 9000000, 5, by decide +kernel⟩,
   ⟨(z.putBit pgTE (F.TE_PPSO_CFG_EN.ix 1) true |>.put pgTE (F.TE_PPSO_CFG_WIDTH.ix 1) 7 |>.setTb 0 { t := 1000000000 * tbUnit - ppsLat.toNat }), 1, 0, by decide +kernel⟩,
   ⟨{ (z.putBit pgTE (F.TE_PPSO_CFG_EN.ix 0) true |>.setTb 0 { t := 1000000000 * tbUnit - ppsLat.toNat }) with now := 3 }, 0, 0, by decide +kernel⟩,
   ⟨(z.put pgTE F.TE_1STEP_SKIP_COUNT 9), 0, 0, by decide +kernel⟩⟩

theorem witness_References :
    (∃ (s : State), s.refOk 0 = true) ∧
    (∃ (s : State), s.refOk 1 = true) ∧
    (∃ (s : State), s.refOk 2 = true) ∧
    (∃ (s : State) (r : Fin 3), r ≠ 1) ∧
    (∃ (s : State) (r : Fin 3), r ≠ 1) ∧
    (∃ (s : State), (s.get pgPW F.PW_WAKE_STATUS_REF_FB).testBit 1 = false) ∧
    (∃ (s : State) (fn : Fn) (w : Word), Reaches s fn.val (pgTE + 0x0C0) .te 0 ∧ s.refOk 0 = true) ∧
    (∃ (s : State) (fn : Fn) (w : Word), Reaches s fn.val (pgTE + 0x0C0) .te 0 ∧ s.refOk 0 = false) ∧
    (∃ (s : State) (fn : Fn) (w : Word), Reaches s fn.val (pgPW + 0x070) .pw 0 ∧ w.toNat.testBit 0 = true ∧ s.refOk 0 = true) :=
  ⟨⟨(rf.modPe 3 (fun p => { p with running := true })), by decide +kernel⟩,
   ⟨rf, by decide +kernel⟩,
   ⟨rf, by decide +kernel⟩,
   ⟨z, 0, by decide +kernel⟩,
   ⟨z, 2, by decide +kernel⟩,
   ⟨{ rf with refAbsent := 2 }, by decide +kernel⟩,
   ⟨(rf.put pgPW F.PW_WAKE_STATUS_REF_FB 1), 0, 0, by decide +kernel⟩,
   ⟨z, 0, 0, by decide +kernel⟩,
   ⟨(rf.put pgPW F.PW_WAKE_STATUS_REF_FB 3), 0, 3, by decide +kernel⟩⟩

end C10

/-! ### Witnesses, chapter 11 -/

namespace C11

abbrev z : State := State.reset
def pg : Nat := pgGL 3
abbrev g0 : State := ((((((z.putBit (pgTB 1) F.TE_TB_STAT_ACQ true).put pg F.GT_CTRL_TB 1).put pg F.GT_ADMIN_CYCLE_CYCLE 2000).put pg F.GT_ADMIN_LEN_LEN 1).put pg F.GT_CFG_SETUP 2).putBit pg F.GT_CTRL_EN true |>.setEnt pg 0 0 (eput (eput 0 glGATES 0x0F) glDUR 16)).setTb 1 { t := 5000000123 * tbUnit + 7, epoch := 65535 }
abbrev g1 : State := g0.putBit (pgGT 0) F.PAGE_EN true |>.put pg F.GT_ADMIN_BASE_SEC_LO_SEC 6
abbrev g2 : State := (g1.putBit pg F.GT_STATUS_PEND true).setGlist 3 { g1.glist 3 with pend := some 5000000100 }
abbrev g3 : State := (g1.putBit pg F.GT_STATUS_COPY true)

def nd (tid i par prio : Nat) (s : State) : State := s.setNode tid i (eput (eput (eput (eput (eput 0 nVALID 1) nEN 1) nPARENT par) nPRIO prio) nWEIGHT 1)
def en (a : Nat) (s : State) : State := s.putBit a F.PAGE_EN true
def tm0 : State := (en pTM z).putBit (pgPE 3 0) F.PAGE_EN true |>.modPe 3 (fun p => { p with running := true })
def tr0 : State := nd 3 3 0 0 (nd 2 7 3 0 (nd 1 9 7 0 (nd 0 5 9 0 (nd 0 6 9 1 (nd 0 65535 9 2 tm0)))))
def bp0 (s : State) : State := let z := s; { (z.put pgBP (F.BP_POOL_CFG_COUNT.ix 1) 100 |>.put pgBP (F.BP_POOL_BASE_BASE.ix 1) 1000 |>.putBit pgBP (F.BP_POOL_CFG_EN.ix 1) true |>.put pgBP (F.BP_POOL_STAT_FREE.ix 1) 100 |>.putBit pgBP F.PAGE_EN true) with bp := { z.bp with pools := sset {} z.bp.pools 1 { cache := [1000, 1001], top := 1002 } } }
def quo (s : State) : State := s.setEnt pgBP 0 (128+5) (eput 0 qQUOTA 9)
def pk (n : Nat) : Pkt := { bytes := List.replicate n 0x55, charge := 5 }
def off (s : State) (o : List Offer) : State := { s with tm := { s.tm with offers := o } }
def qp (h l : Nat) : QPkt := { handle := h, len := l, charged := (l + 3) / 4 * 4 }
def o1 (q : Nat) : Offer := { pkt := pk 66, dests := [(0, q)] }
def tr1 : State := ((bp0 tr0).setNode 0 5 (eput ((bp0 tr0).node 0 5) nPOOL 1)).setEnt pTM 8 0 (eput (eput 0 (dpTAIL 0) 100) (dpTAIL 1) 100)
def tq : State := (tr1.setTmq 0 5 { pkts := [qp 1050 66, qp 1051 70] }).setHdr 1050 (headHdr 1 64 5 1 0 1 nilH) |>.setHdr 1051 (headHdr 1 64 5 1 0 1 nilH) |>.setNode 0 5 (eput (tr1.node 0 5) nDEPTH 140)
def tr6 : State := nd 7 2 0 0 (nd 6 7 2 0 (nd 5 9 7 0 (nd 4 5 9 0 (nd 4 6 9 1 (bp0 (((en pgUL (en pTM z)).putBit pgUL (F.UL_GRP_EN.ix 2) true).putBit pgUL (F.UL_GRP_UP.ix 2) true))))))
def tu : State := (tr6.setTmq 4 6 { pkts := [qp 1050 66, qp 1051 70] }).setHdr 1050 (headHdr 1 64 5 1 0 1 nilH) |>.setHdr 1051 (headHdr 1 64 5 1 0 1 nilH)
def pth (s : State) (n : Nat) : List (Nat × Nat × Nat) := ((selectPath n 3 (rootTab n) (rootIdx n) ((s.at 9).gated n)).1).getD []
def cirN (s : State) : State := (s.setNode 0 5 (ewPut (ewPut (ewPut (ewPut (s.node 0 5) 1 5000) 2 64) 3 7000) 4 70))
def glo (n q : Nat) : State := ((((tr1.put (pgGL 3) F.GT_CTRL_TB 1).putBit (pgGT 0) F.PAGE_EN true |>.putBit (pgGL 3) F.GT_CTRL_EN true |>.putBit (pgGL 3) F.GT_STATUS_OPER true |>.put (pgGL 3) F.GT_OPER_CYCLE_CYCLE 2000).put (pgGL 3) F.GT_OPER_LEN_LEN 1).setTb 1 { t := 5000000123 * tbUnit + 7, epoch := 65535 }).setTmq 0 5 { pkts := [{ qp 1050 n with oversize := some q }, qp 1051 3] } |>.setHdr 1050 (headHdr 1 64 5 1 0 1 nilH) |>.put (pgGL 3) F.GT_CFG_HOLD_LIMIT 2 |>.put (pgGL 3) (F.GT_MAXWIN_NS.ix 0) 1000

theorem witness_GatesAndLatency :
    (∃ (s : State) (fn : Fn) (n : Fin 64) (w : Word) (u : Nat), Reaches s fn.val (pgGL n.val + 0x0C0) (.gt (n.val + 2)) 0 ∧ w.toNat.testBit 29 = false ∧ w.toNat.testBit 31 = true ∧ ((s.at u).storeFields (.gt (n.val + 2)) 0 fn.val (pgGL n.val + 0x0C0) (w ||| maskBit 30).toNat).1.submitBad n.val = false ∧ s.quiescing (pgGT 0) = false) ∧
    (∃ (s : State) (fn : Fn) (n : Fin 64) (w : Word) (u : Nat), Reaches s fn.val (pgGL n.val + 0x0C0) (.gt (n.val + 2)) 0 ∧ w.toNat.testBit 29 = false ∧ w.toNat.testBit 31 = true ∧ ((s.at u).storeFields (.gt (n.val + 2)) 0 fn.val (pgGL n.val + 0x0C0) (w ||| maskBit 30).toNat).1.submitBad n.val = false ∧ s.quiescing (pgGT 0) = false) ∧
    (∃ (s : State) (fn : Fn) (n : Fin 64) (w : Word) (u : Nat), Reaches s fn.val (pgGL n.val + 0x0C0) (.gt (n.val + 2)) 0 ∧ w.toNat.testBit 29 = false ∧ w.toNat.testBit 31 = true ∧ (((s.at u).storeFields (.gt (n.val + 2)) 0 fn.val (pgGL n.val + 0x0C0) (w ||| maskBit 30).toNat).1.submitBad n.val = true ∨ s.quiescing (pgGT 0) = true)) ∧
    (∃ (s : State) (fn : Fn) (n : Fin 64) (w : Word) (u : Nat), Reaches s fn.val (pgGL n.val + 0x0C0) (.gt (n.val + 2)) 0 ∧ w.toNat.testBit 29 = false ∧ w.toNat.testBit 31 = true ∧ (((s.at u).storeFields (.gt (n.val + 2)) 0 fn.val (pgGL n.val + 0x0C0) (w ||| maskBit 30).toNat).1.submitBad n.val = true ∨ s.quiescing (pgGT 0) = true)) ∧
    (∃ (s : State) (fn : Fn) (n : Fin 64) (w : Word) (u : Nat), Reaches s fn.val (pgGL n.val + 0x0C0) (.gt (n.val + 2)) 0) ∧
    (∃ (s : State) (fn : Fn) (n : Fin 64) (w : Word) (u : Nat), Reaches s fn.val (pgGL n.val + 0x0C0) (.gt (n.val + 2)) 0 ∧ s.bit (pgGL n.val) F.GT_CTRL_EN = true ∧ ((s.at u).storeFields (.gt (n.val + 2)) 0 fn.val (pgGL n.val + 0x0C0) (w &&& 0x3FFFFFFF).toNat).1.bit (pgGL n.val) F.GT_CTRL_EN = false) ∧
    (∃ (s : State) (n : Fin 64) (u : Nat) (st : Nat), (s.glist n.val).pend = some st ∧ s.bit (pgGL n.val) F.GT_STATUS_PEND = true ∧ st * tbUnit ≤ (s.at u).glT n.val) ∧
    (∃ (s : State) (n : Fin 64), s.bit (pgGL n.val) F.GT_STATUS_COPY = true) ∧
    (∃ (s : State) (n : Fin 64) (q : Nat) (u : Nat) (a : Nat) (p : QPkt) (r : List QPkt), s.nodeValid (if n.val < 48 then 0 else 4) q = true ∧ s.rootOf (if n.val < 48 then 0 else 4) q = (if n.val < 48 then n.val else n.val - 48) ∧ (s.tmq (if n.val < 48 then 0 else 4) q).pkts = p :: r ∧ p.oversize = some a ∧ (s.at u).isOversize n.val (if n.val < 48 then 0 else 4) q p = true ∧ s.get (pgGL n.val) F.GT_CFG_HOLD_LIMIT + a ≤ (s.at u).glStarts n.val) ∧
    (∃ (s : State) (fn : Fn) (w : Word), Reaches s fn.val (pLAT + 0x0C0) (.tm 2) 0) :=
  ⟨⟨g0, 0, 3, 0x80010001, 9, by decide +kernel⟩,
   ⟨g1, 0, 3, 0x80010001, 9, by decide +kernel⟩,
   ⟨g2, 0, 3, 0x80010001, 9, by decide +kernel⟩,
   ⟨(g1.putBit (pgGT 0) F.PAGE_QUIESCE true), 0, 3, 0x80010001, 9, by decide +kernel⟩,
   ⟨g2, 0, 3, 0x80010001, 9, by decide +kernel⟩,
   ⟨g2, 0, 3, 0x80010000, 9, by decide +kernel⟩,
   ⟨g2, 3, 9, 5000000100, by decide +kernel⟩,
   ⟨g3, 3, by decide +kernel⟩,
   ⟨(glo 99999 0), 3, 5, 9, 0, { qp 1050 99999 with oversize := some 0 }, [qp 1051 3], by decide +kernel⟩,
   ⟨(z.put pLAT F.EPOCH_SKIP_COUNT 9), 0, 0, by decide +kernel⟩⟩

end C11

/-! ### Witnesses, chapter 12 -/

namespace C12

abbrev z : State := State.reset
def en (a : Nat) (s : State) : State := s.putBit a F.PAGE_EN true
def lk : State := ((en pLK z).putBit pLK F.ST_READY true).put pLK F.LK_HP_CFG_HOLD 1
def lkx (f : Lk → Lk) : State := { lk with lk := f lk.lk }
def q (x : LkIn) : State := { lk with lookups := [{ src := 1, bytes := [] }, x, { src := 63, bytes := [] }], lk := { lk.lk with turn := 50, credit := 2 } }
def dd (da : Nat) : List Byte := beBytes 6 da ++ beBytes 6 0x1122 ++ beBytes 2 0x9000 ++ List.replicate 50 7
def x0 : LkIn := { src := 50, bytes := dd 0xAABB, stamps := [] }
def e4 : Entry := eput (eput 0 eUSED 1) rFMODE 4
def ctiS : State := (((q { src := 50, bytes := beBytes 12 5 ++ beBytes 2 0x9000 }).putE pLK 7 50 ⟨0, 30, 30⟩ 1).putBit pLK F.LK_CTI_CFG_ETH_EN true).put pLK F.LK_CTI_CFG_ETYPE 0x9000
def prof (e : Entry) (s : State) : State := s.setEnt pLK 6 3 e |>.putE pLK 7 50 ⟨0, 3, 0⟩ 3
def direct (d : Nat) : Entry := ewPut (eput (eput 0 rFMODE 2) rCOLOUR 1) 8 (2 ^ 30 + d)
def brg : Entry := eput (eput 0 rBD 9) rQOFS 3
def bdS (s : State) : State := s.setEnt pLK 3 9 (ewPut 0 1 (2 * 2 ^ 30 + 4092))
def lrn : State := (((q x0).putBit pLK F.LK_LEARN_CFG_EN true).setEnt pLK 3 9 (eput 0 bLRN 1)).putE pLK 7 50 ⟨0, 31, 31⟩ 1
def ldr : Entry := ewPut brg 9 (2 ^ 30 + 77)
def l2e (st : Nat) : Entry := eput (eput (ewPut (l2Key 9 0x1122) 2 (2 ^ 30 + 5)) lSTATIC st) eUSED 1
def lq (k : Nat) : State := { lrn with lk := { lrn.lk with learns := [((l2Key 9 0x1122).toNat, 2^30+5, 50), (k, 1, 2)] } }
def ipp (ttl : Nat) : List Byte := dd 5 |>.take 12 |> (· ++ beBytes 2 0x0800 ++ beBytes 8 (0x45 * 2^56) ++ beBytes 1 ttl ++ beBytes 7 0 ++ beBytes 4 0x0A010203 ++ List.replicate 40 1)
def rt : State := ((z.setEnt pLK 2 5 (eput (eput (eput (ewPut 0 0 0x0A010000) ⟨4, 23, 16⟩ 16) ⟨5, 15, 0⟩ 3) eUSED 1)).setEnt pLK 4 3 (eput (ewPut 0 0 0x1122) ⟨1, 29, 16⟩ 9)).setEnt pLK 1 5 (l2e 0)
def lrnE : State := { z with lk := { z.lk with learns := [((l2Key 9 0x1122).toNat, 2^30+5, 50), (3, 1, 2)] } }
theorem free_of_empty (s : State) (h : s.tabs = []) (i : Nat) (hi : i < 131072) : s.lkTaken 1 i = false := by
  have hk : tkey pLK 1 i = 32769 * 2 ^ 24 + i := rfl
  have h1 : (32769 * 2 ^ 24 + i) / 2 ^ 28 = 2048 := by omega
  have h2 : (32769 * 2 ^ 24 + i) / 2 ^ 24 % 16 = 1 := by omega
  have he : entReset (32769 * 2 ^ 24 + i) = 0 := by unfold entReset; rw [h1, h2]; rfl
  unfold State.lkTaken State.getE State.ent
  rw [h, hk, he]
  show (eget (0 : Entry) eUSED == 1) = false
  decide +kernel

theorem witness_HashedTables :
    (∃ (s : State) (i : Fin 3) (u : Nat), 1 ≤ sget 0 s.lk.cond i.val ∧ sget 0 s.lk.cond i.val - 1 + s.get pLK F.LK_HP_CFG_HOLD * cyclesPerSec ≤ (s.at u).now) ∧
    (∃ (s : State) (i : Fin 3) (u : Nat), sget 0 s.lk.cond i.val = 0 ∨ (s.at u).now < sget 0 s.lk.cond i.val - 1 + s.get pLK F.LK_HP_CFG_HOLD * cyclesPerSec) ∧
    (∃ (s : State) (i : Fin 3) (u : Nat), sget 0 s.lk.cond i.val = 0 ∨ (s.at u).now < sget 0 s.lk.cond i.val - 1 + s.get pLK F.LK_HP_CFG_HOLD * cyclesPerSec) ∧
    (∃ (s : State) (fn : Fn) (w : Word) (u : Nat) (i : Nat), Reaches s fn.val (pLK + 0x0D8) (.lk 0) 0 ∧ i = fld w.toNat 29 28 ∧ i < 3 ∧ (s.at u).reseedOk i = true ∧ s.sc.rngBad = false) ∧
    (∃ (s : State) (fn : Fn) (w : Word) (u : Nat) (i : Nat), Reaches s fn.val (pLK + 0x0D8) (.lk 0) 0 ∧ i = fld w.toNat 29 28 ∧ i < 3 ∧ (s.at u).reseedOk i = true ∧ s.sc.rngBad = true) ∧
    (∃ (s : State) (fn : Fn) (w : Word) (u : Nat), Reaches s fn.val (pLK + 0x0D8) (.lk 0) 0 ∧ (fld w.toNat 29 28 = 3 ∨ (s.at u).reseedOk (fld w.toNat 29 28) = false)) ∧
    (∃ (s : State) (fn : Fn) (w : Word) (u : Nat), Reaches s fn.val (pLK + 0x0D8) (.lk 0) 0 ∧ (fld w.toNat 29 28 = 3 ∨ (s.at u).reseedOk (fld w.toNat 29 28) = false)) ∧
    (∃ (s : State) (i : Fin 3) (u : Nat), s.bit pLK (F.LK_HP_STAT_PRESS.ix i.val) = true ∧ s.bit pLK F.LK_HP_CFG_AUTO = true ∧ (s.at u).reseedOk i.val = true ∧ s.sc.rngBad = false) ∧
    (∃ (s : State) (i : Fin 3) (u : Nat), (s.bit pLK (F.LK_HP_STAT_PRESS.ix i.val) = false ∨ s.bit pLK F.LK_HP_CFG_AUTO = false ∨ (s.at u).reseedOk i.val = false)) ∧
    (∃ (s : State) (u : Nat) (i : Nat) (g : Nat), i < 3 ∧ s.bit pLK F.LK_RSD_JRNL_ACTIVE = true ∧ i = s.get pLK F.LK_RSD_JRNL_TID ∧ g = s.get pLK F.LK_RSD_JRNL_GEN) ∧
    (∃ (s : State) (u : Nat), s.bit pLK F.LK_RSD_JRNL_ACTIVE = false) ∧
    (∃ (s : State) (fn : Fn) (w : Word), Reaches s fn.val (pLK + 0x0E0) (.lk 0) 0 ∧ s.bit pLK F.LK_PFX_CTRL_BUSY = false) ∧
    (∃ (s : State) (fn : Fn) (w : Word), Reaches s fn.val (pLK + 0x0E0) (.lk 0) 0 ∧ s.bit pLK F.LK_PFX_CTRL_BUSY = true) ∧
    (∃ (s : State), s.bit pLK F.LK_PFX_CTRL_BUSY = true) ∧
    (∃ (s : State), s.bit pLK F.LK_PFX_CTRL_BUSY = false) :=
  ⟨⟨(lkx (fun l => { l with cond := sset 0 [] 1 1 })), 1, (cyclesPerSec), by decide +kernel⟩,
   ⟨lk, 1, 99, by decide +kernel⟩,
   ⟨(lkx (fun l => { l with cond := sset 0 [] 1 2 })), 1, (cyclesPerSec), by decide +kernel⟩,
   ⟨lk, 0, 0x10000000, 9, 1, by decide +kernel⟩,
   ⟨{ lk with sc := { lk.sc with rngBad := true } }, 0, 0x10000000, 9, 1, by decide +kernel⟩,
   ⟨lk, 0, 0x30000000, 9, by decide +kernel⟩,
   ⟨((lkx (fun l => { l with gap := sset 0 [] 1 1 })).put pLK F.LK_HP_CFG_MIN_GAP 5), 0, 0x10000000, 9, by decide +kernel⟩,
   ⟨((lk.putBit pLK (F.LK_HP_STAT_PRESS.ix 2) true).putBit pLK F.LK_HP_CFG_AUTO true), 2, 7, by decide +kernel⟩,
   ⟨lk, 2, 7, by decide +kernel⟩,
   ⟨((((lk.putBit pLK F.LK_RSD_JRNL_ACTIVE true).put pLK F.LK_RSD_JRNL_TID 1).put pLK F.LK_RSD_JRNL_GEN 1).setEnt pLK 1 5 (l2e 0)), 77, 1, 1, by decide +kernel⟩,
   ⟨lk, 7, by decide +kernel⟩,
   ⟨(lk.setEnt pLK 2 5 (eput (eput (ewPut 0 0 0x0A010000) ⟨4, 23, 16⟩ 24) eUSED 1)), 0, 0, by decide +kernel⟩,
   ⟨(lk.putBit pLK F.LK_PFX_CTRL_BUSY true), 0, 0, by decide +kernel⟩,
   ⟨((lkx (fun l => { l with shadow := sset 0 [] 1 2 })).putBit pLK F.LK_PFX_CTRL_BUSY true |>.put pLK F.LK_PFX_CTRL_REBUILDS 65535), by decide +kernel⟩,
   ⟨lk, by decide +kernel⟩⟩

theorem witness_Forwarding :
    (∃ (s : State) (m : CtiMsg) (u : Nat), (∃ y ∈ s.lookups, y.src < 64)) ∧
    (∃ (s : State) (m : CtiMsg) (u : Nat), (∃ y ∈ s.lookups, y.src < 64)) ∧
    (∃ (s : State) (m : CtiMsg) (u : Nat), (∃ y ∈ s.lookups, y.src < 64)) ∧
    (∃ (s : State) (m : CtiMsg) (u : Nat) (x : LkIn) (l : List LkIn) (r : List LkIn), s.lookups = l ++ x :: r ∧ ((∀ y ∈ l, y.src ≠ x.src)) ∧ s.lkTurn.1 = x.src ∧ (s.en pLK = false ∨ s.bit pLK F.ST_READY = false)) ∧
    (∃ (s : State) (u : Nat) (x : LkIn) (l : List LkIn) (r : List LkIn), s.lookups = l ++ x :: r ∧ ((∀ y ∈ l, y.src ≠ x.src)) ∧ s.lkTurn.1 = x.src ∧ s.en pLK = true ∧ s.bit pLK F.ST_READY = true ∧ s.isCti x.src x.bytes = true) ∧
    (∃ (s : State) (m : CtiMsg) (u : Nat) (n : Nat) (i : Nat) (x : LkIn) (l : List LkIn) (r : List LkIn) (e : Entry), s.lookups = l ++ x :: r ∧ ((∀ y ∈ l, y.src ≠ x.src)) ∧ s.lkTurn.1 = x.src ∧ s.en pLK = true ∧ s.bit pLK F.ST_READY = true ∧ s.isCti x.src x.bytes = false ∧ n = s.getE pLK 7 x.src ⟨0, 3, 0⟩ ∧ s.lkFind 0 (clsKey n (packKey (s.getE pLK 6 n ⟨0, 14, 0⟩) 0 (keyFields x.src x.xgem x.bytes))) = some (i, e) ∧ eget e rFMODE = 4 ∧ eget e rSTREAM = 0) ∧
    (∃ (s : State) (m : CtiMsg) (u : Nat) (n : Nat) (q : Nat) (x : LkIn) (l : List LkIn) (r : List LkIn), s.lookups = l ++ x :: r ∧ ((∀ y ∈ l, y.src ≠ x.src)) ∧ s.lkTurn.1 = x.src ∧ s.en pLK = true ∧ s.bit pLK F.ST_READY = true ∧ s.isCti x.src x.bytes = false ∧ n = s.getE pLK 7 x.src ⟨0, 3, 0⟩ ∧ s.lkFind 0 (clsKey n (packKey (s.getE pLK 6 n ⟨0, 14, 0⟩) 0 (keyFields x.src x.xgem x.bytes))) = none ∧ eget (s.ent pLK 6 n) rFMODE = 2 ∧ eget (s.ent pLK 6 n) rSTREAM = 0 ∧ eget (s.ent pLK 6 n) rPOLEN = 0 ∧ eget (s.ent pLK 6 n) rOS = 0 ∧ eget (s.ent pLK 6 n) rTAGACT = 0 ∧ s.get pgPX F.PX_STATE_STATE ≠ 3 ∧ s.mayLearn x.src (eget (s.ent pLK 6 n) rBD) = false ∧ s.lkFind 1 (l2Key (eget (s.ent pLK 6 n) rBD) (fieldZ x.bytes 6 6)) = none ∧ destPair (ew (s.ent pLK 6 n) 8) = (1, q)) ∧
    (∃ (s : State) (m : CtiMsg) (u : Nat) (n : Nat) (q : Nat) (x : LkIn) (l : List LkIn) (r : List LkIn) (b : Nat), s.lookups = l ++ x :: r ∧ ((∀ y ∈ l, y.src ≠ x.src)) ∧ s.lkTurn.1 = x.src ∧ s.en pLK = true ∧ s.bit pLK F.ST_READY = true ∧ s.isCti x.src x.bytes = false ∧ n = s.getE pLK 7 x.src ⟨0, 3, 0⟩ ∧ s.lkFind 0 (clsKey n (packKey (s.getE pLK 6 n ⟨0, 14, 0⟩) 0 (keyFields x.src x.xgem x.bytes))) = none ∧ eget (s.ent pLK 6 n) rFMODE = 0 ∧ eget (s.ent pLK 6 n) rSTREAM = 0 ∧ eget (s.ent pLK 6 n) rPOLEN = 0 ∧ eget (s.ent pLK 6 n) rOS = 0 ∧ eget (s.ent pLK 6 n) rTAGACT = 0 ∧ s.get pgPX F.PX_STATE_STATE ≠ 3 ∧ s.mayLearn x.src (eget (s.ent pLK 6 n) rBD) = false ∧ b = eget (s.ent pLK 6 n) rBD ∧ s.lkFind 1 (l2Key b (fieldZ x.bytes 6 6)) = none ∧ s.lkFind 1 (l2Key b (fieldZ x.bytes 0 6)) = none ∧ (fieldZ x.bytes 0 6 / 2 ^ 40).testBit 0 = false ∧ destPair (ew (s.bd b) 1) = (2, q) ∧ q + eget (s.ent pLK 6 n) rQOFS ≤ 4095 ∧ (2, q) ≠ rLDEST (s.ent pLK 6 n)) ∧
    (∃ (s : State) (res : Entry) (d : List Byte), (parse d).ip4 = true ∧ fieldZ d ((parse d).l3 + 8) 1 ≤ 1) ∧
    (∃ (s : State) (res : Entry) (d : List Byte), (parse d).ip4 = true ∧ 2 ≤ fieldZ d ((parse d).l3 + 8) 1 ∧ s.lpm (eget (s.bd (eget res rBD)) bVRF) 0 (fieldZ d ((parse d).l3 + 16) 4) = none) ∧
    (∃ (s : State) (res : Entry) (x : Entry) (d : List Byte) (nh : Nat) (i : Nat) (q : Nat), (parse d).ip4 = true ∧ 2 ≤ fieldZ d ((parse d).l3 + 8) 1 ∧ s.lpm (eget (s.bd (eget res rBD)) bVRF) 0 (fieldZ d ((parse d).l3 + 16) 4) = some nh ∧ eget (s.ent pLK 4 nh) ⟨1, 31, 30⟩ = 0 ∧ s.lkFind 1 (l2Key (eget (s.ent pLK 4 nh) ⟨1, 29, 16⟩) (ew (s.ent pLK 4 nh) 0 + eget (s.ent pLK 4 nh) ⟨1, 15, 0⟩ * 2 ^ 32)) = some (i, x) ∧ destPair (ew x 2) = (1, q)) ∧
    (∃ (s : State) (src : Nat) (a : Nat) (res : Entry), s.lkFind 1 (l2Key (eget res rBD) a) = none ∧ s.mayLearn src (eget res rBD) = true ∧ s.frozenSrc src = false ∧ (eget (s.bd (eget res rBD)) bLIMIT = 0 ∨ eget (s.bd (eget res rBD)) bCOUNT < eget (s.bd (eget res rBD)) bLIMIT) ∧ s.lk.learns.any (fun p => p.1 == (l2Key (eget res rBD) a).toNat) = false ∧ s.lk.learns.length < 4096) ∧
    (∃ (s : State) (src : Nat) (a : Nat) (res : Entry), s.lkFind 1 (l2Key (eget res rBD) a) = none ∧ s.mayLearn src (eget res rBD) = true ∧ s.frozenSrc src = false ∧ (eget (s.bd (eget res rBD)) bLIMIT = 0 ∨ eget (s.bd (eget res rBD)) bCOUNT < eget (s.bd (eget res rBD)) bLIMIT) ∧ s.lk.learns.any (fun p => p.1 == (l2Key (eget res rBD) a).toNat) = false ∧ s.lk.learns.length < 4096) ∧
    (∃ (s : State) (src : Nat) (a : Nat) (i : Nat) (res : Entry) (e : Entry), s.lkFind 1 (l2Key (eget res rBD) a) = some (i, e) ∧ s.mayLearn src (eget res rBD) = true ∧ s.frozenSrc src = false ∧ eget e lSTATIC = 0 ∧ destPair (ew e 2) ≠ rLDEST res) ∧
    (∃ (s : State) (src : Nat) (a : Nat) (i : Nat) (res : Entry) (e : Entry), s.lkFind 1 (l2Key (eget res rBD) a) = some (i, e) ∧ eget e lSTATIC = 1 ∧ destPair (ew e 2) ≠ rLDEST res) ∧
    (∃ (s : State) (src : Nat) (a : Nat) (i : Nat) (res : Entry) (e : Entry), s.lkFind 1 (l2Key (eget res rBD) a) = some (i, e) ∧ eget e lSTATIC = 1 ∧ destPair (ew e 2) ≠ rLDEST res) ∧
    (∃ (s : State) (u : Nat) (b : Nat) (k : Entry) (d : Nat) (src : Nat) (key : Nat) (r : List (Nat × Nat × Nat)), s.lk.learns = (key, d, src) :: r ∧ k = BitVec.ofNat 512 key ∧ b = eget k ⟨1, 29, 16⟩ ∧ s.lkFind 1 k = none ∧ 1 ≤ eget (s.bd b) bLIMIT ∧ eget (s.bd b) bLIMIT ≤ eget (s.bd b) bCOUNT) ∧
    (∃ (s : State) (u : Nat) (b : Nat) (i : Nat) (k : Entry) (d : Nat) (src : Nat) (key : Nat) (r : List (Nat × Nat × Nat)), s.lk.learns = (key, d, src) :: r ∧ k = BitVec.ofNat 512 key ∧ b = eget k ⟨1, 29, 16⟩ ∧ s.lkFind 1 k = none ∧ eget (s.bd b) bLIMIT = 0 ∧ i = (s.lkGen 1) ∧ s.lkFree 1 (s.candidates 1 i (eput (ewPut k 2 d) lLSRC src)) ≠ none ∧ eget k lSTATIC = 0) ∧
    (∃ (s : State) (u : Nat) (n : Nat) (src : Nat), s.lk.moves = [(src, n)] ∧ s.get pLK F.LK_LEARN_CFG_MOVE_THR < n ∧ src < 64) ∧
    (∃ (s : State) (u : Nat), ((∀ p ∈ s.lk.moves, p.2 ≤ s.get pLK F.LK_LEARN_CFG_MOVE_THR))) ∧
    (∃ (s : State) (src : Fin 64) (u : Nat), s.frozenSrc src.val = true ∧ sget 0 s.lk.frozen src.val - 1 + s.get pLK F.LK_LEARN_CFG_FREEZE * cyclesPerSec ≤ (s.at u).now) ∧
    (∃ (s : State) (src : Fin 64) (u : Nat), s.frozenSrc src.val = false ∨ (s.at u).now < sget 0 s.lk.frozen src.val - 1 + s.get pLK F.LK_LEARN_CFG_FREEZE * cyclesPerSec) :=
  ⟨⟨(q x0), .other, 9, by decide +kernel⟩,
   ⟨{ q x0 with lk := { lk.lk with turn := 50 } }, .other, 9, by decide +kernel⟩,
   ⟨(bdS (prof (eput brg rFMODE 1) (q x0))), .other, 9, by decide +kernel⟩,
   ⟨({ q x0 with regs := [] }), .other, 9, x0, [{ src := 1, bytes := [] }], [{ src := 63, bytes := [] }], by decide +kernel⟩,
   ⟨ctiS, 9, (ctiS.lookups.getD 1 x0), [{ src := 1, bytes := [] }], [{ src := 63, bytes := [] }], by decide +kernel⟩,
   ⟨((q x0).setEnt pLK 0 5 e4), .other, 9, 0, 5, x0, [{ src := 1, bytes := [] }], [{ src := 63, bytes := [] }], e4, by decide +kernel⟩,
   ⟨(prof (direct 65535) (q x0)), .other, 9, 3, 65535, x0, [{ src := 1, bytes := [] }], [{ src := 63, bytes := [] }], by decide +kernel⟩,
   ⟨(bdS (prof brg (q x0))), .other, 9, 3, 4092, x0, [{ src := 1, bytes := [] }], [{ src := 63, bytes := [] }], 9, by decide +kernel⟩,
   ⟨z, 0, (ipp 1), by decide +kernel⟩,
   ⟨z, 0, (ipp 2), by decide +kernel⟩,
   ⟨rt, 0, (l2e 0), (ipp 2), 3, 5, 5, by decide +kernel⟩,
   ⟨lrn, 50, 0x1122, ldr, by decide +kernel⟩,
   ⟨(lrn.setEnt pLK 3 9 (eput (eput (eput 0 bLRN 1) bLIMIT 5) bCOUNT 4)), 50, 0x1122, ldr, by decide +kernel⟩,
   ⟨(lrn.setEnt pLK 1 5 (l2e 0)), 50, 0x1122, 5, ldr, (l2e 0), by decide +kernel⟩,
   ⟨(lrn.setEnt pLK 1 5 (l2e 1)), 50, 0x1122, 5, ldr, (l2e 1), by decide +kernel⟩,
   ⟨((lrn.setEnt pLK 1 5 (l2e 1)).setEnt pLK 3 9 (eput 0 bSSDROP 1)), 50, 0x1122, 5, ldr, (l2e 1), by decide +kernel⟩,
   ⟨((lq 3).setEnt pLK 3 9 (eput (eput (eput 0 bLRN 1) bLIMIT 5) bCOUNT 5)), 9, 9, (l2Key 9 0x1122), (2^30+5), 50, (l2Key 9 0x1122).toNat, [(3, 1, 2)], by decide +kernel⟩,
   ⟨lrnE, 9, 9, 0, l2Key 9 0x1122, 2^30+5, 50, (l2Key 9 0x1122).toNat, [(3, 1, 2)],
      by decide +kernel, by decide +kernel, by decide +kernel, by decide +kernel, by decide +kernel, by decide +kernel,
      (by
        intro h
        have hf := List.find?_eq_none.mp h _ (List.mem_map.mpr ⟨0, by decide, rfl⟩)
        rw [free_of_empty lrnE rfl] at hf
        · exact hf rfl
        · rw [Nat.zero_mul, Nat.zero_add]; exact Nat.mod_lt _ (by decide)), by decide +kernel⟩,
   ⟨((lkx (fun l => { l with moves := sset 0 [] 63 6 })).put pLK F.LK_LEARN_CFG_MOVE_THR 5 |>.put pLK F.LK_LEARN_CFG_FREEZE 7), 9, 6, 63, by decide +kernel⟩,
   ⟨((lkx (fun l => { l with moves := sset 0 [] 63 5 })).put pLK F.LK_LEARN_CFG_MOVE_THR 5), 9, by decide +kernel⟩,
   ⟨(lkx (fun l => { l with frozen := sset 0 [] 3 1 })), 3, 9, by decide +kernel⟩,
   ⟨lk, 3, 9, by decide +kernel⟩⟩

end C12

/-! ### Witnesses, chapter 13 -/

namespace C13

abbrev z : State := State.reset
abbrev pl : State := { (z.put pgBP (F.BP_POOL_CFG_COUNT.ix 1) 100 |>.put pgBP (F.BP_POOL_BASE_BASE.ix 1) 1000 |>.putBit pgBP (F.BP_POOL_CFG_EN.ix 1) true |>.put pgBP (F.BP_POOL_STAT_FREE.ix 1) 100 |>.putBit pgBP F.PAGE_EN true) with bp := { z.bp with pools := sset {} z.bp.pools 1 { cache := [1000, 1001], top := 1002 } } }
abbrev hd (v : Nat) : State := (pl.put pgBP (F.BP_POOL_STAT_FREE.ix 1) 97).setHdr 1000 v |>.setHdr 1001 (memberHdr 1002) |>.setHdr 1002 (memberHdr nilH)

theorem witness_BufferPools :
    (∃ (s : State) (p : Fin 16) (k : Nat) (r : Fin 128) (q : Fin 128) (u : Nat) (h : Nat) (rest : List Nat), 1 ≤ k ∧ k ≤ 127 ∧ r.val ≤ 67 ∧ q.val ≤ 67 ∧ s.allocCause p.val k r.val = 0 ∧ s.stackTop p.val k = h :: rest ∧ rest.length + 1 = k ∧ ((∀ x ∈ s.stackTop p.val k, s.buffOk p.val x = true))) ∧
    (∃ (s : State) (p : Fin 16) (k : Nat) (r : Fin 128) (q : Fin 128) (u : Nat) (h : Nat) (rest : List Nat), 1 ≤ k ∧ k ≤ 127 ∧ r.val ≤ 67 ∧ q.val ≤ 67 ∧ s.allocCause p.val k r.val = 0 ∧ s.stackTop p.val k = h :: rest ∧ rest.length + 1 = k ∧ ((∀ x ∈ s.stackTop p.val k, s.buffOk p.val x = true))) ∧
    (∃ (s : State) (p : Fin 16) (k : Nat) (r : Fin 128) (q : Fin 128) (u : Nat), 1 ≤ k ∧ k ≤ 127 ∧ r.val ≤ 67 ∧ q.val ≤ 67 ∧ s.allocCause p.val k r.val ≠ 0) ∧
    (∃ (s : State) (p : Fin 16) (k : Nat) (r : Fin 128) (q : Fin 128) (u : Nat), 1 ≤ k ∧ k ≤ 127 ∧ r.val ≤ 67 ∧ q.val ≤ 67 ∧ s.allocCause p.val k r.val ≠ 0) ∧
    (∃ (s : State) (p : Fin 16) (k : Nat) (r : Fin 128) (q : Fin 128) (u : Nat), (k = 0 ∨ 127 < k ∨ 67 < r.val ∨ 67 < q.val)) ∧
    (∃ (s : State) (p : Fin 16) (k : Nat) (r : Fin 128) (q : Fin 128) (u : Nat), (k = 0 ∨ 127 < k ∨ 67 < r.val ∨ 67 < q.val)) ∧
    (∃ (s : State) (p : Fin 16) (k : Nat) (r : Fin 128) (q : Fin 128) (u : Nat), (k = 0 ∨ 127 < k ∨ 67 < r.val ∨ 67 < q.val)) ∧
    (∃ (s : State) (p : Fin 16) (k : Nat) (r : Fin 128) (q : Fin 128) (u : Nat), (k = 0 ∨ 127 < k ∨ 67 < r.val ∨ 67 < q.val)) ∧
    (∃ (s : State) (h : Nat) (n : Nat) (f : Fin 128) (q : Fin 128), s.notHead h = none ∧ hbits (s.hdr h) 53 47 = q.val ∧ hbits (s.hdr h) 61 54 ≤ 1 ∧ 1 ≤ n ∧ n ≤ 255 ∧ requesterOk f.val = true) ∧
    (∃ (s : State) (h : Nat) (n : Nat) (f : Fin 128) (q : Fin 128), s.notHead h = none ∧ hbits (s.hdr h) 53 47 ≠ q.val ∧ requesterOk f.val = true ∧ s.bit pgBP F.BP_BAD_LAST_VALID = false) ∧
    (∃ (s : State) (h : Nat) (n : Nat) (f : Fin 128) (q : Fin 128), requesterOk f.val = false) ∧
    (∃ (s : State) (h : Nat) (q : Fin 128), s.notHead h = none ∧ hbits (s.hdr h) 53 47 ≠ q.val ∧ 2 < hbits (s.hdr h) 61 54) ∧
    (∃ (s : State) (h : Nat) (q : Fin 128), s.notHead h = none ∧ hbits (s.hdr h) 53 47 ≠ q.val ∧ hbits (s.hdr h) 53 47 ≠ 127 ∧ hbits (s.hdr h) 53 47 ≠ 65 ∧ hbits (s.hdr h) 61 54 = 2) ∧
    (∃ (s : State) (h : Nat) (p : Nat) (q : Fin 128), s.notHead h = none ∧ s.poolOf h = some p ∧ hbits (s.hdr h) 53 47 = 127 ∧ q.val ≠ 127 ∧ hbits (s.hdr h) 61 54 = 2) ∧
    (∃ (s : State) (h : Nat) (p : Nat) (q : Fin 128), s.notHead h = none ∧ s.poolOf h = some p ∧ hbits (s.hdr h) 53 47 = q.val ∧ hbits (s.hdr h) 61 54 ≤ 1) ∧
    (∃ (s : State) (p : Fin 16), s.bp.rebuild ≠ some p.val ∧ (s.pool p.val).cache.length < 32 ∧ (s.pool p.val).top ≠ nilH ∧ (s.pool p.val).cache.length < s.poolFree p.val) ∧
    (∃ (s : State) (fn : Fn) (p : Fin 16), Reaches s fn.val (pgBP + 0x1C0) .bp 0 ∧ s.bit pgBP F.BP_CMD_STAT_BUSY = false) ∧
    (∃ (s : State) (p : Nat), s.bp.rebuild = some p ∧ p < 16) ∧
    (∃ (s : State) (fn : Fn) (p : Fin 16), Reaches s fn.val (pgBP + 0x1C0) .bp 0 ∧ s.bit pgBP F.BP_CMD_STAT_BUSY = false) ∧
    (∃ (s : State) (fn : Fn) (p : Fin 16) (w : Word), Reaches s fn.val (pgBP + 0x0C0 + 16 * p.val) .bp 0 ∧ s.bit pgBP (F.BP_POOL_CFG_EN.ix p.val) = false ∧ (s.storeFields .bp 0 fn.val (pgBP + 0x0C0 + 16 * p.val) (w ||| maskBit 31).toNat).1.bit pgBP (F.BP_POOL_CFG_EN.ix p.val) = true) ∧
    (∃ (s : State) (p : Fin 16), s.en pgBP = true ∧ s.bit pgBP (F.BP_POOL_STAT_INIT.ix p.val) = true) :=
  ⟨⟨pl, 1, 3, 5, 7, 9, 1000, [1001,1002], by decide +kernel⟩,
   ⟨pl, 1, 1, 5, 7, 9, 1000, [], by decide +kernel⟩,
   ⟨pl, 1, 120, 5, 7, 9, by decide +kernel⟩,
   ⟨(pl.setEnt pgBP 0 (128+5) (eput 0 qQUOTA 2)), 1, 3, 5, 7, 9, by decide +kernel⟩,
   ⟨pl, 1, 0, 5, 7, 9, by decide +kernel⟩,
   ⟨pl, 1, 128, 5, 7, 9, by decide +kernel⟩,
   ⟨pl, 1, 1, 68, 7, 9, by decide +kernel⟩,
   ⟨pl, 1, 1, 5, 127, 9, by decide +kernel⟩,
   ⟨(hd (headHdr 1 7 5 1 0 3 1001)), 1000, 4, 9, 7, by decide +kernel⟩,
   ⟨(hd (headHdr 1 7 5 1 0 3 1001)), 1000, 4, 9, 8, by decide +kernel⟩,
   ⟨(hd (headHdr 1 7 5 1 0 3 1001)), 1000, 4, 68, 7, by decide +kernel⟩,
   ⟨(hd (headHdr 3 7 5 1 0 3 1001)), 1000, 8, by decide +kernel⟩,
   ⟨(hd (headHdr 2 9 5 1 0 3 1001)), 1000, 8, by decide +kernel⟩,
   ⟨(hd (headHdr 2 127 5 1 0 3 1001)), 1000, 1, 8, by decide +kernel⟩,
   ⟨(hd (headHdr 1 7 5 1 0 3 1001)), 1000, 1, 7, by decide +kernel⟩,
   ⟨pl, 1, by decide +kernel⟩,
   ⟨pl, 0, 1, by decide +kernel⟩,
   ⟨{ pl with bp := { pl.bp with rebuild := some 1 } }, 1, by decide +kernel⟩,
   ⟨pl, 0, 1, by decide +kernel⟩,
   ⟨(z.put pgBP (F.BP_POOL_CFG_COUNT.ix 1) 100 |>.put pgBP (F.BP_POOL_BASE_BASE.ix 1) 1000), 0, 1, 0x64, by decide +kernel⟩,
   ⟨(pl.putBit pgBP (F.BP_POOL_STAT_INIT.ix 1) true), 1, by decide +kernel⟩⟩

end C13

/-! ### Witnesses, chapter 14 -/

namespace C14

abbrev z : State := State.reset
def dmx (f : Dm → Dm) : State := { z with dm := f z.dm }
def rq (a n : Nat) (d : Option (List Byte)) : DReq := { sec := true, addr := a, len := n, data := d, handle := none, since := 5 }
def qq (p : Nat) (l : List DReq) : State := dmx (fun d => { d with queues := sset [] [] p l })
def sq (n : Nat) (r : DReq) : DReq := { r with seq := n }
def wr (n : Nat) : Option (List Byte) := some (List.replicate n 7)
def fullq : State := (qq 0 (List.replicate 512 (rq 0 32 none))).setHdr 1000 (headHdr 1 7 5 1 0 3 1001)
def secR (s : State) : State := s.setEnt pgSC 0 3 (eput (eput (eput 0 drEN 1) drSEC 1) drLAST 5)
def vd (s : State) : State := (s.putBit pDM F.DM_TRAIN_STAT_VALID1 true).putBit pDM F.DM_TRAIN_STAT_VALID0 true
def deb : State := dmx (fun d => { d with debts := sset 0 (sset 0 [] 40 6) 41 3 })
def ch (x : Nat) (i : Bool) : State := (vd (dmx (fun d => { d with change := some (x, i) }))).putBit pDM F.DM_FREQ_STAT_BUSY true
def stp (l : List Nat) : State := (dmx (fun d => { d with steps := l })).putBit pDM F.DM_TRAIN_STAT_BUSY true

theorem witness_DramService :
    (∃ (s : State) (p : Fin 12) (sec : Bool) (a : BitVec 34) (n : Nat) (d : Option (List Byte)) (h : Option Nat) (u : Nat), reqFormed a.toNat n = false) ∧
    (∃ (s : State) (p : Fin 12) (sec : Bool) (a : BitVec 34) (n : Nat) (d : Option (List Byte)) (h : Option Nat) (u : Nat), reqFormed a.toNat n = false) ∧
    (∃ (s : State) (p : Fin 12) (sec : Bool) (a : BitVec 34) (n : Nat) (d : Option (List Byte)) (h : Option Nat) (u : Nat), reqFormed a.toNat n = false) ∧
    (∃ (s : State) (p : Fin 12) (sec : Bool) (a : BitVec 34) (n : Nat) (d : Option (List Byte)) (h : Option Nat) (u : Nat), reqFormed a.toNat n = true ∧ dmViolates (s.portSec p.val sec) a.toNat s = false ∧ (s.bit pDM F.ST_FAULT = false ∨ d = none) ∧ s.dmTakes p.val = true ∧ sget [] s.dm.waiting p.val = []) ∧
    (∃ (s : State) (p : Fin 12) (sec : Bool) (a : BitVec 34) (n : Nat) (d : Option (List Byte)) (h : Option Nat) (u : Nat), reqFormed a.toNat n = true ∧ dmViolates (s.portSec p.val sec) a.toNat s = false ∧ (s.bit pDM F.ST_FAULT = false ∨ d = none) ∧ s.dmTakes p.val = true ∧ sget [] s.dm.waiting p.val = []) ∧
    (∃ (s : State) (p : Fin 12) (sec : Bool) (a : BitVec 34) (n : Nat) (d : Option (List Byte)) (h : Option Nat) (u : Nat), reqFormed a.toNat n = true ∧ dmViolates (s.portSec p.val sec) a.toNat s = false ∧ (s.bit pDM F.ST_FAULT = false ∨ d = none) ∧ s.dmTakes p.val = false ∧ ((p ≠ 0 ∧ p ≠ 2) ∨ d = none)) ∧
    (∃ (s : State) (p : Fin 12) (sec : Bool) (a : BitVec 34) (n : Nat) (d : Option (List Byte)) (h : Option Nat) (u : Nat), reqFormed a.toNat n = true ∧ dmViolates (s.portSec p.val sec) a.toNat s = false ∧ (s.bit pDM F.ST_FAULT = false ∨ d = none) ∧ s.dmTakes p.val = false ∧ ((p ≠ 0 ∧ p ≠ 2) ∨ d = none)) ∧
    (∃ (s : State) (p : Fin 12) (sec : Bool) (a : BitVec 34) (n : Nat) (h : Option Nat) (u : Nat), reqFormed a.toNat n = true ∧ dmViolates (s.portSec p.val sec) a.toNat s = true ∧ sget [] s.dm.waiting p.val = []) ∧
    (∃ (s : State) (p : Fin 12) (sec : Bool) (a : BitVec 34) (n : Nat) (h : Option Nat) (u : Nat), reqFormed a.toNat n = true ∧ dmViolates (s.portSec p.val sec) a.toNat s = true ∧ sget [] s.dm.waiting p.val = []) ∧
    (∃ (s : State) (p : Fin 12) (sec : Bool) (a : BitVec 34) (n : Nat) (d : List Byte) (h : Nat) (u : Nat), reqFormed a.toNat n = true ∧ dmViolates (s.portSec p.val sec) a.toNat s = false ∧ ((p = 0 ∨ p = 2)) ∧ s.dmTakes p.val = false ∧ isHeadHdr (s.hdr h) = true) ∧
    (∃ (s : State) (c : Nat) (n : List (Nat × Nat)) (x : PReq) (y : PReq) (b : Bool), s.dmPick c n = some (x, b) ∧ y ∈ s.dmAll ∧ pcOf y.2.2.addr = c ∧ (y.1, y.2.1) ∉ n ∧ s.dmHeld y.2.2 = false) ∧
    (∃ (s : State) (c : Nat) (n : List (Nat × Nat)) (x : PReq) (y : PReq) (b : Bool), s.dmPick c n = some (x, b) ∧ y ∈ s.dmAll ∧ pcOf y.2.2.addr = c ∧ (y.1, y.2.1) ∉ n ∧ s.dmHeld y.2.2 = false) ∧
    (∃ (s : State) (c : Nat) (n : List (Nat × Nat)) (x : PReq) (y : PReq) (b : Bool), s.dmPick c n = some (x, b) ∧ y ∈ s.dmAll ∧ pcOf y.2.2.addr = c ∧ (y.1, y.2.1) ∉ n ∧ s.dmHeld y.2.2 = false) ∧
    (∃ (s : State) (c : Fin 64) (n : List (Fin 12 × Fin 512)) (p : Nat) (k : Nat) (r : DReq) (b : Bool) (d : List Byte) (u : Nat), (s.at u).dmPick c.val (n.map (fun x => (x.1.val, x.2.val))) = some ((p, k, r), b) ∧ sget [] s.dm.waiting p = [] ∧ r.data = some d ∧ r.rewrite = false ∧ r.failed = false ∧ s.bit pDM F.ST_FAULT = false ∧ ((∀ i ∈ List.range r.len, s.bufAt (r.addr + i) = none))) ∧
    (∃ (s : State) (c : Fin 64) (n : List (Fin 12 × Fin 512)) (p : Nat) (k : Nat) (r : DReq) (b : Bool) (d : List Byte) (u : Nat), (s.at u).dmPick c.val (n.map (fun x => (x.1.val, x.2.val))) = some ((p, k, r), b) ∧ sget [] s.dm.waiting p = [] ∧ r.data = some d ∧ r.rewrite = false ∧ r.failed = false ∧ s.bit pDM F.ST_FAULT = false ∧ ((∀ i ∈ List.range r.len, s.bufAt (r.addr + i) = none))) ∧
    (∃ (s : State) (c : Fin 64) (n : List (Fin 12 × Fin 512)) (p : Nat) (k : Nat) (r : DReq) (b : Bool) (u : Nat), (s.at u).dmPick c.val (n.map (fun x => (x.1.val, x.2.val))) = some ((p, k, r), b) ∧ sget [] s.dm.waiting p = [] ∧ r.data = none ∧ r.failed = false ∧ s.bit pDM F.ST_FAULT = false ∧ r.words.any (fun w => (dmAhead r s).dm.bad.contains w || (dmAhead r s).dm.ue.contains w) = false) ∧
    (∃ (s : State) (c : Fin 64) (n : List (Fin 12 × Fin 512)) (p : Nat) (k : Nat) (r : DReq) (b : Bool) (u : Nat), (s.at u).dmPick c.val (n.map (fun x => (x.1.val, x.2.val))) = some ((p, k, r), b) ∧ sget [] s.dm.waiting p = [] ∧ r.data = none ∧ r.failed = false ∧ s.bit pDM F.ST_FAULT = false ∧ r.words.any (fun w => (dmAhead r s).dm.bad.contains w || (dmAhead r s).dm.ue.contains w) = false) ∧
    (∃ (s : State) (c : Fin 64) (n : List (Fin 12 × Fin 512)) (p : Nat) (k : Nat) (r : DReq) (b : Bool) (u : Nat), (s.at u).dmPick c.val (n.map (fun x => (x.1.val, x.2.val))) = some ((p, k, r), b) ∧ r.data = none ∧ r.words.any (fun w => s.dm.bad.contains w) = true ∧ s.dmAll.length = 1) ∧
    (∃ (s : State) (c : Fin 64) (n : List (Fin 12 × Fin 512)) (u : Nat), (s.at u).dmPick c.val (n.map (fun x => (x.1.val, x.2.val))) = none) ∧
    (∃ (s : State) (c : Fin 64) (n : List (Fin 12 × Fin 512)) (u : Nat), (s.at u).dmPick c.val (n.map (fun x => (x.1.val, x.2.val))) = none) ∧
    (∃ (s : State) (c : Fin 64) (n : List (Fin 12 × Fin 512)) (u : Nat), (s.at u).dmPick c.val (n.map (fun x => (x.1.val, x.2.val))) = none) ∧
    (∃ (s : State) (p : Fin 12) (k : Fin 512) (r : DReq) (u : Nat), (s.dmQ p.val)[k.val]? = some r) ∧
    (∃ (s : State) (c : Fin 64) (u : Nat), s.dmStopped = false ∧ s.pcBusy c.val = true ∧ s.bit pDM (F.DM_REF_STAT_THROT.ix (c.val / 32)) = false ∧ sget 0 s.dm.debts c.val < 8) ∧
    (∃ (s : State) (c : Fin 64) (u : Nat), s.dmStopped = false ∧ s.pcBusy c.val = true ∧ s.bit pDM (F.DM_REF_STAT_THROT.ix (c.val / 32)) = false ∧ sget 0 s.dm.debts c.val = 8) ∧
    (∃ (s : State) (c : Fin 64) (u : Nat), s.dmStopped = false ∧ (s.pcBusy c.val = false ∨ s.bit pDM (F.DM_REF_STAT_THROT.ix (c.val / 32)) = true)) ∧
    (∃ (s : State) (k : Fin 2) (x : Byte) (u : Nat), s.bit pDM (F.DM_REF_STAT_X2.ix k.val) = false ∧ 85 ≤ toSigned 8 x.toNat) ∧
    (∃ (s : State) (k : Fin 2) (x : Byte) (u : Nat), s.bit pDM (F.DM_REF_STAT_X2.ix k.val) = false ∧ 85 ≤ toSigned 8 x.toNat) ∧
    (∃ (s : State) (k : Fin 2) (x : Byte) (u : Nat), s.bit pDM (F.DM_REF_STAT_X2.ix k.val) = true ∧ toSigned 8 x.toNat < 83) ∧
    (∃ (s : State) (k : Fin 2) (x : Byte) (u : Nat), s.bit pDM (F.DM_REF_STAT_X2.ix k.val) = true ∧ toSigned 8 x.toNat < 83) ∧
    (∃ (s : State) (n : Nat), s.get pDM F.DM_MODE_MODE ≠ 2 ∧ s.get pDM F.DM_SCRUB_PERIOD_H ≠ 0 ∧ s.dmStopped = false ∧ s.get pDM F.DM_SCRUB_POS_POS + n < 2 ^ 26) ∧
    (∃ (s : State) (n : Nat), s.get pDM F.DM_MODE_MODE ≠ 2 ∧ s.get pDM F.DM_SCRUB_PERIOD_H ≠ 0 ∧ s.dmStopped = false ∧ 2 ^ 26 ≤ s.get pDM F.DM_SCRUB_POS_POS + n) ∧
    (∃ (s : State) (n : Nat) (f : List EccFinding), (s.get pDM F.DM_MODE_MODE = 2 ∨ s.get pDM F.DM_SCRUB_PERIOD_H = 0 ∨ s.dmStopped = true)) ∧
    (∃ (s : State) (p : Fin 12) (k : Fin 512) (r : DReq) (n : Nat) (f : Bool), (s.dmQ p.val)[k.val]? = some r) :=
  ⟨⟨z, 3, true, 16, 32, none, none, 9, by decide +kernel⟩,
   ⟨z, 3, true, 224, 64, none, none, 9, by decide +kernel⟩,
   ⟨z, 3, true, 0, 0, none, none, 9, by decide +kernel⟩,
   ⟨z, 3, true, 32, 224, (wr 224), none, 9, by decide +kernel⟩,
   ⟨(z.putBit pDM F.ST_FAULT true), 3, true, 32, 224, none, none, 9, by decide +kernel⟩,
   ⟨(qq 3 (List.replicate 512 (rq 0 32 none))), 3, true, 0, 32, (wr 32), none, 9, by decide +kernel⟩,
   ⟨(z.putBit pDM F.PAGE_QUIESCE true), 2, true, 0, 32, none, none, 9, by decide +kernel⟩,
   ⟨((secR z).put pgSC F.SC_SECT_CFG_SEC 0), 3, true, 0x5FFF00, 32, none, 9, by decide +kernel⟩,
   ⟨(secR z), 7, false, 0x5FFF00, 32, none, 9, by decide +kernel⟩,
   ⟨fullq, 0, true, 0, 32, (List.replicate 32 7), 1000, 9, by decide +kernel⟩,
   ⟨({ qq 1 [sq 2 (rq 0 32 none), sq 3 (rq 64 64 (wr 64))] with now := 5000 }), 0, [], (1, 0, sq 2 (rq 0 32 none)), (1, 1, sq 3 (rq 64 64 (wr 64))), false, by decide +kernel⟩,
   ⟨((qq 1 [sq 2 (rq 0 32 none), { sq 3 (rq 64 64 (wr 64)) with urg := 3 }]).put pDM F.DM_MODE_MODE 0), 0, [], (1, 1, { sq 3 (rq 64 64 (wr 64)) with urg := 3 }), (1, 0, sq 2 (rq 0 32 none)), false, by decide +kernel⟩,
   ⟨((qq 1 [sq 2 (rq 0 32 none), sq 3 (rq 64 64 (wr 64))]).put pDM F.DM_MODE_MODE 0), 0, [], (1, 0, sq 2 (rq 0 32 none)), (1, 1, sq 3 (rq 64 64 (wr 64))), false, by decide +kernel⟩,
   ⟨((qq 1 [rq 0 32 none, sq 1 (rq 64 64 (wr 64))]).put pDM F.DM_MODE_MODE 0), 0, [(1, 0)], 1, 1, (sq 1 (rq 64 64 (wr 64))), false, (List.replicate 64 7), 1000, by decide +kernel⟩,
   ⟨((qq 1 [rq 0 32 none, sq 1 (rq 64 64 (wr 64))]).put pDM F.DM_MODE_MODE 0), 0, [(1, 0)], 1, 1, (sq 1 (rq 64 64 (wr 64))), false, (List.replicate 64 7), 10, by decide +kernel⟩,
   ⟨({ qq 1 [rq 0 32 none] with dm := { (qq 1 [rq 0 32 none]).dm with mem := [(3, 9)] } }), 0, [], 1, 0, (rq 0 32 none), false, 9, by decide +kernel⟩,
   ⟨(qq 1 [rq 0 32 (wr 32), sq 1 (rq 0 32 none)]), 0, [], 1, 1, (sq 1 (rq 0 32 none)), false, 9, by decide +kernel⟩,
   ⟨({ qq 1 [rq 0 32 none] with dm := { (qq 1 [rq 0 32 none]).dm with bad := [1] } }), 0, [], 1, 0, (rq 0 32 none), false, 9, by decide +kernel⟩,
   ⟨(qq 1 [rq 32 32 none, rq 32 32 none]), 1, [], 9, by decide +kernel⟩,
   ⟨((qq 1 [rq 32 32 none]).putBit pDM F.DM_FREQ_STAT_BUSY true), 0, [], 9, by decide +kernel⟩,
   ⟨{ qq 1 [rq 32 32 none] with dm := { (qq 1 [rq 32 32 none]).dm with refr := sset (0, 0) [] 0 (1, 99) } }, 0, [], 9, by decide +kernel⟩,
   ⟨(qq 1 [rq 32 32 none, rq 64 32 none]), 1, 1, (rq 64 32 none), 500, by decide +kernel⟩,
   ⟨(qq 1 [rq 32 32 none]), 0, 9, by decide +kernel⟩,
   ⟨(dmx (fun d => { d with queues := sset [] [] 1 [rq 32 32 none], debts := sset 0 [] 0 8 })), 0, 9, by decide +kernel⟩,
   ⟨deb, 40, 9, by decide +kernel⟩,
   ⟨deb, 1, 85, 9, by decide +kernel⟩,
   ⟨deb, 1, 95, 9, by decide +kernel⟩,
   ⟨(deb.putBit pDM (F.DM_REF_STAT_X2.ix 1) true), 1, 82, 9, by decide +kernel⟩,
   ⟨(deb.putBit pDM (F.DM_REF_STAT_X2.ix 1) true), 1, 0x80, 9, by decide +kernel⟩,
   ⟨z, 5, by decide +kernel⟩,
   ⟨z, (2 ^ 26), by decide +kernel⟩,
   ⟨(z.put pDM F.DM_MODE_MODE 2), 5, [], by decide +kernel⟩,
   ⟨(qq 1 [rq 32 32 none]), 1, 0, (rq 32 32 none), 4, true, by decide +kernel⟩⟩

theorem witness_DramPoints :
    (∃ (s : State) (fn : Fn) (w : Word) (u : Nat) (x : Nat), Reaches s fn.val (pDM + 0x10C) (.dm 0) 0 ∧ x = w.toNat % 2 ∧ x ≠ s.dmCur ∧ s.bit pDM (validOf x) = true ∧ s.bit pDM F.DM_FREQ_STAT_BUSY = false ∧ s.bit pDM F.DM_FREQ_STAT_DEFER = false ∧ s.get pDM F.DM_MODE_MODE ≠ 0 ∧ s.bit pDM F.DM_TRAIN_STAT_BUSY = false ∧ w.toNat.testBit 29 = false) ∧
    (∃ (s : State) (fn : Fn) (w : Word) (u : Nat) (x : Nat), Reaches s fn.val (pDM + 0x10C) (.dm 0) 0 ∧ x = w.toNat % 2 ∧ x ≠ s.dmCur ∧ s.bit pDM (validOf x) = true ∧ s.bit pDM F.DM_FREQ_STAT_BUSY = false ∧ s.bit pDM F.DM_FREQ_STAT_DEFER = false ∧ s.get pDM F.DM_MODE_MODE ≠ 0 ∧ s.bit pDM F.DM_TRAIN_STAT_BUSY = true ∧ w.toNat.testBit 29 = false) ∧
    (∃ (s : State) (fn : Fn) (w : Word) (u : Nat) (x : Nat), Reaches s fn.val (pDM + 0x10C) (.dm 0) 0 ∧ x = w.toNat % 2 ∧ w.toNat.testBit 29 = false ∧ (x = s.dmCur ∨ s.bit pDM (validOf x) = false ∨ s.bit pDM F.DM_FREQ_STAT_BUSY = true ∨ s.bit pDM F.DM_FREQ_STAT_DEFER = true ∨ (s.get pDM F.DM_MODE_MODE = 0 ∧ w.toNat.testBit 30 = false))) ∧
    (∃ (s : State) (fn : Fn) (w : Word) (u : Nat) (x : Nat), Reaches s fn.val (pDM + 0x10C) (.dm 0) 0 ∧ x = w.toNat % 2 ∧ w.toNat.testBit 29 = false ∧ (x = s.dmCur ∨ s.bit pDM (validOf x) = false ∨ s.bit pDM F.DM_FREQ_STAT_BUSY = true ∨ s.bit pDM F.DM_FREQ_STAT_DEFER = true ∨ (s.get pDM F.DM_MODE_MODE = 0 ∧ w.toNat.testBit 30 = false))) ∧
    (∃ (s : State) (fn : Fn) (w : Word) (u : Nat) (x : Nat), Reaches s fn.val (pDM + 0x10C) (.dm 0) 0 ∧ x = w.toNat % 2 ∧ w.toNat.testBit 29 = false ∧ (x = s.dmCur ∨ s.bit pDM (validOf x) = false ∨ s.bit pDM F.DM_FREQ_STAT_BUSY = true ∨ s.bit pDM F.DM_FREQ_STAT_DEFER = true ∨ (s.get pDM F.DM_MODE_MODE = 0 ∧ w.toNat.testBit 30 = false))) ∧
    (∃ (s : State) (fn : Fn) (w : Word) (u : Nat), Reaches s fn.val (pDM + 0x10C) (.dm 0) 0 ∧ s.dmCur = 0 ∧ s.bit pDM F.DM_FREQ_STAT_BUSY = false ∧ s.bit pDM F.DM_FREQ_STAT_DEFER = false ∧ s.get pDM F.DM_MODE_MODE ≠ 0 ∧ s.bit pDM F.DM_TRAIN_STAT_BUSY = false ∧ w.toNat.testBit 31 = false) ∧
    (∃ (s : State) (fn : Fn) (w : Word) (u : Nat), Reaches s fn.val (pDM + 0x10C) (.dm 0) 0 ∧ s.dmCur = 1 ∧ w.toNat.testBit 31 = false) ∧
    (∃ (s : State) (u : Nat) (k : Nat) (l : List Nat), s.bit pDM F.DM_FREQ_STAT_DEFER = true ∧ s.dm.deferAt + 2488320 ≤ (s.at u).now ∧ s.dm.steps = k :: l) ∧
    (∃ (s : State) (u : Nat), (s.bit pDM F.DM_FREQ_STAT_DEFER = false ∨ (s.at u).now < s.dm.deferAt + 2488320)) ∧
    (∃ (s : State) (c : Fin 64) (d : BitVec 16) (x : Nat), s.dm.change = some (x, false) ∧ x < 2 ∧ s.dmStopped = true ∧ s.dm.erst = false) ∧
    (∃ (s : State) (f : Fin 7) (c : Fin 64) (d : BitVec 16) (x : Nat × Bool), 1 ≤ f.val ∧ f.val ≤ 4 ∧ s.dm.change = some x ∧ s.dmStopped = true ∧ s.dm.erst = false) ∧
    (∃ (s : State) (f : Fin 7) (c : Fin 64) (d : BitVec 16) (x : Nat × Bool), 1 ≤ f.val ∧ f.val ≤ 4 ∧ s.dm.change = some x ∧ s.dmStopped = true ∧ s.dm.erst = false) ∧
    (∃ (s : State) (c : Fin 64) (d : BitVec 16) (x : Nat), s.dm.change = some (x, false) ∧ x < 2 ∧ x ≠ s.dmCur ∧ s.dmStopped = true ∧ s.dm.erst = false) ∧
    (∃ (s : State) (c : Fin 64) (d : BitVec 16), s.dm.change = some (1, true) ∧ s.dmStopped = true ∧ s.dm.erst = false ∧ s.dmCur = 0) ∧
    (∃ (s : State) (fn : Fn) (w : Word), Reaches s fn.val (pDM + 0x114) (.dm 0) 0 ∧ s.bit pDM F.DM_TRAIN_STAT_BUSY = false) ∧
    (∃ (s : State) (fn : Fn) (w : Word), Reaches s fn.val (pDM + 0x114) (.dm 0) 0 ∧ s.bit pDM F.DM_TRAIN_STAT_BUSY = true) ∧
    (∃ (s : State) (k : Nat) (l : List Nat), s.dm.steps = k :: l ∧ s.dmStopped = false ∧ s.bit pDM F.DM_FREQ_STAT_DEFER = false ∧ k < 8) ∧
    (∃ (s : State) (k : Nat) (l : List Nat), s.dm.steps = k :: l ∧ s.dmStopped = false ∧ s.bit pDM F.DM_FREQ_STAT_DEFER = false ∧ k < 8) ∧
    (∃ (s : State) (k : Nat) (l : List Nat), s.dm.steps = k :: l ∧ s.dmStopped = false ∧ s.bit pDM F.DM_FREQ_STAT_DEFER = true) ∧
    (∃ (s : State) (c : Fin 64) (k : Nat) (l : List Nat), s.dm.steps = k :: l ∧ s.dmStopped = false ∧ k ≠ 5 ∧ k < 8 ∧ s.bit pDM F.DM_FREQ_STAT_DEFER = false) ∧
    (∃ (s : State) (c : Fin 64) (l : List Nat), s.dm.steps = 5 :: l ∧ s.dmStopped = false) ∧
    (∃ (s : State), s.dmStopped = false ∧ s.bit pDM F.DM_TRAIN_STAT_BUSY = false ∧ s.get pDM F.DM_TRAIN_CFG_PERIOD ≠ 0) ∧
    (∃ (s : State), (s.dmStopped = true ∨ s.bit pDM F.DM_TRAIN_STAT_BUSY = true ∨ s.get pDM F.DM_TRAIN_CFG_PERIOD = 0)) :=
  ⟨⟨(vd z), 0, 1, 9, 1, by decide +kernel⟩,
   ⟨((vd z).putBit pDM F.DM_TRAIN_STAT_BUSY true), 0, 1, 9, 1, by decide +kernel⟩,
   ⟨(vd z), 0, 0, 9, 0, by decide +kernel⟩,
   ⟨z, 0, 1, 9, 1, by decide +kernel⟩,
   ⟨((vd z).put pDM F.DM_MODE_MODE 0), 0, 1, 9, 1, by decide +kernel⟩,
   ⟨z, 0, 0, 9, by decide +kernel⟩,
   ⟨(z.put pDM F.DM_FREQ_STAT_CUR 1), 0, 0, 9, by decide +kernel⟩,
   ⟨((stp [2, 3]).putBit pDM F.DM_FREQ_STAT_DEFER true), 2488320, 2, [3], by decide +kernel⟩,
   ⟨((stp [2, 3]).putBit pDM F.DM_FREQ_STAT_DEFER true), 2488319, by decide +kernel⟩,
   ⟨(ch 1 false), 3, 77, 1, by decide +kernel⟩,
   ⟨(ch 1 false), 4, 3, 77, (1, false), by decide +kernel⟩,
   ⟨(ch 1 true), 1, 3, 77, (1, true), by decide +kernel⟩,
   ⟨(ch 1 false), 3, 77, 1, by decide +kernel⟩,
   ⟨(ch 1 true), 3, 77, by decide +kernel⟩,
   ⟨z, 0, 0x15, by decide +kernel⟩,
   ⟨(stp [2]), 0, 0x15, by decide +kernel⟩,
   ⟨(stp [4]), 4, [], by decide +kernel⟩,
   ⟨(dmx (fun d => { d with steps := [4, 5], done := 0x0E })), 4, [5], by decide +kernel⟩,
   ⟨((stp [4, 5]).putBit pDM F.DM_FREQ_STAT_DEFER true), 4, [5], by decide +kernel⟩,
   ⟨(vd (stp [4, 5])), 9, 4, [5], by decide +kernel⟩,
   ⟨(vd (stp [5])), 9, [], by decide +kernel⟩,
   ⟨z, by decide +kernel⟩,
   ⟨(stp [5]), by decide +kernel⟩⟩

end C14

/-! ### Witnesses, chapter 15 -/

namespace C15

abbrev z : State := State.reset
def en (a : Nat) (s : State) : State := s.putBit a F.PAGE_EN true
def rg (k c p sz : Nat) : Entry := eput (eput (eput (eput (eput (ewPut 0 0 0x10000) RF.EN 1) RF.SIZE sz) RF.SLOT 96) RF.CIDX c) RF.PIDX p
def rs (r : Nat) (c p sz : Nat) : State := (z.setRing r (rg 0 c p sz)).putBit pHX F.HX_LINK_UP true |>.putBit pHX F.PAGE_EN true |>.levelTo pHX 0 false
def inj : List Byte := slotHdr 6 0 0 60 (2^30 + 77) 0 99 [1,2,3,4] ++ List.replicate 60 5
def ri (d : List Byte) : State := let s := rs 241 3 0 4; { s with hostMem := memWrite [] (0x10000 + 3 * 96) d }
def mx : State := (((en pMX z).putBit pMX F.MX_LINK_UP true).put pMX F.MX_WIN_SIZE 1 |>.putBit pHX F.HX_APER0_EN true |>.putBit (pgHX 2) F.HX_APER1_EN true).setEnt pMX1 0 5 (eput (eput (eput 0 rgEN 1) rgAPER 1) rgLAST 9) |>.levelTo pMX 0 false
def pba : State := z.setVec 1 5 { z.vec 1 5 with pba := true }
def gp : State := (z.setVec 1 0 { z.vec 1 0 with masked := false, gapRunning := true, held := true }).setRing 240 (rg 0 0 1 4)

theorem witness_HostRings :
    (∃ (s : State) (fn : Fn) (r : Fin 244) (w : Word) (d : List Byte) (e : Entry), e = ringEnt s r.val ∧ ringFn s r.val = fn.val ∧ ringToHost r.val = false ∧ w.toNat < eget e RF.SIZE ∧ w.toNat < 65536 ∧ eget e RF.PIDX < eget e RF.SIZE) ∧
    (∃ (s : State) (fn : Fn) (r : Fin 244) (w : Word) (d : List Byte) (e : Entry), e = ringEnt s r.val ∧ ringFn s r.val = fn.val ∧ ringToHost r.val = false ∧ w.toNat < eget e RF.SIZE ∧ w.toNat < 65536 ∧ eget e RF.PIDX < eget e RF.SIZE) ∧
    (∃ (s : State) (fn : Fn) (r : Fin 244) (w : Word) (l : List (List Byte)), ringFn s r.val = fn.val ∧ ringToHost r.val = false ∧ eget (ringEnt s r.val) RF.SIZE ≤ w.toNat) ∧
    (∃ (s : State) (fn : Fn) (r : Fin 244) (w : Word) (l : List (List Byte)), ringFn s r.val = fn.val ∧ ringToHost r.val = true) ∧
    (∃ (s : State) (fn : Fn) (r : Fin 244) (l : List (List Byte)), ringFn s r.val = fn.val) ∧
    (∃ (s : State) (fn : Fn) (r : Fin 244) (l : List (List Byte)), ringFn s r.val = fn.val) ∧
    (∃ (s : State) (fn : Fn) (r : Fin 244) (w : Option Word) (l : List (List Byte)), ringFn s r.val ≠ fn.val) ∧
    (∃ (s : State) (fn : Fn) (r : Fin 244) (w : Option Word) (l : List (List Byte)), ringFn s r.val ≠ fn.val) ∧
    (∃ (s : State) (fn : Fn) (r : Fin 244) (w : Word), ringFn s r.val = fn.val ∧ ringToHost r.val = true ∧ w.toNat < eget (ringEnt s r.val) RF.SIZE ∧ w.toNat < 65536) ∧
    (∃ (s : State) (fn : Fn) (r : Fin 244) (w : Word), ringFn s r.val = fn.val ∧ ringToHost r.val = true ∧ eget (ringEnt s r.val) RF.SIZE ≤ w.toNat) ∧
    (∃ (s : State) (fn : Fn) (r : Fin 244) (w : Word), ringFn s r.val = fn.val ∧ ringToHost r.val = false) ∧
    (∃ (s : State) (u : Nat), (eget (ringEnt s 241) RF.EN = 0 ∨ eget (ringEnt s 241) RF.PIDX = eget (ringEnt s 241) RF.CIDX ∨ s.dmaUp (ringFn s 241) = false ∨ s.quiescing pHX = true)) ∧
    (∃ (s : State) (u : Nat), (eget (ringEnt s 241) RF.EN = 0 ∨ eget (ringEnt s 241) RF.PIDX = eget (ringEnt s 241) RF.CIDX ∨ s.dmaUp (ringFn s 241) = false ∨ s.quiescing pHX = true)) ∧
    (∃ (s : State) (u : Nat) (q : Nat) (e : Entry) (d : List Byte), e = ringEnt s 241 ∧ eget e RF.EN = 1 ∧ eget e RF.LOC = 0 ∧ eget e RF.PIDX ≠ eget e RF.CIDX ∧ s.dmaUp (ringFn s 241) = true ∧ s.quiescing pHX = false ∧ d = memRead s.hostMem (ringBase e + eget e RF.CIDX * eget e RF.SLOT) (eget e RF.SLOT) ∧ slotWord d 0 / 2 ^ 28 = 6 ∧ 60 ≤ slotLen d ∧ slotLen d ≤ eget e RF.SLOT - 32 ∧ fld (slotWord d 2) 30 29 = 0 ∧ fld (slotWord d 2) 1 0 ≠ 3 ∧ destPair (slotWord d 1) = (1, q) ∧ q < 65536 ∧ eget e RF.SIZE ≠ 0 ∧ eget e RF.CIDX < eget e RF.SIZE) ∧
    (∃ (s : State) (u : Nat) (q : Nat) (e : Entry) (d : List Byte), e = ringEnt s 241 ∧ eget e RF.EN = 1 ∧ eget e RF.LOC = 0 ∧ eget e RF.PIDX ≠ eget e RF.CIDX ∧ s.dmaUp (ringFn s 241) = true ∧ s.quiescing pHX = false ∧ d = memRead s.hostMem (ringBase e + eget e RF.CIDX * eget e RF.SLOT) (eget e RF.SLOT) ∧ slotWord d 0 / 2 ^ 28 = 6 ∧ 60 ≤ slotLen d ∧ slotLen d ≤ eget e RF.SLOT - 32 ∧ fld (slotWord d 2) 30 29 = 0 ∧ fld (slotWord d 2) 1 0 ≠ 3 ∧ destPair (slotWord d 1) = (1, q) ∧ q < 65536 ∧ eget e RF.SIZE ≠ 0 ∧ eget e RF.CIDX < eget e RF.SIZE) ∧
    (∃ (s : State) (fn : Fn) (r : Fin 244) (v : Fin 512), ringFn s r.val = fn.val) ∧
    (∃ (s : State) (fn : Fn) (r : Fin 244), ringFn s r.val ≠ fn.val) ∧
    (∃ (s : State) (r : Fin 244), eget (ringEnt s r.val) RF.EN = 1) ∧
    (∃ (s : State) (r : Fin 244), eget (ringEnt s r.val) RF.EN = 0) ∧
    (∃ (s : State) (fn : Fn) (w : Word), Reaches s fn.val (pHX + 0x0C4) (.hx 0) 0 ∧ 1 ≤ fld w.toNat 3 0 ∧ (s.storeFields (.hx 0) 0 fn.val (pHX + 0x0C4) w.toNat).2 = true ∧ min (fld w.toNat 3 0) (s.get pHX F.HX_LEVEL_MAX) ≠ s.level) ∧
    (∃ (s : State) (fn : Fn) (w : Word), Reaches s fn.val (pHX + 0x0C4) (.hx 0) 0 ∧ fld w.toNat 3 0 = 0 ∨ min (fld w.toNat 3 0) (s.get pHX F.HX_LEVEL_MAX) = s.level) ∧
    (∃ (s : State) (fn : Fn) (w : Word), Reaches s fn.val (pHX + 0x0C4) (.hx 0) 0 ∧ fld w.toNat 3 0 = 0 ∨ min (fld w.toNat 3 0) (s.get pHX F.HX_LEVEL_MAX) = s.level) ∧
    (∃ (s : State) (fn : Fn) (v : Fin 512), (s.vec fn.val v.val).pba = true ∧ (s.vec fn.val v.val).gapRunning = false) ∧
    (∃ (s : State) (fn : Fn) (v : Fin 512), (s.vec fn.val v.val).pba = false) ∧
    (∃ (s : State) (fn : Fn) (v : Fin 512), (s.vec fn.val v.val).gapRunning = true ∧ (s.vec fn.val v.val).held = true ∧ (s.vec fn.val v.val).masked = false ∧ s.assertedVecs.contains (fn.val, v.val) = true) ∧
    (∃ (s : State) (fn : Fn) (v : Fin 512), ((s.vec fn.val v.val).held = false ∨ s.assertedVecs.contains (fn.val, v.val) = false)) :=
  ⟨⟨(rs 241 0 3 4), 1, 241, 2, (List.replicate 100 9), (rg 0 0 3 4), by decide +kernel⟩,
   ⟨((rs 241 0 3 4).setRing 241 (eput (rg 0 0 3 4) RF.LOC 1)), 1, 241, 2, [9], (eput (rg 0 0 3 4) RF.LOC 1), by decide +kernel⟩,
   ⟨(rs 241 0 3 4), 1, 241, 4, [], by decide +kernel⟩,
   ⟨(rs 240 0 3 4), 1, 240, 1, [], by decide +kernel⟩,
   ⟨(rs 241 2 3 4), 1, 241, [], by decide +kernel⟩,
   ⟨(rs 240 2 3 4), 1, 240, [], by decide +kernel⟩,
   ⟨(rs 240 0 3 4), 0, 240, (some 1), [], by decide +kernel⟩,
   ⟨(rs 240 0 3 4), 0, 240, none, [], by decide +kernel⟩,
   ⟨(rs 240 0 3 4), 1, 240, 3, by decide +kernel⟩,
   ⟨(rs 240 0 3 4), 1, 240, 4, by decide +kernel⟩,
   ⟨(rs 241 0 3 4), 1, 241, 3, by decide +kernel⟩,
   ⟨(rs 241 3 3 4), 9, by decide +kernel⟩,
   ⟨z, 9, by decide +kernel⟩,
   ⟨(en pTM (ri inj)), 9, 77, (rg 0 3 0 4), (memRead (ri inj).hostMem (0x10000 + 3 * 96) 96), by decide +kernel⟩,
   ⟨(ri inj), 9, 77, (rg 0 3 0 4), (memRead (ri inj).hostMem (0x10000 + 3 * 96) 96), by decide +kernel⟩,
   ⟨(rs 241 0 3 4), 1, 241, 7, by decide +kernel⟩,
   ⟨(rs 241 0 3 4), 0, 241, by decide +kernel⟩,
   ⟨(rs 241 0 3 4), 241, by decide +kernel⟩,
   ⟨z, 241, by decide +kernel⟩,
   ⟨z, 0, 1, by decide +kernel⟩,
   ⟨z, 0, 0, by decide +kernel⟩,
   ⟨z, 0, 7, by decide +kernel⟩,
   ⟨pba, 1, 5, by decide +kernel⟩,
   ⟨z, 1, 5, by decide +kernel⟩,
   ⟨gp, 1, 0, by decide +kernel⟩,
   ⟨z, 1, 0, by decide +kernel⟩⟩

theorem witness_MemoryPort :
    (∃ (s : State) (fn : Fn) (w : Word), Reaches s fn.val (pMX + 0x008) (.mx 0) 0 ∧ s.en pMX = false ∧ w.toNat.testBit 1 = false ∧ w.toNat.testBit 2 = false) ∧
    (∃ (s : State) (gib : BitVec 11) (sw : Bool) (wd : BitVec 5), s.mx.training = true ∧ s.en pMX = true) ∧
    (∃ (s : State) (gib : BitVec 11) (sw : Bool) (wd : BitVec 5), s.mx.training = true ∧ s.en pMX = true) ∧
    (∃ (s : State) (f : Bool) (gib : BitVec 11) (sw : Bool) (wd : BitVec 5), (s.mx.training = false ∨ s.en pMX = false)) ∧
    (∃ (s : State), s.bit pMX F.MX_LINK_UP = true) ∧
    (∃ (s : State), s.bit pMX F.MX_LINK_UP = false) ∧
    (∃ (s : State), s.en pMX = true ∧ s.raw pMX 0 = true) ∧
    (∃ (s : State), (s.en pMX = false ∨ s.raw pMX 0 = false)) ∧
    (∃ (s : State) (fn : Fn) (x : BitVec 28) (d : List Byte) (n : Nat) (k : List EccFinding) (b : Bool) (a : Nat), s.bit (apEn fn.val).1 (apEn fn.val).2 = true ∧ a = s.get (apBase fn.val).1 (apBase fn.val).2 * 2 ^ 28 + x.toNat ∧ s.mxUp = true ∧ s.mxCheck (decide (fn.val = 0)) true true a d.length = 0) ∧
    (∃ (s : State) (fn : Fn) (x : BitVec 28) (d : List Byte) (n : Nat) (k : List EccFinding) (b : Bool), s.bit (apEn fn.val).1 (apEn fn.val).2 = true ∧ s.mxUp = false) ∧
    (∃ (s : State) (fn : Fn) (x : BitVec 28) (d : List Byte) (n : Nat) (k : List EccFinding) (b : Bool) (a : Nat) (c : Nat), s.bit (apEn fn.val).1 (apEn fn.val).2 = true ∧ a = s.get (apBase fn.val).1 (apBase fn.val).2 * 2 ^ 28 + x.toNat ∧ s.mxUp = true ∧ c = s.mxCheck (decide (fn.val = 0)) true true a d.length ∧ 1 ≤ c ∧ c ≤ 4 ∧ s.bit pMX F.MX_FAULT_ADDR_HI_VALID = false) ∧
    (∃ (s : State) (fn : Fn) (x : BitVec 28) (d : List Byte) (n : Nat) (k : List EccFinding) (b : Bool) (a : Nat) (c : Nat), s.bit (apEn fn.val).1 (apEn fn.val).2 = true ∧ a = s.get (apBase fn.val).1 (apBase fn.val).2 * 2 ^ 28 + x.toNat ∧ s.mxUp = true ∧ c = s.mxCheck (decide (fn.val = 0)) true true a d.length ∧ 1 ≤ c ∧ c ≤ 4 ∧ s.bit pMX F.MX_FAULT_ADDR_HI_VALID = false) ∧
    (∃ (s : State) (fn : Fn) (x : BitVec 28) (d : List Byte) (n : Nat) (k : List EccFinding) (b : Bool) (a : Nat) (c : Nat), s.bit (apEn fn.val).1 (apEn fn.val).2 = true ∧ a = s.get (apBase fn.val).1 (apBase fn.val).2 * 2 ^ 28 + x.toNat ∧ s.mxUp = true ∧ c = s.mxCheck (decide (fn.val = 0)) true true a d.length ∧ 1 ≤ c ∧ c ≤ 4 ∧ s.bit pMX F.MX_FAULT_ADDR_HI_VALID = false) ∧
    (∃ (s : State) (fn : Fn) (x : BitVec 28) (d : List Byte) (n : Nat) (k : List EccFinding) (b : Bool) (a : Nat) (c : Nat), s.bit (apEn fn.val).1 (apEn fn.val).2 = true ∧ a = s.get (apBase fn.val).1 (apBase fn.val).2 * 2 ^ 28 + x.toNat ∧ s.mxUp = true ∧ c = s.mxCheck (decide (fn.val = 0)) true true a d.length ∧ 1 ≤ c ∧ c ≤ 4 ∧ s.bit pMX F.MX_FAULT_ADDR_HI_VALID = false) ∧
    (∃ (s : State) (fn : Fn) (x : BitVec 28) (d : List Byte) (n : Nat) (k : List EccFinding) (b : Bool) (a : Nat) (c : Nat), s.bit (apEn fn.val).1 (apEn fn.val).2 = true ∧ a = s.get (apBase fn.val).1 (apBase fn.val).2 * 2 ^ 28 + x.toNat ∧ s.mxUp = true ∧ c = s.mxCheck (decide (fn.val = 0)) true true a d.length ∧ 1 ≤ c ∧ c ≤ 4 ∧ s.bit pMX F.MX_FAULT_ADDR_HI_VALID = false) ∧
    (∃ (s : State) (x : BitVec 28) (d : List Byte) (n : Nat) (k : List EccFinding) (b : Bool) (a : Nat), s.bit (apEn 1).1 (apEn 1).2 = true ∧ a = s.get (apBase 1).1 (apBase 1).2 * 2 ^ 28 + x.toNat ∧ s.mxUp = true ∧ s.mxCheck false true true a d.length = 8) ∧
    (∃ (s : State) (fn : Fn) (x : BitVec 28) (n : Nat) (a : Nat), s.bit (apEn fn.val).1 (apEn fn.val).2 = true ∧ a = s.get (apBase fn.val).1 (apBase fn.val).2 * 2 ^ 28 + x.toNat ∧ s.mxUp = true ∧ s.mxCheck (decide (fn.val = 0)) true false a n = 0 ∧ s.mxBad a n = []) ∧
    (∃ (s : State) (fn : Fn) (x : BitVec 28) (n : Nat) (a : Nat), s.bit (apEn fn.val).1 (apEn fn.val).2 = true ∧ a = s.get (apBase fn.val).1 (apBase fn.val).2 * 2 ^ 28 + x.toNat ∧ s.mxUp = true ∧ s.mxCheck (decide (fn.val = 0)) true false a n = 0 ∧ s.mxBad a n = []) ∧
    (∃ (s : State) (fn : Fn) (x : BitVec 28) (n : Nat) (p : Bool) (a : Nat), s.bit (apEn fn.val).1 (apEn fn.val).2 = true ∧ a = s.get (apBase fn.val).1 (apBase fn.val).2 * 2 ^ 28 + x.toNat ∧ s.mxUp = true ∧ s.mxCheck (decide (fn.val = 0)) true false a n = 0 ∧ s.mxBad a n ≠ []) ∧
    (∃ (s : State) (fn : Fn) (x : BitVec 28) (n : Nat), s.bit (apEn fn.val).1 (apEn fn.val).2 = true ∧ s.mxUp = false) ∧
    (∃ (s : State) (fn : Fn) (x : BitVec 28) (d : List Byte) (n : Nat) (k : List EccFinding) (b : Bool), s.bit (apEn fn.val).1 (apEn fn.val).2 = false) ∧
    (∃ (s : State) (fn : Fn) (x : BitVec 28) (n : Nat) (k : List EccFinding) (b : Bool), s.bit (apEn fn.val).1 (apEn fn.val).2 = false) ∧
    (∃ (s : State), s.bit pMX1 F.MX_IDE_STAT_SECURE = true) ∧
    (∃ (s : State), s.bit pMX1 F.MX_IDE_STAT_SECURE = false) ∧
    (∃ (s : State) (fn : Fn) (w : Word), Reaches s fn.val (pMX1 + 0x0C0) (.mx 1) 0 ∧ s.mx.stopped = true) ∧
    (∃ (s : State) (fn : Fn) (w : Word), Reaches s fn.val (pMX1 + 0x0C0) (.mx 1) 0) ∧
    (∃ (s : State) (fn : Fn) (w : Word), Reaches s fn.val (pMX1 + 0x0C8) (.mx 1) 0 ∧ s.bit pMX1 F.MX_DOE_CTRL_BUSY = false ∧ s.quiescing pMX = false) ∧
    (∃ (s : State) (l : List Word), s.bit pMX1 F.MX_DOE_CTRL_BUSY = true) ∧
    (∃ (s : State), s.bit pMX1 F.MX_DOE_CTRL_BUSY = true) :=
  ⟨⟨z, 0, 0, by decide +kernel⟩,
   ⟨({ en pMX z with mx := { training := true } }), 1030, true, 16, by decide +kernel⟩,
   ⟨({ en pMX z with mx := { training := true } }), 1030, true, 16, by decide +kernel⟩,
   ⟨z, true, 3, true, 8, by decide +kernel⟩,
   ⟨mx, by decide +kernel⟩,
   ⟨z, by decide +kernel⟩,
   ⟨((en pMX z).levelTo pMX 0 true), by decide +kernel⟩,
   ⟨z, by decide +kernel⟩,
   ⟨mx, 0, 16, [1,2,3], 0, [], false, 16, by decide +kernel⟩,
   ⟨(mx.levelTo pMX 0 true), 0, 16, [1,2,3], 0, [], false, by decide +kernel⟩,
   ⟨(mx.setEnt pMX1 0 5 0), 0, 16, [1,2,3], 0, [], false, 16, 1, by decide +kernel⟩,
   ⟨mx, 0, 0xFFFFFFF, [1,2,3], 0, [], false, 0xFFFFFFF, 1, by decide +kernel⟩,
   ⟨(mx.setEnt pMX1 0 5 (eput (eput (eput 0 rgEN 1) rgPEER 1) rgAPER 1)), 0, 16, [1,2,3], 0, [], false, 16, 2, by decide +kernel⟩,
   ⟨((mx.put pMX F.MX_WIN_SIZE 0)), 0, 16, [1,2,3], 0, [], false, 16, 3, by decide +kernel⟩,
   ⟨(mx.setEnt pMX1 0 5 (eput (eput 0 rgEN 1) rgLAST 9)), 0, 16, [1,2,3], 0, [], false, 16, 4, by decide +kernel⟩,
   ⟨(mx.setEnt pMX1 0 5 (eput (eput 0 rgEN 1) rgSEC 1)), 16, [1,2,3], 0, [], false, 16, by decide +kernel⟩,
   ⟨({ mx with cxl := [(17, 3)] }), 0, 16, 4, 16, by decide +kernel⟩,
   ⟨({ mx with cxl := [(17, 3)] }), 0, 16, 4, 16, by decide +kernel⟩,
   ⟨{ mx with mx := { mx.mx with bad := [1] } }, 0, 16, 4, false, 16, by decide +kernel⟩,
   ⟨(z.putBit (pgHX 2) F.HX_APER1_EN true), 1, 16, 4, by decide +kernel⟩,
   ⟨z, 0, 16, [1], 0, [], false, by decide +kernel⟩,
   ⟨z, 0, 16, 3, [], false, by decide +kernel⟩,
   ⟨(mx.putBit pMX1 F.MX_IDE_STAT_SECURE true), by decide +kernel⟩,
   ⟨z, by decide +kernel⟩,
   ⟨({ mx with mx := { stopped := true } }), 0, 0, by decide +kernel⟩,
   ⟨({ mx with mx := { stopped := true } }), 0, 0, by decide +kernel⟩,
   ⟨({ z with mx := { doeReq := [1,2] } }), 0, 0, by decide +kernel⟩,
   ⟨(z.putBit pMX1 F.MX_DOE_CTRL_BUSY true), [1,2,3], by decide +kernel⟩,
   ⟨(z.putBit pMX1 F.MX_DOE_CTRL_BUSY true), by decide +kernel⟩⟩

end C15

/-! ### Witnesses, chapter 16 -/

namespace C16

abbrev z : State := State.reset
def en (a : Nat) (s : State) : State := s.putBit a F.PAGE_EN true
def ul : State := ((en pgUL z).putBit pgUL (F.UL_GRP_EN.ix 5) true).putBit pgUL (F.UL_GRP_UP.ix 5) true
def pk (n ty : Nat) : List Byte := let b := beBytes 12 5 ++ beBytes 2 ty ++ List.replicate n 7; b ++ fcs b
def st (e : Entry) (r : Recov) : State := (z.setEnt pgUL 0 9 e).setRcv 9 r
def rt (q : Nat) : List Byte := beBytes 12 5 ++ beBytes 2 0xF1C1 ++ beBytes 2 0 ++ beBytes 2 q ++ List.replicate 50 1
def rep : Entry := eput (eput (eput (eput 0 sEN 1) sQA 5) sQB 6) sPORT 3

theorem witness_Uplinks :
    (∃ (s : State) (g : Fin 16) (d : List Byte) (c : Nat) (b : Nat) (u : Nat), s.en pgUL = true ∧ s.bit pgUL F.PAGE_QUIESCE = false ∧ s.groupExists g.val = true ∧ s.bit pgUL (F.UL_GRP_UP.ix g.val) = true ∧ d.drop (d.length - 4) = fcs (d.take (d.length - 4)) ∧ fieldZ d 12 2 ≠ 0x8808 ∧ 64 ≤ d.length ∧ d.length ≤ s.get pgUL (F.UL_GRP_MAX_PKT.ix g.val) ∧ s.ceMatch d = none ∧ s.bit pLK F.PAGE_QUIESCE = false ∧ s.en pLK = true ∧ s.bit pLK F.ST_READY = true) ∧
    (∃ (s : State) (g : Fin 16) (d : List Byte) (u : Nat), s.en pgUL = true ∧ s.bit pgUL F.PAGE_QUIESCE = false ∧ s.groupExists g.val = true ∧ s.bit pgUL (F.UL_GRP_UP.ix g.val) = true ∧ d.drop (d.length - 4) ≠ fcs (d.take (d.length - 4))) ∧
    (∃ (s : State) (g : Fin 16) (d : List Byte) (u : Nat), s.en pgUL = true ∧ s.bit pgUL F.PAGE_QUIESCE = false ∧ s.groupExists g.val = true ∧ s.bit pgUL (F.UL_GRP_UP.ix g.val) = true ∧ d.drop (d.length - 4) = fcs (d.take (d.length - 4)) ∧ fieldZ d 12 2 = 0x8808) ∧
    (∃ (s : State) (g : Fin 16) (d : List Byte) (u : Nat), s.en pgUL = true ∧ s.bit pgUL F.PAGE_QUIESCE = false ∧ s.groupExists g.val = true ∧ s.bit pgUL (F.UL_GRP_UP.ix g.val) = true ∧ d.drop (d.length - 4) = fcs (d.take (d.length - 4)) ∧ fieldZ d 12 2 ≠ 0x8808 ∧ (d.length < 64 ∨ s.get pgUL (F.UL_GRP_MAX_PKT.ix g.val) < d.length)) ∧
    (∃ (s : State) (g : Fin 16) (d : List Byte) (u : Nat), s.en pgUL = true ∧ s.bit pgUL F.PAGE_QUIESCE = false ∧ s.groupExists g.val = true ∧ s.bit pgUL (F.UL_GRP_UP.ix g.val) = true ∧ d.drop (d.length - 4) = fcs (d.take (d.length - 4)) ∧ fieldZ d 12 2 ≠ 0x8808 ∧ (d.length < 64 ∨ s.get pgUL (F.UL_GRP_MAX_PKT.ix g.val) < d.length)) ∧
    (∃ (s : State) (g : Fin 16) (d : List Byte) (u : Nat), (s.en pgUL = false ∨ s.bit pgUL F.PAGE_QUIESCE = true ∨ s.groupExists g.val = false ∨ s.bit pgUL (F.UL_GRP_UP.ix g.val) = false)) ∧
    (∃ (s : State) (g : Fin 16) (d : List Byte) (u : Nat), (s.en pgUL = false ∨ s.bit pgUL F.PAGE_QUIESCE = true ∨ s.groupExists g.val = false ∨ s.bit pgUL (F.UL_GRP_UP.ix g.val) = false)) ∧
    (∃ (s : State) (g : Fin 16), s.groupExists g.val = true) ∧
    (∃ (s : State) (g : Fin 16), s.groupExists g.val = false) ∧
    (∃ (s : State) (g : Fin 16), s.groupExists g.val = true ∧ s.groupLocked g.val = true) ∧
    (∃ (s : State) (g : Fin 16), (s.groupExists g.val = false ∨ s.groupLocked g.val = false)) ∧
    (∃ (s : State) (i : Fin 4096) (u : Nat), eget (s.strm i.val) sEN = 1 ∧ eget (s.strm i.val) sDIR = 1 ∧ (s.rcv i.val).any = false ∧ (s.rcv i.val).at_ + eget (s.strm i.val) sRESETMS * (cyclesPerSec / 1000) ≤ (s.at u).now) ∧
    (∃ (s : State) (i : Fin 4096) (u : Nat), (eget (s.strm i.val) sEN = 0 ∨ (s.rcv i.val).any = true ∨ (s.at u).now < (s.rcv i.val).at_ + eget (s.strm i.val) sRESETMS * (cyclesPerSec / 1000))) ∧
    (∃ (s : State) (i : Fin 4096) (u : Nat), 64 ≤ (s.rcv i.val).rogue ∧ (s.at u).secSince s.ul.elimAt = true) ∧
    (∃ (s : State) (i : Fin 4096) (u : Nat), 64 ≤ (s.rcv i.val).rogue ∧ (s.at u).secSince s.ul.elimAt = false) ∧
    (∃ (s : State) (i : Fin 4096) (u : Nat), (s.rcv i.val).rogue < 64) ∧
    (∃ (s : State) (i : Nat) (x : LkIn), eget (s.strm i) sSEQM = 0 ∧ x.ord < 1024 ∧ (eget (s.strm i) sUNSURE = 0 ∨ x.unsure = false) ∧ s.rootOf 4 (eget (s.strm i) sQA) ≠ s.rootOf 4 (eget (s.strm i) sQB)) ∧
    (∃ (s : State) (i : Nat) (x : LkIn), eget (s.strm i) sSEQM = 0 ∧ 1024 ≤ x.ord) ∧
    (∃ (s : State) (i : Nat) (o : Nat) (d : List Byte), (parse d).rtag = some o ∧ (s.rcv i).any = true) ∧
    (∃ (s : State) (i : Nat) (o : Nat) (d : List Byte), (parse d).rtag = some o ∧ (s.rcv i).any = false ∧ (s.rcv i).rogue < 64 ∧ s.now < (s.rcv i).at_ + eget (s.strm i) sRESETMS * (cyclesPerSec / 1000) ∧ 2 ≤ eget (s.strm i) sHIST ∧ fieldZ d (o + 4) 2 = eget (s.strm i) sSEQ ∧ (s.rcv i).hist.testBit 0 = true) :=
  ⟨⟨((en pLK ul).putBit pLK F.ST_READY true), 5, (pk 46 0x900), 3, 4, 9, by decide +kernel⟩,
   ⟨ul, 5, (List.replicate 64 1), 9, by decide +kernel⟩,
   ⟨ul, 5, (pk 46 0x8808), 9, by decide +kernel⟩,
   ⟨ul, 5, (pk 45 0x900), 9, by decide +kernel⟩,
   ⟨(ul.put pgUL (F.UL_GRP_MAX_PKT.ix 5) 64), 5, (pk 47 0x900), 9, by decide +kernel⟩,
   ⟨z, 5, (pk 46 0x900), 9, by decide +kernel⟩,
   ⟨(ul.putBit pgUL F.PAGE_QUIESCE true), 5, (pk 46 0x900), 9, by decide +kernel⟩,
   ⟨ul, 5, by decide +kernel⟩,
   ⟨z, 5, by decide +kernel⟩,
   ⟨((ul.put pgUL (F.UL_GRP_WIDTH.ix 5) 1).put (pgLN 101) F.LN_STATUS_STATE 2 |>.put (pgLN 102) F.LN_STATUS_STATE 2), 5, by decide +kernel⟩,
   ⟨z, 5, by decide +kernel⟩,
   ⟨(st (eput (eput (eput 0 sEN 1) sDIR 1) sRESETMS 1) { any := false, at_ := 5 }), 9, (5 + cyclesPerSec / 1000), by decide +kernel⟩,
   ⟨(st (eput (eput (eput 0 sEN 1) sDIR 1) sRESETMS 1) { any := false, at_ := 6 }), 9, (5 + cyclesPerSec / 1000), by decide +kernel⟩,
   ⟨(st 0 { rogue := 64 }), 9, 5, by decide +kernel⟩,
   ⟨({ st 0 { rogue := 64 } with ul := { (st 0 { rogue := 64 }).ul with elimAt := some 5 } }), 9, 5, by decide +kernel⟩,
   ⟨z, 9, 5, by decide +kernel⟩,
   ⟨(((((z.putE pTM 4 6 nPARENT 1).putE pTM 5 1 nPARENT 1).putE pTM 6 1 nPARENT 1)).setEnt pgUL 0 9 rep), 9, ({ src := 3, bytes := [], sfc := 65, ord := 1023 }), by decide +kernel⟩,
   ⟨(z.setEnt pgUL 0 9 rep), 9, ({ src := 3, bytes := [], sfc := 65, ord := 1024 }), by decide +kernel⟩,
   ⟨(st (eput 0 sHIST 8) {}), 9, 12, (rt 300), by decide +kernel⟩,
   ⟨(st (eput (eput (eput 0 sHIST 8) sRESETMS 9) sSEQ 300) { any := false, hist := 1 }), 9, 12, (rt 300), by decide +kernel⟩⟩

end C16

/-! ### Witnesses, chapter 17 -/

namespace C17

abbrev z : State := State.reset
def en (a : Nat) (s : State) : State := s.putBit a F.PAGE_EN true
def ce : State := (en pgCE z).putBit pgCE F.CE_CFG_EN true |>.put pgCE F.CE_CFG_ETYPE 0x88D8 |>.setEnt pgCE 0 7 (eput (eput (eput 0 ceEN 1) ceECID 0x55) ceUQ 9)
def dat (q : Nat) : List Byte := finish (beBytes 12 5 ++ beBytes 2 0x88D8 ++ beBytes 4 (0x55 * 4096) ++ beBytes 4 (2^27 + q) ++ List.replicate 32 0x11)
def inq (q : Nat) (k : Ckt → Ckt) : State := let s := ce.modCkt 7 k; { s with ce := { s.ce with inq := [(7, dat q), (8, [])] } }
def pp (q : Nat) : List Byte := (ce.ceHeader (dat q)).getD []
def cf (b : Nat) : CFrame := { bytes := List.replicate 32 (BitVec.ofNat 8 b), l := false }

theorem witness_Circuits :
    (∃ (s : State) (c : Nat) (q : Nat) (d : List Byte) (p : List Byte) (u : Nat) (r : List (Nat × List Byte)), s.ce.inq = (c, d) :: r ∧ s.cktOn c = true ∧ s.ceHeader d = some p ∧ ((p.drop 8).length = frameBytes (s.cktType c) + 4 ∨ (d.length ≤ 64 ∧ frameBytes (s.cktType c) + 4 ≤ (p.drop 8).length)) ∧ q = beNat ((p.drop 4).take 4) % 65536 ∧ (s.ckt c).dsSeq.all (fun x => (q + 65536 - x) % 65536 == 1) = true ∧ c < 2048) ∧
    (∃ (s : State) (c : Nat) (q : Nat) (d : List Byte) (p : List Byte) (u : Nat) (r : List (Nat × List Byte)), s.ce.inq = (c, d) :: r ∧ s.cktOn c = true ∧ s.ceHeader d = some p ∧ ((p.drop 8).length = frameBytes (s.cktType c) + 4 ∨ (d.length ≤ 64 ∧ frameBytes (s.cktType c) + 4 ≤ (p.drop 8).length)) ∧ q = beNat ((p.drop 4).take 4) % 65536 ∧ (s.ckt c).dsSeq.all (fun x => (q + 65536 - x) % 65536 == 1) = true ∧ c < 2048) ∧
    (∃ (s : State) (c : Nat) (q : Nat) (x : Nat) (d : List Byte) (p : List Byte) (u : Nat) (r : List (Nat × List Byte)), s.ce.inq = (c, d) :: r ∧ s.cktOn c = true ∧ s.ceHeader d = some p ∧ ((p.drop 8).length = frameBytes (s.cktType c) + 4 ∨ (d.length ≤ 64 ∧ frameBytes (s.cktType c) + 4 ≤ (p.drop 8).length)) ∧ q = beNat ((p.drop 4).take 4) % 65536 ∧ (s.ckt c).dsSeq = some x ∧ ((q + 65536 - x) % 65536 = 0 ∨ 32767 < (q + 65536 - x) % 65536)) ∧
    (∃ (s : State) (c : Nat) (q : Nat) (x : Nat) (d : List Byte) (p : List Byte) (u : Nat) (r : List (Nat × List Byte)), s.ce.inq = (c, d) :: r ∧ s.cktOn c = true ∧ s.ceHeader d = some p ∧ ((p.drop 8).length = frameBytes (s.cktType c) + 4 ∨ (d.length ≤ 64 ∧ frameBytes (s.cktType c) + 4 ≤ (p.drop 8).length)) ∧ q = beNat ((p.drop 4).take 4) % 65536 ∧ (s.ckt c).dsSeq = some x ∧ ((q + 65536 - x) % 65536 = 0 ∨ 32767 < (q + 65536 - x) % 65536)) ∧
    (∃ (s : State) (c : Nat) (q : Nat) (x : Nat) (d : List Byte) (p : List Byte) (u : Nat) (r : List (Nat × List Byte)), s.ce.inq = (c, d) :: r ∧ s.cktOn c = true ∧ s.ceHeader d = some p ∧ ((p.drop 8).length = frameBytes (s.cktType c) + 4 ∨ (d.length ≤ 64 ∧ frameBytes (s.cktType c) + 4 ≤ (p.drop 8).length)) ∧ q = beNat ((p.drop 4).take 4) % 65536 ∧ (s.ckt c).dsSeq = some x ∧ 2 ≤ (q + 65536 - x) % 65536 ∧ (q + 65536 - x) % 65536 ≤ 32767 ∧ (s.ckt c).ds = []) ∧
    (∃ (s : State) (c : Nat) (q : Nat) (x : Nat) (d : List Byte) (p : List Byte) (u : Nat) (r : List (Nat × List Byte)), s.ce.inq = (c, d) :: r ∧ s.cktOn c = true ∧ s.ceHeader d = some p ∧ ((p.drop 8).length = frameBytes (s.cktType c) + 4 ∨ (d.length ≤ 64 ∧ frameBytes (s.cktType c) + 4 ≤ (p.drop 8).length)) ∧ q = beNat ((p.drop 4).take 4) % 65536 ∧ (s.ckt c).dsSeq = some x ∧ 2 ≤ (q + 65536 - x) % 65536 ∧ (q + 65536 - x) % 65536 ≤ 32767 ∧ (s.ckt c).ds = []) ∧
    (∃ (s : State) (u : Nat) (c : Fin 1088), s.cktOn c.val = true) ∧
    (∃ (s : State) (u : Nat) (c : Fin 1088), s.cktOn c.val = true) ∧
    (∃ (s : State) (u : Nat) (c : Fin 1088), s.cktOn c.val = true) ∧
    (∃ (s : State) (u : Nat) (c : Fin 1088), s.cktOn c.val = false) ∧
    (∃ (s : State) (c : Fin 1088), s.cget c.val ceALIGNED = 1 ∧ 3 ≤ (s.ckt c.val).bad) ∧
    (∃ (s : State) (c : Fin 1088), (s.cget c.val ceALIGNED = 0 ∨ (s.ckt c.val).bad < 3)) :=
  ⟨⟨(inq 5 id), 7, 5, (dat 5), (pp 5), 9, [(8, [])], by decide +kernel⟩,
   ⟨(inq 0 (fun k => { k with dsSeq := some 65535, ds := [cf 1, cf 2] })), 7, 0, (dat 0), (pp 0), 9, [(8, [])], by decide +kernel⟩,
   ⟨(inq 5 (fun k => { k with dsSeq := some 5 })), 7, 5, 5, (dat 5), (pp 5), 9, [(8, [])], by decide +kernel⟩,
   ⟨(inq 5 (fun k => { k with dsSeq := some 6 })), 7, 5, 6, (dat 5), (pp 5), 9, [(8, [])], by decide +kernel⟩,
   ⟨(inq 5 (fun k => { k with dsSeq := some 3 })), 7, 5, 3, (dat 5), (pp 5), 9, [(8, [])], by decide +kernel⟩,
   ⟨(inq 32767 (fun k => { k with dsSeq := some 0 })), 7, 32767, 0, (dat 32767), (pp 32767), 9, [(8, [])], by decide +kernel⟩,
   ⟨(ce), 9, 7, by decide +kernel⟩,
   ⟨(ce.modCkt 7 (fun k => { k with us := [cf 1, cf 2], usSeq := 65535 })), 9, 7, by decide +kernel⟩,
   ⟨(ce.modCkt 7 (fun k => { k with usLast := some (cf 1), usSeq := 5 })), 9, 7, by decide +kernel⟩,
   ⟨z, 9, 7, by decide +kernel⟩,
   ⟨((cput 7 ceALIGNED 1 ce).modCkt 7 (fun k => { k with bad := 3 })), 7, by decide +kernel⟩,
   ⟨(cput 7 ceALIGNED 1 ce), 7, by decide +kernel⟩⟩

end C17

/-! ### Witnesses, chapter 18 -/

namespace C18

abbrev z : State := State.reset
def px (st r : Nat) (f : Px → Px) : State := let s := ((z.put pgPW F.PW_STATE_STATE 0).putBit pgPX F.PX_CFG_EN true).put pgPX F.PX_STATE_STATE st |>.put pgPX F.PX_CFG_ROLE r; { s with px := f s.px }
def lan (f : Px → Px) (p : Px) : Px := f { p with lanes := sset 0 (sset 0 (sset 0 (sset 0 [] 0 1) 1 2) 2 3) 3 4, peerVer := 2 }
def frn (n : Nat) (a : Byte) : LigFrame := let h : List Byte := [0] ++ beBytes 4 n ++ [2]; { hdr := h ++ beBytes 2 (crc16 h), rs := true, head := [a, 0, 0, 7, 3, 2, 0, 0] ++ beBytes 8 0 ++ List.replicate 16 0, maps := [] }
def fr (a : Byte) : LigFrame := frn 5 a
def wn (st : Nat) : Nat := hbBits 0 st 99
def wd (st : Nat) : BitVec 125 := BitVec.ofNat 125 (wn st)
def pat : BitVec 64 := BitVec.ofNat 64 ligPattern
def rd (ok : Bool) (g : Nat) : CkRead := let h : List Byte := leBytes 4 0xBE110500 ++ [2, 0, 0, 0] ++ leBytes 8 g ++ List.replicate 44 0; { record := h ++ leBytes 4 (if ok then crc32c h else 1), crcGood := true, poison := false, unwraps := true, data := { terms := 1, times := [(0, 0, 3)] }, deltas := [] }
def ms3 : Nat := 30 * cycles100us
def up (s : State) : State := (s.putBit pMX F.PAGE_EN true).putBit pMX F.MX_LINK_UP true |>.put pMX F.MX_WIN_SIZE 1 |>.levelTo pMX 0 false
def bel (f : Px → Px) : State := let s := ((up (px 4 0 f)).setEnt pMX1 0 5 (eput (eput 0 rgEN 1) rgLAST 900)).putBit pgSC F.SC_PAIR_STAT_VALID true; { s with sc := { s.sc with pair := 5 } }
def sl (r : Fin 3) (g : Nat) : CkSlot := { record := r, gen := g, data := { terms := 1, times := [(0, 0, 3)] } }
def key (s : State) : State := { s with sc := { s.sc with pair := 5 } }

theorem witness_LigatureAndHeartbeats :
    (∃ (s : State) (l : Fin 4) (f : LigFrame) (u : Nat), s.pxEn = true ∧ s.resting = false ∧ sget 0 s.px.lanes l.val ≠ 0 ∧ ligGood f = false) ∧
    (∃ (s : State) (l : Fin 4) (f : LigFrame) (u : Nat), s.pxEn = true ∧ s.resting = false ∧ sget 0 s.px.lanes l.val ≠ 0 ∧ ligGood f = false) ∧
    (∃ (s : State) (l : Fin 4) (f : LigFrame) (u : Nat), (s.pxEn = false ∨ s.resting = true ∨ sget 0 s.px.lanes l.val = 0)) ∧
    (∃ (s : State) (l : Fin 4) (f : LigFrame) (u : Nat), s.pxEn = true ∧ s.resting = false ∧ sget 0 s.px.lanes l.val ≠ 0 ∧ ligGood f = true ∧ s.px.fcnt.getD (ligFcnt f) = ligFcnt f ∧ s.px.ahead = [] ∧ f.maps = [] ∧ s.px.hbRx ≠ some (ligHbCnt f) ∧ s.pxState = 4 ∧ s.pxRole = 0 ∧ ligSwqA f = s.get pgPX F.PX_SWQ_RX_A ∧ ligSwqB f = s.get pgPX F.PX_SWQ_RX_B) ∧
    (∃ (s : State) (l : Fin 4) (f : LigFrame) (u : Nat), s.pxEn = true ∧ s.resting = false ∧ sget 0 s.px.lanes l.val ≠ 0 ∧ ligGood f = true ∧ s.px.fcnt.getD (ligFcnt f) = ligFcnt f ∧ s.px.ahead = [] ∧ f.maps = [] ∧ s.px.hbRx = some (ligHbCnt f) ∧ s.pxState = 3 ∧ ligSwitch f = 0 ∧ s.px.candA = (ligSwqA f, 2) ∧ ligSwqA f ≠ s.get pgPX F.PX_SWQ_RX_A ∧ ligSwqB f = s.get pgPX F.PX_SWQ_RX_B) ∧
    (∃ (s : State) (l : Fin 4) (f : LigFrame) (u : Nat), s.pxEn = true ∧ s.resting = false ∧ sget 0 s.px.lanes l.val ≠ 0 ∧ ligGood f = true ∧ s.px.fcnt.getD (ligFcnt f) = ligFcnt f ∧ s.px.ahead = [] ∧ f.maps = [] ∧ s.px.hbRx = some (ligHbCnt f) ∧ s.pxState = 3 ∧ ligSwitch f = 0 ∧ s.px.candA.2 < 2) ∧
    (∃ (s : State) (l : Fin 4) (f : LigFrame) (u : Nat) (c : Nat), s.pxEn = true ∧ s.resting = false ∧ sget 0 s.px.lanes l.val ≠ 0 ∧ ligGood f = true ∧ s.px.fcnt = some c ∧ s.px.ahead = [] ∧ fcntDist c (ligFcnt f) ≠ 0) ∧
    (∃ (s : State) (l : Fin 4) (f : LigFrame) (u : Nat) (c : Nat), s.pxEn = true ∧ s.resting = false ∧ sget 0 s.px.lanes l.val ≠ 0 ∧ ligGood f = true ∧ s.px.fcnt = some c ∧ s.px.ahead = [] ∧ fcntDist c (ligFcnt f) ≠ 0) ∧
    (∃ (s : State) (l : Fin 4) (x : Fin 4) (w : BitVec 64) (v : BitVec 64), s.px.restored = false ∧ s.resting = false ∧ ligDiffer w = 0 ∧ ligDiffer v ≤ 3) ∧
    (∃ (s : State) (l : Fin 4) (x : Fin 4) (w : BitVec 64) (v : BitVec 64), s.px.restored = false ∧ s.resting = false ∧ ligDiffer w = 0 ∧ ligDiffer v ≤ 3) ∧
    (∃ (s : State) (l : Fin 4) (x : Fin 4) (w : BitVec 64) (v : BitVec 64), (ligDiffer w ≠ 0 ∨ 3 < ligDiffer v)) ∧
    (∃ (s : State) (l : Fin 4) (x : Fin 4) (w : BitVec 64) (v : BitVec 64), (ligDiffer w ≠ 0 ∨ 3 < ligDiffer v)) ∧
    (∃ (s : State) (l : Fin 4) (w : BitVec 64) (x : BitVec 64) (y : BitVec 64) (v : BitVec 64), s.resting = false ∧ 3 < ligDiffer w ∧ 3 < ligDiffer x ∧ 3 < ligDiffer y ∧ 3 < ligDiffer v) ∧
    (∃ (s : State) (l : Fin 4) (w : BitVec 64) (x : BitVec 64) (y : BitVec 64) (v : BitVec 64), (ligDiffer w ≤ 3 ∨ ligDiffer x ≤ 3 ∨ ligDiffer y ≤ 3 ∨ ligDiffer v ≤ 3)) ∧
    (∃ (s : State) (u : Nat), s.pxEn = true ∧ s.inRun = true ∧ s.bit pgPX F.PX_CFG_REVERT = false ∧ s.px.req = 0) ∧
    (∃ (s : State) (u : Nat), (s.pxEn = false ∨ s.inRun = false)) ∧
    (∃ (s : State), s.pxEn = true ∧ s.resting = false ∧ s.pxState < 8) ∧
    (∃ (s : State), s.pxEn = true ∧ s.resting = true) ∧
    (∃ (s : State), s.pxEn = false) ∧
    (∃ (s : State) (w : BitVec 125) (u : Nat) (v : Nat), s.pxEn = true ∧ hbSync w.toNat = some (s.bit pgPX F.PX_STATE_B_INV, v) ∧ hbGood v = true ∧ s.pxState = 4 ∧ s.pxRole = 0 ∧ s.resting = false) ∧
    (∃ (s : State) (w : BitVec 125) (u : Nat) (v : Nat), s.pxEn = true ∧ hbSync w.toNat = some (s.bit pgPX F.PX_STATE_B_INV, v) ∧ hbGood v = true ∧ s.pxState = 4 ∧ s.pxRole = 0 ∧ s.resting = false) ∧
    (∃ (s : State) (w : BitVec 125) (u : Nat) (v : Nat) (r : Bool), s.pxEn = true ∧ hbSync w.toNat = some (r, v) ∧ hbGood v = false ∧ r ≠ s.bit pgPX F.PX_STATE_B_INV ∧ s.resting = false) ∧
    (∃ (s : State) (w : BitVec 125) (u : Nat), (s.pxEn = false ∨ hbSync w.toNat = none)) ∧
    (∃ (s : State) (w : BitVec 125) (u : Nat), (s.pxEn = false ∨ hbSync w.toNat = none)) ∧
    (∃ (s : State) (u : Nat), s.pxEn = true ∧ s.resting = false ∧ s.inRun = true ∧ (s.at u).silent s.px.aAt = true) ∧
    (∃ (s : State) (u : Nat), (s.pxEn = false ∨ (s.resting = false ∧ (s.at u).silent s.px.aAt = false))) ∧
    (∃ (s : State) (u : Nat), (s.pxEn = false ∨ (s.resting = false ∧ (s.at u).silent s.px.aAt = false))) ∧
    (∃ (s : State) (u : Nat), s.pxEn = true ∧ s.resting = false ∧ (s.at u).silent s.px.bAt = true) ∧
    (∃ (s : State) (u : Nat), (s.pxEn = false ∨ (s.at u).silent s.px.bAt = false)) :=
  ⟨⟨(px 4 0 (lan id)), 1, ({ fr 0 with rs := false }), 9, by decide +kernel⟩,
   ⟨(px 4 0 (lan id)), 1, ({ fr 0 with hdr := List.replicate 8 1 }), 9, by decide +kernel⟩,
   ⟨z, 1, (fr 0), 9, by decide +kernel⟩,
   ⟨(px 4 0 (lan id)), 1, (fr 0), 9, by decide +kernel⟩,
   ⟨(px 3 0 (lan (fun p => { p with hbRx := some 7, candA := (0x57, 2) }))), 1, (fr 0x57), 9, by decide +kernel⟩,
   ⟨(px 3 0 (lan (fun p => { p with hbRx := some 7, candA := (0x57, 1) }))), 1, (fr 0x57), 9, by decide +kernel⟩,
   ⟨(px 4 0 (lan (fun p => { p with fcnt := some 3 }))), 1, (frn 5 0), 9, 3, by decide +kernel⟩,
   ⟨(px 4 0 (lan (fun p => { p with fcnt := some 3 }))), 1, (frn 2 0), 9, 3, by decide +kernel⟩,
   ⟨((px 3 0 id)), 0, 2, pat, (pat ^^^ 7), by decide +kernel⟩,
   ⟨(px 3 0 (lan id)), 3, 3, pat, pat, by decide +kernel⟩,
   ⟨(px 3 0 id), 0, 2, pat, 0, by decide +kernel⟩,
   ⟨(px 3 0 id), 0, 2, 0, pat, by decide +kernel⟩,
   ⟨((px 3 0 (lan id)).put pgPX F.PX_STATE_PEER 3), 3, 0, 0, 0, (pat ^^^ 15), by decide +kernel⟩,
   ⟨(px 3 0 (lan id)), 3, 0, 0, (pat ^^^ 7), 0, by decide +kernel⟩,
   ⟨((px 4 0 (fun p => { p with hbSent := 65535 })).putBit pgPX F.PX_CFG_REVERT false), 9, by decide +kernel⟩,
   ⟨z, 9, by decide +kernel⟩,
   ⟨(px 4 0 id), by decide +kernel⟩,
   ⟨((px 1 0 id).put pgPW F.PW_STATE_STATE 2), by decide +kernel⟩,
   ⟨z, by decide +kernel⟩,
   ⟨(px 4 0 id), (wd 6), 9, (wn 6), by decide +kernel⟩,
   ⟨(px 4 0 id), (wd 3), 9, (wn 3), by decide +kernel⟩,
   ⟨(px 4 0 id), (BitVec.ofNat 125 (2 ^ 125 - 1 - (wn 6 ^^^ 2 ^ 30))), 9, (wn 6 ^^^ 2 ^ 30), true, by decide +kernel⟩,
   ⟨z, (wd 6), 9, by decide +kernel⟩,
   ⟨(px 4 0 id), 5, 9, by decide +kernel⟩,
   ⟨((px 4 0 id).put pgPX F.PX_STATE_PEER 3), ms3, by decide +kernel⟩,
   ⟨z, 9, by decide +kernel⟩,
   ⟨(px 4 0 id), (ms3 - 1), by decide +kernel⟩,
   ⟨(px 4 0 id), ms3, by decide +kernel⟩,
   ⟨(px 4 0 id), (ms3 - 1), by decide +kernel⟩⟩

theorem witness_DecidingWhichIsActive :
    (∃ (s : State) (w : Byte) (u : Nat), s.pxEn = true ∧ s.px.failed = false ∧ s.resting = false ∧ (s.at u).silent s.px.aAt = true ∧ (s.at u).silent s.px.bAt = true ∧ s.pxState = 4 ∧ s.pxRole = 0 ∧ s.px.peerVer ≠ 1) ∧
    (∃ (s : State) (w : Byte) (u : Nat), s.pxEn = true ∧ s.px.failed = false ∧ s.resting = false ∧ (s.at u).silent s.px.aAt = true ∧ (s.at u).silent s.px.bAt = true ∧ s.pxState = 4 ∧ s.pxRole = 1 ∧ (s.at u).witRun = false ∧ s.px.peerVer ≠ 1) ∧
    (∃ (s : State) (w : Byte) (u : Nat), s.pxEn = true ∧ s.px.failed = false ∧ s.resting = false ∧ (s.at u).silent s.px.aAt = true ∧ (s.at u).silent s.px.bAt = true ∧ s.pxState = 3 ∧ (s.at u).witRun = false ∧ s.bit pgPX F.PX_CMD_STAT_LO = false ∧ s.px.peerVer ≠ 1) ∧
    (∃ (s : State) (w : Byte) (u : Nat), s.pxEn = true ∧ s.px.failed = false ∧ s.resting = false ∧ (s.at u).silent s.px.aAt = true ∧ (s.at u).silent s.px.bAt = true ∧ s.pxState = 3 ∧ (s.at u).witRun = false ∧ s.bit pgPX F.PX_CMD_STAT_LO = false ∧ s.px.peerVer ≠ 1) ∧
    (∃ (s : State) (w : Byte) (u : Nat), s.pxEn = true ∧ s.px.failed = false ∧ s.resting = true ∧ (s.at u).silent s.px.bAt = true ∧ s.pxState = 1 ∧ (w.toNat &&& s.get pgPX F.PX_WIT_EN) = 0 ∧ s.bit pgPX F.PX_CMD_STAT_LO = false ∧ s.px.peerVer ≠ 1 ∧ (s.get pgPW F.PW_WAKE_EN_EN).testBit 0 = true) ∧
    (∃ (s : State) (w : Byte) (u : Nat), (s.pxEn = false ∨ s.px.failed = true ∨ (s.at u).silent s.px.bAt = false ∨ (s.resting = false ∧ (s.at u).silent s.px.aAt = false))) ∧
    (∃ (s : State) (w : Byte) (u : Nat), s.pxEn = true ∧ s.px.failed = true ∧ s.resting = false ∧ s.pxState = 7 ∧ (s.at u).witRun = true ∧ s.bit pgPX F.PX_CFG_COLD = false ∧ s.px.peerVer ≠ 1 ∧ s.get2 pgPX F.PX_PORTS_LO_PORTS F.PX_PORTS_HI_PORTS = 0) ∧
    (∃ (s : State) (w : Byte) (u : Nat), s.pxEn = true ∧ s.px.failed = true ∧ s.resting = true ∧ s.pxState = 6) ∧
    (∃ (s : State) (w : Byte) (u : Nat), (s.pxEn = false ∨ s.px.failed = false)) ∧
    (∃ (s : State) (u : Nat), s.pxEn = true ∧ s.pxState = 7 ∧ s.px.failed = true ∧ s.pxMismatch = false ∧ s.bit pgPX F.PX_CMD_STAT_LO = false ∧ (s.at u).witRun = false ∧ s.deadline ≤ (s.at u).now ∧ s.resting = false) ∧
    (∃ (s : State) (u : Nat), (s.pxEn = false ∨ s.pxState ≠ 7 ∨ s.px.failed = false ∨ s.bit pgPX F.PX_CMD_STAT_LO = true ∨ (s.at u).witRun = true ∨ (s.at u).now < s.deadline)) ∧
    (∃ (s : State) (u : Nat), (s.pxEn = false ∨ s.pxState ≠ 7 ∨ s.px.failed = false ∨ s.bit pgPX F.PX_CMD_STAT_LO = true ∨ (s.at u).witRun = true ∨ (s.at u).now < s.deadline)) ∧
    (∃ (s : State) (u : Nat), s.pxEn = true ∧ s.pxState = 5 ∧ s.px.light = false) ∧
    (∃ (s : State) (u : Nat), s.pxEn = true ∧ s.pxState = 5 ∧ s.px.light = false) ∧
    (∃ (s : State) (u : Nat), s.pxEn = true ∧ s.pxState = 5 ∧ s.px.light = true ∧ s.bit pgPX F.PX_CFG_COLD = false ∧ s.pxVersion ≠ 1 ∧ s.get2 pgPX F.PX_PORTS_LO_PORTS F.PX_PORTS_HI_PORTS = 0) ∧
    (∃ (s : State) (u : Nat), (s.pxEn = false ∨ s.pxState ≠ 5)) ∧
    (∃ (s : State) (n : Fin 48), s.pxEn = true ∧ s.pxState = 5 ∧ s.protected_ n.val = true ∧ 8 ≤ (sget (0, 0) s.px.ok n.val).2 ∧ s.pxMismatch = false ∧ s.resting = false) ∧
    (∃ (s : State), (s.pxEn = false ∨ s.pxState ≠ 5 ∨ s.get2 pgPX F.PX_PORTS_LO_PORTS F.PX_PORTS_HI_PORTS = 0)) :=
  ⟨⟨(px 4 0 id), 0, ms3, by decide +kernel⟩,
   ⟨(px 4 1 id), 0, ms3, by decide +kernel⟩,
   ⟨(px 3 0 id), 0, ms3, by decide +kernel⟩,
   ⟨(px 3 1 id), 0, ms3, by decide +kernel⟩,
   ⟨((px 1 1 id).put pgPW F.PW_STATE_STATE 2), 0, ms3, by decide +kernel⟩,
   ⟨(px 4 1 id), 0, (ms3 - 1), by decide +kernel⟩,
   ⟨((px 7 1 (fun p => { p with failed := true, heard := some 5 })).putBit pgPX F.PX_CFG_COLD false), 0, 9, by decide +kernel⟩,
   ⟨((px 6 1 (fun p => { p with failed := true })).put pgPW F.PW_STATE_STATE 2), 0, 9, by decide +kernel⟩,
   ⟨z, 0, 9, by decide +kernel⟩,
   ⟨(px 7 1 (fun p => { p with failed := true })), (3 * ms3), by decide +kernel⟩,
   ⟨(px 7 1 (fun p => { p with failed := true })), (3 * ms3 - 1), by decide +kernel⟩,
   ⟨((px 7 1 (fun p => { p with failed := true })).putBit pgPX F.PX_CMD_STAT_LO true), (3 * ms3), by decide +kernel⟩,
   ⟨(px 5 1 id), (cyclesPerSec * 4 / 5), by decide +kernel⟩,
   ⟨(px 5 1 id), (cyclesPerSec * 4 / 5 - 1), by decide +kernel⟩,
   ⟨((px 5 1 (fun p => { p with light := true })).putBit pgPX F.PX_CFG_COLD false), 9, by decide +kernel⟩,
   ⟨z, 9, by decide +kernel⟩,
   ⟨((px 5 1 (fun p => { p with ok := sset (0, 0) [] 9 (5, 8) })).put pgPX F.PX_PORTS_LO_PORTS 0x200), 9, by decide +kernel⟩,
   ⟨(px 5 1 id), by decide +kernel⟩⟩

theorem witness_Bellows :
    (∃ (s : State), s.bellows = true) ∧
    (∃ (s : State), s.bellows = true) ∧
    (∃ (s : State), s.bellows = false) ∧
    (∃ (s : State) (k : Nat) (f : Nat) (d : CkData), s.bellows = true ∧ s.px.image = some (k, f, d) ∧ k < 2 ∧ s.mxUp = true ∧ s.mxCheck true false true (s.slotAddr k) 64 = 0) ∧
    (∃ (s : State), s.px.image = none) ∧
    (∃ (s : State) (k : Nat) (x : CkSlot), s.bellows = true ∧ s.newest = some (k, x) ∧ k < 2 ∧ x.deltas.length < 127 ∧ s.mxUp = true ∧ s.mxCheck true false true (s.slotAddr k + 64 + (x.deltas.map (fun d => 32 + d.len)).foldl (· + ·) 0) 32 = 0) ∧
    (∃ (s : State) (k : Nat) (x : CkSlot), s.bellows = true ∧ s.newest = some (k, x) ∧ x.deltas.length < 127 ∧ s.mxUp = false) ∧
    (∃ (s : State) (k : Nat) (x : CkSlot) (o : Bool), s.bellows = true ∧ s.newest = some (k, x) ∧ (o = true ∨ 127 ≤ x.deltas.length) ∧ s.px.image = none) ∧
    (∃ (s : State) (a : CkRead) (b : CkRead) (u : Nat), s.pxEn = true ∧ s.pxState = 2 ∧ s.inRun = true ∧ s.mxUp = true ∧ s.px.restored = false ∧ (readSlot a).record.val ≠ 1 ∧ (readSlot b).record.val ≠ 1) ∧
    (∃ (s : State) (a : CkRead) (b : CkRead) (u : Nat), s.pxEn = true ∧ s.pxState = 2 ∧ s.inRun = true ∧ s.mxUp = true ∧ s.px.restored = false ∧ (readSlot a).record.val = 1 ∧ (readSlot b).record.val = 1 ∧ (readSlot a).gen < (readSlot b).gen ∧ slotCause (s.sc.pair != 0) (readSlot b) = 0 ∧ b.deltas = [] ∧ b.data.regs = [] ∧ b.data.tabs = [] ∧ s.tabs = [] ∧ s.get2 pgPX F.PX_PORTS_LO_PORTS F.PX_PORTS_HI_PORTS = 0 ∧ s.px.takeover = false ∧ s.ligUp = false) ∧
    (∃ (s : State) (a : CkRead) (b : CkRead) (u : Nat), s.pxEn = true ∧ s.pxState = 2 ∧ s.inRun = true ∧ s.mxUp = true ∧ s.px.restored = false ∧ (readSlot a).record.val = 1 ∧ (readSlot b).record.val = 1 ∧ (readSlot a).gen < (readSlot b).gen ∧ slotCause (s.sc.pair != 0) (readSlot b) ≠ 0 ∧ slotCause (s.sc.pair != 0) (readSlot a) = 0 ∧ a.deltas = [] ∧ a.data.regs = [] ∧ a.data.tabs = [] ∧ s.tabs = [] ∧ s.get2 pgPX F.PX_PORTS_LO_PORTS F.PX_PORTS_HI_PORTS = 0 ∧ s.px.takeover = false ∧ s.ligUp = false) ∧
    (∃ (s : State) (u : Nat), s.pxEn = true ∧ s.pxState = 2 ∧ s.inRun = true ∧ s.mxUp = true ∧ s.px.restored = false ∧ s.slot 0 = none ∧ s.slot 1 = none) ∧
    (∃ (s : State) (x : Option (CkRead × CkRead)) (u : Nat), (s.pxEn = false ∨ s.pxState ≠ 2 ∨ s.inRun = false ∨ s.mxUp = false ∨ s.px.restored = true)) ∧
    (∃ (s : State) (d : CkDelta), s.pxEn = true ∧ s.pxState = 3 ∧ d.good = true) ∧
    (∃ (s : State) (d : CkDelta), (s.pxEn = false ∨ s.pxState ≠ 3 ∨ d.good = false)) :=
  ⟨⟨(bel id), by decide +kernel⟩,
   ⟨(bel (fun p => { p with slots := sset none [] 0 (some (sl 1 7)) })), by decide +kernel⟩,
   ⟨z, by decide +kernel⟩,
   ⟨(bel (fun p => { p with slots := sset none [] 0 (some (sl 1 7)), image := some (1, 9, { terms := 1 }) })), 1, 9, { terms := 1 }, by decide +kernel⟩,
   ⟨(bel id), by decide +kernel⟩,
   ⟨(bel (fun p => { p with slots := sset none [] 0 (some (sl 1 7)) })), 0, (sl 1 7), by decide +kernel⟩,
   ⟨((bel (fun p => { p with slots := sset none [] 0 (some (sl 1 7)) })).levelTo pMX 0 true), 0, (sl 1 7), by decide +kernel⟩,
   ⟨(bel (fun p => { p with slots := sset none [] 0 (some (sl 1 7)) })), 0, (sl 1 7), true, by decide +kernel⟩,
   ⟨(up (px 2 0 id)), (rd false 7), (rd false 8), 9, by decide +kernel⟩,
   ⟨(key { up (px 2 0 id) with tabs := [] }), (rd true 7), (rd true 8), 9, by decide +kernel⟩,
   ⟨(key { up (px 2 0 id) with tabs := [] }), (rd true 7), ({ rd true 8 with poison := true }), 9, by decide +kernel⟩,
   ⟨(up (px 2 0 id)), 9, by decide +kernel⟩,
   ⟨z, none, 9, by decide +kernel⟩,
   ⟨(px 3 0 id), ({ dseq := 5, gen := 6, good := true, data := { keys := [(3, 9)], terms := 1 } }), by decide +kernel⟩,
   ⟨z, ({ dseq := 5, gen := 6, good := true, data := {} }), by decide +kernel⟩⟩

theorem witness_PlannedSwitches :
    (∃ (s : State) (fn : Fn), Reaches s fn.val (pgPX + 0x05C) .px 0 ∧ s.pxEn = true ∧ s.pxState = 3 ∧ s.pxMismatch = false ∧ s.px.req ≠ 6 ∧ s.bit pgPX F.PX_STATE_ALIGNED = true) ∧
    (∃ (s : State) (fn : Fn), Reaches s fn.val (pgPX + 0x05C) .px 0 ∧ (s.pxEn = false ∨ s.pxState ≠ 3 ∨ s.bit pgPX F.PX_STATE_ALIGNED = false ∨ s.pxMismatch = true ∨ s.px.req = 6)) ∧
    (∃ (s : State) (fn : Fn), Reaches s fn.val (pgPX + 0x05C) .px 0 ∧ s.pxEn = true ∧ s.pxState = 3 ∧ s.pxMismatch = false ∧ s.px.req ≠ 6) ∧
    (∃ (s : State) (fn : Fn), Reaches s fn.val (pgPX + 0x05C) .px 0 ∧ (s.pxEn = false ∨ s.pxState ≠ 3 ∨ s.pxMismatch = true ∨ s.px.req = 6)) ∧
    (∃ (s : State) (fn : Fn), Reaches s fn.val (pgPX + 0x05C) .px 0 ∧ s.pxEn = true ∧ byteReq (s.get pgPX F.PX_SWQ_RX_A) ≤ 6) ∧
    (∃ (s : State) (fn : Fn), Reaches s fn.val (pgPX + 0x05C) .px 0 ∧ s.pxEn = true ∧ byteReq (s.get pgPX F.PX_SWQ_RX_A) = 0) ∧
    (∃ (s : State) (fn : Fn), Reaches s fn.val (pgPX + 0x05C) .px 0 ∧ s.pxEn = true ∧ s.pxState = 3 ∧ s.get pgPX F.PX_STATE_TERMS ≠ s.pxRole) ∧
    (∃ (s : State) (fn : Fn), Reaches s fn.val (pgPX + 0x05C) .px 0 ∧ (s.pxEn = false ∨ s.pxState ≠ 3 ∨ s.get pgPX F.PX_STATE_TERMS = s.pxRole)) ∧
    (∃ (s : State) (fn : Fn) (u : Nat), Reaches s fn.val (pgPX + 0x05C) .px 0 ∧ s.pxEn = true ∧ s.pxState = 3 ∧ s.pxMismatch = false) ∧
    (∃ (s : State) (fn : Fn) (u : Nat), Reaches s fn.val (pgPX + 0x05C) .px 0 ∧ (s.pxEn = false ∨ s.pxState ≠ 3 ∨ s.pxMismatch = true)) ∧
    (∃ (s : State) (n : Fin 48) (k : Nat) (x : Int), s.px.measuring = true ∧ s.pxPorts = [n.val] ∧ sget (0, 0) s.px.meas n.val = (k, x) ∧ s.get pgPX F.PX_MEAS_BURSTS ≤ k ∧ 1 ≤ k ∧ s.pxRole = 1 ∧ s.px.k = none ∧ (roundDiv x k).natAbs < 2 ^ 24) ∧
    (∃ (s : State), s.px.measuring = false) ∧
    (∃ (s : State) (k : Nat) (u : Nat), s.px.k = some k ∧ passed (s.pe s.refPort).next k = true ∧ s.pxMismatch = false ∧ s.pxState = 3 ∧ s.resting = false ∧ byteReq (s.get pgPX F.PX_SWQ_RX_A) = 0) ∧
    (∃ (s : State) (k : Nat) (u : Nat), s.px.k = some k ∧ passed (s.pe s.refPort).next k = true ∧ s.pxMismatch = false ∧ s.pxState = 4 ∧ s.pxVersion ≠ 1 ∧ s.tabs = [] ∧ s.resting = false ∧ s.get2 pgPX F.PX_PORTS_LO_PORTS F.PX_PORTS_HI_PORTS = 0) ∧
    (∃ (s : State) (k : Nat) (u : Nat), s.px.k = some k ∧ (passed (s.pe s.refPort).next k = false ∨ s.pxMismatch = true)) ∧
    (∃ (s : State) (u : Nat) (x : Nat), s.px.wtrAt = some x ∧ s.pxState = 3 ∧ s.px.req = 1 ∧ s.wtrHolds = true ∧ x + s.wtrTime ≤ (s.at u).now ∧ s.pxMismatch = false) ∧
    (∃ (s : State) (u : Nat), (s.px.wtrAt.all (fun x => (s.at u).now < x + s.wtrTime) = true ∨ s.wtrHolds = false)) ∧
    (∃ (s : State) (u : Nat), (s.px.wtrAt.all (fun x => (s.at u).now < x + s.wtrTime) = true ∨ s.wtrHolds = false)) ∧
    (∃ (s : State) (u : Nat) (x : Nat), s.px.switchAt = some x ∧ s.pxState = 3 ∧ s.bit pgPX F.PX_CFG_COLD = true ∧ x + cyclesPerSec ≤ (s.at u).now ∧ s.pxEn = true) ∧
    (∃ (s : State) (u : Nat), (s.px.switchAt.all (fun x => (s.at u).now < x + cyclesPerSec) = true ∨ s.pxState ≠ 3 ∨ s.bit pgPX F.PX_CFG_COLD = false)) :=
  ⟨⟨((px 3 0 id).putBit pgPX F.PX_STATE_ALIGNED true), 0, by decide +kernel⟩,
   ⟨(px 3 0 id), 0, by decide +kernel⟩,
   ⟨(px 3 1 id), 0, by decide +kernel⟩,
   ⟨(px 4 1 id), 0, by decide +kernel⟩,
   ⟨(px 4 1 (fun p => { p with k := some 99 })), 0, by decide +kernel⟩,
   ⟨(px 4 1 (fun p => { p with req := 6 })), 0, by decide +kernel⟩,
   ⟨(px 3 1 id), 0, by decide +kernel⟩,
   ⟨(px 3 0 id), 0, by decide +kernel⟩,
   ⟨(px 3 0 id), 0, 9, by decide +kernel⟩,
   ⟨(px 4 0 id), 0, 9, by decide +kernel⟩,
   ⟨((px 3 1 (fun p => { p with measuring := true, meas := sset (0, 0) [] 9 (1024, -2047) })).put pgPX F.PX_PORTS_LO_PORTS 0x200), 9, 1024, (-2047), by decide +kernel⟩,
   ⟨z, by decide +kernel⟩,
   ⟨(px 3 1 (fun p => { p with k := some 1, req := 3 })), 1, 9, by decide +kernel⟩,
   ⟨({ px 4 1 (fun p => { p with k := some 1 }) with tabs := [] }), 1, 9, by decide +kernel⟩,
   ⟨(px 4 1 (fun p => { p with k := some 2 })), 2, 9, by decide +kernel⟩,
   ⟨((px 3 0 (fun p => { p with wtrAt := some 0, req := 1 })).putBit pgPX F.PX_STATE_ALIGNED true), (300 * cyclesPerSec), 0, by decide +kernel⟩,
   ⟨(px 3 0 (fun p => { p with wtrAt := some 0, req := 1 })), (300 * cyclesPerSec), by decide +kernel⟩,
   ⟨((px 3 0 (fun p => { p with wtrAt := some 0, req := 1 })).putBit pgPX F.PX_STATE_ALIGNED true), (300 * cyclesPerSec - 1), by decide +kernel⟩,
   ⟨((px 3 0 (fun p => { p with switchAt := some 5 })).putBit pgPX F.PX_CFG_COLD true), (cyclesPerSec + 5), 5, by decide +kernel⟩,
   ⟨((px 3 0 (fun p => { p with switchAt := some 5 })).putBit pgPX F.PX_CFG_COLD true), (cyclesPerSec + 4), by decide +kernel⟩⟩

end C18

/-! ### Witnesses, chapter 19 -/

namespace C19

abbrev z : State := State.reset
def en (a : Nat) (s : State) : State := s.putBit a F.PAGE_EN true
def pm : State := (en (pe0 12) z).setReg (pmPg 12 + 0x22C + 64 * pmK 12) 0x40000000
def run : State := (pmput 12 F.PM_TRC_STAT_STATE 1 pm).modGp 12 (fun g => { g with reqs := [{ kind := 3, len := 9 }, { kind := 0, len := 9 }] }) |>.modPe 12 (fun p => { p with plant := 2 })
def pk (n : Nat) : PKind := ((pageOf (pmPg n)).map (·.1)).getD .dv
def pi (n : Nat) : Nat := ((pageOf (pmPg n)).map (·.2)).getD 0
def up (s : State) : State := (en (pgMX 0) s).putBit (pgMX 0) F.MX_LINK_UP true |>.put (pgMX 0) F.MX_WIN_SIZE 8 |>.setEnt (pgMX 1) 0 0 (eput (eput 0 rgEN 1) rgLAST 4095)
def als (st : Nat) (f : Als → Als) : State := (pmput 12 F.PM_ALS_STAT_STATE st (pmput 12 F.PM_ALS_CFG_EN 1 pm)).modAls 12 f
def md : ModuleData := ⟨1,2,3,4,5,0x101⟩

theorem witness_Reflectometry :
    (∃ (s : State) (fn : Fn) (n : Fin 48) (k : PKind) (i : Nat), Reaches s fn.val (pmPg n.val + 0x200 + 64 * pmK n.val) k i ∧ s.trcRuns n.val = false ∧ s.en (pe0 n.val) = true ∧ s.pmbit n.val F.PM_MOD_CFG_MON_OK = true ∧ s.alsState n.val = 0 ∧ s.isLegacy n.val = false ∧ s.protected_ n.val = false ∧ s.pinShort n.val 3 = false) ∧
    (∃ (s : State) (fn : Fn) (n : Fin 48) (k : PKind) (i : Nat), Reaches s fn.val (pmPg n.val + 0x200 + 64 * pmK n.val) k i ∧ (s.trcRuns n.val = true ∨ s.en (pe0 n.val) = false ∨ s.pmbit n.val F.PM_MOD_CFG_MON_OK = false ∨ s.alsState n.val ≠ 0 ∨ s.isLegacy n.val = true ∨ (s.protected_ n.val = true ∧ s.get pgPX F.PX_STATE_STATE ≠ 4))) ∧
    (∃ (s : State) (fn : Fn) (n : Fin 48) (k : PKind) (i : Nat), Reaches s fn.val (pmPg n.val + 0x200 + 64 * pmK n.val) k i ∧ (s.trcRuns n.val = true ∨ s.en (pe0 n.val) = false ∨ s.pmbit n.val F.PM_MOD_CFG_MON_OK = false ∨ s.alsState n.val ≠ 0 ∨ s.isLegacy n.val = true ∨ (s.protected_ n.val = true ∧ s.get pgPX F.PX_STATE_STATE ≠ 4))) ∧
    (∃ (s : State) (fn : Fn) (n : Fin 48) (k : PKind) (i : Nat), Reaches s fn.val (pmPg n.val + 0x200 + 64 * pmK n.val) k i ∧ s.trcRuns n.val = true) ∧
    (∃ (s : State) (fn : Fn) (n : Fin 48) (k : PKind) (i : Nat), Reaches s fn.val (pmPg n.val + 0x200 + 64 * pmK n.val) k i ∧ s.trcRuns n.val = true) ∧
    (∃ (s : State) (fn : Fn) (n : Fin 48) (k : PKind) (i : Nat) (j : Nat), Reaches s fn.val (pmPg n.val + 0x200 + 64 * pmK n.val) k i ∧ s.Canon ∧ s.trcRuns n.val = false ∧ s.mxUp = true ∧ s.mxCheck (s.pageSecure (pmPg n.val)) false true (s.trcAddr n.val 0) 262144 = 0 ∧ j < 131072) ∧
    (∃ (s : State) (fn : Fn) (n : Fin 48) (k : PKind) (i : Nat) (j : Nat), Reaches s fn.val (pmPg n.val + 0x200 + 64 * pmK n.val) k i ∧ s.Canon ∧ s.trcRuns n.val = false ∧ s.mxUp = true ∧ s.mxCheck (s.pageSecure (pmPg n.val)) false true (s.trcAddr n.val 0) 262144 = 0 ∧ j < 131072) ∧
    (∃ (s : State) (n : Fin 48) (p : Nat), s.trcRuns n.val = true ∧ (s.alsOf n.val).trcFull = false ∧ s.pinShort n.val 3 = false ∧ (s.pe n.val).plant ≠ 0 ∧ (s.alsOf n.val).trcPowers ≠ [] ∧ (((s.alsOf n.val).trcPowers.foldl (· + ·) 0) ^ 10 * 1000 < (p * (s.alsOf n.val).trcPowers.length) ^ 10)) ∧
    (∃ (s : State) (n : Fin 48) (p : Nat), s.trcRuns n.val = true ∧ (s.alsOf n.val).trcFull = false ∧ s.pinShort n.val 3 = false ∧ (s.pe n.val).plant ≠ 0 ∧ ¬ ((s.alsOf n.val).trcPowers ≠ [] ∧ (((s.alsOf n.val).trcPowers.foldl (· + ·) 0) ^ 10 * 1000 < (p * (s.alsOf n.val).trcPowers.length) ^ 10))) ∧
    (∃ (s : State) (n : Fin 48) (p : Nat), s.trcRuns n.val = true ∧ (s.alsOf n.val).trcFull = false ∧ s.pinShort n.val 3 = false ∧ (s.pe n.val).plant ≠ 0 ∧ ¬ ((s.alsOf n.val).trcPowers ≠ [] ∧ (((s.alsOf n.val).trcPowers.foldl (· + ·) 0) ^ 10 * 1000 < (p * (s.alsOf n.val).trcPowers.length) ^ 10))) ∧
    (∃ (s : State) (n : Fin 48) (p : Nat), s.trcRuns n.val = true ∧ (s.alsOf n.val).trcFull = false ∧ s.pinShort n.val 3 = false ∧ (s.pe n.val).plant ≠ 0 ∧ ¬ ((s.alsOf n.val).trcPowers ≠ [] ∧ (((s.alsOf n.val).trcPowers.foldl (· + ·) 0) ^ 10 * 1000 < (p * (s.alsOf n.val).trcPowers.length) ^ 10))) ∧
    (∃ (s : State) (n : Fin 48) (p : Nat), (s.trcRuns n.val = false ∨ (s.alsOf n.val).trcFull = true ∨ s.pinShort n.val 3 = true ∨ (s.pe n.val).plant = 0)) ∧
    (∃ (s : State) (n : Fin 48) (p : Nat), (s.trcRuns n.val = false ∨ (s.alsOf n.val).trcFull = true ∨ s.pinShort n.val 3 = true ∨ (s.pe n.val).plant = 0)) ∧
    (∃ (s : State) (n : Fin 48) (bins : List (BitVec 16)) (z : BitVec 16) (found : List TraceEvent) (ok : List TraceEvent) (u : Nat), s.trcRuns n.val = true ∧ ok = found.filter (eventOk (s.pmget n.val F.PM_TRC_DET_REFL_TH) (s.pmget n.val F.PM_TRC_DET_LOSS_TH) (s.pmget n.val F.PM_TRC_DET_BREAK_TH) (bins.take (8000 * s.trcPasses n.val))) ∧ (s.alsOf n.val).trcFull = true ∧ s.mxUp = true ∧ s.pmbit n.val F.PM_TRC_STAT_URGENT = false ∧ s.mxCheck (s.pageSecure (pmPg n.val)) false true (s.trcAddr n.val 0) 131072 = 0) ∧
    (∃ (s : State) (n : Fin 48) (bins : List (BitVec 16)) (z : BitVec 16) (found : List TraceEvent) (u : Nat), s.trcRuns n.val = true ∧ (s.alsOf n.val).trcFull = true ∧ s.mxUp = false) :=
  ⟨⟨pm, 0, 12, (pk 12), (pi 12), by decide +kernel⟩,
   ⟨run, 0, 12, (pk 12), (pi 12), by decide +kernel⟩,
   ⟨z, 0, 12, (pk 12), (pi 12), by decide +kernel⟩,
   ⟨run, 0, 12, (pk 12), (pi 12), by decide +kernel⟩,
   ⟨run, 0, 12, (pk 12), (pi 12), by decide +kernel⟩,
   ⟨(up pm), 0, 12, (pk 12), (pi 12), 131071, by decide +kernel⟩,
   ⟨{ (up pm) with cxl := [((up pm).trcAddr 12 0 + 5, 7), ((up pm).trcAddr 12 1 + 131071, 9)] }, 0, 12, (pk 12), (pi 12), 5, by decide +kernel⟩,
   ⟨(run.modAls 12 (fun a => { a with trcPowers := [10, 10] })), 12, 20, by decide +kernel⟩,
   ⟨(run.modAls 12 (fun a => { a with trcPowers := [10, 10] })), 12, 19, by decide +kernel⟩,
   ⟨(pmput 12 F.PM_TRC_STAT_PASS 2 (pmput 12 F.PM_TRC_STAT_STEP 15 (pmput 12 F.PM_TRC_STAT_WIN 639 run))), 12, 19, by decide +kernel⟩,
   ⟨(pmput 12 F.PM_TRC_STAT_PASS 1 (pmput 12 F.PM_TRC_STAT_STEP 15 (pmput 12 F.PM_TRC_STAT_WIN 639 run))), 12, 19, by decide +kernel⟩,
   ⟨(run.modPe 12 (fun p => { p with plant := 0 })), 12, 9, by decide +kernel⟩,
   ⟨pm, 12, 9, by decide +kernel⟩,
   ⟨(up (run.modAls 12 (fun a => { a with trcFull := true }))), 12, [1,2], 5, [⟨3, 3200, 77⟩, ⟨3, 100, 7⟩, ⟨1, 0, 7⟩], [⟨3, 3200, 77⟩, ⟨3, 100, 7⟩], 99, by decide +kernel⟩,
   ⟨(run.modAls 12 (fun a => { a with trcFull := true })), 12, [1,2], 5, [⟨3, 3200, 77⟩, ⟨1, 100, 7⟩], 99, by decide +kernel⟩⟩

theorem witness_OpticalModules :
    (∃ (s : State) (n : Fin 48) (d : ModuleData), s.cageSkipped n.val = false) ∧
    (∃ (s : State) (n : Fin 48), s.cageSkipped n.val = false) :=
  ⟨⟨(pmput 12 F.PM_MOD_STAT_PRESENT 1 z), 12, md, by decide +kernel⟩,
   ⟨(pmput 12 F.PM_MOD_STAT_PRESENT 1 z), 12, by decide +kernel⟩⟩

theorem witness_LaserShutdown :
    (∃ (s : State) (n : Fin 48) (u : Nat), s.alsRuns n.val = true ∧ s.alsState n.val = 1 ∧ (s.alsOf n.val).since + s.pmget n.val F.PM_ALS_CFG_ALS_HOLD * (cyclesPerSec / 100) ≤ u) ∧
    (∃ (s : State) (n : Fin 48) (u : Nat), s.alsRuns n.val = true ∧ s.alsState n.val = 2 ∧ (s.alsOf n.val).pulseBase + 100 * cyclesPerSec ≤ u) ∧
    (∃ (s : State) (n : Fin 48) (u : Nat), s.alsState n.val = 3 ∧ (s.alsOf n.val).since + 2 * cyclesPerSec ≤ u) ∧
    (∃ (s : State) (n : Fin 48) (u : Nat), (s.alsState n.val < 2 ∧ s.alsRuns (s.alsPort n.val) = false ∨ s.isLegacy n.val = false ∧ s.alsState n.val = 5)) ∧
    (∃ (s : State) (n : Fin 48) (u : Nat), (s.alsState n.val < 2 ∧ s.alsRuns (s.alsPort n.val) = false ∨ s.isLegacy n.val = false ∧ s.alsState n.val = 5)) ∧
    (∃ (s : State) (n : Fin 48) (u : Nat), s.alsRuns n.val = true ∧ s.alsState n.val < 2) ∧
    (∃ (s : State) (n : Fin 48) (u : Nat), s.alsRuns n.val = true ∧ s.alsState n.val < 2) ∧
    (∃ (s : State) (n : Fin 48) (u : Nat) (k : Nat), (s.alsState n.val = 2 ∨ s.alsState n.val = 3) ∧ s.pxHolds n.val = false ∧ s.laserOn n.val = true ∧ k = (s.alsOf n.val).account.foldl (fun x e => x + e.2) 0 + s.pmget n.val F.PM_ALS_CFG_PWR ∧ (s.alsOf n.val).account.all (fun e => decide (max s.now u < e.1 + 100 * cyclesPerSec)) = true) ∧
    (∃ (s : State) (n : Fin 48) (u : Nat) (k : Nat), (s.alsState n.val = 2 ∨ s.alsState n.val = 3) ∧ s.pxHolds n.val = false ∧ s.laserOn n.val = true ∧ k = (s.alsOf n.val).account.foldl (fun x e => x + e.2) 0 + s.pmget n.val F.PM_ALS_CFG_PWR ∧ (s.alsOf n.val).account.all (fun e => decide (max s.now u < e.1 + 100 * cyclesPerSec)) = true) ∧
    (∃ (s : State) (fn : Fn) (n : Fin 48) (u : Nat) (i : Nat) (k : PKind), Reaches s fn.val (pmPg n.val + 0x220 + 64 * pmK n.val) k i ∧ s.isLegacy n.val = false ∧ s.alsState n.val = 2) ∧
    (∃ (s : State) (fn : Fn) (n : Fin 48) (u : Nat) (i : Nat) (k : PKind), Reaches s fn.val (pmPg n.val + 0x220 + 64 * pmK n.val) k i ∧ s.alsState n.val ≠ 2) ∧
    (∃ (s : State) (n : Fin 48) (u : Nat) (i : Nat) (k : PKind), Reaches s 0 (pmPg n.val + 0x220 + 64 * pmK n.val) k i ∧ s.isLegacy n.val = false ∧ s.alsState n.val = 4 ∧ (s.alsOf n.val).account.foldl (fun x e => x + e.2) 0 * 2 ≤ s.pmget n.val F.PM_ALS_CFG2_BUDGET * 100) ∧
    (∃ (s : State) (fn : Fn) (n : Fin 48) (u : Nat) (i : Nat) (k : PKind), Reaches s fn.val (pmPg n.val + 0x220 + 64 * pmK n.val) k i ∧ (fn.val = 1 ∨ s.alsState n.val ≠ 4 ∨ s.pmget n.val F.PM_ALS_CFG2_BUDGET * 100 < (s.alsOf n.val).account.foldl (fun x e => x + e.2) 0 * 2)) ∧
    (∃ (s : State) (n : Fin 48) (u : Nat) (i : Nat) (k : PKind), Reaches s 0 (pmPg n.val + 0x220 + 64 * pmK n.val) k i ∧ s.isLegacy n.val = false ∧ s.get pgSC F.SC_LC_STATE = 0) ∧
    (∃ (s : State) (fn : Fn) (n : Fin 48) (u : Nat) (i : Nat) (k : PKind), Reaches s fn.val (pmPg n.val + 0x220 + 64 * pmK n.val) k i ∧ (fn.val = 1 ∨ s.get pgSC F.SC_LC_STATE ≠ 0)) ∧
    (∃ (s : State) (fn : Fn) (n : Fin 48) (u : Nat) (i : Nat) (k : PKind), Reaches s fn.val (pmPg n.val + 0x220 + 64 * pmK n.val) k i ∧ s.isLegacy n.val = false ∧ s.alsState n.val = 5) :=
  ⟨⟨(als 1 (fun a => { a with account := [(5,5)] })), 12, cyclesPerSec, by decide +kernel⟩,
   ⟨(als 2 (fun a => { a with account := [(5,5)] })), 12, (100 * cyclesPerSec), by decide +kernel⟩,
   ⟨(als 3 (fun a => { a with account := [(5,5)] })), 12, (100 * cyclesPerSec), by decide +kernel⟩,
   ⟨(als 5 id), 12, 9, by decide +kernel⟩,
   ⟨(pmput 12 F.PM_ALS_CFG_EN 0 (als 1 id)), 12, 9, by decide +kernel⟩,
   ⟨(als 1 id), 12, 9, by decide +kernel⟩,
   ⟨((als 0 id).putBit (pgLN 60) F.PAGE_EN true), 12, 9, by decide +kernel⟩,
   ⟨((als 2 (fun a => { a with account := [(5,39900)], reads := true })).put (pmPg 12) (F.PM_DDM1_TXP.ix 4) 1000), 12, 9, 40026, by decide +kernel⟩,
   ⟨((als 3 (fun a => { a with account := [(5,39800)], reads := true })).put (pmPg 12) (F.PM_DDM1_TXP.ix 4) 1000), 12, 9, 39926, by decide +kernel⟩,
   ⟨(als 2 id), 0, 12, 9, (pi 12), (pk 12), by decide +kernel⟩,
   ⟨(als 4 id), 0, 12, 9, (pi 12), (pk 12), by decide +kernel⟩,
   ⟨(als 4 (fun a => { a with account := [(5,20000)], softDis := true })), 12, 9, (pi 12), (pk 12), by decide +kernel⟩,
   ⟨(als 4 (fun a => { a with account := [(5,20001)], softDis := true })), 0, 12, 9, (pi 12), (pk 12), by decide +kernel⟩,
   ⟨(als 4 (fun a => { a with account := [(5,20000)], softDis := true })), 12, 9, (pi 12), (pk 12), by decide +kernel⟩,
   ⟨((als 4 id).put pgSC F.SC_LC_STATE 1), 0, 12, 9, (pi 12), (pk 12), by decide +kernel⟩,
   ⟨(als 5 (fun a => { a with account := [(5,20000)] })), 0, 12, 9, (pi 12), (pk 12), by decide +kernel⟩⟩

end C19

/-! ### Witnesses, chapter 20 -/

namespace C20

abbrev z : State := State.reset
def pws (n : Nat) : State := z.put pgPW F.PW_STATE_STATE n
def pwx (n : Nat) (f : Pw → Pw) : State := let s := pws n; { s with pw := f s.pw }
def rs : State := { pws 0 with tabs := [(5, 6)], keys := [(3, 5)], cxl := [(3, 4)], dm := { mem := [(1, 1)] } }
def px (n : Nat) (s : State) : State := (s.putBit pgPX F.PX_CFG_EN true).put pgPX F.PX_STATE_STATE n

theorem witness_RestAndWakeSources :
    (∃ (s : State) (fn : Fn) (w : Word) (k : Bool) (u : Nat), Reaches (s.at u) fn.val (pgPW + 0x044) .pw 0 ∧ s.inRun = true ∧ (s.pxEn = false ∨ (s.pxState ≠ 4 ∧ s.pxState ≠ 5))) ∧
    (∃ (s : State) (fn : Fn) (w : Word) (k : Bool) (u : Nat), Reaches (s.at u) fn.val (pgPW + 0x044) .pw 0 ∧ s.inRun = true ∧ (s.pxEn = false ∨ (s.pxState ≠ 4 ∧ s.pxState ≠ 5))) ∧
    (∃ (s : State) (fn : Fn) (w : Word) (k : Bool) (u : Nat), Reaches (s.at u) fn.val (pgPW + 0x044) .pw 0 ∧ s.inRun = true ∧ (s.pxEn = false ∨ (s.pxState ≠ 4 ∧ s.pxState ≠ 5))) ∧
    (∃ (s : State) (fn : Fn) (w : Word) (k : Bool) (u : Nat), Reaches (s.at u) fn.val (pgPW + 0x044) .pw 0 ∧ s.inRun = true ∧ (s.pxEn = false ∨ (s.pxState ≠ 4 ∧ s.pxState ≠ 5))) ∧
    (∃ (s : State) (fn : Fn) (w : Word) (k : Bool) (u : Nat), Reaches (s.at u) fn.val (pgPW + 0x044) .pw 0 ∧ s.inRun = true ∧ (s.pxEn = false ∨ (s.pxState ≠ 4 ∧ s.pxState ≠ 5))) ∧
    (∃ (s : State) (fn : Fn) (w : Word) (k : Bool) (u : Nat), Reaches (s.at u) fn.val (pgPW + 0x044) .pw 0 ∧ (s.inRun = false ∨ (s.pxEn = true ∧ (s.pxState = 4 ∨ s.pxState = 5)))) ∧
    (∃ (s : State) (fn : Fn) (w : Word) (k : Bool) (u : Nat), Reaches (s.at u) fn.val (pgPW + 0x044) .pw 0 ∧ (s.inRun = false ∨ (s.pxEn = true ∧ (s.pxState = 4 ∨ s.pxState = 5)))) ∧
    (∃ (s : State) (u : Nat), s.resting = true ∧ (s.get pgPW F.PW_WAKE_EN_EN).testBit 2 = true) ∧
    (∃ (s : State) (u : Nat), (s.resting = false ∨ (s.get pgPW F.PW_WAKE_EN_EN).testBit 2 = false)) ∧
    (∃ (s : State) (u : Nat), s.resting = true ∧ (s.get pgPW F.PW_WAKE_EN_EN).testBit 1 = true) ∧
    (∃ (s : State) (u : Nat), (s.resting = false ∨ (s.get pgPW F.PW_WAKE_EN_EN).testBit 1 = false)) ∧
    (∃ (s : State) (u : Nat), s.resting = true ∧ (s.get pgPW F.PW_WAKE_EN_EN).testBit 3 = true ∧ s.bit pgPW F.PW_ALARM_EN = true ∧ s.pw.since + s.get pgPW F.PW_ALARM_TIME * 100 * cyclesMs ≤ (s.at u).now) ∧
    (∃ (s : State) (u : Nat), (s.resting = false ∨ s.bit pgPW F.PW_ALARM_EN = false ∨ (s.at u).now < s.pw.since + s.get pgPW F.PW_ALARM_TIME * 100 * cyclesMs)) ∧
    (∃ (s : State) (a : Nat), 0x080 ≤ a) ∧
    (∃ (s : State) (a : Nat), 0x040 ≤ a ∧ a < 0x080) ∧
    (∃ (s : State) (fn : Fn) (w : Word), Reaches s fn.val (pgPW + 0x054) .pw 0 ∧ s.get pgPW F.PW_WAKE_STATUS_RET_FAIL = 1 ∧ w.toNat.testBit 8 = true) ∧
    (∃ (s : State) (fn : Fn) (w : Word), Reaches s fn.val (pgPW + 0x054) .pw 0 ∧ s.get pgPW F.PW_WAKE_STATUS_RET_FAIL = 0) :=
  ⟨⟨rs, 0, 0, false, 9, by decide +kernel⟩,
   ⟨rs, 0, 0, true, 9, by decide +kernel⟩,
   ⟨(rs.put pgPW F.PW_WAKE_EN_EN 2), 0, 0, true, 9, by decide +kernel⟩,
   ⟨(rs.put pgPW F.PW_WAKE_EN_EN 4), 0, 0, true, 9, by decide +kernel⟩,
   ⟨(px 3 rs), 0, 0, true, 9, by decide +kernel⟩,
   ⟨(px 4 rs), 0, 0, true, 9, by decide +kernel⟩,
   ⟨z, 0, 0, false, 9, by decide +kernel⟩,
   ⟨(pwx 2 (fun p => { p with since := 5 })), 2488325, by decide +kernel⟩,
   ⟨z, 9, by decide +kernel⟩,
   ⟨(px 1 (pws 2)), 9, by decide +kernel⟩,
   ⟨z, 9, by decide +kernel⟩,
   ⟨((pws 2).putBit pgPW F.PW_ALARM_EN true |>.put pgPW F.PW_ALARM_TIME 1), (100 * cyclesMs), by decide +kernel⟩,
   ⟨((pws 2).putBit pgPW F.PW_ALARM_EN true |>.put pgPW F.PW_ALARM_TIME 1), (100 * cyclesMs - 1), by decide +kernel⟩,
   ⟨z, 0x80, by decide +kernel⟩,
   ⟨z, 0x7F, by decide +kernel⟩,
   ⟨(((z.put pgPW F.PW_WAKE_STATUS_RET_FAIL 1).putBit pgDV F.ST_NOT_RESTORED true).putBit (pgHX 0) F.ST_NOT_RESTORED true), 0, 0x100, by decide +kernel⟩,
   ⟨z, 0, 0x100, by decide +kernel⟩⟩

theorem witness_WakeSequence :
    (∃ (s : State) (r : Fin 3) (b : BitVec 3) (ue : Byte) (ce : Nat) (x : Fin 3), s.get pgPW F.PW_STATE_STATE = 3 ∧ s.pw.step = r.val + 1 ∧ s.pw.unwinding = false ∧ r.val < 2 ∧ s.get pgPW F.PW_WAKE_STATUS_ATTEMPT ≠ 0) ∧
    (∃ (s : State) (ue : Byte), s.get pgPW F.PW_STATE_STATE = 3 ∧ s.pw.step = 3 ∧ s.pw.unwinding = false ∧ s.tabs = [] ∧ s.pw.banks = [] ∧ s.get pgPW F.PW_LAST_WAKE_SRC ≠ 0 ∧ s.en pMX = false ∧ ((∀ i, i < 140 → s.en (pgLN i) = false)) ∧ s.px.late = [] ∧ s.refAbsent = 0 ∧ s.get pgPW F.PW_WAKE_STATUS_REF_FB = 0) ∧
    (∃ (s : State) (r : Fin 3) (b : BitVec 3) (ue : Byte) (ce : Nat) (x : Fin 3), (s.get pgPW F.PW_STATE_STATE ≠ 3 ∨ s.pw.step ≠ r.val + 1 ∨ s.pw.unwinding = true)) ∧
    (∃ (s : State) (k : Fin 9) (u : Nat), s.get pgPW F.PW_STATE_STATE = 3 ∧ s.pw.unwinding = false ∧ s.pw.step = k.val ∧ 1 ≤ k.val) ∧
    (∃ (s : State) (k : Fin 9) (u : Nat), (s.get pgPW F.PW_STATE_STATE ≠ 3 ∨ s.pw.unwinding = true ∨ s.pw.step ≠ k.val ∨ k.val = 0)) ∧
    (∃ (s : State) (u : Nat), s.pw.unwinding = true ∧ s.pw.since + 100 * cyclesMs ≤ (s.at u).now ∧ s.pw.attempt ≤ s.get pgPW F.PW_WAKE_CFG_WAKE_RETRY ∧ s.pw.attempt < 15) ∧
    (∃ (s : State) (u : Nat), s.pw.unwinding = true ∧ s.pw.since + 100 * cyclesMs ≤ (s.at u).now ∧ s.get pgPW F.PW_WAKE_CFG_WAKE_RETRY < s.pw.attempt) ∧
    (∃ (s : State) (u : Nat), s.pw.unwinding = true ∧ s.pw.since + 100 * cyclesMs ≤ (s.at u).now ∧ s.get pgPW F.PW_WAKE_CFG_WAKE_RETRY < s.pw.attempt) ∧
    (∃ (s : State) (u : Nat), (s.pw.unwinding = false ∨ (s.at u).now < s.pw.since + 100 * cyclesMs)) ∧
    (∃ (s : State) (w : BitVec 4) (d : BitVec 4) (u : Nat), s.get pgPW F.PW_STATE_STATE = 3 ∧ s.pw.step = 7 ∧ s.bit pDM F.DM_TRAIN_STAT_VALID0 = true ∧ s.en pMX = false ∧ s.px.takeover = false) ∧
    (∃ (s : State) (v : Bool) (u : Nat), s.get pgPW F.PW_STATE_STATE = 3 ∧ s.pw.step = 7 ∧ s.px.takeover = false ∧ s.en pMX = true) ∧
    (∃ (s : State) (v : Bool) (u : Nat), (s.get pgPW F.PW_STATE_STATE ≠ 3 ∨ s.pw.step ≠ 7)) ∧
    (∃ (s : State) (r : Fin 3) (u : Nat), s.inRun = true) ∧
    (∃ (s : State) (r : Fin 3) (u : Nat), s.get pgPW F.PW_STATE_STATE = 3 ∧ s.pw.unwinding = false ∧ r.val < s.pw.step) ∧
    (∃ (s : State) (r : Fin 3) (u : Nat), s.resting = true) ∧
    (∃ (s : State), s.resting = false) ∧
    (∃ (s : State), s.resting = true) :=
  ⟨⟨((pwx 3 (fun p => { p with step := 2 })).put pgPW F.PW_WAKE_STATUS_ATTEMPT 1), 1, 7, 0, 0, 0, by decide +kernel⟩,
   ⟨((pwx 3 (fun p => { p with step := 3 })).put pgPW F.PW_LAST_WAKE_SRC 2), 0, by decide +kernel⟩,
   ⟨z, 1, 7, 0, 0, 0, by decide +kernel⟩,
   ⟨(pwx 3 (fun p => { p with step := 5 })), 5, 9, by decide +kernel⟩,
   ⟨z, 5, 9, by decide +kernel⟩,
   ⟨(pwx 3 (fun p => { p with unwinding := true, attempt := 3 })), (100 * cyclesMs), by decide +kernel⟩,
   ⟨(pwx 3 (fun p => { p with unwinding := true, attempt := 4 })), (100 * cyclesMs), by decide +kernel⟩,
   ⟨(px 2 (pwx 3 (fun p => { p with unwinding := true, attempt := 4 }))), (100 * cyclesMs), by decide +kernel⟩,
   ⟨z, 9, by decide +kernel⟩,
   ⟨((pwx 3 (fun p => { p with step := 7 })).putBit pDM F.DM_TRAIN_STAT_VALID0 true), 8, 6, 9, by decide +kernel⟩,
   ⟨((pwx 3 (fun p => { p with step := 7 })).putBit pMX F.PAGE_EN true), false, 9, by decide +kernel⟩,
   ⟨z, false, 9, by decide +kernel⟩,
   ⟨(pws 0), 1, 9, by decide +kernel⟩,
   ⟨(pwx 3 (fun p => { p with step := 5 })), 1, 9, by decide +kernel⟩,
   ⟨(pws 2), 1, 9, by decide +kernel⟩,
   ⟨(pws 0), by decide +kernel⟩,
   ⟨(pws 2), by decide +kernel⟩⟩

end C20

/-! ### Witnesses, chapter 21 -/

namespace C21

abbrev z : State := State.reset
def lcS (n : Nat) : State := z.put pgSC F.SC_LC_STATE n |>.putBit pgSC F.SC_DBG_STAT_OPEN (n == 0)
def stg (l : List (Nat × Word)) (s : State) : State := { s with staged := l.foldl (fun m p => sset none m (pgSC + p.1) (some p.2)) s.staged }
def kx : State := { stg [(0x130, 5), (0x14C, 6)] z with keys := [(3, 5)] }
def px (s : State) : State := s.putBit pgPX F.PX_CFG_EN true
def scx (f : Sc → Sc) (s : State) : State := { s with sc := f s.sc }
def bad : State := scx (fun c => { c with rngBad := true }) z
def opn (n m : Nat) : State := ((lcS n).putBit pgSC F.SC_DBG_STAT_OPEN true).put pgSC F.SC_DBG_STAT_METHOD m
def pw : State := (stg [(0x0F0, 7)] (lcS 1)).putBit pgSC F.SC_DBG_STAT_PW_SET true
def nn (n : Nat) : State := scx (fun c => { c with nonceAt := some 5 }) ((lcS n).putBit pgSC F.SC_DBG_STAT_NONCE_VALID true)
def mac (s : State) : BitVec 256 := Config.debugMac Config.deviceKey (BitVec.ofNat 128 s.nonce) (s.reg (pgSC + 0x0DC)) (s.reg (pgSC + 0x0E0))
def resp (v : BitVec 256) (s : State) : State :=
  { s with staged := (List.range 8).map (fun i => (pgSC + 0x110 + 4 * i, some (BitVec.ofNat 32 (v.toNat / 2 ^ (32 * i))))) }
theorem resp_word (v : BitVec 256) (s : State) (i : Nat) (h : i < 8) :
    (sget none (resp v s).staged (pgSC + 0x110 + 4 * i)).getD 0 = BitVec.ofNat 32 (v.toNat / 2 ^ (32 * i)) := by
  unfold resp
  simp only [List.range, List.range.loop, List.map_cons, List.map_nil, sget]
  rcases i with _ | _ | _ | _ | _ | _ | _ | _ | i <;> first | omega | simp
theorem words_of (v : BitVec 256) (s : State) : ∀ n, n ≤ 8 → (resp v s).scWords 0x110 n = v.toNat % 2 ^ (32 * n)
  | 0, _ => by simp [State.scWords, Nat.mod_one]
  | n + 1, h => by
    have ih := words_of v s n (by omega)
    unfold State.scWords at *
    rw [List.range_succ, List.foldl_append, ih]
    simp only [List.foldl_cons, List.foldl_nil]
    rw [resp_word v s n (by omega), BitVec.toNat_ofNat]
    have : 2 ^ (32 * (n + 1)) = 2 ^ (32 * n) * 2 ^ 32 := by rw [← Nat.pow_add]; congr 1
    rw [this, Nat.mod_mul, Nat.mul_comm (2 ^ (32 * n))]
theorem resp_words (v : BitVec 256) (s : State) : BitVec.ofNat 256 ((resp v s).scWords 0x110 8) = v := by
  rw [words_of v s 8 (Nat.le_refl 8), Nat.mod_eq_of_lt v.isLt]
  exact BitVec.eq_of_toNat_eq (by rw [BitVec.toNat_ofNat, Nat.mod_eq_of_lt v.isLt])

theorem witness_PairKey :
    (∃ (s : State) (fn : Fn) (w : Word), Reaches s fn.val (pgSC + 0x150) .sc 0 ∧ s.bit pgPX F.PX_CFG_EN = false) ∧
    (∃ (s : State) (fn : Fn) (w : Word), Reaches s fn.val (pgSC + 0x150) .sc 0 ∧ s.bit pgPX F.PX_CFG_EN = true) ∧
    (∃ (s : State) (fn : Fn) (w : Word), Reaches s fn.val (pgSC + 0x150) .sc 0 ∧ s.bit pgPX F.PX_CFG_EN = false) ∧
    (∃ (s : State) (fn : Fn) (w : Word), Reaches s fn.val (pgSC + 0x150) .sc 0 ∧ s.bit pgPX F.PX_CFG_EN = true) ∧
    (∃ (s : State), s.bit pgSC F.SC_PAIR_STAT_VALID = false) ∧
    (∃ (s : State), s.bit pgSC F.SC_PAIR_STAT_VALID = false) ∧
    (∃ (s : State) (o : Bool), s.bit pgSC F.SC_PAIR_STAT_VALID = false) :=
  ⟨⟨kx, 0, 0, by decide +kernel⟩,
   ⟨(px kx), 0, 0, by decide +kernel⟩,
   ⟨kx, 0, 0, by decide +kernel⟩,
   ⟨(px kx), 0, 0, by decide +kernel⟩,
   ⟨z, by decide +kernel⟩,
   ⟨z, by decide +kernel⟩,
   ⟨z, true, by decide +kernel⟩⟩

theorem witness_KeysAndLifecycle :
    (∃ (s : State) (fn : Fn), Reaches s fn.val (pgSC + 0x15C) .sc 0 ∧ s.sc.rngBad = true ∧ s.reg (pgSC + 0x15C) = 0) ∧
    (∃ (s : State) (fn : Fn), Reaches s fn.val (pgSC + 0x15C) .sc 0 ∧ s.sc.rngBad = false) ∧
    (∃ (s : State) (fn : Fn) (w : Word), Reaches s fn.val (pgSC + 0x0D8) .sc 0 ∧ s.lc = 0 ∧ w.toNat % 65536 = 0x4C43) ∧
    (∃ (s : State) (fn : Fn) (w : Word), Reaches s fn.val (pgSC + 0x0D8) .sc 0 ∧ (s.lc ≠ 0 ∨ w.toNat % 65536 ≠ 0x4C43)) ∧
    (∃ (s : State) (fn : Fn) (w : Word), Reaches s fn.val (pgSC + 0x0D8) .sc 0 ∧ (s.lc ≠ 0 ∨ w.toNat % 65536 ≠ 0x4C43)) ∧
    (∃ (s : State) (fn : Fn) (w : Word), Reaches s fn.val (pgSC + 0x0D8) .sc 0 ∧ s.lc = 1 ∧ w.toNat % 65536 = 0x4C43) ∧
    (∃ (s : State) (fn : Fn) (w : Word), Reaches s fn.val (pgSC + 0x0D8) .sc 0 ∧ (s.lc ≠ 1 ∨ w.toNat % 65536 ≠ 0x4C43)) ∧
    (∃ (s : State) (fn : Fn) (w : Word), Reaches s fn.val (pgSC + 0x0D8) .sc 0 ∧ w.toNat % 65536 = 0x4C43 ∧ (s.lc = 1 ∨ (s.lc = 2 ∧ s.bit pgSC F.SC_DBG_STAT_OPEN = true ∧ s.get pgSC F.SC_DBG_STAT_METHOD = 2))) ∧
    (∃ (s : State) (fn : Fn) (w : Word), Reaches s fn.val (pgSC + 0x0D8) .sc 0 ∧ w.toNat % 65536 = 0x4C43 ∧ (s.lc = 1 ∨ (s.lc = 2 ∧ s.bit pgSC F.SC_DBG_STAT_OPEN = true ∧ s.get pgSC F.SC_DBG_STAT_METHOD = 2))) ∧
    (∃ (s : State) (fn : Fn) (w : Word), Reaches s fn.val (pgSC + 0x0D8) .sc 0 ∧ (w.toNat % 65536 ≠ 0x4C43 ∨ s.lc = 0 ∨ s.lc = 3 ∨ (s.lc = 2 ∧ s.bit pgSC F.SC_DBG_STAT_OPEN = false))) ∧
    (∃ (s : State) (fn : Fn) (w : Word), Reaches s fn.val (pgSC + 0x0D8) .sc 0 ∧ (w.toNat % 65536 ≠ 0x4C43 ∨ s.lc = 0 ∨ s.lc = 3 ∨ (s.lc = 2 ∧ s.bit pgSC F.SC_DBG_STAT_OPEN = false))) ∧
    (∃ (s : State) (fn : Fn) (w : Word), Reaches s fn.val (pgSC + 0x0D8) .sc 0 ∧ (w.toNat % 65536 ≠ 0x4C43 ∨ s.lc = 0 ∨ s.lc = 3 ∨ (s.lc = 2 ∧ s.bit pgSC F.SC_DBG_STAT_OPEN = false))) ∧
    (∃ (s : State), s.lk.waiting = none) ∧
    (∃ (s : State), s.lk.waiting = none) ∧
    (∃ (s : State) (i : Nat) (auto : Bool), s.lk.waiting = some (i, auto) ∧ i < 3 ∧ (auto = false ∨ s.bit pLK (F.LK_HP_STAT_PRESS.ix i) = true)) ∧
    (∃ (s : State) (i : Nat) (auto : Bool), s.lk.waiting = some (i, auto) ∧ i < 3 ∧ (auto = false ∨ s.bit pLK (F.LK_HP_STAT_PRESS.ix i) = true)) ∧
    (∃ (s : State) (i : Nat), s.lk.waiting = some (i, true) ∧ s.bit pLK (F.LK_HP_STAT_PRESS.ix i) = false) ∧
    (∃ (s : State), s.lk.waiting ≠ none) :=
  ⟨⟨bad, 0, by decide +kernel⟩,
   ⟨z, 0, by decide +kernel⟩,
   ⟨z, 0, 0x4C43, by decide +kernel⟩,
   ⟨z, 0, 0x4C42, by decide +kernel⟩,
   ⟨(lcS 1), 0, 0x4C43, by decide +kernel⟩,
   ⟨(lcS 1), 0, 0x4C43, by decide +kernel⟩,
   ⟨(lcS 2), 0, 0x4C43, by decide +kernel⟩,
   ⟨(lcS 1), 0, 0x4C43, by decide +kernel⟩,
   ⟨(opn 2 2), 0, 0x4C43, by decide +kernel⟩,
   ⟨z, 0, 0x4C43, by decide +kernel⟩,
   ⟨(lcS 3), 0, 0x4C43, by decide +kernel⟩,
   ⟨(lcS 2), 0, 0x4C43, by decide +kernel⟩,
   ⟨z, by decide +kernel⟩,
   ⟨bad, by decide +kernel⟩,
   ⟨({ bad with lk := { waiting := some (1, false) } }), 1, false, by decide +kernel⟩,
   ⟨({ (bad.putBit pLK (F.LK_HP_STAT_PRESS.ix 1) true) with lk := { waiting := some (1, true) } }), 1, true, by decide +kernel⟩,
   ⟨({ bad with lk := { waiting := some (1, true) } }), 1, by decide +kernel⟩,
   ⟨({ z with lk := { waiting := some (1, true) } }), by decide +kernel⟩⟩

theorem witness_DebugAccess :
    (∃ (s : State) (fn : Fn) (w : Word), Reaches s fn.val (pgSC + 0x0E4) .sc 0 ∧ s.lc = 0 ∧ s.bit pgSC F.SC_DBG_STAT_PW_SET = false) ∧
    (∃ (s : State) (fn : Fn) (w : Word), Reaches s fn.val (pgSC + 0x0E4) .sc 0 ∧ (s.lc ≠ 0 ∨ s.bit pgSC F.SC_DBG_STAT_PW_SET = true)) ∧
    (∃ (s : State) (fn : Fn) (w : Word) (u : Nat), Reaches s fn.val (pgSC + 0x0E4) .sc 0 ∧ s.lc = 1 ∧ s.bit pgSC F.SC_DBG_STAT_PW_SET = true ∧ s.bit pgSC F.SC_DBG_STAT_PW_LOCKED = false ∧ (s.at u).secSince s.sc.failAt = true ∧ s.sc.digest = some (Config.pwDigest (BitVec.ofNat 128 (s.scWords 0x0F0 4)))) ∧
    (∃ (s : State) (fn : Fn) (w : Word) (u : Nat), Reaches s fn.val (pgSC + 0x0E4) .sc 0 ∧ s.lc = 1 ∧ s.bit pgSC F.SC_DBG_STAT_PW_SET = true ∧ s.bit pgSC F.SC_DBG_STAT_PW_LOCKED = false ∧ (s.at u).secSince s.sc.failAt = true ∧ s.sc.digest = none ∧ s.get pgSC F.SC_DBG_STAT_PW_FAILS < 16) ∧
    (∃ (s : State) (fn : Fn) (w : Word) (u : Nat), Reaches s fn.val (pgSC + 0x0E4) .sc 0 ∧ s.lc = 1 ∧ s.bit pgSC F.SC_DBG_STAT_PW_SET = true ∧ s.bit pgSC F.SC_DBG_STAT_PW_LOCKED = false ∧ (s.at u).secSince s.sc.failAt = true ∧ s.sc.digest = none ∧ s.get pgSC F.SC_DBG_STAT_PW_FAILS < 16) ∧
    (∃ (s : State) (fn : Fn) (w : Word) (u : Nat), Reaches s fn.val (pgSC + 0x0E4) .sc 0 ∧ (s.lc ≠ 1 ∨ s.bit pgSC F.SC_DBG_STAT_PW_SET = false ∨ s.bit pgSC F.SC_DBG_STAT_PW_LOCKED = true ∨ (s.at u).secSince s.sc.failAt = false)) ∧
    (∃ (s : State) (fn : Fn) (w : Word) (u : Nat), Reaches s fn.val (pgSC + 0x0E4) .sc 0 ∧ (s.lc ≠ 1 ∨ s.bit pgSC F.SC_DBG_STAT_PW_SET = false ∨ s.bit pgSC F.SC_DBG_STAT_PW_LOCKED = true ∨ (s.at u).secSince s.sc.failAt = false)) ∧
    (∃ (s : State) (fn : Fn) (w : Word) (u : Nat), Reaches s fn.val (pgSC + 0x0E4) .sc 0 ∧ s.sc.rngBad = false ∧ (s.at u).secSince s.sc.nonceAt = true) ∧
    (∃ (s : State) (fn : Fn) (w : Word) (u : Nat), Reaches s fn.val (pgSC + 0x0E4) .sc 0 ∧ (s.sc.rngBad = true ∨ (s.at u).secSince s.sc.nonceAt = false)) ∧
    (∃ (s : State) (fn : Fn) (w : Word) (u : Nat), Reaches s fn.val (pgSC + 0x0E4) .sc 0 ∧ (s.at u).nonceLive = true ∧ (s.lc = 1 ∨ s.lc = 3) ∧ Config.debugMac Config.deviceKey (BitVec.ofNat 128 s.nonce) (s.reg (pgSC + 0x0DC)) (s.reg (pgSC + 0x0E0)) = BitVec.ofNat 256 (s.scWords 0x110 8)) ∧
    (∃ (s : State) (fn : Fn) (w : Word) (u : Nat), Reaches s fn.val (pgSC + 0x0E4) .sc 0 ∧ (s.at u).nonceLive = true ∧ s.lc = 2 ∧ Config.debugMac Config.deviceKey (BitVec.ofNat 128 s.nonce) (s.reg (pgSC + 0x0DC)) (s.reg (pgSC + 0x0E0)) = BitVec.ofNat 256 (s.scWords 0x110 8)) ∧
    (∃ (s : State) (fn : Fn) (w : Word) (u : Nat), Reaches s fn.val (pgSC + 0x0E4) .sc 0 ∧ (s.at u).nonceLive = true ∧ Config.debugMac Config.deviceKey (BitVec.ofNat 128 s.nonce) (s.reg (pgSC + 0x0DC)) (s.reg (pgSC + 0x0E0)) ≠ BitVec.ofNat 256 (s.scWords 0x110 8)) ∧
    (∃ (s : State) (fn : Fn) (w : Word) (u : Nat), Reaches s fn.val (pgSC + 0x0E4) .sc 0 ∧ (s.at u).nonceLive = false) ∧
    (∃ (s : State) (fn : Fn) (w : Word) (u : Nat), Reaches s fn.val (pgSC + 0x0E4) .sc 0 ∧ (s.at u).nonceLive = false) ∧
    (∃ (s : State) (u : Nat), (s.at u).nonceLive = true) ∧
    (∃ (s : State) (u : Nat), (s.at u).nonceLive = false) ∧
    (∃ (s : State) (fn : Fn) (w : Word), Reaches s fn.val (pgSC + 0x0E4) .sc 0 ∧ s.lc ≠ 0) ∧
    (∃ (s : State) (fn : Fn) (w : Word), Reaches s fn.val (pgSC + 0x0E4) .sc 0 ∧ s.lc = 0) :=
  ⟨⟨(stg [(0x0F0, 7)] z), 0, 0, by decide +kernel⟩,
   ⟨(lcS 1), 0, 0, by decide +kernel⟩,
   ⟨scx (fun c => { c with digest := some (Config.pwDigest (BitVec.ofNat 128 7)) }) pw, 0, 0, 9, by decide +kernel, by decide +kernel,
      by decide +kernel, by decide +kernel, by decide +kernel, congrArg (fun x => some (Config.pwDigest x)) (by decide +kernel)⟩,
   ⟨pw, 0, 0, 9, by decide +kernel⟩,
   ⟨(pw.put pgSC F.SC_DBG_STAT_PW_FAILS 15), 0, 0, 9, by decide +kernel⟩,
   ⟨(scx (fun c => { c with failAt := some 5 }) pw), 0, 0, 9, by decide +kernel⟩,
   ⟨z, 0, 0, 9, by decide +kernel⟩,
   ⟨(lcS 1), 0, 0, 9, by decide +kernel⟩,
   ⟨(nn 1), 0, 0, 9, by decide +kernel⟩,
   ⟨resp (mac (nn 3)) (nn 3), 0, 0, 9, by decide +kernel, by decide +kernel, by decide +kernel, (resp_words _ _).symm⟩,
   ⟨resp (mac (nn 2)) (nn 2), 0, 0, 9, by decide +kernel, by decide +kernel, by decide +kernel, (resp_words _ _).symm⟩,
   (by
      by_cases h : mac (nn 2) = 0#256
      · refine ⟨resp 1 (nn 2), 0, 0, 9, by decide +kernel, by decide +kernel, ?_⟩
        rw [resp_words]; exact fun e => absurd (h.symm.trans e) (by decide)
      · refine ⟨resp 0 (nn 2), 0, 0, 9, by decide +kernel, by decide +kernel, ?_⟩
        rw [resp_words]; exact h),
   ⟨(nn 2), 0, 0, (5 + 60 * cyclesPerSec), by decide +kernel⟩,
   ⟨z, 0, 0, 9, by decide +kernel⟩,
   ⟨(nn 2), 9, by decide +kernel⟩,
   ⟨(nn 2), (5 + 60 * cyclesPerSec), by decide +kernel⟩,
   ⟨(opn 2 2), 0, 0, by decide +kernel⟩,
   ⟨z, 0, 0, by decide +kernel⟩⟩

end C21

/-! ### Witnesses, chapter 22 -/

namespace C22

abbrev z : State := State.reset
def run : State := z.put pgPW F.PW_STATE_STATE 0
def hs (w : Nat) : State := run.setReg (pgPS 1 + 0x044) (BitVec.ofNat 32 w)
def ln (s : State) : State := (s.setLane 9 { tx := .sending }).setLane 57 { rx := .burst }
def idl (s : State) : State := (s.setLane 9 { tx := .idle }).setLane 57 { rx := .idle }
def gt (g : Nat) : State := let s := hs 0xC00000FF; { s with dev := { s.dev with gatedRst := g } }

theorem witness_Resets :
    (∃ (s : State) (ue : Byte) (u : Nat), s.inRun = true ∧ s.pw.banks = []) ∧
    (∃ (s : State) (b : BitVec 3) (ue : Byte) (ce : Nat) (x : Fin 3) (u : Nat), s.inRun = false) ∧
    (∃ (s : State) (fn : Fn) (w : Word) (ue : Byte) (u : Nat), Reaches s fn.val (pgDV + 0x280) .dv 0 ∧ s.inRun = true ∧ s.pw.banks = []) ∧
    (∃ (s : State) (fn : Fn) (w : Word) (b : BitVec 3) (ue : Byte) (ce : Nat) (x : Fin 3) (u : Nat), Reaches s fn.val (pgDV + 0x280) .dv 0 ∧ s.inRun = false) ∧
    (∃ (s : State) (fn : Fn) (n : BitVec 4), Reaches s fn.val (pgDV + 0x280) .dv 0 ∧ s.inRun = true ∧ (s.get pgDV F.DV_RST_STAT_BUSY).testBit n.toNat = false ∧ n.toNat < 6 ∧ s.bit (pgPS n.toNat) F.PS_PWR_GATED = false) ∧
    (∃ (s : State) (fn : Fn) (n : BitVec 4), Reaches s fn.val (pgDV + 0x280) .dv 0 ∧ (n.toNat = 6 ∨ n.toNat = 9) ∧ s.inRun = true ∧ (s.get pgDV F.DV_RST_STAT_BUSY).testBit n.toNat = false) ∧
    (∃ (s : State) (fn : Fn) (n : BitVec 4), Reaches s fn.val (pgDV + 0x280) .dv 0 ∧ (n.toNat = 6 ∨ n.toNat = 9) ∧ s.inRun = true ∧ (s.get pgDV F.DV_RST_STAT_BUSY).testBit n.toNat = false) ∧
    (∃ (s : State) (fn : Fn), Reaches s fn.val (pgDV + 0x280) .dv 0 ∧ s.inRun = true ∧ s.qsHeld = false ∧ (s.get pgDV F.DV_RST_STAT_BUSY).testBit 7 = false) ∧
    (∃ (s : State) (fn : Fn) (n : BitVec 4), Reaches s fn.val (pgDV + 0x280) .dv 0 ∧ s.inRun = true ∧ (s.get pgDV F.DV_RST_STAT_BUSY).testBit n.toNat = false ∧ n.toNat < 6 ∧ s.bit (pgPS n.toNat) F.PS_PWR_GATED = true) ∧
    (∃ (s : State) (fn : Fn) (n : BitVec 4), Reaches s fn.val (pgDV + 0x280) .dv 0 ∧ (s.inRun = false ∨ n.toNat = 8 ∨ 10 ≤ n.toNat ∨ (s.get pgDV F.DV_RST_STAT_BUSY).testBit n.toNat = true ∨ (n.toNat = 7 ∧ s.en (pe0 0) = true))) ∧
    (∃ (s : State) (fn : Fn) (n : BitVec 4), Reaches s fn.val (pgDV + 0x280) .dv 0 ∧ (s.inRun = false ∨ n.toNat = 8 ∨ 10 ≤ n.toNat ∨ (s.get pgDV F.DV_RST_STAT_BUSY).testBit n.toNat = true ∨ (n.toNat = 7 ∧ s.en (pe0 0) = true))) ∧
    (∃ (s : State) (fn : Fn) (n : BitVec 4), Reaches s fn.val (pgDV + 0x280) .dv 0 ∧ (s.inRun = false ∨ n.toNat = 8 ∨ 10 ≤ n.toNat ∨ (s.get pgDV F.DV_RST_STAT_BUSY).testBit n.toNat = true ∨ (n.toNat = 7 ∧ s.en (pe0 0) = true))) ∧
    (∃ (s : State) (fn : Fn) (n : BitVec 4), Reaches s fn.val (pgDV + 0x280) .dv 0 ∧ (s.inRun = false ∨ n.toNat = 8 ∨ 10 ≤ n.toNat ∨ (s.get pgDV F.DV_RST_STAT_BUSY).testBit n.toNat = true ∨ (n.toNat = 7 ∧ s.en (pe0 0) = true))) ∧
    (∃ (s : State) (n : Fin 11), s.inRun = true ∧ (s.get pgDV F.DV_RST_STAT_BUSY).testBit n.val = true) ∧
    (∃ (s : State) (n : Fin 11), (s.inRun = false ∨ (s.get pgDV F.DV_RST_STAT_BUSY).testBit n.val = false)) :=
  ⟨⟨({ run with tabs := [(5, 6)], keys := [(3, 5)], cxl := [(3, 4)] }), 0, 9, by decide +kernel⟩,
   ⟨z, 7, 0, 0, 0, 9, by decide +kernel⟩,
   ⟨({ run with tabs := [(5, 6)], keys := [(3, 5)], cxl := [(3, 4)] }), 0, 0, 0, 9, by decide +kernel⟩,
   ⟨z, 0, 0, 7, 0, 0, 0, 9, by decide +kernel⟩,
   ⟨run, 0, 5, by decide +kernel⟩,
   ⟨run, 0, 6, by decide +kernel⟩,
   ⟨run, 0, 9, by decide +kernel⟩,
   ⟨run, 0, by decide +kernel⟩,
   ⟨(run.putBit (pgPS 3) F.PS_PWR_GATED true), 0, 3, by decide +kernel⟩,
   ⟨run, 0, 8, by decide +kernel⟩,
   ⟨run, 0, 10, by decide +kernel⟩,
   ⟨(run.putBit (pe0 0) F.PAGE_EN true), 0, 7, by decide +kernel⟩,
   ⟨z, 0, 3, by decide +kernel⟩,
   ⟨(run.put pgDV F.DV_RST_STAT_BUSY 7), 1, by decide +kernel⟩,
   ⟨run, 1, by decide +kernel⟩⟩

theorem witness_TrimAndPins :
    (∃ (s : State) (fn : Fn) (n : Fin 48), Reaches s fn.val (pgPS (n.val / 8) + 0x044) .ps (n.val / 8) ∧ s.inRun = true ∧ s.locked (pgPS (n.val / 8)) = false ∧ (s.reg (pgPS (n.val / 8) + 0x044)).toNat.testBit (n.val % 8) = false ∧ s.en (pe0 n.val) = false ∧ ((s.reg (pgPS (n.val / 8) + 0x044)).toNat.testBit 31 = false)) ∧
    (∃ (s : State) (fn : Fn) (n : Fin 48), Reaches s fn.val (pgPS (n.val / 8) + 0x044) .ps (n.val / 8) ∧ (s.reg (pgPS (n.val / 8) + 0x044)).toNat.testBit (n.val % 8) = false ∧ s.en (pe0 n.val) = true ∧ s.inRun = true ∧ s.get pgPW F.PW_STATE_STATE = (if (List.range 6).any (fun k => (s.reg (pgPS k + 0x044)).toNat % 256 != 0 || s.bit (pgPS k) F.PS_PWR_GATE) then 1 else 0) ∧ s.locked (pgPS (n.val / 8)) = false) ∧
    (∃ (s : State) (fn : Fn) (n : Fin 48), Reaches s fn.val (pgPS (n.val / 8) + 0x044) .ps (n.val / 8) ∧ s.inRun = true ∧ s.locked (pgPS (n.val / 8)) = false ∧ (s.reg (pgPS (n.val / 8) + 0x044)).toNat.testBit (n.val % 8) = true ∧ (s.reg (pgPS (n.val / 8) + 0x044)).toNat.testBit 31 = false ∧ (s.lane n.val).tx = .idle ∧ s.bit (pgLN n.val) F.LN_IDLE_REQ = false) ∧
    (∃ (s : State) (fn : Fn) (k : Fin 6), Reaches s fn.val (pgPS k.val + 0x044) .ps k.val ∧ s.inRun = true ∧ s.locked (pgPS k.val) = false ∧ (s.reg (pgPS k.val + 0x044)).toNat % 256 = 0xFF ∧ s.bit (pgPS k.val) F.PS_PWR_GATE = false ∧ s.en (pgGS k.val 0) = false ∧ ((∀ i, i < 8 → s.en (pe0 (8 * k.val + i)) = false))) ∧
    (∃ (s : State) (fn : Fn) (k : Fin 6), Reaches s fn.val (pgPS k.val + 0x044) .ps k.val ∧ s.locked (pgPS k.val) = false ∧ ((s.reg (pgPS k.val + 0x044)).toNat % 256 ≠ 0xFF ∨ s.en (pgGS k.val 0) = true) ∧ s.bit (pgPS k.val) F.PS_PWR_GATE = false) ∧
    (∃ (s : State) (fn : Fn) (k : Fin 6), Reaches s fn.val (pgPS k.val + 0x044) .ps k.val ∧ s.inRun = true ∧ s.locked (pgPS k.val) = false ∧ s.bit (pgPS k.val) F.PS_PWR_GATE = true ∧ s.dev.gatedRst.testBit k.val = false ∧ ((∀ i, i < 8 → s.en (pe0 (8 * k.val + i)) = false))) ∧
    (∃ (s : State) (fn : Fn) (k : Fin 6), Reaches s fn.val (pgPS k.val + 0x044) .ps k.val ∧ s.inRun = true ∧ s.locked (pgPS k.val) = false ∧ s.bit (pgPS k.val) F.PS_PWR_GATE = true ∧ s.dev.gatedRst.testBit k.val = true ∧ ((∀ i, i < 8 → s.en (pe0 (8 * k.val + i)) = false))) ∧
    (∃ (s : State) (n : Fin 48) (p : Fin 4) (h : Bool), s.pinShort n.val p.val = false ∧ p.val ≠ 3 ∧ (p.val = 0 → h ≠ s.txdis n.val)) ∧
    (∃ (s : State) (n : Fin 48) (p : Fin 4) (h : Bool), s.pinShort n.val p.val = false ∧ p.val ≠ 3 ∧ (p.val = 0 → h ≠ s.txdis n.val)) ∧
    (∃ (s : State) (n : Fin 48) (p : Fin 4) (h : Bool), s.pinShort n.val p.val = false ∧ p.val ≠ 3 ∧ (p.val = 0 → h ≠ s.txdis n.val)) ∧
    (∃ (s : State) (n : Fin 48) (p : Fin 4) (h : Bool), s.pinShort n.val p.val = false ∧ p.val ≠ 3 ∧ (p.val = 0 → h ≠ s.txdis n.val)) ∧
    (∃ (s : State) (n : Fin 48) (h : Bool), s.pinShort n.val 3 = false ∧ s.trcRuns n.val = false) ∧
    (∃ (s : State) (n : Fin 48) (p : Fin 4) (h : Bool), s.pinShort n.val p.val = true) ∧
    (∃ (s : State) (h : Bool), h = s.faultAsserted) ∧
    (∃ (s : State) (i : Fin 3) (h : Bool), h ≠ s.railOn i.val) ∧
    (∃ (s : State) (i : Fin 3) (h : Bool), h ≠ s.railOn i.val) ∧
    (∃ (s : State), s.get pgPW F.PW_PIN_STAT_PWR_EN = 0) :=
  ⟨⟨(ln run), 0, 9, by decide +kernel⟩,
   ⟨(run.putBit (pe0 9) F.PAGE_EN true), 0, 9, by decide +kernel⟩,
   ⟨(idl (hs 0x02)), 0, 9, by decide +kernel⟩,
   ⟨(hs 0xFF), 0, 1, by decide +kernel⟩,
   ⟨(hs 0xFE), 0, 1, by decide +kernel⟩,
   ⟨(gt 0), 0, 1, by decide +kernel⟩,
   ⟨(gt 2), 0, 1, by decide +kernel⟩,
   ⟨run, 9, 0, false, by decide +kernel⟩,
   ⟨(run.putBit (pe0 9) F.PAGE_EN true), 9, 0, false, by decide +kernel⟩,
   ⟨z, 9, 1, true, by decide +kernel⟩,
   ⟨z, 9, 2, false, by decide +kernel⟩,
   ⟨z, 9, true, by decide +kernel⟩,
   ⟨(z.setReg (pe0 9 + 0x078) 0x10004), 9, 1, true, by decide +kernel⟩,
   ⟨z, false, by decide +kernel⟩,
   ⟨z, 1, true, by decide +kernel⟩,
   ⟨run, 1, false, by decide +kernel⟩,
   ⟨(z.putBit pgPW F.PW_PIN_STAT_FAULT_N true), by decide +kernel⟩⟩

end C22

end Sys2Proof.Tests
end

section
/-! PROOF. The AVS transactions (R26, R28): what a change sends to the host, what the judgement of AVS_AT_LIMIT does and leaves
alone, the equation of each branch of the loop and of the end of a transaction, and from these the eight clauses of O9. -/

namespace Sys2Proof.Machine

/-! ### What a settling of the vectors sends -/

/-- From `s` to `t` the block has sent nothing but MSI-X messages. -/
def OnlyMessages (s t : State) : Prop := ∀ o ∈ t.out, o ∈ s.out ∨ ∃ fn v, o = .msix fn v

theorem OnlyMessages.of_out_eq {s t : State} (h : t.out = s.out) : OnlyMessages s t := fun _ ho => .inl (h ▸ ho)

theorem OnlyMessages.trans {a b c : State} (h : OnlyMessages a b) (k : OnlyMessages b c) : OnlyMessages a c :=
  fun o ho => (k o ho).elim (h o) .inr

theorem onlyMessages_foldl {β : Type} {f : State → β → State} (hf : ∀ s x, OnlyMessages s (f s x)) (l : List β) (s : State) :
    OnlyMessages s (l.foldl f s) := by
  induction l generalizing s with
  | nil => exact .of_out_eq rfl
  | cons x r ih => exact (hf s x).trans (ih (f s x))

theorem onlyMessages_message (s : State) (p : Nat × Nat) : OnlyMessages s (s.message p) := by
  unfold State.message
  dsimp only
  split
  · exact .of_out_eq (setVec_out ..)
  · split
    · exact .of_out_eq (setVec_out ..)
    · intro o ho
      rcases List.mem_cons.1 ho with rfl | ho
      · exact .inr ⟨_, _, rfl⟩
      · exact .inl ho

theorem vecFalls_out (s : State) (was : List (Nat × Nat)) : (s.vecFalls was).out = s.out :=
  foldl_same State.out _ (fun _ _ => setVec_out ..) _ s

theorem onlyMessages_settle (old s : State) : OnlyMessages s (State.settle old s) :=
  (OnlyMessages.of_out_eq (vecFalls_out s _)).trans (onlyMessages_foldl onlyMessages_message _ _)

theorem onlyMessages_raise (s : State) (pg b : Nat) : OnlyMessages s (s.raise pg b) := by
  rcases raise_cases s pg b with h | ⟨st, h⟩
  · exact .of_out_eq (by rw [h])
  · rw [h]
    exact OnlyMessages.trans (.of_out_eq (setReg_out s (pg + 0x014) (s.reg (pg + 0x014) ||| maskBit b))) (onlyMessages_settle s _)

theorem onlyMessages_levelTo (s : State) (pg b : Nat) (v : Bool) : OnlyMessages s (s.levelTo pg b v) := by
  unfold State.levelTo
  dsimp only
  split
  · exact .of_out_eq rfl
  · split
    · exact OnlyMessages.trans (.of_out_eq (setReg_out ..)) (onlyMessages_raise _ pg b)
    · exact .of_out_eq (setReg_out ..)

/-! ### The judgement of AVS_AT_LIMIT -/

/-- The words that the AVS controller writes: EVT_RAW and EVT_PEND of the device page, and DV_AVS_STATUS. -/
abbrev avsWords : List Nat := evtWords pgDV ++ [pgDV + 0x150]

/-- The condition of AVS_AT_LIMIT (R28, R31). -/
def State.avsAtLimit (s : State) : Bool :=
  s.bit pgDV F.DV_AVS_CTRL_EN && !s.dev.avsReading && decide (s.dev.avsV = s.get pgDV F.DV_AVS_CTRL_VMAX) &&
    decide (s.get pgDV F.DV_PITCH_CFG_TARGET < s.maxPitch)

theorem avsLimit_eq (s : State) :
    avsLimit s = (s.putBit pgDV F.DV_AVS_STATUS_LIMIT s.avsAtLimit).levelTo pgDV 13 s.avsAtLimit := rfl

@[simp] theorem avsLimit_dev (s : State) : (avsLimit s).dev = s.dev := by simp [avsLimit_eq]

theorem reg_avsLimit_ne (s : State) {a : Nat} (h : a ∉ avsWords) : (avsLimit s).reg a = s.reg a := by
  simp only [avsWords, evtWords, List.cons_append, List.nil_append, List.mem_cons, List.not_mem_nil, or_false, not_or] at h
  obtain ⟨hraw, hpend, hstatus⟩ := h
  rw [avsLimit_eq, reg_levelTo_ne _ hraw hpend, reg_putBit_ne _ hstatus]

theorem bit_avsLimit_ne (s : State) {pg : Nat} {f : Fld} (h : pg + f.off ∉ avsWords) : (avsLimit s).bit pg f = s.bit pg f :=
  bit_congr_reg (reg_avsLimit_ne s h)

/-- The judgement leaves the fields of DV_AVS_STATUS other than LIMIT. -/
theorem get_avsLimit_status (s : State) {f : Fld} (ho : f.off = 0x150) (hf : f.lo ≤ f.hi) (hd : f.hi < 16 ∨ 16 < f.lo) :
    (avsLimit s).get pgDV f = s.get pgDV f := by
  rw [avsLimit_eq, get_levelTo_ne _ (by rw [ho]; decide) (by rw [ho]; decide)]
  exact get_putBit_apart s ⟨ho, by decide, by decide, hf, hd⟩

@[simp] theorem get_avsLimit_vreq (s : State) :
    (avsLimit s).get pgDV F.DV_AVS_STATUS_VREQ = s.get pgDV F.DV_AVS_STATUS_VREQ :=
  get_avsLimit_status s rfl (by decide) (by decide)

@[simp] theorem bit_avsLimit_busErr (s : State) :
    (avsLimit s).bit pgDV F.DV_AVS_STATUS_BUSERR = s.bit pgDV F.DV_AVS_STATUS_BUSERR :=
  congrArg (· != 0) (get_avsLimit_status s (f := F.DV_AVS_STATUS_BUSERR) rfl (by decide) (by decide))

@[simp] theorem bit_avsLimit_en (s : State) : (avsLimit s).bit pgDV F.DV_AVS_CTRL_EN = s.bit pgDV F.DV_AVS_CTRL_EN :=
  bit_avsLimit_ne s (by decide)

@[simp] theorem raw_avsLimit (s : State) : (avsLimit s).raw pgDV 13 = s.avsAtLimit := raw_levelTo _ _ _ (by decide)

/-- AVS_AT_LIMIT that comes to hold is pending. -/
theorem pends_avsLimit {s : State} (hl : s.avsAtLimit = true) (hr : s.raw pgDV 13 = false) : (avsLimit s).pends pgDV 13 = true := by
  rw [avsLimit_eq, hl]
  refine pends_levelTo _ (k := .dv) (i := 0) (by decide) (by decide) (by decide) ?_
  unfold State.raw at hr ⊢
  rw [reg_putBit_ne _ (by decide)]
  exact hr

/-- The judgement takes no pending event away. -/
theorem pends_avsLimit_mono {s : State} {b : Nat} (h : s.pends pgDV b = true) : (avsLimit s).pends pgDV b = true := by
  rw [avsLimit_eq]
  refine pends_levelTo_mono _ ?_ (by decide)
  rw [pends_congr (reg_putBit_ne s (by decide))]
  exact h

theorem OnlyRegs.avsLimit {a b : State} (h : OnlyRegs avsWords a b) : OnlyRegs avsWords a (avsLimit b) :=
  (h.putBit (by decide)).levelTo (by decide) (by decide)

theorem onlyMessages_avsLimit (s : State) : OnlyMessages s (avsLimit s) :=
  OnlyMessages.trans (.of_out_eq (putBit_out ..)) (onlyMessages_levelTo _ pgDV 13 _)

theorem mem_out_avsLimit {s : State} {o : Output} (h : o ∈ s.out) : o ∈ (avsLimit s).out := by
  obtain ⟨-, -, -, -, l, hl⟩ := keeps_avsLimit (Keeps.refl s)
  rw [hl]
  exact List.mem_append_right l h

/-! ### One pass of the loop -/

theorem sectRuns_congr {s t : State} (h : t.regs = s.regs) : t.sectRuns = s.sectRuns := by
  funext n
  simp only [State.sectRuns, get_congr h, bit_congr h]

theorem maxPitch_congr {s t : State} (h : t.regs = s.regs) : t.maxPitch = s.maxPitch := by
  simp only [State.maxPitch, sectRuns_congr h, get_congr h]

@[simp] theorem avsStep_regs (s : State) : (avsStep s).regs = s.regs := by
  unfold avsStep
  dsimp only
  split <;> rfl

@[simp] theorem avsStep_avsV (s : State) : (avsStep s).dev.avsV = (avsNext s).1 := by
  unfold avsStep
  dsimp only
  split <;> rfl

@[simp] theorem avsStep_avsReading (s : State) : (avsStep s).dev.avsReading = s.dev.avsReading := by
  unfold avsStep
  dsimp only
  split <;> rfl

/-- A voltage that equals the one last acknowledged is not requested again. -/
theorem avsStep_silent {s : State} (h : (avsNext s).1 = s.get pgDV F.DV_AVS_STATUS_VREQ) :
    (avsStep s).dev.avsFlight = s.dev.avsFlight := by
  simp [avsStep, h]

/-- A voltage that differs from the one last acknowledged is requested while no request is in flight. -/
theorem avsStep_sends {s : State} (h : (avsNext s).1 ≠ s.get pgDV F.DV_AVS_STATUS_VREQ) (hf : s.dev.avsFlight = none) :
    (avsStep s).dev.avsFlight = some (avsNext s).1 ∧ .avs (avsNext s).1 ∈ (avsStep s).out := by
  simp [avsStep, h, hf, avsSend, State.emit]

theorem onlyRegs_avsStep (as : List Nat) (s : State) : OnlyRegs as s (avsStep s) := by
  unfold avsStep avsSend
  dsimp only
  split
  · exact (OnlyRegs.refl as s).set_dev
  · exact ((OnlyRegs.refl as s).set_dev.set_dev).emit _

/-- Of a loop that runs, the limit after a pass is judged on the new voltage. -/
theorem avsAtLimit_avsStep {s : State} (he : s.bit pgDV F.DV_AVS_CTRL_EN = true) (hr : s.dev.avsReading = false) :
    (avsStep s).avsAtLimit = (decide ((avsNext s).1 = s.get pgDV F.DV_AVS_CTRL_VMAX) &&
      decide (s.get pgDV F.DV_PITCH_CFG_TARGET < s.maxPitch)) := by
  have h := avsStep_regs s
  simp [State.avsAtLimit, bit_congr h, get_congr h, maxPitch_congr h, he, hr]

theorem avsLoop_running {s : State} (he : s.bit pgDV F.DV_AVS_CTRL_EN = true) (hb : s.bit pgDV F.DV_AVS_STATUS_BUSERR = false)
    (hr : s.dev.avsReading = false) : avsLoop s = avsLimit (avsStep s) := by
  simp [avsLoop, he, hb, hr]

theorem avsLoop_reading {s : State} (he : s.bit pgDV F.DV_AVS_CTRL_EN = true) (hb : s.bit pgDV F.DV_AVS_STATUS_BUSERR = false)
    (hf : s.dev.avsFlight = none) (hr : s.dev.avsReading = true) :
    avsLoop s = ({ s with dev := { s.dev with avsFlight := some 0 } } : State).emit .avsRead := by
  simp [avsLoop, he, hb, hf, hr]

theorem avsLoop_busErr {s : State} (hb : s.bit pgDV F.DV_AVS_STATUS_BUSERR = true) :
    avsLoop s = if s.bit pgDV F.DV_AVS_CTRL_EN then avsLimit s else s := by
  cases he : s.bit pgDV F.DV_AVS_CTRL_EN <;> simp [avsLoop, he, hb]

/-! ### The end of a transaction -/

theorem avsEnd_acked {s : State} {v : Nat} (hf : s.dev.avsFlight = some v) (mv : Nat) :
    avsEnd true mv s = avsLimit (({ s with dev := { s.dev with
      avsV := if s.dev.avsReading then mv else s.dev.avsV, avsReading := false, avsUnacked := 0, avsFlight := none } } : State).put
      pgDV F.DV_AVS_STATUS_VREQ (if s.dev.avsReading then mv else v)) := by
  simp [avsEnd, hf]

theorem avsEnd_unacked {s : State} {v : Nat} (hf : s.dev.avsFlight = some v) (hu : s.dev.avsUnacked < 2) (mv : Nat) :
    avsEnd false mv s = { s with dev := { s.dev with avsUnacked := s.dev.avsUnacked + 1, avsFlight := none } } := by
  have h3 : s.dev.avsUnacked ≠ 2 := by omega
  simp [avsEnd, hf, h3]

theorem avsEnd_third {s : State} {v : Nat} (hf : s.dev.avsFlight = some v) (hu : s.dev.avsUnacked = 2) (mv : Nat) :
    avsEnd false mv s = avsLimit ((({ s with dev := { s.dev with
      avsV := if s.dev.avsReading then s.dev.avsV else s.get pgDV F.DV_AVS_STATUS_VREQ,
      avsUnacked := 3, avsFlight := none } } : State).putBit pgDV F.DV_AVS_STATUS_BUSERR true).raise pgDV 14) := by
  simp [avsEnd, hf, hu]

/-- An acknowledged transaction shows its voltage in VREQ and writes nothing outside the words of the controller. -/
theorem avsEnd_acked_shows {s : State} {v mv : Nat} (hf : s.dev.avsFlight = some v)
    (hlt : (if s.dev.avsReading then mv else v) < 4096) :
    (avsEnd true mv s).get pgDV F.DV_AVS_STATUS_VREQ = (if s.dev.avsReading then mv else v) ∧
      OnlyRegs avsWords s (avsEnd true mv s) := by
  rw [avsEnd_acked hf]
  refine ⟨?_, ((OnlyRegs.refl avsWords s).set_dev.put (by decide)).avsLimit⟩
  rw [get_avsLimit_vreq, get_put_same _ _ _ (by decide)]
  exact Nat.mod_eq_of_lt hlt

/-- An acknowledged transaction leaves nothing in flight and nothing to repeat. -/
theorem avsEnd_acked_dev {s : State} {v : Nat} (hf : s.dev.avsFlight = some v) (mv : Nat) :
    (avsEnd true mv s).dev = { s.dev with
      avsV := if s.dev.avsReading then mv else s.dev.avsV, avsReading := false, avsUnacked := 0, avsFlight := none } := by
  rw [avsEnd_acked hf, avsLimit_dev, put_dev]

/-! ### A write of DV_AVS_CTRL -/

/-- EN written from 1 to 0 ends BUSERR, the request in flight and the count of those not acknowledged. -/
theorem avsCtrlAct_disables {s : State} (h : (avsCtrlAct true s).bit pgDV F.DV_AVS_CTRL_EN = false) :
    (avsCtrlAct true s).bit pgDV F.DV_AVS_STATUS_BUSERR = false ∧ (avsCtrlAct true s).dev.avsFlight = none ∧
      (avsCtrlAct true s).dev.avsUnacked = 0 := by
  cases he : s.bit pgDV F.DV_AVS_CTRL_EN with
  | true => simp [avsCtrlAct, he] at h
  | false =>
    simp only [avsCtrlAct, he, Bool.not_true, Bool.and_false, Bool.false_eq_true, if_false, Bool.not_false, Bool.and_true, if_true,
      bit_avsLimit_busErr, avsLimit_dev, putBit_dev, and_self, and_true]
    exact bit_putBit_same _ _ _ (by decide)

theorem State.at_zero (s : State) : s.at 0 = s := if_pos (Nat.zero_le s.now)

/-- A write that reaches DV_AVS_CTRL stores its fields and then acts on EN. -/
theorem regWrite_avsCtrl {s : State} {fn : Nat} (h : Reaches s fn (pgDV + 0x148) .dv 0) (w : Word) :
    regWrite fn (pgDV + 0x148) w s =
      avsCtrlAct (s.bit pgDV F.DV_AVS_CTRL_EN) (s.storeFields .dv 0 fn (pgDV + 0x148) w.toNat).1 :=
  access_reaches h _

/-! ### The clauses of O9 -/

theorem exec_avsLoop (s : State) : exec .avsLoop s = .next (avsLoop s) := rfl

theorem exec_avsTransactionEnd (acked : Bool) (mv : BitVec 12) (s : State) :
    exec (.avsTransactionEnd acked mv) s = .next (avsEnd acked mv.toNat s) := rfl

/-- The third transaction in a row that is not acknowledged is the bus fault (R28). -/
theorem avsEnd_busFault {s : State} {v : Nat} (mv : Nat) (hf : s.dev.avsFlight = some v) (hu : s.dev.avsUnacked = 2) :
    (avsEnd false mv s).bit pgDV F.DV_AVS_STATUS_BUSERR = true ∧ (avsEnd false mv s).pends pgDV 14 = true ∧
      (avsEnd false mv s).get pgDV F.DV_AVS_STATUS_VREQ = s.get pgDV F.DV_AVS_STATUS_VREQ ∧
      OnlyRegs avsWords s (avsEnd false mv s) := by
  rw [avsEnd_third hf hu]
  refine ⟨?_, ?_, ?_, (((OnlyRegs.refl avsWords s).set_dev.putBit (by decide)).raise (by decide)).avsLimit⟩
  · rw [bit_avsLimit_busErr, bit_raise_ne _ (by decide), bit_putBit_same _ _ _ (by decide)]
  · exact pends_avsLimit_mono (pends_raise _ (k := .dv) (i := 0) (by decide) (by decide) (by decide))
  · rw [get_avsLimit_vreq, get_raise_ne _ (by decide), get_putBit_apart _ (by decide), get_set_dev]

/-- With the fault standing, v is the voltage last acknowledged; what the reading has not given yet stays (log entry 120). -/
theorem avsEnd_third_dev {s : State} {v : Nat} (mv : Nat) (hf : s.dev.avsFlight = some v) (hu : s.dev.avsUnacked = 2) :
    (avsEnd false mv s).dev = { s.dev with
      avsV := if s.dev.avsReading then s.dev.avsV else s.get pgDV F.DV_AVS_STATUS_VREQ, avsUnacked := 3, avsFlight := none } := by
  rw [avsEnd_third hf hu, avsLimit_dev, raise_dev, putBit_dev]

/-- After a bus fault an interval asks the regulator for nothing: the controller stays as it is, and messages of AVS_AT_LIMIT are
all that may be sent. -/
theorem avsLoop_after_busErr {s : State} (hb : s.bit pgDV F.DV_AVS_STATUS_BUSERR = true) :
    (avsLoop s).dev = s.dev ∧ (avsLoop s).get pgDV F.DV_AVS_STATUS_VREQ = s.get pgDV F.DV_AVS_STATUS_VREQ ∧
      OnlyMessages s (avsLoop s) ∧ OnlyRegs avsWords s (avsLoop s) := by
  rw [avsLoop_busErr hb]
  split
  · exact ⟨avsLimit_dev s, get_avsLimit_vreq s, onlyMessages_avsLimit s, (OnlyRegs.refl _ s).avsLimit⟩
  · exact ⟨rfl, rfl, .of_out_eq rfl, OnlyRegs.refl _ s⟩

/-- Settles O9: each clause is the equation of one branch of the loop, of the end of a transaction or of the write of DV_AVS_CTRL,
read through the laws of the judgement of AVS_AT_LIMIT. -/
theorem avsTransactions : Obligations.AvsTransactions := by
  unfold Obligations.AvsTransactions
  refine ⟨?limit, ?reading, ?acknowledged, ?unacknowledged, ?readAgain, ?busFault, ?afterFault, ?disabled⟩
  case limit =>
    intro s he hb hf hr
    refine ⟨_, exec_avsLoop s, ?_⟩
    rw [avsLoop_running he hb hr, raw_avsLimit, avsLimit_dev, avsStep_avsV]
    refine ⟨rfl, avsAtLimit_avsStep he hr, fun hl h0 => pends_avsLimit hl ?_, fun h => (avsStep_silent h).trans hf, fun h => ?_,
      (onlyRegs_avsStep _ s).avsLimit⟩
    · rwa [State.raw, reg_congr (avsStep_regs s)]
    · obtain ⟨hflight, hout⟩ := avsStep_sends h hf
      exact ⟨hflight, mem_out_avsLimit hout⟩
  case reading =>
    intro s mv v hf hr
    obtain ⟨hget, honly⟩ := avsEnd_acked_shows hf (mv := mv.toNat) (by rw [hr]; exact mv.isLt)
    have hdev := avsEnd_acked_dev hf mv.toNat
    simp only [hr, if_true] at hget hdev
    exact ⟨_, exec_avsTransactionEnd true mv s, hget, by rw [hdev], by rw [hdev], by rw [hdev], by rw [hdev], honly⟩
  case acknowledged =>
    intro s mv v hf hr hlt
    obtain ⟨hget, honly⟩ := avsEnd_acked_shows hf (mv := mv.toNat) (by rw [hr]; exact hlt)
    have hdev := avsEnd_acked_dev hf mv.toNat
    simp only [hr, Bool.false_eq_true, if_false] at hget hdev
    exact ⟨_, exec_avsTransactionEnd true mv s, hget, by rw [hdev], by rw [hdev], by rw [hdev], honly⟩
  case unacknowledged =>
    intro s mv v hf hu
    refine ⟨_, exec_avsTransactionEnd false mv s, ?_⟩
    rw [avsEnd_unacked hf hu]
    exact ⟨rfl, rfl, rfl, rfl, rfl, (OnlyRegs.refl [] s).set_dev⟩
  case readAgain =>
    intro s he hb hf hr
    refine ⟨_, exec_avsLoop s, ?_⟩
    rw [avsLoop_reading he hb hf hr]
    exact ⟨rfl, rfl, hr, (OnlyRegs.refl [] s).set_dev.emit _⟩
  case busFault =>
    intro s mv v hf hu
    obtain ⟨hbit, hpend, hget, honly⟩ := avsEnd_busFault mv.toNat hf hu
    have hdev := avsEnd_third_dev mv.toNat hf hu
    exact ⟨_, exec_avsTransactionEnd false mv s, hbit, hpend, hget, by rw [hdev], fun hr => by simp [hdev, hr], honly⟩
  case afterFault =>
    intro s hb
    obtain ⟨hdev, hget, hsent, honly⟩ := avsLoop_after_busErr hb
    refine ⟨_, exec_avsLoop s, hdev, hget, fun o ho hnew => ?_, honly⟩
    obtain ⟨fn, v, rfl⟩ := (hsent o ho).resolve_left hnew
    rfl
  case disabled =>
    intro s fn w hreach he
    refine ⟨regWrite fn.val (pgDV + 0x148) w s, ?_, fun h => ?_⟩
    · exact congrArg (fun u => Host.Outcome.next (regWrite fn.val (pgDV + 0x148) w u)) s.at_zero
    · rw [regWrite_avsCtrl hreach, he] at h ⊢
      exact avsCtrlAct_disables h

end Sys2Proof.Machine
end

section
/-! PROOF. A refused WRITE on the key table (R98, R99): what the window's data and the mask of the table show of a field, when a key
WRITE is refused, what the refusal leaves, and from these the two clauses of O21. -/

namespace Sys2Proof.Machine

/-! ### The words of an entry -/

theorem ew_lt (e : Entry) (i : Nat) : ew e i < 2 ^ 32 := Nat.mod_lt _ (Nat.two_pow_pos 32)

theorem ew_ewPut_same (e : Entry) {i : Nat} (v : Nat) (h : i < 16) : ew (ewPut e i v) i = v % 2 ^ 32 :=
  eget_eput_same e (f := ⟨i, 31, 0⟩) (by dsimp only; omega)

theorem ew_ewPut_ne (e : Entry) {i j : Nat} (v : Nat) (h : i < 16) (hj : j ≠ i) : ew (ewPut e i v) j = ew e j :=
  eget_eput_apart e (f := ⟨i, 31, 0⟩) (g := ⟨j, 31, 0⟩) (by dsimp only; omega)

/-- A field that lies in one word of an entry is that field of the word. -/
theorem eget_eq_ew (e : Entry) {f : TF} (h : f.lo ≤ f.hi ∧ f.hi < 32) :
    eget e f = ew e f.word / 2 ^ f.lo % 2 ^ (f.hi - f.lo + 1) := by
  have hcut := field_of_mod (Nat.mod_mod (e.toNat / 2 ^ (32 * f.word)) (2 ^ 32)) (lo := f.lo) (w := f.hi - f.lo + 1) (by omega)
  rw [Nat.div_div_eq_div_mul, ← Nat.pow_add] at hcut
  exact hcut.symm

theorem eget_congr_ew {e e' : Entry} {f : TF} (h : f.lo ≤ f.hi ∧ f.hi < 32) (he : ew e f.word = ew e' f.word) :
    eget e f = eget e' f := by
  rw [eget_eq_ew e h, eget_eq_ew e' h, he]

/-- After a fold that writes words, word `j` reads `c` if every write of it wrote `c` and one did, or it held `c` before. -/
theorem ew_foldl_ewPut {β : Type} {ι v : β → Nat} {j c : Nat} (l : List β) (e : Entry) (hι : ∀ x ∈ l, ι x < 16)
    (hv : ∀ x ∈ l, ι x = j → v x % 2 ^ 32 = c) (h : j ∈ l.map ι ∨ ew e j = c) :
    ew (l.foldl (fun e x => ewPut e (ι x) (v x)) e) j = c := by
  induction l generalizing e with
  | nil => simpa using h
  | cons x r ih =>
    rw [List.forall_mem_cons] at hι hv
    refine ih _ hι.2 hv.2 ?_
    by_cases hx : ι x = j
    · right
      rw [← hv.1 hx, ← hx, ew_ewPut_same _ _ hι.1]
    · rw [ew_ewPut_ne _ _ hι.1 (Ne.symm hx)]
      exact h.imp_left fun hm => (List.mem_cons.1 hm).resolve_left (Ne.symm hx)

theorem foldl_ewPut_congr {v w : Nat → Nat} {l : List Nat} (e : Entry) (h : ∀ i ∈ l, v i = w i) :
    l.foldl (fun e i => ewPut e i (v i)) e = l.foldl (fun e i => ewPut e i (w i)) e := by
  induction l generalizing e with
  | nil => rfl
  | cons i r ih =>
    rw [List.forall_mem_cons] at h
    rw [List.foldl_cons, List.foldl_cons, h.1]
    exact ih _ h.2

/-- A mask cuts each word on its own. -/
theorem ew_maskWords {l : List Nat} (e : Entry) {i : Nat} (hl : l.length ≤ 16) (hi : i < l.length) :
    ew (maskWords l e) i = ew e i &&& l[i] := by
  refine ew_foldl_ewPut (ι := Prod.snd) (v := fun p => ew e p.2 &&& p.1) l.zipIdx 0 ?_ ?_ (.inl ?_)
  · rintro ⟨m, k⟩ hp
    have hk := (List.mem_zipIdx hp).2.1
    dsimp only
    omega
  · rintro ⟨m, k⟩ hp rfl
    obtain ⟨-, -, hm⟩ := List.mem_zipIdx hp
    show (ew e k &&& m) % 2 ^ 32 = ew e k &&& l[k]
    rw [show l[k] = m from hm.symm]
    exact Nat.mod_eq_of_lt (Nat.lt_of_le_of_lt Nat.and_le_left (ew_lt e k))
  · simpa using hi

/-- A field that lies inside the mask reads the same through it. -/
theorem eget_maskWords {l : List Nat} (e : Entry) {f : TF} (hl : l.length ≤ 16) (hi : f.word < l.length)
    (hf : f.lo ≤ f.hi ∧ f.hi < 32) (hm : l[f.word] / 2 ^ f.lo % 2 ^ (f.hi - f.lo + 1) = 2 ^ (f.hi - f.lo + 1) - 1) :
    eget (maskWords l e) f = eget e f := by
  rw [eget_eq_ew _ hf, eget_eq_ew _ hf, ew_maskWords e hl hi, Nat.and_div_two_pow, Nat.and_mod_two_pow, hm,
    Nat.and_two_pow_sub_one_eq_mod, Nat.mod_mod]

/-! ### The window -/

/-- TBL_DATA as an entry: word `i` is the register's. -/
theorem ew_winData (s : State) (pg : Nat) {i : Nat} (h : i < 16) : ew (s.winData pg) i = s.get pg (F.TBL_DATA_DATA.ix i) := by
  refine ew_foldl_ewPut (ι := id) (v := fun i => s.get pg (F.TBL_DATA_DATA.ix i)) (List.range 16) 0
    (fun _ hx => List.mem_range.1 hx) ?_ (.inl (by simpa using h))
  rintro _ - rfl
  exact Nat.mod_eq_of_lt (get_lt s pg _)

theorem winData_congr {s t : State} {pg : Nat} (h : ∀ i, i < 16 → t.get pg (F.TBL_DATA_DATA.ix i) = s.get pg (F.TBL_DATA_DATA.ix i)) :
    t.winData pg = s.winData pg :=
  foldl_ewPut_congr 0 fun i hi => h i (List.mem_range.1 hi)

theorem get_put_off_ne (s : State) {pg v : Nat} {f g : Fld} (h : g.off ≠ f.off) : (s.put pg f v).get pg g = s.get pg g :=
  get_put_ne s fun e => h (Nat.add_left_cancel e)

/-- TBL_DATA after a write of one of its words. -/
theorem ew_winData_put_same (s : State) (pg v : Nat) {i : Nat} (h : i < 16) :
    ew ((s.put pg (F.TBL_DATA_DATA.ix i) v).winData pg) i = v % 2 ^ 32 := by
  rw [ew_winData _ _ h, get_put_same _ _ _ ⟨Nat.zero_le _, (by decide : 31 < 32)⟩]
  rfl

theorem ew_winData_put_ne (s : State) (pg v : Nat) {i j : Nat} (hj : j < 16) (h : j ≠ i) :
    ew ((s.put pg (F.TBL_DATA_DATA.ix i) v).winData pg) j = ew (s.winData pg) j := by
  rw [ew_winData _ _ hj, ew_winData _ _ hj, get_put_off_ne]
  simp only [ix_off, F.TBL_DATA_DATA]
  omega

theorem fld_op (w : Nat) {op : Nat} (h : op < 16) : fld (w / 16 * 16 + op) 3 0 = op := by
  simp only [fld]
  omega

/-- The state once a write of TBL_CMD has stored its fields. -/
def State.cmdPut (s : State) (pg w : Nat) : State :=
  ((s.put pg F.TBL_CMD_CWORD (fld w 23 20)).put pg F.TBL_CMD_BYKEY (fld w 16 16)).put pg F.TBL_CMD_OP (fld w 3 0)

theorem tblCommand_eq_tblRun (k : PKind) (n pg : Nat) {w : Nat} (s : State) (h : fld w 3 0 ≠ 0) :
    tblCommand k n pg w s = tblRun k n pg (fld w 3 0) (fld w 23 20) (fld w 16 16 == 1) (s.cmdPut pg w) := if_neg h

theorem get_cmdPut_ne (s : State) (pg w : Nat) {f : Fld} (h : f.off ≠ 0x044) : (s.cmdPut pg w).get pg f = s.get pg f := by
  unfold State.cmdPut
  rw [get_put_off_ne _ h, get_put_off_ne _ h, get_put_off_ne _ h]

@[simp] theorem cmdPut_pes (s : State) (pg w : Nat) : (s.cmdPut pg w).pes = s.pes := by simp [State.cmdPut]
@[simp] theorem cmdPut_tabs (s : State) (pg w : Nat) : (s.cmdPut pg w).tabs = s.tabs := by simp [State.cmdPut]
@[simp] theorem cmdPut_keys (s : State) (pg w : Nat) : (s.cmdPut pg w).keys = s.keys := by simp [State.cmdPut]

theorem winData_cmdPut (s : State) (pg w : Nat) : (s.cmdPut pg w).winData pg = s.winData pg :=
  winData_congr fun _ _ => get_cmdPut_ne s pg w (by simp only [ix_off, F.TBL_DATA_DATA]; omega)

theorem OnlyRegs.cmdPut {as : List Nat} {a b : State} (h : OnlyRegs as a b) {pg w : Nat} (hx : pg + 0x044 ∈ as) :
    OnlyRegs as a (b.cmdPut pg w) := ((h.put hx).put hx).put hx

/-- The end of a command is what TBL_STAT then shows. -/
theorem tblEnds_tblEnd (s : State) (pg : Nat) {code idx : Nat} (hc : code < 16) (hi : idx < 2 ^ 24) :
    (tblEnd pg code idx s).tblEnds pg code idx := by
  unfold tblEnd
  constructor
  · rw [get_put_apart _ (by decide), get_put_same _ _ _ (by decide)]
    exact Nat.mod_eq_of_lt hc
  · rw [get_put_same _ _ _ (by decide)]
    exact Nat.mod_eq_of_lt hi

theorem reg_tblEnd_ne (s : State) {pg code idx a : Nat} (h : a ≠ pg + 0x048) : (tblEnd pg code idx s).reg a = s.reg a := by
  unfold tblEnd
  rw [reg_put_ne _ h, reg_put_ne _ h, reg_putBit_ne _ h, reg_putBit_ne _ h]

@[simp] theorem tblEnd_keys (pg code idx : Nat) (s : State) : (tblEnd pg code idx s).keys = s.keys := by simp [tblEnd]

theorem OnlyRegs.tblEnd {as : List Nat} {a b : State} (h : OnlyRegs as a b) {pg code idx : Nat} (hx : pg + 0x048 ∈ as) :
    OnlyRegs as a (tblEnd pg code idx b) := (((h.putBit hx).putBit hx).put hx).put hx

/-- WRITE of an index that the table has. -/
theorem tblRun_write {k : PKind} {n pg cw : Nat} {byKey : Bool} {s : State} {t : Tab}
    (htab : tabOf k (s.get pg F.TBL_ADDR_TID) = some t) (hop : 2 ∈ t.ops)
    (hrow : t.first ≤ s.get pg F.TBL_ADDR_INDEX ∧ s.get pg F.TBL_ADDR_INDEX < t.size) :
    tblRun k n pg 2 cw byKey s = tblWrite k n pg (s.get pg F.TBL_ADDR_TID) (s.get pg F.TBL_ADDR_INDEX) t s := by
  have hin : ¬(t.size ≤ s.get pg F.TBL_ADDR_INDEX ∨ s.get pg F.TBL_ADDR_INDEX < t.first) := by omega
  simp [tblRun, htab, hop, hin]

/-- A WRITE denied on an array outside the configuration, which has no key to check and no lock to deny it first. -/
theorem tblWrite_denied {k : PKind} {n pg tid i : Nat} {t : Tab} {s s' : State} (hkey : t.key = 0) (hcfg : t.config = false)
    (h : tabWrite k n (tabPage k pg) tid i t (maskWords t.mask (s.winData pg)) s = (7, s')) :
    tblWrite k n pg tid i t s = tblEnd pg 7 i s' := by
  simp [tblWrite, State.tblDenied, tblChanged, hkey, hcfg, h]

/-! ### A refused WRITE of a key -/

/-- The table of the keys (R98): table 0 of PE page 3. -/
def keyTab : Tab :=
  { size := 513, words := 7, ops := [1, 2, 4], mask := [w32, w32, w32, w32, 0xC0000000, w32, 0x7FFFF], config := false }

theorem tabOf_keyTab : tabOf (.pe 3) 0 = some keyTab := rfl

theorem tabWrite_keys (n pg c : Nat) (t : Tab) (d : Entry) (s : State) : tabWrite (.pe 3) n pg 0 c t d s = keyWrite n c d s := rfl

/-- R99: what refuses the WRITE of the data `d` on the key entry of context `c`. -/
def KeyRefused (s : State) (n c : Nat) (d : Entry) : Prop :=
  (eget d kLOAD = 1 ∧ eget (s.keyEnt n c) kPEND = 1) ∨ (eget d kSCHED = 1 ∧ swSfc d % 8 ≠ 0) ∨
    (eget d kSCHED = 1 ∧ (sfcDiff (swSfc d) (s.pe n).unsel < 2 ∨ 2 ^ 31 < sfcDiff (swSfc d) (s.pe n).unsel)) ∨
    (eget d kSCHED = 1 ∧ eget (s.keyEnt n c) kNEXT = 0 ∧ eget d kLOAD = 0)

/-- SW_SFC is word 5 with the 19 bits of word 6 above it. -/
theorem swSfc_eq (e : Entry) : swSfc e = ew e 5 + eget e ⟨6, 18, 0⟩ * 2 ^ 32 := by
  have h5 := ew_lt e 5
  have h6 : eget e ⟨6, 18, 0⟩ = ew e 6 % 2 ^ 19 := by
    rw [eget_eq_ew e (by decide)]
    simp only [Nat.pow_zero, Nat.div_one, Nat.sub_zero]
  have hsw : swSfc e = (ew e 5 + ew e 6 * 2 ^ 32) % 2 ^ 51 := rfl
  omega

theorem keyEnt_congr {s t : State} (h : t.tabs = s.tabs) (n c : Nat) : t.keyEnt n c = s.keyEnt n c := ent_congr h ..

theorem pe_congr {s t : State} (h : t.pes = s.pes) (n : Nat) : t.pe n = s.pe n := by unfold State.pe; rw [h]

/-- The refusal turns on LOAD, SCHED and SW_SFC of the data, on the key entry and on the frames of the port. -/
theorem KeyRefused.congr {s t : State} {n c : Nat} {d d' : Entry} (h : KeyRefused s n c d) (htabs : t.tabs = s.tabs)
    (hpes : t.pes = s.pes) (hload : eget d' kLOAD = eget d kLOAD) (hsched : eget d' kSCHED = eget d kSCHED)
    (hsw : swSfc d' = swSfc d) : KeyRefused t n c d' := by
  unfold KeyRefused
  rwa [hload, hsched, hsw, keyEnt_congr htabs, pe_congr hpes]

/-- The mask of the table shows all that the refusal turns on. -/
theorem KeyRefused.mask {s : State} {n c : Nat} {d : Entry} (h : KeyRefused s n c d) :
    KeyRefused s n c (maskWords keyTab.mask d) := by
  refine h.congr rfl rfl ?_ ?_ ?_
  · exact eget_maskWords d (by decide) (by decide) (by decide) (by decide)
  · exact eget_maskWords d (by decide) (by decide) (by decide) (by decide)
  · have h5 : ew (maskWords keyTab.mask d) 5 = ew d 5 :=
      eget_maskWords d (f := ⟨5, 31, 0⟩) (by decide) (by decide) (by decide) (by decide)
    have h6 : eget (maskWords keyTab.mask d) ⟨6, 18, 0⟩ = eget d ⟨6, 18, 0⟩ :=
      eget_maskWords d (by decide) (by decide) (by decide) (by decide)
    rw [swSfc_eq, swSfc_eq, h5, h6]

theorem keyWrite_refused {s : State} {n c : Nat} {d : Entry} (h : KeyRefused s n c d) :
    keyWrite n c d s = (7, s.cfgRej (pgPE n 3)) := by
  refine if_pos ?_
  simp only [Bool.or_eq_true, Bool.and_eq_true, beq_iff_eq, bne_iff_ne, decide_eq_true_eq, Bool.not_eq_true']
  rcases h with hload | ⟨hs, hb⟩ | ⟨hs, hnear | hfar⟩ | ⟨hs, hn, hl⟩
  · exact .inl hload
  · exact .inr ⟨hs, .inl (.inl (.inl hb))⟩
  · exact .inr ⟨hs, .inl (.inl (.inr hnear))⟩
  · exact .inr ⟨hs, .inl (.inr hfar)⟩
  · exact .inr ⟨hs, .inr ⟨hn, by rw [hl]; rfl⟩⟩

/-- The state that a refused WRITE of the key of context `c` leaves, after the write `w` of TBL_CMD. -/
def State.keyDenied (s : State) (n c w : Nat) : State := tblEnd (pgPE n 3) 7 c ((s.cmdPut (pgPE n 3) w).cfgRej (pgPE n 3))

/-- A write of TBL_CMD with WRITE, the window at the key of context `c` and its data refused. -/
theorem tblCommand_keyRefused {s : State} {n c w : Nat} (hop : fld w 3 0 = 2) (htid : s.get (pgPE n 3) F.TBL_ADDR_TID = 0)
    (hidx : s.get (pgPE n 3) F.TBL_ADDR_INDEX = c) (hc : c ≤ 512) (h : KeyRefused s n c (s.winData (pgPE n 3))) :
    tblCommand (.pe 3) n (pgPE n 3) w s = s.keyDenied n c w := by
  have hbad : KeyRefused (s.cmdPut (pgPE n 3) w) n c ((s.cmdPut (pgPE n 3) w).winData (pgPE n 3)) :=
    h.congr (by simp) (by simp) (by rw [winData_cmdPut]) (by rw [winData_cmdPut]) (by rw [winData_cmdPut])
  have htid' : (s.cmdPut (pgPE n 3) w).get (pgPE n 3) F.TBL_ADDR_TID = 0 := (get_cmdPut_ne s _ w (by decide)).trans htid
  have hidx' : (s.cmdPut (pgPE n 3) w).get (pgPE n 3) F.TBL_ADDR_INDEX = c := (get_cmdPut_ne s _ w (by decide)).trans hidx
  have hrow : keyTab.first ≤ c ∧ c < keyTab.size := ⟨Nat.zero_le c, Nat.lt_succ_of_le hc⟩
  rw [tblCommand_eq_tblRun _ _ _ _ (by omega), hop,
    tblRun_write (by rw [htid']; exact tabOf_keyTab) (by decide) (by rwa [hidx']), htid', hidx']
  exact tblWrite_denied rfl rfl ((tabWrite_keys ..).trans (keyWrite_refused hbad.mask))

/-- R99: a refused WRITE ends with DENIED, sets CFG_REJ and changes nothing. -/
theorem keyDenied_leaves (s : State) (n w : Nat) {c : Nat} (hc : c ≤ 512) :
    (s.keyDenied n c w).tblEnds (pgPE n 3) 7 c ∧ (s.keyDenied n c w).bit (pgPE n 3) F.ST_CFG_REJ = true ∧
      (s.keyDenied n c w).keys = s.keys ∧
      OnlyRegs [pgPE n 3 + 0x00C, pgPE n 3 + 0x044, pgPE n 3 + 0x048] s (s.keyDenied n c w) := by
  unfold State.keyDenied State.cfgRej
  refine ⟨tblEnds_tblEnd _ _ (by decide) (by omega), ?_, by simp, (((OnlyRegs.refl _ s).cmdPut ?_).putBit ?_).tblEnd ?_⟩
  · rw [bit_congr_reg (reg_tblEnd_ne _ (by simp [F.ST_CFG_REJ])), bit_putBit_same _ _ _ (by decide)]
  · simp
  · simp [F.ST_CFG_REJ]
  · simp

/-! ### The data of KEY_SCHED -/

/-- The state once a command of the keys has turned the window to them and set `bit` of word 4 in its data (R98). -/
def State.keyStaged (s : State) (n bit : Nat) : State :=
  let s1 := s.put (pgPE n 3) F.TBL_ADDR_TID 0
  let d := s1.get (pgPE n 3) (F.TBL_DATA_DATA.ix 4)
  s1.put (pgPE n 3) (F.TBL_DATA_DATA.ix 4) (if d.testBit bit then d else d + 2 ^ bit)

theorem keyCmd_reaches {s : State} {fn n : Nat} (h : Reaches s fn (pgPE n 3 + 0x044) (.pe 3) n) (bit : Nat) (w : Word) :
    keyCmd fn n bit w s = tblCommand (.pe 3) n (pgPE n 3) (w.toNat / 16 * 16 + 2) (s.keyStaged n bit) := access_reaches h _

theorem get_keyStaged_tid (s : State) (n bit : Nat) : (s.keyStaged n bit).get (pgPE n 3) F.TBL_ADDR_TID = 0 := by
  unfold State.keyStaged
  rw [get_put_off_ne _ (by decide), get_put_same _ _ _ (by decide)]
  rfl

theorem get_keyStaged_index (s : State) (n bit : Nat) :
    (s.keyStaged n bit).get (pgPE n 3) F.TBL_ADDR_INDEX = s.get (pgPE n 3) F.TBL_ADDR_INDEX := by
  unfold State.keyStaged
  rw [get_put_off_ne _ (by decide), get_put_apart _ (by decide)]

@[simp] theorem keyStaged_pes (s : State) (n bit : Nat) : (s.keyStaged n bit).pes = s.pes := by simp [State.keyStaged]
@[simp] theorem keyStaged_tabs (s : State) (n bit : Nat) : (s.keyStaged n bit).tabs = s.tabs := by simp [State.keyStaged]
@[simp] theorem keyStaged_keys (s : State) (n bit : Nat) : (s.keyStaged n bit).keys = s.keys := by simp [State.keyStaged]

theorem OnlyRegs.keyStaged {as : List Nat} {a b : State} (h : OnlyRegs as a b) {n bit : Nat} (haddr : pgPE n 3 + 0x040 ∈ as)
    (hdata : pgPE n 3 + 0x090 ∈ as) : OnlyRegs as a (b.keyStaged n bit) := (h.put haddr).put hdata

/-- The words of the data other than word 4 are the window's. -/
theorem ew_winData_keyStaged_ne (s : State) (n bit : Nat) {j : Nat} (hj : j < 16) (h : j ≠ 4) :
    ew ((s.keyStaged n bit).winData (pgPE n 3)) j = ew (s.winData (pgPE n 3)) j := by
  unfold State.keyStaged
  rw [ew_winData_put_ne _ _ _ hj h, ew_winData _ _ hj, ew_winData _ _ hj, get_put_off_ne]
  simp only [ix_off, F.TBL_DATA_DATA, F.TBL_ADDR_TID]
  omega

/-- Word 4 of the data has the bit of the command. -/
theorem ew_winData_keyStaged_four (s : State) (n bit : Nat) :
    ew ((s.keyStaged n bit).winData (pgPE n 3)) 4 = (if (ew (s.winData (pgPE n 3)) 4).testBit bit then ew (s.winData (pgPE n 3)) 4
      else ew (s.winData (pgPE n 3)) 4 + 2 ^ bit) % 2 ^ 32 := by
  have hget : (s.put (pgPE n 3) F.TBL_ADDR_TID 0).get (pgPE n 3) (F.TBL_DATA_DATA.ix 4) = ew (s.winData (pgPE n 3)) 4 := by
    rw [get_put_off_ne _ (by decide), ew_winData _ _ (by decide)]
  unfold State.keyStaged
  rw [ew_winData_put_same _ _ _ (by decide), hget]

/-- Setting bit 30 of a word sets it and leaves bit 31. -/
theorem setBit30_bits {d v : Nat} (hd : d < 2 ^ 32) (hv : v = (if d.testBit 30 then d else d + 2 ^ 30) % 2 ^ 32) :
    v / 2 ^ 30 % 2 = 1 ∧ v / 2 ^ 31 % 2 = d / 2 ^ 31 % 2 := by
  simp only [Nat.testBit_eq_decide_div_mod_eq, decide_eq_true_eq] at hv
  split at hv <;> omega

/-- KEY_SCHED's data has SCHED, and LOAD and SW_SFC as the window holds them. -/
theorem keyStaged_sched_data (s : State) (n : Nat) :
    eget ((s.keyStaged n 30).winData (pgPE n 3)) kSCHED = 1 ∧
      eget ((s.keyStaged n 30).winData (pgPE n 3)) kLOAD = eget (s.winData (pgPE n 3)) kLOAD ∧
      swSfc ((s.keyStaged n 30).winData (pgPE n 3)) = swSfc (s.winData (pgPE n 3)) := by
  obtain ⟨hset, hload⟩ := setBit30_bits (ew_lt _ 4) (ew_winData_keyStaged_four s n 30)
  refine ⟨?_, ?_, ?_⟩
  · rw [eget_eq_ew _ (by decide)]
    exact hset
  · rw [eget_eq_ew _ (by decide), eget_eq_ew _ (by decide)]
    exact hload
  · have h5 := ew_winData_keyStaged_ne s n 30 (j := 5) (by decide) (by decide)
    have h6 := eget_congr_ew (f := ⟨6, 18, 0⟩) (by decide) (ew_winData_keyStaged_ne s n 30 (j := 6) (by decide) (by decide))
    rw [swSfc_eq, swSfc_eq, h5, h6]

/-- What refuses KEY_SCHED: a frame that SCHED cannot name, or no key to switch to. -/
theorem keyRefused_keyStaged {s : State} {n c : Nat} (hload : eget (s.winData (pgPE n 3)) kLOAD = 0)
    (h : swSfc (s.winData (pgPE n 3)) % 8 ≠ 0 ∨ sfcDiff (swSfc (s.winData (pgPE n 3))) (s.pe n).unsel < 2 ∨
      2 ^ 31 < sfcDiff (swSfc (s.winData (pgPE n 3))) (s.pe n).unsel ∨ eget (s.keyEnt n c) kNEXT = 0) :
    KeyRefused (s.keyStaged n 30) n c ((s.keyStaged n 30).winData (pgPE n 3)) := by
  obtain ⟨hsched, hload', hsw⟩ := keyStaged_sched_data s n
  unfold KeyRefused
  rw [hsched, hload', hload, hsw, keyEnt_congr (keyStaged_tabs ..), pe_congr (keyStaged_pes ..)]
  rcases h with hb | hnear | hfar | hn
  · exact .inr (.inl ⟨rfl, hb⟩)
  · exact .inr (.inr (.inl ⟨rfl, .inl hnear⟩))
  · exact .inr (.inr (.inl ⟨rfl, .inr hfar⟩))
  · exact .inr (.inr (.inr ⟨rfl, hn, rfl⟩))

/-! ### The clauses of O21 -/

theorem ite_eq_cases {α : Type} {P : Prop} [Decidable P] {a b c : α} : (if P then a else b) = c ↔ P ∧ a = c ∨ ¬P ∧ b = c := by
  by_cases h : P
  · simp only [h, if_true, true_and, not_true_eq_false, false_and, or_false]
  · simp only [h, if_false, false_and, not_false_eq_true, true_and, false_or]

/-- The pages of the port engines (R46). -/
theorem pageNo_pe {p q n : Nat} (h : pageNo p = some (.pe q, n)) : 0x100 ≤ p ∧ q = p % 16 ∧ n = (p - 0x100) / 16 := by
  simp only [pageNo, ite_eq_cases, Option.some.injEq, Prod.mk.injEq, PKind.pe.injEq, reduceCtorEq, false_and, and_false, false_or,
    or_false] at h
  omega

/-- The page of the keys of port `n`, from its address in BAR0 (R46). -/
theorem pageBase_eq_pgPE {p : BitVec 12} {n : Nat} (h : pageOf (pageBase p + 0x044) = some (.pe 3, n)) :
    pageBase p = pgPE n 3 := by
  obtain ⟨hlow, hpage, hport⟩ := pageNo_pe h
  unfold pageBase pgPE at *
  omega

/-- Settles O21: both commands run the WRITE of the key table, KEY_SCHED with the window turned to it and SCHED set, and the WRITE
is refused as R99 says. -/
theorem keyWriteRefused : Obligations.KeyWriteRefused := by
  unfold Obligations.KeyWriteRefused
  refine ⟨?tblWrite, ?keySched⟩
  case tblWrite =>
    intro s fn p w n c hreach htid hidx hc _ hbad
    have hpage := pageBase_eq_pgPE hreach.1
    have hexec : exec (.tblWrite fn p w) s = .next (tblCommand (.pe 3) n (pageBase p) (w.toNat / 16 * 16 + 2) s) :=
      congrArg Host.Outcome.next (access_reaches hreach _)
    rw [hpage] at htid hidx hbad hexec ⊢
    rw [tblCommand_keyRefused (fld_op _ (by decide)) htid hidx hc hbad] at hexec
    exact ⟨_, hexec, keyDenied_leaves s n _ hc⟩
  case keySched =>
    intro s fn n w c hreach hidx hc _ _ hload hbad
    have hexec : exec (.keySched fn n w) s = .next (keyCmd fn.val n.val 30 w s) := rfl
    rw [keyCmd_reaches hreach, tblCommand_keyRefused (fld_op _ (by decide)) (get_keyStaged_tid ..)
      ((get_keyStaged_index ..).trans hidx) hc (keyRefused_keyStaged hload hbad)] at hexec
    obtain ⟨hends, hrej, hkeys, hdenied⟩ := keyDenied_leaves (s.keyStaged n.val 30) n.val (w.toNat / 16 * 16 + 2) hc
    have honly := ((OnlyRegs.refl (winWords (pgPE n.val 3) ++ [pgPE n.val 3 + 0x040]) s).keyStaged (n := n.val) (bit := 30)
      (by simp) (List.mem_append_left _ (by simp [winWords, List.range_succ]))).trans (hdenied.mono (by simp [winWords]))
    exact ⟨_, hexec, hends, hrej, hkeys.trans (keyStaged_keys ..), honly.2.1, honly.1⟩

end Sys2Proof.Machine
end

section
/-! PROOF. The pair key (R480): the write-only words once they are zeroed, which operation a write of SC_PAIR_CMD runs, what LOAD, CLEAR
and a refusal leave, the bellows without a key, and from these the clauses of O55. -/

namespace Sys2Proof.Machine

/-! ### The write-only words of the SC page -/

theorem scWords_congr {s t : State} (h : t.staged = s.staged) (off n : Nat) : t.scWords off n = s.scWords off n := by
  unfold State.scWords
  rw [h]

theorem staged_scZero (s : State) {off n i : Nat} (h : i < n) : sget none (scZero off n s).staged (pgSC + off + 4 * i) = none := by
  unfold scZero
  rw [sget_skeep, if_neg]
  simp only [Bool.not_eq_true', Bool.not_eq_false, Bool.and_eq_true, decide_eq_true_eq]
  omega

/-- Zeroed words give the value 0: each of them adds nothing. -/
theorem scWords_scZero (s : State) (off n : Nat) : (scZero off n s).scWords off n = 0 := by
  unfold State.scWords
  refine List.foldlRecOn (motive := fun v => v = 0) (List.range n) _ rfl fun v hv i hi => ?_
  rw [hv, staged_scZero s (List.mem_range.1 hi), Option.getD_none, Nat.zero_add]
  exact Nat.zero_mul _

@[simp] theorem scZero_sc (off n : Nat) (s : State) : (scZero off n s).sc = s.sc := rfl

theorem OnlyRegs.scZero {as : List Nat} {a b : State} (h : OnlyRegs as a b) (off n : Nat) : OnlyRegs as a (scZero off n b) :=
  h.set_staged

/-! ### A write of SC_PAIR_CMD -/

theorem scWrite_reaches {s : State} {fn off : Nat} (h : Reaches s fn (pgSC + off) .sc 0) (op : Nat) (w : Word)
    (act : Nat → State → State) : scWrite fn off op w act s = act (op * 2 ^ 28 + w.toNat % 2 ^ 28) s := access_reaches h _

theorem fld_scOp (v : Nat) {op : Nat} (h : op < 16) : fld (op * 2 ^ 28 + v % 2 ^ 28) 31 28 = op := by
  simp only [fld]
  omega

theorem pairCommand_load {v : Nat} (s : State) (h : fld v 31 28 = 1) : pairCommand v s = pairLoad s := by simp [pairCommand, h]

theorem pairCommand_clear {v : Nat} (s : State) (h : fld v 31 28 = 2) : pairCommand v s = pairClear s := by simp [pairCommand, h]

theorem exec_load_reaches {s : State} {fn : Fn} (h : Reaches s fn.val (pgSC + 0x150) .sc 0) (w : Word) :
    exec (.load fn w) s = .next (pairLoad s) :=
  congrArg Host.Outcome.next ((scWrite_reaches h 1 w _).trans (pairCommand_load s (fld_scOp _ (by decide))))

theorem exec_clearPairKey_reaches {s : State} {fn : Fn} (h : Reaches s fn.val (pgSC + 0x150) .sc 0) (w : Word) :
    exec (.clearPairKey fn w) s = .next (pairClear s) :=
  congrArg Host.Outcome.next ((scWrite_reaches h 2 w _).trans (pairCommand_clear s (fld_scOp _ (by decide))))

/-! ### LOAD, CLEAR and their refusal -/

/-- R54: a refused command sets CFG_REJ of its page and leaves the security controller as it is. -/
theorem cfgRej_leaves (s : State) (pg : Nat) :
    (s.cfgRej pg).bit pg F.ST_CFG_REJ = true ∧ (s.cfgRej pg).sc = s.sc ∧ OnlyRegs [pg + 0x00C] s (s.cfgRej pg) :=
  ⟨bit_putBit_same _ _ _ (by decide), putBit_sc .., (OnlyRegs.refl _ s).putBit (List.mem_singleton_self _)⟩

theorem pairLoad_refused {s : State} (h : s.bit pgPX F.PX_CFG_EN = true) : pairLoad s = s.cfgRej pgSC := if_pos h

theorem pairClear_refused {s : State} (h : s.bit pgPX F.PX_CFG_EN = true) : pairClear s = s.cfgRej pgSC := if_pos h

/-- The state after LOAD: the key held, its words zeroed, VALID and KCV shown. -/
theorem pairLoad_accepted {s : State} (h : s.bit pgPX F.PX_CFG_EN = false) :
    pairLoad s = ((scZero 0x130 8 { s with sc := { s.sc with pair := s.scWords 0x130 8 + 1 } }).putBit pgSC F.SC_PAIR_STAT_VALID
      true).put pgSC F.SC_PAIR_KCV_KCV (Config.aesKcv (BitVec.ofNat 256 (s.scWords 0x130 8))).toNat := by
  simp [pairLoad, h]

theorem pairClear_accepted {s : State} (h : s.bit pgPX F.PX_CFG_EN = false) : pairClear s = pairErase s := by simp [pairClear, h]

theorem pairLoad_leaves {s : State} (h : s.bit pgPX F.PX_CFG_EN = false) :
    (pairLoad s).bit pgSC F.SC_PAIR_STAT_VALID = true ∧ (pairLoad s).sc.pair = s.scWords 0x130 8 + 1 ∧
      (pairLoad s).get pgSC F.SC_PAIR_KCV_KCV = (Config.aesKcv (BitVec.ofNat 256 (s.scWords 0x130 8))).toNat ∧
      (pairLoad s).scWords 0x130 8 = 0 ∧ OnlyRegs [pgSC + 0x154, pgSC + 0x158] s (pairLoad s) := by
  rw [pairLoad_accepted h]
  refine ⟨?valid, ?pair, ?kcv, ?zeroed, (((OnlyRegs.refl _ s).set_sc.scZero 0x130 8).putBit ?_).put ?_⟩
  case valid => rw [bit_put_ne _ (by decide), bit_putBit_same _ _ _ (by decide)]
  case pair => rw [put_sc, putBit_sc, scZero_sc]
  case kcv =>
    rw [get_put_same _ _ _ (by decide)]
    exact Nat.mod_eq_of_lt (BitVec.isLt _)
  case zeroed => rw [scWords_congr (put_staged ..), scWords_congr (putBit_staged ..), scWords_scZero]
  · simp [F.SC_PAIR_STAT_VALID]
  · simp [F.SC_PAIR_KCV_KCV]

theorem pairErase_leaves (s : State) :
    (pairErase s).bit pgSC F.SC_PAIR_STAT_VALID = false ∧ (pairErase s).sc.pair = 0 ∧ OnlyRegs [pgSC + 0x154] s (pairErase s) := by
  unfold pairErase
  refine ⟨bit_putBit_same _ _ _ (by decide), ?pair, (OnlyRegs.refl _ s).set_sc.putBit (List.mem_singleton_self _)⟩
  case pair => rw [putBit_sc]

/-! ### The bellows -/

theorem bellows_without_key {s : State} (h : s.bit pgSC F.SC_PAIR_STAT_VALID = false) : s.bellows = false := by
  simp [State.bellows, h]

theorem exec_ckptImage_idle {s : State} (h : s.bellows = false) : exec .ckptImage s = .next s :=
  congrArg Host.Outcome.next (if_neg (Bool.eq_false_iff.1 h))

theorem exec_ckptCommit_idle {s : State} (h : s.bellows = false) : exec .ckptCommit s = .next s :=
  congrArg Host.Outcome.next (if_neg (Bool.eq_false_iff.1 h))

theorem exec_ckptDelta_idle {s : State} (h : s.bellows = false) (excess : Bool) : exec (.ckptDelta excess) s = .next s :=
  congrArg Host.Outcome.next (if_neg (Bool.eq_false_iff.1 h))

/-! ### The clauses of O55 -/

/-- Settles O55: a write that reaches SC_PAIR_CMD runs LOAD or CLEAR, which PX_CFG.EN refuses (R54), and without a valid key the three
commands of the bellows leave the state as it is. -/
theorem pairKey : Obligations.PairKey := by
  unfold Obligations.PairKey
  refine ⟨?load, ?loadRefused, ?clear, ?clearRefused, ?image, ?commit, ?delta⟩
  case load =>
    intro s fn w hreach hdis
    exact ⟨_, exec_load_reaches hreach w, pairLoad_leaves hdis⟩
  case loadRefused =>
    intro s fn w hreach hen
    exact ⟨_, (exec_load_reaches hreach w).trans (congrArg _ (pairLoad_refused hen)), cfgRej_leaves s pgSC⟩
  case clear =>
    intro s fn w hreach hdis
    exact ⟨_, (exec_clearPairKey_reaches hreach w).trans (congrArg _ (pairClear_accepted hdis)), pairErase_leaves s⟩
  case clearRefused =>
    intro s fn w hreach hen
    exact ⟨_, (exec_clearPairKey_reaches hreach w).trans (congrArg _ (pairClear_refused hen)), cfgRej_leaves s pgSC⟩
  case image =>
    intro s hkey
    exact ⟨s, exec_ckptImage_idle (bellows_without_key hkey), rfl, rfl, .refl [] s⟩
  case commit =>
    intro s hkey
    exact ⟨s, exec_ckptCommit_idle (bellows_without_key hkey), rfl, rfl, .refl [] s⟩
  case delta =>
    intro s excess hkey
    exact ⟨s, exec_ckptDelta_idle (bellows_without_key hkey) excess, rfl, rfl, .refl [] s⟩

end Sys2Proof.Machine
end
